-- ==== Sys2Proof/Word.lean ====
section
/-! DEFINITION. The word types of the concentrator and their plainest arithmetic: bytes, 32-bit
register words, two's-complement readings of fields, big-endian splitting and joining (R18). -/

namespace Sys2Proof

/-- One byte of a frame, a character or a flash cell. -/
abbrev Byte := BitVec 8

/-- One 32-bit register, indirect or queue word (R19). -/
abbrev Word := BitVec 32

/-- The unsigned `w`-bit field whose least significant bit is bit `lo` of `v` (R17). -/
def bits (v lo w : Nat) : Nat := v / 2 ^ lo % 2 ^ w

/-- Bit `i` of `v` (R17). -/
def bitOf (v i : Nat) : Bool := v / 2 ^ i % 2 == 1

/-- A Boolean as a one-bit field. -/
def b2n (b : Bool) : Nat := if b then 1 else 0

/-- A `w`-bit field read as a signed two's-complement value. -/
def signedOf (w v : Nat) : Int := if v % 2 ^ w < 2 ^ (w - 1) then (v % 2 ^ w : Nat) else (v % 2 ^ w : Nat) - (2 ^ w : Nat)

/-- A signed value as a `w`-bit two's-complement field. -/
def fieldOf (w : Nat) (z : Int) : Nat := (z % (2 ^ w : Nat)).toNat

/-- Rounded-up division, as the "no less than the full time" rules ask for. -/
def ceilDiv (a b : Nat) : Nat := (a + b - 1) / b

/-- The `n` bytes of `v`, most significant byte first (R18). -/
def beBytes : Nat → Nat → List Byte
  | 0, _ => []
  | n + 1, v => BitVec.ofNat 8 (v / 256 ^ n) :: beBytes n v

/-- The value that a byte string spells, most significant byte first (R18). -/
def beValue (bs : List Byte) : Nat := bs.foldl (fun a b => a * 256 + b.toNat) 0

/-- The value that a byte string spells, least significant byte first. -/
def leValue : List Byte → Nat
  | [] => 0
  | b :: bs => b.toNat + 256 * leValue bs

/-- The `n` bytes of `v`, least significant byte first. -/
def leBytes : Nat → Nat → List Byte
  | 0, _ => []
  | n + 1, v => BitVec.ofNat 8 v :: leBytes n (v / 256)

/-- A byte written as a number. -/
def byte (n : Nat) : Byte := BitVec.ofNat 8 n

/-- A word written as a number. -/
def word (n : Nat) : Word := BitVec.ofNat 32 n

/-- The four bytes of a word, most significant first (R18). -/
def wordBytes (w : Word) : List Byte := beBytes 4 w.toNat

/-- Cut a byte string into words, most significant byte first; a short tail is padded with zeros. -/
def wordsOfBytes : List Byte → List Word
  | [] => []
  | [a] => [word (beValue [a, 0, 0, 0])]
  | [a, b] => [word (beValue [a, b, 0, 0])]
  | [a, b, c] => [word (beValue [a, b, c, 0])]
  | a :: b :: c :: d :: r => word (beValue [a, b, c, d]) :: wordsOfBytes r

end Sys2Proof
end

