-- ==== Sys2Proof/Config.lean ====
section
/-! DEFINITION. What an implementation fixes: the three variants and their resources (Table 0-1,
R717, R718), the silicon's identity, and the free values of the manual. -/

namespace Sys2Proof

/-- The three parts of the family (R1, R7). -/
inductive Variant
  | sx4848
  | sx4824
  | sx4812
  deriving DecidableEq, Repr

/-- A character on SVC_RX as the synchronised input shows it: the LINE cycles after its start edge at which the level
changes. -/
abbrev SvcChar := List Nat

/-- How one transaction on the guard link ends (R212, R214): answered OK; REFUSED; reply CRC failed, the guard having acted;
request CRC failed; hold-off timeout, the guard having acted or not; BUSY. DESIGN CHOICE (assumption 78). -/
inductive GlEnd
  | ok
  | refused
  | replyCrc
  | requestCrc
  | holdOff (acted : Bool)
  | busy
  deriving DecidableEq, Repr

/-- What a transaction comes to with its repeats (R212, R214): how many tries before the last one had a reply CRC that failed
(at most 2), how many hold-off bytes the last one has, and how it ends. -/
structure GlOutcome where
  badReplies : Nat
  hold : Nat
  last : GlEnd
  deriving DecidableEq, Repr

/-- Results of a card exchange (CX_RESULT, Table 6-9). -/
inductive CxResult
  | ok | rxParity | wtExpired | txParity | badProc | removed | disabled | late
  deriving DecidableEq, Repr

/-- The code of a result (Table 6-9). -/
def CxResult.code : CxResult → Nat
  | .ok => 0 | .rxParity => 1 | .wtExpired => 2 | .txParity => 3 | .badProc => 4 | .removed => 5 | .disabled => 6 | .late => 7

/-- The exchange went through (R353, R379). -/
def CxResult.good (r : CxResult) : Bool := r == .ok || r == .rxParity

/-- One exchange of a card script (6.7): `rest` CORE cycles from the response's start edge to the exchange's end, the data bytes
that the card sent, its SW1 and SW2 as far as they came, and the result. DESIGN CHOICE (assumption 67). -/
structure ScriptReply where
  rest : Nat
  data : List Byte
  sw1 : Option Byte
  sw2 : Option Byte
  result : CxResult
  deriving DecidableEq, Repr

/-- How far a guard's own boot has come (R824): it powers up, it runs its GF, or it stays in its ROM recovery loader. -/
inductive GuardBoot
  | powerUp | running | recovery
  deriving DecidableEq, Repr

/-- What a GREAD reads (R211, R213): a line, by its port, with the level of its LRXn (true: the start level); or the guard itself,
LINE 0xFF. -/
inductive GlTarget
  | line (p : Nat) (start : Bool)
  | guard (k : Nat)
  deriving DecidableEq, Repr

/-- What a guard has measured on one line when a shadow refresh reads it (R208): current, voltage, and whether LRXn shows the
start level. -/
structure LineReading where
  iMa : Nat
  v10mv : Nat
  start : Bool
  deriving DecidableEq, Repr

/-- Answered OK at once. -/
def GlOutcome.ok : GlOutcome := ⟨0, 0, .ok⟩

/-- The transaction was answered OK. -/
def GlOutcome.isOk (o : GlOutcome) : Bool := o.last == .ok

namespace Config

/-- DEV_ID of each variant (Table 0-1). -/
def devId : Variant → Nat
  | .sx4848 => 0x4848
  | .sx4824 => 0x4824
  | .sx4812 => 0x4812

/-- Line ports (Table 0-1). -/
def ports : Variant → Nat
  | .sx4848 => 48
  | .sx4824 => 24
  | .sx4812 => 12

/-- KL-08 guards (Table 0-1). -/
def guards : Variant → Nat
  | .sx4848 => 6
  | .sx4824 => 3
  | .sx4812 => 2

/-- Ethernet uplinks (Table 0-1). -/
def uplinks : Variant → Nat
  | .sx4848 => 2
  | .sx4824 => 1
  | .sx4812 => 0

/-- Card ports (Table 0-1). -/
def cards : Variant → Nat
  | .sx4848 => 2
  | .sx4824 => 2
  | .sx4812 => 0

/-- Tenants (Table 0-1). -/
def tenants : Variant → Nat
  | .sx4848 => 128
  | .sx4824 => 64
  | .sx4812 => 32

/-- The SCALE code of R718: 2, 1, 0. -/
def scale : Variant → Nat
  | .sx4848 => 2
  | .sx4824 => 1
  | .sx4812 => 0

/-- Talkers and poll entries (R718). -/
def talkers (v : Variant) : Nat := 768 * 2 ^ scale v

/-- Canopy rules (R718). -/
def rules (v : Variant) : Nat := 1024 * 2 ^ scale v

/-- Understory blocks (R718). -/
def blocks (v : Variant) : Nat := 32768 * 2 ^ scale v

/-- Job slots (R718). -/
def slots (v : Variant) : Nat := 128 * 2 ^ scale v

/-- Scan groups: 64 on every variant (Table 12-13). -/
def groups : Nat := 64

/-- Port-group microengines: one for each guard's eight ports (R717). -/
def pmGroups (v : Variant) : Nat := guards v

/-- The queues present, by index (R749). -/
def queuePresent (v : Variant) (q : Nat) : Bool :=
  decide (q < ports v) || (decide (48 ≤ q) && decide (q < 48 + ports v)) ||
  (decide (96 ≤ q) && decide (q < 96 + tenants v)) || decide (q = 224) || decide (q = 225)

/-- Metal step, base revision and ROM version of the silicon at hand (Table 12-1: "Silicon").
FREE VALUE. -/
opaque step : BitVec 4
/-- Base revision. FREE VALUE. -/
opaque base : BitVec 4
/-- Version of the ROM loaders. FREE VALUE. -/
opaque romVer : BitVec 16

/-- A bit whose value the manual leaves unspecified; the argument is the free counter of State.
FREE VALUE: nothing constrains it. DESIGN CHOICE (assumption 8). -/
opaque freeBit : Nat → Bool

/-- A number whose value the manual leaves unspecified; the argument is the free counter of State.
FREE VALUE: nothing constrains it. -/
opaque freeNat : Nat → Nat

/-- What the signed 8-bit temperature fields of a guard show for a temperature that they cannot hold: the manual compares such
readings (R791) and gives the field no value for them. FREE VALUE. DESIGN CHOICE (assumption 132). -/
opaque offScaleTemp : Int → BitVec 8

/-- What a flash byte that an interrupted operation left unsteady adds at one read: the CORE cycle, the number of the read in
it, and the address (R898, R899). FREE VALUE. -/
opaque unsteadyByte : Nat → Nat → Nat → Byte

/-- SHA-256 of the public key, as fused in OTP (R854). FREE VALUE. -/
opaque otpKeyHash : List Byte

/-- The payload of a journal's seal record, which the manual does not state (R889, R896). FREE VALUE.
DESIGN CHOICE (assumption 83). -/
opaque sealPayload : Nat → Byte

end Config
end Sys2Proof
end

