-- ==== Sys2Proof/Syntax.lean ====
section
/-! DEFINITION. The commands of the block: one constructor per row of the opcode table, in its order. Operands with one
meaning throughout: `dt` CORE cycles of 4 ns that pass before the command acts, where the state does not fix its moment;
`p` a line port; `n` a card port; `k` a guard; `g` a scan group; `e` a poll entry; `t` a tenant; `q` a queue; `u` an uplink;
`src` a source of the Canopy; `o` what a transaction on the guard link comes to; `crc` the CRC byte of a received frame;
`bad` words as they are read from the store, by place, with their 36 bits: those that fail the check of R544 arrive as
POISON. -/

namespace Sys2Proof

/-- The commands. -/
inductive Instr
  /-- POWER_ON_RESET (R800). -/
  | powerOnReset (dt : Nat)
  /-- RESET_N (R801). -/
  | resetN (dt lowNs : Nat)
  /-- PLL_LOSS (R78). -/
  | pllLoss (dt : Nat)
  /-- WATCHDOG_EXPIRY (R804). -/
  | watchdogExpiry (dt : Nat)
  /-- SOFTWARE_RESET (R725). -/
  | softwareReset (dt : Nat) (value : Word)
  /-- SOFTWARE_RESET_START (R726). -/
  | softwareResetStart (wait : Nat)
  /-- RESET_RELEASE (R802). -/
  | resetRelease (dt : Nat) (recoveryN : Bool)
  /-- PLL_LOCK (R76). -/
  | pllLock (dt : Nat)
  /-- FLASH_READY (R814). -/
  | flashReady (dt : Nat)
  /-- CF_START (R813). -/
  | cfStart (dt : Nat) (failing again : List Nat)
  /-- GUARD_WAIT_END (R825). -/
  | guardWaitEnd (dt : Nat)
  /-- RECOVERY_POWER_OFF (R838). -/
  | recoveryPowerOff (dt : Nat)
  /-- GUARD_BOOT (R824). -/
  | guardBoot (dt k ver : Nat) (b : GuardBoot)
  /-- GUARD_VDDIO_LOW (R944). -/
  | guardVddioLow (dt k : Nat)
  /-- SECONDS_CARRY (R88). -/
  | secondsCarry
  /-- TM_OUT_PULSE_END (R120). -/
  | tmOutPulseEnd
  /-- TM_OUT_ENABLE (R118). -/
  | tmOutEnable (dt : Nat)
  /-- TM_OUT_DISABLE (R59). -/
  | tmOutDisable (dt : Nat)
  /-- SET (R94). -/
  | set (dt : Nat)
  /-- STEP (R95). -/
  | step (dt : Nat)
  /-- LOCK_ENABLE (R105). -/
  | lockEnable (dt : Nat)
  /-- LOCK_DISABLE (R107). -/
  | lockDisable (dt : Nat)
  /-- TM_IN_MARK (R104). -/
  | tmInMark (dt : Nat) (falling : Bool) (widthNs : Nat)
  /-- MARK_TIMEOUT (R106). -/
  | markTimeout
  /-- RT_NOW_SEC_READ (R91). -/
  | rtNowSecRead (dt : Nat)
  /-- CHARACTER_RECEIVED (R151). -/
  | characterReceived (p : Nat) (samples : List Bool) (edges : List Nat)
  /-- START_GLITCH (R149). -/
  | startGlitch (dt p : Nat)
  /-- LINE_FORMAT_WRITE (R137). -/
  | lineFormatWrite (dt p : Nat) (ctrl : Bool) (value : Word)
  /-- STAGING_MOVE_DONE (R176). -/
  | stagingMoveDone (dt p : Nat)
  /-- BREAK_DETECTED (R168). -/
  | breakDetected (p : Nat)
  /-- RX_TIMEOUT (R178). -/
  | rxTimeout (p : Nat)
  /-- TX_RECORD_START (R186). -/
  | txRecordStart (dt p : Nat)
  /-- LEAD_END (R186). -/
  | leadEnd (p : Nat)
  /-- TX_CHARACTER_DONE (R140). -/
  | txCharacterDone (p : Nat)
  /-- TX_TAIL_END (R186). -/
  | txTailEnd (p : Nat)
  /-- TX_BREAK (R170). -/
  | txBreak (dt p : Nat)
  /-- BREAK_START (R172). -/
  | breakStart (dt p : Nat)
  /-- BREAK_END (R172). -/
  | breakEnd (p : Nat)
  /-- MARKING_END (R172). -/
  | markingEnd (p : Nat)
  /-- PORT_DISABLE (R192). -/
  | portDisable (dt p : Nat)
  /-- RX_CHARS_READ (R184). -/
  | rxCharsRead (dt p : Nat)
  /-- T35_EXPIRY (R300). -/
  | t35Expiry (p : Nat)
  /-- SENTENCE_TIMEOUT (R285). -/
  | sentenceTimeout (p : Nat)
  /-- MARK_ABANDON (R321). -/
  | markAbandon (p : Nat)
  /-- CARD_INSERT (R350). -/
  | cardInsert (n : Nat)
  /-- CARD_REMOVE (R350). -/
  | cardRemove (dt n : Nat)
  /-- CARD_CLOCK_START (R351). -/
  | cardClockStart (n : Nat)
  /-- CARD_RESET_RELEASE (R351). -/
  | cardResetRelease (n : Nat)
  /-- TS_HUNT_START (R351). -/
  | tsHuntStart (n : Nat)
  /-- ATR_FAIL (R365). -/
  | atrFail (n : Nat)
  /-- CARD_CHARACTER_RECEIVED (R359). -/
  | cardCharacterReceived (dt n : Nat) (samples : List Bool)
  /-- CARD_CHARACTER_SENT (R362). -/
  | cardCharacterSent (n lowFrom lowTo : Nat)
  /-- WT_EXPIRED (R377). -/
  | wtExpired (n : Nat)
  /-- CX_GO (R375). -/
  | cxGo (dt n dir : Nat)
  /-- CARD_RESET (R354). -/
  | cardReset (dt n : Nat)
  /-- DEACT (R353). -/
  | deact (dt n : Nat)
  /-- CARD_DEACTIVATION_END (R352). -/
  | cardDeactivationEnd (n : Nat)
  /-- CP1_ENABLE (R347). -/
  | cp1Enable (dt : Nat)
  /-- CARD_PORT_DISABLE (R349). -/
  | cardPortDisable (dt n : Nat)
  /-- KEYLOAD_SCRIPT (R385). -/
  | keyloadScript (wait : Nat) (r : ScriptReply)
  /-- BADGE_SCRIPT (R388). -/
  | badgeScript (wait : Nat) (r : ScriptReply)
  /-- PERIOD_BOUNDARY (R407). -/
  | periodBoundary (g : Nat)
  /-- TRANSACTION_START (R414). -/
  | transactionStart (dt p : Nat)
  /-- RESPONSE_WINDOW_CLOSE (R416). -/
  | responseWindowClose (dt p : Nat)
  /-- MEASUREMENT_WAIT_END (R423). -/
  | measurementWaitEnd (e : Nat)
  /-- GROUP_ENABLE (R124). -/
  | groupEnable (dt g : Nat)
  /-- GROUP_DISABLE (R408). -/
  | groupDisable (dt g : Nat)
  /-- SCHEDULER_DISABLE (R457). -/
  | schedulerDisable (dt : Nat)
  /-- JOB_SPAWN (R452). -/
  | jobSpawn (dt : Nat)
  /-- JOB_DEADLINE_EXPIRY (R50). -/
  | jobDeadlineExpiry
  /-- WAITING_RECORD_SETTLE (R51). -/
  | waitingRecordSettle (src : Nat)
  /-- SLOT_IDLE (R449). -/
  | slotIdle
  /-- FORWARD_COPY_DONE (R49). -/
  | forwardCopyDone (dt src tenant : Nat)
  /-- JOB_LEDGER_READ (R454). -/
  | jobLedgerRead (dt : Nat)
  /-- CLASSIFICATION_START (R483). -/
  | classificationStart (dt : Nat)
  /-- CLASSIFICATION_END (R480). -/
  | classificationEnd
  /-- CANOPY_WRITE_EFFECT (R485). -/
  | canopyWriteEffect (dt : Nat)
  /-- CANOPY_HOLD (R486). -/
  | canopyHold (dt : Nat)
  /-- CANOPY_RESUME (R487). -/
  | canopyResume (dt : Nat)
  /-- SOURCE_GAP_REMOVE (R987). -/
  | sourceGapRemove (dt : Nat)
  /-- TENANT_ENABLE (R492). -/
  | tenantEnable (dt t : Nat)
  /-- TENANT_DISABLE (R494). -/
  | tenantDisable (dt t : Nat)
  /-- KEY_WRITE (R503). -/
  | keyWrite (dt t : Nat) (k0 k1 k2 k3 : Word)
  /-- PRODUCER_ADMIT (R522). -/
  | producerAdmit (dt q place : Nat)
  /-- QUEUE_WORD_WRITE (R529). -/
  | queueWordWrite (dt q : Nat)
  /-- HEAD_MOVE (R530). -/
  | headMove (dt q : Nat)
  /-- SPILL (R531). -/
  | spill (dt q : Nat)
  /-- ALLOCATION_END (R542). -/
  | allocationEnd (dt q : Nat)
  /-- RELEASE_END (R542). -/
  | releaseEnd (dt q : Nat)
  /-- REFILL (R532). -/
  | refill (dt q : Nat) (bad : List (Nat × BitVec 36))
  /-- VERIFY_PASS (R546). -/
  | verifyPass (dt q : Nat)
  /-- VERIFY_PASS_END (R547). -/
  | verifyPassEnd (dt q : Nat) (bad : List (Nat × BitVec 36))
  /-- GAP_WORD_WRITE (R554). -/
  | gapWordWrite (dt q : Nat)
  /-- CLEAR (R567). -/
  | clear (dt q : Nat)
  /-- CLEARING_EFFECT (R569). -/
  | clearingEffect (dt q : Nat)
  /-- CLEARING_END (R571). -/
  | clearingEnd (dt q : Nat)
  /-- BLK_FREE_READ (R574). -/
  | blkFreeRead (dt : Nat)
  /-- CR_GUAR_USED_READ (R576). -/
  | crGuarUsedRead (dt : Nat)
  /-- READ (R663). -/
  | read (dt arg cnt crc rest : Nat)
  /-- WRITE (R667). -/
  | write (dt arg : Nat) (data : List Word) (crc : Nat)
  /-- QREAD (R561). -/
  | qread (dt arg n crc : Nat)
  /-- QREAD_REPEAT (R676). -/
  | qreadRepeat (dt q n crc : Nat)
  /-- QREAD_WAIT_END (R564). -/
  | qreadWaitEnd (dt : Nat)
  /-- QREAD_ABANDON (R565). -/
  | qreadAbandon (dt : Nat)
  /-- QWRITE (R678). -/
  | qwrite (dt arg : Nat) (words : List (Nat × Word)) (crc : Nat)
  /-- QWRITE_DONE (R680). -/
  | qwriteDone (dt : Nat)
  /-- QWRITE_CS_RISE (R681). -/
  | qwriteCsRise (dt : Nat)
  /-- STATUS (R683). -/
  | status (dt arg cnt crc : Nat)
  /-- UNKNOWN_OPCODE (R657). -/
  | unknownOpcode (dt op arg cnt crc : Nat)
  /-- FRAME_ABORT (R684). -/
  | frameAbort (dt : Nat)
  /-- WINDOW_SPACE_WRITE (R673). -/
  | windowSpaceWrite (dt w : Nat) (value : Word)
  /-- HCMD_GO (R688). -/
  | hcmdGo (dt : Nat)
  /-- BODY_CLR (R687). -/
  | bodyClr (dt : Nat)
  /-- HCMD_BODY_WRITE (R687). -/
  | hcmdBodyWrite (dt : Nat) (value : Word)
  /-- REGISTER_WRITE (R985). -/
  | registerWrite (dt space addr : Nat) (value : Word)
  /-- ETH_FRAME_RECEIVED (R595). -/
  | ethFrameReceived (dt u : Nat) (frame : List Byte) (rxer : Bool)
  /-- ARP_REQUEST (R603). -/
  | arpRequest (dt u : Nat)
  /-- ECHO_REQUEST (R603). -/
  | echoRequest (dt u : Nat)
  /-- SUBSCRIBE (R612). -/
  | subscribe (dt u : Nat)
  /-- PULL (R624). -/
  | pull (dt u : Nat) (bad : List (Nat × BitVec 36))
  /-- COMMAND (R618). -/
  | command (dt u : Nat)
  /-- TALKER_STATUS (R498). -/
  | talkerStatus (dt u : Nat)
  /-- TENANT_STATUS (R617). -/
  | tenantStatus (dt u : Nat)
  /-- REFUSAL_SEND (R633). -/
  | refusalSend (u : Nat)
  /-- MDIO_FRAME (R598). -/
  | mdioFrame (dt : Nat) (value : Word)
  /-- MDIO_FRAME_END (R598). -/
  | mdioFrameEnd (rdata : Nat)
  /-- AUTOPOLL_READ (R599). -/
  | autopollRead (dt u reg1 : Nat)
  /-- UPLINK_RECORD_TAKE (R621). -/
  | uplinkRecordTake (dt u t : Nat) (bad : List (Nat × BitVec 36))
  /-- BATCH_CLOSE (R622). -/
  | batchClose (dt t : Nat)
  /-- DATAGRAM_BUILD (R625). -/
  | datagramBuild (dt u : Nat)
  /-- DATAGRAM_HANDOFF (R626). -/
  | datagramHandoff (dt u : Nat)
  /-- UPLINK_LEAVE_RETRY (R625). -/
  | uplinkLeaveRetry (u : Nat)
  /-- UPLINK_LEAVE_RELEASE (R625). -/
  | uplinkLeaveRelease (u : Nat)
  /-- LISTENER_RENDER (R589). -/
  | listenerRender (dt p : Nat) (bad : List (Nat × BitVec 36))
  /-- LISTENER_RENDER_DONE (R589). -/
  | listenerRenderDone (dt p : Nat)
  /-- GREAD (R213). -/
  | gread (dt : Nat) (who : GlTarget) (reg count : Nat) (o : GlOutcome)
  /-- GWRITE (R207). -/
  | gwrite (dt : Nat) (wide : Bool) (j : Nat) (o : GlOutcome)
  /-- TRIM_START (R240). -/
  | trimStart (dt p : Nat) (o : GlOutcome)
  /-- SLICE_START (R246). -/
  | sliceStart (dt p : Nat) (o : GlOutcome)
  /-- PWR_SWITCH (R224). -/
  | pwrSwitch (dt p : Nat) (on : Bool) (vfield : Nat) (o : GlOutcome)
  /-- ALERT_FETCH (R216). -/
  | alertFetch (dt k : Nat) (startLines : List Nat) (o : GlOutcome)
  /-- IDENT (R825). -/
  | ident (dt k : Nat) (o : GlOutcome)
  /-- FW_BLOCK (R873). -/
  | fwBlock (dt k : Nat) (o : GlOutcome)
  /-- FW_ACTIVATE (R874). -/
  | fwActivate (dt k : Nat) (o : GlOutcome)
  /-- GL_ALERT_N (R216). -/
  | glAlertN (dt : Nat)
  /-- SHADOW_REFRESH (R208). -/
  | shadowRefresh (dt k vfield : Nat) (temp : Int) (meas : List LineReading) (o : GlOutcome)
  /-- CM_FAULT (R220). -/
  | cmFault (dt p : Nat)
  /-- PWR_EN_SET (R223). -/
  | pwrEnSet (dt p : Nat)
  /-- PWR_EN_CLEAR (R228). -/
  | pwrEnClear (dt p : Nat)
  /-- INRUSH_TIMER_EXPIRY (R225). -/
  | inrushTimerExpiry (p : Nat) (reached : Bool)
  /-- PWR_FAULT (R231). -/
  | pwrFault (dt p cause : Nat)
  /-- RETRY_WAIT_EXPIRY (R232). -/
  | retryWaitExpiry (p : Nat)
  /-- TRIM_REQ (R236). -/
  | trimReq (dt p : Nat)
  /-- TRIM_WANTED (R236). -/
  | trimWanted (dt p : Nat) (temp : Int)
  /-- GUARD_LINE_ENABLE (R238). -/
  | guardLineEnable (dt p : Nat)
  /-- TRIM_DEFER_TIMEOUT (R239). -/
  | trimDeferTimeout (p : Nat)
  /-- TRIM_END (R242). -/
  | trimEnd (dt p : Nat) (codes : Option (Nat × Nat))
  /-- LEAK_MEASUREMENT_START (R246). -/
  | leakMeasurementStart (p : Nat)
  /-- SLICE_SKIP (R247). -/
  | sliceSkip (dt p : Nat)
  /-- SLICE_END (R250). -/
  | sliceEnd (p kohm : Nat)
  /-- SLICE_PREEMPT (R63). -/
  | slicePreempt (dt p : Nat)
  /-- LEAK_WINDOW_EXPIRY (R250). -/
  | leakWindowExpiry (p : Nat)
  /-- GUARD_DIE_HOT (R254). -/
  | guardDieHot (dt k : Nat) (temp : Int)
  /-- LEAVE_GRANT (R765). -/
  | leaveGrant (dt : Nat)
  /-- LEAVE_TIMEOUT (R769). -/
  | leaveTimeout
  /-- BUDGET_WRITE (R734). -/
  | budgetWrite (dt : Nat) (field : Bool) (units : Nat)
  /-- BUDGET_CHANGE_EFFECT (R734). -/
  | budgetChangeEffect (dt : Nat)
  /-- LV_LEDGER_READ (R738). -/
  | lvLedgerRead (dt : Nat)
  /-- DIE_TEMP_UPDATE (R787). -/
  | dieTempUpdate (dt : Nat) (temp : Int)
  /-- PING (R860). -/
  | ping (dt : Nat) (svcEn : Bool) (raw : List SvcChar)
  /-- INFO (R860). -/
  | info (dt : Nat) (svcEn : Bool) (raw : List SvcChar)
  /-- SET_BAUD (R862). -/
  | setBaud (dt : Nat) (svcEn : Bool) (raw : List SvcChar)
  /-- SVC_BAUD_FALLBACK (R862). -/
  | svcBaudFallback
  /-- BEGIN (R865). -/
  | begin_ (dt : Nat) (svcEn : Bool) (raw : List SvcChar)
  /-- BLOCK (R867). -/
  | block (dt : Nat) (svcEn : Bool) (raw : List SvcChar)
  /-- END (R868). -/
  | end_ (dt : Nat) (svcEn : Bool) (raw : List SvcChar)
  /-- ACTIVATE_PARTS (R871). -/
  | activateParts (dt : Nat) (svcEn : Bool) (raw : List SvcChar)
  /-- ACTIVATE_CORE (R880). -/
  | activateCore (dt : Nat) (svcEn : Bool) (raw : List SvcChar)
  /-- ABORT (R869). -/
  | abort (dt : Nat) (svcEn : Bool) (raw : List SvcChar)
  /-- SVC_STATUS (R860). -/
  | svcStatus (dt : Nat) (svcEn : Bool) (raw : List SvcChar)
  /-- RESTART (R863). -/
  | restart (dt : Nat) (svcEn : Bool) (raw : List SvcChar)
  /-- GF_ACTIVATION_END (R874). -/
  | gfActivationEnd (dt k : Nat) (startLines : List Nat) (o : GlOutcome)
  /-- GF_ACTIVATION_TIMEOUT (R875). -/
  | gfActivationTimeout (k : Nat)
  /-- GF_RESTORE_RETRY (R875). -/
  | gfRestoreRetry (k : Nat)
  /-- PM_ACTIVATION (R876). -/
  | pmActivation (dt : Nat)
  /-- PM_SELF_TEST_END (R878). -/
  | pmSelfTestEnd (dt : Nat) (pass : Bool) (startLines : List Nat)
  /-- SERVICE_RESUMED (R880). -/
  | serviceResumed (dt : Nat)
  /-- CF_CONFIRM (R883). -/
  | cfConfirm (dt : Nat)
  /-- CF_REVERT (R884). -/
  | cfRevert
  /-- REJECTION_MARK_RETRY (R884). -/
  | rejectionMarkRetry
  /-- JOURNAL_COMMIT (R892). -/
  | journalCommit (dt : Nat)
  /-- FLASH_PROGRAM_DONE (R848). -/
  | flashProgramDone (dt : Nat) (bad : Option (List Byte))
  /-- FLASH_ERASE_DONE (R848). -/
  | flashEraseDone (dt : Nat) (bad : Option (Nat × Byte))
  /-- EVENT_NOTICE (R913). -/
  | eventNotice (dt : Nat)
  /-- RING_PAGE_WRITE (R917). -/
  | ringPageWrite (dt : Nat)
  /-- RING_PAGE_RETRY (R988). -/
  | ringPageRetry
  /-- START_BIT_VALIDATED (R149). -/
  | startBitValidated (dt p : Nat)
  /-- POSSIBLE_BREAK_IDLE (R167). -/
  | possibleBreakIdle (dt p : Nat)
  /-- HUNT_RESUME_AFTER_BREAK (R168). -/
  | huntResumeAfterBreak (dt p : Nat)
  /-- CM_FAULT_END (R220). -/
  | cmFaultEnd (dt p : Nat)
  /-- GUARD_VDDIO_RETURN (R944). -/
  | guardVddioReturn (dt k : Nat)
  /-- CARD_DEBOUNCE_START (R350). -/
  | cardDebounceStart (dt n : Nat)
  deriving DecidableEq, Repr

end Sys2Proof
end

