-- ==== Sys2Proof/Machine/State.lean ====
section
/-! DEFINITION. The state of the concentrator and its guards as plain data: every register field (kept
sparsely in `regs`, by the descriptors of `Machine/Fields.lean`), and everything that lives behind the
registers: Ring time, line engines, card engines, jobs, queues, leave, guards, logs, flash, uplinks. -/

namespace Sys2Proof.Machine

/-- Reasons a step faults: none. Every command of the table has an effect the spec gives, so this type
has no constructor; raised by nobody. DESIGN CHOICE (assumption 5). -/
inductive Fault
  deriving DecidableEq, Repr

/-- Reasons a command is refused BY THE MODEL. -/
inductive Refusal
  /-- Raised by `exec` for a row that has no meaning yet. Safe: no state follows. -/
  | notModelled (mnemonic : String)
  deriving DecidableEq, Repr

/-- A sparse table: keys strictly rising, an unlisted key holding its table's default. -/
abbrev Tbl (α : Type) := List (Nat × α)

/-! ### Clocks -/

/-- Ring time (R86, R87): seconds, and nanoseconds with 32 fraction bits. The quality code is RT_STATUS.QUALITY. -/
structure Ring where
  sec : Nat
  acc : Nat
  deriving DecidableEq, Repr

/-- A Ring time stamp as header words 1 and 2 carry it (Table 5-2). -/
structure Stamp where
  sec : Nat
  ns : Nat
  q : Nat
  deriving DecidableEq, Repr

/-- Who holds ball W9 (Table 1-6). -/
inductive W9
  | none | tmOut | cp1
  deriving DecidableEq, Repr

/-- A stretch over which Ring time counts evenly: it begins in CORE cycle `start`, with the values there. -/
structure Seg where
  start : Nat
  sec : Nat
  acc : Nat
  per : Nat
  q : Nat
  deriving DecidableEq, Repr

/-- The clock root and the lock loop (2.1, 2.6, 2.8). -/
structure Clk where
  /-- The PLL is locked, so the internal clocks run (R76). -/
  locked : Bool
  /-- CORE cycle of the last accepted TM_IN mark (R103, R106). -/
  lastMark : Option Nat
  /-- The loop's estimate f, ns per second (R105). -/
  f : Int
  w9 : W9
  /-- CORE cycle at which the TM_OUT pulse in progress ends (R119, R120). -/
  pulseEnd : Option Nat
  /-- Level of ball W9 while TM_OUT holds it. -/
  tmOutHigh : Bool
  /-- CORE cycle of the LINE cycle in which W9 is released after a pulse during which EN was cleared (R120). -/
  w9Free : Option Nat
  /-- The level of TM_IN that the filter of R85 has accepted last. -/
  tmLevel : Bool
  /-- The even stretches of Ring time that an edge capture of R111 can still fall into, newest first. -/
  segs : List Seg
  deriving DecidableEq, Repr

/-- What software wrote and hardware counted in the present CORE cycle (R24, R708, R709). -/
structure Cyc where
  /-- Keys of clash-S fields that software wrote in this cycle. -/
  sw : List Nat
  /-- Increments of clash-A counters in this cycle, by key. -/
  inc : Tbl Nat
  /-- Bits of clash-H fields that hardware set in this cycle, by key. -/
  set : Tbl Nat
  /-- Late drops charged to a queue in this cycle: queue and class (R572). -/
  late : List (Nat × Nat)
  deriving DecidableEq, Repr

/-! ### Start-up -/

/-- Where the boot sequence stands (14.4). -/
inductive Phase
  /-- A reset is in progress (R809). -/
  | reset
  /-- Reset released, the PLL not yet locked (R802). -/
  | released
  /-- The PLL is locked; the boot loader waits for the flash (R814). -/
  | locked
  /-- A CF slot is chosen and being read and checked (R820). -/
  | loading
  /-- The CF runs and waits for the guards (R825). -/
  | guardWait
  /-- SERVICE_READY (R835). -/
  | ready
  /-- The CF activation pause (R880). -/
  | paused
  /-- ROM recovery (R837). -/
  | recovery
  deriving DecidableEq, Repr

/-- Boot state (14.2, 14.5). -/
structure Sys where
  phase : Phase
  /-- The reset in progress or last taken is warm (Table 14-1). -/
  warm : Bool
  /-- The pending flag of R819. -/
  pendingFlag : Bool
  /-- BOOT_FAILS as the boot loader keeps it (R820). -/
  bootFails : Nat
  /-- The running slot of the boot before this reset: 0 A, 1 B, none where no firmware has run since a cold reset (R820). -/
  runningSlot : Option Nat
  /-- The primary slot as this boot found it (R822). -/
  primary : Option Nat
  /-- CORE cycle of the accepted software reset request (R726). -/
  swReset : Option Nat
  /-- CORE cycle of the reset release (Table 14-4). -/
  releaseAt : Nat
  /-- Level of RECOVERY_N sampled at release (R810). -/
  recoveryN : Bool
  /-- Synchronised level of SVC_EN (R811). -/
  svcEn : Bool
  /-- A quality change 10 to 11 made by a warm reset and not yet logged (R109). -/
  oweRtState : Bool
  /-- The PM groups out of service (R817). -/
  pmOut : List Nat
  /-- Tenants whose EN waits for the key load (R836). -/
  deferredTenants : List Nat
  /-- CORE cycle of SERVICE_READY or SERVICE_RESUMED, from which the confirm window runs (R883). -/
  confirmFrom : Option Nat
  /-- CORE cycle since which the running CF has been healthy without a break (R882, R883). -/
  wellFrom : Option Nat
  deriving DecidableEq, Repr

/-! ### Queues (chapter 9) -/

/-- Tags of a queue word (Table 9-2). -/
inductive Tag
  | notValid | body | start | end_ | single | poison | gap | reserved
  deriving DecidableEq, Repr

/-- One queue word: tag and data; the parity bit is regenerated by the store (R524, R526). -/
structure QWord where
  tag : Tag
  data : Word
  deriving DecidableEq, Repr

/-- A block of a queue's middle (R531, R533). -/
structure Block where
  /-- Words written and not yet read, oldest first. -/
  words : List QWord
  /-- Words ever written: 0 while only allocated, then 8, then 16. -/
  written : Nat
  deriving DecidableEq, Repr

/-- A gap register: five saturating counts (R553). -/
structure GapReg where
  clearing : Nat
  alarm : Nat
  control : Nat
  telemetry : Nat
  bulk : Nat
  deriving DecidableEq, Repr

/-- The producers of a queue (Table 9-1). -/
inductive Producer
  | line (port : Nat)
  | card (n : Nat)
  | coppice
  | listener (port : Nat)
  | job (id : Nat)
  | mp
  | events
  | gapReg
  deriving DecidableEq, Repr

/-- One queue (9.3 to 9.8). -/
structure Queue where
  /-- The head register: words, each with the CORE cycle in which it entered (R528, R534). -/
  head : List (QWord × Nat)
  /-- The tail register (R528). -/
  tail : List QWord
  /-- The middle: a chain of blocks in the store, oldest first (R528). -/
  mid : List Block
  /-- The producer whose record is open in the queue (R522). -/
  openBy : Option Producer
  /-- Words of the open record that have entered. -/
  openWords : Nat
  /-- Words that the open record has by its LENGTH (R545): where a copy's END word was delivered as POISON,
  it still ends the record. -/
  openLen : Nat
  /-- The open record was marked cleared (R570). -/
  openCleared : Bool
  /-- Words whose write handshake is incomplete, oldest first (R552). -/
  wait : List (Producer × QWord)
  /-- The stalled write at the front of `wait` has been counted in FULL_CNT (Table 16-3). -/
  counted : Bool
  gap : GapReg
  /-- A GAP word has entered since the last record: GAP_BEFORE is owed (R557). -/
  gapOwed : Bool
  /-- One of those GAP words has CAUSE Clearing: CLEARED is owed (R557). -/
  clearedOwed : Bool
  /-- The consumer is inside a record (R566, R568). -/
  inside : Bool
  /-- Word index, in its record, of the consumer's next word; how many words that record has by its LENGTH, 0 where its
  word 0 failed parity; and that a POISON word of it has been taken (R545, R550). -/
  outWord : Nat
  outLen : Nat
  outPoison : Bool
  /-- The head record has had its verify pass (R546). -/
  verified : Bool
  /-- A verify pass runs (R546). -/
  verifying : Bool
  /-- A write of CLEAR waits for the record boundary (R567, R568). -/
  clearWanted : Bool
  /-- Detached blocks of a Clearing not yet released (R571). -/
  detached : Nat
  /-- Deadlines, as Ring time in ns, of the records whose START words the queue holds, oldest first: what a
  tenant queue's hardware consumer judges lateness by (R52, R591). -/
  deadlines : List Nat
  deriving DecidableEq, Repr

/-- One allocator lane (R542). -/
structure Lane where
  queue : Nat
  /-- True for an allocation, false for a release. -/
  alloc : Bool
  /-- The block belongs to a Clearing (R571). -/
  clearing : Bool
  deriving DecidableEq, Repr

/-- The clients of the store's data port (R60, R62, R986). -/
inductive StoreClient
  /-- The spill of a queue's tail (R531). -/
  | spill (q : Nat)
  /-- The words of a verify pass that are written back (R546). -/
  | writeBack (q : Nat)
  /-- The reads of a verify pass (R546). -/
  | verify (q : Nat)
  /-- A refill: an uplink read, or a head refill for another consumer (R532). -/
  | refill (q : Nat)
  /-- A forward-copy's read of a source queue (R62): the queue and the job. -/
  | copy (q job : Nat)
  deriving DecidableEq, Repr

/-- The arbiter of the store's data port. -/
structure Arb where
  /-- The queue that each class served last (R986). -/
  last : Tbl Nat
  /-- STORE cycles that spill writes have taken in a row while uplink reads asked too (R60). -/
  run : Nat
  /-- STORE cycles that each unfinished request has been given. -/
  given : List (StoreClient × Nat)
  deriving DecidableEq, Repr

/-- The store's allocator (9.4, 9.9) and the arbiter of its data port (R60). -/
structure Store where
  lanes : List Lane
  /-- Queues whose spill waits for a lane (R542). -/
  allocWait : List Nat
  /-- The queue that last got a lane for an allocation (R986). -/
  lastAlloc : Nat
  /-- Blocks detached or emptied whose release waits for a lane, oldest first. -/
  releases : List Lane
  free : Nat
  held : Nat
  arb : Arb
  deriving DecidableEq, Repr

/-! ### Line ports (chapters 3 and 5) -/

/-- The rate and format a direction of a port has in force (R137, R138). -/
structure Fmt where
  inc : Nat
  dataBits : Nat
  parity : Nat
  stop : Nat
  pol : Bool
  msbFirst : Bool
  deriving DecidableEq, Repr

/-- A staged character: its byte, and whether it is payload of the open record. -/
structure SChar where
  b : Byte
  payload : Bool
  deriving DecidableEq, Repr

/-- The sums of the lean measurement over one sentence (R160, R161). -/
structure LeanSum where
  n : Nat
  /-- S_act in LINE cycles. -/
  sumT : Nat
  /-- S_nom in LINE cycles, as the fraction num / den: the characters of a sentence may have different rates. -/
  num : Nat
  den : Nat
  deriving DecidableEq, Repr

/-- A sentence that the grammar unit has open (5.3). -/
structure OpenRec where
  /-- Payload so far, SDI-12 prefix included (R308). -/
  bytes : List Byte
  stamp : Stamp
  /-- FLAGS collected so far (Table 5-3). -/
  flags : Nat
  /-- The polled talker, when the record began inside a response window (R417). -/
  polled : Option Nat
  /-- The try that a reply completes (R419). -/
  isReply : Bool
  /-- Soliciting SDI-12 command asks for a CRC check (R310). -/
  sdiCrc : Bool
  lean : LeanSum
  /-- Those of its flags that it took over, and gives back when it is abandoned (R182, R190, R321). -/
  carried : Nat
  /-- Payload bytes whose words have been offered to the receive queue (the prefix counts from the start). -/
  moved : Nat
  /-- Header words have been offered to the receive queue. -/
  placed : Bool
  deriving DecidableEq, Repr

/-- A closed sentence whose last bytes still wait for their move (R182). -/
structure Closed where
  bytes : List Byte
  /-- The four header words as they will stand (Tables 5-1, 5-2). -/
  hdr : List Word
  moved : Nat
  placed : Bool
  /-- How many bytes of the staging block belong to it. -/
  staged : Nat
  /-- The record completes a try of the transaction of the port. -/
  isReply : Bool
  deriving DecidableEq, Repr

/-- A character in reception (R147 to R152). -/
structure RxChar where
  /-- Captured edge time (R111), with its quality. -/
  edge : Stamp
  /-- LINE cycle c0 of the start edge. -/
  c0 : Nat
  /-- INC_eff in force for the character (R148). -/
  inc : Nat
  /-- The character is sampled with a stored lean (R157). -/
  leaned : Bool
  /-- The rate and format in force for the character (R137). -/
  fmt : Fmt
  deriving DecidableEq, Repr

/-- What owns a transmit record (R521, 7.4, 7.6, R589). -/
inductive TxOwner
  /-- A poll's request: poll index. -/
  | poll (p : Nat)
  /-- A tenant command: job id. -/
  | cmd (job : Nat)
  /-- A listener render. -/
  | listener
  deriving DecidableEq, Repr

/-- Where the transmitter of a port stands (3.5, 3.8). -/
inductive TxPhase
  | idle
  /-- Held by trim with LDEn low (R188). -/
  | held
  /-- A break waits for its FIELD leave (R171). -/
  | leaveWait
  /-- LDEn high, LEAD_US before the first start bit. -/
  | lead
  | brk
  | mark
  /-- Characters are being sent. -/
  | chars
  /-- TAIL_US after the last stop bit. -/
  | tail
  deriving DecidableEq, Repr

/-- The transmitter of a port. -/
structure Tx where
  phase : TxPhase
  /-- CORE cycle at which the phase ends, where a time ends it. -/
  due : Nat
  /-- CORE cycle at which the start level of a break begins (R172). -/
  brkAt : Nat
  /-- Characters not yet started. -/
  bytes : List Byte
  /-- The character on the wire. -/
  cur : Option Byte
  owner : Option TxOwner
  /-- The break belongs to a record (a directive), not to TX_BREAK. -/
  directive : Bool
  /-- The record was cut (R192, Table 7-6): no further character starts. -/
  cut : Bool
  /-- The first start bit has been sent (R440). -/
  begun : Bool
  deriving DecidableEq, Repr

/-- A response window (R416). -/
structure Window where
  talker : Nat
  /-- CORE cycle at which the window closes with no validated start edge; `none` for a command's window,
  whose length the spec does not state, and for the wait for a service request. -/
  closeAt : Option Nat
  /-- A start edge was validated inside it (R416). -/
  started : Bool
  /-- The reply record is open or complete. -/
  inRecord : Bool
  deriving DecidableEq, Repr

/-- A listener-port transmit job's render (R589). -/
structure Render where
  job : Nat
  bytes : List Byte
  /-- The Data field was shortened (R329). -/
  cut : Bool
  /-- The render has been offered to the transmit queue. -/
  begun : Bool
  deriving DecidableEq, Repr

/-- A reply record that the scheduler has not judged (R419): its talker, FLAGS and RT_SEC, and its payload. -/
structure Reply where
  talker : Nat
  flags : Nat
  sec : Nat
  bytes : List Byte
  deriving DecidableEq, Repr

/-- One line port: receiver, staging block, grammar unit, transmitter. -/
structure Port where
  rxF : Fmt
  txF : Fmt
  /-- A pending copy waits for the receiver, or for the transmitter (R137 to R139). -/
  rxPend : Bool
  txPend : Bool
  rx : Option RxChar
  /-- A possible break held back from staging: its character and marks (R167). -/
  held : Option (RxChar × LeanSum)
  /-- The receiver waits for one idle bit after a recognised break (R168). -/
  afterBreak : Bool
  /-- LINE cycle from which the receiver hunts for a start edge (R151, R154, R189). -/
  huntFrom : Nat
  /-- CORE cycle from which the receive line has been idle: the end of the last received character, or of a break (R298,
  R300). -/
  idleFrom : Option Nat
  stage : List SChar
  /-- A move has been requested and not completed (R175). -/
  moveReq : Bool
  /-- The receive queue has accepted that move (R176). -/
  moving : Bool
  open_ : Option OpenRec
  /-- Closed sentences that wait for their move, oldest first; a second one can begin only with the start character that
  closed the first (R294). -/
  closed : List Closed
  /-- Flags that the next record of the port carries (R182, R190, R286). -/
  nextFlags : Nat
  /-- Characters are discarded until the grammar's next sentence start (R284, R429). -/
  discard : Bool
  /-- That discarding counts noise (R429). -/
  discardNoise : Bool
  /-- A boundary closes the reply at the character in progress (Table 7-6). -/
  lateClose : Bool
  /-- CORE cycle of the stop-bit sample of the last completed character (R178, R185). -/
  lastRx : Option Nat
  /-- CORE cycle at which the last character on the line ended (R298, R415, R425). -/
  lastEnd : Option Nat
  rxChars : Nat
  movedChars : Nat
  ovrChars : Nat
  inTrim : Bool
  tx : Tx
  /-- The owners of the records in the transmit queue, oldest first. -/
  txq : List TxOwner
  /-- A TX_BREAK waits for the record in progress (R173). -/
  brkWanted : Bool
  /-- The record at the head of the transmit queue, or the break that waits, has been counted as held by trim (R188). -/
  recHeld : Bool
  brkHeld : Bool
  win : Option Window
  /-- The SDI-12 command that solicits the next response (R308). -/
  sdiCmd : List Byte
  /-- That command follows aMC! or aCC!, so its response's CRC is checked (R310). -/
  sdiCrc : Bool
  /-- Address of the port's previous SDI-12 transaction (R425). -/
  sdiAddr : Option Byte
  /-- A reply record has been written and the scheduler has not judged it (R419). -/
  reply : Option Reply
  /-- The render that a listener job is writing (R589). -/
  render : Option Render
  /-- CORE cycle before which no further render starts (LST_GAP_US). -/
  renderAfter : Nat
  deriving DecidableEq, Repr

/-! ### Coppice (chapter 7) -/

/-- Where a poll stands inside its period (7.4, Table 7-6). -/
inductive PollState
  | none
  /-- Due, not released. -/
  | due
  /-- Its transaction runs on the port. -/
  | active
  /-- Between tries. -/
  | retry
  /-- In an R423 wait, until the given CORE cycle; the port is held for aM! and aMC!. -/
  | measuring (until_ : Nat) (holds : Bool)
  /-- A data command is owed. -/
  | dataOwed
  /-- The poll has ended OK with no data command to send, and holds its port in an R423 wait until the given CORE cycle. -/
  | holding (until_ : Nat)
  deriving DecidableEq, Repr

/-- The run of one poll entry. -/
structure PollRun where
  st : PollState
  /-- Retries used by the step in progress and by the poll (R421, R426). -/
  retries : Nat
  used : Nat
  /-- Next data command of KIND 2; `none` before the measurement command has succeeded. -/
  dStep : Option Nat
  /-- The poll has been counted in SLOT_WAIT_CNT (R453). -/
  slotWaited : Bool
  job : Option Nat
  deriving DecidableEq, Repr

/-- The run of one scan group (2.9, 7.2). -/
structure GroupRun where
  /-- CORE cycle of the next boundary, while boundaries follow the CORE clock (R124, R125). -/
  nextB : Nat
  /-- Ring time of the next boundary in ms, while boundaries follow R123. -/
  target : Option Nat
  lastB : Nat
  /-- CORE cycle at which the group's last poll of the period ended. -/
  lastEnd : Option Nat
  aborted : Bool
  /-- The present period ends at its scheduled CORE cycle, and R126 applies to the one after it. -/
  realign : Bool
  deriving DecidableEq, Repr

/-- A tenant command that waits on a port or runs (7.6). -/
structure Cmd where
  job : Nat
  tenant : Nat
  talker : Nat
  kind : Nat
  noReply : Bool
  body : List Byte
  /-- Deadline as Ring time in ns, for the service order of R436. -/
  deadline : Nat
  deriving DecidableEq, Repr

/-- The transaction that holds a port (R413). -/
inductive Txn
  | none
  | poll (p : Nat)
  | cmd (c : Cmd)
  deriving DecidableEq, Repr

/-- The scheduler's state of one port. -/
structure CopPort where
  txn : Txn
  cmds : List Cmd
  /-- Commands served back to back while a due poll waits (R436). -/
  burst : Nat
  /-- CORE cycle at which the last transaction ended (R442), and the poll that it served (R414). -/
  lastTxn : Nat
  lastPoll : Option Nat
  /-- The job of an aborted poll, which retires when the line action of Table 7-6 ends (R431). -/
  ending : Option Nat
  /-- A gap is granted until the given CORE cycle; `none` bound when unbounded (R445). -/
  gap : Option (Option Nat)
  deriving DecidableEq, Repr

/-- Job kinds (Table 7-7). -/
inductive JobKind
  | fwd | poll | listen | uplink | card
  deriving DecidableEq, Repr

/-- A job that occupies a slot (7.8). -/
structure Job where
  id : Nat
  kind : JobKind
  /-- CORE cycle in which the remaining time reaches 0 (R47). -/
  due : Nat
  /-- Class 0 ALARM to 3 BULK. -/
  cls : Nat
  /-- Destination tenant of a forward-copy or listener job, commanding tenant of a command. -/
  tenant : Nat
  /-- Source of a forward-copy (0 to 50); port of a poll, command or listener job; uplink; card port. -/
  src : Nat
  /-- Poll index of a poll job; `none` for a command. -/
  poll : Option Nat
  /-- Its first word has been offered to the destination queue. -/
  begun : Bool
  /-- The deadline point is met (R450). -/
  met : Bool
  /-- CORE cycle in which the RETIRING slot becomes IDLE (R449). -/
  idleAt : Option Nat
  deriving DecidableEq, Repr

/-- A classified record that waits for its jobs (R33, R40 to R42). -/
structure Release where
  src : Nat
  /-- The record's words as they stood at classification. -/
  words : List QWord
  deadline : Nat
  cls : Nat
  /-- Destinations that have no job yet, ascending. -/
  todo : List Nat
  /-- Jobs spawned and not retired. -/
  jobs : List Nat
  /-- Destinations settled by a late drop (R51). -/
  settled : Nat
  deriving DecidableEq, Repr

/-- The outcome of a classification, as the Canopy holds it until cycle 48 (R483, R484). -/
structure ClassRes where
  rule : Nat
  cls : Nat
  deliver : List Nat
  masked : Nat
  talker : Option Nat
  deadlineMs : Option Nat
  logRule : Option Nat
  noMatch : Bool
  drop : Bool
  deriving DecidableEq, Repr

/-- The Canopy (chapter 8). -/
structure Canopy where
  /-- The classification in progress: source, cycle 1, and its outcome. -/
  run : Option (Nat × Nat × ClassRes)
  /-- The source last served (R32, R487). -/
  last : Nat
  /-- Decimation counts (R466). -/
  decim : Tbl Nat
  /-- CANOPY words that wait for R485: ARG of their MP frame, if one carries them, and the words with their space and
  address. -/
  waitWrite : Option (Option Nat × List (Nat × Nat × Word))
  /-- The first CORE cycle in which the Canopy may take a record again: the one after cycle 48 of a classification (R483),
  after the effect of CANOPY words (R485), after the removal of a GAP word (R987). -/
  freeFrom : Nat
  deriving DecidableEq, Repr

/-! ### Leave (chapter 13) -/

/-- The two pools. -/
inductive Pool
  | die | field
  deriving DecidableEq, Repr

/-- Leave kinds (Table 13-1), with the unit that asks. -/
inductive LeaveKind
  | brk (port : Nat)
  | burst (up : Nat)
  | switchOn (line : Nat)
  | slice (line : Nat)
  | flashProgram
  | flashErase
  | gfActivate (guard : Nat)
  deriving DecidableEq, Repr

/-- A waiting leave request (R764). -/
structure LeaveReq where
  kind : LeaveKind
  units : Nat
  /-- CORE cycle of the request. -/
  at_ : Nat
  /-- CORE cycle at which its wait limit expires (R769). -/
  limit : Nat
  /-- Its datagram holds an ALARM or CONTROL record (R789). -/
  urgent : Bool
  /-- A governor cycle has left it waiting, so its WAIT bit is set (R770). -/
  waited : Bool
  deriving DecidableEq, Repr

/-- A grant held (R774). -/
structure Grant where
  kind : LeaveKind
  units : Nat
  /-- CORE cycle of the grant: what it is for may start in a later one (R766). -/
  at_ : Nat
  deriving DecidableEq, Repr

/-- The governor. -/
structure Leave where
  die : List LeaveReq
  field : List LeaveReq
  dieGr : List Grant
  fieldGr : List Grant
  warm : Bool
  hot : Bool
  /-- Guards that are hot (R791). -/
  hotGuards : List Nat
  deriving DecidableEq, Repr

/-! ### Guards (chapter 4) -/

/-- One line as its guard holds it. -/
structure GLine where
  /-- The guard's own configuration words 0 to 2 (R207). -/
  cfg : Tbl Nat
  /-- PWR_STATE and PWR_CAUSE (Table 4-8). -/
  pwr : Nat
  cause : Nat
  /-- CORE cycle at which the inrush timer expires (R224). -/
  inrushEnd : Option Nat
  /-- CORE cycle of the last fault (R232). -/
  faultAt : Nat
  inTrim : Bool
  /-- CORE cycle at which the slice in progress begins (R246). -/
  slice : Option Nat
  /-- CORE cycle of the first slice of the measurement (R250). -/
  firstSlice : Option Nat
  slicesDone : Nat
  leakValid : Bool
  leakLow : Bool
  leakResult : Nat
  leakAt : Nat
  /-- A common-mode fault lasts, the CORE cycle in which it began, and the one in which the last one ended (R220). -/
  cmFault : Bool
  cmFrom : Nat
  cmTo : Nat
  trimWanted : Bool
  iMa : Nat
  v10mv : Nat
  termCode : Nat
  thresh : Nat
  trimTemp : Int
  trimCause : Nat
  /-- LG_EVENTS, and the bits set since the last status report (R714). -/
  events : Nat
  since : Nat
  /-- The counters of words 8 to 0xB, in order, and their increments since the last status report (R715). -/
  cnt : Tbl Nat
  inc : Tbl Nat
  deriving DecidableEq, Repr

/-- The bytes of the last transaction of the guard link with a guard: the request on GL_DO, and the reply on GL_DI as far as
its CRC checked (R211, R212). -/
structure GlXfer where
  request : List Byte
  reply : List Byte
  deriving DecidableEq, Repr

/-- What a forwarded word does at the guard (R207, R714, R715). -/
inductive FwdKind
  /-- A configuration word. -/
  | config
  /-- A clear of LG_EVENTS bits, but for `extra`, the bits set since the report that the shadow held. -/
  | clear
  /-- A value for counter number `word`, plus `extra`, counted since that report. -/
  | counter
  deriving DecidableEq, Repr

/-- A forward that is owed to a guard line. -/
structure Fwd where
  kind : FwdKind
  word : Nat
  value : Nat
  extra : Nat
  deriving DecidableEq, Repr

/-- What the concentrator keeps for one guard line beside the shadow. -/
structure LineCtl where
  /-- Forwards owed, oldest first. -/
  forward : List Fwd
  /-- The line needs trim since a CORE cycle, for a TRIM_CAUSE: 0 enable, 1 temperature, 2 request (R236). -/
  needTrim : Option (Nat × Nat)
  /-- The trim is forced (R239). -/
  forced : Bool
  /-- CORE cycle in which the concentrator set IN_TRIM (R240). -/
  trimAt : Option Nat
  /-- Retries used (R232), and the CORE cycle in which the next one is due. -/
  retries : Nat
  retryAt : Option Nat
  /-- A leakage measurement began in this CORE cycle (R246), and is under way. -/
  leakFrom : Option Nat
  measuring : Bool
  /-- CORE cycle in which the last slice began. -/
  lastSlice : Option Nat
  /-- The line is reconciled, so forwarding runs (R834). -/
  reconciled : Bool
  /-- PWR_SWITCH off is owed (R228), and a switch-on follows it (R834). -/
  offWanted : Bool
  cycleOn : Bool
  deriving DecidableEq, Repr

/-- A GF download and activation (R873 to R875). -/
structure FwRun where
  /-- The GF copy it takes. -/
  copy : Nat
  /-- The next block, and the CORE cycle in which the last one began. -/
  next : Nat
  lastAt : Option Nat
  /-- It is the attempt with the other copy (R875). -/
  other : Bool
  /-- It is a step of an update. -/
  update : Bool
  deriving DecidableEq, Repr

/-- One guard. -/
structure Guard where
  /-- The guard's own state: 0 not powered, 1 booting, 2 running GF, 3 ROM recovery, 5 activating (Table 4-7). -/
  run : Nat
  gfVer : Nat
  temp : Int
  vfield : Nat
  /-- Its VDD_IO is below 2.7 V (R944). -/
  vddioLow : Bool
  /-- Pending guard-wide alerts: bit 0 SUPPLY, 1 RECOVERY, 2 DIE_HOT. -/
  alertG : Nat
  /-- Lines, 0 to 7, with a pending alert. -/
  alertL : List Nat
  /-- An ALERT_FETCH is owed (R216). -/
  fetch : Bool
  /-- Consecutive failed transactions, and the link fault (R215). -/
  fails : Nat
  faulted : Bool
  /-- It has answered IDENT since the reset (R825). -/
  answered : Bool
  /-- No refresh of its temperature since the reset (R791). -/
  fresh : Bool
  /-- GF stream blocks received, by block number (R873). -/
  blocks : Tbl (List Byte)
  /-- A GF download or activation that the firmware runs on it (R873 to R875, R885). -/
  fw : Option FwRun
  /-- A GF activation runs: the version it brings, and the CORE cycle of its limit (R874, R875). -/
  act : Option (Nat × Nat)
  /-- Its lines stay treated as in trim: a failed activation, or a generation out of range (R875, R885). -/
  heldOut : Bool
  /-- CORE cycle of the next GF restore (R875). -/
  restoreAt : Option Nat
  /-- LEAK_WINDOW_S as the guard holds it, and whether a forward of it is owed (R984). -/
  leakWindow : Nat
  owedWindow : Bool
  /-- The last transaction with it (R211, R212). -/
  link : GlXfer
  deriving DecidableEq, Repr

/-! ### Cards (chapter 6) -/

/-- What a card script is doing (6.7). -/
inductive Script
  | none | keyload | badge
  deriving DecidableEq, Repr

/-- A card record that waits at its source, and the SW1 of its exchange, 0x00 when absent (Table 6-5). -/
structure CardRec where
  words : List QWord
  sw1 : Byte
  deriving DecidableEq, Repr

/-- One card port. CARD word 0x02 holds its STATE, its convention and its parameters. -/
structure Card where
  /-- Synchronised level of CPn_DET, once a change of it has been told since the reset (R350). -/
  det : Option Bool
  /-- The insertion has been recognised (R350). -/
  inserted : Bool
  /-- CORE cycle at which the debounce ends. -/
  debounceEnd : Option Nat
  /-- Step of Table 6-2 reached: 0 power, 1 clock, 2 reset high, 3 hunting, 4 receiving the ATR. -/
  actStep : Nat
  /-- CORE cycle at which the present step of Table 6-2 or 6-3 ends. -/
  due : Nat
  /-- Activate again after the deactivation (R354, R370). -/
  again : Bool
  /-- The next activation sends no PPS, and a PPS has failed in this insertion (R370). -/
  noPps : Bool
  ppsFailed : Bool
  /-- STATE to take at the end of the deactivation. -/
  endState : Nat
  /-- Characters received of the ATR or of the PPS echo. -/
  rxBytes : List Byte
  /-- Characters still to send. -/
  txBytes : List Byte
  /-- Consecutive error signals or repetitions of the present character. -/
  repeats : Nat
  /-- Stamp of the ATR, or of the response's first character (Table 2-5). -/
  stamp : Option Stamp
  /-- CORE cycles of the start edges of the last character received and of the last one sent, and of the one to send next
  (R361). -/
  rxEdge : Nat
  txEdge : Nat
  txAt : Nat
  /-- CORE cycle from which WT counts, and whether the card has sent a character in this exchange or PPS (R370, R377). -/
  wtFrom : Nat
  heard : Bool
  /-- Start edge of the last character that is answered with the error signal (R360). -/
  errEdge : Option Nat
  /-- Fi of TA1, for the work waiting time (R363). -/
  fi : Nat
  /-- A character was stored after the last error signal (R360). -/
  parity : Bool
  /-- DIR and the header of the exchange. -/
  dir : Nat
  hdr : List Byte
  /-- Header bytes still to send. -/
  hdrLeft : Nat
  /-- Data bytes moved, data bytes still to send, data bytes still expected. -/
  moved : List Byte
  toSend : List Byte
  toRecv : Nat
  /-- Data bytes to receive before the next procedure byte. -/
  burst : Nat
  sw1 : Option Byte
  sw2 : Option Byte
  job : Option Nat
  script : Script
  /-- The script's exchanges that have ended (Table 6-6). -/
  got : List ScriptReply
  /-- A CF pause aborted the script: the new firmware runs it again (R390). -/
  rerun : Bool
  /-- The badge read in this insertion: its number, and whether it is unknown (R388, R389). -/
  badge : Option (List Byte × Bool)
  /-- Records that wait at the source. -/
  recs : List CardRec
  /-- How many of them stand before the exchange record whose release clears GO (R374). -/
  goRec : Option Nat
  deriving DecidableEq, Repr

/-! ### Management port (chapter 11) -/

/-- What the MP holds beside its registers (Table 11-6). -/
structure Mp where
  lastOp : Nat
  lastStatus : Nat
  lastArg : Nat
  lastDone : Nat
  frameSeq : Nat
  crcBad : Nat
  abort : Nat
  /-- Bytes of the last frame's request, its CRC included (R652, R655). -/
  request : Nat
  /-- The reply bytes of the last frame, from the status byte to the CRC; WAITING bytes left out. -/
  reply : List Byte
  /-- Status of the last register write command (Table 11-2). -/
  answer : Nat
  /-- The retained QREAD reply: queue, N, slots (R676). -/
  retained : Option (Nat × Nat × List QWord)
  /-- A WAIT-mode QREAD that has not decided its status: queue, N, CORE cycle of its bound. -/
  qread : Option (Nat × Nat × Nat)
  /-- A QWRITE whose words have not all entered: N, CORE cycle of its bound. -/
  qwrite : Option (Nat × Nat)
  /-- Stamp of the injected record that is open in queue 224 (R315, R682). -/
  stamp : Stamp
  /-- The house command body buffer (R687). -/
  body : List Byte
  deriving DecidableEq, Repr

/-! ### Logs and flash (chapters 15 and 16) -/

/-- One position of the event log or the refusal log: its eight words. -/
abbrev LogPos := List Word

/-- The event logger (16.3, 16.4). -/
structure Logs where
  /-- Event log positions, by position number. -/
  ev : Tbl LogPos
  /-- Refusal log positions. -/
  ref : Tbl LogPos
  /-- Entries that wait for flash, oldest first: sequence number, and CORE cycle of the writing (R917). -/
  flashWait : List (Nat × Nat)
  /-- The positions of the ring page whose program has begun (R919). -/
  page : Option (List LogPos)
  /-- Next ring page position, in pages from the ring's base. -/
  ringPos : Nat
  /-- CORE cycle at which a failed ring page is tried again (R988). -/
  retryAt : Option Nat
  deriving DecidableEq, Repr

/-- A flash operation (R763). -/
inductive FlashOp
  | program (addr : Nat) (data : List Byte)
  | erase (addr : Nat)
  deriving DecidableEq, Repr

/-- A command that the concentrator issues to the flash (R846, R954). -/
inductive FlashCmd
  | writeEnable
  | pageProgram (addr : Nat) (data : List Byte)
  | sectorErase (addr : Nat)
  | readStatus
  | quadRead (addr n : Nat)
  deriving DecidableEq, Repr

/-- What a run of flash operations is for. -/
inductive FlashFor
  /-- BEGIN's erase of the target headers (R866). -/
  | begin_
  /-- A BLOCK's pages of a part (R867). -/
  | block (part : Nat)
  /-- END's header pages, with VALID in ROM recovery (R868, R887). -/
  | finish
  /-- VALID of the staged GF copy (R872). -/
  | gfValid
  /-- VALID of the staged slot (R880). -/
  | coreValid
  /-- Rejection marks after a failed step (R879). -/
  | failMarks
  /-- The confirmation mark (R883). -/
  | confirm
  /-- The rejection mark of a revert (R884), and its repetition. -/
  | revertMark
  | markRetry
  /-- A journal write (R892, R896). -/
  | journal
  /-- A ring page (R917). -/
  | ring
  deriving DecidableEq, Repr

/-- Flash operations that a loader or the control firmware has to do, in order. -/
structure FlashJob where
  why : FlashFor
  /-- An operation of it has been done. -/
  started : Bool
  ops : List FlashOp
  deriving DecidableEq, Repr

/-- A run of flash bytes, `from_` up to `until_`, that an interruption has left unsteady: of a page program, where a bit meant to
be 0 may read 1, or of a sector erase (`erased`), where a byte may read anything (R898, R899). -/
structure Unsteady where
  from_ : Nat
  until_ : Nat
  erased : Bool
  deriving DecidableEq, Repr

/-- The external flash. -/
structure Flash where
  /-- Contents: an unlisted byte reads 0xFF, the erased value. -/
  mem : List Host.Cell
  /-- Bytes that an interrupted operation has left unsteady (R898, R899). -/
  unsteady : List Unsteady
  /-- What the firmware has to write, oldest first; the first operation of the first job asks for leave. -/
  jobs : List FlashJob
  /-- That operation has its leave and runs. -/
  busy : Bool
  /-- The commands on the QSPI bus of the last operation, oldest first (R846, R954). -/
  cmds : List FlashCmd
  /-- 16 MiB of flash are fitted; otherwise 8 MiB. -/
  big : Bool
  deriving DecidableEq, Repr

/-- Field update over SVC (chapter 15). -/
structure Svc where
  /-- Bits per second. -/
  baud : Nat
  /-- CORE cycle of the fall back to 115,200 baud (R862). -/
  fallbackAt : Option Nat
  /-- CMD, FSN and payload of the last frame answered, and its reply's body (R859). -/
  last : Option (Nat × Nat × List Byte)
  reply : List Byte
  /-- The frame sent last, with flags and stuffing; empty where the last frame was not answered. -/
  sent : List Byte
  /-- The command that still runs: CMD, FSN and payload (R857). -/
  running : Option (Nat × Nat × List Byte)
  discarded : Nat
  /-- STATE, STEP and RESULT of Table 15-7. -/
  st : Nat
  step : Nat
  result : Nat
  /-- The accepted manifest. -/
  manifest : List Byte
  /-- The target slot and GF copy. -/
  slot : Nat
  copy : Nat
  /-- NEXT of CF, PM and GF. -/
  nextCf : Nat
  nextPm : Nat
  nextGf : Nat
  /-- Activation steps not yet passed (R871); the first is in progress. -/
  steps : List Nat
  /-- The PM group whose ports are paused, the CORE cycle in which its self-test began, and whether it runs the
  previous PM again (R876, R878). -/
  pm : Option (Nat × Nat × Bool)
  /-- CORE cycle in which the CF pause began, and whether it brings the old CF back (R880, R884). -/
  pause : Option (Nat × Bool)
  /-- Slot of the old CF image that is kept in RAM (R880). -/
  oldSlot : Option Nat
  /-- CORE cycle in which a rejection mark whose leave timed out is programmed again, and its slot (R884). -/
  markRetry : Option (Nat × Nat)
  deriving DecidableEq, Repr

/-- The configuration store as the firmware keeps it (15.8). Words are keyed by space × 2^20 + address. -/
structure CfgStore where
  /-- The newest committed value of each stored word. -/
  committed : Tbl Word
  /-- Words of accepted MP frames that are not yet committed, in frame order. -/
  owed : List (List (Nat × Word))
  /-- How many of them the journal write in progress carries. -/
  writing : Nat
  /-- The current bank, if there is one (R893). -/
  bank : Option Nat
  /-- Next free offset in it. -/
  next : Nat
  /-- Highest SEQ found or written in either bank. -/
  seq : Nat
  /-- The walk of the current bank stopped at a damaged record (R896). -/
  damaged : Bool
  /-- The journal write in progress goes to this bank, and leaves the next free offset here. -/
  goal : Nat × Nat
  deriving DecidableEq, Repr

/-! ### Uplinks (chapter 10) -/

/-- One entry of a batch (R619): a record's words, a GAP word taken from the queue, or late records left out. -/
inductive BEntry
  | record (words : List QWord)
  | gap (cause cls count : Nat)
  /-- Records of one class that the builder left out as late (R52, R620). -/
  | late (cls count : Nat)
  deriving DecidableEq, Repr

/-- An open batch of a tenant (R621, R622). -/
structure Batch where
  entries : List BEntry
  /-- CORE cycle at which BATCH_US expires. -/
  due : Nat
  /-- Earliest deadline of its records, as Ring time in ns (R53). -/
  deadline : Option Nat
  /-- Classes of its records. -/
  classes : List Nat
  /-- It has taken an ALARM record (R54). -/
  alarm : Bool
  deriving DecidableEq, Repr

/-- An address a datagram goes to: Ethernet address, IP address, UDP port. -/
structure Peer where
  mac : List Byte
  ip : Nat
  port : Nat
  deriving DecidableEq, Repr

/-- A datagram that an uplink holds (10.5, 10.6). -/
structure Dgram where
  tenant : Nat
  typ : Nat
  body : List Byte
  /-- The build job of a batch, once it has a slot; `none` before that and for a reply. -/
  job : Option Nat
  /-- It needs a job and has none yet (R623). -/
  waits : Bool
  /-- Deadline as Ring time in ns; a reply's is 300 µs after its request. -/
  deadline : Nat
  /-- Classes of the records it holds. -/
  classes : List Nat
  /-- A BATCH: its FLAGS byte is completed at build (Table 10-4). -/
  batch : Bool
  /-- Where it goes: uplink and address. Empty: the tenant's peers as they stand at hand-off. -/
  dest : List (Nat × Peer)
  deriving DecidableEq, Repr

/-- A refusal that waits for its due time (R633). -/
structure Refuse where
  at_ : Nat
  frame : List Byte
  deriving DecidableEq, Repr

/-- What a frame that passed the checks of 10.3 brings. -/
inductive Inbound
  | arp
  | echo
  | request
  deriving DecidableEq, Repr

/-- A frame that waits for its answer: what it brings, when its last byte arrived, from whom, and the bytes
(the UDP payload, the ICMP message, or nothing). -/
structure Arrival where
  kind : Inbound
  at_ : Nat
  stamp : Stamp
  src : Peer
  bytes : List Byte
  deriving DecidableEq, Repr

/-- An MDIO frame in progress (R597, R598): the CORE cycle in which it began, and what MDIO_CMD gave. -/
structure MdioFrame where
  from_ : Nat
  phy : Nat
  reg : Nat
  write : Bool
  data : Nat
  deriving DecidableEq, Repr

/-- One uplink. -/
structure Uplink where
  /-- Frames passed on and not yet answered, oldest first. -/
  inbox : List Arrival
  /-- Datagrams closed and not yet built, oldest first. -/
  queue : List Dgram
  /-- The datagram that is built and waits for its hand-off, with its UDP payload. -/
  build : Option (Dgram × List Byte)
  /-- The frames that the last sending command handed to the MAC. -/
  sent : List (List Byte)
  refuse : List Refuse
  /-- CORE cycle from which a further frame may start (R596). -/
  busyUntil : Nat
  /-- IPv4 identification of the next packet (R605). -/
  ipId : Nat
  /-- CORE cycle at which the DIE units are released (R625). -/
  releaseAt : Option Nat
  /-- CORE cycle of the next leave request after a timeout (R625). -/
  retryAt : Option Nat
  deriving DecidableEq, Repr

/-- Per-tenant data behind the TENANT and KEYS spaces. -/
structure Tenant where
  key : List Byte
  batch : Option Batch
  /-- TAG of the request that set RX_CTR, and the CORE cycle of its arrival (R630). -/
  rxTag : Option (List Byte × Nat)
  deriving DecidableEq, Repr

/-! ### The whole -/

/-- The machine. -/
structure State where
  variant : Variant
  regs : Tbl Nat
  cyc : Cyc
  /-- CORE cycles of 4 ns since power was applied. -/
  now : Nat
  ring : Ring
  clk : Clk
  sys : Sys
  mp : Mp
  queues : Tbl Queue
  store : Store
  ports : Tbl Port
  cop : Tbl CopPort
  polls : Tbl PollRun
  groups : Tbl GroupRun
  jobs : List Job
  /-- The next job's number. -/
  nextJob : Nat
  releases : List Release
  canopy : Canopy
  tenants : Tbl Tenant
  cards : Tbl Card
  leave : Leave
  guards : Tbl Guard
  lines : Tbl GLine
  lineCtl : Tbl LineCtl
  uplinks : Tbl Uplink
  /-- The MDIO frame in progress (R598). -/
  mdio : Option MdioFrame
  logs : Logs
  flash : Flash
  svc : Svc
  cfg : CfgStore
  /-- MODEL'S OWN: how many free values have been drawn. -/
  free : Nat
  pending : List Instr
  deriving DecidableEq, Repr

/-- The machine right after a cold power-on reset has begun, before reset is released (Table 14-2, R805): the SX-4848,
every register at the reset value of its field (an unlisted field of `regs` holds it), every queue empty, every block
free, no guard powered yet, and an erased flash.
DESIGN CHOICE (assumptions 6, 10, 12, 111). DEDUCED (assumption 11). -/
def State.reset : State where
  variant := .sx4848
  regs := []
  cyc := { sw := [], inc := [], set := [], late := [] }
  now := 0
  ring := { sec := 0, acc := 0 }
  clk := { locked := false, lastMark := none, f := 0, w9 := .none, pulseEnd := none, tmOutHigh := false, w9Free := none,
           tmLevel := false, segs := [] }
  sys := { phase := .reset, warm := false, pendingFlag := false, bootFails := 0, runningSlot := none, primary := none, swReset := none,
           releaseAt := 0, recoveryN := true, svcEn := false, oweRtState := false, pmOut := [], deferredTenants := [],
           confirmFrom := none, wellFrom := none }
  mp := { lastOp := 0, lastStatus := 0, lastArg := 0, lastDone := 0, frameSeq := 0, crcBad := 0, abort := 0, request := 0, reply := [],
          answer := 0, retained := none, qread := none, qwrite := none, stamp := ⟨0, 0, 0⟩, body := [] }
  queues := []
  store := { lanes := [], allocWait := [], lastAlloc := 225, releases := [], free := 131072, held := 0,
             arb := { last := [], run := 0, given := [] } }
  ports := []
  cop := []
  polls := []
  groups := []
  jobs := []
  nextJob := 0
  releases := []
  canopy := { run := none, last := 50, decim := [], waitWrite := none, freeFrom := 0 }
  tenants := []
  cards := []
  leave := { die := [], field := [], dieGr := [], fieldGr := [], warm := false, hot := false, hotGuards := [] }
  guards := []
  lines := []
  lineCtl := []
  uplinks := []
  mdio := none
  logs := { ev := [], ref := [], flashWait := [], page := none, ringPos := 0, retryAt := none }
  flash := { mem := [], unsteady := [], jobs := [], busy := false, cmds := [], big := false }
  svc := { baud := 115200, fallbackAt := none, last := none, reply := [], sent := [], running := none, discarded := 0,
           st := 0, step := 0xFF, result := 0, manifest := [], slot := 0, copy := 0, nextCf := 0, nextPm := 0, nextGf := 0,
           steps := [], pm := none, pause := none, oldSlot := none, markRetry := none }
  cfg := { committed := [], owed := [], writing := 0, bank := none, next := 0, seq := 0, damaged := false, goal := (0, 0) }
  free := 0
  pending := []

end Sys2Proof.Machine
end

