-- ==== Sys2Proof/Machine/Fields.lean ====
section
/-! DEFINITION. Every field of every register field table of the spec, as a descriptor: space, word,
lowest bit, width, access code (Table 0-2), reset value, clash code (Table 0-3), and for a clash-A
counter whether it wraps or saturates. The value of a field instance is kept in `State.regs`. -/

namespace Sys2Proof.Machine

/-- Access codes (Table 0-2, R22). -/
inductive Acc
  | ro | rw | w1c | wo | sc
  deriving DecidableEq, Repr

/-- Clash codes (Table 0-3, R24). -/
inductive Clash
  | s | h | a | n
  deriving DecidableEq, Repr

/-- How a counter counts: not a counter, wrapping, or saturating (R709). -/
inductive Ctr
  | none | wrap | sat
  deriving DecidableEq, Repr

/-- Reset values: a number, or one that the variant, the silicon or the entry's index decides. -/
inductive Rst
  | num (n : Nat)
  | devId | silStep | silBase | silRom | capGuards | capUplinks | capCards | capPm
  | ports | tenants | scale | blocks | slots | guarSum | uplinkIdx | tenantEn | guar | ringEntries
  deriving DecidableEq, Repr

/-- One field of a register field table. `stride` is the entry size in words; 0 for a lone word. -/
structure Fld where
  space : Nat
  stride : Nat
  word : Nat
  lo : Nat
  width : Nat
  acc : Acc
  rst : Rst
  clash : Clash
  ctr : Ctr
  deriving DecidableEq, Repr

/-! direct: 12_register_reference.md Table 12-1 (R716) -/
def RG.DEV_ID : Fld := ⟨0, 0, 0, 0, 32, .ro, .devId, .n, .none⟩
def RG.DEV_STEP : Fld := ⟨0, 0, 1, 0, 4, .ro, .silStep, .n, .none⟩
def RG.DEV_BASE : Fld := ⟨0, 0, 1, 4, 4, .ro, .silBase, .n, .none⟩
def RG.ROM_VER : Fld := ⟨0, 0, 1, 8, 16, .ro, .silRom, .n, .none⟩
def RG.CAP_GUARDS : Fld := ⟨0, 0, 2, 0, 6, .ro, .capGuards, .n, .none⟩
def RG.CAP_UPLINKS : Fld := ⟨0, 0, 2, 6, 2, .ro, .capUplinks, .n, .none⟩
def RG.CAP_CARDS : Fld := ⟨0, 0, 2, 8, 2, .ro, .capCards, .n, .none⟩
def RG.CAP_PM_GROUPS : Fld := ⟨0, 0, 2, 10, 6, .ro, .capPm, .n, .none⟩
def RG.CAP_TM : Fld := ⟨0, 0, 2, 16, 1, .ro, (.num 1), .n, .none⟩
def RG.LINE_PORTS : Fld := ⟨0, 0, 3, 0, 8, .ro, .ports, .n, .none⟩
def RG.TENANTS : Fld := ⟨0, 0, 3, 8, 8, .ro, .tenants, .n, .none⟩
def RG.SCALE : Fld := ⟨0, 0, 3, 16, 2, .ro, .scale, .n, .none⟩
/-! direct: 12_register_reference.md Table 12-5 (R723) -/
def RG.SERVICE_READY : Fld := ⟨0, 0, 4, 0, 1, .ro, (.num 0), .n, .none⟩
def RG.RECOVERY : Fld := ⟨0, 0, 4, 1, 1, .ro, (.num 0), .n, .none⟩
def RG.CFG_RESTORED : Fld := ⟨0, 0, 4, 2, 1, .ro, (.num 0), .n, .none⟩
def RG.CFG_DEFAULTS : Fld := ⟨0, 0, 4, 3, 1, .ro, (.num 0), .n, .none⟩
def RG.CFG_BANK : Fld := ⟨0, 0, 4, 4, 1, .ro, (.num 0), .n, .none⟩
def RG.SVC_EN : Fld := ⟨0, 0, 4, 5, 1, .ro, (.num 0), .n, .none⟩
def RG.RECOVERY_N : Fld := ⟨0, 0, 4, 6, 1, .ro, (.num 0), .n, .none⟩
def RG.WARM : Fld := ⟨0, 0, 4, 7, 1, .ro, (.num 0), .n, .none⟩
def RG.RESET_CAUSE : Fld := ⟨0, 0, 4, 8, 4, .ro, (.num 0), .n, .none⟩
def RG.RECOVERY_CAUSE : Fld := ⟨0, 0, 4, 12, 2, .ro, (.num 0), .n, .none⟩
def RG.ACTIVATING : Fld := ⟨0, 0, 4, 14, 1, .ro, (.num 0), .n, .none⟩
/-! direct: 12_register_reference.md Table 12-6 (R725) -/
def RG.RST_GO : Fld := ⟨0, 0, 5, 0, 1, .wo, (.num 0), .n, .none⟩
def RG.RST_KEY : Fld := ⟨0, 0, 5, 16, 16, .wo, (.num 0), .n, .none⟩
/-! direct: 12_register_reference.md Table 12-7 (R727) -/
def RG.IRQ_READY : Fld := ⟨0, 0, 6, 0, 1, .w1c, (.num 0), .h, .none⟩
def RG.IRQ_CLOCK : Fld := ⟨0, 0, 6, 1, 1, .w1c, (.num 0), .h, .none⟩
def RG.IRQ_LINE : Fld := ⟨0, 0, 6, 2, 1, .w1c, (.num 0), .h, .none⟩
def RG.IRQ_GRAMMAR : Fld := ⟨0, 0, 6, 3, 1, .w1c, (.num 0), .h, .none⟩
def RG.IRQ_GUARD : Fld := ⟨0, 0, 6, 4, 1, .w1c, (.num 0), .h, .none⟩
def RG.IRQ_LEAVE : Fld := ⟨0, 0, 6, 5, 1, .w1c, (.num 0), .h, .none⟩
def RG.IRQ_QUEUE : Fld := ⟨0, 0, 6, 6, 1, .w1c, (.num 0), .h, .none⟩
def RG.IRQ_LATE : Fld := ⟨0, 0, 6, 7, 1, .w1c, (.num 0), .h, .none⟩
def RG.IRQ_POLL : Fld := ⟨0, 0, 6, 8, 1, .w1c, (.num 0), .h, .none⟩
def RG.IRQ_UPLINK : Fld := ⟨0, 0, 6, 9, 1, .w1c, (.num 0), .h, .none⟩
def RG.IRQ_CARD : Fld := ⟨0, 0, 6, 10, 1, .w1c, (.num 0), .h, .none⟩
def RG.IRQ_REFUSAL : Fld := ⟨0, 0, 6, 11, 1, .w1c, (.num 0), .h, .none⟩
def RG.IRQ_EVENT : Fld := ⟨0, 0, 6, 12, 1, .w1c, (.num 0), .h, .none⟩
def RG.IRQ_CONFLICT : Fld := ⟨0, 0, 6, 13, 1, .w1c, (.num 0), .h, .none⟩
def RG.IRQ_THERMAL : Fld := ⟨0, 0, 6, 14, 1, .w1c, (.num 0), .h, .none⟩
def RG.IRQ_FIRMWARE : Fld := ⟨0, 0, 6, 15, 1, .w1c, (.num 0), .h, .none⟩
def RG.IRQ_FLASH : Fld := ⟨0, 0, 6, 16, 1, .w1c, (.num 0), .h, .none⟩
def RG.IRQ_MASK : Fld := ⟨0, 0, 7, 0, 17, .rw, (.num 0), .n, .none⟩
/-! direct: 11_management_port.md Table 11-9 (R686) -/
def RG.HCMD_GO : Fld := ⟨0, 0, 8, 0, 1, .sc, (.num 0), .s, .none⟩
def RG.HCMD_KIND : Fld := ⟨0, 0, 8, 1, 3, .rw, (.num 0), .n, .none⟩
def RG.HCMD_NO_REPLY : Fld := ⟨0, 0, 8, 4, 1, .rw, (.num 0), .n, .none⟩
def RG.BODY_CLR : Fld := ⟨0, 0, 8, 5, 1, .sc, (.num 0), .s, .none⟩
def RG.HCMD_N : Fld := ⟨0, 0, 8, 8, 6, .rw, (.num 0), .n, .none⟩
def RG.HCMD_TALKER : Fld := ⟨0, 0, 8, 16, 12, .rw, (.num 0), .n, .none⟩
def RG.HCMD_BODY : Fld := ⟨0, 0, 9, 0, 32, .wo, (.num 0), .n, .none⟩
def RG.HCMD_RESULT : Fld := ⟨0, 0, 10, 0, 2, .ro, (.num 0), .n, .none⟩
def RG.HCMD_REASON : Fld := ⟨0, 0, 10, 4, 4, .ro, (.num 0), .n, .none⟩
def RG.BODY_LEN : Fld := ⟨0, 0, 10, 8, 6, .ro, (.num 0), .n, .none⟩
def RG.ACC_CNT : Fld := ⟨0, 0, 10, 16, 16, .rw, (.num 0), .a, .sat⟩
def RG.ACC_SEC : Fld := ⟨0, 0, 11, 0, 32, .ro, (.num 0), .n, .none⟩
def RG.ACC_NS : Fld := ⟨0, 0, 12, 0, 32, .ro, (.num 0), .n, .none⟩
/-! direct: 02_clocks_and_ring_time.md Table 2-4 (R93) -/
def RG.RT_SET : Fld := ⟨0, 0, 17, 0, 1, .sc, (.num 0), .s, .none⟩
def RG.RT_STEP_GO : Fld := ⟨0, 0, 17, 1, 1, .sc, (.num 0), .s, .none⟩
def RG.LOCK_EN : Fld := ⟨0, 0, 17, 2, 1, .rw, (.num 0), .n, .none⟩
def RG.TM_EDGE : Fld := ⟨0, 0, 17, 3, 1, .rw, (.num 0), .n, .none⟩
/-! direct: 12_register_reference.md Table 12-8 (R729) -/
def RG.PLL_LOCK : Fld := ⟨0, 0, 16, 0, 1, .ro, (.num 0), .n, .none⟩
def RG.LOCK_TIME : Fld := ⟨0, 0, 16, 8, 8, .ro, (.num 0), .n, .none⟩
def RG.QUALITY : Fld := ⟨0, 0, 18, 0, 2, .ro, (.num 0), .n, .none⟩
def RG.LOCK_STATE : Fld := ⟨0, 0, 18, 2, 1, .ro, (.num 0), .n, .none⟩
def RG.REF_VALID : Fld := ⟨0, 0, 18, 3, 1, .ro, (.num 0), .n, .none⟩
def RG.STREAK : Fld := ⟨0, 0, 18, 4, 3, .ro, (.num 0), .n, .none⟩
def RG.RT_NOW_SEC : Fld := ⟨0, 0, 19, 0, 32, .ro, (.num 0), .n, .none⟩
def RG.RT_NOW_NS : Fld := ⟨0, 0, 20, 0, 32, .ro, (.num 0), .n, .none⟩
def RG.RT_SET_SEC : Fld := ⟨0, 0, 21, 0, 32, .rw, (.num 0), .n, .none⟩
def RG.RT_SET_NS : Fld := ⟨0, 0, 22, 0, 30, .rw, (.num 0), .n, .none⟩
def RG.RT_STEP : Fld := ⟨0, 0, 23, 0, 32, .rw, (.num 0), .n, .none⟩
def RG.RT_RATE : Fld := ⟨0, 0, 24, 0, 32, .rw, (.num 0), .s, .none⟩
def RG.DELAY_NS : Fld := ⟨0, 0, 25, 0, 16, .rw, (.num 0), .n, .none⟩
def RG.TM_LAST_ERR : Fld := ⟨0, 0, 26, 0, 32, .ro, (.num 0), .n, .none⟩
def RG.TM_REJECTED : Fld := ⟨0, 0, 27, 0, 16, .ro, (.num 0), .n, .none⟩
def RG.TM_ACCEPTED : Fld := ⟨0, 0, 27, 16, 16, .ro, (.num 0), .n, .none⟩
def RG.TM_OUT_EN : Fld := ⟨0, 0, 28, 0, 1, .rw, (.num 0), .n, .none⟩
def RG.TM_OUT_POL : Fld := ⟨0, 0, 28, 1, 1, .rw, (.num 0), .n, .none⟩
def RG.TM_OUT_QGATE : Fld := ⟨0, 0, 28, 2, 1, .rw, (.num 0), .n, .none⟩
def RG.WIDTH_MS : Fld := ⟨0, 0, 28, 4, 10, .rw, (.num 100), .n, .none⟩
/-! direct: 12_register_reference.md Table 12-9 (R733) -/
def RG.DIE_BUDGET : Fld := ⟨0, 0, 32, 0, 8, .rw, (.num 60), .n, .none⟩
def RG.FIELD_BUDGET : Fld := ⟨0, 0, 33, 0, 13, .rw, (.num 0), .n, .none⟩
def RG.DIE_CHANGE : Fld := ⟨0, 0, 34, 0, 1, .ro, (.num 0), .n, .none⟩
def RG.FIELD_CHANGE : Fld := ⟨0, 0, 34, 1, 1, .ro, (.num 0), .n, .none⟩
def RG.DIE_WAITING : Fld := ⟨0, 0, 34, 8, 8, .ro, (.num 0), .n, .none⟩
def RG.FIELD_WAITING : Fld := ⟨0, 0, 34, 16, 16, .ro, (.num 0), .n, .none⟩
def RG.DIE_TIMEOUT : Fld := ⟨0, 0, 35, 0, 1, .w1c, (.num 0), .h, .none⟩
def RG.FIELD_TIMEOUT : Fld := ⟨0, 0, 35, 1, 1, .w1c, (.num 0), .h, .none⟩
def RG.DIE_WAIT : Fld := ⟨0, 0, 35, 2, 1, .w1c, (.num 0), .h, .none⟩
def RG.FIELD_WAIT : Fld := ⟨0, 0, 35, 3, 1, .w1c, (.num 0), .h, .none⟩
def RG.DIE_TO_CNT : Fld := ⟨0, 0, 36, 0, 16, .rw, (.num 0), .a, .sat⟩
def RG.FIELD_TO_CNT : Fld := ⟨0, 0, 36, 16, 16, .rw, (.num 0), .a, .sat⟩
def RG.DIE_GRANT_CNT : Fld := ⟨0, 0, 37, 0, 32, .rw, (.num 0), .a, .wrap⟩
def RG.FIELD_GRANT_CNT : Fld := ⟨0, 0, 38, 0, 32, .rw, (.num 0), .a, .wrap⟩
def RG.DIE_HWM : Fld := ⟨0, 0, 39, 0, 8, .rw, (.num 0), .s, .none⟩
def RG.FIELD_HWM : Fld := ⟨0, 0, 39, 16, 13, .rw, (.num 0), .s, .none⟩
def RG.FW_LEAVE_TO_MS : Fld := ⟨0, 0, 40, 0, 16, .rw, (.num 5000), .n, .none⟩
def RG.BRK_LEAVE_TO_MS : Fld := ⟨0, 0, 40, 16, 16, .rw, (.num 50), .n, .none⟩
def RG.DIE_TEMP : Fld := ⟨0, 0, 41, 0, 10, .ro, (.num 0), .n, .none⟩
def RG.WARN_C : Fld := ⟨0, 0, 42, 0, 8, .rw, (.num 125), .n, .none⟩
def RG.HOT_C : Fld := ⟨0, 0, 42, 8, 8, .rw, (.num 140), .n, .none⟩
def RG.THERM_WARN : Fld := ⟨0, 0, 43, 0, 1, .w1c, (.num 0), .h, .none⟩
def RG.THERM_HOT : Fld := ⟨0, 0, 43, 1, 1, .w1c, (.num 0), .h, .none⟩
/-! direct: 09_understory_queues.md Table 9-12 (R579) -/
def RG.BLK_FREE : Fld := ⟨0, 0, 48, 0, 18, .ro, .blocks, .n, .none⟩
def RG.BLK_HELD : Fld := ⟨0, 0, 49, 0, 18, .ro, (.num 0), .n, .none⟩
def RG.BLK_MOTION : Fld := ⟨0, 0, 50, 0, 4, .ro, (.num 0), .n, .none⟩
def RG.BLK_TOTAL : Fld := ⟨0, 0, 51, 0, 18, .ro, .blocks, .n, .none⟩
def RG.CR_SEL : Fld := ⟨0, 0, 55, 0, 8, .rw, (.num 0), .n, .none⟩
def RG.CR_GUAR_USED : Fld := ⟨0, 0, 56, 0, 18, .ro, (.num 0), .n, .none⟩
def RG.CR_BORROWED : Fld := ⟨0, 0, 57, 0, 18, .ro, (.num 0), .n, .none⟩
def RG.CR_SHARED_USED : Fld := ⟨0, 0, 58, 0, 18, .ro, (.num 0), .n, .none⟩
/-! direct: 07_coppice_scheduler.md Table 7-9 (R455) -/
def RG.JOB_IDLE : Fld := ⟨0, 0, 52, 0, 10, .ro, .slots, .n, .none⟩
def RG.JOB_ACTIVE : Fld := ⟨0, 0, 52, 10, 10, .ro, (.num 0), .n, .none⟩
def RG.JOB_RETIRING : Fld := ⟨0, 0, 52, 20, 10, .ro, (.num 0), .n, .none⟩
def RG.KIND_FWD : Fld := ⟨0, 0, 53, 0, 10, .ro, (.num 0), .n, .none⟩
def RG.KIND_POLL : Fld := ⟨0, 0, 53, 10, 10, .ro, (.num 0), .n, .none⟩
def RG.KIND_LISTEN : Fld := ⟨0, 0, 53, 20, 10, .ro, (.num 0), .n, .none⟩
def RG.KIND_UPLINK : Fld := ⟨0, 0, 54, 0, 10, .ro, (.num 0), .n, .none⟩
def RG.KIND_CARD : Fld := ⟨0, 0, 54, 10, 10, .ro, (.num 0), .n, .none⟩
/-! direct: 12_register_reference.md Table 12-10 (R737) -/
def RG.LV_DIE_FREE : Fld := ⟨0, 0, 59, 0, 8, .ro, (.num 60), .n, .none⟩
def RG.LV_DIE_GRANTED : Fld := ⟨0, 0, 59, 8, 8, .ro, (.num 0), .n, .none⟩
def RG.LV_DIE_BUD : Fld := ⟨0, 0, 59, 16, 8, .ro, (.num 60), .n, .none⟩
def RG.LV_FIELD_FREE : Fld := ⟨0, 0, 60, 0, 13, .ro, (.num 0), .n, .none⟩
def RG.LV_FIELD_GRANTED : Fld := ⟨0, 0, 60, 16, 13, .ro, (.num 0), .n, .none⟩
def RG.LV_FIELD_BUD : Fld := ⟨0, 0, 61, 0, 13, .ro, (.num 0), .n, .none⟩
def RG.LV_DIE_CHG : Fld := ⟨0, 0, 61, 16, 1, .ro, (.num 0), .n, .none⟩
def RG.LV_FIELD_CHG : Fld := ⟨0, 0, 61, 17, 1, .ro, (.num 0), .n, .none⟩
/-! direct: 11_management_port.md Table 11-8 (R669) -/
def RG.WIN_SPACE : Fld := ⟨0, 4, 64, 0, 8, .rw, (.num 0), .n, .none⟩
def RG.WIN_ADDR : Fld := ⟨0, 4, 65, 0, 20, .rw, (.num 0), .n, .none⟩
def RG.WIN_DATA : Fld := ⟨0, 4, 66, 0, 32, .rw, (.num 0), .n, .none⟩
def RG.WIN_INC : Fld := ⟨0, 4, 67, 0, 1, .rw, (.num 1), .n, .none⟩
/-! direct: 09_understory_queues.md Table 9-11 (R579) -/
def RG.SHARED_POOL : Fld := ⟨0, 0, 80, 0, 18, .rw, (.num 0), .n, .none⟩
def RG.SHARED_USED : Fld := ⟨0, 0, 81, 0, 18, .ro, (.num 0), .n, .none⟩
def RG.GUAR_SUM : Fld := ⟨0, 0, 82, 0, 18, .ro, .guarSum, .n, .none⟩
def RG.UQ_POISON : Fld := ⟨0, 0, 83, 0, 1, .w1c, (.num 0), .h, .none⟩
def RG.UQ_SRC_DISC : Fld := ⟨0, 0, 83, 1, 1, .w1c, (.num 0), .h, .none⟩
def RG.UQ_TX_DISC : Fld := ⟨0, 0, 83, 2, 1, .w1c, (.num 0), .h, .none⟩
def RG.POISON_WORDS : Fld := ⟨0, 0, 84, 0, 32, .rw, (.num 0), .a, .wrap⟩
def RG.SRC_DISC_CNT : Fld := ⟨0, 0, 85, 0, 16, .rw, (.num 0), .a, .sat⟩
def RG.TX_DISC_CNT : Fld := ⟨0, 0, 85, 16, 16, .rw, (.num 0), .a, .sat⟩
/-! direct: 12_register_reference.md Table 12-11 (R742) -/
def RG.CF_VER : Fld := ⟨0, 0, 96, 0, 32, .ro, (.num 0), .n, .none⟩
def RG.CF_ALT_VER : Fld := ⟨0, 0, 97, 0, 32, .ro, (.num 0), .n, .none⟩
def RG.SLOT : Fld := ⟨0, 0, 98, 0, 1, .ro, (.num 0), .n, .none⟩
def RG.CONFIRMED : Fld := ⟨0, 0, 98, 1, 1, .ro, (.num 0), .n, .none⟩
def RG.REVERTED : Fld := ⟨0, 0, 98, 2, 1, .ro, (.num 0), .n, .none⟩
def RG.BOOT_FAILS : Fld := ⟨0, 0, 98, 3, 2, .ro, (.num 0), .n, .none⟩
def RG.PM_REVERTED : Fld := ⟨0, 0, 98, 8, 6, .ro, (.num 0), .n, .none⟩
def RG.CONFIRM_LEFT_S : Fld := ⟨0, 0, 98, 16, 5, .ro, (.num 30), .n, .none⟩
def RG.UPDATE_ACTIVE : Fld := ⟨0, 0, 98, 24, 1, .ro, (.num 0), .n, .none⟩
def RG.PM_GEN_MIN : Fld := ⟨0, 0, 99, 0, 8, .ro, (.num 0), .n, .none⟩
def RG.PM_GEN_MAX : Fld := ⟨0, 0, 99, 8, 8, .ro, (.num 0), .n, .none⟩
def RG.GF_GEN_MIN : Fld := ⟨0, 0, 99, 16, 8, .ro, (.num 0), .n, .none⟩
def RG.GF_GEN_MAX : Fld := ⟨0, 0, 99, 24, 8, .ro, (.num 0), .n, .none⟩
def RG.PM_VER : Fld := ⟨0, 1, 100, 0, 32, .ro, (.num 0), .n, .none⟩
def RG.GF_VER : Fld := ⟨0, 1, 106, 0, 32, .ro, (.num 0), .n, .none⟩
/-! direct: 10_listeners_and_uplinks.md Table 10-6 (R638) -/
def RG.UL_MODE : Fld := ⟨0, 0, 112, 0, 1, .rw, (.num 0), .n, .none⟩
def RG.UDP_PORT : Fld := ⟨0, 0, 112, 16, 16, .rw, (.num 47100), .n, .none⟩
def RG.MDIO_WDATA : Fld := ⟨0, 0, 113, 0, 16, .rw, (.num 0), .n, .none⟩
def RG.MDIO_REGAD : Fld := ⟨0, 0, 113, 16, 5, .rw, (.num 0), .n, .none⟩
def RG.MDIO_PHYAD : Fld := ⟨0, 0, 113, 21, 5, .rw, (.num 0), .n, .none⟩
def RG.MDIO_OP : Fld := ⟨0, 0, 113, 26, 1, .rw, (.num 0), .n, .none⟩
def RG.MDIO_GO : Fld := ⟨0, 0, 113, 27, 1, .sc, (.num 0), .s, .none⟩
def RG.MDIO_RDATA : Fld := ⟨0, 0, 114, 0, 16, .ro, (.num 0), .n, .none⟩
def RG.MDIO_BUSY : Fld := ⟨0, 0, 114, 16, 1, .ro, (.num 0), .n, .none⟩
def RG.UL_LEAVE_TO_MS : Fld := ⟨0, 0, 115, 0, 16, .rw, (.num 100), .n, .none⟩
def RG.MIRROR_DUP_CNT : Fld := ⟨0, 0, 116, 0, 16, .rw, (.num 0), .a, .sat⟩
def RG.MIRROR_LOST : Fld := ⟨0, 0, 116, 16, 16, .rw, (.num 0), .a, .sat⟩
/-! uplink block: 10_listeners_and_uplinks.md Table 10-6 (R638) -/
def UL.EN : Fld := ⟨0, 12, 120, 0, 1, .rw, (.num 0), .n, .none⟩
def UL.SPEED : Fld := ⟨0, 12, 120, 1, 1, .rw, (.num 1), .n, .none⟩
def UL.VLAN_EN : Fld := ⟨0, 12, 120, 2, 1, .rw, (.num 0), .n, .none⟩
def UL.AUTOPOLL : Fld := ⟨0, 12, 120, 3, 1, .rw, (.num 0), .n, .none⟩
def UL.PHYAD : Fld := ⟨0, 12, 120, 8, 5, .rw, .uplinkIdx, .n, .none⟩
def UL.MAC_HI : Fld := ⟨0, 12, 121, 0, 16, .rw, (.num 0), .n, .none⟩
def UL.MAC_LO : Fld := ⟨0, 12, 122, 0, 32, .rw, (.num 0), .n, .none⟩
def UL.IP_ADDR : Fld := ⟨0, 12, 123, 0, 32, .rw, (.num 0), .n, .none⟩
def UL.VID : Fld := ⟨0, 12, 124, 0, 12, .rw, (.num 0), .n, .none⟩
def UL.PCP_ALARM : Fld := ⟨0, 12, 124, 12, 3, .rw, (.num 6), .n, .none⟩
def UL.PCP_CONTROL : Fld := ⟨0, 12, 124, 16, 3, .rw, (.num 5), .n, .none⟩
def UL.PCP_TELEMETRY : Fld := ⟨0, 12, 124, 20, 3, .rw, (.num 3), .n, .none⟩
def UL.PCP_BULK : Fld := ⟨0, 12, 124, 24, 3, .rw, (.num 1), .n, .none⟩
def UL.LINK_UP : Fld := ⟨0, 12, 125, 0, 1, .ro, (.num 0), .n, .none⟩
def UL.LEAVE_DENIED : Fld := ⟨0, 12, 125, 1, 1, .ro, (.num 0), .n, .none⟩
def UL.BUILD_BUSY : Fld := ⟨0, 12, 125, 2, 1, .ro, (.num 0), .n, .none⟩
def UL.LINK_DOWN : Fld := ⟨0, 12, 126, 0, 1, .w1c, (.num 0), .h, .none⟩
def UL.LINK_UP_EVT : Fld := ⟨0, 12, 126, 1, 1, .w1c, (.num 0), .h, .none⟩
def UL.LEAVE_TO : Fld := ⟨0, 12, 126, 2, 1, .w1c, (.num 0), .h, .none⟩
def UL.TX_FRAMES : Fld := ⟨0, 12, 127, 0, 32, .rw, (.num 0), .a, .wrap⟩
def UL.RX_FRAMES : Fld := ⟨0, 12, 128, 0, 32, .rw, (.num 0), .a, .wrap⟩
def UL.RX_DROP : Fld := ⟨0, 12, 129, 0, 32, .rw, (.num 0), .a, .wrap⟩
def UL.RX_ERR : Fld := ⟨0, 12, 130, 0, 16, .rw, (.num 0), .a, .sat⟩
def UL.REFUSE_LOST : Fld := ⟨0, 12, 130, 16, 16, .rw, (.num 0), .a, .sat⟩
def UL.REFUSE_SENT : Fld := ⟨0, 12, 131, 0, 16, .rw, (.num 0), .a, .sat⟩
def UL.ECHO_CNT : Fld := ⟨0, 12, 131, 16, 16, .rw, (.num 0), .a, .sat⟩
/-! direct: 06_card_ports.md Table 6-8 (R391) -/
def RG.CP0_EN : Fld := ⟨0, 0, 144, 0, 1, .rw, (.num 0), .n, .none⟩
def RG.CP1_EN : Fld := ⟨0, 0, 144, 1, 1, .rw, (.num 0), .n, .none⟩
def RG.KEYLOAD_EN : Fld := ⟨0, 0, 144, 2, 1, .rw, (.num 0), .n, .none⟩
def RG.BADGE_EN : Fld := ⟨0, 0, 144, 3, 1, .rw, (.num 0), .n, .none⟩
def RG.BADGE_RECORDS : Fld := ⟨0, 0, 144, 4, 1, .rw, (.num 0), .n, .none⟩
def RG.KEYLOAD_RESULT : Fld := ⟨0, 0, 145, 0, 4, .ro, (.num 0), .n, .none⟩
def RG.KEYS_LOADED : Fld := ⟨0, 0, 145, 8, 8, .ro, (.num 0), .n, .none⟩
def RG.SITE_ID : Fld := ⟨0, 0, 146, 0, 32, .ro, (.num 0), .n, .none⟩
def RG.SITE_EXPECT : Fld := ⟨0, 0, 147, 0, 32, .rw, (.num 0), .n, .none⟩
def RG.BADGE_LAST_HI : Fld := ⟨0, 0, 148, 0, 32, .ro, (.num 0), .n, .none⟩
def RG.BADGE_LAST_LO : Fld := ⟨0, 0, 149, 0, 32, .ro, (.num 0), .n, .none⟩
/-! direct: 07_coppice_scheduler.md Table 7-8 (R455) -/
def RG.COP_EN : Fld := ⟨0, 0, 160, 0, 1, .rw, (.num 0), .n, .none⟩
def RG.CMD_BURST : Fld := ⟨0, 0, 160, 1, 4, .rw, (.num 2), .n, .none⟩
def RG.POLL_RESERVE : Fld := ⟨0, 0, 160, 8, 7, .rw, (.num 48), .n, .none⟩
def RG.SDI_BREAK_GAP_MS : Fld := ⟨0, 0, 160, 16, 8, .rw, (.num 85), .n, .none⟩
def RG.QUIET_LO : Fld := ⟨0, 0, 161, 0, 32, .rw, (.num 0), .n, .none⟩
def RG.QUIET_HI : Fld := ⟨0, 0, 162, 0, 16, .rw, (.num 0), .n, .none⟩
def RG.ALIGNED_LO : Fld := ⟨0, 0, 163, 0, 32, .ro, (.num 0), .n, .none⟩
def RG.ALIGNED_HI : Fld := ⟨0, 0, 164, 0, 32, .ro, (.num 0), .n, .none⟩
def RG.LATE_GRP_LO : Fld := ⟨0, 0, 165, 0, 32, .w1c, (.num 0), .h, .none⟩
def RG.LATE_GRP_HI : Fld := ⟨0, 0, 166, 0, 32, .w1c, (.num 0), .h, .none⟩
def RG.POLL_LATE_CNT : Fld := ⟨0, 0, 167, 0, 32, .rw, (.num 0), .a, .wrap⟩
def RG.CMD_SENT_CNT : Fld := ⟨0, 0, 168, 0, 16, .rw, (.num 0), .a, .sat⟩
def RG.CMD_REFUSED_CNT : Fld := ⟨0, 0, 168, 16, 16, .rw, (.num 0), .a, .sat⟩
def RG.SLOT_WAIT_CNT : Fld := ⟨0, 0, 169, 0, 32, .rw, (.num 0), .a, .wrap⟩
def RG.SLOT_HWM : Fld := ⟨0, 0, 170, 0, 10, .rw, (.num 0), .s, .none⟩
def RG.GAP_GRANT_CNT : Fld := ⟨0, 0, 171, 0, 16, .rw, (.num 0), .a, .sat⟩
def RG.GAP_BROKEN_CNT : Fld := ⟨0, 0, 171, 16, 16, .rw, (.num 0), .a, .sat⟩
/-! direct: 08_canopy_and_tenants.md Table 8-4 (R509) -/
def RG.CANOPY_EN : Fld := ⟨0, 0, 176, 0, 1, .rw, (.num 0), .n, .none⟩
def RG.CANOPY_HELD : Fld := ⟨0, 0, 177, 0, 1, .ro, (.num 1), .n, .none⟩
def RG.CANOPY_BUSY : Fld := ⟨0, 0, 177, 1, 1, .ro, (.num 0), .n, .none⟩
def RG.CLASSIFIED_CNT : Fld := ⟨0, 0, 178, 0, 32, .rw, (.num 0), .a, .wrap⟩
def RG.NOMATCH_CNT : Fld := ⟨0, 0, 179, 0, 32, .rw, (.num 0), .a, .wrap⟩
def RG.DROP_CNT : Fld := ⟨0, 0, 180, 0, 32, .rw, (.num 0), .a, .wrap⟩
def RG.EMPTY_CNT : Fld := ⟨0, 0, 181, 0, 32, .rw, (.num 0), .a, .wrap⟩
def RG.MASKED_CNT : Fld := ⟨0, 0, 182, 0, 32, .rw, (.num 0), .a, .wrap⟩
def RG.LATE_CLASS_CNT : Fld := ⟨0, 0, 183, 0, 32, .rw, (.num 0), .a, .wrap⟩
def RG.ALARM_CNT : Fld := ⟨0, 0, 184, 0, 32, .rw, (.num 0), .a, .wrap⟩
def RG.CONTROL_CNT : Fld := ⟨0, 0, 185, 0, 32, .rw, (.num 0), .a, .wrap⟩
def RG.TELEMETRY_CNT : Fld := ⟨0, 0, 186, 0, 32, .rw, (.num 0), .a, .wrap⟩
def RG.BULK_CNT : Fld := ⟨0, 0, 187, 0, 32, .rw, (.num 0), .a, .wrap⟩
def RG.LOG_CNT : Fld := ⟨0, 0, 188, 0, 16, .rw, (.num 0), .a, .sat⟩
/-! direct: 04_kl08_line_guard.md Table 4-7 (R257) -/
def RG.GUARD_PRESENT : Fld := ⟨0, 0, 192, 0, 6, .ro, (.num 0), .n, .none⟩
def RG.GUARD_LINK_OK : Fld := ⟨0, 0, 192, 8, 6, .ro, (.num 0), .n, .none⟩
def RG.GA_LINK_FAULT : Fld := ⟨0, 0, 193, 0, 6, .w1c, (.num 0), .h, .none⟩
def RG.GA_SUPPLY : Fld := ⟨0, 0, 193, 8, 6, .w1c, (.num 0), .h, .none⟩
def RG.GA_RECOVERY : Fld := ⟨0, 0, 193, 16, 6, .w1c, (.num 0), .h, .none⟩
def RG.GA_DIE_HOT : Fld := ⟨0, 0, 193, 24, 6, .w1c, (.num 0), .h, .none⟩
def RG.PWR_LEAVE_TO_MS : Fld := ⟨0, 0, 194, 0, 16, .rw, (.num 2000), .n, .none⟩
def RG.TRIM_DEFER_MS : Fld := ⟨0, 0, 194, 16, 16, .rw, (.num 500), .n, .none⟩
def RG.LEAK_WINDOW_S : Fld := ⟨0, 0, 195, 0, 12, .rw, (.num 60), .n, .none⟩
def RG.SLICE_MARGIN_US : Fld := ⟨0, 0, 195, 16, 8, .rw, (.num 100), .n, .none⟩
def RG.GL_ERR_CNT : Fld := ⟨0, 0, 202, 0, 16, .rw, (.num 0), .a, .sat⟩
def RG.GL_HOLD_TO_CNT : Fld := ⟨0, 0, 202, 16, 16, .rw, (.num 0), .a, .sat⟩
def RG.MON_VFIELD_MV : Fld := ⟨0, 1, 196, 0, 16, .ro, (.num 0), .n, .none⟩
def RG.MON_DIE_TEMP : Fld := ⟨0, 1, 196, 16, 8, .ro, (.num 0), .n, .none⟩
def RG.MON_STATE : Fld := ⟨0, 1, 196, 24, 3, .ro, (.num 0), .n, .none⟩
/-! direct: 12_register_reference.md Table 12-12 (R744) -/
def RG.FAULT_SUM : Fld := ⟨0, 0, 208, 0, 32, .ro, (.num 0), .n, .none⟩
def RG.PORT_EVT_LO : Fld := ⟨0, 0, 209, 0, 32, .ro, (.num 0), .n, .none⟩
def RG.PORT_EVT_HI : Fld := ⟨0, 0, 210, 0, 16, .ro, (.num 0), .n, .none⟩
def RG.TENANT_LATE0 : Fld := ⟨0, 0, 211, 0, 32, .ro, (.num 0), .n, .none⟩
def RG.TENANT_LATE1 : Fld := ⟨0, 0, 212, 0, 32, .ro, (.num 0), .n, .none⟩
def RG.TENANT_LATE2 : Fld := ⟨0, 0, 213, 0, 32, .ro, (.num 0), .n, .none⟩
def RG.TENANT_LATE3 : Fld := ⟨0, 0, 214, 0, 32, .ro, (.num 0), .n, .none⟩
def RG.LATE_SUM_ALARM : Fld := ⟨0, 0, 215, 0, 32, .rw, (.num 0), .a, .wrap⟩
def RG.LATE_SUM_CONTROL : Fld := ⟨0, 0, 216, 0, 32, .rw, (.num 0), .a, .wrap⟩
def RG.LATE_SUM_TELEMETRY : Fld := ⟨0, 0, 217, 0, 32, .rw, (.num 0), .a, .wrap⟩
def RG.LATE_SUM_BULK : Fld := ⟨0, 0, 218, 0, 32, .rw, (.num 0), .a, .wrap⟩
def RG.PROG_FAIL : Fld := ⟨0, 0, 219, 0, 1, .w1c, (.num 0), .h, .none⟩
def RG.ERASE_FAIL : Fld := ⟨0, 0, 219, 1, 1, .w1c, (.num 0), .h, .none⟩
def RG.EVENT_LOST_CNT : Fld := ⟨0, 0, 220, 0, 32, .rw, (.num 0), .a, .wrap⟩
/-! PORT: 03_line_engines.md Table 3-6 (R193) -/
def PT.EN : Fld := ⟨1, 32, 0, 0, 1, .rw, (.num 0), .n, .none⟩
def PT.P2P : Fld := ⟨1, 32, 0, 1, 1, .rw, (.num 0), .n, .none⟩
def PT.POL : Fld := ⟨1, 32, 0, 2, 1, .rw, (.num 0), .n, .none⟩
def PT.MSB_FIRST : Fld := ⟨1, 32, 0, 3, 1, .rw, (.num 0), .n, .none⟩
def PT.DATA_BITS : Fld := ⟨1, 32, 0, 4, 2, .rw, (.num 3), .n, .none⟩
def PT.PARITY : Fld := ⟨1, 32, 0, 6, 3, .rw, (.num 0), .n, .none⟩
def PT.STOP : Fld := ⟨1, 32, 0, 9, 2, .rw, (.num 0), .n, .none⟩
def PT.TX_BREAK : Fld := ⟨1, 32, 0, 11, 1, .sc, (.num 0), .s, .none⟩
def PT.LEAN_MEAS_EN : Fld := ⟨1, 32, 0, 12, 1, .rw, (.num 1), .n, .none⟩
def PT.LEAN_APPLY_EN : Fld := ⟨1, 32, 0, 13, 1, .rw, (.num 1), .n, .none⟩
/-! PORT: 03_line_engines.md Table 3-7 (R193) -/
def PT.BAUD_INC : Fld := ⟨1, 32, 1, 0, 32, .rw, (.num 824634), .n, .none⟩
def PT.P2P_TALKER : Fld := ⟨1, 32, 2, 0, 12, .rw, (.num 4095), .n, .none⟩
def PT.RX_TIMEOUT : Fld := ⟨1, 32, 3, 0, 8, .rw, (.num 4), .n, .none⟩
def PT.LEAD_US : Fld := ⟨1, 32, 4, 0, 8, .rw, (.num 5), .n, .none⟩
def PT.TAIL_US : Fld := ⟨1, 32, 4, 8, 8, .rw, (.num 5), .n, .none⟩
def PT.TURN_US : Fld := ⟨1, 32, 4, 16, 16, .rw, (.num 100), .n, .none⟩
def PT.BRK_MS : Fld := ⟨1, 32, 5, 0, 8, .rw, (.num 13), .n, .none⟩
def PT.MARK_MS : Fld := ⟨1, 32, 5, 8, 8, .rw, (.num 9), .n, .none⟩
def PT.BRK_DET : Fld := ⟨1, 32, 5, 16, 8, .rw, (.num 2), .n, .none⟩
/-! PORT: 03_line_engines.md Table 3-8 (R193) -/
def PT.RX_BUSY : Fld := ⟨1, 32, 6, 0, 1, .ro, (.num 0), .n, .none⟩
def PT.TX_BUSY : Fld := ⟨1, 32, 6, 1, 1, .ro, (.num 0), .n, .none⟩
def PT.IN_TRIM : Fld := ⟨1, 32, 6, 2, 1, .ro, (.num 0), .n, .none⟩
def PT.BRK_ACTIVE : Fld := ⟨1, 32, 6, 3, 1, .ro, (.num 0), .n, .none⟩
def PT.RELOAD_PENDING : Fld := ⟨1, 32, 6, 4, 1, .ro, (.num 0), .n, .none⟩
def PT.STAGE_FILL : Fld := ⟨1, 32, 6, 5, 6, .ro, (.num 0), .n, .none⟩
def PT.BLOCK_CLOSED : Fld := ⟨1, 32, 6, 11, 1, .ro, (.num 0), .n, .none⟩
def PT.TX_HOLD : Fld := ⟨1, 32, 6, 12, 1, .ro, (.num 0), .n, .none⟩
/-! PORT: 03_line_engines.md Table 3-9 (R193) -/
def PT.EV_OVERRUN : Fld := ⟨1, 32, 7, 0, 1, .w1c, (.num 0), .h, .none⟩
def PT.EV_FRAMING : Fld := ⟨1, 32, 7, 1, 1, .w1c, (.num 0), .h, .none⟩
def PT.EV_PARITY : Fld := ⟨1, 32, 7, 2, 1, .w1c, (.num 0), .h, .none⟩
def PT.EV_BREAK_DET : Fld := ⟨1, 32, 7, 3, 1, .w1c, (.num 0), .h, .none⟩
def PT.EV_LEAN_CLAMP : Fld := ⟨1, 32, 7, 4, 1, .w1c, (.num 0), .h, .none⟩
def PT.EV_TX_HELD : Fld := ⟨1, 32, 7, 5, 1, .w1c, (.num 0), .h, .none⟩
/-! PORT: 03_line_engines.md Table 3-10 (R193) -/
def PT.RX_CHARS : Fld := ⟨1, 32, 8, 0, 32, .ro, (.num 0), .n, .none⟩
def PT.MOVED_CHARS : Fld := ⟨1, 32, 9, 0, 32, .ro, (.num 0), .n, .none⟩
def PT.OVR_CHARS : Fld := ⟨1, 32, 10, 0, 32, .ro, (.num 0), .n, .none⟩
def PT.STAGE_AUDIT : Fld := ⟨1, 32, 11, 0, 6, .ro, (.num 0), .n, .none⟩
def PT.GLITCH_CNT : Fld := ⟨1, 32, 12, 0, 32, .rw, (.num 0), .a, .wrap⟩
def PT.FRAMING_CNT : Fld := ⟨1, 32, 13, 0, 16, .rw, (.num 0), .a, .sat⟩
def PT.PARITY_CNT : Fld := ⟨1, 32, 13, 16, 16, .rw, (.num 0), .a, .sat⟩
def PT.BREAK_CNT : Fld := ⟨1, 32, 14, 0, 16, .rw, (.num 0), .a, .sat⟩
def PT.LEAN_CLAMP_CNT : Fld := ⟨1, 32, 14, 16, 16, .rw, (.num 0), .a, .sat⟩
def PT.TX_HELD : Fld := ⟨1, 32, 15, 0, 32, .rw, (.num 0), .a, .wrap⟩
/-! PORT: 05_sentence_grammars.md Table 5-8 (R332) -/
def PT.GRAMMAR : Fld := ⟨1, 32, 16, 0, 3, .rw, (.num 0), .n, .none⟩
def PT.CK_REQUIRED : Fld := ⟨1, 32, 16, 3, 1, .rw, (.num 0), .n, .none⟩
def PT.SENT_TIMEOUT_MS : Fld := ⟨1, 32, 16, 16, 16, .rw, (.num 1000), .n, .none⟩
def PT.GE_NOISE : Fld := ⟨1, 32, 17, 0, 1, .w1c, (.num 0), .h, .none⟩
def PT.GE_CHECKSUM_BAD : Fld := ⟨1, 32, 17, 1, 1, .w1c, (.num 0), .h, .none⟩
def PT.GE_TRUNCATED : Fld := ⟨1, 32, 17, 2, 1, .w1c, (.num 0), .h, .none⟩
def PT.GE_UNTERMINATED : Fld := ⟨1, 32, 17, 3, 1, .w1c, (.num 0), .h, .none⟩
def PT.GE_T15 : Fld := ⟨1, 32, 17, 4, 1, .w1c, (.num 0), .h, .none⟩
def PT.GE_MARK_ABANDON : Fld := ⟨1, 32, 17, 5, 1, .w1c, (.num 0), .h, .none⟩
def PT.GE_LONG : Fld := ⟨1, 32, 17, 6, 1, .w1c, (.num 0), .h, .none⟩
def PT.NOISE_CNT : Fld := ⟨1, 32, 18, 0, 16, .rw, (.num 0), .a, .sat⟩
def PT.CK_BAD_CNT : Fld := ⟨1, 32, 18, 16, 16, .rw, (.num 0), .a, .sat⟩
def PT.RECORD_CNT : Fld := ⟨1, 32, 19, 0, 32, .rw, (.num 0), .a, .wrap⟩
def PT.TRUNC_CNT : Fld := ⟨1, 32, 20, 0, 16, .rw, (.num 0), .a, .sat⟩
def PT.UNTERM_CNT : Fld := ⟨1, 32, 20, 16, 16, .rw, (.num 0), .a, .sat⟩
def PT.T15_CNT : Fld := ⟨1, 32, 21, 0, 16, .rw, (.num 0), .a, .sat⟩
def PT.MARK_ABANDON_CNT : Fld := ⟨1, 32, 21, 16, 16, .rw, (.num 0), .a, .sat⟩
def PT.RENDER_ADDR : Fld := ⟨1, 32, 22, 0, 32, .rw, (.num 1347508307), .n, .none⟩
def PT.RENDER_ADDR5 : Fld := ⟨1, 32, 23, 24, 8, .rw, (.num 77), .n, .none⟩
def PT.RENDER_MAXLEN : Fld := ⟨1, 32, 23, 0, 10, .rw, (.num 82), .n, .none⟩
def PT.GAP_EMIT : Fld := ⟨1, 32, 23, 14, 1, .rw, (.num 0), .n, .none⟩
def PT.PASS_BAD : Fld := ⟨1, 32, 23, 15, 1, .rw, (.num 0), .n, .none⟩
/-! PORT: 10_listeners_and_uplinks.md Table 10-8 (R586) -/
def PT.LST_EN : Fld := ⟨1, 32, 24, 0, 1, .rw, (.num 0), .n, .none⟩
def PT.LST_GAP_US : Fld := ⟨1, 32, 24, 16, 16, .rw, (.num 0), .n, .none⟩
def PT.LST_TENANT : Fld := ⟨1, 32, 25, 0, 7, .ro, (.num 0), .n, .none⟩
def PT.LST_BOUND : Fld := ⟨1, 32, 25, 8, 1, .ro, (.num 0), .n, .none⟩
def PT.RENDERED_CNT : Fld := ⟨1, 32, 26, 0, 32, .rw, (.num 0), .a, .wrap⟩
def PT.CUT_CNT : Fld := ⟨1, 32, 27, 0, 16, .rw, (.num 0), .a, .sat⟩
def PT.SKIP_CNT : Fld := ⟨1, 32, 27, 16, 16, .rw, (.num 0), .a, .sat⟩
def PT.LST_LATE_CNT : Fld := ⟨1, 32, 28, 0, 16, .rw, (.num 0), .a, .sat⟩
def PT.GAP_RENDER_CNT : Fld := ⟨1, 32, 28, 16, 16, .rw, (.num 0), .a, .sat⟩
def PT.LST_CUT : Fld := ⟨1, 32, 29, 0, 1, .w1c, (.num 0), .h, .none⟩
def PT.LST_SKIP : Fld := ⟨1, 32, 29, 1, 1, .w1c, (.num 0), .h, .none⟩
def PT.LST_LATE : Fld := ⟨1, 32, 29, 2, 1, .w1c, (.num 0), .h, .none⟩
/-! TALKER: 07_coppice_scheduler.md Table 7-1 (R399) -/
def TK.PORT : Fld := ⟨2, 8, 0, 0, 6, .rw, (.num 0), .n, .none⟩
def TK.VALID : Fld := ⟨2, 8, 0, 6, 1, .rw, (.num 0), .n, .none⟩
def TK.CABLE_M : Fld := ⟨2, 8, 0, 8, 12, .rw, (.num 0), .n, .none⟩
def TK.ADDR_KEY : Fld := ⟨2, 8, 1, 0, 32, .rw, (.num 0), .n, .none⟩
def TK.LEAN : Fld := ⟨2, 8, 2, 0, 8, .rw, (.num 0), .s, .none⟩
def TK.LEAN_VALID : Fld := ⟨2, 8, 2, 8, 1, .rw, (.num 0), .s, .none⟩
def TK.OWNER : Fld := ⟨2, 8, 3, 0, 7, .rw, (.num 0), .n, .none⟩
def TK.LAST_SEEN_SEC : Fld := ⟨2, 8, 4, 0, 32, .ro, (.num 0), .n, .none⟩
def TK.RECORD_CNT : Fld := ⟨2, 8, 5, 0, 32, .rw, (.num 0), .a, .wrap⟩
def TK.MISS_CNT : Fld := ⟨2, 8, 6, 0, 16, .rw, (.num 0), .a, .sat⟩
def TK.LATE_CNT : Fld := ⟨2, 8, 6, 16, 16, .rw, (.num 0), .a, .sat⟩
def TK.CMD_CNT : Fld := ⟨2, 8, 7, 0, 16, .rw, (.num 0), .a, .sat⟩
def TK.CMD_LATE_CNT : Fld := ⟨2, 8, 7, 16, 16, .rw, (.num 0), .a, .sat⟩
/-! CANOPY: 08_canopy_and_tenants.md Table 8-1 (R464) -/
def CY.DELIVER0 : Fld := ⟨3, 16, 0, 0, 32, .rw, (.num 0), .n, .none⟩
def CY.DELIVER1 : Fld := ⟨3, 16, 1, 0, 32, .rw, (.num 0), .n, .none⟩
def CY.DELIVER2 : Fld := ⟨3, 16, 2, 0, 32, .rw, (.num 0), .n, .none⟩
def CY.DELIVER3 : Fld := ⟨3, 16, 3, 0, 32, .rw, (.num 0), .n, .none⟩
def CY.PAT_VALUE0 : Fld := ⟨3, 16, 4, 0, 32, .rw, (.num 0), .n, .none⟩
def CY.PAT_VALUE1 : Fld := ⟨3, 16, 5, 0, 32, .rw, (.num 0), .n, .none⟩
def CY.PAT_VALUE2 : Fld := ⟨3, 16, 6, 0, 32, .rw, (.num 0), .n, .none⟩
def CY.PAT_VALUE3 : Fld := ⟨3, 16, 7, 0, 32, .rw, (.num 0), .n, .none⟩
def CY.PAT_MASK0 : Fld := ⟨3, 16, 8, 0, 32, .rw, (.num 0), .n, .none⟩
def CY.PAT_MASK1 : Fld := ⟨3, 16, 9, 0, 32, .rw, (.num 0), .n, .none⟩
def CY.PAT_MASK2 : Fld := ⟨3, 16, 10, 0, 32, .rw, (.num 0), .n, .none⟩
def CY.PAT_MASK3 : Fld := ⟨3, 16, 11, 0, 32, .rw, (.num 0), .n, .none⟩
def CY.VALID : Fld := ⟨3, 16, 12, 0, 1, .rw, (.num 0), .n, .none⟩
def CY.CONTINUE : Fld := ⟨3, 16, 12, 1, 1, .rw, (.num 0), .n, .none⟩
def CY.DROP : Fld := ⟨3, 16, 12, 2, 1, .rw, (.num 0), .n, .none⟩
def CY.LOG : Fld := ⟨3, 16, 12, 3, 1, .rw, (.num 0), .n, .none⟩
def CY.REWRITE : Fld := ⟨3, 16, 12, 4, 1, .rw, (.num 0), .n, .none⟩
def CY.CLASS : Fld := ⟨3, 16, 12, 5, 2, .rw, (.num 0), .n, .none⟩
def CY.PORT_ANY : Fld := ⟨3, 16, 12, 7, 1, .rw, (.num 0), .n, .none⟩
def CY.PORT : Fld := ⟨3, 16, 12, 8, 6, .rw, (.num 0), .n, .none⟩
def CY.GRAMMAR_ANY : Fld := ⟨3, 16, 12, 14, 1, .rw, (.num 0), .n, .none⟩
def CY.GRAMMAR : Fld := ⟨3, 16, 12, 15, 3, .rw, (.num 0), .n, .none⟩
def CY.TYPE_LEN : Fld := ⟨3, 16, 12, 18, 3, .rw, (.num 0), .n, .none⟩
def CY.PAT_WORD : Fld := ⟨3, 16, 12, 21, 9, .rw, (.num 0), .n, .none⟩
def CY.TALKER : Fld := ⟨3, 16, 13, 0, 12, .rw, (.num 0), .n, .none⟩
def CY.TALKER_ANY : Fld := ⟨3, 16, 13, 12, 1, .rw, (.num 0), .n, .none⟩
def CY.REWRITE_TALKER : Fld := ⟨3, 16, 13, 13, 12, .rw, (.num 0), .n, .none⟩
def CY.DECIM_N : Fld := ⟨3, 16, 13, 25, 7, .rw, (.num 0), .n, .none⟩
def CY.TYPE_HI : Fld := ⟨3, 16, 14, 0, 32, .rw, (.num 0), .n, .none⟩
def CY.TYPE_LO : Fld := ⟨3, 16, 15, 16, 16, .rw, (.num 0), .n, .none⟩
def CY.DEADLINE_MS : Fld := ⟨3, 16, 15, 0, 16, .rw, (.num 0), .n, .none⟩
/-! TENANT: 08_canopy_and_tenants.md Table 8-3 (R489) -/
def TN.EN : Fld := ⟨4, 32, 0, 0, 1, .rw, .tenantEn, .n, .none⟩
def TN.CONSUMER : Fld := ⟨4, 32, 0, 1, 2, .rw, (.num 0), .n, .none⟩
def TN.LISTEN_PORT : Fld := ⟨4, 32, 0, 8, 6, .rw, (.num 0), .n, .none⟩
def TN.CONTROL_DL_MS : Fld := ⟨4, 32, 1, 0, 16, .rw, (.num 20), .n, .none⟩
def TN.KEY_SET : Fld := ⟨4, 32, 2, 0, 1, .ro, (.num 0), .n, .none⟩
def TN.KEY_GEN : Fld := ⟨4, 32, 2, 8, 8, .ro, (.num 0), .n, .none⟩
def TN.RX_CTR : Fld := ⟨4, 32, 3, 0, 32, .ro, (.num 0), .n, .none⟩
def TN.TX_CTR : Fld := ⟨4, 32, 4, 0, 32, .ro, (.num 0), .n, .none⟩
def TN.DELIVERED : Fld := ⟨4, 32, 5, 0, 32, .rw, (.num 0), .a, .wrap⟩
def TN.LATE_DROP_ALARM : Fld := ⟨4, 32, 6, 0, 32, .rw, (.num 0), .a, .wrap⟩
def TN.LATE_DROP_CONTROL : Fld := ⟨4, 32, 7, 0, 32, .rw, (.num 0), .a, .wrap⟩
def TN.LATE_DROP_TELEMETRY : Fld := ⟨4, 32, 8, 0, 32, .rw, (.num 0), .a, .wrap⟩
def TN.LATE_DROP_BULK : Fld := ⟨4, 32, 9, 0, 32, .rw, (.num 0), .a, .wrap⟩
def TN.REFUSED_CNT : Fld := ⟨4, 32, 10, 0, 32, .rw, (.num 0), .a, .wrap⟩
def TN.CMD_ACC_CNT : Fld := ⟨4, 32, 11, 0, 16, .rw, (.num 0), .a, .sat⟩
def TN.CMD_DROP_CNT : Fld := ⟨4, 32, 11, 16, 16, .rw, (.num 0), .a, .sat⟩
def TN.LATE_DROP : Fld := ⟨4, 32, 12, 0, 1, .w1c, (.num 0), .h, .none⟩
def TN.REFUSED : Fld := ⟨4, 32, 12, 1, 1, .w1c, (.num 0), .h, .none⟩
def TN.CTR_EXHAUST : Fld := ⟨4, 32, 12, 2, 1, .w1c, (.num 0), .h, .none⟩
def TN.KEY_LOADED : Fld := ⟨4, 32, 12, 3, 1, .w1c, (.num 0), .h, .none⟩
/-! TENANT: 10_listeners_and_uplinks.md Table 10-7 (R611) -/
def TN.PEER0_IP : Fld := ⟨4, 32, 16, 0, 32, .rw, (.num 0), .s, .none⟩
def TN.PEER0_PORT : Fld := ⟨4, 32, 17, 16, 16, .rw, (.num 0), .s, .none⟩
def TN.PEER0_MAC_HI : Fld := ⟨4, 32, 17, 0, 16, .rw, (.num 0), .s, .none⟩
def TN.PEER0_MAC_LO : Fld := ⟨4, 32, 18, 0, 32, .rw, (.num 0), .s, .none⟩
def TN.PEER1_IP : Fld := ⟨4, 32, 19, 0, 32, .rw, (.num 0), .s, .none⟩
def TN.PEER1_PORT : Fld := ⟨4, 32, 20, 16, 16, .rw, (.num 0), .s, .none⟩
def TN.PEER1_MAC_HI : Fld := ⟨4, 32, 20, 0, 16, .rw, (.num 0), .s, .none⟩
def TN.PEER1_MAC_LO : Fld := ⟨4, 32, 21, 0, 32, .rw, (.num 0), .s, .none⟩
def TN.BATCH_US : Fld := ⟨4, 32, 22, 0, 17, .rw, (.num 10000), .n, .none⟩
def TN.PEER_PIN : Fld := ⟨4, 32, 22, 24, 1, .rw, (.num 0), .n, .none⟩
def TN.PUSH : Fld := ⟨4, 32, 23, 0, 1, .ro, (.num 0), .n, .none⟩
def TN.SUB0 : Fld := ⟨4, 32, 23, 1, 1, .ro, (.num 0), .n, .none⟩
def TN.SUB1 : Fld := ⟨4, 32, 23, 2, 1, .ro, (.num 0), .n, .none⟩
def TN.BATCH_OPEN : Fld := ⟨4, 32, 23, 3, 1, .ro, (.num 0), .n, .none⟩
/-! GROUP: 07_coppice_scheduler.md Table 7-2 (R403) -/
def GP.EN : Fld := ⟨5, 16, 0, 0, 1, .rw, (.num 0), .n, .none⟩
def GP.PERIOD_MS : Fld := ⟨5, 16, 1, 0, 22, .rw, (.num 1000), .n, .none⟩
def GP.PHASE_MS : Fld := ⟨5, 16, 2, 0, 22, .rw, (.num 0), .n, .none⟩
def GP.ALIGNED : Fld := ⟨5, 16, 3, 0, 1, .ro, (.num 0), .n, .none⟩
def GP.RUNNING : Fld := ⟨5, 16, 3, 1, 1, .ro, (.num 0), .n, .none⟩
def GP.PERIOD_CNT : Fld := ⟨5, 16, 4, 0, 32, .rw, (.num 0), .a, .wrap⟩
def GP.LATE_CNT : Fld := ⟨5, 16, 5, 0, 32, .rw, (.num 0), .a, .wrap⟩
def GP.POLLS_OK : Fld := ⟨5, 16, 6, 0, 32, .rw, (.num 0), .a, .wrap⟩
def GP.POLLS_FAIL : Fld := ⟨5, 16, 7, 0, 32, .rw, (.num 0), .a, .wrap⟩
def GP.LAST_B_SEC : Fld := ⟨5, 16, 8, 0, 32, .ro, (.num 0), .n, .none⟩
def GP.LAST_B_NS : Fld := ⟨5, 16, 9, 0, 32, .ro, (.num 0), .n, .none⟩
def GP.LATE : Fld := ⟨5, 16, 10, 0, 1, .w1c, (.num 0), .h, .none⟩
def GP.SKIP : Fld := ⟨5, 16, 10, 1, 1, .w1c, (.num 0), .h, .none⟩
def GP.SLACK_MS : Fld := ⟨5, 16, 11, 0, 22, .ro, (.num 0), .n, .none⟩
/-! POLL: 07_coppice_scheduler.md Table 7-3 (R409) -/
def PL.EN : Fld := ⟨6, 16, 0, 0, 1, .rw, (.num 0), .n, .none⟩
def PL.KIND : Fld := ⟨6, 16, 0, 1, 3, .rw, (.num 0), .n, .none⟩
def PL.RETRIES : Fld := ⟨6, 16, 0, 4, 2, .rw, (.num 1), .n, .none⟩
def PL.NO_REPLY : Fld := ⟨6, 16, 0, 6, 1, .rw, (.num 0), .n, .none⟩
def PL.GROUP : Fld := ⟨6, 16, 0, 8, 6, .rw, (.num 0), .n, .none⟩
def PL.TALKER : Fld := ⟨6, 16, 0, 16, 12, .rw, (.num 0), .n, .none⟩
def PL.RESP_TO_MS : Fld := ⟨6, 16, 1, 0, 16, .rw, (.num 100), .n, .none⟩
def PL.REQ_LEN : Fld := ⟨6, 16, 1, 16, 6, .rw, (.num 0), .n, .none⟩
def PL.D_COUNT : Fld := ⟨6, 16, 1, 24, 4, .rw, (.num 0), .n, .none⟩
def PL.REQ0 : Fld := ⟨6, 16, 2, 0, 32, .rw, (.num 0), .n, .none⟩
def PL.REQ1 : Fld := ⟨6, 16, 3, 0, 32, .rw, (.num 0), .n, .none⟩
def PL.REQ2 : Fld := ⟨6, 16, 4, 0, 32, .rw, (.num 0), .n, .none⟩
def PL.REQ3 : Fld := ⟨6, 16, 5, 0, 32, .rw, (.num 0), .n, .none⟩
def PL.REQ4 : Fld := ⟨6, 16, 6, 0, 32, .rw, (.num 0), .n, .none⟩
def PL.REQ5 : Fld := ⟨6, 16, 7, 0, 32, .rw, (.num 0), .n, .none⟩
def PL.REQ6 : Fld := ⟨6, 16, 8, 0, 32, .rw, (.num 0), .n, .none⟩
def PL.REQ7 : Fld := ⟨6, 16, 9, 0, 32, .rw, (.num 0), .n, .none⟩
def PL.REQ8 : Fld := ⟨6, 16, 10, 0, 32, .rw, (.num 0), .n, .none⟩
def PL.REQ9 : Fld := ⟨6, 16, 11, 0, 32, .rw, (.num 0), .n, .none⟩
def PL.OUTCOME : Fld := ⟨6, 16, 12, 0, 3, .ro, (.num 0), .n, .none⟩
def PL.TRIES_USED : Fld := ⟨6, 16, 12, 4, 2, .ro, (.num 0), .n, .none⟩
def PL.OK_CNT : Fld := ⟨6, 16, 13, 0, 16, .rw, (.num 0), .a, .sat⟩
def PL.NOREPLY_CNT : Fld := ⟨6, 16, 13, 16, 16, .rw, (.num 0), .a, .sat⟩
def PL.LATE_CNT : Fld := ⟨6, 16, 14, 0, 16, .rw, (.num 0), .a, .sat⟩
def PL.BAD_CNT : Fld := ⟨6, 16, 14, 16, 16, .rw, (.num 0), .a, .sat⟩
def PL.LAST_OK_SEC : Fld := ⟨6, 16, 15, 0, 32, .ro, (.num 0), .n, .none⟩
/-! QUEUE: 09_understory_queues.md Table 9-10 (R577) -/
def QU.CLEAR : Fld := ⟨7, 8, 0, 0, 1, .sc, (.num 0), .s, .none⟩
def QU.GUAR : Fld := ⟨7, 8, 1, 0, 18, .rw, .guar, .n, .none⟩
def QU.BORROW_MAX : Fld := ⟨7, 8, 2, 0, 18, .rw, (.num 0), .n, .none⟩
def QU.MP_MODE : Fld := ⟨7, 8, 3, 0, 1, .rw, (.num 0), .n, .none⟩
def QU.WAIT_US : Fld := ⟨7, 8, 4, 0, 8, .rw, (.num 100), .n, .none⟩
def QU.WORDS : Fld := ⟨7, 8, 5, 0, 22, .ro, (.num 0), .n, .none⟩
def QU.USED : Fld := ⟨7, 8, 6, 0, 18, .ro, (.num 0), .n, .none⟩
def QU.BORROWED : Fld := ⟨7, 8, 7, 0, 18, .ro, (.num 0), .n, .none⟩
def QU.POISON : Fld := ⟨7, 8, 7, 24, 1, .w1c, (.num 0), .h, .none⟩
def QU.FULL : Fld := ⟨7, 8, 7, 25, 1, .w1c, (.num 0), .h, .none⟩
def QU.CLEARED : Fld := ⟨7, 8, 7, 26, 1, .w1c, (.num 0), .h, .none⟩
/-! GUARD_LINE: 04_kl08_line_guard.md Table 4-8 (R258) -/
def GL.EN : Fld := ⟨8, 16, 0, 0, 1, .rw, (.num 0), .n, .none⟩
def GL.MODE : Fld := ⟨8, 16, 0, 1, 1, .rw, (.num 0), .n, .none⟩
def GL.TERM_EN : Fld := ⟨8, 16, 0, 2, 1, .rw, (.num 0), .n, .none⟩
def GL.FAILSAFE : Fld := ⟨8, 16, 0, 3, 1, .rw, (.num 1), .n, .none⟩
def GL.PWR_EN : Fld := ⟨8, 16, 0, 4, 1, .rw, (.num 0), .n, .none⟩
def GL.PWR_V : Fld := ⟨8, 16, 0, 5, 1, .rw, (.num 0), .n, .none⟩
def GL.TRIM_REQ : Fld := ⟨8, 16, 0, 6, 1, .sc, (.num 0), .s, .none⟩
def GL.LEAK_EN : Fld := ⟨8, 16, 0, 7, 1, .rw, (.num 0), .n, .none⟩
def GL.LEAK_ACT : Fld := ⟨8, 16, 0, 8, 1, .rw, (.num 0), .n, .none⟩
def GL.ILIM : Fld := ⟨8, 16, 1, 0, 5, .rw, (.num 10), .n, .none⟩
def GL.RETRY_S : Fld := ⟨8, 16, 1, 8, 8, .rw, (.num 10), .n, .none⟩
def GL.RETRY_MAX : Fld := ⟨8, 16, 1, 16, 2, .rw, (.num 3), .n, .none⟩
def GL.LEAK_THRESH_KOHM : Fld := ⟨8, 16, 2, 0, 16, .rw, (.num 500), .n, .none⟩
def GL.LEAK_PERIOD_S : Fld := ⟨8, 16, 2, 16, 16, .rw, (.num 600), .n, .none⟩
def GL.PWR_STATE : Fld := ⟨8, 16, 3, 0, 3, .ro, (.num 0), .n, .none⟩
def GL.PWR_CAUSE : Fld := ⟨8, 16, 3, 3, 4, .ro, (.num 0), .n, .none⟩
def GL.IN_TRIM : Fld := ⟨8, 16, 3, 7, 1, .ro, (.num 0), .n, .none⟩
def GL.TRIM_WANTED : Fld := ⟨8, 16, 3, 8, 1, .ro, (.num 0), .n, .none⟩
def GL.SLICES_DONE : Fld := ⟨8, 16, 3, 9, 5, .ro, (.num 0), .n, .none⟩
def GL.LEAK_VALID : Fld := ⟨8, 16, 3, 14, 1, .ro, (.num 0), .n, .none⟩
def GL.CM_FAULT : Fld := ⟨8, 16, 3, 15, 1, .ro, (.num 0), .n, .none⟩
def GL.LEAK_LOW : Fld := ⟨8, 16, 3, 16, 1, .ro, (.num 0), .n, .none⟩
def GL.EV_OC : Fld := ⟨8, 16, 4, 0, 1, .w1c, (.num 0), .h, .none⟩
def GL.EV_SHORT : Fld := ⟨8, 16, 4, 1, 1, .w1c, (.num 0), .h, .none⟩
def GL.EV_START_FAIL : Fld := ⟨8, 16, 4, 2, 1, .w1c, (.num 0), .h, .none⟩
def GL.EV_THERMAL : Fld := ⟨8, 16, 4, 3, 1, .w1c, (.num 0), .h, .none⟩
def GL.EV_SUPPLY_LOW : Fld := ⟨8, 16, 4, 4, 1, .w1c, (.num 0), .h, .none⟩
def GL.EV_SUPPLY_HIGH : Fld := ⟨8, 16, 4, 5, 1, .w1c, (.num 0), .h, .none⟩
def GL.EV_LEAVE_TO : Fld := ⟨8, 16, 4, 6, 1, .w1c, (.num 0), .h, .none⟩
def GL.EV_TRIM_FAIL : Fld := ⟨8, 16, 4, 7, 1, .w1c, (.num 0), .h, .none⟩
def GL.EV_LEAK_ALARM : Fld := ⟨8, 16, 4, 8, 1, .w1c, (.num 0), .h, .none⟩
def GL.EV_LEAK_STALE : Fld := ⟨8, 16, 4, 9, 1, .w1c, (.num 0), .h, .none⟩
def GL.EV_CM_FAULT : Fld := ⟨8, 16, 4, 10, 1, .w1c, (.num 0), .h, .none⟩
def GL.I_MA : Fld := ⟨8, 16, 5, 0, 16, .ro, (.num 0), .n, .none⟩
def GL.V_10MV : Fld := ⟨8, 16, 5, 16, 16, .ro, (.num 0), .n, .none⟩
def GL.LEAK_RESULT : Fld := ⟨8, 16, 6, 0, 16, .ro, (.num 0), .n, .none⟩
def GL.LEAK_AGE_S : Fld := ⟨8, 16, 6, 16, 16, .ro, (.num 65535), .n, .none⟩
def GL.TERM_CODE : Fld := ⟨8, 16, 7, 0, 4, .ro, (.num 0), .n, .none⟩
def GL.THRESH : Fld := ⟨8, 16, 7, 4, 8, .ro, (.num 0), .n, .none⟩
def GL.TRIM_TEMP : Fld := ⟨8, 16, 7, 12, 8, .ro, (.num 0), .n, .none⟩
def GL.TRIM_CAUSE : Fld := ⟨8, 16, 7, 20, 2, .ro, (.num 0), .n, .none⟩
def GL.TRIM_CNT : Fld := ⟨8, 16, 8, 0, 16, .rw, (.num 0), .a, .sat⟩
def GL.TRIM_FAIL_CNT : Fld := ⟨8, 16, 8, 16, 16, .rw, (.num 0), .a, .sat⟩
def GL.SLICE_CNT : Fld := ⟨8, 16, 9, 0, 32, .rw, (.num 0), .a, .wrap⟩
def GL.PREEMPTED : Fld := ⟨8, 16, 10, 0, 16, .rw, (.num 0), .a, .sat⟩
def GL.SKIPPED : Fld := ⟨8, 16, 10, 16, 16, .rw, (.num 0), .a, .sat⟩
def GL.PWR_FAULT_CNT : Fld := ⟨8, 16, 11, 0, 16, .rw, (.num 0), .a, .sat⟩
def GL.RETRY_CNT : Fld := ⟨8, 16, 11, 16, 16, .rw, (.num 0), .a, .sat⟩
/-! COUNTERS: 12_register_reference.md 12.10 (R750, R467) -/
def CN.MATCH_CNT : Fld := ⟨9, 1, 0, 0, 32, .rw, (.num 0), .a, .wrap⟩
/-! COUNTERS: 16_faults_counters_interrupts.md Table 16-3 (R909) -/
def CN.RECORDS_IN : Fld := ⟨9, 8, 4096, 0, 32, .rw, (.num 0), .a, .wrap⟩
def CN.RECORDS_OUT : Fld := ⟨9, 8, 4097, 0, 32, .rw, (.num 0), .a, .wrap⟩
def CN.WORDS_IN : Fld := ⟨9, 8, 4098, 0, 32, .rw, (.num 0), .a, .wrap⟩
def CN.FULL_CNT : Fld := ⟨9, 8, 4099, 0, 32, .rw, (.num 0), .a, .wrap⟩
def CN.POISON_CNT : Fld := ⟨9, 8, 4100, 0, 16, .rw, (.num 0), .a, .sat⟩
def CN.GAP_CNT : Fld := ⟨9, 8, 4100, 16, 16, .rw, (.num 0), .a, .sat⟩
def CN.CLEAR_CNT : Fld := ⟨9, 8, 4101, 0, 16, .rw, (.num 0), .a, .sat⟩
def CN.USED_HWM : Fld := ⟨9, 8, 4102, 0, 18, .rw, (.num 0), .s, .none⟩
def CN.WORDS_HWM : Fld := ⟨9, 8, 4103, 0, 22, .rw, (.num 0), .s, .none⟩
/-! COUNTERS: 16_faults_counters_interrupts.md Table 16-2 (R909) -/
def CN.TENANT_CLASS : Fld := ⟨9, 1, 6144, 0, 32, .rw, (.num 0), .a, .wrap⟩
def CN.SOURCE_CLASS : Fld := ⟨9, 1, 6656, 0, 32, .rw, (.num 0), .a, .wrap⟩
/-! REFUSAL_LOG: 11_management_port.md Table 11-10 (R694) -/
def RL.NEXT_SEQ : Fld := ⟨11, 1, 0, 0, 32, .ro, (.num 0), .n, .none⟩
def RL.DEPTH : Fld := ⟨11, 1, 1, 0, 32, .ro, (.num 512), .n, .none⟩
def RL.REASON_CNT : Fld := ⟨11, 1, 3, 0, 32, .rw, (.num 0), .a, .wrap⟩
/-! EVENT_LOG: 16_faults_counters_interrupts.md Table 16-6 (R914) -/
def EL.NEXT_SEQ : Fld := ⟨12, 0, 0, 0, 32, .ro, (.num 0), .n, .none⟩
def EL.DEPTH : Fld := ⟨12, 0, 1, 0, 32, .ro, (.num 1024), .n, .none⟩
def EL.FLASH_NEXT : Fld := ⟨12, 0, 2, 0, 32, .ro, (.num 0), .n, .none⟩
def EL.BOOT_SEQ : Fld := ⟨12, 0, 3, 0, 32, .ro, (.num 0), .n, .none⟩
def EL.FLASH_OLDEST : Fld := ⟨12, 0, 4, 0, 32, .ro, (.num 0), .n, .none⟩
def EL.FLASH_PAGES : Fld := ⟨12, 0, 5, 0, 32, .rw, (.num 0), .a, .wrap⟩
def EL.RING_ENTRIES : Fld := ⟨12, 0, 6, 0, 32, .ro, .ringEntries, .n, .none⟩
/-! CARD: 06_card_ports.md Table 6-9 (R392) -/
def CD.CLK_SEL : Fld := ⟨13, 128, 0, 0, 1, .rw, (.num 0), .n, .none⟩
def CD.DET_POL : Fld := ⟨13, 128, 0, 1, 1, .rw, (.num 1), .n, .none⟩
def CD.PPS_EN : Fld := ⟨13, 128, 0, 2, 1, .rw, (.num 1), .n, .none⟩
def CD.RESET : Fld := ⟨13, 128, 0, 3, 1, .sc, (.num 0), .s, .none⟩
def CD.DEACT : Fld := ⟨13, 128, 0, 4, 1, .sc, (.num 0), .s, .none⟩
def CD.CX_RETRY : Fld := ⟨13, 128, 0, 5, 3, .rw, (.num 4), .n, .none⟩
def CD.DET_DEB_MS : Fld := ⟨13, 128, 0, 8, 8, .rw, (.num 20), .n, .none⟩
def CD.PWR_SETTLE_US : Fld := ⟨13, 128, 0, 16, 16, .rw, (.num 1000), .n, .none⟩
def CD.CX_DEADLINE_MS : Fld := ⟨13, 128, 1, 0, 16, .rw, (.num 2000), .n, .none⟩
def CD.STATE : Fld := ⟨13, 128, 2, 0, 4, .ro, (.num 0), .n, .none⟩
def CD.CONV : Fld := ⟨13, 128, 2, 4, 1, .ro, (.num 0), .n, .none⟩
def CD.FD : Fld := ⟨13, 128, 2, 5, 2, .ro, (.num 0), .n, .none⟩
def CD.WI : Fld := ⟨13, 128, 2, 8, 8, .ro, (.num 10), .n, .none⟩
def CD.GUARD_N : Fld := ⟨13, 128, 2, 16, 8, .ro, (.num 0), .n, .none⟩
def CD.EV_INSERT : Fld := ⟨13, 128, 3, 0, 1, .w1c, (.num 0), .h, .none⟩
def CD.EV_REMOVE : Fld := ⟨13, 128, 3, 1, 1, .w1c, (.num 0), .h, .none⟩
def CD.EV_ATR_DONE : Fld := ⟨13, 128, 3, 2, 1, .w1c, (.num 0), .h, .none⟩
def CD.EV_ATR_FAIL : Fld := ⟨13, 128, 3, 3, 1, .w1c, (.num 0), .h, .none⟩
def CD.EV_PPS_FAIL : Fld := ⟨13, 128, 3, 4, 1, .w1c, (.num 0), .h, .none⟩
def CD.EV_UNSUPPORTED : Fld := ⟨13, 128, 3, 5, 1, .w1c, (.num 0), .h, .none⟩
def CD.EV_CX_DONE : Fld := ⟨13, 128, 3, 6, 1, .w1c, (.num 0), .h, .none⟩
def CD.EV_FMAX : Fld := ⟨13, 128, 3, 7, 1, .w1c, (.num 0), .h, .none⟩
def CD.EV_LATE : Fld := ⟨13, 128, 3, 8, 1, .w1c, (.num 0), .h, .none⟩
def CD.GO : Fld := ⟨13, 128, 4, 0, 1, .sc, (.num 0), .s, .none⟩
def CD.DIR : Fld := ⟨13, 128, 4, 1, 2, .rw, (.num 0), .n, .none⟩
def CD.CX_RESULT : Fld := ⟨13, 128, 5, 0, 4, .ro, (.num 0), .n, .none⟩
def CD.SW1 : Fld := ⟨13, 128, 5, 8, 8, .ro, (.num 0), .n, .none⟩
def CD.SW2 : Fld := ⟨13, 128, 5, 16, 8, .ro, (.num 0), .n, .none⟩
def CD.CX_CNT : Fld := ⟨13, 128, 6, 0, 16, .rw, (.num 0), .a, .sat⟩
def CD.RX_PAR_CNT : Fld := ⟨13, 128, 6, 16, 16, .rw, (.num 0), .a, .sat⟩
def CD.TX_REP_CNT : Fld := ⟨13, 128, 7, 0, 16, .rw, (.num 0), .a, .sat⟩
def CD.ATR_FAIL_CNT : Fld := ⟨13, 128, 7, 16, 16, .rw, (.num 0), .a, .sat⟩
def CD.ATR_LEN : Fld := ⟨13, 128, 17, 0, 6, .ro, (.num 0), .n, .none⟩
/-! CARD: 06_card_ports.md Table 6-9 (R392) -/
def CX.ATR_BYTES : Fld := ⟨13, 1, 8, 0, 32, .ro, (.num 0), .n, .none⟩
def CX.CMD_BUF : Fld := ⟨13, 1, 32, 0, 32, .rw, (.num 0), .n, .none⟩
def fldsRG0 : List Fld := [RG.DEV_ID, RG.DEV_STEP, RG.DEV_BASE, RG.ROM_VER, RG.CAP_GUARDS, RG.CAP_UPLINKS, RG.CAP_CARDS, RG.CAP_PM_GROUPS, RG.CAP_TM, RG.LINE_PORTS, RG.TENANTS, RG.SCALE, RG.SERVICE_READY, RG.RECOVERY, RG.CFG_RESTORED, RG.CFG_DEFAULTS, RG.CFG_BANK, RG.SVC_EN, RG.RECOVERY_N, RG.WARM, RG.RESET_CAUSE, RG.RECOVERY_CAUSE, RG.ACTIVATING, RG.RST_GO]
def fldsRG1 : List Fld := [RG.RST_KEY, RG.IRQ_READY, RG.IRQ_CLOCK, RG.IRQ_LINE, RG.IRQ_GRAMMAR, RG.IRQ_GUARD, RG.IRQ_LEAVE, RG.IRQ_QUEUE, RG.IRQ_LATE, RG.IRQ_POLL, RG.IRQ_UPLINK, RG.IRQ_CARD, RG.IRQ_REFUSAL, RG.IRQ_EVENT, RG.IRQ_CONFLICT, RG.IRQ_THERMAL, RG.IRQ_FIRMWARE, RG.IRQ_FLASH, RG.IRQ_MASK, RG.HCMD_GO, RG.HCMD_KIND, RG.HCMD_NO_REPLY, RG.BODY_CLR, RG.HCMD_N]
def fldsRG2 : List Fld := [RG.HCMD_TALKER, RG.HCMD_BODY, RG.HCMD_RESULT, RG.HCMD_REASON, RG.BODY_LEN, RG.ACC_CNT, RG.ACC_SEC, RG.ACC_NS, RG.RT_SET, RG.RT_STEP_GO, RG.LOCK_EN, RG.TM_EDGE, RG.PLL_LOCK, RG.LOCK_TIME, RG.QUALITY, RG.LOCK_STATE, RG.REF_VALID, RG.STREAK, RG.RT_NOW_SEC, RG.RT_NOW_NS, RG.RT_SET_SEC, RG.RT_SET_NS, RG.RT_STEP, RG.RT_RATE]
def fldsRG3 : List Fld := [RG.DELAY_NS, RG.TM_LAST_ERR, RG.TM_REJECTED, RG.TM_ACCEPTED, RG.TM_OUT_EN, RG.TM_OUT_POL, RG.TM_OUT_QGATE, RG.WIDTH_MS, RG.DIE_BUDGET, RG.FIELD_BUDGET, RG.DIE_CHANGE, RG.FIELD_CHANGE, RG.DIE_WAITING, RG.FIELD_WAITING, RG.DIE_TIMEOUT, RG.FIELD_TIMEOUT, RG.DIE_WAIT, RG.FIELD_WAIT, RG.DIE_TO_CNT, RG.FIELD_TO_CNT, RG.DIE_GRANT_CNT, RG.FIELD_GRANT_CNT, RG.DIE_HWM, RG.FIELD_HWM]
def fldsRG4 : List Fld := [RG.FW_LEAVE_TO_MS, RG.BRK_LEAVE_TO_MS, RG.DIE_TEMP, RG.WARN_C, RG.HOT_C, RG.THERM_WARN, RG.THERM_HOT, RG.BLK_FREE, RG.BLK_HELD, RG.BLK_MOTION, RG.BLK_TOTAL, RG.CR_SEL, RG.CR_GUAR_USED, RG.CR_BORROWED, RG.CR_SHARED_USED, RG.JOB_IDLE, RG.JOB_ACTIVE, RG.JOB_RETIRING, RG.KIND_FWD, RG.KIND_POLL, RG.KIND_LISTEN, RG.KIND_UPLINK, RG.KIND_CARD, RG.LV_DIE_FREE]
def fldsRG5 : List Fld := [RG.LV_DIE_GRANTED, RG.LV_DIE_BUD, RG.LV_FIELD_FREE, RG.LV_FIELD_GRANTED, RG.LV_FIELD_BUD, RG.LV_DIE_CHG, RG.LV_FIELD_CHG, RG.WIN_SPACE, RG.WIN_ADDR, RG.WIN_DATA, RG.WIN_INC, RG.SHARED_POOL, RG.SHARED_USED, RG.GUAR_SUM, RG.UQ_POISON, RG.UQ_SRC_DISC, RG.UQ_TX_DISC, RG.POISON_WORDS, RG.SRC_DISC_CNT, RG.TX_DISC_CNT, RG.CF_VER, RG.CF_ALT_VER, RG.SLOT, RG.CONFIRMED]
def fldsRG6 : List Fld := [RG.REVERTED, RG.BOOT_FAILS, RG.PM_REVERTED, RG.CONFIRM_LEFT_S, RG.UPDATE_ACTIVE, RG.PM_GEN_MIN, RG.PM_GEN_MAX, RG.GF_GEN_MIN, RG.GF_GEN_MAX, RG.PM_VER, RG.GF_VER, RG.UL_MODE, RG.UDP_PORT, RG.MDIO_WDATA, RG.MDIO_REGAD, RG.MDIO_PHYAD, RG.MDIO_OP, RG.MDIO_GO, RG.MDIO_RDATA, RG.MDIO_BUSY, RG.UL_LEAVE_TO_MS, RG.MIRROR_DUP_CNT, RG.MIRROR_LOST, RG.CP0_EN]
def fldsRG7 : List Fld := [RG.CP1_EN, RG.KEYLOAD_EN, RG.BADGE_EN, RG.BADGE_RECORDS, RG.KEYLOAD_RESULT, RG.KEYS_LOADED, RG.SITE_ID, RG.SITE_EXPECT, RG.BADGE_LAST_HI, RG.BADGE_LAST_LO, RG.COP_EN, RG.CMD_BURST, RG.POLL_RESERVE, RG.SDI_BREAK_GAP_MS, RG.QUIET_LO, RG.QUIET_HI, RG.ALIGNED_LO, RG.ALIGNED_HI, RG.LATE_GRP_LO, RG.LATE_GRP_HI, RG.POLL_LATE_CNT, RG.CMD_SENT_CNT, RG.CMD_REFUSED_CNT, RG.SLOT_WAIT_CNT]
def fldsRG8 : List Fld := [RG.SLOT_HWM, RG.GAP_GRANT_CNT, RG.GAP_BROKEN_CNT, RG.CANOPY_EN, RG.CANOPY_HELD, RG.CANOPY_BUSY, RG.CLASSIFIED_CNT, RG.NOMATCH_CNT, RG.DROP_CNT, RG.EMPTY_CNT, RG.MASKED_CNT, RG.LATE_CLASS_CNT, RG.ALARM_CNT, RG.CONTROL_CNT, RG.TELEMETRY_CNT, RG.BULK_CNT, RG.LOG_CNT, RG.GUARD_PRESENT, RG.GUARD_LINK_OK, RG.GA_LINK_FAULT, RG.GA_SUPPLY, RG.GA_RECOVERY, RG.GA_DIE_HOT, RG.PWR_LEAVE_TO_MS]
def fldsRG9 : List Fld := [RG.TRIM_DEFER_MS, RG.LEAK_WINDOW_S, RG.SLICE_MARGIN_US, RG.GL_ERR_CNT, RG.GL_HOLD_TO_CNT, RG.MON_VFIELD_MV, RG.MON_DIE_TEMP, RG.MON_STATE, RG.FAULT_SUM, RG.PORT_EVT_LO, RG.PORT_EVT_HI, RG.TENANT_LATE0, RG.TENANT_LATE1, RG.TENANT_LATE2, RG.TENANT_LATE3, RG.LATE_SUM_ALARM, RG.LATE_SUM_CONTROL, RG.LATE_SUM_TELEMETRY, RG.LATE_SUM_BULK, RG.PROG_FAIL, RG.ERASE_FAIL, RG.EVENT_LOST_CNT]
/-- The fields of the direct tables. -/
def fldsRG : List Fld := fldsRG0 ++ fldsRG1 ++ fldsRG2 ++ fldsRG3 ++ fldsRG4 ++ fldsRG5 ++ fldsRG6 ++ fldsRG7 ++ fldsRG8 ++ fldsRG9
def fldsUL0 : List Fld := [UL.EN, UL.SPEED, UL.VLAN_EN, UL.AUTOPOLL, UL.PHYAD, UL.MAC_HI, UL.MAC_LO, UL.IP_ADDR, UL.VID, UL.PCP_ALARM, UL.PCP_CONTROL, UL.PCP_TELEMETRY, UL.PCP_BULK, UL.LINK_UP, UL.LEAVE_DENIED, UL.BUILD_BUSY, UL.LINK_DOWN, UL.LINK_UP_EVT, UL.LEAVE_TO, UL.TX_FRAMES, UL.RX_FRAMES, UL.RX_DROP, UL.RX_ERR, UL.REFUSE_LOST]
def fldsUL1 : List Fld := [UL.REFUSE_SENT, UL.ECHO_CNT]
/-- The fields of the uplink block tables. -/
def fldsUL : List Fld := fldsUL0 ++ fldsUL1
def fldsPT0 : List Fld := [PT.EN, PT.P2P, PT.POL, PT.MSB_FIRST, PT.DATA_BITS, PT.PARITY, PT.STOP, PT.TX_BREAK, PT.LEAN_MEAS_EN, PT.LEAN_APPLY_EN, PT.BAUD_INC, PT.P2P_TALKER, PT.RX_TIMEOUT, PT.LEAD_US, PT.TAIL_US, PT.TURN_US, PT.BRK_MS, PT.MARK_MS, PT.BRK_DET, PT.RX_BUSY, PT.TX_BUSY, PT.IN_TRIM, PT.BRK_ACTIVE, PT.RELOAD_PENDING]
def fldsPT1 : List Fld := [PT.STAGE_FILL, PT.BLOCK_CLOSED, PT.TX_HOLD, PT.EV_OVERRUN, PT.EV_FRAMING, PT.EV_PARITY, PT.EV_BREAK_DET, PT.EV_LEAN_CLAMP, PT.EV_TX_HELD, PT.RX_CHARS, PT.MOVED_CHARS, PT.OVR_CHARS, PT.STAGE_AUDIT, PT.GLITCH_CNT, PT.FRAMING_CNT, PT.PARITY_CNT, PT.BREAK_CNT, PT.LEAN_CLAMP_CNT, PT.TX_HELD, PT.GRAMMAR, PT.CK_REQUIRED, PT.SENT_TIMEOUT_MS, PT.GE_NOISE, PT.GE_CHECKSUM_BAD]
def fldsPT2 : List Fld := [PT.GE_TRUNCATED, PT.GE_UNTERMINATED, PT.GE_T15, PT.GE_MARK_ABANDON, PT.GE_LONG, PT.NOISE_CNT, PT.CK_BAD_CNT, PT.RECORD_CNT, PT.TRUNC_CNT, PT.UNTERM_CNT, PT.T15_CNT, PT.MARK_ABANDON_CNT, PT.RENDER_ADDR, PT.RENDER_ADDR5, PT.RENDER_MAXLEN, PT.GAP_EMIT, PT.PASS_BAD, PT.LST_EN, PT.LST_GAP_US, PT.LST_TENANT, PT.LST_BOUND, PT.RENDERED_CNT, PT.CUT_CNT, PT.SKIP_CNT]
def fldsPT3 : List Fld := [PT.LST_LATE_CNT, PT.GAP_RENDER_CNT, PT.LST_CUT, PT.LST_SKIP, PT.LST_LATE]
/-- The fields of the PORT tables. -/
def fldsPT : List Fld := fldsPT0 ++ fldsPT1 ++ fldsPT2 ++ fldsPT3
def fldsTK0 : List Fld := [TK.PORT, TK.VALID, TK.CABLE_M, TK.ADDR_KEY, TK.LEAN, TK.LEAN_VALID, TK.OWNER, TK.LAST_SEEN_SEC, TK.RECORD_CNT, TK.MISS_CNT, TK.LATE_CNT, TK.CMD_CNT, TK.CMD_LATE_CNT]
/-- The fields of the TALKER tables. -/
def fldsTK : List Fld := fldsTK0
def fldsCY0 : List Fld := [CY.DELIVER0, CY.DELIVER1, CY.DELIVER2, CY.DELIVER3, CY.PAT_VALUE0, CY.PAT_VALUE1, CY.PAT_VALUE2, CY.PAT_VALUE3, CY.PAT_MASK0, CY.PAT_MASK1, CY.PAT_MASK2, CY.PAT_MASK3, CY.VALID, CY.CONTINUE, CY.DROP, CY.LOG, CY.REWRITE, CY.CLASS, CY.PORT_ANY, CY.PORT, CY.GRAMMAR_ANY, CY.GRAMMAR, CY.TYPE_LEN, CY.PAT_WORD]
def fldsCY1 : List Fld := [CY.TALKER, CY.TALKER_ANY, CY.REWRITE_TALKER, CY.DECIM_N, CY.TYPE_HI, CY.TYPE_LO, CY.DEADLINE_MS]
/-- The fields of the CANOPY tables. -/
def fldsCY : List Fld := fldsCY0 ++ fldsCY1
def fldsTN0 : List Fld := [TN.EN, TN.CONSUMER, TN.LISTEN_PORT, TN.CONTROL_DL_MS, TN.KEY_SET, TN.KEY_GEN, TN.RX_CTR, TN.TX_CTR, TN.DELIVERED, TN.LATE_DROP_ALARM, TN.LATE_DROP_CONTROL, TN.LATE_DROP_TELEMETRY, TN.LATE_DROP_BULK, TN.REFUSED_CNT, TN.CMD_ACC_CNT, TN.CMD_DROP_CNT, TN.LATE_DROP, TN.REFUSED, TN.CTR_EXHAUST, TN.KEY_LOADED, TN.PEER0_IP, TN.PEER0_PORT, TN.PEER0_MAC_HI, TN.PEER0_MAC_LO]
def fldsTN1 : List Fld := [TN.PEER1_IP, TN.PEER1_PORT, TN.PEER1_MAC_HI, TN.PEER1_MAC_LO, TN.BATCH_US, TN.PEER_PIN, TN.PUSH, TN.SUB0, TN.SUB1, TN.BATCH_OPEN]
/-- The fields of the TENANT tables. -/
def fldsTN : List Fld := fldsTN0 ++ fldsTN1
def fldsGP0 : List Fld := [GP.EN, GP.PERIOD_MS, GP.PHASE_MS, GP.ALIGNED, GP.RUNNING, GP.PERIOD_CNT, GP.LATE_CNT, GP.POLLS_OK, GP.POLLS_FAIL, GP.LAST_B_SEC, GP.LAST_B_NS, GP.LATE, GP.SKIP, GP.SLACK_MS]
/-- The fields of the GROUP tables. -/
def fldsGP : List Fld := fldsGP0
def fldsPL0 : List Fld := [PL.EN, PL.KIND, PL.RETRIES, PL.NO_REPLY, PL.GROUP, PL.TALKER, PL.RESP_TO_MS, PL.REQ_LEN, PL.D_COUNT, PL.REQ0, PL.REQ1, PL.REQ2, PL.REQ3, PL.REQ4, PL.REQ5, PL.REQ6, PL.REQ7, PL.REQ8, PL.REQ9, PL.OUTCOME, PL.TRIES_USED, PL.OK_CNT, PL.NOREPLY_CNT, PL.LATE_CNT]
def fldsPL1 : List Fld := [PL.BAD_CNT, PL.LAST_OK_SEC]
/-- The fields of the POLL tables. -/
def fldsPL : List Fld := fldsPL0 ++ fldsPL1
def fldsQU0 : List Fld := [QU.CLEAR, QU.GUAR, QU.BORROW_MAX, QU.MP_MODE, QU.WAIT_US, QU.WORDS, QU.USED, QU.BORROWED, QU.POISON, QU.FULL, QU.CLEARED]
/-- The fields of the QUEUE tables. -/
def fldsQU : List Fld := fldsQU0
def fldsGL0 : List Fld := [GL.EN, GL.MODE, GL.TERM_EN, GL.FAILSAFE, GL.PWR_EN, GL.PWR_V, GL.TRIM_REQ, GL.LEAK_EN, GL.LEAK_ACT, GL.ILIM, GL.RETRY_S, GL.RETRY_MAX, GL.LEAK_THRESH_KOHM, GL.LEAK_PERIOD_S, GL.PWR_STATE, GL.PWR_CAUSE, GL.IN_TRIM, GL.TRIM_WANTED, GL.SLICES_DONE, GL.LEAK_VALID, GL.CM_FAULT, GL.LEAK_LOW, GL.EV_OC, GL.EV_SHORT]
def fldsGL1 : List Fld := [GL.EV_START_FAIL, GL.EV_THERMAL, GL.EV_SUPPLY_LOW, GL.EV_SUPPLY_HIGH, GL.EV_LEAVE_TO, GL.EV_TRIM_FAIL, GL.EV_LEAK_ALARM, GL.EV_LEAK_STALE, GL.EV_CM_FAULT, GL.I_MA, GL.V_10MV, GL.LEAK_RESULT, GL.LEAK_AGE_S, GL.TERM_CODE, GL.THRESH, GL.TRIM_TEMP, GL.TRIM_CAUSE, GL.TRIM_CNT, GL.TRIM_FAIL_CNT, GL.SLICE_CNT, GL.PREEMPTED, GL.SKIPPED, GL.PWR_FAULT_CNT, GL.RETRY_CNT]
/-- The fields of the GUARD_LINE tables. -/
def fldsGL : List Fld := fldsGL0 ++ fldsGL1
def fldsCN0 : List Fld := [CN.MATCH_CNT, CN.RECORDS_IN, CN.RECORDS_OUT, CN.WORDS_IN, CN.FULL_CNT, CN.POISON_CNT, CN.GAP_CNT, CN.CLEAR_CNT, CN.USED_HWM, CN.WORDS_HWM, CN.TENANT_CLASS, CN.SOURCE_CLASS]
/-- The fields of the COUNTERS tables. -/
def fldsCN : List Fld := fldsCN0
def fldsRL0 : List Fld := [RL.NEXT_SEQ, RL.DEPTH, RL.REASON_CNT]
/-- The fields of the REFUSAL_LOG tables. -/
def fldsRL : List Fld := fldsRL0
def fldsEL0 : List Fld := [EL.NEXT_SEQ, EL.DEPTH, EL.FLASH_NEXT, EL.BOOT_SEQ, EL.FLASH_OLDEST, EL.FLASH_PAGES, EL.RING_ENTRIES]
/-- The fields of the EVENT_LOG tables. -/
def fldsEL : List Fld := fldsEL0
def fldsCD0 : List Fld := [CD.CLK_SEL, CD.DET_POL, CD.PPS_EN, CD.RESET, CD.DEACT, CD.CX_RETRY, CD.DET_DEB_MS, CD.PWR_SETTLE_US, CD.CX_DEADLINE_MS, CD.STATE, CD.CONV, CD.FD, CD.WI, CD.GUARD_N, CD.EV_INSERT, CD.EV_REMOVE, CD.EV_ATR_DONE, CD.EV_ATR_FAIL, CD.EV_PPS_FAIL, CD.EV_UNSUPPORTED, CD.EV_CX_DONE, CD.EV_FMAX, CD.EV_LATE, CD.GO]
def fldsCD1 : List Fld := [CD.DIR, CD.CX_RESULT, CD.SW1, CD.SW2, CD.CX_CNT, CD.RX_PAR_CNT, CD.TX_REP_CNT, CD.ATR_FAIL_CNT, CD.ATR_LEN]
/-- The fields of the CARD tables. -/
def fldsCD : List Fld := fldsCD0 ++ fldsCD1
def fldsCX0 : List Fld := [CX.ATR_BYTES, CX.CMD_BUF]
/-- The fields of the CARD tables. -/
def fldsCX : List Fld := fldsCX0

end Sys2Proof.Machine
end

