-- ==== Sys2Proof/Machine/Ops.lean ====
section
/-! DEFINITION. The named operations over State that every meaning uses: sparse tables, register fields
with their access and clash codes, interrupts, Ring time, and the passing of time. -/

namespace Sys2Proof.Machine

/-! ### Sparse tables -/

/-- The value listed at a key, if any. -/
def find {α : Type} (k : Nat) : Tbl α → Option α
  | [] => none
  | (j, v) :: r => if j = k then some v else find k r

/-- List a value at a key, keeping the keys rising. -/
def insert {α : Type} (k : Nat) (v : α) : Tbl α → Tbl α
  | [] => [(k, v)]
  | (j, w) :: r => if k < j then (k, v) :: (j, w) :: r
      else if j = k then (k, v) :: r else (j, w) :: insert k v r

/-- Drop whatever is listed at a key. -/
def erase {α : Type} (k : Nat) : Tbl α → Tbl α
  | [] => []
  | (j, w) :: r => if j = k then erase k r else (j, w) :: erase k r

/-- The value of a table with a default. -/
def lookup {α : Type} (d : α) (k : Nat) (t : Tbl α) : α := (find k t).getD d

/-- Write into a table with a default: writing the default unlists the key. -/
def store {α : Type} [DecidableEq α] (d : α) (k : Nat) (v : α) (t : Tbl α) : Tbl α :=
  if v = d then erase k t else insert k v t

/-! ### Fields -/

/-- The reset value of a field of entry `i` (the tables' Reset column; Table 9-3 for GUAR). -/
def Rst.value (v : Variant) (big : Bool) (i : Nat) : Rst → Nat
  | .num n => n
  | .devId => Config.devId v
  | .silStep => Config.step.toNat
  | .silBase => Config.base.toNat
  | .silRom => Config.romVer.toNat
  | .capGuards => 2 ^ Config.guards v - 1
  | .capUplinks => 2 ^ Config.uplinks v - 1
  | .capCards => 2 ^ Config.cards v - 1
  | .capPm => 2 ^ Config.pmGroups v - 1
  | .ports => Config.ports v
  | .tenants => Config.tenants v
  | .scale => Config.scale v
  | .blocks => Config.blocks v
  | .slots => Config.slots v
  | .guarSum => 32 * Config.ports v + 64 * Config.tenants v + 80
  | .uplinkIdx => i
  | .tenantEn => if i = 0 then 1 else 0
  | .guar => if i < 96 then 16 else if i = 224 then 16 else 64
  | .ringEntries => if big then 333312 else 103936

/-- Where a field instance lives in `regs`: space, word address and lowest bit in one number. -/
def Fld.key (f : Fld) (i : Nat) : Nat := f.space * 2 ^ 25 + (f.word + f.stride * i) * 32 + f.lo

/-- The reset value of field `f` of entry `i` of this machine. -/
def rstOf (f : Fld) (i : Nat) (s : State) : Nat := f.rst.value s.variant s.flash.big i

/-- The value of a field, which has the field's width. DESIGN CHOICE (assumption 13). -/
def get (f : Fld) (i : Nat) (s : State) : Nat := lookup (rstOf f i s) (f.key i) s.regs % 2 ^ f.width

/-- A one-bit field as a Boolean. -/
def flag (f : Fld) (i : Nat) (s : State) : Bool := get f i s == 1

/-- Set a field; its value is cut to its width. -/
def put (f : Fld) (i v : Nat) (s : State) : State :=
  { s with regs := store (rstOf f i s) (f.key i) (v % 2 ^ f.width) s.regs }

/-- A hardware update of a clash-S field: discarded when software wrote the field in this CORE cycle
(Table 0-3, R129, R201, R462). -/
def putHw (f : Fld) (i v : Nat) (s : State) : State :=
  if s.cyc.sw.contains (f.key i) then s else put f i v s

/-- A software write of a clash-S field: it stands for this CORE cycle (Table 0-3). -/
def putSw (f : Fld) (i v : Nat) (s : State) : State :=
  let t := put f i v s
  { t with cyc := { t.cyc with sw := f.key i :: t.cyc.sw } }

/-- `a + n` as the counter counts: wrapping or saturating at its width (R195, R709). -/
def Fld.count (f : Fld) (a n : Nat) : Nat :=
  match f.ctr with
  | .sat => min (a + n) (2 ^ f.width - 1)
  | _ => (a + n) % 2 ^ f.width

/-- Hardware adds `n` to a clash-A counter (R24, R709). -/
def bumpBy (f : Fld) (i n : Nat) (s : State) : State :=
  let t := put f i (f.count (get f i s) n) s
  { t with cyc := { t.cyc with inc := store 0 (f.key i) (lookup 0 (f.key i) t.cyc.inc + n) t.cyc.inc } }

/-- Hardware adds 1 to a clash-A counter. -/
def bump (f : Fld) (i : Nat) (s : State) : State := bumpBy f i 1 s

/-- A software write of a clash-A counter: the written value plus this cycle's increments (R28, R709). -/
def putCtr (f : Fld) (i v : Nat) (s : State) : State :=
  put f i (f.count v (lookup 0 (f.key i) s.cyc.inc)) s

/-- Hardware sets bits of a clash-H field (R24). -/
def setBits (f : Fld) (i m : Nat) (s : State) : State :=
  let t := put f i (get f i s ||| m) s
  { t with cyc := { t.cyc with set := store 0 (f.key i) (lookup 0 (f.key i) t.cyc.set ||| m) t.cyc.set } }

/-- A software write of ones to a W1C field clears those bits, but for the bits that hardware sets in
this CORE cycle (R22, R29). -/
def clearBits (f : Fld) (i m : Nat) (s : State) : State :=
  put f i (get f i s - (get f i s &&& (m - (m &&& lookup 0 (f.key i) s.cyc.set)))) s

/-- An event: the source bit is set and its IRQ_STATUS bit with it (R727, R728). -/
def raise (irq src : Fld) (i : Nat) (s : State) : State := setBits irq 0 1 (setBits src i 1 s)

/-- An IRQ_STATUS bit with no source bit is set (R922). -/
def irq (f : Fld) (s : State) : State := setBits f 0 1 s

/-- The fields of IRQ_STATUS, bit 0 first (Table 12-7). -/
def irqFields : List Fld :=
  [RG.IRQ_READY, RG.IRQ_CLOCK, RG.IRQ_LINE, RG.IRQ_GRAMMAR, RG.IRQ_GUARD, RG.IRQ_LEAVE, RG.IRQ_QUEUE,
   RG.IRQ_LATE, RG.IRQ_POLL, RG.IRQ_UPLINK, RG.IRQ_CARD, RG.IRQ_REFUSAL, RG.IRQ_EVENT,
   RG.IRQ_CONFLICT, RG.IRQ_THERMAL, RG.IRQ_FIRMWARE, RG.IRQ_FLASH]

/-- IRQ_STATUS as one number. -/
def irqStatus (s : State) : Nat := irqFields.foldl (fun a f => a + get f 0 s * 2 ^ f.lo) 0

/-- IRQ_N is low while a bit is 1 in both IRQ_STATUS and IRQ_MASK (R691). DESIGN CHOICE (assumption 107). -/
def irqLow (s : State) : Bool := (irqStatus s &&& get RG.IRQ_MASK 0 s) != 0

/-! ### Units present -/

/-- The line port exists on the variant (R7). -/
def portOk (s : State) (p : Nat) : Bool := decide (p < Config.ports s.variant)
/-- The tenant exists on the variant. -/
def tenantOk (s : State) (t : Nat) : Bool := decide (t < Config.tenants s.variant)
/-- The guard exists on the variant. -/
def guardOk (s : State) (k : Nat) : Bool := decide (k < Config.guards s.variant)
/-- The card port exists on the variant. -/
def cardOk (s : State) (n : Nat) : Bool := decide (n < Config.cards s.variant)
/-- The uplink exists on the variant. -/
def uplinkOk (s : State) (u : Nat) : Bool := decide (u < Config.uplinks s.variant)
/-- The talker entry exists on the variant. -/
def talkerOk (s : State) (t : Nat) : Bool := decide (t < Config.talkers s.variant)
/-- The queue exists on the variant (R749). -/
def queueOk (s : State) (q : Nat) : Bool := Config.queuePresent s.variant q

/-- Fold a state change over a list of indices, lowest first. -/
def each (l : List Nat) (f : Nat → State → State) (s : State) : State := l.foldl (fun a i => f i a) s

/-- A state change made only when its condition holds. -/
def when_ (c : Bool) (f : State → State) (s : State) : State := if c then f s else s

/-- Draw a free number: nothing constrains it. -/
def drawNat (s : State) : Nat × State := (Config.freeNat s.free, { s with free := s.free + 1 })

/-- Draw a free bit: nothing constrains it. -/
def drawBit (s : State) : Bool × State := (Config.freeBit s.free, { s with free := s.free + 1 })

/-! ### Time -/

/-- CORE cycles in a microsecond, a millisecond and a second (R16). -/
def cyclesUs (n : Nat) : Nat := 250 * n
/-- CORE cycles in `n` milliseconds. -/
def cyclesMs (n : Nat) : Nat := 250000 * n
/-- CORE cycles in `n` seconds. -/
def cyclesS (n : Nat) : Nat := 250000000 * n
/-- CORE cycles in `n` LINE cycles (R16). -/
def cyclesLine (n : Nat) : Nat := 5 * n
/-- CORE cycles in `n` STORE cycles (R16). -/
def cyclesStore (n : Nat) : Nat := 2 * n

/-- One second of Ring time in units of 2^-32 ns (R87). -/
def ringSecond : Nat := 1000000000 * 2 ^ 32

/-- RT_RATE as a signed number (R87). -/
def rtRate (s : State) : Int := signedOf 32 (get RG.RT_RATE 0 s)

/-- What one CORE cycle adds to the nanosecond value: 4 ns plus RT_RATE (R87). RT_RATE is limited to
±3,435,973, so the sum is positive. -/
def ringPerCycle (s : State) : Nat := (4 * 2 ^ 32 + rtRate s).toNat

/-- Nanoseconds of the present Ring time (R86). -/
def ringNs (s : State) : Nat := s.ring.acc / 2 ^ 32

/-- The present Ring time as a stamp, with the quality code in force (R86, R116). -/
def stampNow (s : State) : Stamp := ⟨s.ring.sec, ringNs s, get RG.QUALITY 0 s⟩

/-- The least of a list of numbers. -/
def least : List Nat → Option Nat
  | [] => none
  | a :: r => some (r.foldl min a)

/-- Header word 2 of a stamp: quality in 31:30, nanoseconds in 29:0 (Table 5-2). -/
def Stamp.word2 (t : Stamp) : Nat := t.q * 2 ^ 30 + t.ns

/-- A stamp in ns since second 0. -/
def Stamp.total (t : Stamp) : Nat := t.sec * 1000000000 + t.ns

/-- Take `d` ns from a stamp, borrowing from seconds, which wrap (R114, R128). -/
def Stamp.sub (t : Stamp) (d : Nat) : Stamp :=
  let z : Int := (t.total : Int) - d
  let m : Nat := (z % ((2 ^ 32 * 1000000000 : Nat) : Int)).toNat
  ⟨m / 1000000000, m % 1000000000, t.q⟩

/-- Add `d` ns to a stamp, carrying into seconds, which wrap (R113). -/
def Stamp.add (t : Stamp) (d : Nat) : Stamp :=
  let m := (t.total + d) % (2 ^ 32 * 1000000000)
  ⟨m / 1000000000, m % 1000000000, t.q⟩

/-- Pass the CORE cycles that lead to `target` with Ring time counting and no seconds carry handled:
the clash records of the cycle that ends are forgotten (R708). -/
def advance (target : Nat) (s : State) : State :=
  if s.now < target then
    { s with now := target, cyc := ⟨[], [], [], []⟩,
             ring := if s.clk.locked then
               { s.ring with acc := s.ring.acc + (target - s.now) * ringPerCycle s } else s.ring }
  else s

/-- CORE cycles until nanoseconds next reach 1,000,000,000 (R88). -/
def cyclesToCarry (s : State) : Nat := ceilDiv (ringSecond - s.ring.acc) (ringPerCycle s)

end Sys2Proof.Machine
end

