-- ==== Sys2Proof/Machine/Understory.lean ====
section
/-! DEFINITION. The Understory (chapter 9): words entering and leaving a queue, spill and refill, blocks
and lanes, parity, gap markers and Clearing; with the meanings of the rows of this family. -/

namespace Sys2Proof.Machine

/-- The codes of Table 9-2. -/
def Tag.code : Tag → Nat
  | .notValid => 0 | .body => 1 | .start => 2 | .end_ => 3
  | .single => 4 | .poison => 5 | .gap => 6 | .reserved => 7

/-- The tag that a code names (Table 9-2). -/
def Tag.ofCode : Nat → Tag
  | 0 => .notValid | 1 => .body | 2 => .start | 3 => .end_
  | 4 => .single | 5 => .poison | 6 => .gap | _ => .reserved

/-- A queue as every reset leaves it (R535, R805). -/
def Queue.empty : Queue :=
  { head := [], tail := [], mid := [], openBy := none, openWords := 0, openLen := 0, openCleared := false, wait := [],
    counted := false, gap := ⟨0, 0, 0, 0, 0⟩, gapOwed := false, clearedOwed := false, inside := false,
    outWord := 0, outLen := 0, outPoison := false, verified := false, verifying := false, clearWanted := false, detached := 0,
    deadlines := [] }

/-- Queue `q` of the machine. -/
def qGet (q : Nat) (s : State) : Queue := lookup Queue.empty q s.queues

/-- Replace queue `q`. -/
def qSet (q : Nat) (v : Queue) (s : State) : State := { s with queues := store Queue.empty q v s.queues }

/-- Change queue `q`. -/
def qMap (q : Nat) (f : Queue → Queue) (s : State) : State := qSet q (f (qGet q s)) s

/-- The words of the middle, oldest first (R528). -/
def Queue.midWords (q : Queue) : List QWord := q.mid.flatMap Block.words

/-- Every word of a queue in queue order (R528). -/
def Queue.words (q : Queue) : List QWord := q.head.map Prod.fst ++ q.midWords ++ q.tail

/-- WORDS of the QUEUE entry. -/
def Queue.count (q : Queue) : Nat := q.head.length + q.midWords.length + q.tail.length

/-- USED: the blocks of the middle (R536). -/
def Queue.used (q : Queue) : Nat := q.mid.length

/-- GUAR_USED = min(USED, GUAR) (R536). -/
def guarUsed (q : Nat) (s : State) : Nat := min (qGet q s).used (get QU.GUAR q s)

/-- BORROWED = USED − GUAR_USED (R536). -/
def borrowed (q : Nat) (s : State) : Nat := (qGet q s).used - guarUsed q s

/-- SHARED_USED: the sum of BORROWED over the present queues (R536). -/
def sharedUsed (s : State) : Nat := s.queues.foldl (fun a e => a + borrowed e.1 s) 0

/-- A producer word finds a place: the head when middle and tail are empty, otherwise the tail (R529). -/
def Queue.room (q : Queue) : Bool :=
  (q.mid.isEmpty && q.tail.isEmpty && decide (q.head.length < 8)) || decide (q.tail.length < 8)

/-- GAP_BEFORE and CLEARED, bits 11 and 12 of word 3 (Table 5-3). -/
def gapFlags (q : Queue) : Word :=
  word ((if q.gapOwed then 2048 else 0) + (if q.clearedOwed then 4096 else 0))

/-! ### Words of a record, and poison in the head (R545, R550) -/

/-- The words that a record has by the LENGTH of its word 0 (R276, R545). -/
def recordLen (w0 : Word) : Nat := 4 + ceilDiv (bits w0.toNat 0 10) 4

/-- Where a word stands, after the words before it: its index in its record, the record's words by LENGTH (0 where word 0
failed parity), and whether a POISON word of the record came before (R545). -/
def wordPos (k len : Nat) (seen : Bool) (w : QWord) : Nat × Nat × Bool :=
  if w.tag = .start then (0, recordLen w.data, false)
  else if w.tag = .gap || w.tag = .single || (len != 0 && k == len) then (0, 0, false)
  else (k, len, seen)

/-- Words of a list up to the next one that starts something else (R545). -/
def untilNext : List QWord → Nat
  | [] => 0
  | w :: r => if w.tag = .start || w.tag = .single || w.tag = .gap then 0 else untilNext r + 1

/-- The words in a head as their consumer will take them: a POISON word of a record whose word 3 still has to be taken sets
POISON in that word 3 (R544, R550). `k`, `len` and `seen` say where the first word stands. -/
def markPoison : Nat → Nat → Bool → List QWord → List QWord
  | _, _, _, [] => []
  | k, len, seen, w :: r =>
    let (k, len, seen) := wordPos k len seen w
    let seen := seen || w.tag == .poison
    let rest := r.take (min (untilNext r) (if len = 0 then r.length else len - k - 1))
    (if k = 3 && w.tag != .gap && (seen || rest.any fun x => x.tag == .poison) then { w with data := w.data ||| 128#32 } else w) ::
      markPoison (if w.tag = .gap || w.tag = .single then 0 else k + 1) len seen r

/-- Where the consumer stands after it has taken some words: inside a record, and at which word of it (R550, R566, R568). -/
def follow : List QWord → Bool → Nat → Nat → Bool → Bool × Nat × Nat × Bool
  | [], inside, k, len, seen => (inside, k, len, seen)
  | w :: r, inside, k, len, seen =>
    let (k, len, seen) := wordPos k len seen w
    let last := w.tag = .end_ || (len != 0 && k + 1 == len)
    follow r (if w.tag = .start then true else if w.tag = .gap || last then false else inside)
      (if w.tag = .gap || w.tag = .single then 0 else k + 1) len (seen || w.tag == .poison)

/-- How many of some taken words are the first of a record: START words, and words at a record's place that failed parity. -/
def recordStarts : List QWord → Nat → Nat → Nat
  | [], _, _ => 0
  | w :: r, k, len =>
    let (k, len, _) := wordPos k len false w
    (if w.tag = .start || (w.tag = .poison && k = 0) then 1 else 0) +
      recordStarts r (if w.tag = .gap || w.tag = .single then 0 else k + 1) len

/-- The head with the POISON flags that its words have come by (R550). -/
def Queue.marked (c : Queue) : Queue :=
  { c with head := (markPoison c.outWord c.outLen c.outPoison (c.head.map Prod.fst)).zip (c.head.map Prod.snd) }

/-- Put one word into the head or the tail (R529), with the flags of R557 in word 3 of a record. -/
def Queue.place (now : Nat) (w : QWord) (q : Queue) : Queue :=
  if q.mid.isEmpty && q.tail.isEmpty && decide (q.head.length < 8) then { q with head := q.head ++ [(w, now)] }.marked
  else { q with tail := q.tail ++ [w] }

/-- Keep the high-water marks of a queue (Table 16-3): clash code S. -/
def qMarks (q : Nat) (s : State) : State :=
  let w := (qGet q s).count
  let u := (qGet q s).used
  let s := if get CN.WORDS_HWM q s < w then putHw CN.WORDS_HWM q w s else s
  if get CN.USED_HWM q s < u then putHw CN.USED_HWM q u s else s

/-- A tenant queue (Table 9-1). -/
def tenantQueue (q : Nat) : Bool := decide (96 ≤ q) && decide (q < 224)

/-- The deadline of the record that a forward-copy job writes. DEDUCED (assumption 38). -/
def jobDeadline (p : Producer) (s : State) : Nat :=
  match p with
  | .job id => match s.releases.find? (fun r => r.jobs.contains id) with
    | some r => r.deadline
    | none => 0
  | _ => 0

/-- Words 1 to 3 of an injected record: the stamp taken when its START word entered, and 0 (R315, R682).
DEDUCED (assumption 139). -/
def injected (idx : Nat) (w : QWord) (s : State) : QWord :=
  if idx = 1 then { w with data := word s.mp.stamp.sec }
  else if idx = 2 then { w with data := word s.mp.stamp.word2 }
  else if idx = 3 then { w with data := 0#32 }
  else w

/-- A word of tag `t` has entered queue `q`: the counters, the marks, and queue 225's interrupt (Table 16-3). -/
def entered (q : Nat) (t : Tag) (s : State) : State :=
  let s := if t = .start then bump CN.RECORDS_IN q s else s
  let s := if t = .gap then bump CN.GAP_CNT q s else s
  let s := if q = 225 then irq RG.IRQ_EVENT s else s
  qMarks q (bump CN.WORDS_IN q s)

/-- A word of an Iteel record, of the event queue or of the gap register enters queue `q`: it takes its
place, the record's bookkeeping follows its tag, and RECORDS_IN and WORDS_IN count it (Table 16-3).
DEDUCED (assumption 29). See assumption 139. -/
def enter (q : Nat) (p : Producer) (w : QWord) (s : State) : State :=
  let c := qGet q s
  let idx := if w.tag = .start then 0 else c.openWords
  let s := if p = .mp ∧ w.tag = .start then { s with mp := { s.mp with stamp := stampNow s } } else s
  let w := if p = .mp then injected idx w s else w
  let w' : QWord := if idx = 3 && w.tag != .gap then { w with data := w.data ||| gapFlags c } else w
  let c := c.place s.now w'
  let c := if idx = 3 && w.tag != .gap then { c with gapOwed := false, clearedOwed := false } else c
  let c := match w.tag with
    | .start => { c with openBy := some p, openWords := 1, openLen := recordLen w.data }
    | .body => { c with openWords := c.openWords + 1 }
    | .poison => if c.openWords + 1 = c.openLen then { c with openBy := none, openWords := 0 }
        else { c with openWords := c.openWords + 1 }
    | .end_ => { c with openBy := none, openWords := 0 }
    | .gap => { c with gapOwed := true, clearedOwed := c.clearedOwed || bits w.data.toNat 30 2 == 2 }
    | _ => c
  let c := if w.tag = .start && tenantQueue q then { c with deadlines := c.deadlines ++ [jobDeadline p s] } else c
  entered q w.tag (qSet q c s)

/-- The data of a GAP word (Table 9-5). -/
def gapData (cause cls count : Nat) : Word := word (cause * 2 ^ 30 + cls * 2 ^ 28 + count)

/-- The GAP words that a gap register owes, in the order of R554. -/
def GapReg.words (g : GapReg) : List (Nat × Word) :=
  ([(0, 2, 0, g.clearing), (1, 1, 0, g.alarm), (2, 1, 1, g.control), (3, 1, 2, g.telemetry), (4, 1, 3, g.bulk)]).filterMap
    fun (i, cause, cls, n) => if n = 0 then none else some (i, gapData cause cls n)

/-- Reset one count of a gap register. -/
def GapReg.reset (g : GapReg) : Nat → GapReg
  | 0 => { g with clearing := 0 }
  | 1 => { g with alarm := 0 }
  | 2 => { g with control := 0 }
  | 3 => { g with telemetry := 0 }
  | _ => { g with bulk := 0 }

/-- Add one late drop of a class to a gap register, saturating (R553, R582). -/
def GapReg.late (g : GapReg) : Nat → GapReg
  | 0 => { g with alarm := min (g.alarm + 1) 65535 }
  | 1 => { g with control := min (g.control + 1) 65535 }
  | 2 => { g with telemetry := min (g.telemetry + 1) 65535 }
  | _ => { g with bulk := min (g.bulk + 1) 65535 }

/-- The gap register writes its non-zero counts while the queue accepts words and no record is open (R554). -/
def gapWrite (q : Nat) (s : State) : State :=
  (qGet q s).gap.words.foldl
    (fun a (i, d) => if (qGet q a).openBy.isNone && (qGet q a).room then
        qMap q (fun c => { c with gap := c.gap.reset i }) (enter q .gapReg ⟨.gap, d⟩ a)
      else a) s

/-- The write of `w` by `p` completes now: a place is free, and no other producer's record is open; a
START word also waits for the gap register (R522, R529, R554). -/
def accepts (q : Nat) (p : Producer) (w : QWord) (s : State) : Bool :=
  let c := qGet q s
  if c.openCleared && c.openBy == some p then true
  else c.room && (match c.openBy with
    | some o => o == p && w.tag != .start
    | none => (w.tag == .start || w.tag == .single) && c.gap.words.isEmpty)

/-- One producer write that completes: the word enters, or, in a record marked cleared, is discarded (R570). -/
def writeWord (q : Nat) (p : Producer) (w : QWord) (s : State) : State :=
  if (qGet q s).openCleared && (qGet q s).openBy == some p then
    if w.tag = .end_ || (w.tag = .poison && (qGet q s).openWords + 1 = (qGet q s).openLen) then
      qMap q (fun c => { c with openBy := none, openWords := 0, openCleared := false }) s
    else qMap q (fun c => { c with openWords := c.openWords + 1 }) s
  else enter q p w s

/-- A write that does not complete in its cycle sets FULL and counts once (Table 16-3). DEDUCED (assumption 142). -/
def stall (q : Nat) (s : State) : State :=
  if (qGet q s).counted then s
  else qMap q (fun c => { c with counted := true }) (raise RG.IRQ_QUEUE QU.FULL q (bump CN.FULL_CNT q s))

/-- The front waiting word of producer `p` of queue `q`, with the rest of the wait list. -/
def takeWaiting (p : Producer) : List (Producer × QWord) → Option (QWord × List (Producer × QWord))
  | [] => none
  | (o, w) :: r => if o = p then some (w, r) else (takeWaiting p r).map fun (x, l) => (x, (o, w) :: l)

/-- The producer whose waiting word may go next: the one whose record is open, otherwise the only one
waiting; between several the order is unspecified and PRODUCER_ADMIT names one (R522). DEDUCED (assumption 142). -/
def nextProducer (c : Queue) : Option Producer :=
  match c.openBy with
  | some p => some p
  | none => match c.wait with
    | [] => none
    | (p, _) :: r => if r.all (fun e => e.1 == p) then some p else none

/-- The next waiting word of producer `p` enters queue `q`, or stalls (R529, R552). -/
def writeFor (q : Nat) (p : Producer) (s : State) : State :=
  let s := gapWrite q s
  match takeWaiting p (qGet q s).wait with
  | none => s
  | some (w, rest) =>
    if accepts q p w s then
      writeWord q p w (qMap q (fun c => { c with wait := rest, counted := false }) s)
    else stall q s

/-- The next waiting word of queue `q` enters (R529). -/
def writeNext (q : Nat) (s : State) : State :=
  match nextProducer (qGet q s) with
  | none => s
  | some p => writeFor q p s

/-- As many waiting words as the queue takes, at most `n`. -/
def writeMany (q : Nat) : Nat → State → State
  | 0, s => s
  | n + 1, s =>
    let t := writeNext q s
    if (qGet q t).wait.length < (qGet q s).wait.length then writeMany q n t else t

/-- A producer offers words to queue `q`; they enter as far as the queue accepts them, and the rest wait
with their write handshake incomplete (R529, R552). DEDUCED (assumption 36). -/
def offer (q : Nat) (p : Producer) (ws : List QWord) (s : State) : State :=
  let s := qMap q (fun c => { c with wait := c.wait ++ ws.map (fun w => (p, w)) }) s
  writeMany q (qGet q s).wait.length s

/-- Does producer `p` still hold words outside queue `q`? -/
def outside (q : Nat) (p : Producer) (s : State) : Nat := ((qGet q s).wait.filter fun e => e.1 == p).length

/-- The producer is dropped: its held words are gone, and its open record ends where it stands (R555). -/
def dropProducer (q : Nat) (p : Producer) (s : State) : State :=
  qMap q (fun c =>
    let c := { c with wait := c.wait.filter (fun e => e.1 != p), counted := false }
    if c.openBy == some p then { c with openBy := none, openWords := 0, openCleared := false } else c) s

/-- The words of the record that producer `p` has open in queue `q` leave it again, newest first (R678). -/
def discardOpen (q : Nat) (p : Producer) (s : State) : State :=
  let c := qGet q s
  if c.openBy != some p then s
  else
    let n := if c.openCleared then 0 else c.openWords
    let t := min n c.tail.length
    let m := min (n - t) c.midWords.length
    let (mid, freed) := cutMid m c.mid.reverse
    let c := { c with tail := c.tail.take (c.tail.length - t), mid := mid.reverse, head := c.head.take (c.head.length - (n - t - m)),
                      openBy := none, openWords := 0, openCleared := false, wait := c.wait.filter fun e => e.1 != p }
    { qSet q c s with store := { s.store with releases := s.store.releases ++ List.replicate freed ⟨q, false, false⟩ } }
where
  /-- Drop `n` words from the newest end of the middle, given newest block first. -/
  cutMid : Nat → List Block → List Block × Nat
    | _, [] => ([], 0)
    | n, b :: r =>
      if n = 0 then (b :: r, 0)
      else if b.words.length ≤ n then
        let (l, k) := cutMid (n - b.words.length) r
        (l, k + 1)
      else ({ b with words := b.words.take (b.words.length - n) } :: r, 0)

/-- A record of words as START, BODY … BODY, END (R525). -/
def tagged : List Word → List QWord
  | [] => []
  | w :: r => ⟨.start, w⟩ :: go r
where
  go : List Word → List QWord
    | [] => []
    | [w] => [⟨.end_, w⟩]
    | w :: r => ⟨.body, w⟩ :: go r

/-- LENGTH of header word 0 (Table 5-1). -/
def lengthOf (w : Word) : Nat := bits w.toNat 0 10

/-- Change the words of a middle, `base` words standing before it. -/
def mapMid (f : Nat → QWord → QWord) : Nat → List Block → List Block
  | _, [] => []
  | base, b :: r => { b with words := b.words.zipIdx.map fun (w, i) => f (base + i) w } :: mapMid f (base + b.words.length) r

/-- Change the words of a queue by their place in queue order (R528). -/
def Queue.mapWords (f : Nat → QWord → QWord) (c : Queue) : Queue :=
  { c with
    head := c.head.zipIdx.map fun ((w, t), i) => (f i w, t)
    mid := mapMid f c.head.length c.mid
    tail := c.tail.zipIdx.map fun (w, i) => f (c.head.length + c.midWords.length + i) w }

/-- How many words the record at the front of a word list has, if it is complete (R545, R546). -/
def extent (ws : List QWord) : Option Nat :=
  match ws with
  | [] => none
  | w :: r =>
    match w.tag with
    | .start =>
      let n := recordLen w.data
      let g := (r.takeWhile fun x => x.tag != .gap).length + 1
      if g < n then (if g < ws.length then some g else none)
      else if ws.length < n then none else some n
    | .poison =>
      let n := untilNext r + 1
      if n < ws.length then some n
      else if ws.any (fun x => x.tag == .end_) then some n else none
    | _ => none

/-- The words of a queue that belong to no open record. -/
def Queue.closedCount (c : Queue) : Nat := if c.openBy.isSome && !c.openCleared then c.count - c.openWords else c.count

/-- How many words the record at the head of a queue has, once it is complete: a record that its producer has open, whatever
its LENGTH says so far, is not (R278, R546). -/
def Queue.headExtent (c : Queue) : Option Nat :=
  match extent c.words with
  | some n => if n ≤ c.closedCount then some n else none
  | none => none

/-- The record that stands at the head of queue `q`, once it is available: complete, and verified where
its words lie in the store (R278, R546). -/
def headRecord (q : Nat) (s : State) : Option (List QWord) :=
  let c := qGet q s
  match c.headExtent with
  | none => none
  | some n =>
    if decide (c.head.length < n) && !c.mid.isEmpty && !c.verified then none
    else if c.verifying then none else some (c.words.take n)

/-- Drop `n` words from the front of the middle, giving back the blocks that empty and their number (R533). -/
def dropMid : Nat → List Block → List Block × Nat
  | _, [] => ([], 0)
  | n, b :: r =>
    if b.words.length ≤ n && decide (0 < b.written) then
      let (l, k) := dropMid (n - b.words.length) r
      (l, k + 1)
    else ({ b with words := b.words.drop n } :: r, 0)

/-- Begin waiting releases while lanes are free: MOTION +1, HELD −1 for each (Table 9-9, R542). A block that is still in an
allocation lane is not held, and its release waits (R573). -/
def beginReleases (st : Store) : Store :=
  let n := min (min (8 - st.lanes.length) st.releases.length) st.held
  { st with lanes := st.lanes ++ st.releases.take n, releases := st.releases.drop n, held := st.held - n }

/-- `n` blocks of queue `q` are decided for release. -/
def releaseBlocks (q n : Nat) (clearing : Bool) (s : State) : State :=
  { s with store := beginReleases { s.store with releases := s.store.releases ++ List.replicate n ⟨q, false, clearing⟩ } }

/-- Take `n` words from the front of queue `q` wherever they lie: a source record that is released, or a
record that a hardware consumer takes whole (R33, R551). -/
def dropWords (q n : Nat) (s : State) : State :=
  let c := qGet q s
  let a := min n c.head.length
  let b := min (n - a) c.midWords.length
  let t := n - a - b
  let (mid, freed) := if b = 0 then (c.mid, 0) else dropMid b c.mid
  let s := qSet q { c with
    head := c.head.drop a, mid := mid, tail := c.tail.drop t, verified := false, outWord := 0, outLen := 0, outPoison := false,
    deadlines := c.deadlines.drop (recordStarts (c.words.take n) c.outWord c.outLen) } s
  releaseBlocks q freed false s

/-! ### Clearing -/

/-- The consumer of queue `q` is inside a record (R568). The flag is kept by each consumer. -/
def insideRecord (q : Nat) (s : State) : Bool := (qGet q s).inside

/-- Clearing takes effect (R569, R570): the queue is emptied, the gap register reset but for the late drops of this very cycle
(R572), a Clearing GAP word placed for the records whose START word went, and the blocks detached. A GAP word that had
entered still sets its flags in the next record (R557). DEDUCED (assumption 142). -/
def clearingEffect (q : Nat) (s : State) : State :=
  let c := qGet q s
  let starts := (c.words.filter fun w => w.tag == .start).length
  let opening := match c.openBy, c.wait with
    | none, (p, w) :: _ => if w.tag == .start && accepts q p w s then some p else none
    | _, _ => none
  let n := starts + (if opening.isSome then 1 else 0)
  let inLane := (s.store.lanes.filter fun l => l.queue == q && l.alloc).length
  let m := c.used
  let w : List (QWord × Nat) := if n = 0 then [] else [(⟨.gap, gapData 2 0 (min n 65535)⟩, s.now)]
  let c' : Queue := { c with
      head := w, tail := [], mid := [],
      gap := (s.cyc.late.filter fun e => e.1 == q).foldl (fun g e => g.late e.2) ⟨0, 0, 0, 0, 0⟩,
      openBy := if opening.isSome then opening else c.openBy,
      openWords := if opening.isSome then 1 else c.openWords,
      openLen := (match opening, c.wait with
        | some _, (_, w) :: _ => recordLen w.data
        | _, _ => c.openLen),
      openCleared := opening.isSome || c.openBy.isSome,
      wait := if opening.isSome then c.wait.drop 1 else c.wait,
      gapOwed := c.gapOwed || decide (0 < n), clearedOwed := c.clearedOwed || decide (0 < n), inside := false, outWord := 0,
      outLen := 0, outPoison := false,
      verified := false, verifying := false, clearWanted := false, detached := m, deadlines := [] }
  let s := qSet q c' s
  let s := { s with store := { s.store with
      lanes := s.store.lanes.map (fun l => if l.queue = q && l.alloc then { l with clearing := true } else l),
      allocWait := s.store.allocWait.filter (· != q) } }
  let s := releaseBlocks q (m - inLane) true s
  let s := if n = 0 then s else bump CN.WORDS_IN q (bump CN.GAP_CNT q s)
  qMarks q (raise RG.IRQ_QUEUE QU.CLEARED q (bump CN.CLEAR_CNT q s))

/-- Clearing ends once no detached block of the queue is left: CLEAR reads 0 (R571), or, where software writes 1 in this
very cycle, the bit stays and a second Clearing is requested (R567). -/
def clearingEnd (q : Nat) (s : State) : State :=
  if get QU.CLEAR q s = 1 && !(qGet q s).clearWanted && (qGet q s).detached = 0 then
    if s.cyc.sw.contains (QU.CLEAR.key q) then qMap q (fun c => { c with clearWanted := true }) s else put QU.CLEAR q 0 s
  else s

/-! ### Lanes -/

/-- The queue may allocate a block (R537). -/
def mayAllocate (q : Nat) (s : State) : Bool :=
  decide ((qGet q s).used < get QU.GUAR q s) ||
  (decide (borrowed q s < get QU.BORROW_MAX q s) && decide (sharedUsed s < get RG.SHARED_POOL 0 s))

/-- An allocation for queue `q` takes a lane: FREE −1, MOTION +1, and the block joins the middle (R536,
Table 9-9). -/
def beginAllocation (q : Nat) (s : State) : State :=
  let s := { s with store := { s.store with
      lanes := s.store.lanes ++ [⟨q, true, false⟩], free := s.store.free - 1, lastAlloc := q,
      allocWait := s.store.allocWait.filter (· != q) } }
  qMarks q (qMap q (fun c => { c with mid := c.mid ++ [⟨[], 0⟩] }) s)

/-- The requesting queue with the lowest index above the one last served, wrapping (R986). -/
def roundRobin (last : Nat) (l : List Nat) : Option Nat :=
  let above := l.filter (fun q => decide (last < q))
  let pick := if above.isEmpty then l else above
  pick.foldl (fun a q => match a with | none => some q | some b => some (min b q)) none

/-- A lane has come free: waiting allocations go first, then releases, oldest first (R542). -/
def serveLanes (s : State) : State :=
  let ok := s.store.allocWait.filter fun q => mayAllocate q s
  let s := match roundRobin s.store.lastAlloc ok with
    | some q => if s.store.lanes.length < 8 then beginAllocation q s else s
    | none => s
  { s with store := beginReleases s.store }

/-- Remove the oldest lane that serves queue `q` in the given direction. -/
def dropLane (q : Nat) (alloc : Bool) : List Lane → Option (Lane × List Lane)
  | [] => none
  | l :: r => if l.queue = q && l.alloc = alloc then some (l, r)
      else (dropLane q alloc r).map fun (x, k) => (x, l :: k)

/-- The words a block's newest spill goes to: the second half of a half-written newest block (R531). -/
def spillInto (ws : List QWord) : List Block → List Block
  | [] => []
  | [b] => [{ words := b.words ++ ws, written := b.written + 8 }]
  | b :: r => b :: spillInto ws r

/-- The newest block of a middle. -/
def newest (m : List Block) : Option Block := m.getLast?

/-- The newest word of queue `q` is an incomplete word of the record that its line port has open: the queue holds it in its
tail until later bytes complete it or the sentence ends (R177). -/
def holdsPartial (q : Nat) (s : State) : Bool :=
  match find q s.ports with
  | some p => match p.open_ with
    | some r => r.placed && decide (r.moved % 4 ≠ 0) && (qGet q s).openBy == some (.line q) && !(qGet q s).openCleared &&
        decide ((qGet q s).openWords = 4 + ceilDiv r.moved 4)
    | none => false
  | none => false

/-- The tail is to be spilled: it holds 8 words, and the middle is not empty or the head is full (R531). -/
def wantsSpill (c : Queue) : Bool :=
  decide (c.tail.length = 8) && (!c.mid.isEmpty || decide (c.head.length = 8))

/-- Spill the 8 tail words into the newest block (R531). -/
def spillTail (q : Nat) (s : State) : State :=
  qMap q (fun c => { c with mid := spillInto c.tail c.mid, tail := [] }) s

/-- SPILL (R531): into the second half of the newest block, or into the first half of a block that is
allocated first, within the guarantee or the shared pool (R537); otherwise the spill waits.
DEDUCED (assumption 37). -/
def spill (q : Nat) (s : State) : State :=
  if !wantsSpill (qGet q s) || holdsPartial q s then s
  else match newest (qGet q s).mid with
    | some b =>
      if b.written < 16 then spillTail q s
      else alloc s
    | none => alloc s
where
  alloc (s : State) : State :=
    if !mayAllocate q s then s
    else if s.store.lanes.length < 8 then spillTail q (beginAllocation q s)
    else { s with store := { s.store with allocWait := (s.store.allocWait.filter (· != q)) ++ [q] } }

/-! ### Parity -/

/-- A word that failed parity as the Understory delivers it: tag POISON, data as read (R544). -/
def poisoned (d : Word) : QWord := ⟨.poison, d⟩

/-- One poisoned word of queue `q` is delivered (R544, Table 16-3, Table 9-10). -/
def countPoison (q : Nat) (s : State) : State :=
  raise RG.IRQ_QUEUE RG.UQ_POISON 0 (raise RG.IRQ_QUEUE QU.POISON q (bump CN.POISON_CNT q (bump RG.POISON_WORDS 0 s)))

/-- Bit 7 of word 3: the POISON flag (Table 5-3). -/
def poisonFlag : Word := 128#32

/-- Does queue `q` have verify passes (R546)? -/
def verifiedQueue (q : Nat) : Bool := decide (q < 96) || decide (q = 224)

/-- How many of the lowest `n` bits of a number are 1. -/
def onesIn (v : Nat) : Nat → Nat
  | 0 => 0
  | n + 1 => onesIn v n + (if bitOf v n then 1 else 0)

/-- A queue word as the store keeps it: data in 31:0, tag in 34:32, and bit 35, which makes the number of ones even (R524,
R526). -/
def QWord.stored (w : QWord) : BitVec 36 :=
  let v := w.tag.code * 2 ^ 32 + w.data.toNat
  BitVec.ofNat 36 (v + onesIn v 35 % 2 * 2 ^ 35)

/-- A word as read from the store fails: the number of ones in its 36 bits is odd, or its tag is 0b111 (R524, R544). -/
def readsBad (b : BitVec 36) : Bool := onesIn b.toNat 36 % 2 == 1 || bits b.toNat 32 3 == 7

/-- Of the words that a row names by place and bits as read, those at places `lo` to `lo + n - 1` that fail (R544), with their
data, in order. DEDUCED (assumption 39). -/
def storeFaults (lo n : Nat) (bad : List (Nat × BitVec 36)) : List (Nat × Word) :=
  (List.range n).filterMap fun i => match bad.find? (fun e => e.1 == lo + i) with
    | some (_, b) => if readsBad b then some (lo + i, word (b.toNat % 2 ^ 32)) else none
    | none => none

/-- A word at a place, as the store delivers it: POISON with its data as read where it fails (R544). -/
def deliver (faults : List (Nat × Word)) (i : Nat) (w : QWord) : QWord :=
  match faults.find? (fun e => e.1 == i) with
  | some (_, d) => poisoned d
  | none => w

/-- REFILL (R532, R533, R544, R550): the oldest words of the middle fill the head. -/
def refill (q : Nat) (bad : List (Nat × BitVec 36)) (s : State) : State :=
  let c := qGet q s
  if 4 < c.head.length || c.mid.isEmpty then s
  else
    let n := min (8 - c.head.length) c.midWords.length
    let faults := storeFaults 0 n bad
    let got := (c.midWords.take n).zipIdx.map fun (w, i) => deliver faults i w
    let (mid, freed) := dropMid n c.mid
    let s := qSet q { c with head := c.head ++ got.map (fun w => (w, s.now)), mid := mid }.marked s
    let s := releaseBlocks q freed false s
    faults.foldl (fun a _ => countPoison q a) s

/-! ### Meanings of the rows -/

/-- QUEUE_WORD_WRITE (R529): the next waiting word of the queue enters, or stays waiting. -/
def queueWordWrite (q : Nat) (s : State) : State := if queueOk s q then writeNext q s else s

/-- PRODUCER_ADMIT (R522): of the producers that wait while no record is open, the named one writes its
START word. -/
def producerAdmit (q : Nat) (p : Producer) (s : State) : State :=
  if queueOk s q && (qGet q s).openBy.isNone then writeFor q p s else s

/-- HEAD_MOVE (R530): while the middle is empty, the oldest tail word moves into a free head place. -/
def headMove (q : Nat) (s : State) : State :=
  let c := qGet q s
  if queueOk s q && c.mid.isEmpty && decide (c.head.length < 8) then
    match c.tail with
    | [] => s
    | w :: r => qSet q { c with head := c.head ++ [(w, s.now)], tail := r }.marked s
  else s

/-- VERIFY_PASS (R546): a complete record at the head of a verified queue, with words in the store, is read
through. A record whose word 0 is already POISON gets its pass as well: R548 and R549 judge it there. -/
def verifyPass (q : Nat) (s : State) : State :=
  let c := qGet q s
  if queueOk s q && verifiedQueue q && !c.verified && !c.verifying then
    match c.headExtent with
    | none => s
    | some n =>
      let word0 := (c.words.head?.map QWord.tag).getD .notValid
      if (word0 == .start && !c.head.isEmpty && decide (c.head.length < n) && !c.mid.isEmpty) || word0 == .poison then
        qMap q (fun c => { c with verifying := true }) s
      else s
  else s

/-- The words that a verify pass finds failing, of those that are named: they belong to the head record and lie in the store. -/
def passFaults (q : Nat) (bad : List (Nat × BitVec 36)) (s : State) : List (Nat × Word) :=
  let c := qGet q s
  storeFaults c.head.length (min (c.headExtent.getD 0 - c.head.length) c.midWords.length) bad

/-- The effects of a verify pass's end on the words (R544, R546, R547): `bad` lists places of the record
with their bits as read; only words in the store are read. -/
def verifyWords (q : Nat) (bad : List (Nat × BitVec 36)) (s : State) : State :=
  let c := qGet q s
  let n := c.headExtent.getD 0
  let faults := passFaults q bad s
  let c := c.mapWords (deliver faults)
  let any := (c.words.take n).any fun w => w.tag == .poison
  let c := if any then c.mapWords fun i w => if i = 3 && 3 < n then { w with data := w.data ||| poisonFlag } else w else c
  let s := qSet q { c with verified := true, verifying := false } s
  faults.foldl (fun a _ => countPoison q a) s

/-- ALLOCATION_END (R542): the block moves from MOTION to HELD; a block of a Clearing begins its release. -/
def allocationEnd (q : Nat) (s : State) : State :=
  match dropLane q true s.store.lanes with
  | none => s
  | some (l, rest) =>
    let st := { s.store with lanes := rest, held := s.store.held + 1 }
    let st := if l.clearing then { st with releases := st.releases ++ [⟨q, false, true⟩] } else st
    serveLanes { s with store := st }

/-- RELEASE_END (R542): the block moves from MOTION to FREE. -/
def releaseEnd (q : Nat) (s : State) : State :=
  match dropLane q false s.store.lanes with
  | none => s
  | some (l, rest) =>
    let s := { s with store := { s.store with lanes := rest, free := s.store.free + 1 } }
    let s := if l.clearing then qMap q (fun c => { c with detached := c.detached - 1 }) s else s
    serveLanes s

/-- GAP_WORD_WRITE (R554). -/
def gapWordWrite (q : Nat) (s : State) : State := if queueOk s q then gapWrite q s else s

/-- CLEAR (R567): a write of CLEAR = 1 requests Clearing; while CLEAR reads 1 it has no effect but in the cycle in which the
hardware clears the bit, where the value written stands (Table 0-3). -/
def requestClear (q : Nat) (s : State) : State :=
  if get QU.CLEAR q s = 1 then putSw QU.CLEAR q 1 s
  else qMap q (fun c => { c with clearWanted := true }) (put QU.CLEAR q 1 s)

/-- BLK_FREE_READ (R574): the three terms are captured in one CORE cycle. -/
def blkFreeRead (s : State) : State :=
  put RG.BLK_FREE 0 s.store.free (put RG.BLK_HELD 0 s.store.held (put RG.BLK_MOTION 0 s.store.lanes.length s))

/-- CR_GUAR_USED_READ (R576): the credit terms of the queue that CR_SEL selects are captured together. -/
def crRead (s : State) : State :=
  let q := get RG.CR_SEL 0 s
  put RG.CR_GUAR_USED 0 (guarUsed q s) (put RG.CR_BORROWED 0 (borrowed q s) (put RG.CR_SHARED_USED 0 (sharedUsed s) s))

end Sys2Proof.Machine
end

