-- ==== Sys2Proof/Machine/Time.lean ====
section
/-! DEFINITION. The event logger (16.3), Ring time quality, and the passing of time with what it brings
about by itself: seconds carries, their wrap, and the pulses of TM_OUT (2.4, 2.8). -/

namespace Sys2Proof.Machine

/-! ### Event log -/

/-- The sequence number after `n`: 0xFFFF_FFFE is followed by 0 (R911). -/
def nextSeq (n : Nat) : Nat := if n ≥ 4294967294 then 0 else n + 1

/-- The event logger runs: the control firmware has started and no recovery loader is in its place. An event outside that
time has no entry, then or later, but for the quality change of a warm reset (R109). DESIGN CHOICE (assumption 113). -/
def logging (s : State) : Bool :=
  match s.sys.phase with
  | .guardWait | .ready | .paused => true
  | _ => false

/-- A position's words (Table 16-4). -/
def logPosition (t : Stamp) (code sub idx : Nat) (d : List Nat) (seq : Nat) : LogPos :=
  [word t.sec, word t.word2, word (code * 2 ^ 24 + sub * 2 ^ 16 + idx)] ++
  ((d ++ [0, 0, 0, 0]).take 4).map word ++ [word seq]

/-- FLASH_NEXT: the oldest sequence number neither committed nor lost (Table 16-6). -/
def flashNext (s : State) : Nat :=
  match s.logs.flashWait with
  | (n, _) :: _ => n
  | [] => get EL.NEXT_SEQ 0 s

/-- Keep FLASH_NEXT. -/
def keepFlashNext (s : State) : State := put EL.FLASH_NEXT 0 (flashNext s) s

/-- Sequence number held in event log position `n`, if the position is written. -/
def seqAt (n : Nat) (s : State) : Option Nat := (find n s.logs.ev).map fun p => (p.getD 7 0#32).toNat

/-- One entry waiting for flash is overwritten in RAM before its page program began (R919). -/
def loseOld (pos : Nat) (s : State) : State :=
  match seqAt pos s with
  | some n =>
    let inPage := (s.logs.page.getD []).any fun p => (p.getD 7 0#32).toNat == n
    if !inPage && s.logs.flashWait.any (fun e => e.1 == n) then
      bump RG.EVENT_LOST_CNT 0 { s with logs := { s.logs with flashWait := s.logs.flashWait.filter (fun e => e.1 != n) } }
    else s
  | none => s

/-- The place of an entry among those of its CORE cycle: CODE, then INDEX (R911). DEDUCED (assumption 134). -/
def entryRank (code idx : Nat) : Nat := code * 2 ^ 16 + idx

/-- The rank of a written position. -/
def posRank (p : LogPos) : Nat := let w := (p.getD 2 0#32).toNat; entryRank (w / 2 ^ 24) (w % 2 ^ 16)

/-- The entries of this CORE cycle that stand behind one of rank `r`, newest first, with their sequence numbers (R911). Nothing
goes before the two positions of a mirror. DEDUCED (assumption 134). -/
def laterPeers (r : Nat) (s : State) : List (Nat × LogPos) :=
  ((s.logs.flashWait.reverse.takeWhile fun e => e.2 == s.now).filterMap fun e =>
    (find (e.1 % 1024) s.logs.ev).map fun p => (e.1, p)).takeWhile fun x =>
      decide (r < posRank x.2) && decide (posRank x.2 / 2 ^ 16 ≠ 9)

/-- Write the next position of the event log; the later ones of the same CORE cycle move up by one (R911, R912).
DEDUCED (assumption 134). -/
def logPos (code sub idx : Nat) (d : List Nat) (s : State) : State :=
  let n := get EL.NEXT_SEQ 0 s
  let s := loseOld (n % 1024) s
  let peers := laterPeers (entryRank code idx) s
  let m := (peers.getLast?.map Prod.fst).getD n
  let ev := peers.foldl (fun ev (q, p) => insert (nextSeq q % 1024) (p.take 7 ++ [word (nextSeq q)]) ev) s.logs.ev
  let s := { s with logs := { s.logs with
      ev := insert (m % 1024) (logPosition (stampNow s) code sub idx d m) ev,
      flashWait := s.logs.flashWait ++ [(n, s.now)] } }
  keepFlashNext (put EL.NEXT_SEQ 0 (nextSeq n) s)

/-- The SINGLE notice of an entry goes into the event queue, now or when room appears (Table 9-4); the first notice after a reset
is that of the BOOT entry (R913). -/
def notice (n : Nat) (s : State) : State :=
  match s.sys.phase with
  | .ready | .paused => offer 225 .events [⟨.single, word n⟩] s
  | _ => s

/-- One event log entry with its notice (R911, R913); none while no control firmware runs, a seconds wrap included.
DESIGN CHOICE (assumption 113). -/
def logEvent (code sub idx : Nat) (d : List Nat) (s : State) : State :=
  if logging s then notice (get EL.NEXT_SEQ 0 s) (logPos code sub idx d s) else s

/-- A Canopy mirror: two consecutive positions and one notice, of the first (R477, R911, R913). Where entries of the same CORE
cycle move up by it, they have had their notices, and the last of them stands at the number still to be told.
DEDUCED (assumption 134). -/
def logMirror (rule : Nat) (hdr : List Nat) (len : Nat) (data : List Nat) (s : State) : State :=
  if logging s then
    let n := get EL.NEXT_SEQ 0 s
    notice (if (laterPeers (entryRank 8 rule) s).isEmpty then n else nextSeq n) (logPos 9 0 len data (logPos 8 0 rule hdr s))
  else s

/-- How far back, in CORE cycles, an edge may lie that a command still has to stamp: 16 ms hold every character of a line or
card port but for the half bit that R149 waits (4.6 ms at 110 baud) and a card character (R357). DEDUCED (assumption 15). -/
def edgeReach : Nat := 4000000

/-- The stretches that reach into the CORE cycles from `c` on, of a list that has the newest first. -/
def keepSegs (c : Nat) : List Seg → List Seg
  | [] => []
  | g :: r => if g.start < c then [g] else g :: keepSegs c r

/-- An even stretch of Ring time begins now: after a set, a step, a change of rate or of quality. -/
def reseg (s : State) : State :=
  let g : Seg := ⟨s.now, s.ring.sec, s.ring.acc, ringPerCycle s, get RG.QUALITY 0 s⟩
  { s with clk := { s.clk with segs := keepSegs (s.now - edgeReach) (g :: s.clk.segs) } }

/-! ### Quality -/

/-- Ring time as one number of 2^-32 ns. -/
def ringUnits (s : State) : Nat := s.ring.sec * ringSecond + s.ring.acc

/-- The CORE cycle in which Ring time reaches `ms` milliseconds: the present one when it has reached them already, by less
than half of the 2^32 seconds after which it repeats. -/
def cycleOfMs (ms : Nat) (s : State) : Nat :=
  let d : Int := (((ms * 1000000 * 2 ^ 32 : Nat) : Int) - (ringUnits s : Nat)) % ((2 ^ 32 * ringSecond : Nat) : Int)
  if d < ((2 ^ 31 * ringSecond : Nat) : Int) then s.now + ceilDiv d.toNat (ringPerCycle s) else s.now

/-- The CORE cycle of a group's next boundary (R123 to R126). -/
def boundaryCycle (r : GroupRun) (s : State) : Nat :=
  match r.target with
  | some t => cycleOfMs t s
  | none => r.nextB

/-- A period in CORE cycles. -/
def periodC (g : Nat) (s : State) : Nat := cyclesMs (get GP.PERIOD_MS g s)

/-- Ring time is about to be set or stepped: the current period of each aligned group ends at its scheduled
CORE cycle, and R126 applies to the next. -/
def holdGroups (s : State) : State :=
  { s with groups := s.groups.map fun (g, r) =>
      (g, { r with nextB := boundaryCycle r s, target := none, realign := r.realign || r.target.isSome }) }

/-- The quality becomes 10: a running group aligns after its current period (R123, R127). -/
def groupsAlign (s : State) : State :=
  { s with groups := s.groups.map fun (g, r) => (g, { r with realign := true }) }

/-- The quality leaves 10: each aligned group keeps its spacing in CORE cycles from its last boundary (R125);
before its first boundary it keeps its scheduled one. A boundary that would lie behind falls a whole number of periods
later. DESIGN CHOICE (assumption 114). -/
def groupsUnalign (s : State) : State :=
  { s with groups := s.groups.map fun (g, r) =>
      if r.target.isSome then
        let p := periodC g s
        let n := if flag GP.RUNNING g s then r.lastB + p else boundaryCycle r s
        (g, { r with nextB := if n < s.now then n + ceilDiv (s.now - n) p * p else n, target := none, realign := false })
      else (g, { r with realign := false }) }

/-- Ring time's quality becomes `q`: a change writes an RT_STATE entry and sets CLOCK (R89, Table 12-7), and
the scan groups follow (R123, R125). -/
def setQuality (q : Nat) (s : State) : State :=
  let o := get RG.QUALITY 0 s
  if o = q then s
  else
    let s := reseg (put RG.QUALITY 0 q s)
    let s := if q = 2 then groupsAlign s else if o = 2 then groupsUnalign s else s
    irq RG.IRQ_CLOCK (logEvent 4 0 q [o] s)

/-! ### TM_OUT -/

/-- The active level of TM_OUT: high with POL 0, low with POL 1 (R119). -/
def tmActive (s : State) : Bool := get RG.TM_OUT_POL 0 s == 0

/-- The LINE cycle after the one that holds CORE cycle `c`. -/
def nextLine (c : Nat) : Nat := (c / 5 + 1) * 5

/-- The pulse in progress ends when its width has passed: the inactive level of POL as it stands then, and W9 is to be
released in the next LINE cycle when EN was cleared during the pulse (R120). DESIGN CHOICE (assumption 115). -/
def pulseDone (s : State) : State :=
  match s.clk.pulseEnd with
  | some e =>
    if e ≤ s.now then
      { s with clk := { s.clk with pulseEnd := none, tmOutHigh := !tmActive s,
                                   w9Free := if get RG.TM_OUT_EN 0 s = 0 && s.clk.w9 = .tmOut then some (nextLine e) else none } }
    else s
  | none => s

/-- W9 is released in the LINE cycle after the pulse's end (R59, R120). -/
def w9Release (s : State) : State :=
  match s.clk.w9Free with
  | some r =>
    if r ≤ s.now then { s with clk := { s.clk with w9Free := none, w9 := if s.clk.w9 = .tmOut then .none else s.clk.w9 } }
    else s
  | none => s

/-- What TM_OUT does by itself at the present CORE cycle: a pulse ends, or W9 is released. -/
def pulseCheck (s : State) : State := w9Release (pulseDone s)

/-- At a second boundary a TM_OUT pulse starts, unless TM_OUT is off, gated, or still in a pulse (R119 to R121). -/
def pulseStart (s : State) : State :=
  if get RG.TM_OUT_EN 0 s = 1 && s.clk.w9 = .tmOut && s.clk.pulseEnd.isNone &&
      (get RG.TM_OUT_QGATE 0 s = 0 || get RG.QUALITY 0 s = 2) then
    { s with clk := { s.clk with pulseEnd := some (s.now + cyclesMs (get RG.WIDTH_MS 0 s)), tmOutHigh := tmActive s } }
  else s

/-! ### Time -/

/-- The seconds carry (R88): nanoseconds lose 1,000,000,000 and seconds gain 1; past 0xFFFF_FFFF they
wrap to 0 with an RT_STATE entry of SUB 1 (R89); TM_OUT may start a pulse (R119). A SET in this CORE cycle, whose seconds
stand (R130), takes back neither the entry nor the pulse. DESIGN CHOICE (assumption 116). -/
def carry (s : State) : State :=
  let sec := s.ring.sec + 1
  let s := { s with ring := { sec := sec % 2 ^ 32, acc := s.ring.acc - ringSecond } }
  let s := if sec = 2 ^ 32 then logEvent 4 1 (get RG.QUALITY 0 s) [get RG.QUALITY 0 s] s else s
  pulseStart s

/-- Pass time to `target` with at most `n` seconds carries on the way. DEDUCED (assumption 110). -/
def passTo (target : Nat) : Nat → State → State
  | 0, s => pulseCheck (advance target s)
  | n + 1, s =>
    if s.clk.locked && decide (s.now + cyclesToCarry s ≤ target) then
      passTo target n (carry (pulseCheck (advance (s.now + cyclesToCarry s) s)))
    else pulseCheck (advance target s)

/-- Pass time to CORE cycle `target`; a target that lies behind changes nothing. -/
def elapseTo (target : Nat) (s : State) : State :=
  if target ≤ s.now then s
  else passTo target ((s.ring.acc + (target - s.now) * ringPerCycle s) / ringSecond + 1) s

/-- `dt` CORE cycles pass before a command acts. DESIGN CHOICE (assumptions 3, 108, 112). -/
def elapse (dt : Nat) (s : State) : State := elapseTo (s.now + dt) s

/-- A timed event runs the clock on to the CORE cycle in which it is due, if that is still ahead. -/
def runTo (due : Nat) (s : State) : State := elapseTo due s

/-! ### Stamps -/

/-- A CORE cycle rounded up to the start of a LINE cycle (R707). DEDUCED (assumption 105). -/
def lineEdge (c : Nat) : Nat := ceilDiv c 5 * 5

/-- Ring time in CORE cycle `c` of a stretch. -/
def Seg.at_ (g : Seg) (c : Nat) : Stamp :=
  let a := g.acc + (c - g.start) * g.per
  ⟨(g.sec + a / ringSecond) % 2 ^ 32, a % ringSecond / 2 ^ 32, g.q⟩

/-- Ring time in a CORE cycle that is not ahead. A step that falls in that very cycle does not yet count
(R131), and the quality is the one current there (R116). DEDUCED (assumption 15). -/
def stampAt (c : Nat) (s : State) : Stamp :=
  match s.clk.segs.find? (fun g => decide (g.start < c)) with
  | some g => g.at_ c
  | none => match s.clk.segs.getLast? with
    | some g => g.at_ c
    | none => stampNow s

/-- RT_CHANGE: Ring time before and after a set, a step or a lock-loop step (R100, R104, Table 16-5). -/
def logRtChange (sub : Nat) (before : Stamp) (s : State) : State :=
  logEvent 3 sub 0 [before.sec, before.word2, (stampNow s).sec, (stampNow s).word2] s

end Sys2Proof.Machine
end

