-- ==== Sys2Proof/Machine/Leave.lean ====
section
/-! DEFINITION. The power leave governor (chapter 13): requests, grants, wait limits, releases and budget
changes of the DIE and FIELD pools. What a requester does after a grant or a timeout stands with it. -/

namespace Sys2Proof.Machine

/-- The row of Table 13-1, counted from 0. -/
def LeaveKind.row : LeaveKind → Nat
  | .brk _ => 0 | .burst _ => 1 | .switchOn _ => 2 | .slice _ => 3
  | .flashProgram => 4 | .flashErase => 5 | .gfActivate _ => 6

/-- The class of a leave kind (Table 13-1). -/
def LeaveKind.cls : LeaveKind → Nat
  | .brk _ => 0 | .burst _ => 1 | .switchOn _ => 2 | .slice _ => 3
  | .flashProgram => 4 | .flashErase => 5 | .gfActivate _ => 5

/-- The pool of a leave kind (Table 13-1). -/
def LeaveKind.pool : LeaveKind → Pool
  | .brk _ | .switchOn _ | .slice _ => .field
  | _ => .die

/-- INDEX of a LEAVE_TIMEOUT entry (Table 16-5). -/
def LeaveKind.index : LeaveKind → Nat
  | .brk p | .switchOn p | .slice p => p
  | .burst u => 0x100 + u
  | .gfActivate k => 0x200 + k
  | .flashProgram | .flashErase => 0x300

/-- Two requests in the order of the leave queue: class, CORE cycle, line port, uplink (R764). -/
def LeaveReq.before (a b : LeaveReq) : Bool :=
  if a.kind.cls ≠ b.kind.cls then decide (a.kind.cls < b.kind.cls)
  else if a.at_ ≠ b.at_ then decide (a.at_ < b.at_)
  else decide (a.kind.index < b.kind.index)

/-- Insert a request at its place (R764). -/
def enqueue (r : LeaveReq) : List LeaveReq → List LeaveReq
  | [] => [r]
  | x :: l => if r.before x then r :: x :: l else x :: enqueue r l

/-- The waiting requests of a pool. -/
def waiting (p : Pool) (s : State) : List LeaveReq :=
  match p with | .die => s.leave.die | .field => s.leave.field

/-- The grants of a pool. -/
def grants (p : Pool) (s : State) : List Grant :=
  match p with | .die => s.leave.dieGr | .field => s.leave.fieldGr

/-- Replace the waiting requests of a pool. -/
def setWaiting (p : Pool) (l : List LeaveReq) (s : State) : State :=
  match p with
  | .die => { s with leave := { s.leave with die := l } }
  | .field => { s with leave := { s.leave with field := l } }

/-- Replace the grants of a pool. -/
def setGrants (p : Pool) (l : List Grant) (s : State) : State :=
  match p with
  | .die => { s with leave := { s.leave with dieGr := l } }
  | .field => { s with leave := { s.leave with fieldGr := l } }

/-- Units granted from a pool. -/
def granted (p : Pool) (s : State) : Nat := ((grants p s).map Grant.units).sum

/-- The budget field, the CHANGE bit, and the other registers of a pool (Table 12-9). -/
def budgetF : Pool → Fld
  | .die => RG.DIE_BUDGET | .field => RG.FIELD_BUDGET
/-- CHANGE of a pool. -/
def changeF : Pool → Fld
  | .die => RG.DIE_CHANGE | .field => RG.FIELD_CHANGE
/-- Timeout bit of a pool. -/
def timeoutF : Pool → Fld
  | .die => RG.DIE_TIMEOUT | .field => RG.FIELD_TIMEOUT
/-- WAIT bit of a pool. -/
def waitF : Pool → Fld
  | .die => RG.DIE_WAIT | .field => RG.FIELD_WAIT
/-- Timeout counter of a pool. -/
def timeoutCntF : Pool → Fld
  | .die => RG.DIE_TO_CNT | .field => RG.FIELD_TO_CNT
/-- Grant counter of a pool. -/
def grantCntF : Pool → Fld
  | .die => RG.DIE_GRANT_CNT | .field => RG.FIELD_GRANT_CNT
/-- High-water mark of a pool. -/
def hwmF : Pool → Fld
  | .die => RG.DIE_HWM | .field => RG.FIELD_HWM

/-- Free units: none while the CHANGE bit is 1 (R734, R739). -/
def freeUnits (p : Pool) (s : State) : Nat :=
  if get (changeF p) 0 s = 1 then 0 else get (budgetF p) 0 s - granted p s

/-- A pending budget change takes effect once the granted units are down to the written budget (R734). -/
def checkBudget (p : Pool) (s : State) : State :=
  if get (changeF p) 0 s = 1 && decide (granted p s ≤ get (budgetF p) 0 s) then put (changeF p) 0 0 s else s

/-- A budget has been written: it stands at once when it covers the grants, otherwise CHANGE reads 1 (R734, R776). -/
def budgetWritten (p : Pool) (s : State) : State :=
  put (changeF p) 0 (if granted p s ≤ get (budgetF p) 0 s then 0 else 1) s

/-- A request enters its pool's leave queue (R764); `limitMs` is the wait limit in force (R769). -/
def requestLeave (k : LeaveKind) (units limit : Nat) (urgent : Bool) (s : State) : State :=
  setWaiting k.pool (enqueue ⟨k, units, s.now, s.now + limit, urgent, false⟩ (waiting k.pool s)) s

/-- A requester withdraws its request before the grant (R773). -/
def withdrawLeave (k : LeaveKind) (s : State) : State :=
  setWaiting k.pool ((waiting k.pool s).filter (fun r => r.kind != k)) s

/-- A request for the kind waits. -/
def isWaiting (k : LeaveKind) (s : State) : Bool := (waiting k.pool s).any (fun r => r.kind == k)

/-- The kind holds a grant. -/
def isGranted (k : LeaveKind) (s : State) : Bool := (grants k.pool s).any (fun g => g.kind == k)

/-- The kind holds a grant of an earlier CORE cycle, so its operation may start (R766). -/
def mayStart (k : LeaveKind) (s : State) : Bool := (grants k.pool s).any (fun g => g.kind == k && decide (g.at_ < s.now))

/-- A holder releases its units in the CORE cycle in which its operation ends (R774). -/
def releaseLeave (k : LeaveKind) (s : State) : State :=
  checkBudget k.pool (setGrants k.pool ((grants k.pool s).filter (fun g => g.kind != k)) s)

/-- A grant is cut to `units` (R225, R774). -/
def cutGrant (k : LeaveKind) (units : Nat) (s : State) : State :=
  checkBudget k.pool (setGrants k.pool ((grants k.pool s).map fun g =>
    if g.kind = k then { g with units := min g.units units } else g) s)

/-- Raise a pool's high-water mark (Table 12-9, R757): clash code S. -/
def markUnits (p : Pool) (s : State) : State :=
  if get (hwmF p) 0 s < granted p s then putHw (hwmF p) 0 (granted p s) s else s

/-- A booking after a reset: units held beyond any request, even past the budget (R778). -/
def book (k : LeaveKind) (units : Nat) (s : State) : State :=
  let s := markUnits k.pool (setGrants k.pool (grants k.pool s ++ [⟨k, units, s.now⟩]) s)
  if get (budgetF k.pool) 0 s < granted k.pool s then put (changeF k.pool) 0 1 s else s

/-- A request is eligible under the thermal rules (R789, R791). -/
def eligible (r : LeaveReq) (s : State) : Bool :=
  match r.kind with
  | .flashProgram | .flashErase | .gfActivate _ => !s.leave.warm
  | .burst _ => !s.leave.hot || r.urgent
  | .switchOn p | .slice p => !s.leave.hotGuards.contains (p / 8)
  | .brk _ => true

/-- A request is one of an earlier CORE cycle: the governor sees it in the cycle after the request (R766, R767). -/
def LeaveReq.seen (r : LeaveReq) (s : State) : Bool := decide (r.at_ < s.now)

/-- One walk over a leave queue: the requests granted, in order, and the rest (R765, R766). `stop` is true once
an eligible request did not fit. -/
def walk (s : State) : Nat → Bool → List LeaveReq → List LeaveReq × List LeaveReq
  | _, _, [] => ([], [])
  | free, stop, r :: l =>
    if !eligible r s || !r.seen s || stop then let (g, w) := walk s free stop l; (g, r :: w)
    else if r.units ≤ free then let (g, w) := walk s (free - r.units) stop l; (r :: g, w)
    else let (g, w) := walk s free true l; (g, r :: w)

/-- Requests larger than the budget as written that no governor cycle has seen yet: they never stand in the queue
(R767). DEDUCED (assumption 97). -/
def oversize (p : Pool) (s : State) : List LeaveReq :=
  (waiting p s).filter fun r => r.seen s && !r.waited && decide (get (budgetF p) 0 s < r.units)

/-- The grants of one governor cycle for one pool (R765, R768, R770): GRANT_CNT, the high-water mark, and
the WAIT bit for a request that could not be granted at once. -/
def grantCycle (p : Pool) (s : State) : State :=
  let s := checkBudget p s
  if get (changeF p) 0 s = 1 then markWaits s
  else
    let (g, w) := walk s (freeUnits p s) false (waiting p s)
    let s := setGrants p (grants p s ++ g.map fun r => ⟨r.kind, r.units, s.now⟩) (setWaiting p w s)
    let s := if g.isEmpty then s else markUnits p (bumpBy (grantCntF p) 0 g.length s)
    markWaits s
where
  markWaits (s : State) : State :=
    let fresh := (waiting p s).any fun r => r.seen s && !r.waited
    let s := setWaiting p ((waiting p s).map fun r => { r with waited := r.waited || r.seen s }) s
    if fresh then raise RG.IRQ_LEAVE (waitF p) 0 s else s

/-- A request is removed as timed out: counted, flagged and logged; a leakage slice counts only in its
line's SKIPPED (R767, R769). -/
def timeoutReq (r : LeaveReq) (s : State) : State :=
  let p := r.kind.pool
  let s := setWaiting p ((waiting p s).filter (fun x => x.kind != r.kind)) s
  match r.kind with
  | .slice _ => s
  | _ =>
    let sub := match p with | .die => 0 | .field => 1
    logEvent 0x0B sub r.kind.index [r.kind.row, r.units] (raise RG.IRQ_LEAVE (timeoutF p) 0 (bump (timeoutCntF p) 0 s))

/-- A request has a wait limit: every kind but a leakage slice, which waits until its gap starts (R769). -/
def LeaveReq.limited (r : LeaveReq) : Bool := match r.kind with | .slice _ => false | _ => true

/-- Requests whose wait limit has expired without a grant (R769); grants are judged first (R795). -/
def expired (p : Pool) (s : State) : List LeaveReq :=
  (waiting p s).filter fun r => r.limited && decide (r.limit ≤ s.now)

/-- LV_LEDGER_READ (R738): every field of the ledger is captured in one CORE cycle. -/
def ledgerRead (s : State) : State :=
  let s := put RG.LV_DIE_FREE 0 (freeUnits .die s) s
  let s := put RG.LV_DIE_GRANTED 0 (granted .die s) s
  let s := put RG.LV_DIE_BUD 0 (get RG.DIE_BUDGET 0 s) s
  let s := put RG.LV_FIELD_FREE 0 (freeUnits .field s) s
  let s := put RG.LV_FIELD_GRANTED 0 (granted .field s) s
  let s := put RG.LV_FIELD_BUD 0 (get RG.FIELD_BUDGET 0 s) s
  let s := put RG.LV_DIE_CHG 0 (get RG.DIE_CHANGE 0 s) s
  put RG.LV_FIELD_CHG 0 (get RG.FIELD_CHANGE 0 s) s

/-! ### Die temperature -/

/-- DIE_TEMP_UPDATE (R787, R788): warm and hot states are entered at WARN_C and HOT_C and left below each
less 5 °C; each entry sets its bit and is logged, each exit is logged. DEDUCED (assumption 148). -/
def dieTemp (t : Int) (s : State) : State :=
  let s := put RG.DIE_TEMP 0 (fieldOf 10 t) s
  let w : Int := (get RG.WARN_C 0 s : Nat)
  let h : Int := (get RG.HOT_C 0 s : Nat)
  let d := fieldOf 32 t
  let s := if !s.leave.warm && decide (w ≤ t) then
      logEvent 0x0C 0 0xFFFF [d] (raise RG.IRQ_THERMAL RG.THERM_WARN 0 { s with leave := { s.leave with warm := true } }) else s
  let s := if !s.leave.hot && decide (h ≤ t) then
      logEvent 0x0C 1 0xFFFF [d] (raise RG.IRQ_THERMAL RG.THERM_HOT 0 { s with leave := { s.leave with hot := true } }) else s
  let s := if s.leave.warm && decide (t < w - 5) then
      logEvent 0x0C 2 0xFFFF [d] { s with leave := { s.leave with warm := false } } else s
  if s.leave.hot && decide (t < h - 5) then
      logEvent 0x0C 3 0xFFFF [d] { s with leave := { s.leave with hot := false } } else s

end Sys2Proof.Machine
end

