-- ==== Sys2Proof/Machine/Clock.lean ====
section
/-! DEFINITION. Ring time set, step, lock and holdover, TM_IN and TM_OUT (chapter 2): the effects that the
rows of this family and the register writes share. -/

namespace Sys2Proof.Machine

/-- Ring time moved by `d` ns, the fraction kept, with borrow from and carry into seconds, which wrap (R95, R104). -/
def Ring.plus (d : Int) (r : Ring) : Ring :=
  let total : Int := (r.sec * ringSecond + r.acc : Nat)
  let m : Nat := ((total + d * (2 ^ 32 : Nat)) % ((2 ^ 32 * ringSecond : Nat) : Int)).toNat
  { sec := m / ringSecond, acc := m % ringSecond }

/-- Ring time moves by `d` ns, and a new stretch of it begins. -/
def addRing (d : Int) (s : State) : State := reseg { s with ring := s.ring.plus d }

/-- SET (R94, R96): seconds and nanoseconds with LOCK_EN 0, seconds alone with LOCK_EN 1. `locked` is
LOCK_EN as it stood before the write (R97). -/
def rtSet (locked : Bool) (s : State) : State :=
  let before := stampNow s
  let s := holdGroups s
  let s := if locked then { s with ring := { s.ring with sec := get RG.RT_SET_SEC 0 s } }
    else { s with ring := { sec := get RG.RT_SET_SEC 0 s, acc := get RG.RT_SET_NS 0 s * 2 ^ 32 } }
  setAfter locked before s
where
  /-- The RT_CHANGE entry shows the new quality; the quality change follows it (R911). -/
  setAfter (locked : Bool) (before : Stamp) (s : State) : State :=
    let old := get RG.QUALITY 0 s
    let s := reseg (if locked then s else put RG.QUALITY 0 1 s)
    let s := logRtChange 0 before s
    if old = get RG.QUALITY 0 s then s else irq RG.IRQ_CLOCK (logEvent 4 0 1 [old] s)

/-- STEP (R95): RT_STEP is added to Ring time, and the quality becomes 01. -/
def rtStep (s : State) : State :=
  let before := stampNow s
  let old := get RG.QUALITY 0 s
  let s := reseg <| put RG.QUALITY 0 1 (addRing (signedOf 32 (get RG.RT_STEP 0 s)) (holdGroups s))
  let s := logRtChange 1 before s
  if old = 1 then s else irq RG.IRQ_CLOCK (logEvent 4 0 1 [old] s)

/-- The lock loop drops its reference: REF_VALID, STREAK and the state go back (R106). -/
def dropReference (s : State) : State :=
  put RG.REF_VALID 0 0 (put RG.STREAK 0 0 (put RG.LOCK_STATE 0 0 { s with clk := { s.clk with lastMark := none } }))

/-- LOCK_EN goes from 0 to 1: the loop starts, with f at 0 when host software did it (R105). -/
def lockStart (host : Bool) (s : State) : State :=
  dropReference (if host then { s with clk := { s.clk with f := 0 } } else s)

/-- LOCK_EN is cleared: the loop stops and discards its reference, and quality 10 becomes 11 (R107). -/
def lockStop (s : State) : State :=
  let s := dropReference s
  if get RG.QUALITY 0 s = 2 then setQuality 3 s else s

/-- −x × 17.179869 truncated towards zero and clamped to ±3,435,973 (R104, R105). -/
def rateOf (x : Int) : Int := max (-3435973) (min 3435973 ((-x * 17179869).tdiv 1000000))

/-- slew(e) (R104). -/
def slew (e : Int) (s : State) : State :=
  let f := s.clk.f + e.tdiv 8
  let s := { s with clk := { s.clk with f := f } }
  reseg (putHw RG.RT_RATE 0 (fieldOf 32 (rateOf (f + e.tdiv 2))) s)

/-- "step by −e" (R104): Ring time moves and an RT_CHANGE entry of SUB 2 is written. -/
def loopStep (e : Int) (s : State) : State :=
  let before := stampNow s
  irq RG.IRQ_CLOCK (logRtChange 2 before (addRing (-e) (holdGroups s)))

/-- The mark time of an accepted TM_IN edge whose capture LINE cycle is the present one (R101). -/
def markTime (s : State) : Stamp := (stampNow s).sub (40 + get RG.DELAY_NS 0 s)

/-- The phase error of a mark (R102). -/
def phaseError (t : Stamp) : Int := if t.ns < 500000000 then (t.ns : Int) else (t.ns : Int) - 1000000000

/-- An edge is consistent: 1 s ± 100 µs after the last accepted mark, in CORE cycles (R103). -/
def consistent (last now : Nat) : Bool :=
  decide (last + cyclesS 1 ≤ now + cyclesUs 100) && decide (now ≤ last + cyclesS 1 + cyclesUs 100)

/-- Record an accepted mark: the reference, TM_LAST_ERR and the accepted count (R102, R104, Table 2-2). -/
def acceptMark (e : Int) (s : State) : State :=
  put RG.REF_VALID 0 1 (put RG.TM_LAST_ERR 0 (fieldOf 32 e)
    (put RG.TM_ACCEPTED 0 (get RG.TM_ACCEPTED 0 s + 1) { s with clk := { s.clk with lastMark := some s.now } }))

/-- One mark through the lock loop (R104). -/
def lockMark (s : State) : State :=
  let e := phaseError (markTime s)
  match s.clk.lastMark with
  | none =>
    let s := acceptMark e s
    let s := if 1000 < e.natAbs then loopStep e s else s
    put RG.STREAK 0 1 s
  | some last =>
    if !consistent last s.now then put RG.TM_REJECTED 0 (get RG.TM_REJECTED 0 s + 1) s
    else
      let s := acceptMark e s
      if get RG.LOCK_STATE 0 s = 0 then
        let s := if 1000 < e.natAbs then put RG.STREAK 0 1 (loopStep e s)
          else put RG.STREAK 0 (get RG.STREAK 0 s + 1) (slew e s)
        if get RG.STREAK 0 s = 4 then setQuality 2 (put RG.LOCK_STATE 0 1 s) else s
      else if 10000 < e.natAbs then
        setQuality 3 (put RG.STREAK 0 1 (put RG.LOCK_STATE 0 0 (loopStep e s)))
      else slew e s

/-- TM_IN accepts a level of 60 ns or more, ignores one of 40 ns or less, and between the two the outcome is
unspecified, so it is free (R85). -/
def levelAccepted (widthNs : Nat) (s : State) : Bool × State :=
  if 60 ≤ widthNs then (true, s) else if widthNs ≤ 40 then (false, s) else drawBit s

/-- TM_IN_MARK (R85, R101, R104): TM_IN changes, rising or falling, to a level that lasts `widthNs`; the capture LINE cycle
is the present one. A level that is accepted and is not the one accepted before is an edge: the return from a level
that was ignored is none. An edge of the other polarity, or with LOCK_EN 0, marks nothing. DESIGN CHOICE
(assumption 16). -/
def tmInMark (falling : Bool) (widthNs : Nat) (s : State) : State :=
  if !s.clk.locked || s.clk.tmLevel == !falling then s
  else
    let (ok, s) := levelAccepted widthNs s
    if !ok then s
    else
      let s := { s with clk := { s.clk with tmLevel := !falling } }
      if flag RG.LOCK_EN 0 s && (get RG.TM_EDGE 0 s == b2n falling) then lockMark s else s

/-- MARK_TIMEOUT (R106): 1.5 s after the last accepted mark the loop drops its reference; from TRACK the
quality becomes 11 and RT_RATE takes −f × 17.179869. -/
def markTimeout (s : State) : State :=
  match s.clk.lastMark with
  | none => s
  | some last =>
    let s := runTo (last + cyclesMs 1500) s
    let track := get RG.LOCK_STATE 0 s = 1
    let s := dropReference s
    if track then reseg (putHw RG.RT_RATE 0 (fieldOf 32 (rateOf s.clk.f)) (setQuality 3 s)) else s

/-- A read of RT_NOW_SEC captures the whole value: the low 32 bits stay for RT_NOW_NS (R91). -/
def rtCapture (s : State) : State :=
  put RG.RT_NOW_SEC 0 s.ring.sec (put RG.RT_NOW_NS 0 (stampNow s).word2 s)

/-- TM_OUT claims W9, or keeps it when EN returns before its release; outside a pulse in progress the ball is at its
inactive level (R118, R120). -/
def tmOutClaim (s : State) : State :=
  { s with clk := { s.clk with
      w9 := .tmOut, w9Free := none, tmOutHigh := if s.clk.pulseEnd.isNone then !tmActive s else s.clk.tmOutHigh } }

/-- EN of TM_OUT is cleared: W9 is released at once, or after the pulse in progress (R59, R120). -/
def tmOutDrop (s : State) : State :=
  if s.clk.pulseEnd.isNone && s.clk.w9 = .tmOut then { s with clk := { s.clk with w9 := .none } } else s

/-- What ETH_REFCLK shows. -/
inductive RefClk
  /-- Held low. -/
  | low
  /-- LINE, 50 MHz. -/
  | line50MHz
  deriving DecidableEq, Repr

/-- ETH_REFCLK (R80): LINE while the PLL is locked, low before lock. -/
def ethRefclk (s : State) : RefClk := if s.clk.locked then .line50MHz else .low

/-- SECONDS_CARRY (R88): the clock runs on to the CORE cycle in which nanoseconds reach 1,000,000,000. -/
def secondsCarry (s : State) : State := if s.clk.locked then runTo (s.now + cyclesToCarry s) s else s

/-- The clock runs on to the release of W9, where one is due. -/
def toW9Release (s : State) : State :=
  match s.clk.w9Free with
  | some r => w9Release (runTo r s)
  | none => s

/-- TM_OUT_PULSE_END (R120): the clock runs on to the end of the pulse, and on to the release of W9 in the next LINE cycle
when EN was cleared during it. -/
def tmOutPulseEnd (s : State) : State :=
  match s.clk.pulseEnd with
  | some e => toW9Release (pulseCheck (runTo e s))
  | none => toW9Release s

end Sys2Proof.Machine
end

