-- ==== Sys2Proof/Machine/Flags.lean ====
section
/-! DEFINITION. Every check value and status flag the spec computes: CRC-8, CRC-16, CRC-32, the NMEA
exclusive OR, the Mark sum, the SDI-12 CRC, and the flag bits of an Iteel record (Table 5-3). -/

namespace Sys2Proof.Machine

/-- One bit of an MSB-first CRC of width `w`. -/
def crcStep (w poly crc : Nat) : Nat :=
  if crc / 2 ^ (w - 1) % 2 = 1 then (crc * 2 % 2 ^ w) ^^^ poly else crc * 2 % 2 ^ w

/-- One bit of a reflected CRC. -/
def crcStepR (poly crc : Nat) : Nat := if crc % 2 = 1 then (crc / 2) ^^^ poly else crc / 2

/-- Apply a function eight times. -/
def eight (f : Nat → Nat) (c : Nat) : Nat := f (f (f (f (f (f (f (f c)))))))

/-- The MP and guard link CRC-8: polynomial 0x2F, initial value 0xFF (R661, R211). -/
def crc8 (bs : List Byte) : Nat := bs.foldl (fun c b => eight (crcStep 8 0x2F) (c ^^^ b.toNat)) 0xFF

/-- The Modbus CRC-16: polynomial 0xA001 reflected, initial value 0xFFFF (R303). -/
def crc16 (bs : List Byte) : Nat := bs.foldl (fun c b => eight (crcStepR 0xA001) (c ^^^ b.toNat)) 0xFFFF

/-- The SDI-12 CRC: the same polynomial from 0x0000 (R310). -/
def crcSdi (bs : List Byte) : Nat := bs.foldl (fun c b => eight (crcStepR 0xA001) (c ^^^ b.toNat)) 0

/-- CRC-32 reflected, polynomial 0xEDB88320, initial value and final inversion 0xFFFF_FFFF (R891). -/
def crc32 (bs : List Byte) : Nat :=
  (bs.foldl (fun c b => eight (crcStepR 0xEDB88320) (c ^^^ b.toNat)) 0xFFFFFFFF) ^^^ 0xFFFFFFFF

/-- The CRC-16 of Stump frames: polynomial 0x1021 from 0xFFFF, MSB first (R856). -/
def crcStump (bs : List Byte) : Nat :=
  bs.foldl (fun c b => eight (crcStep 16 0x1021) (c ^^^ (b.toNat * 256))) 0xFFFF

/-- Exclusive OR of a byte string (R295, R327). -/
def xorBytes (bs : List Byte) : Nat := bs.foldl (fun a b => a ^^^ b.toNat) 0

/-- Sum of a byte string modulo 256 (R319). -/
def sumBytes (bs : List Byte) : Nat := (bs.foldl (fun a b => a + b.toNat) 0) % 256

/-- The value of an uppercase hexadecimal digit. -/
def hexUpper (b : Byte) : Option Nat :=
  let n := b.toNat
  if 0x30 ≤ n ∧ n ≤ 0x39 then some (n - 0x30) else if 0x41 ≤ n ∧ n ≤ 0x46 then some (n - 0x37) else none

/-- The value of a hexadecimal digit of either case (R295). -/
def hexAny (b : Byte) : Option Nat :=
  let n := b.toNat
  if 0x61 ≤ n ∧ n ≤ 0x66 then some (n - 0x57) else hexUpper b

/-- The uppercase hexadecimal digit of a value below 16. -/
def hexDigit (n : Nat) : Byte := byte (if n < 10 then 0x30 + n else 0x37 + n)

/-- Two uppercase hexadecimal digits. -/
def hex2 (n : Nat) : List Byte := [hexDigit (n / 16 % 16), hexDigit (n % 16)]

/-! ### FLAGS (Table 5-3) -/

/-- CHECKSUM_OK. -/
def fOK : Nat := 2 ^ 0
/-- CHECKSUM_BAD. -/
def fBAD : Nat := 2 ^ 1
/-- FRAMING. -/
def fFRAMING : Nat := 2 ^ 2
/-- PARITY. -/
def fPARITY : Nat := 2 ^ 3
/-- OVERRUN. -/
def fOVERRUN : Nat := 2 ^ 4
/-- LEAN_APPLIED. -/
def fLEAN : Nat := 2 ^ 5
/-- LATE. -/
def fLATE : Nat := 2 ^ 6
/-- POISON. -/
def fPOISON : Nat := 2 ^ 7
/-- LONG. -/
def fLONG : Nat := 2 ^ 8
/-- TRIM_GAP. -/
def fTRIM : Nat := 2 ^ 9
/-- MARK. -/
def fMARK : Nat := 2 ^ 10
/-- GAP_BEFORE. -/
def fGAP : Nat := 2 ^ 11
/-- CLEARED. -/
def fCLEARED : Nat := 2 ^ 12
/-- BREAK. -/
def fBREAK : Nat := 2 ^ 13
/-- TRUNCATED. -/
def fTRUNC : Nat := 2 ^ 14
/-- UNTERMINATED. -/
def fUNTERM : Nat := 2 ^ 15

/-- Does a FLAGS value hold all bits of `m`? -/
def has (flags m : Nat) : Bool := (flags &&& m) == m && m != 0

/-! ### The grammars' checks -/

/-- The bytes after the last `d` of a byte string, and those before it. -/
def splitLast (d : Nat) (bs : List Byte) : Option (List Byte × List Byte) :=
  let r := bs.reverse
  let after := r.takeWhile (fun b => b.toNat != d)
  if after.length < r.length then some ((r.drop (after.length + 1)).reverse, after.reverse) else none

/-- NMEA payload without its final LF and a CR directly before it (R295). -/
def nmeaBody (bs : List Byte) : List Byte :=
  match bs.reverse with
  | l :: c :: r => if l.toNat = 0x0A then (if c.toNat = 0x0D then r.reverse else (c :: r).reverse) else bs
  | [l] => if l.toNat = 0x0A then [] else bs
  | [] => []

/-- The checksum flag of a grammar-1 record (R295, R296). -/
def nmeaFlag (required : Bool) (bs : List Byte) : Nat :=
  match splitLast 0x2A (nmeaBody bs) with
  | none => if required then fBAD else 0
  | some (before, after) =>
    match after with
    | [a, b] => match hexAny a, hexAny b with
      | some x, some y => if x * 16 + y = xorBytes (before.drop 1) then fOK else fBAD
      | _, _ => fBAD
    | _ => fBAD

/-- The checksum flag of a Modbus frame (R303). -/
def modbusFlag (bs : List Byte) : Nat := if 4 ≤ bs.length ∧ crc16 bs = 0 then fOK else fBAD

/-- A Mark payload without its CR (R319). -/
def markBody (bs : List Byte) : List Byte :=
  match bs.reverse with
  | c :: r => if c.toNat = 0x0D then r.reverse else bs
  | [] => []

/-- The checksum flag of a Mark sentence (R319). -/
def markFlag (bs : List Byte) : Nat :=
  match splitLast 0x26 (markBody bs) with
  | some (before, [a, b]) => match hexUpper a, hexUpper b with
    | some x, some y => if x * 16 + y = sumBytes (before.drop 1) then fOK else fBAD
    | _, _ => fBAD
  | _ => fBAD

/-- The three CRC characters of an SDI-12 response (R310). -/
def sdiCrcChars (n : Nat) : List Byte :=
  [byte (0x40 ||| bits n 12 4), byte (0x40 ||| bits n 6 6), byte (0x40 ||| bits n 0 6)]

/-- The checksum flag of an SDI-12 response that announces a CRC (R310); `resp` runs from the address to
the LF. -/
def sdiFlag (resp : List Byte) : Nat :=
  let body := nmeaBody resp
  if body.length < 4 then fBAD
  else
    let vals := body.take (body.length - 3)
    if body.drop (body.length - 3) = sdiCrcChars (crcSdi vals) then fOK else fBAD

/-- The checksum flag of a record by its grammar (R291, R295, R303, R310, R319). `prefix_` is the length of
the SDI-12 command in the payload. -/
def checkFlag (g : Nat) (required sdi : Bool) (prefix_ : Nat) (bs : List Byte) : Nat :=
  match g with
  | 1 => nmeaFlag required bs
  | 2 => modbusFlag bs
  | 3 => if sdi then sdiFlag (bs.drop prefix_) else 0
  | 4 => markFlag bs
  | _ => 0

/-- LONG (R297, R304, R311). -/
def longFlag (g n : Nat) : Nat :=
  match g with
  | 1 => if 82 < n then fLONG else 0
  | 2 => if 256 < n then fLONG else 0
  | _ => 0

end Sys2Proof.Machine
end

