-- ==== Sys2Proof/Machine/Operands.lean ====
section
/-! DEFINITION. The forms in which the spec lays out values: Iteel header words (Tables 5-1, 5-2),
address keys and sentence types (Table 5-4), request templates (Table 7-4). -/

namespace Sys2Proof.Machine

/-- GRAMMAR of header word 0. -/
def hdrGrammar (w : Word) : Nat := bits w.toNat 28 4
/-- PORT of header word 0. -/
def hdrPort (w : Word) : Nat := bits w.toNat 22 6
/-- TALKER of header word 0. -/
def hdrTalker (w : Word) : Nat := bits w.toNat 10 12
/-- LENGTH of header word 0. -/
def hdrLength (w : Word) : Nat := bits w.toNat 0 10

/-- Header word 0 (Table 5-1). -/
def hdr0 (grammar port talker length : Nat) : Word :=
  word (grammar % 16 * 2 ^ 28 + port % 64 * 2 ^ 22 + talker % 4096 * 2 ^ 10 + length % 1024)

/-- Header word 3 (Table 5-2). -/
def hdr3 (rule cls flags : Nat) : Word := word (rule % 4096 * 2 ^ 20 + cls % 4 * 2 ^ 18 + flags % 65536)

/-- CLASS of header word 3. -/
def hdrClass (w : Word) : Nat := bits w.toNat 18 2
/-- FLAGS of header word 3. -/
def hdrFlags (w : Word) : Nat := bits w.toNat 0 16

/-- The stamp of a record (Table 5-2). -/
def hdrStamp (w1 w2 : Word) : Stamp := ⟨w1.toNat, bits w2.toNat 0 30, bits w2.toNat 30 2⟩

/-- The data of word `i` of a record; 0 beyond its end. -/
def recWord (ws : List QWord) (i : Nat) : Word := (ws.map QWord.data).getD i 0#32

/-- Payload bytes of a record (R177). -/
def recPayload (ws : List QWord) : List Byte :=
  ((ws.drop 4).flatMap fun w => wordBytes w.data).take (hdrLength (recWord ws 0))

/-- A whole record from its header fields and payload (R276, R525). -/
def buildRecord (g port talker : Nat) (t : Stamp) (flags : Nat) (payload : List Byte) : List QWord :=
  let ws := [hdr0 g port talker payload.length, word t.sec, word t.word2, hdr3 0 0 flags] ++ wordsOfBytes payload
  match ws with
  | [] => []
  | w :: r => ⟨.start, w⟩ :: ((r.dropLast.map fun x => (⟨.body, x⟩ : QWord)) ++
      (match r.getLast? with | some x => [⟨.end_, x⟩] | none => []))

/-- The bytes up to the first one that the predicate stops at. -/
def upTo (stop : Byte → Bool) (bs : List Byte) : List Byte := bs.takeWhile (fun b => !stop b)

/-- Is the byte one of the listed codes? -/
def isOneOf (l : List Nat) (b : Byte) : Bool := l.contains b.toNat

/-- The first field of a Mark sentence (R282). -/
def markField (bs : List Byte) : List Byte := upTo (isOneOf [0x2C, 0x26, 0x0D]) (bs.drop 1)

/-- `n` bytes, short ones padded with 0x00 at the end (R282). -/
def padTo (n : Nat) (bs : List Byte) : List Byte := (bs ++ List.replicate n 0#8).take n

/-- Length of the SDI-12 prefix: up to and with the '!' (R308). -/
def sdiPrefix (bs : List Byte) : Nat := (upTo (isOneOf [0x21]) bs).length + 1

/-- The address key of a record, if its grammar has one (Table 5-4). -/
def addrKey (g : Nat) (bs : List Byte) : Option Nat :=
  let k (l : List Byte) := some (beValue (padTo 4 l))
  match g with
  | 1 => if (bs.getD 1 0#8).toNat = 0x50 then k ((bs.drop 1).take 4) else k ((bs.drop 1).take 2)
  | 2 => k (bs.take 1)
  | 3 => k ((bs.drop (sdiPrefix bs)).take 1)
  | 4 => k ((markField bs).take 4)
  | _ => none

/-- The six TYPE bytes of a record (Table 5-4, Table 6-5). `sw1` is that of a card exchange, 0x00 when absent. -/
def typeBytes (sw1 : Byte) (g : Nat) (bs : List Byte) : List Byte :=
  padTo 6 <| match g with
  | 1 => (upTo (isOneOf [0x2C, 0x2A, 0x0D, 0x0A]) (bs.drop 1)).take 6
  | 2 => (bs.drop 1).take 1
  | 3 => ((upTo (isOneOf [0x21]) bs).drop 1 |>.takeWhile (fun b => decide (0x41 ≤ b.toNat))).take 2
  | 4 => (markField bs).take 6
  | 5 => if (bs.getD 0 0#8).toNat = 0x41 then bs.take 6
      else [byte 0x58] ++ (bs.drop 2).take 4 ++ [sw1]
  | _ => bs.take 6

/-! ### Request templates (Table 7-4) -/

/-- Is the byte a decimal digit? -/
def isDigit (b : Byte) : Bool := decide (0x30 ≤ b.toNat) && decide (b.toNat ≤ 0x39)

/-- What an SDI-12 command of R306 is, after its address character and before nothing: its letters. -/
inductive SdiCmd
  | attention | info | m | mc | c | cc | d | r
  deriving DecidableEq, Repr

/-- The SDI-12 command that a template spells (R306). -/
def sdiParse (bs : List Byte) : Option SdiCmd :=
  match bs.map BitVec.toNat with
  | [_, 0x21] => some .attention
  | [_, 0x49, 0x21] => some .info
  | [_, 0x4D, 0x21] => some .m
  | [_, 0x4D, 0x43, 0x21] => some .mc
  | [_, 0x43, 0x21] => some .c
  | [_, 0x43, 0x43, 0x21] => some .cc
  | [_, 0x44, n, 0x21] => if 0x30 ≤ n ∧ n ≤ 0x39 then some .d else none
  | [_, 0x52, n, 0x21] => if 0x30 ≤ n ∧ n ≤ 0x39 then some .r else none
  | _ => none

/-- A measurement command (Table 7-4, KIND 2). -/
def sdiMeasures : Option SdiCmd → Bool
  | some .m | some .mc | some .c | some .cc => true
  | _ => false

/-- Byte 0 of a template fits the talker: Modbus and SDI-12 addresses are ADDR_KEY bits 31:24. -/
def addrFits (key : Nat) (bs : List Byte) : Bool := (bs.getD 0 0#8).toNat == bits key 24 8

/-- A body passes Table 7-4 and R410 for its KIND, given the talker's ADDR_KEY. -/
def templateOk (kind : Nat) (noReply : Bool) (dCount key : Nat) (bs : List Byte) : Bool :=
  decide (1 ≤ bs.length) && decide (bs.length ≤ 40) &&
  match kind with
  | 0 => decide (2 ≤ bs.length) && (addrFits key bs || ((bs.getD 0 0#8).toNat == 0 && noReply))
  | 1 => !noReply && addrFits key bs && (sdiParse bs).isSome && !sdiMeasures (sdiParse bs)
  | 2 => !noReply && addrFits key bs && sdiMeasures (sdiParse bs) && decide (dCount ≤ 10)
  | 3 => true
  | _ => false

/-- The port GRAMMAR fits the KIND (Table 7-4). -/
def kindFits (kind grammar : Nat) : Bool :=
  match kind with
  | 0 => grammar == 2
  | 1 | 2 => grammar == 3
  | 3 => grammar == 0 || grammar == 1
  | _ => false

/-- The characters that a request sends: KIND 0 appends the CRC-16, low byte first (Table 7-4). -/
def requestBytes (kind : Nat) (bs : List Byte) : List Byte :=
  if kind = 0 then bs ++ leBytes 2 (crc16 bs) else bs

/-! ### Rates and frames (3.1 to 3.3) -/

/-- Frame length in half bits: start, data, parity and the full stop length (R140, R299). -/
def Fmt.halfBits (f : Fmt) : Nat := 2 * (1 + f.dataBits + (if f.parity = 0 then 0 else 1)) + f.stop + 2

/-- The index K of the stop sample (R150). -/
def Fmt.stopSample (f : Fmt) : Nat := f.dataBits + (if f.parity = 0 then 0 else 1) + 1

/-- `h` half bits in LINE cycles, rounded up (R140). -/
def halfBitsLine (h inc : Nat) : Nat := ceilDiv (h * 2 ^ 31) inc

/-- One character time on the wire in LINE cycles (R140). -/
def Fmt.charLine (f : Fmt) : Nat := halfBitsLine f.halfBits f.inc

/-- t1.5 and t3.5 in LINE cycles (R299). -/
def t15Line (f : Fmt) : Nat := if f.inc ≤ 1649267 then ceilDiv (3 * f.halfBits * 2 ^ 30) f.inc else 37500
/-- t3.5 in LINE cycles (R299). -/
def t35Line (f : Fmt) : Nat := if f.inc ≤ 1649267 then ceilDiv (7 * f.halfBits * 2 ^ 30) f.inc else 87500

/-- INC_eff with lean `l` (R148): div truncates towards zero. -/
def incEff (inc : Nat) (l : Int) : Nat := ((inc : Int) + ((inc : Int) * l).tdiv 1024).toNat

/-- Sample k in LINE cycles after c0 (R148). -/
def sampleLine (k inc : Nat) : Nat := ceilDiv ((2 * k + 1) * 2 ^ 31) inc

/-- The byte that D data bits spell, in order of arrival (R142, R143). -/
def dataByte (msbFirst : Bool) (bs : List Bool) : Byte :=
  let l := if msbFirst then bs.reverse else bs
  byte (l.foldr (fun b a => b2n b + 2 * a) 0)

/-- The D data bits of a byte in the order in which they are sent; its unused upper bits are ignored (R142, R143). -/
def dataBits (f : Fmt) (b : Byte) : List Bool :=
  let l := (List.range f.dataBits).map fun i => bitOf b.toNat i
  if f.msbFirst then l.reverse else l

/-- The parity bit that a character should carry: 1 even, 2 odd, 3 mark, 4 space (R141, R144). -/
def parityBit (mode : Nat) (bs : List Bool) : Bool :=
  let ones := (bs.filter id).length
  match mode with
  | 1 => ones % 2 == 1
  | 2 => ones % 2 == 0
  | 3 => true
  | _ => false

/-- The logical levels of a sent character, bit by bit: the start level, the data bits, the parity bit, and the idle level
of the stop bit (R141 to R144). -/
def sentBits (f : Fmt) (b : Byte) : List Bool :=
  [false] ++ dataBits f b ++ (if f.parity = 0 then [] else [parityBit f.parity (dataBits f b)]) ++ [true]

/-- The LINE cycle, counted from the start of the character, in which its bit `k` begins: the accumulator carries there
(R140). -/
def bitLine (k inc : Nat) : Nat := ceilDiv (k * 2 ^ 32) inc

/-- The logical level of a sent character `e` LINE cycles after its start bit began: that of the last bit that has begun,
and of the stop bit to its end (R140). -/
def levelOf (f : Fmt) (b : Byte) (e : Nat) : Bool :=
  let l := sentBits f b
  l.getD (((List.range l.length).filter fun k => decide (bitLine k f.inc ≤ e)).length - 1) true

/-- A level at ball LRXn or LTXn as a logical level, or the other way: POL 1 inverts it (R145). -/
def Fmt.ball (f : Fmt) (level : Bool) : Bool := level != f.pol

/-- The sums of a sentence with no qualifying transition. -/
def LeanSum.zero : LeanSum := ⟨0, 0, 0, 1⟩

/-- The lean sums of one character's transitions (R160, R161): `ts` in LINE cycles after c0, against the nominal
rate of the character, whose bit time is 2^32 / `inc` LINE cycles. -/
def leanOf (inc : Nat) (ts : List Nat) : LeanSum :=
  ts.foldl (fun a t =>
    let x := t * inc
    let j := (x + 2 ^ 31) / 2 ^ 32
    if 2 ≤ j ∧ x ≤ j * 2 ^ 32 + 2 ^ 30 ∧ j * 2 ^ 32 ≤ x + 2 ^ 30 then ⟨a.n + 1, a.sumT + t, a.num + j * 2 ^ 32, a.den⟩ else a)
    ⟨0, 0, 0, inc⟩

/-- Add two lean sums; a sum with no transition does not count. -/
def LeanSum.plus (a b : LeanSum) : LeanSum :=
  if b.n = 0 then a
  else if a.n = 0 then b
  else if a.den = b.den then ⟨a.n + b.n, a.sumT + b.sumT, a.num + b.num, a.den⟩
  else ⟨a.n + b.n, a.sumT + b.sumT, a.num * b.den + b.num * a.den, a.den * b.den⟩

/-- x / y rounded half away from zero (R161). -/
def roundAway (x : Int) (y : Nat) : Int :=
  if 0 ≤ x then (((2 * x.toNat + y) / (2 * y) : Nat) : Int) else -((((2 * (-x).toNat + y) / (2 * y) : Nat)) : Int)

/-- M = round(1024 × (S_nom − S_act) / S_act) (R161). -/
def leanM (l : LeanSum) : Int :=
  roundAway (1024 * ((l.num : Nat) - (l.sumT * l.den : Nat) : Int)) (l.sumT * l.den)

end Sys2Proof.Machine
end

