-- ==== Sys2Proof/Machine/Line.lean ====
section
/-! DEFINITION. The receive side of a line port (chapters 3 and 5): start bits, characters, lean, breaks,
staging, the grammar unit, and the records it closes into the port's receive queue. -/

namespace Sys2Proof.Machine

/-- The format that the registers of a port hold (Tables 3-6, 3-7). -/
def regFmt (p : Nat) (s : State) : Fmt :=
  { inc := get PT.BAUD_INC p s, dataBits := 5 + get PT.DATA_BITS p s, parity := get PT.PARITY p s,
    stop := get PT.STOP p s, pol := flag PT.POL p s, msbFirst := flag PT.MSB_FIRST p s }

/-- The format at reset: 9600 baud, 8N1 (Tables 3-6, 3-7). -/
def Fmt.reset : Fmt := { inc := 824634, dataBits := 8, parity := 0, stop := 0, pol := false, msbFirst := false }

/-- An idle transmitter. -/
def Tx.idle : Tx :=
  { phase := .idle, due := 0, brkAt := 0, bytes := [], cur := none, owner := none, directive := false,
    cut := false, begun := false }

/-- A line port as every reset leaves it (R805). -/
def Port.empty : Port :=
  { rxF := Fmt.reset, txF := Fmt.reset, rxPend := false, txPend := false, rx := none, held := none,
    afterBreak := false, huntFrom := 0, idleFrom := none, stage := [], moveReq := false, moving := false, open_ := none,
    closed := [], nextFlags := 0,
    discard := false, discardNoise := false, lateClose := false, lastRx := none, lastEnd := none, rxChars := 0, movedChars := 0,
    ovrChars := 0, inTrim := false, tx := Tx.idle, txq := [], brkWanted := false, recHeld := false,
    brkHeld := false, win := none, sdiCmd := [], sdiCrc := false,
    sdiAddr := none, reply := none, render := none, renderAfter := 0 }

/-- Line port `p`. -/
def pGet (p : Nat) (s : State) : Port := lookup Port.empty p s.ports
/-- Replace line port `p`. -/
def pSet (p : Nat) (v : Port) (s : State) : State := { s with ports := store Port.empty p v s.ports }
/-- Change line port `p`. -/
def pMap (p : Nat) (f : Port → Port) (s : State) : State := pSet p (f (pGet p s)) s

/-- A line as its guard's power-up leaves it. -/
def GLine.empty : GLine :=
  { cfg := [], pwr := 0, cause := 0, inrushEnd := none, faultAt := 0, inTrim := false, slice := none, firstSlice := none,
    slicesDone := 0, leakValid := false, leakLow := false, leakResult := 0, leakAt := 0, cmFault := false, cmFrom := 0,
    cmTo := 0, trimWanted := false, iMa := 0, v10mv := 0, termCode := 0, thresh := 0, trimTemp := 0, trimCause := 0,
    events := 0, since := 0, cnt := [], inc := [] }

/-- The line of port `p` at its guard. -/
def lnGet (p : Nat) (s : State) : GLine := lookup GLine.empty p s.lines
/-- Change the line of port `p` at its guard. -/
def lnMap (p : Nat) (f : GLine → GLine) (s : State) : State :=
  { s with lines := store GLine.empty p (f (lnGet p s)) s.lines }

/-- At CORE cycle `t` the guard forces LRXn high: a common-mode fault of the line lasts (R220). -/
def forcedHigh (p t : Nat) (s : State) : Bool :=
  let x := lnGet p s
  decide (x.cmFrom ≤ t) && (x.cmFault || decide (t < x.cmTo))

/-- The port's grammar. -/
def grammar (p : Nat) (s : State) : Nat := get PT.GRAMMAR p s

/-! ### Taking up a new rate or format (R137 to R139) -/

/-- The receiver takes up the pending copy at a character boundary (R137). -/
def rxTakeUp (p : Nat) (s : State) : State :=
  if (pGet p s).rxPend then pMap p (fun c => { c with rxF := regFmt p s, rxPend := false }) s else s

/-- The transmitter takes up the pending copy at a character boundary (R138). -/
def txTakeUp (p : Nat) (s : State) : State :=
  if (pGet p s).txPend then pMap p (fun c => { c with txF := regFmt p s, txPend := false }) s else s

/-- LDEn is high (R154, Table 3-8). -/
def ldeHigh (p : Nat) (s : State) : Bool :=
  match (pGet p s).tx.phase with
  | .idle | .held | .leaveWait => false
  | _ => true

/-- A write gave BAUD_INC or a format field a new value: a pending copy exists until both directions take
it up; a hunting, held or disabled receiver and an idle transmitter do so in the next LINE cycle, and a character that is
being sent finishes first (R137, R138). A receiver that is in no character takes it up alike while a possible break is held
back and while it waits for the idle bit after a break: the manual names no boundary there. DESIGN CHOICE (assumption 118). -/
def formatWritten (p : Nat) (s : State) : State :=
  let c := pGet p s
  let s := pMap p (fun c => { c with rxPend := true, txPend := true }) s
  let s := if c.rx.isNone || !flag PT.EN p s || c.inTrim then rxTakeUp p s else s
  if c.tx.phase = .idle || c.tx.phase = .held || c.tx.phase = .leaveWait || (!flag PT.EN p s && c.tx.phase ≠ .chars) then
    txTakeUp p s else s

/-! ### Talkers -/

/-- The talker entry is valid (R400). -/
def talkerValid (t : Nat) (s : State) : Bool := talkerOk s t && flag TK.VALID t s

/-- The lowest-indexed valid talker of a port with a key, among entries 0 to n−1 (R283, step 3). -/
def findTalker (p key : Nat) (s : State) : Nat → Option Nat
  | 0 => none
  | n + 1 => match findTalker p key s n with
    | some t => some t
    | none => if talkerValid n s && get TK.PORT n s == p && get TK.ADDR_KEY n s == key then some n else none

/-- Step 3 of R283: the talker that a key names on a port, or 0xFFF. -/
def talkerByKey (p : Nat) (key : Option Nat) (s : State) : Nat :=
  match key with
  | none => 0xFFF
  | some k => (findTalker p k s (Config.talkers s.variant)).getD 0xFFF

/-- TALKER_RESOLVE (R283). -/
def resolveTalker (p : Nat) (polled : Option Nat) (key : Option Nat) (s : State) : Nat :=
  if flag PT.P2P p s then get PT.P2P_TALKER p s
  else match polled with
    | some t => if talkerValid t s && (key.isNone || key == some (get TK.ADDR_KEY t s)) then t else talkerByKey p key s
    | none => talkerByKey p key s

/-! ### Lean (3.4) -/

/-- The stored lean that applies to a character whose start edge comes now, if one does (R157, R158): inside a response
window, and to the end of the record that began there, the polled talker's. -/
def leanFor (p : Nat) (s : State) : Option Int :=
  let of (t : Nat) : Option Int :=
    if talkerOk s t && flag TK.LEAN_VALID t s then some (signedOf 8 (get TK.LEAN t s)) else none
  if !flag PT.LEAN_APPLY_EN p s || grammar p s == 4 then none
  else if flag PT.P2P p s then of (get PT.P2P_TALKER p s)
  else match (pGet p s).win with
    | some w => of w.talker
    | none => ((pGet p s).open_.bind OpenRec.polled).bind of

/-- LEAN_MEASUREMENT and LEAN_CLAMP (R161 to R164): credit M to a talker. -/
def creditLean (p t : Nat) (m : Int) (s : State) : State :=
  if !talkerValid t s then s
  else
    let new := if flag TK.LEAN_VALID t s then
        let l := signedOf 8 (get TK.LEAN t s); l + (m - l).tdiv 4
      else m
    let c := max (-41) (min 41 new)
    let s := if c ≠ new then raise RG.IRQ_LINE PT.EV_LEAN_CLAMP p (bump PT.LEAN_CLAMP_CNT p s) else s
    putHw TK.LEAN_VALID t 1 (putHw TK.LEAN t (fieldOf 8 c) s)

/-- The measurement at record completion (R161, R162, R200). A polled reply on a port whose P2P bit is 1 is credited to
P2P_TALKER alone, which R283 names as its talker. DESIGN CHOICE (assumption 119). -/
def measureLean (p : Nat) (r : OpenRec) (flags talker : Nat) (s : State) : State :=
  if flag PT.LEAN_MEAS_EN p s && grammar p s != 4 && decide (8 ≤ r.lean.n) && !has flags fTRIM && !has flags fBREAK then
    let m := leanM r.lean
    if flag PT.P2P p s then creditLean p (get PT.P2P_TALKER p s) m s
    else match r.polled with
      | some t => if talker = t || (addrKey (grammar p s) r.bytes).isNone then creditLean p t m s else s
      | none => creditLean p talker m s
  else s

/-! ### Words of a line record in the receive queue -/

/-- The words of a record as far as its payload is known; the last is END once the sentence has ended (R177, R276, R525). -/
def lineWords (hdr : List Word) (payload : List Byte) (final : Bool) : List QWord :=
  match hdr ++ wordsOfBytes payload with
  | [] => []
  | w :: r => ⟨.start, w⟩ :: ((r.dropLast.map fun x => (⟨.body, x⟩ : QWord)) ++
      (match r.getLast? with | some x => [⟨if final then .end_ else .body, x⟩] | none => []))

/-- How many of its words have been offered to the receive queue. -/
def offeredWords (placed : Bool) (moved : Nat) : Nat := if placed then 4 + ceilDiv moved 4 else 0

/-- The words that the line engine of queue `q` has given to its open record become `ws`: an incomplete word takes its later
bytes, and the header and the END tag become final, wherever the words stand; GAP_BEFORE and CLEARED stay as the queue
set them, and a word that failed parity stays as it was read (R177, R278, R544, R557). A record whose last word stands in
the queue, or was discarded by a Clearing, has then ended. DEDUCED (assumption 42). -/
def patchRecord (q : Nat) (pr : Producer) (ws : List QWord) (final : Bool) (s : State) : State :=
  let c := qGet q s
  let n := if c.openBy == some pr then c.openWords else 0
  let base := c.count - n
  let fix (k : Nat) (w : QWord) : QWord :=
    if decide (0 < n) && !c.openCleared && decide (base ≤ k) && decide (k < base + n) && w.tag != .poison then
      match ws[k - base]? with
      | some x => { x with data := x.data ||| (if k = base + 3 then w.data &&& 0x1800#32 else 0#32) }
      | none => w
    else w
  let wait := (c.wait.foldl (fun (acc : Nat × List (Producer × QWord)) e =>
      if e.1 = pr then (acc.1 + 1, acc.2 ++ [(e.1, ws.getD acc.1 e.2)]) else (acc.1, acc.2 ++ [e])) (n, [])).2
  let c := { c.mapWords fix with wait := wait }
  qSet q (if final && decide (0 < n) && decide (n = ws.length) then { c with openBy := none, openWords := 0, openCleared := false }
    else c) s

/-- A record's words go to the receive queue: those offered before take their final form, and the rest follow (R176). -/
def placeWords (p k : Nat) (ws : List QWord) (final : Bool) (s : State) : State :=
  offer p (.line p) (ws.drop k) (patchRecord p (.line p) (if ws.length ≤ k then ws else ws.take k) (final && decide (ws.length ≤ k)) s)

/-! ### Opening and closing records -/

/-- FLAGS that the next record carries are handed over (R182, R190, R286). -/
def takeNextFlags (p : Nat) (s : State) : Nat × State :=
  ((pGet p s).nextFlags, pMap p (fun c => { c with nextFlags := 0 }) s)

/-- A sentence opens at a character whose start edge has the given stamp (5.3, R307, R308). A Mark record never carries
BREAK (R322). -/
def openRecord (p : Nat) (edge : Stamp) (s : State) : State :=
  let g := grammar p s
  let (nf, s) := takeNextFlags p s
  let nf := if g = 4 then nf - (nf &&& fBREAK) else nf
  let c := pGet p s
  let inWin := c.win.isSome
  let pre := if g = 3 then (if inWin then c.sdiCmd else [byte 0x21]) else []
  let polled := c.win.map Window.talker
  pMap p (fun c => { c with
    open_ := some { bytes := pre, stamp := edge, flags := nf, polled := polled, isReply := inWin,
                    sdiCrc := inWin && c.sdiCrc, lean := LeanSum.zero, carried := nf, moved := pre.length, placed := false },
    win := c.win.map fun w => { w with inRecord := true } }) s

/-- The nominal baud setting that a BAUD_INC stands for (R136). DEDUCED (assumption 55). -/
def nominalBaud (inc : Nat) : Nat := (inc * 50000000 + 2 ^ 31) / 2 ^ 32

/-- Nine and a half nominal bit times in whole nanoseconds (R113). -/
def markDelay (inc : Nat) : Nat := 9500000000 / nominalBaud inc

/-- The header of a record while its sentence is open: its LENGTH, talker and flags are not final (R278). -/
def openHeader (p : Nat) (r : OpenRec) (s : State) : List Word :=
  [hdr0 (grammar p s) p 0xFFF 0, word r.stamp.sec, word r.stamp.word2, 0#32]

/-- The staging block of a port is empty, and its move complete (R176). -/
def blockEmptied (p : Nat) (s : State) : State :=
  pMap p (fun x => { x with stage := [], moveReq := false, moving := false,
                            movedChars := (x.movedChars + x.stage.length) % 2 ^ 32 }) s

/-- The staged bytes of the open record go to the receive queue; the block is empty once every word has entered it. -/
def moveOpen (p : Nat) (s : State) : State :=
  let s := match (pGet p s).open_ with
    | none => s
    | some r =>
      if r.bytes.length ≤ r.moved && !r.placed then s
      else pMap p (fun x => { x with open_ := some { r with moved := r.bytes.length, placed := true } })
        (placeWords p (offeredWords r.placed r.moved) (lineWords (openHeader p r s) r.bytes false) false s)
  if outside p (.line p) s = 0 then blockEmptied p s else s

/-- The END word of the oldest closed record has entered the queue: its bytes have left the block, and a reply goes to the
scheduler (R419, Table 1-3). -/
def finishClosed (p : Nat) (c : Closed) (s : State) : State :=
  pMap p (fun x => { x with
    closed := x.closed.drop 1
    stage := x.stage.drop c.staged
    movedChars := (x.movedChars + c.staged) % 2 ^ 32
    reply := if c.isReply then
        some ⟨hdrTalker (c.hdr.getD 0 0#32), hdrFlags (c.hdr.getD 3 0#32), (c.hdr.getD 1 0#32).toNat, c.bytes⟩
      else x.reply }) s

/-- What a move brings into the receive queue: the closed records, oldest first, then the open one (R175 to R177). -/
def moveOn (p : Nat) : List Closed → State → State
  | [], s => moveOpen p s
  | c :: r, s =>
    let s := placeWords p (offeredWords c.placed c.moved) (lineWords c.hdr c.bytes true) true s
    if outside p (.line p) s = 0 then moveOn p r (finishClosed p c s)
    else pMap p (fun x => { x with closed := { c with moved := c.bytes.length, placed := true } :: r }) s

/-- SENTENCE_END (R278, R283, R288): the open record closes with `extra` flags; its header is final, the
counters and event bits follow, and its bytes wait for the move unless none is staged (Table 3-2). A reply that a boundary
cuts completes no try, and its check is not made: it is wrong for Modbus and absent for SDI-12 (R428). -/
def closeRecord (p extra : Nat) (markEdge : Option Stamp) (s : State) : State :=
  match (pGet p s).open_ with
  | none => s
  | some r =>
    let g := grammar p s
    let pre := if g = 3 then sdiPrefix r.bytes else 0
    let late := has extra fLATE
    let ck := if late && (g = 2 || g = 3) then (if g = 2 then fBAD else 0)
      else checkFlag g (flag PT.CK_REQUIRED p s) r.sdiCrc pre r.bytes
    let flags := r.flags ||| extra ||| ck ||| longFlag g r.bytes.length ||| (if g = 4 then fMARK else 0)
    let key := addrKey g r.bytes
    let talker := resolveTalker p r.polled key s
    let stamp := match g, markEdge with
      | 4, some e => e.add (markDelay (get PT.BAUD_INC p s))
      | _, _ => r.stamp
    let stamp := if talkerOk s talker then stamp.sub (5 * get TK.CABLE_M talker s) else stamp
    let hdr := [hdr0 g p talker r.bytes.length, word stamp.sec, word stamp.word2, hdr3 0 0 flags]
    let s := measureLean p r flags talker s
    let s := bump PT.RECORD_CNT p s
    let s := if has flags fBAD then raise RG.IRQ_GRAMMAR PT.GE_CHECKSUM_BAD p (bump PT.CK_BAD_CNT p s) else s
    let s := if has flags fUNTERM then raise RG.IRQ_GRAMMAR PT.GE_UNTERMINATED p s else s
    let s := if has flags fUNTERM && !has extra fTRUNC then bump PT.UNTERM_CNT p s else s
    let s := if has flags fLONG then raise RG.IRQ_GRAMMAR PT.GE_LONG p s else s
    let s := if talkerOk s talker then
        bump TK.RECORD_CNT talker (put TK.LAST_SEEN_SEC talker stamp.sec s) else s
    let before := ((pGet p s).closed.map Closed.staged).sum
    let c : Closed := ⟨r.bytes, hdr, r.moved, r.placed, (pGet p s).stage.length - before, r.isReply && !late⟩
    let s := pMap p (fun x => { x with
      open_ := none, closed := x.closed ++ [c],
      win := if r.isReply then none else x.win }) s
    if (pGet p s).stage.isEmpty then moveOn p (pGet p s).closed s
    else pMap p (fun x => { x with moveReq := true }) s

/-- MARK_ABANDON (R321): the sequencer discards the open Mark sentence and delivers no record; words of it that the receive
queue has taken leave it again, and the flags that it took over go to the next record. -/
def abandonMark (p : Nat) (s : State) : State :=
  match (pGet p s).open_ with
  | some r =>
    if grammar p s == 4 then
      let s := if r.placed then dropProducer p (.line p) (discardOpen p (.line p) s) else s
      let s := pMap p (fun c => { c with
        open_ := none, stage := c.stage.map (fun x => { x with payload := false }), nextFlags := c.nextFlags ||| r.carried }) s
      raise RG.IRQ_GRAMMAR PT.GE_MARK_ABANDON p (bump PT.MARK_ABANDON_CNT p s)
    else s
  | none => s

/-! ### Moves (R175 to R179) -/

/-- The receive queue accepts a move: a place is free or the newest word there is incomplete, and no earlier word of the
port waits (R177, R181, R552). DEDUCED (assumption 137). -/
def moveAccepted (p : Nat) (s : State) : Bool :=
  ((qGet p s).room || holdsPartial p s) && outside p (.line p) s == 0

/-- An accepted move goes on: its words enter as the queue takes them, and the block is empty once the last has entered
(R176). DEDUCED (assumption 137). -/
def moveStep (p : Nat) (s : State) : State :=
  if (pGet p s).moveReq && (pGet p s).moving then moveOn p (pGet p s).closed s else s

/-- STAGING_MOVE_DONE (R176, R177): a requested move begins once the queue accepts it. -/
def stagingMove (p : Nat) (s : State) : State :=
  if !(pGet p s).moveReq then s
  else if (pGet p s).moving then moveStep p s
  else if moveAccepted p s then moveStep p (pMap p (fun x => { x with moving := true }) s)
  else s

/-! ### A character -/

/-- Byte 31 of a full block gives way to a newly completed character (R181): it is counted, and the open record has lost
it where it was payload. -/
def loseByte31 (p : Nat) (s : State) : State :=
  let lost := ((pGet p s).stage.getLast?.map SChar.payload).getD false
  raise RG.IRQ_LINE PT.EV_OVERRUN p (pMap p (fun x => { x with
    stage := x.stage.dropLast, ovrChars := (x.ovrChars + 1) % 2 ^ 32,
    open_ := x.open_.map fun r => { r with bytes := if lost then r.bytes.dropLast else r.bytes, flags := r.flags ||| fOVERRUN } }) s)

/-- Room for a newly completed character in the staging block (R174, R181). DEDUCED (assumption 137). -/
def freeByte (p : Nat) (s : State) : State := if (pGet p s).stage.length < 32 then s else loseByte31 p s

/-- A received character goes to the next free byte of the staging block (R174, R175). DEDUCED (assumption 43). -/
def stageByte (p : Nat) (b : Byte) (payload : Bool) (s : State) : State :=
  pMap p (fun x => { x with stage := x.stage ++ [⟨b, payload⟩], moveReq := x.moveReq || decide (x.stage.length = 31) })
    (freeByte p s)

/-- A character discarded while the block is closed (R182): the record that follows the closed one carries OVERRUN. -/
def discardClosed (p : Nat) (s : State) : State :=
  raise RG.IRQ_LINE PT.EV_OVERRUN p (pMap p (fun x => { x with
    ovrChars := (x.ovrChars + 1) % 2 ^ 32
    open_ := x.open_.map fun r => { r with flags := r.flags ||| fOVERRUN, carried := r.carried ||| fOVERRUN }
    nextFlags := if x.open_.isSome then x.nextFlags else x.nextFlags ||| fOVERRUN }) s)

/-- NOISE_DISCARD (R292, R317). -/
def countNoise (p : Nat) (s : State) : State := raise RG.IRQ_GRAMMAR PT.GE_NOISE p (bump PT.NOISE_CNT p s)

/-- Append a character to the open record (R174, R181). -/
def appendChar (p : Nat) (b : Byte) (flags : Nat) (lean : LeanSum) (leaned : Bool) (s : State) : State :=
  stageByte p b true (pMap p (fun x => { x with open_ := x.open_.map fun r => { r with
    bytes := r.bytes ++ [b],
    flags := r.flags ||| flags ||| (if leaned then fLEAN else 0),
    lean := r.lean.plus lean } }) (freeByte p s))

/-- The sentence reaches 1023 payload bytes without its end (R284, R321). -/
def truncate (p : Nat) (s : State) : State :=
  if grammar p s = 4 then abandonMark p s
  else
    let s := raise RG.IRQ_GRAMMAR PT.GE_TRUNCATED p (bump PT.TRUNC_CNT p s)
    pMap p (fun x => { x with discard := true, discardNoise := false }) (closeRecord p (fTRUNC ||| fUNTERM) none s)

/-- Does the byte start a sentence of the grammar while none is open (R291, R292, R300, R307, R317)? A Modbus frame opens
after at least t3.5 of idle; where nothing has been received since the reset, the line counts as idle.
DESIGN CHOICE (assumption 120). -/
def opens (g : Nat) (b : Byte) (gap : Option Nat) (f : Fmt) : Bool :=
  match g with
  | 1 => isOneOf [0x24, 0x21] b
  | 2 => match gap with | some x => decide (t35Line f ≤ x) | none => true
  | 4 => isOneOf [0x23] b
  | _ => true

/-- Does the byte end the open sentence (R293, R307, R318)? -/
def ends (g : Nat) (b : Byte) : Bool :=
  match g with
  | 1 | 3 => b.toNat == 0x0A
  | 4 => b.toNat == 0x0D
  | _ => false

/-- The record that is open is the reply of the response window. -/
def replyOpen (p : Nat) (s : State) : Bool := ((pGet p s).open_.map OpenRec.isReply).getD false

/-- A boundary closes the reply at the character in progress (Table 7-6) with LATE, UNTERMINATED and `extra`; what follows is
discarded to the next sentence start, unless that character ended the sentence (R429). Where no reply is open the window
closes. -/
def closeLate (p extra : Nat) (ended : Bool) (s : State) : State :=
  if replyOpen p s then
    pMap p (fun x => { x with discard := !ended, discardNoise := !ended, lateClose := false })
      (closeRecord p (fLATE ||| fUNTERM ||| extra) none s)
  else pMap p (fun x => { x with lateClose := false, win := none }) s

/-- The reply that waits for the character in progress closes (Table 7-6). -/
def lateDue (p : Nat) (s : State) : Bool := (pGet p s).lateClose && replyOpen p s

/-- A start character meets an open NMEA sentence: the sentence closes UNTERMINATED and the character opens the next one
(R294). The bytes of the closed sentence may still wait for their move; the character stands behind them.
DESIGN CHOICE (assumption 121). -/
def nmeaRestart (p : Nat) (b : Byte) (s : State) : State :=
  if grammar p s = 1 && (pGet p s).open_.isSome && opens 1 b none Fmt.reset then
    closeRecord p fUNTERM none (freeByte p s) else s

/-- A Modbus frame whose t3.5 has passed ended before this character, and its block moved if the queue took it (R300,
R301); a gap between t1.5 and t3.5 inside a frame is counted (R302). -/
def modbusGap (p : Nat) (f : Fmt) (gap : Option Nat) (s : State) : State :=
  match gap with
  | some x =>
    if grammar p s ≠ 2 then s
    else if t35Line f ≤ x then
      if (pGet p s).open_.isSome then stagingMove p (closeRecord p 0 none s) else s
    else if (pGet p s).open_.isSome && decide (t15Line f < x) then
      raise RG.IRQ_GRAMMAR PT.GE_T15 p (bump PT.T15_CNT p s)
    else s
  | none => s

/-- The character belongs to the sentence that is open: it is appended, and may end it, cut it, or fill it. -/
def insideChar (p : Nat) (b : Byte) (edge : Stamp) (flags : Nat) (lean : LeanSum) (leaned : Bool) (s : State) : State :=
  let g := grammar p s
  let s := appendChar p b flags lean leaned s
  if lateDue p s then closeLate p 0 (ends g b) s
  else
  let s := if (pGet p s).lateClose then closeLate p 0 true s else s
  if ends g b then closeRecord p 0 (some edge) s
  else if 1023 ≤ ((pGet p s).open_.map (fun r => r.bytes.length)).getD 0 then truncate p s
  else s

/-- The character belongs to no sentence: it takes its byte of the block, and counts as noise where its grammar says so
(R292, R317, R429). An SDI-12 response that is discarded ends at its LF. DEDUCED (assumption 138). -/
def outsideChar (p : Nat) (b : Byte) (s : State) : State :=
  let g := grammar p s
  let noisy := g = 1 || g = 4 || (pGet p s).discardNoise
  let s := stageByte p b false (if noisy then countNoise p s else s)
  let s := if (pGet p s).lateClose then closeLate p 0 true s else s
  if g = 3 && (pGet p s).discard && b.toNat == 0x0A then pMap p (fun x => { x with discard := false, discardNoise := false }) s
  else s

/-- The grammar unit takes one completed character (5.3 to 5.8). `f` is its format, and `gap` the idle before its start edge
in LINE cycles, where that is known. A character that completes while the block is closed is discarded (R182). -/
def grammarChar (p : Nat) (b : Byte) (edge : Stamp) (flags : Nat) (lean : LeanSum) (leaned : Bool)
    (f : Fmt) (gap : Option Nat) (s : State) : State :=
  let s := modbusGap p f gap s
  if !(pGet p s).closed.isEmpty then
    let s := discardClosed p s
    if (pGet p s).lateClose then closeLate p 0 false s else s
  else
    let g := grammar p s
    let s := nmeaRestart p b s
    let starts := (pGet p s).open_.isNone && opens g b gap f && (!(pGet p s).discard || g = 1 || g = 2 || g = 4)
    let s := if starts then
        openRecord p edge (pMap p (fun x => { x with discard := false, discardNoise := false }) s) else s
    if (pGet p s).open_.isNone then outsideChar p b s else insideChar p b edge flags lean leaned s

/-- A completed character enters the engine: it is counted, marked and handed on (R144, R151, R152). `at_` is the CORE cycle
of its stop-bit sample, from which the receive timeout counts and the end of the character follows (R178, R298). -/
def takeChar (p : Nat) (x : RxChar) (b : Byte) (framing parity : Bool) (lean : LeanSum) (at_ : Nat) (s : State) : State :=
  let gap := (pGet p s).idleFrom.map fun e => x.c0 - e / 5
  let s := pMap p (fun c => { c with rxChars := (c.rxChars + 1) % 2 ^ 32 }) s
  let s := if framing then raise RG.IRQ_LINE PT.EV_FRAMING p (bump PT.FRAMING_CNT p s) else s
  let s := if parity then raise RG.IRQ_LINE PT.EV_PARITY p (bump PT.PARITY_CNT p s) else s
  let flags := (if framing then fFRAMING else 0) ||| (if parity then fPARITY else 0)
  let s := grammarChar p b x.edge flags lean x.leaned x.fmt gap s
  let e := at_ + cyclesLine (ceilDiv ((x.fmt.stop + 1) * 2 ^ 31) x.fmt.inc)
  pMap p (fun c => { c with lastRx := some at_, lastEnd := some e, idleFrom := some e }) s

/-! ### Meanings of the rows -/

/-- The receiver may hunt: the port is enabled, LDEn is low, no trim, no held break (R154, R189). -/
def hunting (p : Nat) (s : State) : Bool :=
  portOk s p && flag PT.EN p s && !ldeHigh p s && !(pGet p s).inTrim && (pGet p s).rx.isNone &&
  (pGet p s).held.isNone && !(pGet p s).afterBreak

/-- LINE cycle c0 of the start edge that sample 0, taken now, belongs to, for INC_eff `inc` (R148). -/
def edgeLine (inc : Nat) (s : State) : Nat := s.now / 5 - sampleLine 0 inc

/-- INC_eff of a character whose start edge comes now (R148). -/
def incNow (p : Nat) (s : State) : Nat := incEff (pGet p s).rxF.inc ((leanFor p s).getD 0)

/-- The line can show a start edge at LINE cycle `c0`: a receiver output that the guard forces idle has no edge but, with
POL 1, the one that the forcing makes (R220). -/
def edgeShown (p c0 : Nat) (s : State) : Bool :=
  !forcedHigh p (5 * c0) s || ((pGet p s).rxF.pol && decide (5 * c0 < (lnGet p s).cmFrom + 25))

/-- The receiver was hunting in the LINE cycle of that start edge: an edge less than 2 LINE cycles after LDEn fell, or before
the receiver resumed, begins nothing (R151, R154, R189, R203). -/
def edgeSeen (p : Nat) (s : State) : Bool :=
  decide ((pGet p s).huntFrom ≤ edgeLine (incNow p s) s) && edgeShown p (edgeLine (incNow p s) s) s

/-- The ball can show the idle level now, and the start level: the guard does not force the other one (R145, R220). -/
def canIdle (p : Nat) (s : State) : Bool := !(forcedHigh p s.now s && (pGet p s).rxF.pol)
/-- See `canIdle`. -/
def canStart (p : Nat) (s : State) : Bool := !forcedHigh p s.now s || (pGet p s).rxF.pol

/-- START_BIT_VALIDATED (R147 to R149, R111): sample 0, taken now, shows the start level. The start edge lies
one half bit time of the receiver back; its Ring time, less 70 ns, is the edge time. DEDUCED (assumption 136). -/
def startBit (p : Nat) (s : State) : State :=
  if !(hunting p s && edgeSeen p s && canStart p s) then s
  else
    let inc := incNow p s
    let c0 := edgeLine inc s
    let edge := (stampAt (5 * c0) s).sub 70
    pMap p (fun c => { c with
      rx := some ⟨edge, c0, inc, (leanFor p s).isSome, c.rxF⟩, win := c.win.map fun w => { w with started := true } }) s

/-- START_GLITCH (R149): sample 0 shows the idle level; the edge is discarded. -/
def startGlitch (p : Nat) (s : State) : State :=
  if hunting p s && edgeSeen p s && canIdle p s then
    bump PT.GLITCH_CNT p (pMap p (fun c => { c with huntFrom := s.now / 5 + 1 }) s)
  else s

/-- LINE cycle c_K of a character's stop-bit sample (R148, R150). -/
def RxChar.stopLine (x : RxChar) : Nat := x.c0 + sampleLine x.fmt.stopSample x.inc

/-- CHARACTER_RECEIVED (R148 to R152): the clock runs on to the stop-bit sample. `samples` are the levels of ball LRXn at
samples 1 to K, which POL 1 inverts (R145) and a common-mode fault forces high (R220), `trans` the times of the transitions between adjacent sampled bits, in LINE
cycles after c0 (R160). DEDUCED (assumption 136). -/
def characterReceived (p : Nat) (samples : List Bool) (trans : List Nat) (s : State) : State :=
  match (pGet p s).rx with
  | none => s
  | some x =>
    let f := x.fmt
    let s := runTo (cyclesLine x.stopLine) s
    let s := pMap p (fun c => { c with rx := none, huntFrom := x.stopLine + 1 }) s
    let levels := samples.zipIdx.map fun (b, i) => f.ball (b || forcedHigh p (cyclesLine (x.c0 + sampleLine (i + 1) x.inc)) s)
    let data := levels.take f.dataBits
    let par := if f.parity = 0 then [] else [levels.getD f.dataBits false]
    let stop := levels.getD (f.stopSample - 1) false
    let b := dataByte f.msbFirst data
    let bad := f.parity ≠ 0 && (par != [parityBit f.parity data])
    let lean := leanOf f.inc trans
    let s := if !stop && data.all (! ·) && par.all (! ·) then
        pMap p (fun c => { c with held := some (x, lean) }) s
      else takeChar p x b (!stop) bad lean (cyclesLine x.stopLine) s
    rxTakeUp p s

/-- The break window T in LINE cycles of the possible break that is held back (R167), with the character's own frame. -/
def breakLine (p : Nat) (s : State) : Nat :=
  let f := match (pGet p s).held with
    | some (x, _) => x.fmt
    | none => (pGet p s).rxF
  halfBitsLine (get PT.BRK_DET p s * f.halfBits) f.inc

/-- POSSIBLE_BREAK_IDLE (R167): the line shows the idle level inside the window, before LINE cycle c0 + T, so the held
character is staged marked FRAMING. -/
def possibleBreakIdle (p : Nat) (s : State) : State :=
  match (pGet p s).held with
  | none => s
  | some (x, lean) =>
    if x.c0 + breakLine p s ≤ s.now / 5 ∨ !(canIdle p s) then s
    else
      let f := x.fmt
      let bad := f.parity ≠ 0 && ([false] != [parityBit f.parity (List.replicate f.dataBits false)])
      rxTakeUp p (takeChar p x 0#8 true bad lean (cyclesLine x.stopLine)
        (pMap p (fun c => { c with held := none, huntFrom := s.now / 5 + 1 }) s))

/-- The sentence that a break meets (R286, R321, R322): it closes with BREAK, LATE with it where a boundary waits for the
character (Table 7-6), or the next record will carry BREAK. -/
def breakClose (p : Nat) (s : State) : State :=
  if lateDue p s then closeLate p fBREAK false s
  else
  let s := if (pGet p s).lateClose then closeLate p 0 true s else s
  if (pGet p s).open_.isSome then
    if grammar p s = 4 then abandonMark p s
    else closeRecord p (fBREAK ||| (if grammar p s = 0 then 0 else fUNTERM)) none s
  else if grammar p s = 4 then s
  else pMap p (fun c => { c with nextFlags := c.nextFlags ||| fBREAK }) s

/-- BREAK_DETECTED and BREAK_CLOSE (R168, R169, R286, R321): the clock runs on to c0 + T. -/
def breakDetected (p : Nat) (s : State) : State :=
  match (pGet p s).held with
  | none => s
  | some (x, _) =>
    let s := runTo (cyclesLine (x.c0 + breakLine p s)) s
    if !(canStart p s) then s
    else
    let s := pMap p (fun c => { c with held := none, afterBreak := true }) s
    breakClose p (rxTakeUp p (raise RG.IRQ_LINE PT.EV_BREAK_DET p (bump PT.BREAK_CNT p s)))

/-- HUNT_RESUME_AFTER_BREAK (R168): the line has shown the idle level for one nominal bit time. -/
def huntResume (p : Nat) (s : State) : State :=
  if (pGet p s).afterBreak && canIdle p s then
    pMap p (fun c => { c with afterBreak := false, huntFrom := s.now / 5,
                              idleFrom := some (s.now - cyclesLine (halfBitsLine 2 c.rxF.inc)) }) s
  else s

/-- A start bit validated in an earlier LINE cycle than that of CORE cycle `due` has begun a character that is not complete
by then (R178): one in reception, or a possible break. DEDUCED (assumption 135). -/
def startedBefore (p due : Nat) (s : State) : Bool :=
  (match (pGet p s).rx with | some x => decide (x.c0 + sampleLine 0 x.inc < due / 5) | none => false) || (pGet p s).held.isSome

/-- RX_TIMEOUT (R178, R179, R291): the clock runs on to RX_TIMEOUT character times after the last stop-bit
sample; a partial block moves, and a RAW sentence ends. A start bit that was validated before cancels it.
DEDUCED (assumption 135). -/
def rxTimeout (p : Nat) (s : State) : State :=
  match (pGet p s).lastRx with
  | none => s
  | some l =>
    let f := (pGet p s).rxF
    let due := l + cyclesLine (halfBitsLine (get PT.RX_TIMEOUT p s * f.halfBits) f.inc)
    if startedBefore p due s then s
    else
      let s := runTo due s
      let s := if (pGet p s).stage.isEmpty then s else pMap p (fun c => { c with moveReq := true }) s
      if grammar p s = 0 then pMap p (fun c => { c with discard := false, discardNoise := false }) (closeRecord p 0 none s) else s

/-- A start edge that came less than t3.5 after the end of the last character keeps the Modbus frame open (R300, R301):
`due` is the CORE cycle in which t3.5 has passed. DEDUCED (assumption 135). -/
def edgeBefore (p due : Nat) (s : State) : Bool :=
  (match (pGet p s).rx with | some x => decide (5 * x.c0 < due) | none => false) || (pGet p s).held.isSome

/-- T35_EXPIRY (R300): t3.5 after the end of the last character the Modbus frame ends, and so does any
discarding (R429), unless a start edge came before. DEDUCED (assumption 135). -/
def t35Expiry (p : Nat) (s : State) : State :=
  match (pGet p s).idleFrom with
  | none => s
  | some e =>
    let due := e + cyclesLine (t35Line (pGet p s).rxF)
    if grammar p s = 2 && !edgeBefore p due s then
      closeRecord p 0 none (pMap p (fun c => { c with discard := false, discardNoise := false }) (runTo due s))
    else s

/-- A character in reception completes before CORE cycle `due`, so a limit that counts from the last character does not
expire then. -/
def completesBefore (p due : Nat) (s : State) : Bool :=
  match (pGet p s).rx with | some x => decide (cyclesLine x.stopLine < due) | none => false

/-- A break is recognised by CORE cycle `due` (R168). -/
def breakBy (p due : Nat) (s : State) : Bool :=
  match (pGet p s).held with | some (x, _) => decide (cyclesLine (x.c0 + breakLine p s) ≤ due) | none => false

/-- SENTENCE_TIMEOUT (R285): SENT_TIMEOUT_MS after the last character an open NMEA or SDI-12 sentence closes. A break that
is recognised by then closes it first (R341). -/
def sentenceTimeout (p : Nat) (s : State) : State :=
  let g := grammar p s
  if (g = 1 || g = 3) && (pGet p s).open_.isSome && get PT.SENT_TIMEOUT_MS p s ≠ 0 then
    let due := match (pGet p s).lastRx with
      | some l => l + cyclesMs (get PT.SENT_TIMEOUT_MS p s)
      | none => s.now
    if completesBefore p due s then s
    else if breakBy p due s then breakDetected p s
    else closeRecord p fUNTERM none (runTo due s)
  else s

/-- MARK_ABANDON (R321): 64 character times with no character. -/
def markAbandon (p : Nat) (s : State) : State :=
  if grammar p s = 4 && (pGet p s).open_.isSome then
    let f := (pGet p s).rxF
    let due := match (pGet p s).lastRx with
      | some l => l + cyclesLine (halfBitsLine (64 * f.halfBits) f.inc)
      | none => s.now
    if completesBefore p due s then s else abandonMark p (runTo due s)
  else s

/-- RX_CHARS_READ (R183, R184): the staging ledger is captured in one CORE cycle. -/
def rxCharsRead (p : Nat) (s : State) : State :=
  let c := pGet p s
  put PT.RX_CHARS p c.rxChars (put PT.MOVED_CHARS p c.movedChars (put PT.OVR_CHARS p c.ovrChars
    (put PT.STAGE_AUDIT p c.stage.length s)))

/-! ### Trim and disable -/

/-- Trim begins on a line (R189, R190): the character in progress is discarded, hunting stops, an open
sentence will carry TRIM_GAP, and a pending copy is taken up (R137). A reply that a boundary closes at that character
closes now. -/
def trimBegins (p : Nat) (s : State) : State :=
  let s := pMap p (fun c => { c with
    inTrim := true, rx := none, held := none,
    open_ := c.open_.map fun r => { r with flags := r.flags ||| fTRIM } }) s
  rxTakeUp p (if (pGet p s).lateClose then closeLate p 0 false s else s)

/-- Trim ends (R189, R190): hunting resumes; a start level on LRXn then marks the next record. -/
def trimEnds (p : Nat) (startLevel : Bool) (s : State) : State :=
  if (pGet p s).inTrim then
    rxTakeUp p (pMap p (fun c => { c with
      inTrim := false, huntFrom := s.now / 5 + 1,
      nextFlags := if (startLevel && canStart p s) || !(canIdle p s) then c.nextFlags ||| fTRIM else c.nextFlags }) s)
  else s

/-- The receive side of a write of EN = 0 (R192, R287, R321). -/
def rxDisable (p : Nat) (s : State) : State :=
  let s := pMap p (fun c => { c with rx := none, held := none, afterBreak := false }) s
  let s := if (pGet p s).stage.isEmpty then s else pMap p (fun c => { c with moveReq := true }) s
  let s := if (pGet p s).lateClose then closeLate p 0 true s else s
  let s := if grammar p s = 4 then abandonMark p s else closeRecord p fUNTERM none s
  rxTakeUp p (pMap p (fun c => { c with discard := false, discardNoise := false, lateClose := false }) s)

end Sys2Proof.Machine
end

