-- ==== Sys2Proof/Machine/LineTx.lean ====
section
/-! DEFINITION. The transmit side of a line port (3.5, 3.8): records, LDEn lead and tail, breaks, holds by
trim, and what a cleared EN cuts. -/

namespace Sys2Proof.Machine

/-- Change the transmitter of a port. -/
def txMap (p : Nat) (f : Tx → Tx) (s : State) : State := pMap p (fun c => { c with tx := f c.tx }) s

/-- The transmitter of a port. -/
def txOf (p : Nat) (s : State) : Tx := (pGet p s).tx

/-- LEAD_US, TAIL_US, BRK_MS and MARK_MS of a port in CORE cycles (Table 3-7). -/
def leadC (p : Nat) (s : State) : Nat := cyclesUs (get PT.LEAD_US p s)
/-- TAIL_US. -/
def tailC (p : Nat) (s : State) : Nat := cyclesUs (get PT.TAIL_US p s)

/-- The moment from which a record may start: TURN_US after the last received character (R185), and for
Modbus its first start bit t3.5 after the end of the last character on the line (R415); on a listener port
also LST_GAP_US after LDEn fell (R590). DEDUCED (assumption 136). -/
def earliestTx (p : Nat) (s : State) : Nat :=
  let c := pGet p s
  let a := match c.lastRx with | some t => t + cyclesUs (get PT.TURN_US p s) | none => 0
  let b := match c.lastEnd with
    | some t => if grammar p s = 2 then t + cyclesLine (t35Line c.txF) - leadC p s else 0
    | none => 0
  max (max a b) (if flag PT.LST_EN p s then c.renderAfter else 0)

/-- LDEn rises for a record's characters (R186). -/
def raiseLde (p : Nat) (s : State) : State :=
  txMap p (fun t => { t with phase := .lead, due := s.now + leadC p s }) s

/-- The transmitter asks for the FIELD unit of a break (R171). A break of TX_BREAK belongs to no record. -/
def askBreak (p : Nat) (directive : Bool) (s : State) : State :=
  let s := txMap p (fun t => { t with
    phase := .leaveWait, directive := directive, owner := if directive then t.owner else none }) s
  requestLeave (.brk p) 1 (cyclesMs (get RG.BRK_LEAVE_TO_MS 0 s)) false s

/-- The record that stands at the head of the port's transmit queue is available (R546). -/
def txReady (p : Nat) (s : State) : Option (List QWord) := headRecord (48 + p) s

/-- A transmit held by trim counts once (R188). -/
def countHeld (p : Nat) (s : State) : State := raise RG.IRQ_LINE PT.EV_TX_HELD p (bump PT.TX_HELD p s)

/-- A transmit for a line in trim is held: LDEn stays low, and the record counts once (R188). -/
def holdTx (p : Nat) (s : State) : State :=
  let s := if (pGet p s).recHeld then s else pMap p (fun c => { c with recHeld := true }) (countHeld p s)
  txMap p (fun t => { t with phase := .held, owner := (pGet p s).txq.head? }) s

/-- A break that waits on a line in trim is held in the same way (R188): a directive is the hold of its record. -/
def holdBreak (p : Nat) (directive : Bool) (s : State) : State :=
  if directive then
    if (pGet p s).recHeld then s else pMap p (fun c => { c with recHeld := true }) (countHeld p s)
  else if (pGet p s).brkHeld then s else pMap p (fun c => { c with brkHeld := true }) (countHeld p s)

/-- The record at the head of the transmit queue is taken: its characters and its owner (R186, R521). -/
def takeTxRecord (p : Nat) (ws : List QWord) (s : State) : State :=
  let s := bump CN.RECORDS_OUT (48 + p) (dropWords (48 + p) ws.length s)
  let s := qMap (48 + p) (fun c => { c with inside := true }) s
  pMap p (fun c => { c with
    txq := c.txq.drop 1
    recHeld := false
    tx := { Tx.idle with bytes := recPayload ws, owner := c.txq.head? } }) s

/-- TX_RECORD_START (R185 to R188): the clock runs on to the end of the turnaround gap; then the record is
taken, or held while the line is in trim. A record with a break directive stays in the queue while its break
waits for leave (R171, R773). DEDUCED (assumption 136). -/
def txRecordStart (p : Nat) (s : State) : State :=
  let ph := (txOf p s).phase
  if !(portOk s p && flag PT.EN p s && (ph = .idle || ph = .held)) || (pGet p s).brkWanted then s
  else match txReady p s with
    | none => s
    | some ws =>
      let s := runTo (earliestTx p s) s
      if (pGet p s).inTrim then holdTx p s
      else
        let s := txTakeUp p s
        if has (hdrFlags (recWord ws 3)) fBREAK then
          askBreak p true (txMap p (fun _ => { Tx.idle with owner := (pGet p s).txq.head? }) s)
        else raiseLde p (takeTxRecord p ws s)

/-- The next character of the record goes on the wire, or the tail begins after the last one (R140, R186). -/
def nextChar (p : Nat) (s : State) : State :=
  let t := txOf p s
  match (if t.cut then [] else t.bytes) with
  | b :: r => txMap p (fun t => { t with
      phase := .chars, cur := some b, bytes := r, begun := true,
      due := s.now + cyclesLine (pGet p s).txF.charLine }) s
  | [] => txMap p (fun t => { t with phase := .tail, cur := none, due := s.now + tailC p s }) s

/-- The logical level that the transmitter drives: a break's start level, the bits of the character on the wire, and the idle
level otherwise (R140, R172). -/
def txLevel (p : Nat) (s : State) : Bool :=
  let t := txOf p s
  let f := (pGet p s).txF
  match t.phase, t.cur with
  | .chars, some b => levelOf f b ((s.now + cyclesLine f.charLine - t.due) / 5)
  | .brk, _ => decide (s.now < t.brkAt) || decide (t.due ≤ s.now)
  | _, _ => true

/-- The level of ball LTXn (R145). -/
def ltx (p : Nat) (s : State) : Bool := (pGet p s).txF.ball (txLevel p s)

/-- LEAD_END (R186): LEAD_US after LDEn rose, the first start bit is sent. -/
def leadEnd (p : Nat) (s : State) : State :=
  if (txOf p s).phase = .lead then nextChar p (runTo (txOf p s).due s) else s

/-- TX_CHARACTER_DONE (R138, R140): the last stop bit ends; the pending copy is taken up, and the next
character follows back to back. -/
def txCharacterDone (p : Nat) (s : State) : State :=
  if (txOf p s).phase = .chars then
    let s := runTo (txOf p s).due s
    nextChar p (txTakeUp p (pMap p (fun c => { c with lastEnd := some s.now }) s))
  else s

/-- LDEn falls: the transmitter is idle, the record is out of the queue for good, and the receiver hunts again 2 LINE cycles
later (R154, R186, R568). -/
def lowerLde (p : Nat) (s : State) : State :=
  txTakeUp p (qMap (48 + p) (fun c => { c with inside := false })
    (pMap p (fun c => { c with tx := Tx.idle, huntFrom := lineEdge s.now / 5 + 2 }) s))

/-- BREAK_START (R172): leave is granted, LDEn rises, and LEAD_US later the start level begins; the break of a record keeps
its turnaround gap (R185). In trim the break is held (R188). -/
def breakStart (p : Nat) (s : State) : State :=
  if (txOf p s).phase = .leaveWait && mayStart (.brk p) s then
    let directive := (txOf p s).directive
    let s := if directive then runTo (earliestTx p s) s else s
    if (pGet p s).inTrim then holdBreak p directive s
    else
      let s := pMap p (fun c => { c with brkHeld := c.brkHeld && directive }) s
      let s := if directive then (match txReady p s with
        | some ws => takeTxRecord p ws s
        | none => s) else s
      txMap p (fun t => { t with
        phase := .brk, directive := directive, brkAt := s.now + leadC p s,
        due := s.now + leadC p s + cyclesMs (get PT.BRK_MS p s) }) s
  else s

/-- BREAK_END (R172): the idle level with LDEn high for MARK_MS; a cut break goes to its tail at once (R192). -/
def breakEnd (p : Nat) (s : State) : State :=
  if (txOf p s).phase = .brk then
    let s := runTo (txOf p s).due s
    if (txOf p s).cut then releaseLeave (.brk p) (txMap p (fun t => { t with phase := .tail, due := s.now + tailC p s }) s)
    else txMap p (fun t => { t with phase := .mark, due := s.now + cyclesMs (get PT.MARK_MS p s) }) s
  else s

/-- TX_BREAK returns to 0 as its break ends; where software writes 1 in that very cycle the bit stays, and a second break
begins (R204). -/
def clearTxBreak (p : Nat) (s : State) : State :=
  if s.cyc.sw.contains (PT.TX_BREAK.key p) then pMap p (fun c => { c with brkWanted := true }) s else put PT.TX_BREAK p 0 s

/-- MARKING_END (R171, R172): the unit is released; the record's first start bit follows at once, or LDEn
falls TAIL_US later. TX_BREAK of a software break returns to 0. -/
def markingEnd (p : Nat) (s : State) : State :=
  if (txOf p s).phase = .mark then
    let s := txTakeUp p (releaseLeave (.brk p) (runTo (txOf p s).due s))
    if (txOf p s).directive then nextChar p s
    else clearTxBreak p (txMap p (fun t => { t with phase := .tail, due := s.now + tailC p s }) s)
  else s

/-- Once the transmitter is idle or holds a record, a waiting TX_BREAK begins, or is held by trim (R173, R188). -/
def servePendingBreak (p : Nat) (s : State) : State :=
  if (pGet p s).brkWanted && ((txOf p s).phase = .idle || (txOf p s).phase = .held) then
    if (pGet p s).inTrim then holdBreak p false s
    else askBreak p false (pMap p (fun c => { c with brkWanted := false }) s)
  else s

/-- A write of TX_BREAK = 1 (R170, R173, R188): on an enabled port the break is generated now, or after the
record in progress. While the bit reads 1 its break is under way or waits, and a further 1 starts none but in the cycle in
which the hardware clears it (Table 0-3). DEDUCED (assumption 122). -/
def txBreakWritten (p : Nat) (s : State) : State :=
  if !flag PT.EN p s then put PT.TX_BREAK p 0 s
  else if flag PT.TX_BREAK p s then putSw PT.TX_BREAK p 1 s
  else
    let s := put PT.TX_BREAK p 1 s
    servePendingBreak p (pMap p (fun c => { c with brkWanted := true }) s)

/-- The line engine drops the GAP words at the head of its queue (R559). -/
def dropTxGaps (p : Nat) (s : State) : State :=
  let n := ((qGet (48 + p) s).words.takeWhile fun w => w.tag == .gap).length
  if n = 0 then s else dropWords (48 + p) n s

/-- Discard the record that stands at the head of the transmit queue, behind GAP words or not, with its owner (R549, R559,
Table 7-6): one that is still being written ends with the words it has. -/
def discardTxHead (p : Nat) (s : State) : State :=
  let q := 48 + p
  let s := qMap q (fun c => { c with verifying := false }) (dropTxGaps p s)
  let s := pMap p (fun c => { c with txq := c.txq.drop 1, recHeld := false }) s
  match (qGet q s).headExtent with
  | some n => dropWords q n s
  | none => dropProducer q .coppice (discardOpen q .coppice s)

/-- The request that waits at the head of the transmit queue leaves it (Table 7-6): a break that waits for its leave, or the
hold by trim, ends with it, and a TX_BREAK behind it begins. -/
def removeRequest (p : Nat) (s : State) : State :=
  let t := txOf p s
  let s := if t.phase = .leaveWait && t.directive then releaseLeave (.brk p) (withdrawLeave (.brk p) s) else s
  let s := if (t.phase = .leaveWait && t.directive) || t.phase = .held then txMap p (fun _ => Tx.idle) s else s
  servePendingBreak p (discardTxHead p s)

/-- The record in progress is cut (R192, Table 7-6): a character being sent completes; in LEAD_US no character
starts; a break completes its BRK_MS and its marking is cut. -/
def cutTx (p : Nat) (s : State) : State :=
  let t := txOf p s
  let tail (s : State) := txMap p (fun t => { t with phase := .tail, cut := true, due := s.now + tailC p s }) s
  match t.phase with
  | .lead => tail s
  | .chars => txMap p (fun t => { t with cut := true }) s
  | .brk => if s.now < t.brkAt then releaseLeave (.brk p) (tail s) else txMap p (fun t => { t with cut := true }) s
  | .mark => releaseLeave (.brk p) (tail s)
  | .leaveWait =>
    if t.directive then removeRequest p s
    else pMap p (fun c => { c with tx := Tx.idle, brkHeld := false }) (releaseLeave (.brk p) (withdrawLeave (.brk p) s))
  | .held => if t.owner.isSome then removeRequest p s else txMap p (fun _ => Tx.idle) s
  | .idle | .tail => s

end Sys2Proof.Machine
end

