-- ==== Sys2Proof/Machine/Jobs.lean ====
section
/-! DEFINITION. Job slots (7.8), late drops (R50, R51), and the release of classified records (R33): what
every kind of job shares. -/

namespace Sys2Proof.Machine

/-! ### Slots -/

/-- IDLE slots (R449): every job listed is ACTIVE or RETIRING. -/
def idleSlots (s : State) : Nat := Config.slots s.variant - s.jobs.length

/-- RETIRING slots. -/
def retiringSlots (s : State) : Nat := (s.jobs.filter fun j => j.idleAt.isSome).length

/-- Slots of a kind, ACTIVE or RETIRING. -/
def kindSlots (k : JobKind) (s : State) : Nat := (s.jobs.filter fun j => j.kind == k).length

/-- Forward-copy, listener and uplink jobs, and commands, leave POLL_RESERVE slots alone (R434, R451). -/
def slotBeyondReserve (s : State) : Bool := decide (get RG.POLL_RESERVE 0 s < idleSlots s)

/-- Poll transactions and card exchanges may take any idle slot (R451). -/
def anySlot (s : State) : Bool := decide (0 < idleSlots s)

/-- The job with a number. -/
def jobOf (id : Nat) (s : State) : Option Job := s.jobs.find? fun j => j.id == id

/-- The job with a number, while its slot is ACTIVE. -/
def activeJob (id : Nat) (s : State) : Option Job := s.jobs.find? fun j => j.id == id && j.idleAt.isNone

/-- Change the job with a number. -/
def jobMap (id : Nat) (f : Job → Job) (s : State) : State :=
  { s with jobs := s.jobs.map fun j => if j.id = id then f j else j }

/-- SPAWN (R47, R449): a job of `rem` ns takes a slot in this CORE cycle; its number is `s.nextJob`.
DEDUCED (assumption 53). -/
def spawnJob (kind : JobKind) (rem cls tenant src : Nat) (poll : Option Nat) (s : State) : State :=
  let s := { s with
    jobs := s.jobs ++ [⟨s.nextJob, kind, s.now + ceilDiv rem 4, cls, tenant, src, poll, false, false, none⟩]
    nextJob := s.nextJob + 1 }
  if get RG.SLOT_HWM 0 s < s.jobs.length then putHw RG.SLOT_HWM 0 s.jobs.length s else s

/-- A job ends: its slot is RETIRING, and IDLE 2 CORE cycles later (R449). -/
def endJob (id : Nat) (s : State) : State :=
  jobMap id (fun j => { j with idleAt := some (j.idleAt.getD (s.now + 2)) }) s

/-- A job reaches its deadline point (R48, R450). -/
def meetJob (id : Nat) (s : State) : State := jobMap id (fun j => { j with met := true }) s

/-- Half the range of Ring time in ns: a deadline farther ahead than this has passed. -/
def halfRing : Nat := 2 ^ 31 * 1000000000

/-- A Ring time deadline as a remaining time in ns; `none` when it has passed (R47, R68). -/
def remaining (deadline : Nat) (s : State) : Option Nat :=
  let d : Int := ((deadline : Int) - ((stampNow s).total : Nat)) % ((2 * halfRing : Nat) : Int)
  if d.toNat < halfRing then some d.toNat else none

/-- The class default deadline in ms (R46). -/
def classDefaultMs : Nat → Nat
  | 0 => 2 | 1 => 20 | 2 => 1000 | _ => 10000

/-! ### Late drops -/

/-- LATE_DROP counters by class (Table 8-3). -/
def lateDropF : Nat → Fld
  | 0 => TN.LATE_DROP_ALARM | 1 => TN.LATE_DROP_CONTROL | 2 => TN.LATE_DROP_TELEMETRY | _ => TN.LATE_DROP_BULK

/-- LATE_SUM counters by class (Table 12-12). -/
def lateSumF : Nat → Fld
  | 0 => RG.LATE_SUM_ALARM | 1 => RG.LATE_SUM_CONTROL | 2 => RG.LATE_SUM_TELEMETRY | _ => RG.LATE_SUM_BULK

/-- One late drop charged to a tenant: the counters of tenant and class, LATE_SUM, and LATE_DROP (R50, R745). -/
def countLate (tenant cls : Nat) (s : State) : State :=
  raise RG.IRQ_LATE TN.LATE_DROP tenant (bump (lateSumF cls) 0 (bump (lateDropF cls) tenant s))

/-- GAP_COUNT (R553): one late drop of a class goes to the gap register of queue `q`; a Clearing that takes effect in this CORE
cycle does not take it back (R572). -/
def countGap (q cls : Nat) (s : State) : State :=
  let t := qMap q (fun c => { c with gap := c.gap.late cls }) s
  { t with cyc := { t.cyc with late := t.cyc.late ++ [(q, cls)] } }

/-- A late drop whose gap marker goes to the tenant's own queue (R50). -/
def lateDrop (tenant cls : Nat) (s : State) : State := countGap (96 + tenant) cls (countLate tenant cls s)

/-! ### Sources of the Canopy -/

/-- The queue of a source: ports 0 to 47, and 50 for host injection; the card engines 48 and 49 have none. -/
def sourceQueue (src : Nat) : Option Nat :=
  if src < 48 then some src else if src = 50 then some 224 else none

/-- An absent card's engine. -/
def Card.empty : Card :=
  { det := none, inserted := false, debounceEnd := none, actStep := 0, due := 0, again := false, noPps := false,
    ppsFailed := false, endState := 0, rxBytes := [], txBytes := [], repeats := 0, stamp := none, rxEdge := 0, txEdge := 0,
    txAt := 0, wtFrom := 0, heard := false, errEdge := none,
    fi := 372, parity := false, dir := 0, hdr := [], hdrLeft := 0, moved := [], toSend := [], toRecv := 0, burst := 0, sw1 := none,
    sw2 := none, job := none, script := .none, got := [], rerun := false, badge := none, recs := [], goRec := none }

/-- Card port `n`. -/
def cGet (n : Nat) (s : State) : Card := lookup Card.empty n s.cards
/-- Change card port `n`. -/
def cMap (n : Nat) (f : Card → Card) (s : State) : State :=
  { s with cards := store Card.empty n (f (cGet n s)) s.cards }

/-- RECORD_RELEASE (R33, R34): the record at the head of a source leaves it, and the source is unblocked. A
card's exchange record gives GO back (R374). -/
def releaseSource (src n : Nat) (s : State) : State :=
  match sourceQueue src with
  | some q => bump CN.RECORDS_OUT q (qMap q (fun c => { c with inside := false }) (dropWords q n s))
  | none =>
    let k := src - 48
    let s := if (cGet k s).goRec = some 0 then putHw CD.GO k 0 s else s
    cMap k (fun c => { c with
      recs := c.recs.drop 1
      goRec := match c.goRec with | some (i + 1) => some i | _ => none }) s

/-- Change the waiting record of a source. -/
def releaseMap (src : Nat) (f : Release → Release) (s : State) : State :=
  { s with releases := s.releases.map fun r => if r.src = src then f r else r }

/-- The waiting record of a source. -/
def releaseOf (src : Nat) (s : State) : Option Release := s.releases.find? fun r => r.src == src

/-- A record with no destination left and no job left is released (R33). -/
def releaseDone (src : Nat) (s : State) : State :=
  match releaseOf src s with
  | some r =>
    if r.todo.isEmpty && r.jobs.isEmpty then
      releaseSource src r.words.length { s with releases := s.releases.filter fun x => x.src != src }
    else s
  | none => s

/-- Every destination of a record that has no job yet is settled as a late drop (R51). -/
def settleRecord (src : Nat) (s : State) : State :=
  match releaseOf src s with
  | some r =>
    let s := r.todo.foldl (fun a t => lateDrop t r.cls a) s
    releaseDone src (releaseMap src (fun x => { x with settled := x.settled + x.todo.length, todo := [] }) s)
  | none => s

/-- The CORE cycle in which Ring time reaches a deadline in ns. -/
def cycleOfNs (deadline : Nat) (s : State) : Nat :=
  match remaining deadline s with
  | none => s.now
  | some _ =>
    let d : Int := (((deadline * 2 ^ 32 : Nat) : Int) - (ringUnits s : Nat)) % ((2 ^ 32 * ringSecond : Nat) : Int)
    s.now + ceilDiv d.toNat (ringPerCycle s)

/-- WAITING_RECORD_SETTLE (R51): the clock runs on to the record's deadline; destinations without a job are
settled. -/
def waitingRecordSettle (src : Nat) (s : State) : State :=
  match releaseOf src s with
  | some r => if r.todo.isEmpty then s else settleRecord src (runTo (cycleOfNs r.deadline s) s)
  | none => s

/-- A job has retired: the record that it copies is released when it was the last (R33). -/
def jobRetired (id : Nat) (s : State) : State :=
  let s := { s with jobs := s.jobs.filter fun j => j.id != id }
  match s.releases.find? (fun r => r.jobs.contains id) with
  | some r => releaseDone r.src (releaseMap r.src (fun x => { x with jobs := x.jobs.filter (· != id) }) s)
  | none => s

/-- The CORE cycle in which the next RETIRING slot becomes IDLE. -/
def nextIdle (s : State) : Option Nat :=
  s.jobs.foldl (fun a j => match j.idleAt, a with
    | some t, some b => some (min t b)
    | some t, none => some t
    | none, a => a) none

/-- SLOT_IDLE (R449): the clock runs on to the CORE cycle in which the next RETIRING slot becomes IDLE; every
job whose slot becomes IDLE by then has retired. -/
def slotIdle (s : State) : State :=
  match nextIdle s with
  | none => s
  | some t =>
    let s := runTo t s
    let done := (s.jobs.filter fun j => match j.idleAt with | some x => decide (x ≤ s.now) | none => false).map Job.id
    done.foldl (fun a id => jobRetired id a) s

/-! ### Forward-copies -/

/-- The words that a forward-copy carries: the record as classified, without the flags that its source queue
set (R281, R480, R557). -/
def copyWords (ws : List QWord) : List QWord :=
  ws.zipIdx.map fun (w, i) => if i = 3 then { w with data := w.data &&& 0xFFFFE7FF#32 } else w

/-- The active forward-copy of a source to a tenant. -/
def forwardJob (src tenant : Nat) (s : State) : Option Job :=
  s.jobs.find? fun j => j.kind == .fwd && j.src == src && j.tenant == tenant && j.idleAt.isNone

/-- The copy's END word has been written: the deadline point of the job, DELIVERED and the tenant-class
counter (R49, Table 8-3, Table 16-2). -/
def forwardMet (j : Job) (s : State) : State :=
  endJob j.id (meetJob j.id (bump CN.TENANT_CLASS (4 * j.tenant + j.cls) (bump TN.DELIVERED j.tenant s)))

/-- FORWARD_COPY_DONE (R49, R74): the copy's words enter the destination queue as far as it accepts them; with
the END word written the job meets its deadline point, otherwise it stalls and keeps its slot.
DEDUCED (assumption 54). -/
def forwardCopyDone (src tenant : Nat) (s : State) : State :=
  match forwardJob src tenant s with
  | none => s
  | some j =>
    let q := 96 + tenant
    let s := if j.begun then writeMany q (qGet q s).wait.length s
      else offer q (.job j.id) (match releaseOf src s with
        | some r => copyWords r.words
        | none => []) (jobMap j.id (fun x => { x with begun := true }) s)
    if outside q (.job j.id) s = 0 then forwardMet j s else s

/-- The next forward job of a record in release: `rem` is the remaining deadline, `todo` the tenants still owed. -/
def spawnNext (src : Nat) (r : Release) (rem : Option Nat) (todo : List Nat) (s : State) : State :=
  match rem, todo with
  | none, _ => settleRecord src s
  | some rem, t :: rest =>
    let id := s.nextJob
    releaseMap src (fun x => { x with todo := rest, jobs := x.jobs ++ [id] })
      (spawnJob .fwd rem r.cls t src none s)
  | some _, [] => s

/-- The next destination of a waiting record gets its job (R41, R47); a deadline that has passed settles it
instead (R51). -/
def spawnForward (src : Nat) (s : State) : State :=
  match releaseOf src s with
  | some r => spawnNext src r (remaining r.deadline s) r.todo s
  | none => s

/-- JOB_LEDGER_READ (R454): the three slot terms and the kind counts are captured in one CORE cycle. -/
def jobLedgerRead (s : State) : State :=
  let r := retiringSlots s
  let s := put RG.JOB_IDLE 0 (idleSlots s) s
  let s := put RG.JOB_ACTIVE 0 (s.jobs.length - r) s
  let s := put RG.JOB_RETIRING 0 r s
  let s := put RG.KIND_FWD 0 (kindSlots .fwd s) s
  let s := put RG.KIND_POLL 0 (kindSlots .poll s) s
  let s := put RG.KIND_LISTEN 0 (kindSlots .listen s) s
  let s := put RG.KIND_UPLINK 0 (kindSlots .uplink s) s
  put RG.KIND_CARD 0 (kindSlots .card s) s

end Sys2Proof.Machine
end

