-- ==== Sys2Proof/Machine/Canopy.lean ====
section
/-! DEFINITION. The Canopy (8.1 to 8.4): matching, evaluation, the 48-cycle classification and its outcome,
and the removal of GAP words at the head of a source. -/

namespace Sys2Proof.Machine

/-! ### Matching (8.2) -/

/-- The bytes of a record, numbered from 0 at bits 31:24 of word 0 (R470). -/
def recBytes (ws : List QWord) : List Byte := ws.flatMap fun w => wordBytes w.data

/-- The four words of a rule field that takes four. -/
def cyWords (a b c d : Fld) (r : Nat) (s : State) : List Nat := [get a r s, get b r s, get c r s, get d r s]

/-- The 16 bytes of four words (R177). -/
def bytes16 (ws : List Nat) : List Byte := ws.flatMap fun w => beBytes 4 w

/-- The pattern window matches (R470, R471). -/
def windowMatches (value mask : List Byte) (start len : Nat) (rec_ : List Byte) : Bool :=
  ((value.zip mask).zipIdx).all fun ((v, m), j) =>
    m == 0#8 || (decide (start + j ≤ 15 + len) && ((rec_.getD (start + j) 0#8 &&& m) == (v &&& m)))

/-- SW1 of the card record that waits at the head of the source in header word 0 (Table 6-5). -/
def recSw1 (w0 : Word) (s : State) : Byte :=
  match (cGet (hdrPort w0 - 48) s).recs.head? with | some r => r.sw1 | none => 0#8

/-- A rule matches a record (R469). -/
def ruleMatches (r : Nat) (ws : List QWord) (s : State) : Bool :=
  let w0 := recWord ws 0
  let tl := get CY.TYPE_LEN r s
  let ty := typeBytes (recSw1 w0 s) (hdrGrammar w0) (recPayload ws)
  let rt := beBytes 4 (get CY.TYPE_HI r s) ++ beBytes 2 (get CY.TYPE_LO r s)
  flag CY.VALID r s &&
  (flag CY.PORT_ANY r s || get CY.PORT r s == hdrPort w0) &&
  (flag CY.GRAMMAR_ANY r s || get CY.GRAMMAR r s == hdrGrammar w0) &&
  (flag CY.TALKER_ANY r s || get CY.TALKER r s == hdrTalker w0) &&
  (rt.take tl == ty.take tl) &&
  windowMatches (bytes16 (cyWords CY.PAT_VALUE0 CY.PAT_VALUE1 CY.PAT_VALUE2 CY.PAT_VALUE3 r s))
    (bytes16 (cyWords CY.PAT_MASK0 CY.PAT_MASK1 CY.PAT_MASK2 CY.PAT_MASK3 r s))
    (4 * get CY.PAT_WORD r s) (hdrLength w0) (recBytes ws)

/-- The tenants of a rule's DELIVER mask. -/
def deliverOf (r : Nat) (s : State) : List Nat :=
  let m := cyWords CY.DELIVER0 CY.DELIVER1 CY.DELIVER2 CY.DELIVER3 r s
  (List.range 128).filter fun t => bitOf (m.getD (t / 32) 0) (t % 32)

/-! ### Evaluation (8.3) -/

/-- What an evaluation has gathered: the contributing rules in ascending order, the matched rules, and
whether it goes on. -/
structure Eval where
  contrib : List Nat
  matched : List Nat
  decim : Tbl Nat
  go : Bool
  deriving DecidableEq, Repr

/-- One rule of the evaluation (R472 to R474). -/
def evalRule (ws : List QWord) (s : State) (e : Eval) (r : Nat) : Eval :=
  if !e.go || !ruleMatches r ws s then e
  else
    let n := get CY.DECIM_N r s
    let k := lookup 0 r e.decim
    let pass := decide (n < 2) || k == 0
    { contrib := if pass then e.contrib ++ [r] else e.contrib
      matched := e.matched ++ [r]
      decim := if n < 2 then e.decim else store 0 r ((k + 1) % n) e.decim
      go := flag CY.CONTINUE r s && !(pass && flag CY.DROP r s) }

/-- The whole evaluation, rules in ascending index (R472). -/
def evaluate (ws : List QWord) (s : State) : Eval :=
  (List.range (Config.rules s.variant)).foldl (evalRule ws s) ⟨[], [], s.canopy.decim, true⟩

/-- The combined outcome (R475 to R479). -/
def combine (c : List Nat) (s : State) : ClassRes :=
  let all := (List.range 128).filter fun t => c.any fun r => (deliverOf r s).contains t
  let live := all.filter fun t => tenantOk s t && flag TN.EN t s
  { rule := c.headD 0
    cls := (least (c.map fun r => get CY.CLASS r s)).getD 0
    deliver := live
    masked := all.length - live.length
    talker := (c.find? fun r => flag CY.REWRITE r s).map fun r => get CY.REWRITE_TALKER r s
    deadlineMs := least ((c.map fun r => get CY.DEADLINE_MS r s).filter (· ≠ 0))
    logRule := c.find? fun r => flag CY.LOG r s
    noMatch := c.isEmpty
    drop := c.any fun r => flag CY.DROP r s }

/-! ### Sources (R31, R32) -/

/-- The sources of the variant, in order (R31). -/
def sources (s : State) : List Nat :=
  List.range (Config.ports s.variant) ++ (List.range (Config.cards s.variant)).map (48 + ·) ++ [50]

/-- The sources in the order in which the round-robin visits them after the last one served (R32, R487). -/
def visitOrder (s : State) : List Nat :=
  let l := sources s
  l.filter (fun x => decide (s.canopy.last < x)) ++ l.filter (fun x => decide (x ≤ s.canopy.last))

/-- A source is blocked until its classified record is released (R33). -/
def blocked (src : Nat) (s : State) : Bool :=
  (releaseOf src s).isSome || (match s.canopy.run with | some (r, _) => r == src | none => false)

/-- The record that a source offers. -/
def sourceRecord (src : Nat) (s : State) : Option (List QWord) :=
  match sourceQueue src with
  | some q => match headRecord q s with
    | some ws => if (ws.head?.map QWord.tag) == some .start then some ws else none
    | none => none
  | none => (cGet (src - 48) s).recs.head?.map CardRec.words

/-- A GAP word stands at the head of a source (R987). -/
def sourceGap (src : Nat) (s : State) : Bool :=
  match sourceQueue src with
  | some q => ((qGet q s).words.head?.map QWord.tag) == some .gap
  | none => false

/-- The Canopy may begin a visit: enabled, no classification in progress, no CANOPY words waiting (R485, R486), and
the CORE cycle after the last classification, effect or removal reached (R483, R485, R987). -/
def canopyFree (s : State) : Bool :=
  flag RG.CANOPY_EN 0 s && s.canopy.run.isNone && s.canopy.waitWrite.isNone && s.sys.phase != .paused &&
  decide (s.canopy.freeFrom ≤ s.now)

/-- The source that the round-robin visits next: the first that is not blocked and has a record, or a GAP word, at its head
(R32, R987). -/
def nextVisit (s : State) : Option Nat :=
  (visitOrder s).find? fun x => !blocked x s && ((sourceRecord x s).isSome || sourceGap x s)

/-- CLASSIFICATION_START (R483, R484): the record of the source that is visited next is taken and evaluated against the rule
table as it stands; DECIMATION and the match counts follow (R467, R473). While a GAP word stands there, its removal comes
first. -/
def classificationStart (s : State) : State :=
  if !canopyFree s then s
  else match (nextVisit s).filter (fun x => (sourceRecord x s).isSome) with
    | none => s
    | some src =>
      let ws := (sourceRecord src s).getD []
      let e := evaluate ws s
      let r := combine e.contrib s
      let s := e.matched.foldl (fun a i => bump CN.MATCH_CNT i a) s
      let s := { s with canopy := { s.canopy with run := some (src, s.now, r), last := src, decim := e.decim } }
      match sourceQueue src with
      | some q => qMap q (fun c => { c with inside := true }) s
      | none => s

/-- SOURCE_GAP_REMOVE (R987): the GAP word at the head of the source that is visited next is removed, and nothing counts it.
DEDUCED (assumption 142). -/
def sourceGapRemove (s : State) : State :=
  if !canopyFree s then s
  else match (nextVisit s).filter (fun x => sourceGap x s) with
    | none => s
    | some src => match sourceQueue src with
      | some q => dropWords q 1 { s with canopy := { s.canopy with last := src, freeFrom := s.now + 1 } }
      | none => s

/-- Header word 0 with a rewritten talker, header word 3 with RULE and CLASS (R480). -/
def resultWords (r : ClassRes) (ws : List QWord) : List QWord :=
  ws.zipIdx.map fun (w, i) =>
    if i = 0 then (match r.talker with
      | some t => { w with data := hdr0 (hdrGrammar w.data) (hdrPort w.data) t (hdrLength w.data) }
      | none => w)
    else if i = 3 then { w with data := hdr3 r.rule r.cls (hdrFlags w.data) } else w

/-- Counters of the classes (Table 8-4). -/
def classF : Nat → Fld
  | 0 => RG.ALARM_CNT | 1 => RG.CONTROL_CNT | 2 => RG.TELEMETRY_CNT | _ => RG.BULK_CNT

/-- LOG_MIRROR (R477): one mirror entry with the record as it stands after classification. -/
def mirrorRecord (rule : Nat) (ws : List QWord) (s : State) : State :=
  let p := (recPayload ws).take 16
  bump RG.LOG_CNT 0 (logMirror rule ((ws.take 4).map fun w => w.data.toNat) p.length
    ((wordsOfBytes (padTo 16 p)).map BitVec.toNat) s)

/-- CLASSIFICATION_END (R476 to R481, R510): the clock runs on to cycle 48; the record is released, or its
results are written and it goes to the job engine, settled at once when its deadline has passed (R68). -/
def classificationEnd (s : State) : State :=
  match s.canopy.run with
  | none => s
  | some (src, at_, r) =>
    let s := runTo (at_ + 47) s
    let s := { s with canopy := { s.canopy with run := none, freeFrom := s.now + 1 } }
    let raw := (sourceRecord src s).getD []
    let gone := r.noMatch || r.drop || r.deliver.isEmpty
    let ws := if gone then raw else resultWords r raw
    let s := match r.logRule with | some l => mirrorRecord l ws s | none => s
    let s := bump RG.CLASSIFIED_CNT 0 s
    let s := if r.drop then s else bumpBy RG.MASKED_CNT 0 r.masked s
    if gone then
      let f := if r.noMatch then RG.NOMATCH_CNT else if r.drop then RG.DROP_CNT else RG.EMPTY_CNT
      releaseSource src raw.length (bump f 0 s)
    else
      let s := bump (classF r.cls) 0 (bump CN.SOURCE_CLASS (4 * src + r.cls) s)
      let stamp := hdrStamp (recWord ws 1) (recWord ws 2)
      let deadline := stamp.total + (r.deadlineMs.getD (classDefaultMs r.cls)) * 1000000
      let s := { s with releases := s.releases ++ [⟨src, ws, deadline, r.cls, r.deliver, [], 0⟩] }
      if (remaining deadline s).isNone then settleRecord src (bump RG.LATE_CLASS_CNT 0 s) else s

end Sys2Proof.Machine
end

