-- ==== Sys2Proof/Machine/Crypto.lean ====
section
/-! DEFINITION. The published algorithms that the spec names and does not restate: AES-128 and AES-128-CMAC
(RFC 4493, R627), SHA-256 and ECDSA over P-256 (R820, R865). PRESUMED: taken from those standards. -/

namespace Sys2Proof.Machine.Crypto

/-! ### AES-128 -/

/-- The substitution table of AES. -/
def sboxTable : List Nat :=
  [0x63, 0x7c, 0x77, 0x7b, 0xf2, 0x6b, 0x6f, 0xc5, 0x30, 0x01, 0x67, 0x2b, 0xfe, 0xd7, 0xab, 0x76] ++
  [0xca, 0x82, 0xc9, 0x7d, 0xfa, 0x59, 0x47, 0xf0, 0xad, 0xd4, 0xa2, 0xaf, 0x9c, 0xa4, 0x72, 0xc0] ++
  [0xb7, 0xfd, 0x93, 0x26, 0x36, 0x3f, 0xf7, 0xcc, 0x34, 0xa5, 0xe5, 0xf1, 0x71, 0xd8, 0x31, 0x15] ++
  [0x04, 0xc7, 0x23, 0xc3, 0x18, 0x96, 0x05, 0x9a, 0x07, 0x12, 0x80, 0xe2, 0xeb, 0x27, 0xb2, 0x75] ++
  [0x09, 0x83, 0x2c, 0x1a, 0x1b, 0x6e, 0x5a, 0xa0, 0x52, 0x3b, 0xd6, 0xb3, 0x29, 0xe3, 0x2f, 0x84] ++
  [0x53, 0xd1, 0x00, 0xed, 0x20, 0xfc, 0xb1, 0x5b, 0x6a, 0xcb, 0xbe, 0x39, 0x4a, 0x4c, 0x58, 0xcf] ++
  [0xd0, 0xef, 0xaa, 0xfb, 0x43, 0x4d, 0x33, 0x85, 0x45, 0xf9, 0x02, 0x7f, 0x50, 0x3c, 0x9f, 0xa8] ++
  [0x51, 0xa3, 0x40, 0x8f, 0x92, 0x9d, 0x38, 0xf5, 0xbc, 0xb6, 0xda, 0x21, 0x10, 0xff, 0xf3, 0xd2] ++
  [0xcd, 0x0c, 0x13, 0xec, 0x5f, 0x97, 0x44, 0x17, 0xc4, 0xa7, 0x7e, 0x3d, 0x64, 0x5d, 0x19, 0x73] ++
  [0x60, 0x81, 0x4f, 0xdc, 0x22, 0x2a, 0x90, 0x88, 0x46, 0xee, 0xb8, 0x14, 0xde, 0x5e, 0x0b, 0xdb] ++
  [0xe0, 0x32, 0x3a, 0x0a, 0x49, 0x06, 0x24, 0x5c, 0xc2, 0xd3, 0xac, 0x62, 0x91, 0x95, 0xe4, 0x79] ++
  [0xe7, 0xc8, 0x37, 0x6d, 0x8d, 0xd5, 0x4e, 0xa9, 0x6c, 0x56, 0xf4, 0xea, 0x65, 0x7a, 0xae, 0x08] ++
  [0xba, 0x78, 0x25, 0x2e, 0x1c, 0xa6, 0xb4, 0xc6, 0xe8, 0xdd, 0x74, 0x1f, 0x4b, 0xbd, 0x8b, 0x8a] ++
  [0x70, 0x3e, 0xb5, 0x66, 0x48, 0x03, 0xf6, 0x0e, 0x61, 0x35, 0x57, 0xb9, 0x86, 0xc1, 0x1d, 0x9e] ++
  [0xe1, 0xf8, 0x98, 0x11, 0x69, 0xd9, 0x8e, 0x94, 0x9b, 0x1e, 0x87, 0xe9, 0xce, 0x55, 0x28, 0xdf] ++
  [0x8c, 0xa1, 0x89, 0x0d, 0xbf, 0xe6, 0x42, 0x68, 0x41, 0x99, 0x2d, 0x0f, 0xb0, 0x54, 0xbb, 0x16]

/-- SubBytes for one byte. -/
def sbox (b : Byte) : Byte := byte (sboxTable.getD b.toNat 0)

/-- Multiplication by x in the field of AES. -/
def xtime (b : Byte) : Byte := if b.toNat < 128 then b <<< 1 else (b <<< 1) ^^^ 0x1b#8

/-- Exclusive OR of two byte strings, byte by byte. -/
def xorList (a b : List Byte) : List Byte := (a.zip b).map fun (x, y) => x ^^^ y

/-- One round of the key schedule: the next four words from the last four. -/
def nextKey (rcon : Byte) (k : List Byte) : List Byte :=
  let t := ((k.drop 13 ++ (k.drop 12).take 1).map sbox)
  let t := xorList t [rcon, 0#8, 0#8, 0#8]
  let w0 := xorList (k.take 4) t
  let w1 := xorList ((k.drop 4).take 4) w0
  let w2 := xorList ((k.drop 8).take 4) w1
  let w3 := xorList ((k.drop 12).take 4) w2
  w0 ++ w1 ++ w2 ++ w3

/-- The eleven round keys. -/
def roundKeys (k : List Byte) : List (List Byte) :=
  go 10 0x01#8 k
where
  go : Nat → Byte → List Byte → List (List Byte)
    | 0, _, k => [k]
    | n + 1, r, k => k :: go n (xtime r) (nextKey r k)

/-- ShiftRows on a column-wise state. -/
def shiftRows (s : List Byte) : List Byte :=
  [0, 5, 10, 15, 4, 9, 14, 3, 8, 13, 2, 7, 12, 1, 6, 11].map fun i => s.getD i 0#8

/-- MixColumns for one column. -/
def mixColumn : List Byte → List Byte
  | [a, b, c, d] =>
    let t := a ^^^ b ^^^ c ^^^ d
    [a ^^^ t ^^^ xtime (a ^^^ b), b ^^^ t ^^^ xtime (b ^^^ c), c ^^^ t ^^^ xtime (c ^^^ d), d ^^^ t ^^^ xtime (d ^^^ a)]
  | l => l

/-- MixColumns. -/
def mixColumns (s : List Byte) : List Byte :=
  mixColumn (s.take 4) ++ mixColumn ((s.drop 4).take 4) ++ mixColumn ((s.drop 8).take 4) ++ mixColumn ((s.drop 12).take 4)

/-- AES-128 of one block. -/
def aes (key block : List Byte) : List Byte :=
  match roundKeys key with
  | [] => block
  | k0 :: ks => go ks (xorList block k0)
where
  go : List (List Byte) → List Byte → List Byte
    | [], s => s
    | [k], s => xorList (shiftRows (s.map sbox)) k
    | k :: ks, s => go ks (xorList (mixColumns (shiftRows (s.map sbox))) k)

/-- The subkey step of CMAC: doubling in the field of 128 bits. -/
def double (b : List Byte) : List Byte :=
  let n := beValue b
  beBytes 16 (if n < 2 ^ 127 then n * 2 else (n * 2 % 2 ^ 128) ^^^ 0x87)

/-- The CBC chain over whole blocks; `n` bounds their number. -/
def chain (key : List Byte) : Nat → List Byte → List Byte → List Byte
  | 0, x, _ => x
  | n + 1, x, m => if m.isEmpty then x else chain key n (aes key (xorList x (m.take 16))) (m.drop 16)

/-- AES-128-CMAC (RFC 4493). PRESUMED (assumption 58). -/
def cmac (key msg : List Byte) : List Byte :=
  let k1 := double (aes key (List.replicate 16 0#8))
  let k2 := double k1
  let n := if msg.isEmpty then 1 else ceilDiv msg.length 16
  let head := msg.take (16 * (n - 1))
  let tail := msg.drop (16 * (n - 1))
  let last := if tail.length = 16 then xorList tail k1
    else xorList (tail ++ [0x80#8] ++ List.replicate (15 - tail.length) 0#8) k2
  chain key n (List.replicate 16 0#8) (head ++ last)

/-! ### SHA-256 -/

/-- The round constants of SHA-256. -/
def shaK : List Nat :=
  [0x428a2f98, 0x71374491, 0xb5c0fbcf, 0xe9b5dba5, 0x3956c25b, 0x59f111f1, 0x923f82a4, 0xab1c5ed5] ++
  [0xd807aa98, 0x12835b01, 0x243185be, 0x550c7dc3, 0x72be5d74, 0x80deb1fe, 0x9bdc06a7, 0xc19bf174] ++
  [0xe49b69c1, 0xefbe4786, 0x0fc19dc6, 0x240ca1cc, 0x2de92c6f, 0x4a7484aa, 0x5cb0a9dc, 0x76f988da] ++
  [0x983e5152, 0xa831c66d, 0xb00327c8, 0xbf597fc7, 0xc6e00bf3, 0xd5a79147, 0x06ca6351, 0x14292967] ++
  [0x27b70a85, 0x2e1b2138, 0x4d2c6dfc, 0x53380d13, 0x650a7354, 0x766a0abb, 0x81c2c92e, 0x92722c85] ++
  [0xa2bfe8a1, 0xa81a664b, 0xc24b8b70, 0xc76c51a3, 0xd192e819, 0xd6990624, 0xf40e3585, 0x106aa070] ++
  [0x19a4c116, 0x1e376c08, 0x2748774c, 0x34b0bcb5, 0x391c0cb3, 0x4ed8aa4a, 0x5b9cca4f, 0x682e6ff3] ++
  [0x748f82ee, 0x78a5636f, 0x84c87814, 0x8cc70208, 0x90befffa, 0xa4506ceb, 0xbef9a3f7, 0xc67178f2]

/-- The initial hash value of SHA-256. -/
def shaH : List Nat := [0x6a09e667, 0xbb67ae85, 0x3c6ef372, 0xa54ff53a, 0x510e527f, 0x9b05688c, 0x1f83d9ab, 0x5be0cd19]

/-- Rotation to the right of a 32-bit value. -/
def rotr (n x : Nat) : Nat := (x / 2 ^ n) ||| (x * 2 ^ (32 - n) % 2 ^ 32)

/-- The message schedule, newest word first. -/
def schedule : Nat → List Nat → List Nat
  | 0, w => w
  | n + 1, w =>
    let a := w.getD 14 0
    let b := w.getD 1 0
    let s0 := rotr 7 a ^^^ rotr 18 a ^^^ (a / 2 ^ 3)
    let s1 := rotr 17 b ^^^ rotr 19 b ^^^ (b / 2 ^ 10)
    schedule n ((w.getD 15 0 + s0 + w.getD 6 0 + s1) % 2 ^ 32 :: w)

/-- One round on the eight working variables. -/
def shaRound (v : List Nat) (kw : Nat) : List Nat :=
  match v with
  | [a, b, c, d, e, f, g, h] =>
    let s1 := rotr 6 e ^^^ rotr 11 e ^^^ rotr 25 e
    let ch := (e &&& f) ^^^ ((2 ^ 32 - 1 - e) &&& g)
    let t1 := (h + s1 + ch + kw) % 2 ^ 32
    let s0 := rotr 2 a ^^^ rotr 13 a ^^^ rotr 22 a
    let mj := (a &&& b) ^^^ (a &&& c) ^^^ (b &&& c)
    [(t1 + s0 + mj) % 2 ^ 32, a, b, c, (d + t1) % 2 ^ 32, e, f, g]
  | l => l

/-- One block of the compression function. -/
def shaBlock (h : List Nat) (block : List Byte) : List Nat :=
  let w := (schedule 48 (((wordsOfBytes block).map BitVec.toNat).reverse)).reverse
  let v := ((shaK.zip w).map fun (k, x) => k + x).foldl shaRound h
  (h.zip v).map fun (a, b) => (a + b) % 2 ^ 32

/-- Whole blocks in order; `n` bounds their number. -/
def shaBlocks : Nat → List Nat → List Byte → List Nat
  | 0, h, _ => h
  | n + 1, h, m => if m.isEmpty then h else shaBlocks n (shaBlock h (m.take 64)) (m.drop 64)

/-- SHA-256 of a byte string. -/
def sha256 (m : List Byte) : List Byte :=
  let pad := m ++ [0x80#8] ++ List.replicate ((119 - m.length % 64) % 64) 0#8 ++ beBytes 8 (8 * m.length)
  (shaBlocks (pad.length / 64) shaH pad).flatMap (beBytes 4)

/-! ### ECDSA over P-256 -/

/-- The field prime of P-256. -/
def pP : Nat := 2 ^ 256 - 2 ^ 224 + 2 ^ 192 + 2 ^ 96 - 1
/-- The group order of P-256. -/
def pN : Nat := 0xffffffff00000000ffffffffffffffffbce6faada7179e84f3b9cac2fc632551
/-- The coefficient b of P-256. -/
def pB : Nat := 0x5ac635d8aa3a93e7b3ebbd55769886bc651d06b0cc53b0f63bce3c3e27d2604b
/-- The base point of P-256. -/
def pG : Nat × Nat :=
  (0x6b17d1f2e12c4247f8bce6e563a440f277037d812deb33a0f4a13945d898c296,
   0x4fe342e2fe1a7f9b8ee7eb4a7c0f9e162bce33576b315ececbb6406837bf51f5)

/-- Power modulo `m`, by squaring; `n` bounds the bits of the exponent. -/
def powMod (m : Nat) : Nat → Nat → Nat → Nat
  | 0, _, _ => 1
  | n + 1, b, e => (if e % 2 = 1 then b else 1) * powMod m n (b * b % m) (e / 2) % m

/-- Inverse modulo a prime. -/
def invMod (m a : Nat) : Nat := powMod m 256 (a % m) (m - 2)

/-- Subtraction modulo `m`. -/
def subMod (m a b : Nat) : Nat := (a + m - b % m) % m

/-- Addition on the curve; `none` is the point at infinity. -/
def addPoint : Option (Nat × Nat) → Option (Nat × Nat) → Option (Nat × Nat)
  | none, q => q
  | p, none => p
  | some (x1, y1), some (x2, y2) =>
    if x1 = x2 ∧ (y1 + y2) % pP = 0 then none
    else
      let l := if x1 = x2 then (3 * x1 * x1 + (pP - 3)) * invMod pP (2 * y1) % pP
        else subMod pP y2 y1 * invMod pP (subMod pP x2 x1) % pP
      let x := subMod pP (subMod pP (l * l % pP) x1) x2
      some (x, subMod pP (l * subMod pP x1 x % pP) y1)

/-- Multiplication by a scalar; `n` bounds its bits. -/
def mulPoint : Nat → Nat → Option (Nat × Nat) → Option (Nat × Nat)
  | 0, _, _ => none
  | n + 1, k, p => addPoint (if k % 2 = 1 then p else none) (mulPoint n (k / 2) (addPoint p p))

/-- A public key of 64 bytes names a point of the curve. -/
def onCurve (x y : Nat) : Bool :=
  decide (x < pP) && decide (y < pP) && (y * y % pP == (x * x * x + (pP - 3) * x + pB) % pP)

/-- ECDSA verification: a 64-byte key X then Y, a 32-byte hash, and a 64-byte signature r then s, each most
significant byte first. -/
def ecdsaOk (key hash sig : List Byte) : Bool :=
  let x := beValue (key.take 32)
  let y := beValue ((key.drop 32).take 32)
  let r := beValue (sig.take 32)
  let t := beValue ((sig.drop 32).take 32)
  if key.length ≠ 64 || sig.length ≠ 64 || !onCurve x y || r = 0 || pN ≤ r || t = 0 || pN ≤ t then false
  else
    let w := invMod pN t
    let u1 := beValue hash * w % pN
    let u2 := r * w % pN
    match addPoint (mulPoint 256 u1 (some pG)) (mulPoint 256 u2 (some (x, y))) with
    | none => false
    | some (a, _) => a % pN == r

end Sys2Proof.Machine.Crypto
end

