-- ==== Sys2Proof/Machine/Coppice.lean ====
section
/-! DEFINITION. The Coppice scheduler (chapter 7): scan groups and their boundaries, polls and their tries,
tenant commands, the transactions of a port, and predicted gaps. -/

namespace Sys2Proof.Machine

/-! ### State of polls, ports and groups -/

/-- A poll with nothing under way. -/
def PollRun.idle : PollRun := { st := .none, retries := 0, used := 0, dStep := none, slotWaited := false, job := none }

/-- The run of poll entry `i`. -/
def plGet (i : Nat) (s : State) : PollRun := lookup PollRun.idle i s.polls
/-- Change the run of poll entry `i`. -/
def plMap (i : Nat) (f : PollRun → PollRun) (s : State) : State :=
  { s with polls := store PollRun.idle i (f (plGet i s)) s.polls }

/-- A port with no transaction. -/
def CopPort.idle : CopPort := { txn := .none, cmds := [], burst := 0, lastTxn := 0, lastPoll := none, ending := none, gap := none }

/-- The scheduler's state of port `p`. -/
def copGet (p : Nat) (s : State) : CopPort := lookup CopPort.idle p s.cop
/-- Change the scheduler's state of port `p`. -/
def copMap (p : Nat) (f : CopPort → CopPort) (s : State) : State :=
  { s with cop := store CopPort.idle p (f (copGet p s)) s.cop }

/-- The talker of a poll entry. -/
def pollTalker (i : Nat) (s : State) : Nat := get PL.TALKER i s
/-- The port of a poll entry's talker. -/
def pollPort (i : Nat) (s : State) : Nat := get TK.PORT (pollTalker i s) s
/-- The group of a poll entry. -/
def pollGroup (i : Nat) (s : State) : Nat := get PL.GROUP i s

/-- The template bytes of a poll entry (R177). -/
def pollTemplate (i : Nat) (s : State) : List Byte :=
  (([PL.REQ0, PL.REQ1, PL.REQ2, PL.REQ3, PL.REQ4, PL.REQ5, PL.REQ6, PL.REQ7, PL.REQ8, PL.REQ9].flatMap
    fun f => beBytes 4 (get f i s))).take (get PL.REQ_LEN i s)

/-- The poll has ended and only holds its port (R423, R424). -/
def PollState.holds : PollState → Bool
  | .holding _ => true
  | _ => false

/-- The poll entries of the variant that have not ended. -/
def livePolls (s : State) : List Nat := (s.polls.filter fun e => e.2.st != .none && !e.2.st.holds).map Prod.fst

/-- The transaction of a port has ended (R413, R414, R442). -/
def endTxn (p : Nat) (s : State) : State :=
  copMap p (fun c => { c with
    txn := .none, lastTxn := s.now, lastPoll := match c.txn with | .poll i => some i | _ => none }) s

/-- End a job that may be absent. -/
def endJob? (j : Option Nat) (s : State) : State := match j with | some id => endJob id s | none => s

/-! ### The end of a poll (R426) -/

/-- Codes of Table 7-5. -/
inductive Outcome7
  | ok | noReply | bad | wrongTalker | late
  deriving DecidableEq, Repr

/-- The code of an outcome (Table 7-5). -/
def Outcome7.code : Outcome7 → Nat
  | .ok => 1 | .noReply => 2 | .bad => 3 | .wrongTalker => 4 | .late => 5

/-- The counters of poll, group and talker that match an outcome (R426, R427, Tables 7-1 to 7-3). -/
def countOutcome (i : Nat) (o : Outcome7) (s : State) : State :=
  let g := pollGroup i s
  let t := pollTalker i s
  match o with
  | .ok => bump GP.POLLS_OK g (bump PL.OK_CNT i s)
  | .noReply => bump TK.MISS_CNT t (bump GP.POLLS_FAIL g (bump PL.NOREPLY_CNT i s))
  | .bad | .wrongTalker => bump GP.POLLS_FAIL g (bump PL.BAD_CNT i s)
  | .late =>
    let s := bump RG.POLL_LATE_CNT 0 (bump TK.LATE_CNT t (bump GP.LATE_CNT g (bump PL.LATE_CNT i s)))
    let s := setBits GP.LATE g 1 s
    irq RG.IRQ_POLL (if g < 32 then setBits RG.LATE_GRP_LO 0 (2 ^ g) s else setBits RG.LATE_GRP_HI 0 (2 ^ (g - 32)) s)

/-- Change the run of a group. -/
def groupMap (g : Nat) (f : GroupRun → GroupRun) (s : State) : State :=
  { s with groups := s.groups.map fun (k, r) => if k = g then (k, f r) else (k, r) }

/-- A poll ends (R426): OUTCOME, TRIES_USED and the counters; `seen` is the RT_SEC of the reply that ended it
OK. Its job retires, now or, for an abort, when the line action ends. DEDUCED (assumption 48). -/
def endPoll (i : Nat) (o : Outcome7) (seen : Option Nat) (s : State) : State :=
  let r := plGet i s
  let s := put PL.OUTCOME i o.code (put PL.TRIES_USED i (min r.used 3) s)
  let s := countOutcome i o s
  let s := match seen with | some t => put PL.LAST_OK_SEC i t s | none => s
  let s := groupMap (pollGroup i s) (fun x =>
    if o = .late then { x with aborted := true } else { x with lastEnd := some s.now }) s
  plMap i (fun _ => PollRun.idle) (if o = .late then s else endJob? r.job s)

/-! ### Requests -/

/-- The characters that the present step of a poll sends: the template, or the data command aDk! (R424). -/
def pollRequest (i : Nat) (s : State) : List Byte :=
  match (plGet i s).dStep with
  | none => requestBytes (get PL.KIND i s) (pollTemplate i s)
  | some k => (pollTemplate i s).take 1 ++ [byte 0x44, byte (0x30 + k), byte 0x21]

/-- An SDI-12 request needs a break (R425), judged at its release. -/
def needsBreak (p : Nat) (addr : Byte) (s : State) : Bool :=
  let c := pGet p s
  !(c.sdiAddr == some addr && (match c.lastEnd with
    | some e => decide (s.now < e + cyclesMs (get RG.SDI_BREAK_GAP_MS 0 s))
    | none => false))

/-- A request record of the scheduler (R521). -/
def requestRecord (p talker : Nat) (bytes : List Byte) (brk : Bool) (s : State) : List QWord :=
  buildRecord (grammar p s) p talker (stampNow s) (if brk then fBREAK else 0) bytes

/-- Release a request into the port's transmit queue (R38, R413, R425); `crc` asks for the check of R310. -/
def releaseRequest (p talker kind : Nat) (bytes : List Byte) (owner : TxOwner) (crc : Bool) (s : State) : State :=
  let sdi := kind = 1 || kind = 2
  let brk := sdi && needsBreak p (bytes.getD 0 0#8) s
  let ws := requestRecord p talker bytes brk s
  let s := pMap p (fun c => { c with
    txq := c.txq ++ [owner]
    sdiCmd := if sdi then bytes else c.sdiCmd
    sdiCrc := crc
    sdiAddr := if sdi then some (bytes.getD 0 0#8) else none }) s
  offer (48 + p) .coppice ws s

/-- The transmit queue takes a record of the scheduler now (Table 9-4). -/
def queueTakes (p : Nat) (s : State) : Bool := accepts (48 + p) .coppice ⟨.start, 0#32⟩ s

/-- Release the present step of poll `i` as the transaction of its port. -/
def releasePoll (i : Nat) (s : State) : State :=
  let p := pollPort i s
  let k := get PL.KIND i s
  let crc := match sdiParse (pollTemplate i s), (plGet i s).dStep with
    | some .mc, some _ | some .cc, some _ => true
    | _, _ => false
  let s := releaseRequest p (pollTalker i s) k (pollRequest i s) (.poll i) crc s
  copMap p (fun c => { c with txn := .poll i }) (plMap i (fun r => { r with st := .active }) s)

/-! ### Tries (R419 to R424) -/

/-- The predicted end of a retry's window (R421), in CORE cycles. DEDUCED (assumption 50). -/
def predictedEnd (i : Nat) (s : State) : Nat :=
  let p := pollPort i s
  max s.now (earliestTx p s) + leadC p s + cyclesLine ((pollRequest i s).length * (pGet p s).txF.charLine) +
    tailC p s + cyclesMs (get PL.RESP_TO_MS i s)

/-- The CORE cycle of the next boundary of a poll's group. -/
def pollB (i : Nat) (s : State) : Nat :=
  match find (pollGroup i s) s.groups with
  | some r => boundaryCycle r s
  | none => s.now

/-- A try fails (R420, R421): a retry is owed, or the poll ends with the outcome. The transaction is over. -/
def tryFailed (i : Nat) (o : Outcome7) (s : State) : State :=
  let s := endTxn (pollPort i s) s
  if (plGet i s).retries < get PL.RETRIES i s && decide (predictedEnd i s < pollB i s) then
    plMap i (fun r => { r with st := .retry, retries := r.retries + 1, used := r.used + 1 }) s
  else endPoll i o none s

/-- The digits of a byte string as a number, when all are digits. -/
def digits (l : List Byte) : Option Nat :=
  if !l.isEmpty && l.all isDigit then some (l.foldl (fun a b => a * 10 + (b.toNat - 0x30)) 0) else none

/-- The announced wait in seconds of a measurement response (R422): address, ttt, then n or nn, CR LF. -/
def measureWait (cmd : Option SdiCmd) (resp : List Byte) : Option Nat :=
  let n := match cmd with | some .c | some .cc => 2 | _ => 1
  if resp.length = 6 + n && resp.drop (4 + n) == [0x0D#8, 0x0A#8] && (digits ((resp.drop 4).take n)).isSome then
    digits ((resp.drop 1).take 3)
  else none

/-- The measurement command holds the port while it waits (R423). -/
def holdsPort : Option SdiCmd → Bool
  | some .m | some .mc => true
  | _ => false

/-- A window that waits for a service request: every record that begins inside it has the command as its
prefix (R309). -/
def serviceWindow (talker : Nat) : Window := { talker := talker, closeAt := none, started := false, inRecord := false }

/-- A try succeeded (R419, R422 to R424): the poll ends OK, waits, or owes a data command. DEDUCED (assumption 49). -/
def tryOk (i : Nat) (seen : Option Nat) (payload : List Byte) (s : State) : State :=
  let p := pollPort i s
  let dc := get PL.D_COUNT i s
  if get PL.KIND i s = 2 then
    match (plGet i s).dStep with
    | some k =>
      let s := endTxn p s
      if k + 1 < dc then plMap i (fun r => { r with st := .dataOwed, dStep := some (k + 1), retries := 0 }) s
      else endPoll i .ok seen s
    | none =>
      let cmd := sdiParse (pollTemplate i s)
      match measureWait cmd (payload.drop (sdiPrefix payload)) with
      | none => tryFailed i .bad s
      | some ttt =>
        if dc = 0 then
          let u := (pGet p s).lastEnd.getD s.now + cyclesS ttt
          let s := endPoll i .ok seen s
          if holdsPort cmd then
            pMap p (fun c => { c with win := some (serviceWindow (pollTalker i s)) })
              (plMap i (fun r => { r with st := .holding u }) s)
          else endTxn p s
        else
          let until_ := (pGet p s).lastEnd.getD s.now + cyclesS ttt
          let s := plMap i (fun r => { r with st := .measuring until_ (holdsPort cmd), dStep := some 0, retries := 0 }) s
          if holdsPort cmd then pMap p (fun c => { c with win := some (serviceWindow (pollTalker i s)) }) s
          else endTxn p s
  else endPoll i .ok seen (endTxn p s)

/-- TRY_OUTCOME (R419, R420): a reply record judged. A reply of another talker is WRONG_TALKER, whatever its check; one that
resolves to no talker is BAD when its check fails, and WRONG_TALKER otherwise. DESIGN CHOICE (assumption 123). -/
def judgeTry (i : Nat) (r : Reply) (s : State) : State :=
  let bad := has r.flags fUNTERM || has r.flags fBAD || (get PL.KIND i s = 0 && !has r.flags fOK)
  if r.talker ≠ pollTalker i s && (r.talker ≠ 0xFFF || !bad) then tryFailed i .wrongTalker s
  else if bad then tryFailed i .bad s
  else tryOk i (some r.sec) r.bytes s

/-- A record received during an R423 wait: the service request ends the wait (R309, R423); any other leaves it. -/
def serviceRequest (i : Nat) (payload : List Byte) (s : State) : State :=
  let p := pollPort i s
  let resp := payload.drop (sdiPrefix payload)
  if resp == (pollTemplate i s).take 1 ++ [0x0D#8, 0x0A#8] then
    plMap i (fun r => if r.st.holds then PollRun.idle else { r with st := .dataOwed }) (endTxn p s)
  else pMap p (fun c => { c with win := some (serviceWindow (pollTalker i s)) }) s

/-- The line action of an aborted poll has ended, so its job retires (R431): no character of its reply is awaited and LDEn
is low. -/
def retireEnding (p : Nat) (s : State) : State :=
  if (copGet p s).ending.isSome && !(pGet p s).lateClose && !ldeHigh p s then
    copMap p (fun c => { c with ending := none }) (endJob? (copGet p s).ending s)
  else s

/-- A reply record whose END word is written goes to the scheduler (R413, R419, R437).
DEDUCED (assumption 44). -/
def judgeReply (p : Nat) (s : State) : State :=
  match (pGet p s).reply with
  | none => s
  | some r =>
    let s := pMap p (fun c => { c with reply := none }) s
    match (copGet p s).txn with
    | .none => s
    | .poll i => match (plGet i s).st with
      | .measuring _ _ | .holding _ => serviceRequest i r.bytes s
      | _ => judgeTry i r s
    | .cmd c => endTxn p (if (activeJob c.job s).isSome then endJob c.job (meetJob c.job s) else s)

/-- What the scheduler learns from the receive side of a port: an aborted poll's line action has ended, and a reply is
complete (R419, R431). -/
def judge (p : Nat) (s : State) : State := judgeReply p (retireEnding p s)

/-- A request record is lost before or while it is sent (R192, R549, R771): a poll's try fails with NO_REPLY,
and a command's job retires as dropped. -/
def ownerLost (p : Nat) (o : Option TxOwner) (s : State) : State :=
  match o with
  | some (.poll i) => if (copGet p s).txn == .poll i then tryFailed i .noReply s else s
  | some (.cmd id) =>
    match activeJob id s with
    | some j => endTxn p (endJob id (bump TN.CMD_DROP_CNT j.tenant s))
    | none => match (copGet p s).txn with
      | .cmd c => if c.job = id then endTxn p s else s
      | _ => s
  | _ => s

/-! ### Boundaries (R406 to R411, R427, Table 7-6) -/

/-- The reply of an aborted poll (Table 7-6, R429, R431): its record closes at the character in progress, or at
once where none is; a window with no reply closes. The result tells whether the line action has ended.
DEDUCED (assumption 138). -/
def abortReply (p : Nat) (s : State) : Bool × State :=
  let c := pGet p s
  match c.win with
  | none => (true, s)
  | some w =>
    if (c.rx.isSome || c.held.isSome) && (replyOpen p s || w.started) then
      (false, pMap p (fun x => { x with lateClose := true }) s)
    else (true, closeLate p 0 false s)

/-- The line action of Table 7-6 for an active transaction of an aborted poll. The result tells whether it
has ended, so that the job retires at once. -/
def abortLine (p i : Nat) (s : State) : Bool × State :=
  let c := pGet p s
  if c.txq.contains (.poll i) then
    (true, removeRequest p s)
  else if c.tx.owner == some (.poll i) && c.tx.phase != .idle then (false, cutTx p s)
  else abortReply p s

/-- POLL_ABORT (R427, R431): an unfinished poll ends LATE, with the line action of Table 7-6. -/
def abortPoll (i : Nat) (s : State) : State :=
  let r := plGet i s
  let p := pollPort i s
  let holds := (copGet p s).txn == .poll i
  let s := endPoll i .late none s
  if !holds then endJob? r.job s
  else
    let s := endTxn p s
    match r.st with
    | .active =>
      let (done, s) := abortLine p i s
      if done then endJob? r.job s else copMap p (fun c => { c with ending := r.job }) s
    | .measuring _ _ =>
      let (done, s) := abortReply p s
      if done then endJob? r.job s else copMap p (fun c => { c with ending := r.job }) s
    | _ => endJob? r.job s

/-- The unfinished polls of a group, in ascending index. -/
def unfinished (g : Nat) (s : State) : List Nat := (livePolls s).filter fun i => pollGroup i s == g

/-- A poll that has ended gives its port free at B (R431): a service request in progress is cut as Table 7-6 says. -/
def releaseHold (i : Nat) (s : State) : State :=
  plMap i (fun _ => PollRun.idle) (endTxn (pollPort i s) (abortReply (pollPort i s) s).2)

/-- No state of the old period survives B (R427, R431): unfinished polls are aborted and held ports are free. -/
def abortGroup (g : Nat) (s : State) : State :=
  let held := (s.polls.filter fun e => e.2.st.holds && pollGroup e.1 s == g).map Prod.fst
  each held releaseHold (each (unfinished g s) abortPoll s)

/-- A poll may become due: its port is enabled and its grammar fits (R411). -/
def pollFits (i : Nat) (s : State) : Bool :=
  flag PT.EN (pollPort i s) s && kindFits (get PL.KIND i s) (grammar (pollPort i s) s)

/-- A poll entry at B (R407, R411). DEDUCED (assumption 140). -/
def pollDue (g i : Nat) (s : State) : State :=
  if flag PL.EN i s && pollGroup i s == g then
    if pollFits i s then plMap i (fun _ => { PollRun.idle with st := .due }) s
    else raise RG.IRQ_POLL GP.SKIP g (put PL.OUTCOME i 6 s)
  else s

/-- The first aligned Ring time in ms at or after `lo`, past the wrap of the seconds where no earlier one is left (R123). -/
def alignedFrom (g lo : Nat) (s : State) : Nat :=
  let aligned (x : Nat) : Nat := x + (((get GP.PHASE_MS g s : Int) - x) % (get GP.PERIOD_MS g s : Int)).toNat
  if aligned lo < 2 ^ 32 * 1000 then aligned lo else aligned (lo - 2 ^ 32 * 1000)

/-- Whole milliseconds of Ring time. -/
def ringMs (s : State) : Nat := s.ring.sec * 1000 + ringNs s / 1000000

/-- The least whole millisecond of Ring time that lies half a period or more ahead (R126). -/
def halfAhead (g : Nat) (s : State) : Nat :=
  ceilDiv (2 * ringUnits s + get GP.PERIOD_MS g s * 1000000 * 2 ^ 32) (2 * 1000000 * 2 ^ 32)

/-- Fix a group's next boundary: aligned under R123 while the quality is 10, and otherwise one period ahead. A millisecond
that is itself aligned and has begun is not taken. DESIGN CHOICE (assumption 117). -/
def fixNext (g : Nat) (s : State) : State :=
  if get RG.QUALITY 0 s = 2 then
    groupMap g (fun r => { r with
      target := some (alignedFrom g (if r.realign then halfAhead g s else ringMs s + 1) s), realign := false }) s
  else groupMap g (fun r => { r with nextB := s.now + periodC g s, target := none, realign := false }) s

/-- SLACK_MS of a period that ends now (Table 7-2). -/
def slack (g : Nat) (s : State) : State :=
  match find g s.groups with
  | some r =>
    if !flag GP.RUNNING g s then s
    else if r.aborted then put GP.SLACK_MS g 0 s
    else match r.lastEnd with
      | some e => put GP.SLACK_MS g (min ((s.now - e) / cyclesMs 1) (2 ^ 22 - 1)) s
      | none => s
  | none => s

/-- What every boundary of a group does (R407, R408, R427): unfinished polls are aborted, and the group's registers take the
boundary. -/
def boundaryMarks (g : Nat) (s : State) : State :=
  let s := slack g (abortGroup g s)
  let s := groupMap g (fun r => { r with lastB := s.now, lastEnd := none, aborted := false }) s
  bump GP.PERIOD_CNT g (put GP.LAST_B_SEC g (stampNow s).sec (put GP.LAST_B_NS g (stampNow s).word2 s))

/-- The boundary B of a group (R407, R427): unfinished polls are aborted, the new period opens. -/
def boundary (g : Nat) (s : State) : State :=
  let s := put GP.RUNNING g 1 (boundaryMarks g s)
  fixNext g (each (List.range (Config.talkers s.variant)) (pollDue g) s)

/-- PERIOD_BOUNDARY (R407): the clock runs on to the group's boundary. -/
def periodBoundary (g : Nat) (s : State) : State :=
  match find g s.groups with
  | some r => boundary g (runTo (boundaryCycle r s) s)
  | none => s

/-- A group begins to run: with quality 10 its first boundary is aligned, otherwise it falls now (R123, R124).
DEDUCED (assumption 46). -/
def groupStart (g : Nat) (s : State) : State :=
  if (find g s.groups).isSome || !flag GP.EN g s || !flag RG.COP_EN 0 s then s
  else
    let r : GroupRun := { nextB := s.now, target := none, lastB := s.now, lastEnd := none, aborted := false, realign := false }
    let s := { s with groups := insert g r s.groups }
    if get RG.QUALITY 0 s = 2 then fixNext g s else boundary g s

/-- A group stops (R408): the write is a boundary that opens no new period, and RUNNING reads 0. -/
def groupStop (g : Nat) (s : State) : State :=
  let s := if (find g s.groups).isSome then boundaryMarks g s else s
  put GP.RUNNING g 0 { s with groups := erase g s.groups }

/-! ### Tenant commands (7.6) -/

/-- Why the scheduler refuses a command, as the reason of Table 10-5; `none` when it accepts it (R434).
DEDUCED (assumption 141). -/
def commandReason (talker kind : Nat) (noReply : Bool) (body : List Byte) (s : State) : Option Nat :=
  let p := get TK.PORT talker s
  if !talkerOk s talker then some 0x07
  else if !((kind = 0 || kind = 1 || kind = 3) && flag TK.VALID talker s &&
      templateOk kind noReply 0 (get TK.ADDR_KEY talker s) body && flag PT.EN p s && !flag PT.LST_EN p s &&
      kindFits kind (grammar p s) && flag RG.COP_EN 0 s && s.sys.phase != .paused) then some 0x09
  else if 8 ≤ (copGet p s).cmds.length || !slotBeyondReserve s then some 0x0A
  else none

/-- COMMAND_ACCEPT (R434, R435, R446): an accepted command gets its job and waits on its port; it ends a
granted gap. -/
def acceptCommand (tenant talker kind : Nat) (noReply : Bool) (body : List Byte) (s : State) : State :=
  let p := get TK.PORT talker s
  let dl := get TN.CONTROL_DL_MS tenant s * 1000000
  let id := s.nextJob
  let c : Cmd := { job := id, tenant := tenant, talker := talker, kind := kind, noReply := noReply, body := body,
                   deadline := (stampNow s).total + dl }
  let s := bump TN.CMD_ACC_CNT tenant (spawnJob .poll dl 1 tenant p none s)
  let s := if (copGet p s).gap.isSome then bump RG.GAP_BROKEN_CNT 0 s else s
  copMap p (fun x => { x with cmds := x.cmds ++ [c], gap := none }) s

/-- The waiting command that goes next: earliest deadline, then order of acceptance (R436). -/
def nextCmd : List Cmd → Option Cmd
  | [] => none
  | c :: r => match nextCmd r with
    | some d => if d.deadline < c.deadline then some d else some c
    | none => some c

/-- A command's first start bit has been sent (R441). -/
def commandSent (talker : Nat) (s : State) : State := bump RG.CMD_SENT_CNT 0 (bump TK.CMD_CNT talker s)

/-- The command with a job number on a port: waiting, or the transaction of the port. -/
def commandOf (p id : Nat) (s : State) : Option Cmd :=
  match (copGet p s).cmds.find? (fun c => c.job == id), (copGet p s).txn with
  | some c, _ => some c
  | none, .cmd c => if c.job = id then some c else none
  | none, _ => none

/-- A command's remaining time has reached 0 (R439 to R441): it never reaches the line when its request has
not started, and is sent whole when it has. The gap marker goes to the commanding tenant in class CONTROL. -/
def dropCommand (p : Nat) (j : Job) (s : State) : State :=
  let s := endJob j.id (bump TN.CMD_DROP_CNT j.tenant (lateDrop j.tenant 1 s))
  match commandOf p j.id s with
  | none => s
  | some c =>
    let s := bump TK.CMD_LATE_CNT c.talker s
    let t := txOf p s
    if (copGet p s).cmds.any (fun x => x.job == j.id) then
      copMap p (fun x => { x with cmds := x.cmds.filter fun y => y.job != j.id }) s
    else if (pGet p s).txq.contains (.cmd j.id) then
      let s := endTxn p s
      removeRequest p s
    else if t.owner == some (.cmd j.id) && !t.begun && t.phase != .tail then endTxn p (cutTx p s)
    else s

/-! ### Serving a port (R413, R414) -/

/-- The poll owes a retry or a data command. -/
def owes (i : Nat) (s : State) : Bool := (plGet i s).st == .retry || (plGet i s).st == .dataOwed

/-- The retry or data command that the poll whose transaction just ended on the port owes (R414, step 1). -/
def owedPoll (p : Nat) (s : State) : Option Nat :=
  match (copGet p s).lastPoll with
  | some i => if owes i s && pollPort i s == p then some i else none
  | none => none

/-- The polls due on a port, earliest period end first, then lowest index (R414, step 3); a poll whose data commands are
owed after an aC! or aCC! wait, with other transactions in between, stands among them. DEDUCED (assumption 47). -/
def duePoll (p : Nat) (s : State) : Option Nat :=
  ((livePolls s).filter fun i => ((plGet i s).st == .due || (owes i s && owedPoll p s != some i)) && pollPort i s == p).foldl
    (fun a i => match a with
      | none => some i
      | some b => if pollB i s < pollB b s then some i else some b) none

/-- The scheduler may begin a transaction on the port: it runs, the port is enabled for polls, no transaction
is under way, LDEn is low and any discarding of R429 has ended (R413, R432); no activation pause (R880).
DEDUCED (assumption 138). -/
def portFree (p : Nat) (s : State) : Bool :=
  portOk s p && flag RG.COP_EN 0 s && s.sys.phase != .paused && !s.sys.pmOut.contains (p / 8) &&
  !flag PT.LST_EN p s && (copGet p s).txn == .none && (copGet p s).ending.isNone && !ldeHigh p s && !(pGet p s).lateClose &&
  !((pGet p s).discardNoise && grammar p s != 2) && (pGet p s).txq.isEmpty && queueTakes p s

/-- The first request of a due poll takes its job slot and is released (R418, R451, R453); a poll with data commands owed has
its slot. -/
def startPoll (i : Nat) (s : State) : State :=
  if owes i s then releasePoll i (copMap (pollPort i s) (fun c => { c with burst := 0 }) s)
  else if anySlot s then
    let p := pollPort i s
    let id := s.nextJob
    let s := spawnJob .poll ((pollB i s - s.now) * 4) 2 0 p (some i) s
    releasePoll i (copMap p (fun c => { c with burst := 0 }) (plMap i (fun r => { r with job := some id }) s))
  else if (plGet i s).slotWaited then s
  else plMap i (fun r => { r with slotWaited := true }) (bump RG.SLOT_WAIT_CNT 0 s)

/-- A waiting command becomes the transaction of the port. -/
def startCommand (p : Nat) (c : Cmd) (s : State) : State :=
  let waits := (duePoll p s).isSome
  let s := copMap p (fun x => { x with
    cmds := x.cmds.filter fun y => y.job != c.job, txn := .cmd c
    burst := if waits then x.burst + 1 else 0 }) s
  releaseRequest p c.talker c.kind (requestBytes c.kind c.body) (.cmd c.job) false s

/-- TRANSACTION_START (R414, R436): an owed retry or data command, then commands, then due polls. -/
def transactionStart (p : Nat) (s : State) : State :=
  if !portFree p s then s
  else match owedPoll p s with
    | some i => releasePoll i s
    | none =>
      match nextCmd (copGet p s).cmds, duePoll p s with
      | some c, none => startCommand p c s
      | some c, some i => if (copGet p s).burst < get RG.CMD_BURST 0 s then startCommand p c s else startPoll i s
      | none, some i => startPoll i s
      | none, none => s

/-- RESPONSE_WINDOW_CLOSE (R416): no start edge was validated in time, so the try fails with NO_REPLY; a start edge that was
validated keeps a try's window open until the grammar completes its record, or B comes. A command whose window closes with
no reply is over. -/
def responseWindowClose (p : Nat) (s : State) : State :=
  let c := pGet p s
  match c.win with
  | none => s
  | some w =>
    let poll := match (copGet p s).txn with | .poll _ => true | _ => false
    if replyOpen p s || c.closed.any (fun x => x.isReply) || (w.started && (poll || c.rx.isSome || c.held.isSome)) then s
    else
      match (copGet p s).txn with
      | .poll i => match (plGet i s).st with
        | .measuring _ _ | .holding _ => s
        | _ => tryFailed i .noReply (pMap p (fun x => { x with win := none }) s)
      | .cmd x => endTxn p (endJob x.job (pMap p (fun x => { x with win := none }) s))
      | .none => pMap p (fun x => { x with win := none }) s

/-- The CORE cycle in which the window of a port closes, where the spec fixes it. -/
def windowDue (p : Nat) (s : State) : Option Nat := (pGet p s).win.bind Window.closeAt

/-- The wait of R423 that held the port is over; a record that has begun in its window keeps it. -/
def endWait (p : Nat) (s : State) : State :=
  endTxn p (pMap p (fun c => { c with win := if replyOpen p s then c.win else none }) s)

/-- MEASUREMENT_WAIT_END (R423, R424): the clock runs on to the end of the wait; the data commands follow. -/
def measurementWaitEnd (i : Nat) (s : State) : State :=
  match (plGet i s).st with
  | .measuring u holds =>
    let s := plMap i (fun r => { r with st := .dataOwed }) (runTo u s)
    if holds then endWait (pollPort i s) s else s
  | .holding u =>
    let s := plMap i (fun _ => PollRun.idle) (runTo u s)
    endWait (pollPort i s) s
  | _ => s

/-- The response window of a port opens (R413). For SDI-12 the discarding of a response that was cut off ends with it
(R284, R307); noise after an aborted reply is discarded to its LF (R429). DEDUCED (assumption 138). -/
def openWindow (p talker : Nat) (due : Option Nat) (s : State) : State :=
  let g := grammar p s
  pMap p (fun c => { c with
    discard := c.discard && (g != 3 || c.discardNoise)
    win := some { talker := talker, closeAt := due, started := false, inRecord := false } }) s

/-- A request record has been sent whole, or was cut: its transaction waits for the reply or ends (R413, R419,
R437). -/
def requestSent (p : Nat) (t : Tx) (s : State) : State :=
  match t.owner, (copGet p s).txn with
  | some (.poll i), .poll k =>
    if t.cut || i ≠ k then s
    else if flag PL.NO_REPLY i s then tryOk i none [] s
    else openWindow p (pollTalker i s) (some (s.now + cyclesMs (get PL.RESP_TO_MS i s))) s
  | some (.cmd id), .cmd c =>
    if t.cut || c.job ≠ id then s
    else if c.noReply then endTxn p (if (activeJob id s).isSome then endJob id (meetJob id s) else s)
    else openWindow p c.talker none s
  | _, _ => s

/-- TX_TAIL_END (R186, R413, R416, R437): LDEn falls; the response window opens, or a NO_REPLY try succeeds. -/
def txTailEnd (p : Nat) (s : State) : State :=
  let t := txOf p s
  if t.phase != .tail then s
  else
    let s := lowerLde p (runTo t.due s)
    let s := pMap p (fun c => { c with renderAfter := s.now + cyclesUs (get PT.LST_GAP_US p s) }) s
    servePendingBreak p (requestSent p t (retireEnding p s))

/-- TX_DISCARD (R549): a transmit record with a POISON word is never sent. -/
def txDiscard (p : Nat) (s : State) : State :=
  match headRecord (48 + p) s with
  | some ws =>
    if ws.any (fun w => w.tag == .poison) then
      let o := (pGet p s).txq.head?
      ownerLost p o (raise RG.IRQ_QUEUE RG.UQ_TX_DISC 0 (bump RG.TX_DISC_CNT 0 (discardTxHead p s)))
    else s
  | none => s

/-- A command's request sends its first start bit: it counts as sent (R441). -/
def countSent (p : Nat) (before : Tx) (s : State) : State :=
  match (txOf p s).owner, (copGet p s).txn with
  | some (.cmd id), .cmd c => if c.job = id && !before.begun && (txOf p s).begun then commandSent c.talker s else s
  | _, _ => s

/-- The transmit side of a write of EN = 0 (R173, R192); a pending copy is taken up once no character is being sent (R138). -/
def txDisable (p : Nat) (s : State) : State :=
  let t := txOf p s
  let s := pMap p (fun c => { c with brkWanted := false, brkHeld := false }) s
  let s := match t.phase with
    | .lead | .chars => ownerLost p t.owner (cutTx p s)
    | .brk | .mark | .leaveWait =>
      if t.directive then ownerLost p t.owner (cutTx p s) else cutTx p s
    | .held => txMap p (fun _ => Tx.idle) s
    | .idle | .tail => s
  put PT.TX_BREAK p 0 (if (txOf p s).phase = .chars then s else txTakeUp p s)

/-- A break request timed out (R771): no break is sent, and LDEn does not rise; a TX_BREAK that waited behind a record's
break begins (R173). -/
def breakTimeout (p : Nat) (s : State) : State :=
  let t := txOf p s
  if t.phase != .leaveWait then s
  else if t.directive then
    servePendingBreak p (ownerLost p t.owner (discardTxHead p (txMap p (fun _ => Tx.idle) s)))
  else putHw PT.TX_BREAK p 0 (pMap p (fun c => { c with tx := Tx.idle, brkHeld := false }) s)

/-- A Clearing of a port's transmit queue took its waiting records: their requests are lost, and a break that
waited for one of them withdraws its request (R569, R773). -/
def txCleared (p : Nat) (s : State) : State :=
  let owners := (pGet p s).txq
  let t := txOf p s
  let s := if t.phase = .leaveWait && t.directive then
      txMap p (fun _ => Tx.idle) (releaseLeave (.brk p) (withdrawLeave (.brk p) s))
    else if t.phase = .held && t.owner.isSome then txMap p (fun _ => Tx.idle) s else s
  servePendingBreak p
    (owners.foldl (fun a o => ownerLost p (some o) a) (pMap p (fun c => { c with txq := [], recHeld := false }) s))

/-- SCHEDULER_DISABLE (R457): every group stops, and waiting commands are dropped. -/
def schedulerStop (s : State) : State :=
  let s := each (s.groups.map Prod.fst) groupStop s
  let waiting := s.jobs.filter fun j => j.kind == .poll && j.poll.isNone && j.idleAt.isNone &&
    (copGet j.src s).cmds.any (fun c => c.job == j.id)
  waiting.foldl (fun a j => dropCommand j.src j a) s

/-- The scheduler starts: every enabled group begins to run. DEDUCED (assumption 140). -/
def schedulerStart (s : State) : State := each (List.range Config.groups) groupStart s

/-! ### Gap prediction (7.7) -/

/-- A port has a bit in QUIET. -/
def quietPort (p : Nat) (s : State) : Bool :=
  if p < 32 then bitOf (get RG.QUIET_LO 0 s) p else bitOf (get RG.QUIET_HI 0 s) (p - 32)

/-- The receiver has been idle for RX_TIMEOUT character times (R442). -/
def rxIdle (p : Nat) (s : State) : Bool :=
  let c := pGet p s
  let n := cyclesLine (halfBitsLine (get PT.RX_TIMEOUT p s * c.rxF.halfBits) c.rxF.inc)
  c.rx.isNone && c.held.isNone && (match c.lastRx with | some l => decide (l + n ≤ s.now) | none => true)

/-- Some enabled poll of the group names a talker on the port. -/
def groupOnPort (g p : Nat) (s : State) : Bool :=
  (List.range (Config.talkers s.variant)).any fun i => flag PL.EN i s && pollGroup i s == g && pollPort i s == p

/-- A gap is predicted on the port now (R442, R444): nothing is under way, owed, due or waiting. -/
def gapNow (p : Nat) (s : State) : Bool :=
  let c := copGet p s
  c.txn == .none && c.ending.isNone && c.cmds.isEmpty && (owedPoll p s).isNone && (duePoll p s).isNone &&
  (pGet p s).txq.isEmpty && (qGet (48 + p) s).count == 0 && !ldeHigh p s && (txOf p s).phase == .idle &&
  (quietPort p s || rxIdle p s)

/-- The CORE cycle in which the predicted gap of the port ends: the first boundary of an enabled group with a
poll on the port; `none` when unbounded (R443). -/
def gapEnd (p : Nat) (s : State) : Option Nat :=
  least' ((s.groups.filter fun e => groupOnPort e.1 p s).map fun e => boundaryCycle e.2 s)
where
  least' : List Nat → Option Nat
    | [] => none
    | a :: r => some (r.foldl min a)

/-- A gap of `len` CORE cycles can be granted on the port (R445, R447). DEDUCED (assumption 144). -/
def gapFits (p len : Nat) (s : State) : Bool :=
  gapNow p s && (match gapEnd p s with | some e => decide (s.now + len ≤ e) | none => true)

/-- Grant the gap (R445). -/
def grantGap (p : Nat) (s : State) : State :=
  bump RG.GAP_GRANT_CNT 0 (copMap p (fun c => { c with gap := some (gapEnd p s) }) s)

end Sys2Proof.Machine
end

