-- ==== Sys2Proof/Machine/Listener.lean ====
section
/-! DEFINITION. What the hardware consumers of tenant queues share, and the listener ports (5.9, 10.1):
taking a record, rendering it, and writing the render into the port's transmit queue. -/

namespace Sys2Proof.Machine

/-! ### Taking from a tenant queue -/

/-- What stands at the head of a tenant queue, as a hardware consumer takes it (R545, R551, R558). -/
inductive Taken
  /-- Nothing can be taken yet. -/
  | none
  /-- A GAP word: cause, class, count (Table 9-5). -/
  | gap (cause cls count : Nat)
  /-- A record whose word 0 is POISON, of so many words. -/
  | damaged (n : Nat)
  /-- A record that a GAP word ends early, of so many words. -/
  | abandoned (n : Nat)
  /-- A whole record, with POISON set in its word 3 where one of its words is POISON. -/
  | record (ws : List QWord)
  deriving DecidableEq, Repr

/-- Set POISON in word 3 of a consumer's own copy (R551). -/
def ownCopy (ws : List QWord) : List QWord :=
  if ws.any (fun w => w.tag == .poison) then
    ws.zipIdx.map fun (w, i) => if i = 3 then { w with data := w.data ||| poisonFlag } else w
  else ws

/-- What the consumer of queue `q` finds at its head. -/
def takeable (q : Nat) (s : State) : Taken :=
  let ws := (qGet q s).words
  match ws with
  | [] => .none
  | w :: _ =>
    if w.tag = .gap then .gap (bits w.data.toNat 30 2) (bits w.data.toNat 28 2) (bits w.data.toNat 0 16)
    else match extent ws with
      | none => .none
      | some n =>
        if w.tag = .poison then .damaged n
        else if n < 4 + ceilDiv (lengthOf w.data) 4 then .abandoned n
        else .record (ownCopy (ws.take n))

/-- Words of queue `q` that fail as a refill reads them from the store for their consumer (R544): `bad` lists places in the
queue and the bits as read. -/
def readFaults (q : Nat) (bad : List (Nat × BitVec 36)) (s : State) : State :=
  let c := qGet q s
  let faults := storeFaults c.head.length c.midWords.length bad
  faults.foldl (fun a _ => countPoison q a) (qSet q (c.mapWords (deliver faults)) s)

/-- The deadline of the record at the head of a tenant queue, as Ring time in ns. -/
def headDeadline (q : Nat) (s : State) : Nat := (qGet q s).deadlines.headD 0

/-- A hardware consumer takes a record out of its queue. -/
def takeOut (q n : Nat) (s : State) : State := bump CN.RECORDS_OUT q (dropWords q n s)

/-! ### Renders (5.9) -/

/-- The decimal digits of a number, at most `n` of them. -/
def decimalDigits : Nat → Nat → List Byte
  | 0, _ => []
  | n + 1, v => if v < 10 then [byte (0x30 + v)] else decimalDigits n (v / 10) ++ [byte (0x30 + v % 10)]

/-- A number below 2^32 in decimal digits, at least `n` of them. -/
def decimalPad (n v : Nat) : List Byte :=
  let d := decimalDigits 10 v
  List.replicate (n - d.length) 0x30#8 ++ d

/-- The bytes of an ASCII text. -/
def ascii (t : String) : List Byte := t.toList.map fun c => byte c.toNat

/-- The five characters of RENDER_ADDR. -/
def renderAddr (p : Nat) (s : State) : List Byte := beBytes 4 (get PT.RENDER_ADDR p s) ++ [byte (get PT.RENDER_ADDR5 p s)]

/-- Close a render: NMEA with its exclusive OR, Mark with its sum (R326, R327). -/
def sealRender (mark : Bool) (body : List Byte) : List Byte :=
  if mark then [0x23#8] ++ body ++ [0x26#8] ++ hex2 (sumBytes body) ++ [0x0D#8]
  else [0x24#8] ++ body ++ [0x2A#8] ++ hex2 (xorBytes body) ++ [0x0D#8, 0x0A#8]

/-- One payload byte of the Data field (R328). -/
def escapeByte (mark : Bool) (b : Byte) : List Byte :=
  let reserved := if mark then [0x23, 0x26, 0x2C, 0x5E] else [0x24, 0x21, 0x2A, 0x2C, 0x5C, 0x5E, 0x7E]
  if 0x20 ≤ b.toNat ∧ b.toNat ≤ 0x7E ∧ !reserved.contains b.toNat then [b] else [0x5E#8] ++ hex2 b.toNat

/-- As many escaped bytes as fit into `room` characters, with whether all did (R329). -/
def fitData (room : Nat) : List (List Byte) → List Byte × Bool
  | [] => ([], true)
  | e :: r => if e.length ≤ room then let (l, all) := fitData (room - e.length) r; (e ++ l, all) else ([], false)

/-- The wrapped fields before Data (Table 5-7), each with its comma. -/
def wrapFields (p : Nat) (ws : List QWord) (s : State) : List Byte :=
  let w0 := recWord ws 0
  let t := hdrStamp (recWord ws 1) (recWord ws 2)
  let c : List Byte := [0x2C#8]
  let flags := hdrFlags (recWord ws 3)
  renderAddr p s ++ c ++ decimalPad 2 (hdrPort w0) ++ c ++
    (if hdrTalker w0 = 0xFFF then ascii "----" else decimalPad 4 (hdrTalker w0)) ++ c ++
    decimalPad 1 (hdrGrammar w0) ++ c ++ hex2 (flags / 256) ++ hex2 (flags % 256) ++ c ++
    decimalPad 1 t.sec ++ [0x2E#8] ++ decimalPad 3 (t.ns / 1000000) ++ c

/-- A wrapped render and whether its Data field was cut (R327 to R329). -/
def wrapRender (p : Nat) (mark : Bool) (ws : List QWord) (s : State) : List Byte × Bool :=
  let f := wrapFields p ws s
  let fixed := f.length + (if mark then 5 else 6)
  let (d, all) := fitData (get PT.RENDER_MAXLEN p s - fixed) ((recPayload ws).map (escapeByte mark))
  (sealRender mark (f ++ d), !all)

/-- A Mark body render (R326): the payload without its '#', up to the last '&' or the CR, with a new sum. -/
def markRender (ws : List QWord) : List Byte :=
  let b := (recPayload ws).drop 1
  sealRender true (match splitLast 0x26 b with
    | some (before, _) => before
    | none => markBody b)

/-- The forms of Table 5-6. -/
inductive RenderForm
  | verbatim | wrapped | markBody
  deriving DecidableEq, Repr

/-- The render of a record grammar on a port grammar (Table 5-6). -/
def renderForm (rec_ port : Nat) : RenderForm :=
  if port = 0 then .verbatim
  else if port = 1 then (if rec_ = 1 then .verbatim else .wrapped)
  else if rec_ = 4 then .markBody else .wrapped

/-- A record that a verbatim or Mark body render skips (R330). -/
def renderSkips (p : Nat) (ws : List QWord) (s : State) : Bool :=
  let f := hdrFlags (recWord ws 3)
  renderForm (hdrGrammar (recWord ws 0)) (grammar p s) != .wrapped && !flag PT.PASS_BAD p s &&
    (has f fBAD || has f fPOISON || has f fOVERRUN || has f fTRUNC)

/-- The characters of a record on a listener port, and whether they were cut. -/
def renderOf (p : Nat) (ws : List QWord) (s : State) : List Byte × Bool :=
  match renderForm (hdrGrammar (recWord ws 0)) (grammar p s) with
  | .verbatim => (recPayload ws, false)
  | .wrapped => wrapRender p (grammar p s == 4) ws s
  | .markBody => (markRender ws, false)

/-! ### Listener ports (10.1) -/

/-- The tenant that a listener port serves (R36, R492). -/
def boundTenant (p : Nat) (s : State) : Option Nat :=
  (List.range (Config.tenants s.variant)).find? fun t =>
    flag TN.EN t s && get TN.CONSUMER t s == 3 && get TN.LISTEN_PORT t s == p

/-- A transmit record of a listener (R521, R589). -/
def offerRender (p : Nat) (bytes : List Byte) (s : State) : State :=
  let ws := buildRecord (grammar p s) p 0xFFF (stampNow s) 0 bytes
  offer (48 + p) (.listener p) ws (pMap p (fun c => { c with txq := c.txq ++ [.listener] }) s)

/-- The gap render of a listener port, where it sends one (R331, R591). DEDUCED (assumption 56). -/
def gapRender (p : Nat) (s : State) : State :=
  if flag PT.GAP_EMIT p s && (grammar p s == 1 || grammar p s == 4) then
    bump PT.GAP_RENDER_CNT p (offerRender p (sealRender (grammar p s == 4) (renderAddr p s ++ ascii ",GAP")) s)
  else s

/-- A record of a listener's tenant is dropped as late (R591): the gap marker goes to the transmit queue. -/
def listenerLate (p tenant cls : Nat) (s : State) : State :=
  let s := countGap (48 + p) cls (countLate tenant cls s)
  gapRender p (setBits PT.LST_LATE p 1 (bump PT.LST_LATE_CNT p s))

/-- The listener may take a record: it runs, its last job has retired, and none of its words waits. -/
def listenerFree (p : Nat) (s : State) : Bool :=
  portOk s p && flag PT.LST_EN p s && (pGet p s).render.isNone && outside (48 + p) (.listener p) s == 0 &&
  s.jobs.all (fun j => !(j.kind == .listen && j.src == p))

/-- A record the listener has reached, with its remaining deadline: late, skipped, or rendered once a slot is
idle beyond the reserve (R551, R589, R591). -/
def listenerTake (p t : Nat) (ws : List QWord) (rem : Option Nat) (s : State) : State :=
  let q := 96 + t
  let cls := hdrClass (recWord ws 3)
  match rem with
  | none => listenerLate p t cls (takeOut q ws.length s)
  | some rem =>
    if renderSkips p ws s then
      setBits PT.LST_SKIP p 1 (bump PT.SKIP_CNT p (takeOut q ws.length s))
    else if slotBeyondReserve s then
      let id := s.nextJob
      let r := renderOf p ws s
      pMap p (fun c => { c with render := some { job := id, bytes := r.1, cut := r.2, begun := false } })
        (spawnJob .listen rem cls t p none (takeOut q ws.length s))
    else s

/-- LISTENER_RENDER (R36, R551, R589, R591): the listener takes what stands at the head of its tenant's queue.
A record gets its job and its render, once a slot is idle beyond the reserve. DEDUCED (assumption 57). -/
def listenerRender (p : Nat) (bad : List (Nat × BitVec 36)) (s : State) : State :=
  match boundTenant p s with
  | none => s
  | some t =>
    let q := 96 + t
    if !listenerFree p s then s
    else
      let s := readFaults q bad s
      match takeable q s with
      | .none => s
      | .gap _ _ _ => gapRender p (dropWords q 1 s)
      | .damaged n => gapRender p (takeOut q n s)
      | .abandoned n => dropWords q n s
      | .record ws => listenerTake p t ws (remaining (headDeadline q s) s) s

/-- LISTENER_RENDER_DONE (R589, R592): the render is written into the transmit queue as far as it takes it;
with its last word written the job meets its deadline point and retires. -/
def listenerRenderDone (p : Nat) (s : State) : State :=
  match (pGet p s).render with
  | none => s
  | some r =>
    let s := if r.begun then writeMany (48 + p) (qGet (48 + p) s).wait.length s
      else offerRender p r.bytes (pMap p (fun c => { c with render := some { r with begun := true } }) s)
    if outside (48 + p) (.listener p) s = 0 then
      let s := bump PT.RENDERED_CNT p s
      let s := if r.cut then setBits PT.LST_CUT p 1 (bump PT.CUT_CNT p s) else s
      endJob r.job (meetJob r.job (pMap p (fun c => { c with render := none }) s))
    else s

/-- A listener job's remaining time reaches 0 before its render is written (R591). -/
def listenerExpired (j : Job) (s : State) : State :=
  let p := j.src
  let s := endJob j.id s
  match (pGet p s).render with
  | some r =>
    let s := if r.begun then
        pMap p (fun c => { c with txq := c.txq.dropLast }) (dropProducer (48 + p) (.listener p) s) else s
    listenerLate p j.tenant j.cls (pMap p (fun c => { c with render := none }) s)
  | none => s

/-- The transmit queue's line engine drops GAP words at its head and the records that they abandon (R559). -/
def dropTxAbandoned (p : Nat) : Nat → State → State
  | 0, s => s
  | n + 1, s => match takeable (48 + p) s with
    | .gap _ _ _ => dropTxAbandoned p n (dropWords (48 + p) 1 s)
    | .abandoned k => dropTxAbandoned p n (dropWords (48 + p) k s)
    | _ => s

end Sys2Proof.Machine
end

