-- ==== Sys2Proof/Machine/Uplink.lean ====
section
/-! DEFINITION. The Ethernet uplinks (10.2 to 10.8): frames, the network subset, tenant requests and their
checks, batches, datagrams, refusals, MDIO and the link. -/

namespace Sys2Proof.Machine

/-! ### State -/

/-- An uplink with nothing under way. -/
def Uplink.idle : Uplink :=
  { inbox := [], queue := [], build := none, sent := [], refuse := [], busyUntil := 0, ipId := 0,
    releaseAt := none, retryAt := none }

/-- Uplink `u`. -/
def uGet (u : Nat) (s : State) : Uplink := lookup Uplink.idle u s.uplinks
/-- Change uplink `u`. -/
def uMap (u : Nat) (f : Uplink → Uplink) (s : State) : State :=
  { s with uplinks := store Uplink.idle u (f (uGet u s)) s.uplinks }

/-- A tenant without a key, an open batch or a mirrored request. -/
def Tenant.empty : Tenant := { key := [], batch := none, rxTag := none }

/-- Tenant `t`. -/
def tGet (t : Nat) (s : State) : Tenant := lookup Tenant.empty t s.tenants
/-- Change tenant `t`. -/
def tMap (t : Nat) (f : Tenant → Tenant) (s : State) : State :=
  { s with tenants := store Tenant.empty t (f (tGet t s)) s.tenants }

/-- MODE is MIRROR (R608). -/
def mirror (s : State) : Bool := flag RG.UL_MODE 0 s

/-- The builder that answers for uplink `u`: its own in SPLIT, the one builder in MIRROR (R608).
DEDUCED (assumption 62). -/
def builderOf (u : Nat) (s : State) : Nat := if mirror s then 0 else u

/-- The uplinks that a builder sends on. -/
def macsOf (b : Nat) (s : State) : List Nat := if mirror s then [0, 1] else [b]

/-- Does uplink `u` serve tenant `t` (R608)? -/
def serves (u t : Nat) (s : State) : Bool :=
  get TN.CONSUMER t s == (if mirror s then 1 else u + 1)

/-- The peer of tenant `t` on uplink `u` (R611). -/
def peerOf (u t : Nat) (s : State) : Peer :=
  if u = 0 then ⟨beBytes 2 (get TN.PEER0_MAC_HI t s) ++ beBytes 4 (get TN.PEER0_MAC_LO t s), get TN.PEER0_IP t s, get TN.PEER0_PORT t s⟩
  else ⟨beBytes 2 (get TN.PEER1_MAC_HI t s) ++ beBytes 4 (get TN.PEER1_MAC_LO t s), get TN.PEER1_IP t s, get TN.PEER1_PORT t s⟩

/-- Write a peer: clash code S (R612, R640). -/
def setPeer (u t : Nat) (p : Peer) (s : State) : State :=
  let hi := beValue (p.mac.take 2)
  let lo := beValue ((p.mac.drop 2).take 4)
  if u = 0 then putHw TN.PEER0_IP t p.ip (putHw TN.PEER0_PORT t p.port (putHw TN.PEER0_MAC_HI t hi (putHw TN.PEER0_MAC_LO t lo s)))
  else putHw TN.PEER1_IP t p.ip (putHw TN.PEER1_PORT t p.port (putHw TN.PEER1_MAC_HI t hi (putHw TN.PEER1_MAC_LO t lo s)))

/-- The tenant has a peer on one of the listed uplinks. -/
def hasPeer (us : List Nat) (t : Nat) (s : State) : Bool := us.any fun u => (peerOf u t s).ip != 0

/-- The limit of R607 on the UDP payload of an uplink. -/
def payloadLimit (u : Nat) (s : State) : Nat := if flag UL.VLAN_EN u s then 1468 else 1472

/-- The limit for a builder's datagrams. -/
def builderLimit (b : Nat) (s : State) : Nat := (macsOf b s).foldl (fun a u => min a (payloadLimit u s)) 1472

/-! ### Frames (R594 to R607) -/

/-- CORE cycles of one byte on the wire: 80 ns at 100 Mb/s, 800 ns at 10 Mb/s. -/
def byteCycles (u : Nat) (s : State) : Nat := if flag UL.SPEED u s then 20 else 200

/-- The uplink's own Ethernet address. -/
def macAddr (u : Nat) (s : State) : List Byte := beBytes 2 (get UL.MAC_HI u s) ++ beBytes 4 (get UL.MAC_LO u s)

/-- The FCS as it is sent: CRC-32, least significant byte first. -/
def fcs (bs : List Byte) : List Byte := leBytes 4 (crc32 bs)

/-- A frame to send (R596, R601): addresses, tag, EtherType, payload, padding, FCS. -/
def buildFrame (u : Nat) (dst : List Byte) (pcp etherType : Nat) (payload : List Byte) (s : State) : List Byte :=
  let tag := if flag UL.VLAN_EN u s then [0x81#8, 0x00#8] ++ beBytes 2 (pcp * 2 ^ 13 + get UL.VID u s) else []
  let f := dst ++ macAddr u s ++ tag ++ beBytes 2 etherType ++ payload
  let f := f ++ List.replicate (60 - f.length) 0#8
  f ++ fcs f

/-- 16-bit big-endian words of a byte string, an odd last byte padded with 0. -/
def sum16 : List Byte → Nat
  | [] => 0
  | [a] => a.toNat * 256
  | a :: b :: r => a.toNat * 256 + b.toNat + sum16 r

/-- Fold a sum to 16 bits with end-around carry. -/
def foldCarry (n : Nat) : Nat := let m := n / 65536 + n % 65536; m / 65536 + m % 65536

/-- The Internet checksum. -/
def inetSum (bs : List Byte) : Nat := 0xFFFF - foldCarry (sum16 bs)

/-- An IPv4 packet (R605); the uplink's identification counter adds 1. -/
def ipPacket (u proto dst : Nat) (payload : List Byte) (s : State) : List Byte × State :=
  let head (ck : Nat) := [0x45#8, 0#8] ++ beBytes 2 (20 + payload.length) ++ beBytes 2 (uGet u s).ipId ++
    [0x40#8, 0#8, 64#8, byte proto] ++ beBytes 2 ck ++ beBytes 4 (get UL.IP_ADDR u s) ++ beBytes 4 dst
  (head (inetSum (head 0)) ++ payload, uMap u (fun x => { x with ipId := (x.ipId + 1) % 65536 }) s)

/-- The UDP checksum with its pseudo header. -/
def udpSum (src dst : Nat) (udp : List Byte) : Nat :=
  let c := inetSum (beBytes 4 src ++ beBytes 4 dst ++ [0#8, 17#8] ++ beBytes 2 udp.length ++ udp)
  if c = 0 then 0xFFFF else c

/-- A UDP datagram to a peer (R605, R606). -/
def udpFrame (u pcp : Nat) (p : Peer) (payload : List Byte) (s : State) : List Byte × State :=
  let udp (ck : Nat) := beBytes 2 (get RG.UDP_PORT 0 s) ++ beBytes 2 p.port ++ beBytes 2 (8 + payload.length) ++ beBytes 2 ck ++ payload
  let (ip, s) := ipPacket u 17 p.ip (udp (udpSum (get UL.IP_ADDR u s) p.ip (udp 0))) s
  (buildFrame u p.mac pcp 0x0800 ip s, s)

/-- CORE cycles a frame takes on the wire with preamble and interframe gap. -/
def wireTime (u n : Nat) (s : State) : Nat := (8 + n + 12) * byteCycles u s

/-- The uplink can send: enabled, and the link is up. -/
def linkUp (u : Nat) (s : State) : Bool := uplinkOk s u && flag UL.EN u s && flag UL.LINK_UP u s

/-- A frame of `n` bytes started in CORE cycle `at_` would still run when a pending refusal is due (R634).
DEDUCED (assumption 65). -/
def meetsRefusal (u n at_ : Nat) (s : State) : Bool :=
  (uGet u s).refuse.any fun r => decide (r.at_ < at_ + wireTime u n s)

/-- A frame goes to the MAC, after the frame before it (R596). -/
def sendFrame (u : Nat) (f : List Byte) (s : State) : State :=
  bump UL.TX_FRAMES u (uMap u (fun x => { x with
    sent := x.sent ++ [f], busyUntil := max s.now x.busyUntil + wireTime u f.length s }) s)

/-- Forget the frames of earlier commands. -/
def noFrames (s : State) : State := { s with uplinks := s.uplinks.map fun (k, x) => (k, { x with sent := [] }) }

/-- A reply that needs no leave: it goes out at once, or after pending refusals that it would meet (R625, R634). -/
def sendReply (u : Nat) (f : List Byte) (s : State) : State :=
  let start := (uGet u s).refuse.foldl (fun a r =>
    if r.at_ < a + wireTime u f.length s then max a (r.at_ + (8 + 66 + 12) * byteCycles u s) else a)
    (max s.now (uGet u s).busyUntil)
  bump UL.TX_FRAMES u (uMap u (fun x => { x with sent := x.sent ++ [f], busyUntil := start + wireTime u f.length s }) s)

/-! ### Reception (R595, R601 to R604, R616) -/

/-- A received frame without its FCS and its tag: destination, source, tag, EtherType, payload. -/
structure RxFrame where
  dst : List Byte
  src : List Byte
  tag : Option Nat
  etherType : Nat
  payload : List Byte
  deriving DecidableEq, Repr

/-- Take a frame apart. -/
def splitFrame (f : List Byte) : RxFrame :=
  let b := f.take (f.length - 4)
  let et := beValue ((b.drop 12).take 2)
  if et = 0x8100 then
    ⟨b.take 6, (b.drop 6).take 6, some (beValue ((b.drop 14).take 2)), beValue ((b.drop 16).take 2), b.drop 18⟩
  else ⟨b.take 6, (b.drop 6).take 6, none, et, b.drop 14⟩

/-- A frame that the MAC discards as an error (R595). -/
def frameBad (f : List Byte) (rxer : Bool) : Bool :=
  let tagged := beValue ((f.drop 12).take 2) = 0x8100
  rxer || decide (f.length < 64) || decide ((if tagged then 1522 else 1518) < f.length) ||
  f.drop (f.length - 4) != fcs (f.take (f.length - 4))

/-- The VLAN rule of R601. -/
def vlanOk (u : Nat) (f : RxFrame) (s : State) : Bool :=
  match f.tag with
  | some t => flag UL.VLAN_EN u s && t % 4096 == get UL.VID u s && f.etherType != 0x8100
  | none => !flag UL.VLAN_EN u s

/-- An IPv4 packet that R602 accepts: protocol, source, payload. -/
def ipAccept (u : Nat) (b : List Byte) (s : State) : Option (Nat × Nat × List Byte) :=
  let total := beValue ((b.drop 2).take 2)
  let proto := (b.getD 9 0#8).toNat
  if (b.getD 0 0#8).toNat = 0x45 ∧ beValue ((b.drop 6).take 2) % 0x4000 = 0 ∧ foldCarry (sum16 (b.take 20)) = 0xFFFF ∧
      20 ≤ total ∧ total ≤ b.length ∧ beValue ((b.drop 16).take 4) = get UL.IP_ADDR u s ∧ (proto = 1 ∨ proto = 17) then
    some (proto, beValue ((b.drop 12).take 4), (b.take total).drop 20)
  else none

/-- A UDP datagram that R604 accepts: source port and payload. -/
def udpAccept (src : Nat) (u : Nat) (b : List Byte) (s : State) : Option (Nat × List Byte) :=
  let n := beValue ((b.drop 4).take 2)
  let d := b.take n
  if 8 ≤ n ∧ n ≤ b.length ∧ beValue ((b.drop 2).take 2) = get RG.UDP_PORT 0 s ∧
      (beValue ((b.drop 6).take 2) = 0 ∨
        foldCarry (sum16 (beBytes 4 src ++ beBytes 4 (get UL.IP_ADDR u s) ++ [0#8, 17#8] ++ beBytes 2 n ++ d)) = 0xFFFF) then
    some (beValue (b.take 2), d.drop 8)
  else none

/-- A tenant request by its first bytes (R616). -/
def isRequest (p : List Byte) : Bool := decide (20 ≤ p.length) && p.take 3 == [0x1E#8, 0x7E#8, 0x01#8]

/-- An ARP request for Ethernet and IPv4 whose target is the uplink's address (R603). -/
def isArpRequest (u : Nat) (b : List Byte) (s : State) : Bool :=
  b.take 8 == [0#8, 1#8, 8#8, 0#8, 6#8, 4#8, 0#8, 1#8] && beValue ((b.drop 24).take 4) == get UL.IP_ADDR u s && decide (28 ≤ b.length)

/-- A frame passed on waits for its answer. DEDUCED (assumption 61). -/
def receive (u : Nat) (k : Inbound) (src : Peer) (bytes : List Byte) (s : State) : State :=
  uMap u (fun x => { x with inbox := x.inbox ++ [⟨k, s.now, stampNow s, src, bytes⟩] }) s

/-- An IPv4 packet received by the MAC (R602 to R604, R616). -/
def receiveIp (u : Nat) (mac : List Byte) (b : List Byte) (s : State) : State :=
  match ipAccept u b s with
  | none => bump UL.RX_DROP u s
  | some (proto, src, p) =>
    if proto = 1 then
      if (p.getD 0 0#8).toNat = 8 ∧ (p.getD 1 0#8).toNat = 0 then receive u .echo ⟨mac, src, 0⟩ p s else s
    else match udpAccept src u p s with
      | none => bump UL.RX_DROP u s
      | some (port, d) => if isRequest d then receive u .request ⟨mac, src, port⟩ d s else bump UL.RX_DROP u s

/-- ETH_FRAME_RECEIVED (R595, R601 to R604, R616): the last byte of a frame, FCS included, has arrived. -/
def ethFrameReceived (u : Nat) (f : List Byte) (rxer : Bool) (s : State) : State :=
  if !(uplinkOk s u && flag UL.EN u s) then s
  else if frameBad f rxer then bump UL.RX_ERR u s
  else
    let x := splitFrame f
    if x.dst != macAddr u s && x.dst != List.replicate 6 0xFF#8 then bump UL.RX_DROP u s
    else if !vlanOk u x s then bump UL.RX_DROP u s
    else if x.etherType = 0x0806 then
      let s := bump UL.RX_FRAMES u s
      if isArpRequest u x.payload s then
        receive u .arp ⟨(x.payload.drop 8).take 6, beValue ((x.payload.drop 14).take 4), 0⟩ x.src s else s
    else if x.etherType = 0x0800 then receiveIp u x.src x.payload (bump UL.RX_FRAMES u s)
    else s

/-- Take the oldest arrival that a predicate picks. -/
def takeArrival (p : Arrival → Bool) : List Arrival → Option (Arrival × List Arrival)
  | [] => none
  | a :: r => if p a then some (a, r) else (takeArrival p r).map fun (x, l) => (x, a :: l)

/-- Answer the oldest arrival that a predicate picks. -/
def answer (u : Nat) (p : Arrival → Bool) (f : Arrival → State → State) (s : State) : State :=
  match takeArrival p (uGet u s).inbox with
  | some (a, r) => f a (uMap u (fun x => { x with inbox := r }) (noFrames s))
  | none => s

/-! ### ARP and ICMP -/

/-- An ARP packet of the uplink: operation, target. -/
def arpPacket (u op : Nat) (mac : List Byte) (ip : Nat) (s : State) : List Byte :=
  [0#8, 1#8, 8#8, 0#8, 6#8, 4#8] ++ beBytes 2 op ++ macAddr u s ++ beBytes 4 (get UL.IP_ADDR u s) ++ mac ++ beBytes 4 ip

/-- ARP_REQUEST (R603, R606). -/
def arpRequest (u : Nat) (s : State) : State :=
  answer u (fun a => a.kind == .arp) (fun a s =>
    if linkUp u s then
      sendReply u (buildFrame u a.bytes (get UL.PCP_CONTROL u s) 0x0806 (arpPacket u 2 a.src.mac a.src.ip s) s) s
    else s) s

/-- ECHO_REQUEST (R603): the same identifier, sequence number and data. -/
def echoRequest (u : Nat) (s : State) : State :=
  answer u (fun a => a.kind == .echo) (fun a s =>
    if linkUp u s then
      let body := a.bytes.drop 4
      let msg (ck : Nat) := [0#8, 0#8] ++ beBytes 2 ck ++ body
      let (ip, s) := ipPacket u 1 a.src.ip (msg (inetSum (msg 0))) s
      bump UL.ECHO_CNT u (sendReply u (buildFrame u a.src.mac (get UL.PCP_CONTROL u s) 0x0800 ip s) s)
    else s) s

/-! ### Leave and order of datagrams (R625) -/

/-- A datagram may be built now: a batch has its job, and its tenant may still count (R506, R623). -/
def ready (d : Dgram) (s : State) : Bool := !d.waits && get TN.TX_CTR d.tenant s != 4294967295

/-- The ready datagram with the earliest deadline (R625). -/
def nextDgram (b : Nat) (s : State) : Option Dgram :=
  ((uGet b s).queue.filter fun d => ready d s).foldl (fun a d => match a with
    | none => some d
    | some x => if d.deadline < x.deadline then some d else some x) none

/-- DIE units a builder needs: 2 for each uplink at 100 Mb/s that carries the datagram (R762, Table 13-1). -/
def burstUnits (b : Nat) (s : State) : Nat := 2 * ((macsOf b s).filter fun u => flag UL.SPEED u s).length

/-- The datagram holds an ALARM or CONTROL record (R789). -/
def Dgram.urgent (d : Dgram) : Bool := d.classes.any fun c => decide (c ≤ 1)

/-- A builder with a datagram to build asks for its leave, unless it holds it, waits for it, or waits out a
timeout (R625). -/
def uplinkAsk (b : Nat) (s : State) : State :=
  match nextDgram b s with
  | none => s
  | some d =>
    if (uGet b s).build.isSome || (uGet b s).retryAt.isSome || burstUnits b s = 0 || isGranted (.burst b) s ||
        isWaiting (.burst b) s then s
    else requestLeave (.burst b) (burstUnits b s) (cyclesMs (get RG.UL_LEAVE_TO_MS 0 s)) d.urgent s

/-- Put a datagram into a builder's queue. -/
def queueDgram (b : Nat) (d : Dgram) (s : State) : State :=
  uplinkAsk b (uMap b (fun x => { x with queue := x.queue ++ [d] }) s)

/-- A datagram is dropped as late: one late drop for each class it carries (R623, R626). -/
def batchDropped (d : Dgram) (s : State) : State := d.classes.foldl (fun a c => lateDrop d.tenant c a) s

/-- The datagram that waits for its job and has the earliest deadline. -/
def nextWaiting (b : Nat) (s : State) : Option Dgram :=
  ((uGet b s).queue.filter Dgram.waits).foldl (fun a d => match a with
    | none => some d
    | some x => if d.deadline < x.deadline then some d else some x) none

/-- A datagram with its remaining deadline: dropped when that has passed, else it gets its job (R623, R626). -/
def askWith (b : Nat) (d : Dgram) (rem : Option Nat) (s : State) : State :=
  match rem with
  | none => batchDropped d (uMap b (fun x => { x with queue := x.queue.filter (· != d) }) s)
  | some rem =>
    let id := s.nextJob
    uplinkAsk b (uMap b (fun x => { x with
      queue := x.queue.map fun y => if y = d then { d with job := some id, waits := false } else y })
      (spawnJob .uplink rem (d.classes.foldl min 3) d.tenant b none s))

/-- JOB_SPAWN for uplinks (R452, R623): the waiting batch of builder `b` with the earliest deadline gets a build
job; one whose deadline has passed is dropped as late (R51, R626). -/
def spawnUplink (b : Nat) (s : State) : State :=
  match nextWaiting b s with
  | none => s
  | some d => askWith b d (remaining d.deadline s) s

/-! ### Batches (10.6) -/

/-- The bytes of an entry (R619). -/
def BEntry.bytes : BEntry → List Byte
  | .record ws => recBytes ws
  | .gap cause cls count => [0xF0#8, 0#8, 0#8, 0#8] ++ wordBytes (gapData cause cls count)
  | .late cls count => [0xF0#8, 0#8, 0#8, 0#8] ++ wordBytes (gapData 1 cls count)
where
  recBytes (ws : List QWord) : List Byte := ws.flatMap fun w => wordBytes w.data

/-- The length of an entry. -/
def BEntry.size : BEntry → Nat
  | .record ws => 4 * ws.length
  | .gap _ _ _ | .late _ _ => 8

/-- The UDP payload of a batch with these entries (Tables 10-2, 10-4). -/
def batchSize (es : List BEntry) : Nat := 24 + (es.map BEntry.size).sum

/-- A batch with nothing in it. -/
def Batch.new (due : Nat) : Batch := { entries := [], due := due, deadline := none, classes := [], alarm := false }

/-- Does one more entry fit (R607, R621)? A record left out that merges with the last entry takes no room (R620). -/
def fits (b : Nat) (x : Batch) (e : BEntry) (s : State) : Bool :=
  match x.entries.getLast?, e with
  | some (.late c n), .late d m => if c = d && decide (n + m ≤ 65535) then true else room
  | _, _ => room
where
  room : Bool := decide (batchSize (x.entries ++ [e]) ≤ builderLimit b s) && decide (x.entries.length < 255)

/-- Add an entry, merging consecutive entries for records of one class that are left out; a GAP word keeps an entry of its
own (R620). -/
def Batch.add (x : Batch) (e : BEntry) : Batch :=
  match x.entries.getLast?, e with
  | some (.late c n), .late d m =>
    if c = d && decide (n + m ≤ 65535) then { x with entries := x.entries.dropLast ++ [.late c (n + m)] }
    else { x with entries := x.entries ++ [e] }
  | _, _ => { x with entries := x.entries ++ [e] }

/-- Add a record with its class and deadline (R53, R54). -/
def Batch.addRecord (x : Batch) (ws : List QWord) (deadline : Nat) : Batch :=
  let cls := hdrClass (recWord ws 3)
  let x := x.add (.record ws)
  { x with classes := x.classes ++ [cls], alarm := x.alarm || decide (cls = 0),
           deadline := some (match x.deadline with | some d => min d deadline | none => deadline) }

/-- What the builder would take next from a tenant's queue, as an entry (R551, R620, R52). -/
def nextEntry (t : Nat) (s : State) : Option BEntry :=
  let q := 96 + t
  match takeable q s with
  | .none | .abandoned _ => none
  | .gap c k n => some (.gap c k n)
  | .damaged _ => some (.gap 3 0 1)
  | .record ws => match remaining (headDeadline q s) s with
    | none => some (.late (hdrClass (recWord ws 3)) 1)
    | some _ => some (.record ws)

/-- A record taken into a batch, with its remaining deadline: a late one leaves one late gap marker instead. -/
def takeRecord (t : Nat) (ws : List QWord) (d : Nat) (rem : Option Nat) (x : Batch) (s : State) : Batch × State :=
  let s' := takeOut (96 + t) ws.length s
  match rem with
  | none => (x.add (.late (hdrClass (recWord ws 3)) 1), countLate t (hdrClass (recWord ws 3)) s')
  | some _ => (x.addRecord ws d, s')

/-- The builder takes that entry into a batch. -/
def takeEntry (t : Nat) (x : Batch) (s : State) : Batch × State :=
  let q := 96 + t
  match takeable q s with
  | .none | .abandoned _ => (x, s)
  | .gap c k n => (x.add (.gap c k n), dropWords q 1 s)
  | .damaged n => (x.add (.gap 3 0 1), takeOut q n s)
  | .record ws => takeRecord t ws (headDeadline q s) (remaining (headDeadline q s) s) x s

/-- Drop records at the head that a GAP word abandons (R558). -/
def dropAbandoned (q : Nat) : Nat → State → State
  | 0, s => s
  | n + 1, s => match takeable q s with
    | .abandoned k => dropAbandoned q n (dropWords q k s)
    | _ => s

/-- The open batch closes by what it holds or by what stands at the head (R622, R54). -/
def mustClose (b t : Nat) (x : Batch) (s : State) : Bool :=
  x.alarm || decide (255 ≤ x.entries.length) ||
  (match nextEntry t s with | some e => !fits b x e s | none => false)

/-- R613: the builder takes records from the tenant's queue. -/
def builderTakes (b t : Nat) (s : State) : Bool :=
  uplinkOk s b && tenantOk s t && flag TN.EN t s && serves b t s && flag TN.PUSH t s &&
  get TN.TX_CTR t s != 4294967295 && hasPeer (macsOf b s) t s

/-- UPLINK_RECORD_TAKE (R52, R551, R620, R621): what stands at the head goes into the tenant's open batch, if it
fits; the batch opens with its first entry. -/
def uplinkRecordTake (u t : Nat) (bad : List (Nat × BitVec 36)) (s : State) : State :=
  let b := builderOf u s
  if !builderTakes b t s then s
  else
    let q := 96 + t
    let s := dropAbandoned q (qGet q s).count (readFaults q bad s)
    match nextEntry t s with
    | none => s
    | some e =>
      let x := (tGet t s).batch.getD (Batch.new (s.now + cyclesUs (get TN.BATCH_US t s)))
      if mustClose b t x s || !fits b x e s then s
      else
        let (x, s) := takeEntry t x s
        tMap t (fun y => { y with batch := some x }) s

/-- The bytes of a BATCH body after its FLAGS byte (Table 10-4). -/
def batchBody (es : List BEntry) : List Byte := byte es.length :: [0#8, 0#8] ++ es.flatMap BEntry.bytes

/-- A closed batch as a datagram that waits for its job (R53, R623). -/
def batchDgram (t : Nat) (x : Batch) (pull : Bool) (dest : List (Nat × Peer)) (s : State) : Dgram :=
  { tenant := t, typ := 0x80, body := byte (b2n pull) :: batchBody x.entries, job := none, waits := true,
    deadline := x.deadline.getD ((stampNow s).total + 10000000000), classes := x.classes, batch := true, dest := dest }

/-- The open batch of a tenant closes (R622, R623): a build job is spawned if a slot is idle beyond the reserve. -/
def closeBatch (b t : Nat) (dest : List (Nat × Peer)) (s : State) : State :=
  match (tGet t s).batch with
  | none => s
  | some x =>
    let s := tMap t (fun y => { y with batch := none }) s
    let s := uMap b (fun y => { y with queue := y.queue ++ [batchDgram t x false dest s] }) s
    if slotBeyondReserve s then spawnUplink b s else s

/-- The builder of a tenant's queue. -/
def builderOfTenant (t : Nat) (s : State) : Nat := if mirror s then 0 else get TN.CONSUMER t s - 1

/-- BATCH_CLOSE (R622): at once where the batch or the head record closes it, otherwise the clock runs on to the
end of BATCH_US. -/
def batchClose (t : Nat) (s : State) : State :=
  match (tGet t s).batch with
  | none => s
  | some x =>
    let b := builderOfTenant t s
    closeBatch b t [] (if mustClose b t x s then s else runTo x.due s)

/-! ### Requests (10.7, 10.8) -/

/-- A field of a tenant request. -/
def reqField (p : List Byte) (i n : Nat) : Nat := beValue ((p.drop i).take n)

/-- TYPE of a request. -/
def reqType (a : Arrival) : Nat := reqField a.bytes 3 1

/-- The BODY of a request. -/
def reqBody (p : List Byte) : List Byte := (p.drop 12).take (reqField p 6 2)

/-- BODY as Table 10-3 asks, and the rules on PULL (check 6). -/
def formOk (t typ : Nat) (b : List Byte) (s : State) : Bool :=
  match typ with
  | 1 => decide (b.length = 4) && decide (beValue b % 2 ^ 24 = 0) && decide ((b.getD 0 0#8).toNat ≤ 1)
  | 2 => decide (b.length = 4) && decide (beValue (b.drop 2) = 0) && !flag TN.PUSH t s
  | 3 =>
    let n := (b.getD 4 0#8).toNat
    decide (5 ≤ b.length) && decide (b.length = 5 + n) && decide (1 ≤ n) && decide (n ≤ 40) &&
    ([0, 1, 3].contains (b.getD 2 0#8).toNat) && decide ((b.getD 3 0#8).toNat ≤ 1)
  | 4 => decide (b.length = 4) && decide (1 ≤ beValue (b.drop 2)) && decide (beValue (b.drop 2) ≤ 64)
  | 5 => b.isEmpty
  | _ => false

/-- The talkers that a request names. -/
def reqTalkers (typ : Nat) (b : List Byte) : List Nat :=
  match typ with
  | 3 => [beValue (b.take 2)]
  | 4 => (List.range (beValue (b.drop 2))).map (beValue (b.take 2) + ·)
  | _ => []

/-- The tenant passes the ownership check for a talker (R497). -/
def owns (t k : Nat) (s : State) : Bool := t == 0 || (get TK.OWNER k s == t && flag TK.VALID k s)

/-- The TAG that a payload should carry (R627). -/
def tagOf (key payload : List Byte) : List Byte := (Crypto.cmac key payload).take 8

/-- The first failing check of Table 10-5 before the replay check, as reason and detail (checks 1 to 3).
DEDUCED (assumption 64). -/
def checkFront (u : Nat) (a : Arrival) (s : State) : Option Nat :=
  let p := a.bytes
  let len := reqField p 6 2
  let t := reqField p 4 2
  if p.length ≠ 20 + len ∨ payloadLimit u s < len then some 1
  else if !tenantOk s t || t = 0 || !flag TN.EN t s || !flag TN.KEY_SET t s || !serves u t s then some 2
  else if tagOf (tGet t s).key (p.take (12 + len)) ≠ p.drop (12 + len) then some 3
  else none

/-- The first failing check after the replay check, with the detail of Table 11-11 (checks 5 to 12). -/
def checkBack (u : Nat) (a : Arrival) (s : State) : Option (Nat × Nat) :=
  let p := a.bytes
  let t := reqField p 4 2
  let typ := reqType a
  let b := reqBody p
  if typ = 1 ∧ flag TN.PEER_PIN t s ∧ peerOf u t s ≠ a.src then some (5, 0xFFFF)
  else if !formOk t typ b s then some (6, 0xFFFF)
  else match (reqTalkers typ b).find? (fun k => !talkerOk s k) with
    | some k => some (7, k)
    | none => match (reqTalkers typ b).find? (fun k => !owns t k s) with
      | some k => some (8, k)
      | none =>
        let cmd := if typ = 3 then
            commandReason (beValue (b.take 2)) (b.getD 2 0#8).toNat ((b.getD 3 0#8).toNat = 1) (b.drop 5) s
          else none
        match cmd with
        | some r => some (r, get TK.PORT (beValue (b.take 2)) s)
        | none =>
          if flag UL.LEAVE_DENIED (builderOf u s) s then some (11, 0xFFFF)
          else if get TN.TX_CTR t s = 4294967295 then some (12, 0xFFFF)
          else none

/-- REFUSAL_LOG_ENTRY (R695): the whole entry, NEXT_SEQ and the reason's count; IRQ bit REFUSAL. -/
def logRefusal (u reason detail rxCtr : Nat) (a : Arrival) (s : State) : State :=
  let p := a.bytes
  let t := reqField p 4 2
  let n := get RL.NEXT_SEQ 0 s
  let e := [word a.stamp.sec, word a.stamp.word2,
    word (reason * 2 ^ 24 + reqType a * 2 ^ 16 + u * 2 ^ 8 + (if tenantOk s t then 128 else 0) + t % 128),
    word a.src.ip, word (a.src.port * 2 ^ 16 + detail), word (reqField p 8 4), word rxCtr, word n]
  let s := { s with logs := { s.logs with ref := insert (n % 512) e s.logs.ref } }
  irq RG.IRQ_REFUSAL (bump RL.REASON_CNT reason (put RL.NEXT_SEQ 0 (n + 1) s))

/-- A request is refused (R495, R631 to R633): the log entry, the tenant's count and bit, and the uniform
refusal, due 250 µs after the request's last byte. -/
def refuseRequest (u reason detail : Nat) (a : Arrival) (s : State) : State :=
  let p := a.bytes
  let t := reqField p 4 2
  let s := logRefusal u reason detail (if tenantOk s t then get TN.RX_CTR t s else 0) a s
  let s := if tenantOk s t then setBits TN.REFUSED t 1 (bump TN.REFUSED_CNT t s) else s
  let s := if reason = 9 ∨ reason = 10 then bump RG.CMD_REFUSED_CNT 0 s else s
  let payload := [0x1E#8, 0x7E#8, 0x01#8, 0x0F#8] ++ (p.drop 4).take 2 ++ [0#8, 0#8] ++ (p.drop 8).take 4 ++ List.replicate 8 0#8
  let (f, s) := udpFrame u (get UL.PCP_CONTROL u s) a.src payload s
  uMap u (fun x => { x with refuse := x.refuse ++ [⟨a.at_ + cyclesUs 250, f⟩] }) s

/-- A reply to a request: a datagram without a job, to the request's source (R606, R617, R637).
DEDUCED (assumption 63). -/
def reply (u : Nat) (a : Arrival) (typ : Nat) (body : List Byte) (s : State) : State :=
  queueDgram (builderOf u s)
    { tenant := reqField a.bytes 4 2, typ := typ, body := body, job := none, waits := false,
      deadline := a.stamp.total + 300000, classes := [], batch := false, dest := [(u, a.src)] } s

/-- The 16 bytes of STATUS_ACK (Table 10-3). -/
def statusBody (u t : Nat) (s : State) : List Byte :=
  let q := 96 + t
  let c := qGet q s
  let flags := get TN.PUSH t s + 2 * b2n (tGet t s).batch.isSome + 4 * b2n (!c.wait.isEmpty) + 8 * get QU.CLEAR q s
  beBytes 4 c.count ++ beBytes 4 c.used ++ beBytes 4 (borrowed q s) ++ [byte flags, byte u, 0#8, 0#8]

/-- A talker's 12 bytes of TALKER_ACK (Table 10-3). -/
def talkerBody (k : Nat) (s : State) : List Byte :=
  beBytes 4 (get TK.LAST_SEEN_SEC k s) ++ beBytes 4 (get TK.RECORD_CNT k s) ++ beBytes 2 (get TK.MISS_CNT k s) ++
  beBytes 2 (get TK.LATE_CNT k s)

/-- The builder fills the BATCH of a PULL: at most `n` records, as long as the next one fits (R624). -/
def pullTake (b t : Nat) : Nat → Nat → Batch → State → Batch × State
  | 0, _, x, s => (x, s)
  | fuel + 1, n, x, s =>
    let s := dropAbandoned (96 + t) (qGet (96 + t) s).count s
    match nextEntry t s with
    | none => (x, s)
    | some e =>
      if !fits b x e s then (x, s)
      else match e with
        | .record _ => if n = 0 then (x, s) else
            let (x, s) := takeEntry t x s
            pullTake b t fuel (n - 1) x s
        | .gap _ _ _ | .late _ _ =>
            let (x, s) := takeEntry t x s
            pullTake b t fuel n x s

/-- SUBSCRIBE accepted (R612): the peer and PUSH, then SUB_ACK. -/
def doSubscribe (u : Nat) (a : Arrival) (s : State) : State :=
  let t := reqField a.bytes 4 2
  let s := put TN.PUSH t ((reqBody a.bytes).getD 0 0#8).toNat (setPeer u t a.src s)
  reply u a 0x81 (statusBody u t s) s

/-- PULL accepted (R624): one BATCH, to the request's source. -/
def doPull (u : Nat) (bad : List (Nat × BitVec 36)) (a : Arrival) (s : State) : State :=
  let t := reqField a.bytes 4 2
  let b := builderOf u s
  let m := reqField (reqBody a.bytes) 0 2
  let s := readFaults (96 + t) bad s
  let (x, s) := pullTake b t (qGet (96 + t) s).count (if m = 0 then 255 else m) (Batch.new s.now) s
  let s := uMap b (fun y => { y with queue := y.queue ++ [batchDgram t x true [(u, a.src)] s] }) s
  if slotBeyondReserve s then spawnUplink b s else s

/-- COMMAND accepted (R618): the command goes to the scheduler, then CMD_ACK with the time of acceptance. -/
def doCommand (u : Nat) (a : Arrival) (s : State) : State :=
  let t := reqField a.bytes 4 2
  let b := reqBody a.bytes
  let now := stampNow s
  let s := acceptCommand t (beValue (b.take 2)) (b.getD 2 0#8).toNat ((b.getD 3 0#8).toNat = 1) (b.drop 5) s
  reply u a 0x83 (beBytes 4 now.sec ++ beBytes 4 now.word2) s

/-- TALKER_STATUS accepted (R498). -/
def doTalkerStatus (u : Nat) (a : Arrival) (s : State) : State :=
  reply u a 0x84 ((reqTalkers 4 (reqBody a.bytes)).flatMap fun k => talkerBody k s) s

/-- STATUS accepted (R617). -/
def doStatus (u : Nat) (a : Arrival) (s : State) : State :=
  reply u a 0x85 (statusBody u (reqField a.bytes 4 2) s) s

/-- A copy of a request that MIRROR discards without reply (R630). -/
def mirrorCopy (a : Arrival) (s : State) : Bool :=
  let t := reqField a.bytes 4 2
  mirror s && reqField a.bytes 8 4 == get TN.RX_CTR t s &&
  (match (tGet t s).rxTag with
    | some (tag, at_) => tag == a.bytes.drop (12 + reqField a.bytes 6 2) && decide (a.at_ ≤ at_ + cyclesS 1)
    | none => false)

/-- One tenant request through the checks of Table 10-5 in order (R505, R631); `act` is its effect. -/
def judgeRequest (u : Nat) (act : Arrival → State → State) (a : Arrival) (s : State) : State :=
  let t := reqField a.bytes 4 2
  let ctr := reqField a.bytes 8 4
  match checkFront u a s with
  | some r => refuseRequest u r 0xFFFF a s
  | none =>
    if mirrorCopy a s then bump RG.MIRROR_DUP_CNT 0 s
    else if ctr ≤ get TN.RX_CTR t s then
      refuseRequest u 4 0xFFFF a
        (if get TN.RX_CTR t s = 4294967295 then setBits TN.CTR_EXHAUST t 1 s else s)
    else
      let s := put TN.RX_CTR t ctr s
      let s := tMap t (fun x => { x with rxTag := some (a.bytes.drop (12 + reqField a.bytes 6 2), a.at_) }) s
      let s := if ctr = 4294967295 then setBits TN.CTR_EXHAUST t 1 s else s
      match checkBack u a s with
      | some (r, d) => refuseRequest u r d a s
      | none => act a s

/-- The oldest request of a TYPE, or of a TYPE that no row names, is judged. DEDUCED (assumption 60). -/
def onRequest (u typ : Nat) (act : Arrival → State → State) (s : State) : State :=
  answer u (fun a => a.kind == .request && (reqType a == typ || !([1, 2, 3, 4, 5].contains (reqType a))))
    (judgeRequest u act) s

/-- REFUSAL_SEND (R633, R635): the clock runs on to the refusal's due time; it is sent, or lost while the link is
down. -/
def refusalSend (u : Nat) (s : State) : State :=
  match (uGet u s).refuse with
  | [] => s
  | r :: rest =>
    let s := runTo r.at_ (noFrames s)
    let s := uMap u (fun x => { x with refuse := rest }) s
    if linkUp u s then bump UL.REFUSE_SENT u (sendFrame u r.frame s) else bump UL.REFUSE_LOST u s

/-! ### Building and handing off (R625, R626) -/

/-- The UDP payload of a datagram with its replay counter and TAG (Table 10-2, R504, R506, R627). -/
def payloadOf (d : Dgram) (ctr : Nat) (s : State) : List Byte :=
  let more := if (qGet (96 + d.tenant) s).count = 0 then 0 else 2
  let body := if d.batch then byte ((d.body.getD 0 0#8).toNat + more) :: d.body.drop 1 else d.body
  let p := [0x1E#8, 0x7E#8, 0x01#8, byte d.typ] ++ beBytes 2 d.tenant ++ beBytes 2 body.length ++ beBytes 4 ctr ++ body
  p ++ tagOf (tGet d.tenant s).key p

/-- DATAGRAM_BUILD (R625): with its leave granted, or at 10 Mb/s, the builder builds the datagram with the
earliest deadline; TX_CTR adds 1. -/
def datagramBuild (u : Nat) (s : State) : State :=
  let b := builderOf u s
  if (uGet b s).build.isSome || !(burstUnits b s = 0 || mayStart (.burst b) s) then s
  else match nextDgram b s with
    | none => s
    | some d =>
      let ctr := get TN.TX_CTR d.tenant s + 1
      let s := put TN.TX_CTR d.tenant ctr s
      let s := if ctr = 4294967295 then setBits TN.CTR_EXHAUST d.tenant 1 s else s
      uMap b (fun x => { x with queue := x.queue.filter (· != d), build := some (d, payloadOf d ctr s) }) s

/-- The PCP of a datagram (Table 10-1). A BATCH without entries, which answers a PULL of an empty queue, is a reply to a
request. -/
def pcpOf (u : Nat) (d : Dgram) (s : State) : Nat :=
  if !d.batch || d.body.getD 1 0#8 = 0#8 then get UL.PCP_CONTROL u s
  else match d.classes.foldl min 4 with
    | 0 => get UL.PCP_ALARM u s
    | 1 => get UL.PCP_CONTROL u s
    | 2 => get UL.PCP_TELEMETRY u s
    | _ => get UL.PCP_BULK u s

/-- Where a datagram goes (R606, R608). -/
def destOf (b : Nat) (d : Dgram) (s : State) : List (Nat × Peer) :=
  if d.dest.isEmpty then ((macsOf b s).filter fun u => hasPeer [u] d.tenant s).map fun u => (u, peerOf u d.tenant s)
  else d.dest

/-- DATAGRAM_HANDOFF (R608, R626, R634): the first byte goes to the MAC once the link is up and no pending refusal
is in the way. In MIRROR the copy for a dead link is lost while the other goes. -/
def datagramHandoff (u : Nat) (s : State) : State :=
  let b := builderOf u s
  match (uGet b s).build with
  | none => s
  | some (d, p) =>
    let dst := destOf b d s
    let up := dst.filter fun (m, _) => linkUp m s
    let busy := up.foldl (fun a (m, _) => max a (uGet m s).busyUntil) s.now
    let frames (s : State) := up.map fun (m, q) => (m, (udpFrame m (pcpOf m d s) q p s).1)
    if up.isEmpty || (frames s).any (fun (m, f) => meetsRefusal m f.length busy s) then s
    else
      let s := noFrames (runTo busy s)
      let s := bumpBy RG.MIRROR_LOST 0 (if mirror s then dst.length - up.length else 0) s
      let s := up.foldl (fun a (m, q) => let (f, a) := udpFrame m (pcpOf m d a) q p a; sendFrame m f a) s
      let last := up.foldl (fun a (m, _) => max a ((uGet m s).busyUntil - 12 * byteCycles m s)) s.now
      let s := uMap b (fun x => { x with
        build := none, releaseAt := if isGranted (.burst b) s then some (last + cyclesMs 1) else none }) s
      let s := match d.job with | some id => endJob id (meetJob id s) | none => s
      uplinkAsk b s

/-- An uplink job's remaining time reaches 0 before the hand-off (R626): the datagram is dropped, with one late
drop for each record it held. -/
def uplinkExpired (j : Job) (s : State) : State :=
  let b := j.src
  let s := endJob j.id s
  let own (d : Dgram) : Bool := d.job == some j.id
  let drops := ((uGet b s).queue.filter own) ++ (match (uGet b s).build with
    | some (d, _) => if own d then [d] else []
    | none => [])
  let held := (match (uGet b s).build with | some (d, _) => own d | none => false)
  let s := uMap b (fun x => { x with
    queue := x.queue.filter (fun d => !own d), build := if held then none else x.build }) s
  let s := drops.foldl (fun a d => batchDropped d a) s
  let s := if (nextDgram b s).isNone && (uGet b s).build.isNone then
      let s := withdrawLeave (.burst b) s
      if (uGet b s).releaseAt.isNone then releaseLeave (.burst b) s else s
    else s
  uplinkAsk b s

/-- An uplink's leave request timed out (R625). -/
def burstTimeout (b : Nat) (s : State) : State :=
  let s := put UL.LEAVE_DENIED b 1 (raise RG.IRQ_UPLINK UL.LEAVE_TO b s)
  uMap b (fun x => { x with retryAt := some (s.now + cyclesMs 100) }) s

/-- UPLINK_LEAVE_RETRY (R625): 100 ms after a timeout the uplink asks again. -/
def uplinkLeaveRetry (u : Nat) (s : State) : State :=
  match (uGet u s).retryAt with
  | none => s
  | some t =>
    let s := runTo t s
    uplinkAsk u (uMap u (fun x => { x with retryAt := none }) s)

/-- A burst's leave was granted: the uplink is no longer denied (R625). -/
def burstGranted (b : Nat) (s : State) : State := put UL.LEAVE_DENIED b 0 s

/-- UPLINK_LEAVE_RELEASE (R625): 1 ms after the last frame the units go back, unless a further datagram has
started meanwhile. -/
def uplinkLeaveRelease (u : Nat) (s : State) : State :=
  match (uGet u s).releaseAt with
  | none => s
  | some t =>
    let s := uMap u (fun x => { x with releaseAt := none }) (runTo t s)
    if (uGet u s).build.isSome then s else uplinkAsk u (releaseLeave (.burst u) s)

/-! ### Tenants: enable, disable, keys (8.6, 8.7, R614) -/

/-- TENANT_DISABLE (R494, R614): an open batch is sent first when a peer is known, then PUSH and the peers are
cleared; datagrams already closed keep their addresses. -/
def tenantStop (t : Nat) (s : State) : State :=
  let b := builderOfTenant t s
  let c := get TN.CONSUMER t s
  let uplinkTenant := c == 1 || c == 2
  let dst := ((macsOf b s).filter fun u => hasPeer [u] t s).map fun u => (u, peerOf u t s)
  let s := if uplinkTenant && !dst.isEmpty then closeBatch b t dst s else tMap t (fun x => { x with batch := none }) s
  let keep (d : Dgram) : Dgram := if d.tenant = t && d.dest.isEmpty then { d with dest := dst } else d
  let s := { s with uplinks := s.uplinks.map fun (k, x) =>
    (k, { x with queue := x.queue.map keep, build := x.build.map fun (d, p) => (keep d, p) }) }
  let none_ : Peer := ⟨List.replicate 6 0#8, 0, 0⟩
  put TN.PUSH t 0 (setPeer 0 t none_ (setPeer 1 t none_ s))

/-- KEY_WRITE (R503, R508): key, KEY_SET, KEY_GEN, counters, KEY_LOADED and the event log entry. `site` is true
for a site card. -/
def keyWrite (site : Bool) (t : Nat) (key : List Byte) (s : State) : State :=
  let s := tMap t (fun x => { x with key := key, rxTag := none }) s
  let s := bump TN.KEY_GEN t (put TN.KEY_SET t 1 s)
  let s := setBits TN.KEY_LOADED t 1 (put TN.RX_CTR t 0 (put TN.TX_CTR t 0 s))
  logEvent 5 (b2n site) t [get TN.KEY_GEN t s] s

/-! ### MDIO and the link (R597 to R600) -/

/-- CORE cycles of one MDIO frame: 64 bits of MDC at LINE/20 (R597). -/
def mdioCycles : Nat := 6400

/-- MDIO_FRAME (R598): a write of MDIO_CMD with GO = 1 starts a frame; with BUSY 1 it is refused with BUSY. -/
def mdioStart (s : State) : State :=
  let m : MdioFrame :=
    ⟨s.now, get RG.MDIO_PHYAD 0 s, get RG.MDIO_REGAD 0 s, flag RG.MDIO_OP 0 s, get RG.MDIO_WDATA 0 s⟩
  put RG.MDIO_BUSY 0 1 { s with mdio := some m }

/-- `n` bits of a number, highest first. -/
def bitsHigh (v n : Nat) : List Bool := (List.range n).map fun i => bitOf v (n - 1 - i)

/-- The bits that the concentrator drives on MDIO in a frame, in the order of MDC: 32 ones, start 01, operation, PHYAD,
REGAD, and for a write the turnaround 10 and the data (R597). PRESUMED (assumption 66). -/
def MdioFrame.driven (m : MdioFrame) : List Bool :=
  List.replicate 32 true ++ [false, true] ++ [!m.write, m.write] ++ bitsHigh m.phy 5 ++ bitsHigh m.reg 5 ++
    if m.write then [true, false] ++ bitsHigh m.data 16 else []

/-- MDIO_FRAME_END (R598): the clock runs on to the end of the frame; a read leaves its 16 bits in RDATA. -/
def mdioFrameEnd (rdata : Nat) (s : State) : State :=
  match s.mdio with
  | none => s
  | some m =>
    let s := runTo (m.from_ + mdioCycles) s
    let s := if m.write then s else put RG.MDIO_RDATA 0 rdata s
    putHw RG.MDIO_GO 0 0 (put RG.MDIO_BUSY 0 0 { s with mdio := none })

/-- AUTOPOLL_READ (R599, R600): an autopoll read of PHY register 1 ends with value `reg1`; LINK_UP takes bit 2.
A host frame requested during the read starts now. DESIGN CHOICE (assumption 66). -/
def autopollRead (u reg1 : Nat) (s : State) : State :=
  if !(uplinkOk s u && flag UL.AUTOPOLL u s) then s
  else
    let s := noFrames s
    let s := { s with mdio := s.mdio.map fun m => if s.now < m.from_ + mdioCycles then { m with from_ := s.now } else m }
    let up := bitOf reg1 2
    if up && !flag UL.LINK_UP u s then
      let s := logEvent 0x15 1 u [] (raise RG.IRQ_UPLINK UL.LINK_UP_EVT u (put UL.LINK_UP u 1 s))
      if get UL.IP_ADDR u s ≠ 0 && flag UL.EN u s then
        let own := macAddr u s
        sendReply u (buildFrame u (List.replicate 6 0xFF#8) (get UL.PCP_CONTROL u s) 0x0806
          (arpPacket u 2 own (get UL.IP_ADDR u s) s) s) s
      else s
    else if !up && flag UL.LINK_UP u s then
      logEvent 0x15 0 u [] (raise RG.IRQ_UPLINK UL.LINK_DOWN u (put UL.LINK_UP u 0 s))
    else s

end Sys2Proof.Machine
end

