-- ==== Sys2Proof/Machine/Card.lean ====
section
/-! DEFINITION. The card ports (chapter 6): detection, activation, ATR, PPS, T=0 exchanges, the records of the
card engines, and the two scripts of the control firmware. -/

namespace Sys2Proof.Machine

/-! ### Timing (R351, R357, R363) -/

/-- One card clock in CORE cycles: 400 ns or 200 ns. -/
def cardClock (n : Nat) (s : State) : Nat := if flag CD.CLK_SEL n s then 50 else 100

/-- The elementary time unit E in LINE cycles (Table 6-4). -/
def cardE (n : Nat) (s : State) : Nat :=
  let fast := flag CD.CLK_SEL n s
  match get CD.FD n s with
  | 0 => if fast then 3720 else 7440
  | 1 => if fast then 1280 else 2560
  | _ => if fast then 640 else 1280

/-- `k` half elementary time units in CORE cycles. -/
def halfE (k n : Nat) (s : State) : Nat := cyclesLine (k * cardE n s / 2)

/-- WT in CORE cycles (R363). -/
def cardWT (n : Nat) (s : State) : Nat := 960 * get CD.WI n s * (cGet n s).fi * cardClock n s

/-- CPn_EN (Table 6-8). -/
def cardEn (n : Nat) (s : State) : Bool := if n = 0 then flag RG.CP0_EN 0 s else flag RG.CP1_EN 0 s

/-- STATE of the port (Table 6-9). -/
def cardState (n : Nat) (s : State) : Nat := get CD.STATE n s

/-- The levels of a sent character after its start bit, true for high: 8 data bits and even parity, in a convention (R358). -/
def cardLevels (inverse : Bool) (b : Byte) : List Bool :=
  let d := (List.range 8).map fun i => bitOf b.toNat (if inverse then 7 - i else i)
  (d ++ [d.foldl xor false]).map (xor inverse)

/-- The output pins of a port (Tables 6-1 to 6-3): PWR, CLK running, RST, IO pulled low. -/
structure CardPins where
  pwr : Bool
  clk : Bool
  rst : Bool
  ioLow : Bool
  deriving DecidableEq, Repr

/-- The card engine pulls CPn_IO low now: a low bit of a character that it sends, or the error signal from 10.5 E to 12 E
after the start edge of a character that failed (R358, R360, R361). -/
def ioPulled (n : Nat) (s : State) : Bool :=
  let c := cGet n s
  (match c.txBytes with
    | [] => false
    | b :: _ => decide (c.txAt ≤ s.now) && match (s.now - c.txAt) / halfE 2 n s with
      | 0 => true
      | k + 1 => !((cardLevels (flag CD.CONV n s) b).getD k true)) ||
  (match c.errEdge with
    | some e => decide (e + halfE 21 n s ≤ s.now) && decide (s.now < e + halfE 24 n s)
    | none => false)

/-- The pins in the present CORE cycle (R345, Tables 6-2 and 6-3). -/
def cardPins (n : Nat) (s : State) : CardPins :=
  let c := cGet n s
  match cardState n s with
  | 2 => ⟨true, decide (1 ≤ c.actStep), decide (2 ≤ c.actStep), ioPulled n s⟩
  | 3 | 4 | 5 | 6 => ⟨true, true, true, ioPulled n s⟩
  | 7 => let t := s.now + cyclesUs 103 - c.due
    ⟨decide (t < cyclesUs 3), decide (1 ≤ c.actStep) && decide (t < cyclesUs 1), false, decide (cyclesUs 2 ≤ t)⟩
  | _ => ⟨false, false, false, false⟩

/-- The CORE cycle in which the engine may start a character (R361): 12 + N elementary time units after the one that it sent
before, and 16 after the last one received. -/
def sendAt (n : Nat) (s : State) : Nat :=
  let c := cGet n s
  max s.now (max (c.rxEdge + halfE 32 n s) (c.txEdge + halfE (24 + 2 * get CD.GUARD_N n s) n s))

/-- The engine has bytes to send. -/
def startSend (n : Nat) (bs : List Byte) (s : State) : State :=
  let t := sendAt n s
  cMap n (fun c => { c with txBytes := bs, txAt := t, repeats := 0 }) s

/-! ### Activation and deactivation -/

/-- Activation begins with step 1 of Table 6-2: 372/1, WI 10 and N 0 are in force. -/
def activate (n : Nat) (s : State) : State :=
  let s := put CD.STATE n 2 (put CD.CONV n 0 (put CD.FD n 0 (put CD.WI n 10 (put CD.GUARD_N n 0 s))))
  cMap n (fun c => { c with
    actStep := 0, due := s.now + cyclesUs (get CD.PWR_SETTLE_US n s), again := false, rxBytes := [], txBytes := [],
    repeats := 0, stamp := none, rxEdge := 0, txEdge := 0, heard := false, errEdge := none, fi := 372, parity := false,
    job := none, script := .none, got := [], sw1 := none, burst := 0 }) s

/-- The card is active: some step of Table 6-2 has begun and no deactivation. -/
def cardActive (n : Nat) (s : State) : Bool := decide (2 ≤ cardState n s) && decide (cardState n s ≤ 6)

/-- A key load ends with a result (R387): the result and one event log entry. -/
def keyLoadEnd (result siteId serial k : Nat) (s : State) : State :=
  logEvent 6 result k [siteId, serial] (put RG.KEYLOAD_RESULT 0 result s)

/-- The data of a script's exchange that ends with 90 00 and has `n` data bytes. -/
def scriptData (n : Nat) (r : ScriptReply) : Option (List Byte) :=
  if r.result.good && r.data.length == n && r.sw1 == some 0x90#8 && r.sw2 == some 0x00#8 then some r.data else none

/-- The fields of a good header (Table 6-6, step 2): K, SITE_ID, card serial. -/
def siteHeader (d : List Byte) : Option (Nat × Nat × Nat) :=
  let k := (d.getD 5 0#8).toNat
  if d.take 5 = [0x53#8, 0x54#8, 0x53#8, 0x43#8, 0x01#8] ∧ 1 ≤ k ∧ k ≤ 128 ∧ d.drop 14 = [0#8, 0#8] then
    some (k, beValue ((d.drop 6).take 4), beValue ((d.drop 10).take 4))
  else none

/-- The header that a key load has read so far. -/
def gotHeader (got : List ScriptReply) : Option (Nat × Nat × Nat) := (got[1]?.bind (scriptData 16)).bind siteHeader

/-- A script that runs on the port is aborted (Table 6-7, R387, R390). Its entry carries what the header said, or zeros where
none was read. DESIGN CHOICE (assumption 67). -/
def abortScript (n : Nat) (s : State) : State :=
  let c := cGet n s
  let s := cMap n (fun c => { c with script := .none, got := [] }) s
  match c.script with
  | .keyload =>
    let (k, site, serial) := (gotHeader c.got).getD (0, 0, 0)
    keyLoadEnd 7 site serial k s
  | _ => s

/-- A card record goes into the card engine's source (R381, Table 6-5). -/
def cardRecord (n : Nat) (t : Stamp) (flags : Nat) (sw1 : Byte) (payload : List Byte) (s : State) : State :=
  cMap n (fun c => { c with recs := c.recs ++ [⟨buildRecord 5 (48 + n) 0xFFF t flags payload, sw1⟩] }) s

/-- The payload of the exchange in progress (Table 6-5). -/
def exchangePayload (c : Card) : List Byte :=
  [0x58#8, byte c.dir] ++ c.hdr ++ c.moved ++ c.sw1.toList ++ c.sw2.toList

/-- The record of an exchange that ends now (R379, R381). With no response character its stamp is the Ring time of the
exchange's end. DESIGN CHOICE (assumption 129). -/
def exchangeRecord (n : Nat) (r : CxResult) (s : State) : State :=
  let c := cGet n s
  let flags := (if c.parity then fPARITY else 0) ||| (if r.good then 0 else fUNTERM)
  cardRecord n (c.stamp.getD (stampNow s)) flags (c.sw1.getD 0#8) (exchangePayload c) s

/-- CX_RESULT and its company, in the cycle in which the exchange ends (R384). -/
def exchangeResult (n : Nat) (r : CxResult) (s : State) : State :=
  let c := cGet n s
  let s := put CD.CX_RESULT n r.code (put CD.SW1 n ((c.sw1.getD 0#8).toNat) (put CD.SW2 n ((c.sw2.getD 0#8).toNat) s))
  raise RG.IRQ_CARD CD.EV_CX_DONE n (bump CD.CX_CNT n s)

/-- The exchange ends with a result other than LATE: its record, its result, its job's deadline point (R379, R384). -/
def exchangeDone (n : Nat) (r : CxResult) (s : State) : State :=
  let c := cGet n s
  let before := c.recs.length
  let s := exchangeResult n r (exchangeRecord n r s)
  let s := match c.job with | some id => endJob id (meetJob id s) | none => s
  cMap n (fun c => { c with job := none, goRec := some before, txBytes := [], burst := 0 }) s

/-- Deactivation begins (Table 6-3, R352): STATE DEACTIVATING for 103 µs. -/
def deactivate (n endState : Nat) (again : Bool) (s : State) : State :=
  let s := abortScript n s
  if cardActive n s then
    put CD.STATE n 7 (cMap n (fun c => { c with
      due := s.now + cyclesUs 103, endState := endState, again := again, txBytes := [], errEdge := none, burst := 0 }) s)
  else if cardState n s = 7 then cMap n (fun c => { c with endState := endState, again := again }) s
  else s

/-- An exchange ends, and the card stays active or is deactivated (R353, R377, R379). -/
def endExchange (n : Nat) (r : CxResult) (endState : Nat) (again : Bool) (s : State) : State :=
  let s := exchangeDone n r s
  if r.good then put CD.STATE n 4 s else deactivate n endState again s

/-- The card is deactivated, with an exchange in progress ended first (R349, R353). -/
def stopCard (n : Nat) (r : CxResult) (endState : Nat) (again : Bool) (s : State) : State :=
  if cardState n s = 5 then endExchange n r endState again s else deactivate n endState again s

/-- Activation ends with ATR_FAIL (R364, R365). -/
def atrFailed (n : Nat) (s : State) : State :=
  deactivate n 9 false (bump CD.ATR_FAIL_CNT n (raise RG.IRQ_CARD CD.EV_ATR_FAIL n s))

/-- PPS_FAIL (R370): once more without PPS, or FAULT after a second failure in the same insertion. -/
def ppsFailed (n : Nat) (s : State) : State :=
  let again := !(cGet n s).ppsFailed
  let s := raise RG.IRQ_CARD CD.EV_PPS_FAIL n s
  deactivate n 9 again (cMap n (fun c => { c with noPps := true, ppsFailed := true }) s)

/-! ### The ATR (R364 to R368) -/

/-- What an ATR says. -/
structure AtrInfo where
  /-- Its length by T0 and the TDi bytes, as far as they have been received. -/
  need : Nat
  tck : Bool
  ta1 : Option Byte
  tc1 : Option Byte
  ta2 : Option Byte
  tc2 : Option Byte
  /-- The protocols that TDi bytes name. -/
  protos : List Nat
  deriving DecidableEq, Repr

/-- Read the interface bytes of level `i` that the high nibble `y` announces; `pos` is the next position (R365). -/
def atrLevels (a : List Byte) : Nat → Nat → Nat → Nat → AtrInfo → AtrInfo
  | 0, _, _, pos, r => { r with need := pos }
  | fuel + 1, i, y, pos, r =>
    let at_ (b : Nat) : Option Byte := if bitOf y b then a[pos + ((List.range b).filter fun k => bitOf y k).length]? else none
    let n := ((List.range 4).filter fun k => bitOf y k).length
    let r := if i = 1 then { r with ta1 := at_ 0, tc1 := at_ 2 } else if i = 2 then { r with ta2 := at_ 0, tc2 := at_ 2 } else r
    match at_ 3 with
    | some td =>
      let p := td.toNat % 16
      atrLevels a fuel (i + 1) (td.toNat / 16) (pos + n) { r with protos := r.protos ++ [p], tck := r.tck || decide (p ≠ 0) }
    | none => { r with need := pos + n + (if bitOf y 3 then 1 else 0) }

/-- What the characters received so far say; `need` counts TS, the interface bytes, the historical bytes and TCK. -/
def atrInfo (a : List Byte) : AtrInfo :=
  let empty : AtrInfo := { need := 2, tck := false, ta1 := none, tc1 := none, ta2 := none, tc2 := none, protos := [] }
  match a[1]? with
  | none => empty
  | some t0 =>
    let r := atrLevels a 33 1 (t0.toNat / 16) 2 empty
    { r with need := r.need + t0.toNat % 16 + (if r.tck then 1 else 0) }

/-- Fi of a TA1 byte: the spec's 372 and 512; the other codes by ISO/IEC 7816-3. PRESUMED (assumption 59). -/
def fiOf (ta1 : Option Byte) : Nat :=
  match ta1 with
  | none => 372
  | some b => [372, 372, 558, 744, 1116, 1488, 1860, 372, 372, 512, 768, 1024, 1536, 2048, 372, 372].getD (b.toNat / 16) 372

/-- The FD code of a TA1 byte that R366 allows (Table 6-9). -/
def fdOf (b : Byte) : Option Nat :=
  match b.toNat with
  | 0x01 | 0x11 => some 0
  | 0x93 => some 1
  | 0x94 => some 2
  | _ => none

/-- The card reaches READY; the control firmware's script for the port begins (R372, R385, R388). -/
def cardReady (n : Nat) (s : State) : State :=
  let k := if n = 0 then (if flag RG.KEYLOAD_EN 0 s then Script.keyload else .none)
    else if flag RG.BADGE_EN 0 s then Script.badge else .none
  put CD.STATE n (if k = .none then 4 else 6) (cMap n (fun c => { c with script := k, got := [] }) s)

/-- ATR_BYTES of a port (R177). -/
def putAtr (n : Nat) (a : List Byte) (s : State) : State :=
  let ws := wordsOfBytes (padTo 36 a)
  put CD.ATR_LEN n a.length (ws.zipIdx.foldl (fun x (w, i) => put CX.ATR_BYTES (n * 128 + i) w.toNat x) s)

/-- ATR_DONE (R366 to R368, R371, R372): the ATR is complete. -/
def atrDone (n : Nat) (s : State) : State :=
  let c := cGet n s
  let a := c.rxBytes
  let i := atrInfo a
  if i.tck && xorBytes (a.drop 1) ≠ 0 then atrFailed n s
  else
    let s := raise RG.IRQ_CARD CD.EV_ATR_DONE n (putAtr n a s)
    let flags := (if i.tck then fOK else 0) ||| (if c.parity then fPARITY else 0)
    let s := cardRecord n (c.stamp.getD (stampNow s)) flags 0x00#8 (0x41#8 :: a) s
    let fcode0 := match i.ta1 with | some b => decide (b.toNat / 16 = 0) | none => false
    let s := if fcode0 && flag CD.CLK_SEL n s then raise RG.IRQ_CARD CD.EV_FMAX n s else s
    let s := put CD.WI n ((i.tc2.map BitVec.toNat).getD 10) s
    let s := put CD.GUARD_N n (match i.tc1 with | some b => if b.toNat = 255 then 0 else b.toNat | none => 0) s
    let s := cMap n (fun c => { c with fi := fiOf i.ta1, parity := false, rxBytes := [], repeats := 0 }) s
    let specific := i.ta2.isSome
    let unsupported := (!i.protos.isEmpty && !i.protos.contains 0) ||
      (specific && (match i.ta1 with | some b => (fdOf b).isNone | none => false))
    if unsupported then deactivate n 8 false (raise RG.IRQ_CARD CD.EV_UNSUPPORTED n s)
    else if specific then cardReady n (put CD.FD n ((i.ta1.bind fdOf).getD 0) s)
    else match i.ta1 with
      | some b =>
        if (b.toNat = 0x93 ∨ b.toNat = 0x94) ∧ flag CD.PPS_EN n s ∧ !(cGet n s).noPps then
          put CD.STATE n 3 (startSend n [0xFF#8, 0x10#8, b, byte (xorBytes [0xFF#8, 0x10#8, b])]
            (cMap n (fun c => { c with heard := false }) s))
        else cardReady n s
      | none => cardReady n s

/-! ### Characters (R358 to R362) -/

/-- The byte and the parity of nine samples, true for the high level, in a convention (R358). -/
def cardDecode (inverse : Bool) (l : List Bool) : Byte × Bool :=
  let v := if inverse then l.map (! ·) else l
  let d := v.take 8
  let b := dataByte inverse d
  (b, (v.take 9).foldl (fun a x => xor a x) false == false)

/-- A character is stored, or answered with an error signal (R360). -/
inductive Stored
  | signal
  | take (b : Byte) (marked : Bool)
  deriving DecidableEq, Repr

/-- The judgement of R360 on a character, after `repeats` error signals for it. -/
def storeRule (retry repeats : Nat) (b : Byte) (ok : Bool) : Stored :=
  if repeats < retry then (if ok then .take b false else .signal)
  else .take b (!ok || decide (0 < retry))

/-- One stored character of the ATR (R364, R365). -/
def atrChar (n : Nat) (b : Byte) (s : State) : State :=
  let s := cMap n (fun c => { c with rxBytes := c.rxBytes ++ [b] }) s
  let a := (cGet n s).rxBytes
  if 33 < a.length then atrFailed n s
  else if a.length = (atrInfo a).need then atrDone n s else s

/-- One stored character of the PPS echo (R369, R370). -/
def ppsChar (n : Nat) (b : Byte) (s : State) : State :=
  let s := cMap n (fun c => { c with rxBytes := c.rxBytes ++ [b] }) s
  let a := (cGet n s).rxBytes
  let ta1 := (atrInfo (((List.range 9).flatMap fun i => beBytes 4 (get CX.ATR_BYTES (n * 128 + i) s)))).ta1.getD 0#8
  let want := [0xFF#8, 0x10#8, ta1, byte (xorBytes [0xFF#8, 0x10#8, ta1])]
  if a ≠ want.take a.length then ppsFailed n s
  else if a.length = 4 then cardReady n (put CD.FD n ((fdOf ta1).getD 0) (cMap n (fun c => { c with rxBytes := [] }) s))
  else s

/-- One procedure byte (R376). -/
def procByte (n : Nat) (b : Byte) (s : State) : State :=
  let c := cGet n s
  let ins := c.hdr.getD 1 0#8
  let v := b.toNat
  if v = 0x60 then s
  else if b = ins then
    startSend n c.toSend (cMap n (fun c => { c with toSend := [], burst := c.toRecv }) s)
  else if b = ins ^^^ 0xFF#8 then
    startSend n (c.toSend.take 1) (cMap n (fun c => { c with toSend := c.toSend.drop 1, burst := min 1 c.toRecv }) s)
  else if v / 16 = 9 ∨ (v / 16 = 6 ∧ v % 16 ≠ 0) then cMap n (fun c => { c with sw1 := some b }) s
  else endExchange n .badProc 9 false s

/-- One stored character of an exchange (R376, R379). -/
def exchangeChar (n : Nat) (b : Byte) (s : State) : State :=
  let c := cGet n s
  if c.sw1.isSome then
    let s := cMap n (fun c => { c with sw2 := some b }) s
    endExchange n (if c.parity then .rxParity else .ok) 4 false s
  else if 0 < c.burst then
    cMap n (fun c => { c with moved := c.moved ++ [b], burst := c.burst - 1, toRecv := c.toRecv - 1 }) s
  else procByte n b s

/-- The engine takes characters from the card: it hunts for the ATR or receives it, or nothing is left to send in a PPS or an
exchange. -/
def cardListens (n : Nat) (s : State) : Bool :=
  let c := cGet n s
  cardOk s n && match cardState n s with
    | 2 => c.actStep == 3 || c.actStep == 4
    | 3 | 5 => c.txBytes.isEmpty
    | _ => false

/-- CARD_CHARACTER_RECEIVED (R359, R360, R364): the parity sample of a character is taken now. `samples` are
the levels of samples 1 to 9, true for high; the start edge lies 9.5 E back. The first character of the ATR or of the response
gives the stamp, whether it is stored or answered with the error signal (R381). -/
def cardCharacterReceived (n : Nat) (samples : List Bool) (s : State) : State :=
  if !(cardListens n s) then s
  else
    let c := cGet n s
    let c0 := s.now - halfE 19 n s
    let edge := (stampAt c0 s).sub 40
    let first := cardState n s = 2 ∧ c.actStep = 3
    let direct := (cardDecode false samples).1.toNat = 0x3B
    let inverse := (cardDecode true samples).1.toNat = 0x3F
    if first ∧ !direct ∧ !inverse then atrFailed n s
    else
      let s := if first then put CD.CONV n (b2n (!direct)) s else s
      let s := cMap n (fun c => { c with
        rxEdge := c0, wtFrom := c0, heard := true, actStep := if first then 4 else c.actStep,
        stamp := some (c.stamp.getD edge) }) s
      let (b, ok) := cardDecode (flag CD.CONV n s) samples
      match storeRule (get CD.CX_RETRY n s) c.repeats b ok with
      | .signal => cMap n (fun c => { c with repeats := c.repeats + 1, errEdge := some c0 }) s
      | .take b marked =>
        let s := cMap n (fun c => { c with repeats := 0, parity := c.parity || marked }) s
        let s := if marked then bump CD.RX_PAR_CNT n s else s
        match cardState n s with
        | 2 => atrChar n b s
        | 3 => ppsChar n b s
        | _ => exchangeChar n b s

/-- A sent character is through: the next one follows 12 + N elementary time units after its start (R361). -/
def charSent (n : Nat) (b : Byte) (s : State) : State :=
  let next := halfE (24 + 2 * get CD.GUARD_N n s) n s
  let data := cardState n s = 5 ∧ (cGet n s).hdrLeft = 0
  cMap n (fun c => { c with
    txBytes := c.txBytes.drop 1, txEdge := c.txAt, txAt := c.txAt + next, repeats := 0, hdrLeft := c.hdrLeft - 1,
    moved := if data then c.moved ++ [b] else c.moved }) s

/-- The engine's sample of CPn_IO at 11 E after the start of a sent character is low (R362): the card drives it low from
`lowFrom` to `lowTo`, counted in CORE cycles from that start. -/
def errorSignalled (n lowFrom lowTo : Nat) (s : State) : Bool := decide (lowFrom ≤ halfE 22 n s) && decide (halfE 22 n s < lowTo)

/-- CARD_CHARACTER_SENT (R361, R362, R376): the clock runs on to 11 E after the start of the character being sent, where the
error signal is checked. The character is repeated 2 E later, or it is through. -/
def cardCharacterSent (n lowFrom lowTo : Nat) (s : State) : State :=
  let c := cGet n s
  if !(cardOk s n) ∨ !(cardState n s = 3 ∨ cardState n s = 5) then s
  else match c.txBytes with
    | [] => s
    | b :: _ =>
      let again := c.txAt + halfE 26 n s
      let low := errorSignalled n lowFrom lowTo s
      let s := runTo (c.txAt + halfE 22 n s) s
      let s := cMap n (fun c => { c with wtFrom := if c.heard then c.wtFrom else c.txAt }) s
      if !low then charSent n b s
      else if c.repeats < get CD.CX_RETRY n s then
        bump CD.TX_REP_CNT n (cMap n (fun c => { c with repeats := c.repeats + 1, txEdge := c.txAt, txAt := again }) s)
      else if cardState n s = 3 then ppsFailed n s
      else endExchange n .txParity 9 false s

/-- WT_EXPIRED (R363, R370, R377): the clock runs on to WT after the start edge of the card's last character, or of the last
character sent where the card has sent none. DEDUCED (assumption 69). -/
def wtExpired (n : Nat) (s : State) : State :=
  let c := cGet n s
  if !(cardOk s n) ∨ (!c.heard ∧ !c.txBytes.isEmpty) then s
  else match cardState n s with
    | 3 => ppsFailed n (runTo (c.wtFrom + cardWT n s) s)
    | 5 => endExchange n .wtExpired 9 false (runTo (c.wtFrom + cardWT n s) s)
    | _ => s

/-! ### Detection (R350, R351) -/

/-- The synchronised level of CPn_DET equals DET_POL: a card is present (R350). -/
def cardPresent (n : Nat) (s : State) : Bool := (cGet n s).det == some (flag CD.DET_POL n s)

/-- The level begins to show present: the debounce starts (R350, R398). -/
def detPresent (n : Nat) (s : State) : State :=
  let s := cMap n (fun c => { c with debounceEnd := some (s.now + cyclesMs (get CD.DET_DEB_MS n s)) }) s
  if cardState n s = 0 then put CD.STATE n 1 s else s

/-- CARD_DEBOUNCE_START (R350, R398): CPn_DET changes to the present level. -/
def cardDebounceStart (n : Nat) (s : State) : State :=
  if !cardOk s n ∨ cardPresent n s then s
  else
    let pol := flag CD.DET_POL n s
    detPresent n (cMap n (fun c => { c with det := some pol }) s)

/-- CARD_INSERT (R350, R351): the clock runs on to the end of the debounce; an enabled port sets INSERT and
activates the card. -/
def cardInsert (n : Nat) (s : State) : State :=
  match (cGet n s).debounceEnd with
  | none => s
  | some t =>
    let s := runTo t s
    let s := cMap n (fun c => { c with debounceEnd := none, inserted := true, noPps := false, ppsFailed := false }) s
    if cardEn n s then
      let s := raise RG.IRQ_CARD CD.EV_INSERT n s
      if cardState n s = 7 then cMap n (fun c => { c with again := true }) s else activate n s
    else if cardState n s = 1 then put CD.STATE n 0 s else s

/-- The level shows absent: a removal (R350, R353, R389). -/
def detAbsent (n : Nat) (s : State) : State :=
  let s := if cardEn n s then raise RG.IRQ_CARD CD.EV_REMOVE n s else s
  let s := match (cGet n s).badge with
    | some (b, unknown) => logEvent 7 (1 + (if unknown then 2 else 0)) n [beValue (b.take 4), beValue (b.drop 4)] s
    | none => s
  let s := cMap n (fun c => { c with inserted := false, debounceEnd := none, badge := none }) s
  let s := stopCard n .removed 0 false s
  if cardState n s = 7 then s else put CD.STATE n 0 s

/-- CARD_REMOVE (R350, R353, R389): CPn_DET shows absent. -/
def cardRemove (n : Nat) (s : State) : State :=
  if !cardOk s n ∨ !(cardPresent n s) then s
  else
    let pol := flag CD.DET_POL n s
    detAbsent n (cMap n (fun c => { c with det := some (!pol) }) s)

/-- A write turned DET_POL round: the level as it stands now shows the other thing (R350). -/
def detPolWritten (n : Nat) (s : State) : State :=
  if (cGet n s).det.isNone then s else if cardPresent n s then detPresent n s else detAbsent n s

/-- CARD_CLOCK_START (Table 6-2, step 2). -/
def cardClockStart (n : Nat) (s : State) : State :=
  if cardState n s = 2 ∧ (cGet n s).actStep = 0 then
    let s := runTo (cGet n s).due s
    cMap n (fun c => { c with actStep := 1, due := s.now + 1000 * cardClock n s }) s
  else s

/-- CARD_RESET_RELEASE (Table 6-2, step 3). -/
def cardResetRelease (n : Nat) (s : State) : State :=
  if cardState n s = 2 ∧ (cGet n s).actStep = 1 then
    let s := runTo (cGet n s).due s
    cMap n (fun c => { c with actStep := 2, due := s.now + 380 * cardClock n s }) s
  else s

/-- TS_HUNT_START (Table 6-2, step 4): the TS start edge may come until 40,000 C after step 3. -/
def tsHuntStart (n : Nat) (s : State) : State :=
  if cardState n s = 2 ∧ (cGet n s).actStep = 2 then
    let s := runTo (cGet n s).due s
    cMap n (fun c => { c with actStep := 3, due := s.now + (40000 - 380) * cardClock n s }) s
  else s

/-- ATR_FAIL (R351, R365): the clock runs on to the latest TS start edge, or to 9600 E after the last character. -/
def atrFail (n : Nat) (s : State) : State :=
  let c := cGet n s
  if cardState n s = 2 ∧ c.actStep = 3 then atrFailed n (runTo c.due s)
  else if cardState n s = 2 ∧ c.actStep = 4 then atrFailed n (runTo (c.rxEdge + halfE 19200 n s) s)
  else s

/-- CARD_DEACTIVATION_END (Table 6-3, step 5): the clock runs on to 103 µs after the trigger; a card to be
activated again starts at step 1, and W9 goes back when CP1 is disabled (R348). -/
def cardDeactivationEnd (n : Nat) (s : State) : State :=
  let c := cGet n s
  if cardState n s ≠ 7 then s
  else
    let s := runTo c.due s
    let s := put CD.STATE n (if cardPresent n s then (if c.debounceEnd.isSome then 1 else c.endState) else 0) s
    let s := if n = 1 ∧ !cardEn 1 s ∧ s.clk.w9 = .cp1 then { s with clk := { s.clk with w9 := .none } } else s
    if c.again ∧ cardPresent n s ∧ cardEn n s then activate n s else s

/-! ### Register effects -/

/-- CPn_EN goes from 0 to 1: a card that is in the slot is activated (R356). -/
def cardEnabled (n : Nat) (s : State) : State :=
  let s := if n = 1 then { s with clk := { s.clk with w9 := .cp1 } } else s
  let c := cGet n s
  if c.inserted ∧ cardState n s = 0 then activate n s
  else if c.inserted ∧ cardState n s = 7 then cMap n (fun c => { c with again := true }) s
  else s

/-- CPn_EN goes from 1 to 0 (R348, R349). A card in UNSUPPORTED or FAULT, or on its way there, stays so (R355). -/
def cardDisabled (n : Nat) (s : State) : State :=
  let s := if cardState n s = 7 then cMap n (fun c => { c with again := false }) s else stopCard n .disabled 0 false s
  if n = 1 ∧ cardState n s ≠ 7 ∧ s.clk.w9 = .cp1 then { s with clk := { s.clk with w9 := .none } } else s

/-- CARD_RESET (R354): a card in the slot of an enabled port is deactivated and activated again.
DEDUCED (assumption 68). -/
def cardReset (n : Nat) (s : State) : State :=
  let c := cGet n s
  if !(c.inserted ∧ cardEn n s) then s
  else
    let s := cMap n (fun c => { c with noPps := false }) s
    if cardActive n s ∨ cardState n s = 7 then stopCard n .disabled 9 true s else activate n s

/-- DEACT (R353): the card is deactivated and stays so. -/
def cardDeact (n : Nat) (s : State) : State :=
  if cardActive n s ∨ cardState n s = 7 then stopCard n .disabled 9 false s else s

/-- The command buffer of a port (R177, Table 6-9). -/
def cmdBuf (n : Nat) (s : State) : List Byte :=
  ((List.range 65).flatMap fun i => beBytes 4 (get CX.CMD_BUF (n * 128 + i) s))

/-- An accepted GO (R375): the job, and the five header bytes. -/
def exchangeStart (n : Nat) (s : State) : State :=
  let b := cmdBuf n s
  let p3 := (b.getD 4 0#8).toNat
  let dir := get CD.DIR n s
  let id := s.nextJob
  let s := spawnJob .card (get CD.CX_DEADLINE_MS n s * 1000000) 1 0 n none s
  put CD.STATE n 5 (startSend n (b.take 5) (cMap n (fun c => { c with
    job := some id, dir := dir, hdr := b.take 5, hdrLeft := 5, heard := false, toSend := if dir = 1 then (b.drop 5).take p3 else [],
    toRecv := if dir = 2 then (if p3 = 0 then 256 else p3) else 0, moved := [], burst := 0, sw1 := none, sw2 := none,
    stamp := none, parity := false, repeats := 0 }) s))

/-- The refusal of a write of GO = 1 (R374): BUSY 0x04, REFUSED 0x01, or none. DEDUCED (assumption 147). -/
def exchangeRefused (n dir p3 : Nat) (s : State) : Option Nat :=
  if flag CD.GO n s ∨ cardState n s ≠ 4 ∨ (cGet n s).script ≠ .none ∨ !anySlot s then some 4
  else if dir = 0 ∧ p3 ≠ 0 then some 1 else none

/-- A card exchange job's remaining time reaches 0 (R380). -/
def cardLate (j : Job) (s : State) : State :=
  let n := j.src
  let s := endJob j.id (lateDrop 0 1 s)
  let s := raise RG.IRQ_CARD CD.EV_LATE n (exchangeResult n .late s)
  let s := putHw CD.GO n 0 (cMap n (fun c => { c with job := none }) s)
  deactivate n 9 false s

/-! ### Scripts (R385 to R389) -/

/-- Tenant and key of a good key record (Table 6-6, step 3). -/
def siteKey (d : List Byte) : Option (Nat × List Byte) :=
  if (d.getD 1 0#8).toNat = 0 ∧ (d.drop 18).take 2 = [0#8, 0#8] ∧ beValue (d.drop 20) = crc32 (d.take 20) then
    some ((d.getD 0 0#8).toNat, (d.drop 2).take 16)
  else none

/-- No tenant index repeats. -/
def distinct : List Nat → Bool
  | [] => true
  | a :: r => !r.contains a && distinct r

/-- The write of a tenant's EN from 0 to 1 is refused (R492, R588). -/
def tenantStartRefused (t : Nat) (s : State) : Bool :=
  let c := get TN.CONSUMER t s
  let p := get TN.LISTEN_PORT t s
  ((c == 1 || c == 2) && !flag TN.KEY_SET t s) ||
  (c == 3 && (!flag PT.LST_EN p s || (List.range (Config.tenants s.variant)).any fun x =>
    x != t && flag TN.EN x s && get TN.CONSUMER x s == 3 && get TN.LISTEN_PORT x s == p))

/-- TENANT_ENABLE_DEFERRED (R836): the tenants whose committed EN is 1 start once the key load has ended; a refused
one stays off, with a RESTORE entry. -/
def enableDeferred (s : State) : State :=
  let l := s.sys.deferredTenants
  let s := { s with sys := { s.sys with deferredTenants := [] } }
  l.foldl (fun a t =>
    if tenantStartRefused t a then logEvent 0x12 1 t [4, 32 * t, 1] a else put TN.EN t 1 a) s

/-- SELECT of an application (Table 6-6, step 1, R388). -/
def selectCmd (aid : List Byte) : List Byte := [0x00#8, 0xA4#8, 0x04#8, 0x00#8, 0x06#8] ++ aid
/-- 00 B0: a read of `len` bytes at an offset in P1–P2 (R385). -/
def readCmd (offset len : Nat) : List Byte := [0x00#8, 0xB0#8] ++ beBytes 2 offset ++ [byte len]

/-- Command `i` of the site-card script, counted from 0 (Table 6-6). -/
def siteCmd : Nat → List Byte
  | 0 => selectCmd [0xF0#8, 0x43#8, 0x41#8, 0x4D#8, 0x53#8, 0x58#8]
  | 1 => readCmd 0 0x10
  | i + 2 => readCmd (16 + 24 * i) 0x18

/-- Command `i` of the badge script (R388). -/
def badgeCmd : Nat → List Byte
  | 0 => selectCmd [0xF0#8, 0x43#8, 0x41#8, 0x4D#8, 0x42#8, 0x44#8]
  | _ => readCmd 0 12

/-- One exchange of a script on the wire (6.7, R112, R384): the command goes out, the card's response begins `wait` CORE cycles from
now and is `r`, the result stands in CX_RESULT, and the record is written where `recorded`. -/
def scriptExchange (n : Nat) (cmd : List Byte) (recorded : Bool) (wait : Nat) (r : ScriptReply) (s : State) : State :=
  let s := elapse wait s
  let edge := (stampNow s).sub 40
  let answered := !r.data.isEmpty || r.sw1.isSome
  let s := elapse r.rest s
  let s := cMap n (fun c => { c with
    dir := if cmd.length = 5 then 2 else 1, hdr := cmd.take 5, moved := cmd.drop 5 ++ r.data, sw1 := r.sw1, sw2 := r.sw2,
    parity := r.result == .rxParity, stamp := if answered then some edge else none }) s
  exchangeResult n r.result (if recorded then exchangeRecord n r.result s else s)

/-- The verdict on the exchanges of a key load so far (R385 to R387): none while the script goes on; else a code of Table 6-7,
SITE_ID, serial, K, and the keys to write. -/
def siteVerdict (got : List ScriptReply) (s : State) : Option (Nat × Nat × Nat × Nat × List (Nat × List Byte)) :=
  match got with
  | [] => none
  | [r1] => if (scriptData 0 r1).isNone then some (2, 0, 0, 0, []) else none
  | _ :: _ :: rest => match gotHeader got with
    | none => some (3, 0, 0, 0, [])
    | some (k, site, serial) =>
      let keys := rest.filterMap fun r => (scriptData 24 r).bind siteKey
      if keys.length < rest.length then some (4, site, serial, k, [])
      else if rest.length < k then none
      else if !((keys.map Prod.fst).all fun t => tenantOk s t) || !distinct (keys.map Prod.fst) then some (5, site, serial, k, [])
      else if get RG.SITE_EXPECT 0 s ≠ 0 ∧ get RG.SITE_EXPECT 0 s ≠ site then some (6, site, serial, k, [])
      else some (1, site, serial, k, keys)

/-- After a script: READY, or deactivated when its last exchange failed (R353). -/
def scriptEnd (n : Nat) (r : ScriptReply) (s : State) : State :=
  let s := cMap n (fun c => { c with script := .none, got := [] }) s
  if r.result.good then put CD.STATE n 4 s else deactivate n 9 false s

/-- KEYLOAD_SCRIPT (R385 to R387, R508, R836): the next exchange of the site-card script; the last one ends the load. It has no
record. DESIGN CHOICE (assumption 67). -/
def keyloadScript (wait : Nat) (r : ScriptReply) (s : State) : State :=
  if (cGet 0 s).script ≠ .keyload then s
  else
    let got := (cGet 0 s).got ++ [r]
    let s := scriptExchange 0 (siteCmd (cGet 0 s).got.length) false wait r s
    match siteVerdict got s with
    | none => cMap 0 (fun c => { c with got := got }) s
    | some (code, site, serial, k, ks) =>
      let s := ks.foldl (fun a (t, key) => keyWrite true t key a) s
      let s := if code = 1 then put RG.SITE_ID 0 site (put RG.KEYS_LOADED 0 k s) else s
      enableDeferred (scriptEnd 0 r (keyLoadEnd code site serial k s))

/-- The badge number when the card gives none: the first 8 historical bytes of the ATR (R388). -/
def atrBadge (s : State) : List Byte :=
  let atr := ((List.range 9).flatMap fun i => beBytes 4 (get CX.ATR_BYTES (128 + i) s)).take (get CD.ATR_LEN 1 s)
  let i := atrInfo atr
  let k := ((atr.getD 1 0#8).toNat) % 16
  padTo 8 ((atr.drop (i.need - k - (if i.tck then 1 else 0))).take k)

/-- The badge number that a READ gives (R388). -/
def readBadge (r : ScriptReply) : Option (List Byte) :=
  (scriptData 12 r).bind fun d => if d.take 4 = [0x53#8, 0x54#8, 0x4F#8, 0x42#8] then some (d.drop 4) else none

/-- BADGE_SCRIPT (R388, R389): the next exchange of the badge script. It ends after a SELECT that failed, or after the READ,
with one event log entry; its exchanges have records while BADGE_RECORDS is 1. -/
def badgeScript (wait : Nat) (r : ScriptReply) (s : State) : State :=
  if (cGet 1 s).script ≠ .badge then s
  else
    let i := (cGet 1 s).got.length
    let s := scriptExchange 1 (badgeCmd i) (flag RG.BADGE_RECORDS 0 s) wait r s
    if i = 0 ∧ (scriptData 0 r).isSome then cMap 1 (fun c => { c with got := [r] }) s
    else
      let read := if i = 0 then none else readBadge r
      let num := read.getD (atrBadge s)
      let s := put RG.BADGE_LAST_HI 0 (beValue (num.take 4)) (put RG.BADGE_LAST_LO 0 (beValue (num.drop 4)) s)
      let s := logEvent 7 (if read.isNone then 2 else 0) 1 [beValue (num.take 4), beValue (num.drop 4)] s
      scriptEnd 1 r (cMap 1 (fun c => { c with badge := some (num, read.isNone) }) s)

end Sys2Proof.Machine
end

