-- ==== Sys2Proof/Machine/Guards.lean ====
section
/-! DEFINITION. The KL-08 guards (chapter 4): the guard link and its transactions, the shadow, bus power, trim,
leakage slices, alerts and temperature. -/

namespace Sys2Proof.Machine

/-! ### State -/

/-- The reset values of a guard's configuration words (Table 4-8): FAILSAFE; ILIM 10, RETRY_S 10, RETRY_MAX 3;
LEAK_THRESH_KOHM 500, LEAK_PERIOD_S 600. -/
def cfgReset : Nat → Nat
  | 0 => 8
  | 1 => 10 + 10 * 256 + 3 * 65536
  | _ => 500 + 600 * 65536

/-- The concentrator's own data of a line after a reset. -/
def LineCtl.empty : LineCtl :=
  { forward := [], needTrim := none, forced := false, trimAt := none, retries := 0, retryAt := none, leakFrom := none,
    measuring := false, lastSlice := none, reconciled := false, offWanted := false, cycleOn := false }

/-- A guard that is not powered. -/
def Guard.empty : Guard :=
  { run := 0, gfVer := 0, temp := 0, vfield := 0, vddioLow := false, alertG := 0, alertL := [], fetch := false, fails := 0,
    faulted := false, answered := false, fresh := true, blocks := [], fw := none, act := none, heldOut := false, restoreAt := none,
    leakWindow := 60, owedWindow := false, link := ⟨[], []⟩ }

/-- Guard `k`. -/
def gGet (k : Nat) (s : State) : Guard := lookup Guard.empty k s.guards
/-- Change guard `k`. -/
def gMap (k : Nat) (f : Guard → Guard) (s : State) : State :=
  { s with guards := store Guard.empty k (f (gGet k s)) s.guards }
/-- The concentrator's data of the line of port `p`. -/
def lcGet (p : Nat) (s : State) : LineCtl := lookup LineCtl.empty p s.lineCtl
/-- Change the concentrator's data of the line of port `p`. -/
def lcMap (p : Nat) (f : LineCtl → LineCtl) (s : State) : State :=
  { s with lineCtl := store LineCtl.empty p (f (lcGet p s)) s.lineCtl }

/-- Word `w` of the guard's own configuration of a line. -/
def cfgWord (p w : Nat) (s : State) : Nat := lookup (cfgReset w) w (lnGet p s).cfg

/-- A field of the guard's own configuration. -/
def cfgField (p w lo width : Nat) (s : State) : Nat := bits (cfgWord p w s) lo width

/-- Configuration word `w` of a line as the shadow holds it (Table 4-8); TRIM_REQ is a command of the
concentrator's own and is not part of it. -/
def shadowWord (p w : Nat) (s : State) : Nat :=
  match w with
  | 0 => get GL.EN p s + 2 * get GL.MODE p s + 4 * get GL.TERM_EN p s + 8 * get GL.FAILSAFE p s + 16 * get GL.PWR_EN p s +
      32 * get GL.PWR_V p s + 128 * get GL.LEAK_EN p s + 256 * get GL.LEAK_ACT p s
  | 1 => get GL.ILIM p s + 256 * get GL.RETRY_S p s + 65536 * get GL.RETRY_MAX p s
  | _ => get GL.LEAK_THRESH_KOHM p s + 65536 * get GL.LEAK_PERIOD_S p s

/-- Set or clear bit `k` of a guard mask field. -/
def maskBit (f : Fld) (k : Nat) (v : Bool) (s : State) : State :=
  let m := get f 0 s
  put f 0 (if v then m ||| 2 ^ k else m - (m &&& 2 ^ k)) s

/-- A guard-wide event: a bit of GUARD_ALERT, and IRQ bit GUARD (Table 12-7). -/
def guardAlert (f : Fld) (k : Nat) (s : State) : State := irq RG.IRQ_GUARD (setBits f 0 (2 ^ k) s)

/-- GL_ALERT_N is low: some guard with an alert pending drives it (R209, R944). -/
def glAlertLow (s : State) : Bool :=
  s.guards.any fun (_, g) => (g.alertG != 0 || !g.alertL.isEmpty) && !g.vddioLow && g.run != 0

/-! ### Counters and events at the guard -/

/-- The counter fields of words 8 to 0xB, in order. -/
def glCounter : Nat → Fld
  | 0 => GL.TRIM_CNT | 1 => GL.TRIM_FAIL_CNT | 2 => GL.SLICE_CNT | 3 => GL.PREEMPTED
  | 4 => GL.SKIPPED | 5 => GL.PWR_FAULT_CNT | _ => GL.RETRY_CNT

/-- One count at the guard: pending forwards of that counter take it as well (R715). -/
def lnCount (p i : Nat) (s : State) : State :=
  let f := glCounter i
  let s := lnMap p (fun x => { x with
    cnt := store 0 i (f.count (lookup 0 i x.cnt) 1) x.cnt, inc := store 0 i (lookup 0 i x.inc + 1) x.inc }) s
  lcMap p (fun c => { c with forward := c.forward.map fun w =>
    if w.kind = .counter ∧ w.word = i then { w with extra := w.extra + 1 } else w }) s

/-- An event bit is set at the guard: it survives a clear that is still on its way (R714). -/
def lnEvent (p bit : Nat) (s : State) : State :=
  let s := lnMap p (fun x => { x with events := x.events ||| 2 ^ bit, since := x.since ||| 2 ^ bit }) s
  lcMap p (fun c => { c with forward := c.forward.map fun w =>
    if w.kind = .clear then { w with extra := w.extra ||| 2 ^ bit } else w }) s

/-- The guard raises an alert for a line (R216). -/
def alertLine (p : Nat) (s : State) : State :=
  gMap (p / 8) (fun g => { g with alertL := (g.alertL.filter (· != p % 8)) ++ [p % 8] }) s

/-- A bus-power fault at the guard (R226, R229 to R231): cause, event, count, alert, and the switch open. -/
def lnFault (p cause : Nat) (s : State) : State :=
  let s := lnMap p (fun x => { x with
    pwr := if cause = 1 then 4 else 5, cause := cause, inrushEnd := none, faultAt := s.now }) s
  alertLine p (lnCount p 5 (lnEvent p (if cause = 8 then 8 else cause - 1) s))

/-- The line's switch is closed. -/
def powered (p : Nat) (s : State) : Bool := (lnGet p s).pwr == 2 || (lnGet p s).pwr == 3

/-! ### Guard link (4.2) -/

/-- The guard has acted on the request: it answered OK, or a reply of its failed the CRC (R214). -/
def glActed (o : GlOutcome) : Bool :=
  o.badReplies != 0 || match o.last with
    | .ok | .replyCrc => true
    | .holdOff a => a
    | _ => false

/-- A reply came, checked or not, so a TRIM_START counts as started (R240, R264). -/
def glReplied (o : GlOutcome) : Bool := o.badReplies != 0 || o.last == .ok || o.last == .replyCrc

/-- A request with its CRC-8 (R211): OP, LINE, REG, COUNT, and the data. -/
def glRequest (op line reg count : Nat) (data : List Byte) : List Byte :=
  let b := [byte op, byte line, byte reg, byte count] ++ data
  b ++ [byte (crc8 b)]

/-- What the concentrator reads after the request CRC (R212, R214): hold-off bytes, STATUS, the reply data of an OK, and the
CRC-8 over STATUS and data; 33 hold-off bytes end the transaction. A reply whose CRC fails gives nothing. -/
def glReply (o : GlOutcome) (data : List Byte) : List Byte :=
  let answer (b : List Byte) := List.replicate (min o.hold 32) 0x5A#8 ++ b ++ [byte (crc8 b)]
  match o.last with
  | .ok => answer (0x00#8 :: data)
  | .refused => answer [0x01#8]
  | .requestCrc => answer [0x03#8]
  | .busy => answer [0x04#8]
  | .holdOff _ => List.replicate 33 0x5A#8
  | .replyCrc => []

/-- The index and details of a GUARD entry (Table 16-5). -/
def logGuard (sub k : Nat) (s : State) : State := logEvent 0x0E sub k [get RG.GF_VER k s, get RG.MON_STATE k s] s

/-- A transaction succeeded: the link fault, if any, ends (R215). -/
def linkGood (k : Nat) (s : State) : State :=
  let was := (gGet k s).faulted
  let s := maskBit RG.GUARD_LINK_OK k true (gMap k (fun g => { g with fails := 0, faulted := false }) s)
  if was then logGuard 1 k (put RG.MON_STATE k (gGet k s).run s) else s

/-- A transaction failed by CRC, hold-off timeout or BUSY: the third in a row marks LINK_FAULT (R215). -/
def linkBad (k : Nat) (s : State) : State :=
  let s := gMap k (fun g => { g with fails := g.fails + 1 }) s
  if 3 ≤ (gGet k s).fails ∧ !(gGet k s).faulted then
    let s := put RG.MON_STATE k 4 (maskBit RG.GUARD_LINK_OK k false (gMap k (fun g => { g with faulted := true }) s))
    logGuard 0 k (guardAlert RG.GA_LINK_FAULT k s)
  else s

/-- The counters and the link state after one try of a transaction (R212 to R215). A REFUSED is no failure of the link. -/
def linkTry (k : Nat) (e : GlEnd) (s : State) : State :=
  match e with
  | .ok | .refused => linkGood k s
  | .replyCrc => linkBad k (bump RG.GL_ERR_CNT 0 s)
  | .requestCrc | .busy => linkBad k s
  | .holdOff _ => linkBad k (bump RG.GL_HOLD_TO_CNT 0 s)

/-- A transaction with its repeats: at most 2 follow a reply whose CRC failed (R214). -/
def linkResult (k : Nat) (o : GlOutcome) (s : State) : State :=
  linkTry k o.last (each (List.range (min o.badReplies 2)) (fun _ a => linkTry k .replyCrc a) s)

/-- The present guards, ascending. -/
def presentGuards (s : State) : List Nat :=
  (List.range (Config.guards s.variant)).filter fun k => bitOf (get RG.GUARD_PRESENT 0 s) k

/-- The running CF is healthy (R882): in service, no PM group out of service, and every present guard answering with
a GF within its ranges. -/
def healthy (s : State) : Bool :=
  s.sys.phase == .ready && s.sys.pmOut.isEmpty && flag RG.CFG_RESTORED 0 s &&
  (presentGuards s).all fun k => !(gGet k s).faulted && (gGet k s).run == 2 && !(gGet k s).heldOut

/-- The firmware watches R882: its time without a break starts where it comes to hold, and ends where it ceases to (R883). -/
def watchHealth (s : State) : State :=
  { s with sys := { s.sys with wellFrom := if healthy s then some (s.sys.wellFrom.getD s.now) else none } }

/-- The bytes of a transaction pass, and it is counted (R211 to R215). -/
def transact (k : Nat) (req data : List Byte) (o : GlOutcome) (s : State) : State :=
  watchHealth (linkResult k o (gMap k (fun g => { g with link := ⟨req, glReply o data⟩ }) s))

/-- A guard can carry transactions: it is powered and has booted, and its link is not faulted. -/
def Guard.talks (g : Guard) : Bool := g.run != 0 && g.run != 1 && !g.faulted

/-- An ALERT_FETCH is owed to some guard: it goes ahead of any other transaction (R216). -/
def fetchOwed (s : State) : Bool := s.guards.any fun (_, g) => g.fetch && g.talks

/-- The link can carry a transaction to guard `k`: it is there and talks. -/
def linkUsable (k : Nat) (s : State) : Bool := guardOk s k && (gGet k s).talks

/-- The link is free for a transaction to guard `k` that is no ALERT_FETCH. -/
def linkFree (k : Nat) (s : State) : Bool := linkUsable k s && !fetchOwed s

/-- A temperature in a signed 8-bit field, in °C (Table 4-7, Table 4-8). DESIGN CHOICE (assumption 132). -/
def tempField (t : Int) : Nat := if -128 ≤ t ∧ t ≤ 127 then fieldOf 8 t else (Config.offScaleTemp t).toNat

/-- Word `w` of a line as its guard holds it (Table 4-8): GREAD returns it. -/
def lineWord (p w : Nat) (s : State) : Nat :=
  let x := lnGet p s
  let c (i : Nat) := lookup 0 i x.cnt
  match w with
  | 0 | 1 | 2 => cfgWord p w s
  | 3 => x.pwr + 8 * x.cause + 128 * b2n x.inTrim + 256 * b2n x.trimWanted + 512 * x.slicesDone + 16384 * b2n x.leakValid +
      32768 * b2n x.cmFault + 65536 * b2n x.leakLow
  | 4 => x.events
  | 5 => x.iMa + 65536 * x.v10mv
  | 6 => x.leakResult + 65536 * (if x.leakValid then min ((s.now - x.leakAt) / cyclesS 1) 65535 else 65535)
  | 7 => x.termCode + 16 * x.thresh + 4096 * tempField x.trimTemp + 2 ^ 20 * x.trimCause
  | 8 => c 0 + 65536 * c 1
  | 9 => c 2
  | 10 => c 3 + 65536 * c 4
  | 11 => c 5 + 65536 * c 6
  | _ => 0

/-- Guard-side word `w` of guard `k`, counted from 0x00C0 (R984, Table 4-7): LEAK_WINDOW_S, and the measurements of its
GUARD_MON. DEDUCED (assumption 78). -/
def guardWord (k w : Nat) (s : State) : Nat :=
  let g := gGet k s
  if w = 3 then g.leakWindow else if w = 4 + k then g.vfield + 65536 * tempField g.temp else 0

/-- A GREAD's request and reply data (R211, R213): words, most significant byte first (R18). -/
def readBytes (word : Nat → Nat) (reg count : Nat) : List Byte := ((List.range count).map fun i => beBytes 4 (word (reg + i))).flatten

/-! ### The shadow (R207, R208, R713 to R715) -/

/-- LG_EVENTS as a report shows them: clears that are still on their way count as done (R714).
DEDUCED (assumption 71). -/
def reportedEvents (p : Nat) (s : State) : Nat :=
  (lcGet p s).forward.foldl (fun e w => if w.kind = .clear then e - (e &&& (w.value - (w.value &&& w.extra))) else e)
    (lnGet p s).events

/-- A counter as a report shows it: a value that is still on its way counts as written (R715). -/
def reportedCount (p i : Nat) (s : State) : Nat :=
  (lcGet p s).forward.foldl (fun v w => if w.kind = .counter ∧ w.word = i then (glCounter i).count w.value w.extra else v)
    (lookup 0 i (lnGet p s).cnt)

/-- The event fields of LG_EVENTS, bit 0 first (Table 4-8). -/
def glEvents : List Fld :=
  [GL.EV_OC, GL.EV_SHORT, GL.EV_START_FAIL, GL.EV_THERMAL, GL.EV_SUPPLY_LOW, GL.EV_SUPPLY_HIGH, GL.EV_LEAVE_TO,
   GL.EV_TRIM_FAIL, GL.EV_LEAK_ALARM, GL.EV_LEAK_STALE, GL.EV_CM_FAULT]

/-- A LINE_FAULT entry (Table 16-5). -/
def logLineFault (p sub : Nat) (s : State) : State :=
  let x := lnGet p s
  logEvent 0x0D sub p [x.pwr, x.iMa, x.v10mv, x.leakResult] s

/-- The LINE_FAULT entries of newly reported events (R231, R252, TRIM_FAIL, CM_FAULT). A leakage switch-off
(cause 8) is a bus-power fault beside its alarm. -/
def logEvents (p new : Nat) (s : State) : State :=
  let s := each ((List.range 6).filter fun b => bitOf new b) (fun b => logLineFault p (b + 1)) s
  let s := if bitOf new 7 then logLineFault p 9 s else s
  let s := if bitOf new 8 then
      logLineFault p 10 (if (lnGet p s).cause = 8 ∧ (lnGet p s).pwr = 5 then logLineFault p 8 s else s) else s
  if bitOf new 10 then logLineFault p 11 s else s

/-- A port is treated as in trim for another reason than its own trim (R266, R875, R876, R885): its guard
activates a GF or is held out of service, or its PM group is paused. -/
def treated (p : Nat) (s : State) : Bool :=
  (gGet (p / 8) s).act.isSome || (gGet (p / 8) s).heldOut || (s.svc.pm.map fun (g, _) => g) == some (p / 8)

/-- The treatment of a port as in trim ends, unless another reason for it stands. -/
def untreat (p : Nat) (startLevel : Bool) (s : State) : State :=
  if treated p s || (lcGet p s).trimAt.isSome then s else servePendingBreak p (trimEnds p startLevel s)

/-- A port is held as in trim (R188 to R190): its transmits wait, and its reception ends. A reply that a boundary closes at
that character is judged (Table 7-6). -/
def trimTakes (p : Nat) (s : State) : State := judge p (trimBegins p s)

/-- Trim ends for the concentrator (R242): IN_TRIM clears and hunting resumes. `startLevel` is the level of LRXn. -/
def trimCleared (p : Nat) (startLevel : Bool) (s : State) : State :=
  if (lcGet p s).trimAt.isSome then
    let s := lcMap p (fun c => { c with trimAt := none }) s
    untreat p startLevel (putHw GL.TRIM_REQ p 0 s)
  else s

/-- The units of a steady line (R222). -/
def steadyUnits (p : Nat) (s : State) : Nat :=
  ceilDiv ((if flag GL.PWR_V p s then 12 else 5) * (get GL.ILIM p s * 10)) 25

/-- The units of a switch-on (R223, R780). -/
def switchUnits (p : Nat) (s : State) : Nat := max 40 (steadyUnits p s)

/-- PWR_STATE and PWR_CAUSE as the concentrator itself sets them: in the shadow and, for a reconciled line, at the guard.
DEDUCED (assumption 70). -/
def setPwr (p st cause : Nat) (s : State) : State :=
  let s := if (lcGet p s).reconciled then lnMap p (fun x => { x with pwr := st, cause := cause }) s else s
  put GL.PWR_STATE p st (put GL.PWR_CAUSE p cause s)

/-- The line waits for leave, or has it and its switch has not been told yet. -/
def switchPending (p : Nat) (s : State) : Bool := isWaiting (.switchOn p) s || isGranted (.switchOn p) s

/-- A switch-on is asked for (R223, R232). -/
def askSwitchOn (p : Nat) (s : State) : State :=
  requestLeave (.switchOn p) (switchUnits p s) (cyclesMs (get RG.PWR_LEAVE_TO_MS 0 s)) false
    (setPwr p 1 (get GL.PWR_CAUSE p s) s)

/-- A report shows the power state of a line: a line that is OFF gives its grant back, and is switched on again where the
reconciling wants it (R228, R834). -/
def powerReported (p : Nat) (s : State) : State :=
  match (lnGet p s).pwr with
  | 0 =>
    let s := releaseLeave (.switchOn p) s
    if (lcGet p s).cycleOn then
      askSwitchOn p (lcMap p (fun c => { c with cycleOn := false }) s)
    else s
  | 5 => lcMap p (fun c => { c with retryAt := none }) s
  | _ => s

/-- The fetch shows the power state of a line (R225, R226, R231, R232, R261, R780): a grant is cut, or released with the
switch open, and a retry is planned. A PWR_EN of 0 turns RETRY_WAIT and LATCHED into OFF (R228). -/
def powerFetched (p : Nat) (s : State) : State :=
  let x := lnGet p s
  match x.pwr with
  | 3 => if isGranted (.switchOn p) s then cutGrant (.switchOn p) (steadyUnits p s) s else s
  | 4 =>
    let s := releaseLeave (.switchOn p) s
    if !(flag GL.PWR_EN p s) then setPwr p 0 x.cause s
    else if (lcGet p s).retryAt.isSome then s
    else if get GL.RETRY_S p s = 0 ∨ get GL.RETRY_MAX p s ≤ (lcGet p s).retries then setPwr p 5 x.cause s
    else lcMap p (fun c => { c with retryAt := some (x.faultAt + cyclesS (get GL.RETRY_S p s)) }) s
  | 5 =>
    let s := releaseLeave (.switchOn p) s
    if !(flag GL.PWR_EN p s) then setPwr p 0 x.cause s else s
  | _ => s

/-- A temperature-driven need that the guard reports (R236). TRIM_DEFER_MS counts from the report. DESIGN CHOICE
(assumption 127). -/
def trimLearned (p : Nat) (s : State) : State :=
  if (lnGet p s).trimWanted ∧ (lcGet p s).needTrim.isNone ∧ (lcGet p s).trimAt.isNone then
    lcMap p (fun c => { c with needTrim := some (s.now, 1) }) s
  else s

/-- Status word `w` of a line reaches the shadow (R208, R713): its read-only fields, or its counters, follow, and new events
are logged. A line that waits for its reconciling shows LEAVE_WAIT on (R223). -/
def reportWord (p w : Nat) (s : State) : State :=
  let x := lnGet p s
  match w with
  | 3 =>
    let s := if !(lcGet p s).reconciled && switchPending p s then s
      else put GL.PWR_STATE p x.pwr (put GL.PWR_CAUSE p x.cause s)
    let s := put GL.TRIM_WANTED p (b2n (x.trimWanted || (lcGet p s).needTrim.isSome)) s
    let s := put GL.SLICES_DONE p x.slicesDone (put GL.LEAK_VALID p (b2n x.leakValid) s)
    put GL.CM_FAULT p (b2n x.cmFault) (put GL.LEAK_LOW p (b2n x.leakLow) s)
  | 4 =>
    let ev := reportedEvents p s
    let s := glEvents.zipIdx.foldl (fun a (f, i) => put f p (b2n (bitOf ev i)) a) s
    let new := x.since &&& ev
    let s := if new = 0 then s else logEvents p new (irq RG.IRQ_GUARD s)
    lnMap p (fun x => { x with since := 0 }) s
  | 5 => put GL.I_MA p x.iMa (put GL.V_10MV p x.v10mv s)
  | 6 => put GL.LEAK_RESULT p x.leakResult
      (put GL.LEAK_AGE_S p (if x.leakValid then min ((s.now - x.leakAt) / cyclesS 1) 65535 else 65535) s)
  | 7 => put GL.TERM_CODE p x.termCode (put GL.THRESH p x.thresh
      (put GL.TRIM_TEMP p (tempField x.trimTemp) (put GL.TRIM_CAUSE p x.trimCause s)))
  | w => each ((List.range 7).filter fun i => (glCounter i).word == w) (fun i a =>
      lnMap p (fun x => { x with inc := erase i x.inc }) (put (glCounter i) p (reportedCount p i a) a)) s

/-- Status words REG to REG + COUNT − 1 of a line reach the shadow, and the concentrator acts on what word 3 shows. -/
def reportWords (p reg count : Nat) (s : State) : State :=
  let s := each ((List.range count).map (reg + ·)) (fun w a => if 3 ≤ w ∧ w ≤ 11 then reportWord p w a else a) s
  if reg ≤ 3 ∧ 3 < reg + count ∧ (lcGet p s).reconciled then trimLearned p (powerReported p s) else s

/-- All status words of a line reach the shadow. -/
def lineReport (p : Nat) (s : State) : State := reportWords p 3 9 s

/-- The lines of guard `k`. -/
def linesOf (k : Nat) : List Nat := (List.range 8).map (8 * k + ·)

/-- GUARD_MONk takes the guard's measurements; the governor follows a hot guard (R208, R791). -/
def monReport (k : Nat) (s : State) : State :=
  let g := gGet k s
  let s := put RG.MON_VFIELD_MV k g.vfield (put RG.MON_DIE_TEMP k (tempField g.temp) s)
  let hot := s.leave.hotGuards.contains k
  let s := if hot && decide (g.temp < 135) then
      logEvent 0x0C 5 k [fieldOf 32 g.temp] { s with leave := { s.leave with hotGuards := s.leave.hotGuards.filter (· != k) } }
    else if !hot && g.fresh && decide (135 ≤ g.temp) then
      { s with leave := { s.leave with hotGuards := s.leave.hotGuards ++ [k] } }
    else s
  gMap k (fun g => { g with fresh := false }) s

/-- IN_TRIM is cleared without an alert once 3.2 ms have passed and a report shows the guard out of trim (R264). -/
def trimOverdue (p : Nat) (startLevel : Bool) (s : State) : State :=
  match (lcGet p s).trimAt with
  | some t => if t + cyclesUs 3200 ≤ s.now ∧ !(lnGet p s).inTrim ∧ (gGet (p / 8) s).act.isNone then trimCleared p startLevel s else s
  | none => s

/-- GREAD of a line (R213, R264): words REG to REG + COUNT − 1 reach the concentrator; status words refresh the shadow, and
word 3 shows IN_TRIM. -/
def greadLine (p reg count : Nat) (startLevel : Bool) (o : GlOutcome) (s : State) : State :=
  let k := p / 8
  if !(linkFree k s) ∨ count = 0 ∨ 16 < count then s
  else
    let s := transact k (glRequest 0x11 (p % 8) reg count []) (readBytes (fun w => lineWord p w s) reg count) o s
    if !o.isOk then s
    else
      let s := reportWords p reg count s
      if reg ≤ 3 ∧ 3 < reg + count then trimOverdue p startLevel s else s

/-- GREAD of the guard itself (R211, R213): its GUARD_MON refreshes VFIELD_MV and DIE_TEMP (R984). -/
def greadGuard (k reg count : Nat) (o : GlOutcome) (s : State) : State :=
  if !(linkFree k s) ∨ count = 0 ∨ 16 < count then s
  else
    let s := transact k (glRequest 0x11 0xFF reg count []) (readBytes (fun w => guardWord k w s) reg count) o s
    if o.isOk ∧ reg ≤ 4 + k ∧ 4 + k < reg + count then monReport k s else s

/-- SHADOW_REFRESH (R208, R791): the status words of every line of a running guard, with the measurements as the
guard has them: VFIELD in mV, the die temperature, and the readings of its 8 lines. DEDUCED (assumption 74). -/
def shadowRefresh (k vfield : Nat) (temp : Int) (meas : List LineReading) (o : GlOutcome) (s : State) : State :=
  if !(linkFree k s) ∨ (gGet k s).run ≠ 2 then s
  else
    let s := gMap k (fun g => { g with vfield := vfield, temp := temp }) s
    let s := (meas.take 8).zipIdx.foldl (fun a (r, j) => lnMap (8 * k + j) (fun x => { x with iMa := r.iMa, v10mv := r.v10mv }) a) s
    let s := transact k (glRequest 0x11 0xFF (4 + k) 1 []) (readBytes (fun w => guardWord k w s) (4 + k) 1) o s
    if o.isOk then monReport k (each (linesOf k) (fun p a =>
        trimOverdue p (match meas[p % 8]? with | some r => r.start | none => false) (lineReport p a)) s) else s

/-- A forward takes effect at the guard (R207, R714, R715). -/
def applyFwd (p : Nat) (w : Fwd) (s : State) : State :=
  match w.kind with
  | .config => lnMap p (fun x => { x with cfg := store (cfgReset w.word) w.word w.value x.cfg }) s
  | .clear => lnMap p (fun x => { x with events := x.events - (x.events &&& (w.value - (w.value &&& w.extra))) }) s
  | .counter => lnMap p (fun x => { x with cnt := store 0 w.word ((glCounter w.word).count w.value w.extra) x.cnt }) s

/-- REG and the word of a forward (R207, R710, R714, R715): a counter keeps the other one of its word by the keep code. -/
def fwdWord (w : Fwd) : Nat × Nat :=
  match w.kind with
  | .config => (w.word, w.value)
  | .clear => (4, w.value)
  | .counter =>
    let f := glCounter w.word
    (f.word, w.value * 2 ^ f.lo + (2 ^ 32 - 2 ^ f.width) * (if f.width = 32 then 0 else if f.lo = 0 then 1 else 0) +
      (if f.lo = 0 then 0 else 2 ^ f.lo - 1))

/-- GWRITE to a line (R207, R834): the oldest word owed to a reconciled line is forwarded. One that the guard refuses is owed
no longer. DESIGN CHOICE (assumption 78). -/
def gwriteLine (p : Nat) (o : GlOutcome) (s : State) : State :=
  let k := p / 8
  if !(linkFree k s) ∨ (gGet k s).run ≠ 2 ∨ !(lcGet p s).reconciled then s
  else match (lcGet p s).forward with
    | [] => s
    | w :: r =>
      let s := if glActed o then applyFwd p w s else s
      let s := if o.isOk ∨ o.last = .refused then lcMap p (fun c => { c with forward := r }) s else s
      transact k (glRequest 0x12 (p % 8) (fwdWord w).1 1 (beBytes 4 (fwdWord w).2)) [] o s

/-- GWRITE of LEAK_WINDOW_S to a guard (R984). -/
def gwriteGuard (k : Nat) (o : GlOutcome) (s : State) : State :=
  if !(linkFree k s) ∨ (gGet k s).run ≠ 2 ∨ !(gGet k s).owedWindow then s
  else
    let v := get RG.LEAK_WINDOW_S 0 s
    let s := gMap k (fun g => { g with
      leakWindow := if glActed o then v else g.leakWindow, owedWindow := !(o.isOk || o.last == .refused) }) s
    transact k (glRequest 0x12 0xFF 3 1 (beBytes 4 v)) [] o s

/-- A word of a line's configuration is owed to the guard (R207). DEDUCED (assumption 145). -/
def forwardConfig (p w : Nat) (s : State) : State :=
  lcMap p (fun c => { c with forward := (c.forward.filter fun x => !(x.kind == .config && x.word == w)) ++
    [⟨.config, w, shadowWord p w s, 0⟩] }) s

/-- A clear of LG_EVENTS bits is owed to the guard (R714): the bits set there since the last report survive, and so does a
bit that the concentrator itself sets in the cycle of the write (R29). -/
def forwardClear (p mask : Nat) (s : State) : State :=
  let own := if lookup 0 (GL.EV_LEAVE_TO.key p) s.cyc.set = 0 then 0 else 64
  if mask = 0 then s
  else lcMap p (fun c => { c with forward := c.forward ++ [⟨.clear, 4, mask, (lnGet p s).since ||| own⟩] }) s

/-- A counter value is owed to the guard (R715). -/
def forwardCounter (p i v : Nat) (s : State) : State :=
  lcMap p (fun c => { c with forward := (c.forward.filter fun x => !(x.kind == .counter && x.word == i)) ++
    [⟨.counter, i, v, lookup 0 i (lnGet p s).inc⟩] }) s

/-! ### Slices (4.6) -/

/-- No slice and no trim starts on the line: link fault, recovery, activation (R215, R266, R828). -/
def guardServes (p : Nat) (s : State) : Bool :=
  linkUsable (p / 8) s && (gGet (p / 8) s).run == 2 && (gGet (p / 8) s).act.isNone && !(gGet (p / 8) s).heldOut

/-- The trim of a line may start now (R191, R238, R239, R243): while LDEn is low, at once for an enable, in a predicted gap of
3.3 ms, or forced while no transmit record is released. DEDUCED (assumption 144). -/
def trimStarts (p : Nat) (s : State) : Bool :=
  guardServes p s && (lcGet p s).trimAt.isNone && (lnGet p s).pwr != 2 && !ldeHigh p s &&
  (match (lcGet p s).needTrim with
    | some (_, 0) => true
    | some _ => gapFits p (cyclesUs 3300) s ||
        ((lcGet p s).forced && (pGet p s).txq.isEmpty && (qGet (48 + p) s).count == 0)
    | none => false)

/-- Leave for the next slice is asked for (R247): it waits until its gap starts. DEDUCED (assumption 73). -/
def sliceAsk (p : Nat) (s : State) : State :=
  if (lcGet p s).measuring ∧ !(isWaiting (.slice p) s) ∧ !(isGranted (.slice p) s) then
    requestLeave (.slice p) 8 (2 ^ 64) false s
  else s

/-- The slice in progress is given up (R63, R248, R249): its units are released, and it counts in PREEMPTED (3) or
SKIPPED (4). -/
def dropSlice (p counter : Nat) (s : State) : State :=
  if (lnGet p s).slice.isSome then
    sliceAsk p (releaseLeave (.slice p) (lnCount p counter (lnMap p (fun x => { x with slice := none }) s)))
  else s

/-- A measurement begins (R246). -/
def measureStart (p : Nat) (s : State) : State :=
  let s := lnMap p (fun x => { x with slicesDone := 0, firstSlice := none }) s
  sliceAsk p (lcMap p (fun c => { c with leakFrom := some s.now, measuring := true }) s)

/-- The slice in progress is discarded with its measurement, and its units are released. DEDUCED (assumption 73). -/
def discardSlice (p : Nat) (s : State) : State :=
  if (lnGet p s).slice.isSome then releaseLeave (.slice p) (lnMap p (fun x => { x with slice := none }) s) else s

/-- LEAK_MEASUREMENT_START (R246): at once when the line has none, otherwise the clock runs on to LEAK_PERIOD_S after the
previous one began, whether that one has ended or not. -/
def leakMeasurementStart (p : Nat) (s : State) : State :=
  if !(portOk s p) ∨ !(flag GL.LEAK_EN p s) then s
  else match (lcGet p s).leakFrom with
    | none => measureStart p s
    | some t => measureStart p (discardSlice p (runTo (t + cyclesS (get GL.LEAK_PERIOD_S p s)) s))

/-- LEAK_EN is cleared: the measurement ends. -/
def leakStop (p : Nat) (s : State) : State :=
  let s := withdrawLeave (.slice p) s
  let s := if (lnGet p s).slice.isSome then lnMap p (fun x => { x with slice := none }) s else s
  lcMap p (fun c => { c with measuring := false, leakFrom := none }) (releaseLeave (.slice p) s)

/-- The gap of a slice in CORE cycles (R246). -/
def sliceGap (s : State) : Nat := cyclesUs (2000 + 2 * get RG.SLICE_MARGIN_US 0 s)

/-- Slices on one line begin at least 10 ms apart (R246). -/
def sliceSpaced (p : Nat) (s : State) : Bool :=
  match (lcGet p s).lastSlice with
  | some t => decide (t + cyclesMs 10 ≤ s.now + cyclesUs (get RG.SLICE_MARGIN_US 0 s))
  | none => true

/-- SLICE_START (R246, R247, R253, R445): at the start of a predicted gap with its leave granted, and no trim that may take
the gap, the slice begins SLICE_MARGIN_US later. Lines of one guard may be in slices at once. DESIGN CHOICE
(assumption 126). -/
def sliceStart (p : Nat) (o : GlOutcome) (s : State) : State :=
  if !(linkFree (p / 8) s) ∨ !(guardServes p s) ∨ !(lcGet p s).measuring ∨ !(mayStart (.slice p) s) ∨ (lnGet p s).slice.isSome ∨
      (lcGet p s).trimAt.isSome ∨ trimStarts p s ∨ !(sliceSpaced p s) ∨ !(gapFits p (sliceGap s) s) then s
  else
    let s := grantGap p s
    let us := get RG.SLICE_MARGIN_US 0 s
    let t := s.now + cyclesUs us
    let req := glRequest 0x14 (p % 8) 0 1 ([byte (lnGet p s).slicesDone, 0x00#8] ++ beBytes 2 us)
    let s := if glActed o then
        lcMap p (fun c => { c with lastSlice := some t }) (lnMap p (fun x => { x with slice := some t }) s)
      else copMap p (fun c => { c with gap := none }) s
    transact (p / 8) req [] o s

/-- SLICE_SKIP (R247): a gap for the slice starts and its grant has not come: the request is withdrawn and the slice
counts in SKIPPED; the next gap's slice asks anew. A slice whose request the governor has removed (R767) asks again. -/
def sliceSkip (p : Nat) (s : State) : State :=
  if !(lcGet p s).measuring ∨ isGranted (.slice p) s ∨ (lnGet p s).slice.isSome ∨ !(sliceSpaced p s) ∨
      !(gapFits p (sliceGap s) s) then s
  else if isWaiting (.slice p) s then sliceAsk p (lnCount p 4 (withdrawLeave (.slice p) s))
  else sliceAsk p s

/-- LEAK_RESULT of a resistance in kΩ (R251). -/
def leakCode (kohm : Nat) : Nat := if kohm < 20 then 0 else if 20000 < kohm then 65535 else kohm

/-- The result of a measurement (R250 to R252, R267). -/
def leakResult (p kohm : Nat) (s : State) : State :=
  let r := leakCode kohm
  let th := cfgField p 2 0 16 s
  let s := lnMap p (fun x => { x with leakValid := true, leakResult := r, leakAt := s.now }) s
  let s := lcMap p (fun c => { c with measuring := false }) s
  if r < th then
    let s := alertLine p (lnEvent p 8 (lnMap p (fun x => { x with leakLow := true }) s))
    if cfgField p 0 8 1 s = 1 ∧ (powered p s ∨ (lnGet p s).pwr = 4) then
      alertLine p (lnCount p 5 (lnMap p (fun x => { x with pwr := 5, cause := 8, inrushEnd := none, faultAt := s.now }) s))
    else s
  else if th * 12 ≤ r * 10 then lnMap p (fun x => { x with leakLow := false }) s
  else s

/-- The window of a measurement has expired (R250): its slices are discarded, LEAK_STALE is set, and a new measurement
begins at once. -/
def windowExpired (p : Nat) (s : State) : State := measureStart p (lnEvent p 9 (discardSlice p s))

/-- LEAK_WINDOW_EXPIRY (R250): the clock runs on to LEAK_WINDOW_S after the first completed slice began. -/
def leakWindowExpiry (p : Nat) (s : State) : State :=
  match (lnGet p s).firstSlice with
  | none => s
  | some t =>
    if !(lcGet p s).measuring then s
    else windowExpired p (runTo (t + cyclesS (gGet (p / 8) s).leakWindow) s)

/-- SLICE_END (R250): the clock runs on to 2 ms after the slice began; the slice counts, and the 25th within the window
gives the result `kohm`. A slice that a transmit or a trim has taken the line from does not end so. -/
def sliceEnd (p kohm : Nat) (s : State) : State :=
  match (lnGet p s).slice with
  | none => s
  | some t =>
    if ldeHigh p s ∨ (lnGet p s).inTrim then s
    else
      let s := runTo (t + cyclesMs 2) s
      let first := (lnGet p s).firstSlice.getD t
      let s := lnCount p 2 (lnMap p (fun x => { x with
        slice := none, slicesDone := x.slicesDone + 1, firstSlice := some first }) s)
      let s := copMap p (fun c => { c with gap := none }) (releaseLeave (.slice p) s)
      if first + cyclesS (gGet (p / 8) s).leakWindow < s.now then windowExpired p s
      else if 25 ≤ (lnGet p s).slicesDone then leakResult p kohm s
      else sliceAsk p s

/-- SLICE_PREEMPT (R63, R248): a break, a transmit or a trim has the line during a slice. -/
def slicePreempt (p : Nat) (s : State) : State :=
  if ldeHigh p s ∨ (lnGet p s).inTrim then copMap p (fun c => { c with gap := none }) (dropSlice p 3 s) else s

/-! ### Trim (4.5) -/

/-- A line needs trim (R236). The need of an enable takes the place of one that waits for a gap: its trim starts at once
(R238). -/
def needTrim (p cause : Nat) (s : State) : State :=
  if (lcGet p s).needTrim.isSome && cause != 0 then s
  else put GL.TRIM_WANTED p 1 (lcMap p (fun c => { c with needTrim := some (s.now, cause) }) s)

/-- TRIM_DEFER_TIMEOUT (R239): the clock runs on to TRIM_DEFER_MS after the need; the trim is forced. -/
def trimDeferTimeout (p : Nat) (s : State) : State :=
  match (lcGet p s).needTrim with
  | some (t, c) =>
    if c = 0 then s
    else lcMap p (fun x => { x with forced := true }) (runTo (t + cyclesMs (get RG.TRIM_DEFER_MS 0 s)) s)
  | none => s

/-- The line that the guard trims next: the lowest that may start, when none of the guard is in trim (R237).
DEDUCED (assumption 144). -/
def nextTrim (k : Nat) (s : State) : Option Nat :=
  if (linesOf k).any (fun p => (lcGet p s).trimAt.isSome) then none else (linesOf k).find? fun p => trimStarts p s

/-- TRIM_START (R237 to R243): IN_TRIM is set, the port's receiver and transmitter are held, and a slice in
progress is preempted. A reply whose CRC fails counts as started, whatever its repeats come to (R240, R264).
DEDUCED (assumption 144). -/
def trimStart (p : Nat) (o : GlOutcome) (s : State) : State :=
  if !(linkFree (p / 8) s) ∨ nextTrim (p / 8) s ≠ some p then s
  else
    let cause := match (lcGet p s).needTrim with | some (_, c) => c | none => 0
    let s := if cause ≠ 0 ∧ gapFits p (cyclesUs 3300) s then grantGap p s else s
    let s := if glActed o then
        dropSlice p 3 (lnMap p (fun x => { x with inTrim := true, trimWanted := false, trimCause := cause }) s) else s
    let s := if glReplied o then
        trimTakes p (put GL.TRIM_WANTED p 0 (lcMap p (fun c => { c with
          needTrim := none, forced := false, trimAt := some s.now }) s))
      else copMap p (fun c => { c with gap := none }) s
    transact (p / 8) (glRequest 0x13 (p % 8) 0 0 []) [] o s

/-- TRIM_END (R242, R244): the guard leaves trim through APPLY with its codes, or through FAIL; it counts and raises
an alert. -/
def trimEnd (p : Nat) (codes : Option (Nat × Nat)) (s : State) : State :=
  if !(lnGet p s).inTrim then s
  else
    let s := lnCount p 0 (lnMap p (fun x => { x with inTrim := false }) s)
    let s := match codes with
      | some (term, thr) => lnMap p (fun x => { x with
          termCode := if cfgField p 0 1 1 s = 0 then term % 16 else x.termCode, thresh := thr % 256,
          trimTemp := (gGet (p / 8) s).temp }) s
      | none => lnEvent p 7 (lnCount p 1 s)
    alertLine p (copMap p (fun c => { c with gap := none }) s)

/-- TRIM_WANTED (R236, R263): the guard's die temperature is `temp`, 10 °C or more from the line's last trim. -/
def trimWantedEvent (p : Nat) (temp : Int) (s : State) : State :=
  if !(portOk s p) ∨ (gGet (p / 8) s).run ≠ 2 then s
  else
    let s := gMap (p / 8) (fun g => { g with temp := temp }) s
    if 10 ≤ (temp - (lnGet p s).trimTemp).natAbs ∧ !(lnGet p s).inTrim then
      alertLine p (lnMap p (fun x => { x with trimWanted := true }) s)
    else s

/-- A write of TRIM_REQ = 1 (R236). DEDUCED (assumption 75). -/
def trimReq (p : Nat) (s : State) : State := needTrim p 2 (putSw GL.TRIM_REQ p 1 s)

/-! ### Bus power (4.4) -/

/-- Host software writes PWR_EN from 0 to 1 (R223, R232). The firmware's own restore of a line asks when it reconciles it
(R834). -/
def pwrEnSet (p : Nat) (s : State) : State :=
  let s := lcMap p (fun c => { c with retries := 0, retryAt := none }) s
  let host := (lcGet p s).reconciled || s.sys.phase == .ready || s.sys.phase == .paused
  if (gGet (p / 8) s).heldOut || !host then s else askSwitchOn p s

/-- A write of PWR_EN = 0 (R228, R260): a waiting request is withdrawn, RETRY_WAIT and LATCHED become OFF, and a closed
switch is to open. -/
def pwrEnClear (p : Nat) (s : State) : State :=
  let s := lcMap p (fun c => { c with retries := 0, retryAt := none, cycleOn := false }) s
  if !(lcGet p s).reconciled then
    if switchPending p s then setPwr p 0 (get GL.PWR_CAUSE p s) (releaseLeave (.switchOn p) (withdrawLeave (.switchOn p) s)) else s
  else match (lnGet p s).pwr with
    | 1 => setPwr p 0 (lnGet p s).cause (releaseLeave (.switchOn p) (withdrawLeave (.switchOn p) s))
    | 4 | 5 => setPwr p 0 (lnGet p s).cause s
    | 2 | 3 => lcMap p (fun c => { c with offWanted := true }) s
    | _ => s

/-- The switch of a line is told to close (R224, R229). Below 14.0 V a 12 V line stays open and reports SUPPLY_LOW: a slice on
it is skipped (R248), and GUARD_ALERT will show SUPPLY (Table 4-7). DEDUCED (assumption 146). -/
def switchCloses (p : Nat) (s : State) : State :=
  let k := p / 8
  if cfgField p 0 5 1 s = 1 ∧ (gGet k s).vfield < 14000 then
    dropSlice p 4 (lnFault p 5 (gMap k (fun g => { g with alertG := g.alertG ||| 1 }) s))
  else lnMap p (fun x => { x with pwr := 2, inrushEnd := some (s.now + cyclesMs 5) }) s

/-- The switch of a line is told to open. -/
def switchOpens (p : Nat) (s : State) : State :=
  lnMap p (fun x => { x with pwr := if x.pwr = 2 ∨ x.pwr = 3 then 0 else x.pwr, inrushEnd := none }) s

/-- PWR_SWITCH (R224, R228, R229): on after the grant, off when the line is to be switched off. While the guard activates a
GF its switches stay as they are (R266). -/
def pwrSwitch (p : Nat) (on : Bool) (o : GlOutcome) (s : State) : State :=
  let k := p / 8
  let req := glRequest 0x15 (p % 8) 0 1 [byte (b2n on), 0x00#8, 0x00#8, 0x00#8]
  if !(linkFree k s) ∨ (gGet k s).act.isSome ∨ (gGet k s).run = 5 then s
  else if on then
    if (lnGet p s).pwr ≠ 1 ∨ !(lcGet p s).reconciled ∨ !(mayStart (.switchOn p) s) then s
    else
      let s := transact k req [] o (if glActed o then switchCloses p s else s)
      if o.isOk ∧ (lnGet p s).pwr = 2 then put GL.PWR_STATE p 2 s else s
  else if !(lcGet p s).offWanted then s
  else
    let s := if glActed o then switchOpens p s else s
    transact k req [] o (if o.isOk then lcMap p (fun c => { c with offWanted := false }) s else s)

/-- INRUSH_TIMER_EXPIRY (R225, R226): the clock runs on to 5 ms after the switch closed; `reached` tells whether the
output stands at 90 % of nominal or above. -/
def inrushTimerExpiry (p : Nat) (reached : Bool) (s : State) : State :=
  match (lnGet p s).inrushEnd with
  | none => s
  | some t =>
    let s := runTo t s
    if reached then alertLine p (lnMap p (fun x => { x with pwr := 3, inrushEnd := none }) s) else lnFault p 3 s

/-- A waiting switch-on ends with a cause (R262): its event bit is set. PWR_FAULT_CNT and the alert are for powered lines,
and the line is latched at once. DESIGN CHOICE (assumption 125). -/
def latchWaiting (p cause : Nat) (s : State) : State :=
  lnEvent p (cause - 1) (setPwr p 5 cause (releaseLeave (.switchOn p) (withdrawLeave (.switchOn p) s)))

/-- All switches of a guard open with a cause (R230, R254, R262): waiting lines are latched for a supply fault, and a slice
of a line that takes SUPPLY_LOW is skipped (R248). -/
def allOpen (k cause : Nat) (s : State) : State :=
  each (linesOf k) (fun p a =>
    let skip (a : State) := if cause = 5 then dropSlice p 4 a else a
    if powered p a then skip (lnFault p cause a)
    else if ((lnGet p a).pwr = 1 ∨ (!(lcGet p a).reconciled ∧ switchPending p a)) ∧ (cause = 5 ∨ cause = 6) then skip (latchWaiting p cause a)
    else a) s

/-- PWR_FAULT (R230, R231, R248): the guard detects a fault of Table 4-3 on a powered line. OC and SHORT do not
act in INRUSH; a supply fault opens every switch of the guard. DEDUCED (assumption 146). -/
def pwrFault (p cause : Nat) (s : State) : State :=
  if !(portOk s p) ∨ (gGet (p / 8) s).run = 0 then s
  else match cause with
    | 1 | 2 => if (lnGet p s).pwr = 3 then dropSlice p 4 (lnFault p cause s) else s
    | 4 => if powered p s then lnFault p 4 s else s
    | 5 | 6 => gMap (p / 8) (fun g => { g with alertG := g.alertG ||| 1 }) (allOpen (p / 8) cause s)
    | _ => s

/-- RETRY_WAIT_EXPIRY (R232): the clock runs on to RETRY_S after the fault; the line is switched on again.
DEDUCED (assumption 72). -/
def retryWaitExpiry (p : Nat) (s : State) : State :=
  match (lcGet p s).retryAt with
  | none => s
  | some t =>
    let s := runTo t s
    if (lnGet p s).pwr ≠ 4 then s
    else
      let s := lcMap p (fun c => { c with retryAt := none, retries := c.retries + 1 }) s
      askSwitchOn p (lnCount p 6 s)

/-- A switch-on request timed out (R227): LEAVE_TO is set in both copies, as hardware sets an H bit, and survives a clear that
is on its way. PWR_FAULT_CNT counts the guard's faults alone. DESIGN CHOICE (assumption 125). -/
def switchTimeout (p : Nat) (s : State) : State :=
  let s := lnMap p (fun x => { x with events := x.events ||| 64 }) (setPwr p 5 7 s)
  let s := lcMap p (fun c => { c with forward := c.forward.map fun w =>
    if w.kind = .clear then { w with extra := w.extra ||| 64 } else w }) s
  raise RG.IRQ_GUARD GL.EV_LEAVE_TO p s

/-! ### Alerts and guard events -/

/-- GL_ALERT_N (R216): the line falls; a fetch is owed to every guard with a pending alert. -/
def glAlertN (s : State) : State :=
  { s with guards := s.guards.map fun (k, g) =>
      (k, if (g.alertG ≠ 0 ∨ !g.alertL.isEmpty) ∧ !g.vddioLow then { g with fetch := true } else g) }

/-- The reply data of an ALERT_FETCH: bits 7:0 the lines, bits 10:8 SUPPLY, RECOVERY and DIE_HOT of the guard.
DESIGN CHOICE (assumption 78). -/
def alertBytes (g : Guard) : List Byte := beBytes 4 (g.alertL.foldl (fun a j => a ||| 2 ^ j) (256 * g.alertG))

/-- What an answered fetch brings for the guard as a whole (R216, R254, R828). -/
def guardFetched (k alertG : Nat) (temp : Int) (s : State) : State :=
  let s := if bitOf alertG 0 then guardAlert RG.GA_SUPPLY k s else s
  let s := if bitOf alertG 1 then logGuard 3 k (put RG.MON_STATE k 3 (put RG.GF_VER k 0 (guardAlert RG.GA_RECOVERY k s))) else s
  if bitOf alertG 2 then
    logEvent 0x0C 4 k [fieldOf 32 temp] { (guardAlert RG.GA_DIE_HOT k s) with
      leave := { s.leave with hotGuards := (s.leave.hotGuards.filter (· != k)) ++ [k] } }
  else s

/-- ALERT_FETCH (R216, R225, R231, R242): the pending alerts are returned and cleared, the shadow is refreshed at
once, and the concentrator acts. `startLines` are the ports whose LRXn shows the start level at a trim's end. A reply whose
CRC failed has cleared the alerts: its repeat returns none of them. -/
def alertFetch (k : Nat) (startLines : List Nat) (o : GlOutcome) (s : State) : State :=
  if !(linkUsable k s) then s
  else
    let lost := o.badReplies != 0
    let g := if lost then { gGet k s with alertG := 0, alertL := [] } else gGet k s
    let s := if glActed o then gMap k (fun g => { g with alertG := 0, alertL := [], fetch := false }) s else s
    let s := transact k (glRequest 0x16 0xFF 0 0 []) (alertBytes g) o s
    if !o.isOk then s
    else
      let s := guardFetched k g.alertG g.temp s
      let s := each (linesOf k) (fun p a =>
        let a := lineReport p a
        let a := if (lcGet p a).reconciled then powerFetched p a else a
        if g.alertL.contains (p % 8) && !(lnGet p a).inTrim then trimCleared p (startLines.contains p) a else a) s
      monReport k s

/-- CM_FAULT (R220): the common-mode voltage of an RS-485 line leaves its range; from now on the guard forces its receiver
output idle. DEDUCED (assumption 143). -/
def cmFault (p : Nat) (s : State) : State :=
  if portOk s p ∧ (gGet (p / 8) s).run = 2 ∧ cfgField p 0 1 1 s = 0 ∧ !(lnGet p s).cmFault then
    lnEvent p 10 (lnMap p (fun x => { x with cmFault := true, cmFrom := s.now }) s)
  else s

/-- CM_FAULT_END (R220): the receiver output follows the line again. -/
def cmFaultEnd (p : Nat) (s : State) : State :=
  if (lnGet p s).cmFault then lnMap p (fun x => { x with cmFault := false, cmTo := s.now }) s else s

/-- GUARD_DIE_HOT (R254): at 140 °C DIE_HOT and an alert, at 150 °C every switch opens with THERMAL. -/
def guardDieHot (k : Nat) (temp : Int) (s : State) : State :=
  if !(guardOk s k) ∨ (gGet k s).run = 0 then s
  else
    let s := gMap k (fun g => { g with temp := temp }) s
    let s := if 140 ≤ temp then gMap k (fun g => { g with alertG := g.alertG ||| 4 }) s else s
    if 150 ≤ temp then allOpen k 4 s else s

/-- GUARD_VDDIO_LOW and GUARD_VDDIO_RETURN (R944). -/
def guardVddio (k : Nat) (low : Bool) (s : State) : State :=
  if guardOk s k then gMap k (fun g => { g with vddioLow := low }) s else s

/-- GUARD_BOOT (R824, Table 4-7): a guard powers up with every switch open, and is booting; within 120 ms it runs its GF of
version `ver`, or stays in its ROM recovery loader. DESIGN CHOICE (assumption 128). DEDUCED (assumption 145). -/
def guardBoot (k ver : Nat) (b : GuardBoot) (s : State) : State :=
  if !(guardOk s k) then s
  else
    let s := each (linesOf k) (fun p a => lnMap p (fun _ => GLine.empty) (cmFaultEnd p a)) s
    watchHealth <| gMap k (fun g => { g with
      run := match b with | .powerUp => 1 | .running => 2 | .recovery => 3
      gfVer := if b = .running then ver else 0
      leakWindow := 60
      alertG := match b with | .recovery => g.alertG ||| 2 | _ => 0
      alertL := [], blocks := [], act := none, fw := none }) s

/-! ### IDENT and reconciling (14.6, 14.7) -/

/-- A line is reconciled (R827, R834): leave is booked for a line that is on (R778; a line in INRUSH by R780, DEDUCED,
assumption 103), a line that differs from its restored words is switched, and the restored words are forwarded. A request that host software's write has made stands (R223). -/
def reconcile (p : Nat) (s : State) : State :=
  let x := lnGet p s
  let enabled := bits (cfgWord p 0 s) 0 1 = 1
  let want := flag GL.PWR_EN p s
  let same := cfgField p 0 5 1 s = get GL.PWR_V p s ∧ cfgField p 1 0 5 s = get GL.ILIM p s
  let s := lcMap p (fun c => { c with reconciled := true }) s
  let s := if flag GL.EN p s ∧ !enabled then needTrim p 0 s else s
  let s := if x.pwr = 3 ∨ x.pwr = 2 then
      let s := book (.switchOn p) (if x.pwr = 2 then switchUnits p s else steadyUnits p s) (releaseLeave (.switchOn p) (withdrawLeave (.switchOn p) s))
      if !want then lcMap p (fun c => { c with offWanted := true }) s
      else if same then s else lcMap p (fun c => { c with offWanted := true, cycleOn := true }) s
    else if !want then s
    else if switchPending p s then setPwr p 1 x.cause s
    else askSwitchOn p s
  forwardConfig p 0 (forwardConfig p 1 (forwardConfig p 2 (lineReport p s)))

/-- The lines of a present guard are reconciled (R827). -/
def reconcileGuard (k : Nat) (s : State) : State :=
  let s := if get RG.LEAK_WINDOW_S 0 s ≠ (gGet k s).leakWindow then gMap k (fun g => { g with owedWindow := true }) s else s
  monReport k (each (linesOf k) reconcile s)

/-- The version and the state that IDENT shows (R743, R759, R828). -/
def identTaken (k : Nat) (s : State) : State :=
  let g := gGet k s
  put RG.MON_STATE k g.run (put RG.GF_VER k (if g.run = 3 then 0 else g.gfVer) s)

/-- The reply data of IDENT: GF version, interface generation, state, and 2 bytes 0 (Table 4-1, R741).
DESIGN CHOICE (assumption 78). -/
def identBytes (g : Guard) : List Byte := beBytes 4 g.gfVer ++ [byte (g.gfVer % 256), byte g.run, 0x00#8, 0x00#8]

/-- IDENT (R825, R826, R215): at boot, on a link fault, or polled. A guard that answers after the guard wait joins
late and is reconciled. One that is still booting shows STATE 1 and is asked again. DESIGN CHOICE (assumption 128).
DEDUCED (assumption 145). -/
def ident (k : Nat) (o : GlOutcome) (s : State) : State :=
  if !(guardOk s k) ∨ (gGet k s).run = 0 ∨ (gGet k s).run = 5 ∨ fetchOwed s then s
  else
    let s := transact k (glRequest 0x17 0xFF 0 0 []) (identBytes (gGet k s)) o s
    if !o.isOk then s
    else if (gGet k s).run = 1 then identTaken k s
    else
      let s := identTaken k (gMap k (fun g => { g with answered := true }) s)
      let present := bitOf (get RG.GUARD_PRESENT 0 s) k
      match s.sys.phase with
      | .ready | .paused =>
        if present then s else watchHealth (reconcileGuard k (logGuard 2 k (maskBit RG.GUARD_PRESENT k true s)))
      | _ => s

/-- A write of EN of a guard line from 0 to 1 (R236, R238). -/
def guardLineEnable (p : Nat) (s : State) : State := needTrim p 0 s

/-- A character received on an SDI-12 line during a slice discards the slice (R249). -/
def sliceHeard (p : Nat) (s : State) : State :=
  if cfgField p 0 1 1 s = 1 then copMap p (fun c => { c with gap := none }) (dropSlice p 4 s) else s

end Sys2Proof.Machine
end

