-- ==== Sys2Proof/Machine/FlashLog.lean ====
section
/-! DEFINITION. The external flash (15.1, 15.9): its contents, the operations the firmware has to do, one at a time
and each behind its leave; slots, GF copies and images; the event log ring (16.4); the configuration store journal
(15.8). -/

namespace Sys2Proof.Machine

/-! ### Contents -/

/-- A byte of the flash: an unlisted one is erased. DESIGN CHOICE (assumption 9). -/
def fByte (a : Nat) (m : List Host.Cell) : Byte := lookup 255#8 a m

/-- What read number `n` of this moment finds in a byte of the flash: its contents, but for a byte that an interruption has
left unsteady (R898, R899). -/
def fRead (n a : Nat) (s : State) : Byte :=
  match s.flash.unsteady.find? fun w => decide (w.from_ ≤ a) && decide (a < w.until_) with
  | none => fByte a s.flash.mem
  | some w =>
    let v := Config.unsteadyByte s.now n a
    if w.erased then v else fByte a s.flash.mem ||| v

/-- `n` bytes of the flash from an address, as one read finds them. -/
def fBytes (a n : Nat) (s : State) : List Byte := (List.range n).map fun i => fRead 0 (a + i) s

/-- One byte of the flash takes a value. -/
def fSet (a : Nat) (b : Byte) (m : List Host.Cell) : List Host.Cell := store 255#8 a b m

/-- A page program can only turn ones into zeros (R898). -/
def fProgram (a : Nat) : List Byte → List Host.Cell → List Host.Cell
  | [], m => m
  | b :: r, m => fProgram (a + 1) r (fSet a (fByte a m &&& b) m)

/-- The first address of the 4 KiB sector that holds an address. -/
def sectorOf (a : Nat) : Nat := a / 4096 * 4096

/-- A sector erase. -/
def fErase (a : Nat) (m : List Host.Cell) : List Host.Cell := m.filter fun c => c.1 / 4096 != a / 4096

/-- Bytes `a` to `a + n` − 1 have been written or erased to the end: they are steady again. -/
def steady (a n : Nat) (l : List Unsteady) : List Unsteady :=
  l.flatMap fun w => (if w.from_ < a then [{ w with until_ := min w.until_ a }] else []) ++
    (if a + n < w.until_ then [{ w with from_ := max w.from_ (a + n) }] else [])

/-- A page program has run to its end. -/
def flashWrite (a : Nat) (bs : List Byte) (s : State) : State :=
  { s with flash := { s.flash with mem := fProgram a bs s.flash.mem, unsteady := steady a bs.length s.flash.unsteady } }

/-- A sector erase has run to its end. -/
def flashBlank (a : Nat) (s : State) : State :=
  { s with flash := { s.flash with mem := fErase a s.flash.mem, unsteady := steady (sectorOf a) 4096 s.flash.unsteady } }

/-- Every byte of a page reads 0xFF. -/
def pageBlank (a : Nat) (s : State) : Bool :=
  let p := a / 256 * 256
  if s.flash.unsteady.any fun w => decide (w.from_ < p + 256) && decide (p < w.until_) then (fBytes p 256 s).all (· == 255#8)
  else (s.flash.mem.filter fun c => c.1 / 256 == a / 256).isEmpty

/-- The canonical form of the flash contents: addresses strictly rising, and no erased byte listed. -/
def Memory.wf : List Host.Cell → Bool
  | [] => true
  | [c] => c.2 != 255#8
  | c :: d :: r => c.2 != 255#8 && decide (c.1 < d.1) && Memory.wf (d :: r)

/-- A big-endian word of the flash. -/
def fWord (a : Nat) (s : State) : Nat := beValue (fBytes a 4 s)

/-- A big-endian word as the second of two reads finds it (R851). -/
def fWordAgain (a : Nat) (s : State) : Nat := beValue ((List.range 4).map fun i => fRead 1 (a + i) s)

/-! ### The QSPI bus (R846, R954) -/

/-- The levels of FL_IO0 to FL_IO3 in one FL_CLK period; `none` where the manual gives no level. -/
abbrev FlClock := List (Option Bool)

/-- A byte on one line, bit 7 first (R954). -/
def onLine (io : Nat) (b : Byte) : List FlClock :=
  (List.range 8).map fun i => (List.range 4).map fun l => if l = io then some (b.getLsbD (7 - i)) else none

/-- A byte on four lines in two clocks, the high half first, its top bit on FL_IO3. PRESUMED (assumption 131). -/
def onFour (b : Byte) : List FlClock :=
  [4, 0].map fun lo => (List.range 4).map fun l => some (b.getLsbD (lo + l))

/-- What the concentrator sends for a command (R846, R954): every command on FL_IO0, and a quad read's address, its mode
byte 0x00 and four dummy clocks behind it. -/
def FlashCmd.request : FlashCmd → List FlClock
  | .writeEnable => onLine 0 0x06#8
  | .pageProgram a bs => ([0x02#8] ++ beBytes 3 a ++ bs).flatMap (onLine 0)
  | .sectorErase a => ([0x20#8] ++ beBytes 3 a).flatMap (onLine 0)
  | .readStatus => onLine 0 0x05#8
  | .quadRead a _ =>
    onLine 0 0xEB#8 ++ (beBytes 3 a).flatMap onFour ++ onFour 0x00#8 ++ List.replicate 4 (List.replicate 4 none)

/-- What the flash answers (R846, R954): its status on FL_IO1, of which the manual names bit 0, busy; data on four lines. -/
def FlashCmd.answer (c : FlashCmd) (busy : Bool) (s : State) : List FlClock :=
  match c with
  | .readStatus => List.replicate 7 (List.replicate 4 none) ++ [[none, some busy, none, none]]
  | .quadRead a n => (fBytes a n s).flatMap onFour
  | _ => []

/-- The commands of an operation (R846): a write enable goes before a program and an erase. PRESUMED (assumption 131). -/
def FlashOp.cmds : FlashOp → List FlashCmd
  | .program a bs => [.writeEnable, .pageProgram a bs]
  | .erase a => [.writeEnable, .sectorErase (sectorOf a)]

/-- The commands that end an operation: its status is read until the flash is ready, and what it wrote is read back
(R848). -/
def FlashOp.checks : FlashOp → List FlashCmd
  | .program a bs => [.readStatus, .quadRead a bs.length]
  | .erase a => [.readStatus, .quadRead (sectorOf a) 4096]

/-- Commands go out on the bus. -/
def flashIssue (l : List FlashCmd) (s : State) : State := { s with flash := { s.flash with cmds := s.flash.cmds ++ l } }

/-! ### Operations (R763, R848, R849) -/

/-- The leave kind of an operation. -/
def FlashOp.leave : FlashOp → LeaveKind
  | .program _ _ => .flashProgram
  | .erase _ => .flashErase

/-- Its units (Table 13-1). -/
def FlashOp.units : FlashOp → Nat
  | .program _ _ => 4
  | .erase _ => 6

/-- The operation that is next or runs. -/
def flashOp (s : State) : Option FlashOp := s.flash.jobs.head?.bind fun j => j.ops.head?

/-- The next operation asks for its leave (R849). -/
def flashAsk (s : State) : State :=
  match flashOp s with
  | none => s
  | some o =>
    if s.flash.busy ∨ isWaiting o.leave s ∨ isGranted o.leave s then s
    else requestLeave o.leave o.units (cyclesMs (get RG.FW_LEAVE_TO_MS 0 s)) false s

/-- The firmware has flash operations to do. DEDUCED (assumption 79). -/
def flashSubmit (why : FlashFor) (ops : List FlashOp) (s : State) : State :=
  if ops.isEmpty then s
  else flashAsk { s with flash := { s.flash with jobs := s.flash.jobs ++ [⟨why, false, ops⟩] } }

/-- A job for a reason waits or runs. -/
def flashHas (why : FlashFor) (s : State) : Bool := s.flash.jobs.any fun j => j.why == why

/-- The first operation is done and well: the job goes on, and is `some why` when that was its last one. -/
def flashNextOp (s : State) : Option FlashFor × State :=
  match s.flash.jobs with
  | ⟨why, _, _ :: o :: r⟩ :: l =>
    (none, flashAsk { s with flash := { s.flash with busy := false, jobs := ⟨why, true, o :: r⟩ :: l } })
  | ⟨why, _, _⟩ :: l => (some why, { s with flash := { s.flash with busy := false, jobs := l } })
  | [] => (none, s)

/-- The first job ends without its remaining operations. -/
def flashDrop (s : State) : Option FlashFor × State :=
  (s.flash.jobs.head?.map FlashJob.why, { s with flash := { s.flash with busy := false, jobs := s.flash.jobs.drop 1 } })

/-- A flash fault: its bit, IRQ bit FLASH, and a FLASH entry (R848, Table 16-5). -/
def flashFault (sub addr : Nat) (s : State) : State :=
  logEvent 0x14 sub 0 [addr] (raise RG.IRQ_FLASH (if sub = 0 then RG.PROG_FAIL else RG.ERASE_FAIL) 0 s)

/-- A program of one byte string, cut at page boundaries (R846). -/
def pagesOf : Nat → Nat → List Byte → List FlashOp
  | 0, _, _ => []
  | f + 1, a, bs =>
    if bs.isEmpty then []
    else
      let n := 256 - a % 256
      .program a (bs.take n) :: pagesOf f (a + n) (bs.drop n)

/-- A program of one byte string, page by page. -/
def programOps (a : Nat) (bs : List Byte) : List FlashOp := pagesOf (bs.length / 256 + 2) a bs

/-! ### Slots, GF copies and images (15.1) -/

/-- Base address of a slot. -/
def slotBase (i : Nat) : Nat := i * 0x200000
/-- Base address of a GF copy. -/
def copyBase (i : Nat) : Nat := 0x400000 + i * 0x20000

/-- VALID (R851): both reads return the word. -/
def validMark (base : Nat) (s : State) : Bool :=
  fWord (base + 0x100) s == 0xA55AC33C && fWordAgain (base + 0x100) s == 0xA55AC33C
/-- A rejection mark: any bit at 0 in either read (R851). -/
def rejected (base : Nat) (s : State) : Bool := fWord (base + 0x200) s != 0xFFFFFFFF || fWordAgain (base + 0x200) s != 0xFFFFFFFF
/-- A confirmation mark: both reads return 0 (R851). -/
def confirmedMark (base : Nat) (s : State) : Bool := fWord (base + 0x300) s == 0 && fWordAgain (base + 0x300) s == 0
/-- A slot or copy is valid and not rejected (R818, R852). -/
def usable (base : Nat) (s : State) : Bool := validMark base s && !rejected base s

/-- Fields of a header page (Table 15-3). -/
def hdrSeq (base : Nat) (s : State) : Nat := fWord (base + 4) s
/-- VERSION. -/
def hdrVersion (base : Nat) (s : State) : Nat := fWord (base + 8) s
/-- PM_VER. -/
def hdrPmVer (base : Nat) (s : State) : Nat := fWord (base + 12) s
/-- LEN. -/
def hdrLen (base : Nat) (s : State) : Nat := fWord (base + 16) s
/-- PM_LEN. -/
def hdrPmLen (base : Nat) (s : State) : Nat := fWord (base + 20) s

/-- The better of two valid things by SEQ; the first wins when the values are equal (R845, R852). -/
def betterSeq (a b : Nat) (f : Nat → Nat) (s : State) : Option Nat :=
  match usable (f a) s, usable (f b) s with
  | true, true => some (if hdrSeq (f a) s < hdrSeq (f b) s then b else a)
  | true, false => some a
  | false, true => some b
  | false, false => none

/-- The primary slot (R818). -/
def primarySlot (s : State) : Option Nat := betterSeq 0 1 slotBase s
/-- The current GF copy (R852). -/
def currentCopy (s : State) : Option Nat := betterSeq 0 1 copyBase s

/-- The alternate slot (R818). -/
def alternateSlot (s : State) : Option Nat :=
  match primarySlot s with
  | some p => if usable (slotBase (1 - p)) s then some (1 - p) else none
  | none => none

/-- A field of an image's header (Table 15-4), most significant byte first. -/
def imgField (img : List Byte) (at_ n : Nat) : Nat := beValue ((img.drop at_).take n)

/-- An image is sound (R854). `kind` is its KIND, `room` the size of its area. -/
def soundImage (v : Variant) (kind room : Nat) (img : List Byte) : Bool :=
  let target := imgField img 6 2
  let key := (img.drop 52).take 64
  imgField img 0 4 == 0x5354494D && imgField img 4 1 == kind && imgField img 5 1 == 1 &&
  bitOf target (if kind = 3 then 3 else 2 - Config.scale v) &&
  decide (256 ≤ img.length) && img.length == 256 + imgField img 12 4 && decide (img.length ≤ room) &&
  imgField img 8 4 % 256 != 0 &&
  Crypto.sha256 (img.drop 256) == (img.drop 20).take 32 && Crypto.sha256 key == Config.otpKeyHash &&
  Crypto.ecdsaOk key (Crypto.sha256 (img.take 116)) ((img.drop 116).take 64)

/-- The whole image that its own header announces at an address. -/
def imageAt (a room : Nat) (s : State) : List Byte := fBytes a (min room (256 + fWord (a + 12) s)) s

/-- The CF image of a slot. -/
def cfImage (i : Nat) (s : State) : List Byte := imageAt (slotBase i + 0x1000) 1830912 s
/-- The PM image of a slot. -/
def pmImage (i : Nat) (s : State) : List Byte := imageAt (slotBase i + 0x1C0000) 65536 s
/-- The GF image of a copy. -/
def gfImage (i : Nat) (s : State) : List Byte := imageAt (copyBase i + 0x1000) 61440 s

/-- A generation lies in a range. -/
def genIn (g lo hi : Nat) : Bool := decide (lo ≤ g) && decide (g ≤ hi)

/-- The firmware status registers take the image in a slot (Table 12-11). -/
def takeCf (slot : Nat) (s : State) : State :=
  let img := cfImage slot s
  let alt := slotBase (1 - slot)
  let s := put RG.CF_VER 0 (hdrVersion (slotBase slot) s) (put RG.SLOT 0 slot s)
  let s := put RG.CF_ALT_VER 0 (if usable alt s then hdrVersion alt s else 0) s
  let s := put RG.PM_GEN_MIN 0 (imgField img 16 1) (put RG.PM_GEN_MAX 0 (imgField img 17 1) s)
  put RG.GF_GEN_MIN 0 (imgField img 18 1) (put RG.GF_GEN_MAX 0 (imgField img 19 1) s)

/-- The word 0 of a mark. -/
def zeroMark : List Byte := [0#8, 0#8, 0#8, 0#8]

/-! ### Event log ring (16.4) -/

/-- First address of the ring. -/
def ringBase : Nat := 0x460000

/-- Pages of the ring. -/
def ringPages (s : State) : Nat := if s.flash.big then 47616 else 14848

/-- Address of a ring page. -/
def pageAddr (i : Nat) : Nat := ringBase + 256 * i

/-- The bytes of one position, most significant byte first. -/
def posBytes (p : LogPos) : List Byte := (p.map wordBytes).flatten

/-- A ring page's body: seven positions, unused ones at 0xFF, and their CRC-32 (R916). -/
def pageBody (ps : List LogPos) : List Byte :=
  let b := (ps.map posBytes).flatten
  let b := b ++ List.replicate (224 - b.length) 255#8
  b ++ beBytes 4 (crc32 b)

/-- A ring page counts as committed (R918). -/
def pageCommitted (i : Nat) (s : State) : Bool :=
  let b := fBytes (pageAddr i) 229 s
  b.getD 228 0#8 == 0x3C#8 && beBytes 4 (crc32 (b.take 224)) == (b.drop 224).take 4

/-- Words of a byte string, eight to a position. -/
def positions : Nat → List Byte → List LogPos
  | 0, _ => []
  | n + 1, bs => wordsOfBytes (bs.take 32) :: positions n (bs.drop 32)

/-- The positions that a ring page holds: unused ones read 0xFF throughout. -/
def pagePositions (i : Nat) (s : State) : List LogPos :=
  (positions 7 (fBytes (pageAddr i) 224 s)).filter fun p => p.any fun w => w != 0xFFFFFFFF#32

/-- The sequence number of a position. -/
def posSeq (p : LogPos) : Nat := (p.getD 7 0#32).toNat

/-- The ring pages that are committed: of those with a written COMMIT byte, and those with unsteady bytes. -/
def committedPages (s : State) : List Nat :=
  let written := s.flash.mem.filterMap fun (a, _) =>
    if ringBase + 228 ≤ a ∧ (a - ringBase) % 256 = 228 then some ((a - ringBase) / 256) else none
  let unsteady := (s.flash.unsteady.filter fun w => decide (ringBase < w.until_)).flatMap fun w =>
    let i := (w.from_ - ringBase) / 256
    (List.range ((w.until_ - ringBase + 255) / 256 - i)).map (i + ·)
  (written ++ unsteady.filter fun i => !(written.contains i)).filter fun i => decide (i < ringPages s) && pageCommitted i s

/-- The first sequence number of a page. -/
def pageSeq (i : Nat) (s : State) : Nat := ((pagePositions i s).head?.map posSeq).getD 0

/-- Is sequence number `a` older than `b`, across a wrap (R911)? -/
def seqOlder (a b : Nat) : Bool := decide ((b + 4294967295 - a) % 4294967295 < 2147483648) && a != b

/-- The newest committed page (R920). -/
def newestPage (s : State) : Option Nat :=
  (committedPages s).foldl (fun x i => match x with
    | none => some i
    | some j => if seqOlder (pageSeq j s) (pageSeq i s) then some i else some j) none

/-- The oldest sequence number in a committed page, or FLASH_NEXT (Table 16-6). -/
def flashOldest (s : State) : Nat :=
  match (committedPages s).foldl (fun x i => match x with
    | none => some (pageSeq i s)
    | some n => if seqOlder (pageSeq i s) n then some (pageSeq i s) else some n) none with
  | some n => n
  | none => get EL.FLASH_NEXT 0 s

/-- Keep FLASH_NEXT and FLASH_OLDEST. -/
def keepRing (s : State) : State := let s := keepFlashNext s; put EL.FLASH_OLDEST 0 (flashOldest s) s

/-- The entries that the next ring page takes: the oldest that wait, at most seven. -/
def pageEntries (s : State) : List LogPos :=
  (s.logs.flashWait.take 7).filterMap fun (n, _) => find (n % 1024) s.logs.ev

/-- The granted operation starts: its commands go to the flash. A ring page takes its entries as its program begins
(R919). -/
def flashStart (s : State) : State :=
  begun <| match s.flash.jobs with
  | ⟨.ring, b, [.program a _, c]⟩ :: l =>
    let ps := pageEntries s
    { s with flash := { s.flash with busy := true, jobs := ⟨.ring, b, [.program a (pageBody ps), c]⟩ :: l },
             logs := { s.logs with page := some ps } }
  | _ => { s with flash := { s.flash with busy := true } }
where
  begun (s : State) : State :=
    { s with flash := { s.flash with cmds := match flashOp s with | some o => o.cmds | none => [] } }

/-- A ring page attempt begins (R917): its sector is erased first where it is the sector's first page, or where an
erase that failed has left the page written (R848); the body and then COMMIT follow. The page carries the oldest
entries that wait. DEDUCED (assumption 82). -/
def ringAttempt (s : State) : State :=
  if s.logs.flashWait.isEmpty ∨ s.leave.warm ∨ !(logging s) ∨ flashHas .ring s then s
  else
    let a := pageAddr s.logs.ringPos
    let ops := (if s.logs.ringPos % 16 = 0 ∨ !(pageBlank a s) then [FlashOp.erase a] else []) ++
      [.program a (pageBody (pageEntries s)), .program (a + 228) [0x3C#8]]
    flashSubmit .ring ops { s with logs := { s.logs with page := none, retryAt := none } }

/-- RING_PAGE_WRITE (R917): seven entries wait, or 60 s have passed since the oldest of them was written. While a failed
attempt waits for its retry, only a trigger of a moment after the failure counts (R988). DEDUCED (assumption 82). -/
def ringPageWrite (s : State) : State :=
  match s.logs.flashWait with
  | [] => s
  | (_, at_) :: _ =>
    let seventh := s.logs.flashWait[6]?.map Prod.snd
    let sixty := at_ + cyclesS 60
    match s.logs.retryAt with
    | none => ringAttempt (if seventh.isSome then s else runTo sixty s)
    | some r =>
      match least ((seventh.toList ++ [sixty]).filter fun t => decide (r < t + cyclesS 10)) with
      | some t => ringAttempt (runTo t s)
      | none => s

/-- RING_PAGE_RETRY (R988): 10 s after a failed attempt. -/
def ringPageRetry (s : State) : State :=
  match s.logs.retryAt with
  | some t => ringAttempt (runTo t s)
  | none => s

/-- A ring page has committed (R917): its entries are in flash. -/
def ringDone (s : State) : State :=
  match s.logs.page with
  | none => s
  | some ps =>
    let ns := ps.map posSeq
    let s := { s with logs := { s.logs with
        page := none, retryAt := none, flashWait := s.logs.flashWait.filter (fun e => !(ns.contains e.1)),
        ringPos := (s.logs.ringPos + 1) % ringPages s } }
    keepRing (bump EL.FLASH_PAGES 0 s)

/-- A ring page attempt has failed (R988, R919): `used` tells that it used up its position. -/
def ringFailed (used : Bool) (s : State) : State :=
  let lost := ((s.logs.page.getD []).map posSeq).filter fun n => seqAt (n % 1024) s != some n
  let s := { s with logs := { s.logs with
      page := none, retryAt := some (s.now + cyclesS 10),
      flashWait := s.logs.flashWait.filter (fun e => !(lost.contains e.1)),
      ringPos := if used then (s.logs.ringPos + 1) % ringPages s else s.logs.ringPos } }
  keepRing (if lost.isEmpty then s else bumpBy RG.EVENT_LOST_CNT 0 lost.length s)

/-- The COMMIT byte of the newest committed page is settled (R920). -/
def settlePage (top : Option Nat) (s : State) : State :=
  match top with
  | some i => flashWrite (pageAddr i + 228) [0x3C#8] s
  | none => s

/-- RING_RECOVERY (R920): the ring is searched, its last commit settled, and the log loaded or its marks moved. -/
def ringRecovery (s : State) : State :=
  let top := newestPage s
  let s := settlePage top s
  let from_ := match top with
    | some i => i + 1
    | none => 0
  let free (i : Nat) : Bool := pageBlank (pageAddr i) s
  let next := ((List.range 48).map (fun d => (from_ + d) % ringPages s)).find? (fun i => free i || i % 16 == 0)
  let s := { s with logs := { s.logs with ringPos := next.getD (from_ % ringPages s), page := none, retryAt := none } }
  if s.sys.warm then
    let held := ((committedPages s).flatMap fun i => (pagePositions i s).map posSeq)
    keepRing { s with logs := { s.logs with flashWait := s.logs.flashWait.filter fun e => !(held.contains e.1) } }
  else
    let ps := (committedPages s).flatMap fun i => pagePositions i s
    let ps := ps.foldl (fun l p => insertPos p l) []
    let ps := ps.drop (ps.length - 1023)
    let n := match ps.getLast? with
      | some p => nextSeq (posSeq p)
      | none => 0
    let s := { s with logs := { s.logs with
        ev := ps.foldl (fun t p => insert (posSeq p % 1024) p t) [], flashWait := [] } }
    keepRing (put EL.BOOT_SEQ 0 n (put EL.NEXT_SEQ 0 n s))
where
  insertPos (p : LogPos) : List LogPos → List LogPos
    | [] => [p]
    | q :: l => if seqOlder (posSeq p) (posSeq q) then p :: q :: l else q :: insertPos p l

/-! ### Journal (15.8) -/

/-- Base address of a configuration bank. -/
def bankBase (b : Nat) : Nat := 0x440000 + b * 0x10000

/-- The key of a stored word. -/
def cfgKey (space addr : Nat) : Nat := space * 2 ^ 20 + addr

/-- A stored run of words with consecutive addresses (R890). -/
def runBytes (k : Nat) (ws : List Word) : List Byte :=
  beBytes 1 (k / 2 ^ 20) ++ [0#8] ++ beBytes 2 ws.length ++ beBytes 4 (k % 2 ^ 20) ++ (ws.map wordBytes).flatten

/-- Words in order, cut into runs of consecutive addresses of one space, of at most `limit` words each. -/
def runsOf (limit : Nat) : List (Nat × Word) → List (Nat × List Word)
  | [] => []
  | (k, w) :: l =>
    match runsOf limit l with
    | (j, ws) :: r => if j = k + 1 ∧ ws.length < limit then (k, w :: ws) :: r else (k, [w]) :: (j, ws) :: r
    | [] => [(k, [w])]

/-- Runs packed into payloads of at most 4,096 bytes (R889). -/
def payloads (l : List (Nat × List Word)) : List (List Byte) :=
  (l.foldl (fun (acc : List (List Byte) × List Byte) (r : Nat × List Word) =>
    let b := runBytes r.1 r.2
    if acc.2.length + b.length ≤ 4096 then (acc.1, acc.2 ++ b) else (acc.1 ++ [acc.2], b)) ([], [])) |> fun (a, b) =>
      if b.isEmpty then a else a ++ [b]

/-- A journal record without its COMMIT byte (Table 15-12). -/
def recordBytes (tag seq : Nat) (payload : List Byte) : List Byte :=
  let b := beBytes 2 tag ++ beBytes 2 payload.length ++ beBytes 4 seq ++ payload
  b ++ beBytes 4 (crc32 b)

/-- The operations that write and commit a record at an address (R892). -/
def recordOps (a tag seq : Nat) (payload : List Byte) : List FlashOp :=
  programOps a (recordBytes tag seq payload) ++ [.program (a + 12 + payload.length) [0x3C#8]]

/-- A journal record as the walk finds it. -/
structure JRec where
  at_ : Nat
  tag : Nat
  seq : Nat
  payload : List Byte
  committed : Bool
  deriving DecidableEq, Repr

/-- Where a walk stopped. -/
inductive WalkEnd
  | blank (offset : Nat)
  | damaged (offset : Nat)
  deriving DecidableEq, Repr

/-- The walk of one bank from an offset (R893). -/
def walkBank (b : Nat) (s : State) : Nat → Nat → List JRec × WalkEnd
  | 0, o => ([], .damaged o)
  | f + 1, o =>
    let a := bankBase b + o
    if 65536 < o + 16 then ([], .blank o)
    else
      let h := fBytes a 8 s
      let tag := beValue (h.take 2)
      let len := beValue ((h.drop 2).take 2)
      if tag = 0xFFFF then ([], .blank o)
      else if tag < 0x4A31 ∨ 0x4A33 < tag ∨ len % 4 ≠ 0 ∨ len < 8 ∨ 4096 < len ∨ 65536 < o + 16 + len then ([], .damaged o)
      else
        let r := fBytes a (16 + len) s
        if beBytes 4 (crc32 (r.take (8 + len))) ≠ (r.drop (8 + len)).take 4 then ([], .damaged o)
        else
          let (l, e) := walkBank b s f (o + 16 + len)
          (⟨o, tag, beValue ((r.drop 4).take 4), (r.drop 8).take len, r.getD (12 + len) 0#8 == 0x3C#8 && fRead 1 (a + 12 + len) s == 0x3C#8⟩ :: l, e)

/-- A bank's whole walk. -/
def walkAll (b : Nat) (s : State) : List JRec × WalkEnd := walkBank b s 2800 0

/-- Sequence number of the newest committed seal of a walk. -/
def newestSeal (l : List JRec) : Option Nat :=
  ((l.filter fun r => r.tag == 0x4A33 && r.committed).getLast?).map JRec.seq

/-- The runs of a payload, as stored words. -/
def wordsOfRuns : Nat → List Byte → List (Nat × Word)
  | 0, _ => []
  | f + 1, bs =>
    if bs.length < 8 then []
    else
      let n := beValue ((bs.drop 2).take 2)
      let k := cfgKey (beValue (bs.take 1)) (beValue ((bs.drop 4).take 4))
      ((wordsOfBytes ((bs.drop 8).take (4 * n))).zipIdx.map fun (w, i) => (k + i, w)) ++
        wordsOfRuns f (bs.drop (8 + 4 * n))

/-- Words put over a table of stored words. -/
def mergeWords (l : List (Nat × Word)) (t : Tbl Word) : Tbl Word := l.foldl (fun a (k, w) => insert k w a) t

/-- The records of the current bank that count (R895): the committed snapshots that lead up to its newest committed seal, and
the committed deltas after it. -/
def applied (l : List JRec) : List JRec :=
  match newestSeal l with
  | none => []
  | some q =>
    let before := l.takeWhile fun r => r.seq != q
    let snaps := (before.reverse.takeWhile fun r => r.tag == 0x4A32).reverse
    (snaps.filter JRec.committed) ++ ((l.dropWhile fun r => r.seq != q).filter fun r => r.tag == 0x4A31 && r.committed)

/-- The COMMIT byte of the last record of bank `b` is settled (R894). -/
def settleCommit (b : Nat) (l : List JRec) (s : State) : State :=
  match l.getLast? with
  | some r => flashWrite (bankBase b + r.at_ + 12 + r.payload.length) [if r.committed then 0x3C#8 else 0x00#8] s
  | none => s

/-- JOURNAL_SETTLE (R893 to R895): both banks are walked, the current one chosen, its last record's COMMIT byte
settled, and its words taken. -/
def journalWalk (s : State) : State :=
  let (l0, e0) := walkAll 0 s
  let (l1, e1) := walkAll 1 s
  let bank := match newestSeal l0, newestSeal l1 with
    | some a, some b => some (if a < b then 1 else 0)
    | some _, none => some 0
    | none, some _ => some 1
    | none, none => none
  let top := (l0 ++ l1).foldl (fun m r => max m r.seq) 0
  match bank with
  | none => { s with cfg := { s.cfg with committed := [], owed := [], writing := 0, bank := none, next := 0, seq := top, damaged := false } }
  | some b =>
    let (l, e) := if b = 0 then (l0, e0) else (l1, e1)
    let s := settleCommit b l s
    let t := (applied l).foldl (fun t r => mergeWords (wordsOfRuns 600 r.payload) t) []
    let (o, d) := match e with
      | .blank o => (o, false)
      | .damaged o => (o, true)
    { s with cfg := { s.cfg with committed := t, owed := [], writing := 0, bank := some b, next := o, seq := top, damaged := d } }

/-- The payload of a seal record, which the manual leaves open. -/
def sealBytes : List Byte := (List.range 8).map Config.sealPayload

/-- A journal sequence number follows another (R889). -/
def jSeq (n k : Nat) : Nat := (n + k - 1) % 4294967294 + 1

/-- Owed frames that one delta record can carry: as many as fit its payload, at least one. -/
def frameBatch : Nat → List (List (Nat × Word)) → Nat
  | _, [] => 0
  | room, f :: r =>
    let n := ((runsOf 1022 f).map fun (_, ws) => 8 + 4 * ws.length).sum
    if n ≤ room then 1 + frameBatch (room - n) r else 0

/-- The writes of a journal job at an offset: records with their tags and payloads, in order; their operations, the
offset after them, and the last SEQ. DEDUCED (assumption 84). -/
def layRecords (b : Nat) : Nat → Nat → List (Nat × List Byte) → List FlashOp × Nat × Nat
  | o, q, [] => ([], o, q)
  | o, q, (tag, p) :: r =>
    let (ops, o', q') := layRecords b (o + 16 + p.length) (jSeq q 1) r
    (recordOps (bankBase b + o) tag (jSeq q 1) p ++ ops, o', q')

/-- JOURNAL_COMMIT (R892, R896, R897): the owed frames are written as a delta record, after a compaction where one is
due. `differs` tells a stored word's value that differs from reset. -/
def journalCommit (differs : Nat → Word → Bool) (s : State) : State :=
  if s.cfg.owed.isEmpty ∨ s.leave.warm ∨ flashHas .journal s then s
  else
    let n := max 1 (frameBatch 4096 s.cfg.owed)
    let deltas := payloads (((s.cfg.owed.take n).map (runsOf 1022)).flatten)
    let size := (deltas.map fun p => p.length + 16).sum
    let recs := deltas.map fun p => (0x4A31, p)
    match (if s.cfg.damaged then none else s.cfg.bank.filter fun _ => decide (s.cfg.next + size ≤ 65536)) with
    | some b =>
      let (ops, o, q) := layRecords b s.cfg.next s.cfg.seq recs
      flashSubmit .journal ops { s with cfg := { s.cfg with writing := n, goal := (b, o), seq := q } }
    | none =>
      let snaps := payloads (runsOf 1022 (s.cfg.committed.filter fun (k, w) => differs k w))
      let need := (snaps.map fun p => p.length + 16).sum + 24
      if 49152 < need then logEvent 0x13 0 0 [need] s
      else
        let b := match s.cfg.bank with
          | some b => 1 - b
          | none => 0
        let erases := (List.range 16).map fun i => FlashOp.erase (bankBase b + 4096 * i)
        let (ops, o, q) := layRecords b 0 s.cfg.seq (snaps.map (fun p => (0x4A32, p)) ++ [(0x4A33, sealBytes)] ++ recs)
        flashSubmit .journal (erases ++ ops) { s with cfg := { s.cfg with writing := n, goal := (b, o), seq := q } }

/-- A journal write has committed (R892): its frames are in the store. -/
def journalDone (s : State) : State :=
  { s with cfg := { s.cfg with
      committed := mergeWords ((s.cfg.owed.take s.cfg.writing).flatten) s.cfg.committed,
      owed := s.cfg.owed.drop s.cfg.writing, writing := 0,
      bank := some s.cfg.goal.1, next := s.cfg.goal.2, damaged := false } }

/-- A journal write has failed: its frames stay owed. Flash that was written makes the bank end in a damaged record.
DEDUCED (assumption 148). -/
def journalFailed (touched : Bool) (s : State) : State :=
  { s with cfg := { s.cfg with writing := 0, damaged := s.cfg.damaged || touched } }

end Sys2Proof.Machine
end

