-- ==== Sys2Proof/Machine/Update.lean ====
section
/-! DEFINITION. Field update (chapter 15): the Stump protocol, bundles and slot writing, the order check, activation
of GF, PM and CF, confirmation and revert, and what follows each run of flash operations. -/

namespace Sys2Proof.Machine

/-- Change the update's own data. -/
def svMap (f : Svc → Svc) (s : State) : State := { s with svc := f s.svc }

/-! ### The SVC receiver (R84, R855) -/

/-- The increment of the 32-bit phase accumulator in LINE at a bit rate (R84), rounded as R139 rounds a line port's.
DEDUCED (assumption 130). -/
def svcInc (baud : Nat) : Nat := (baud * 2 ^ 32 + 25000000) / 50000000

/-- The LINE cycle, counted from the start edge, of the mid-bit sample of bit `n`: with zero lean (R84). -/
def svcSample (baud n : Nat) : Nat := halfBitsLine (2 * n + 1) (svcInc baud)

/-- The level of SVC_RX in a LINE cycle of a character: low from its start edge, and turned over at each change. -/
def svcLevel (c : SvcChar) (t : Nat) : Bool := (c.filter fun x => decide (x ≤ t)).length % 2 == 1

/-- The byte that the receiver takes from a character of 8 data bits, no parity and 1 stop bit (R84, R855), least significant
bit first; none where the start bit's sample is high. DESIGN CHOICE (assumption 130). -/
def svcByte (baud : Nat) (c : SvcChar) : Option Byte :=
  if svcLevel c (svcSample baud 0) then none
  else some (byte ((List.range 8).map fun i => if svcLevel c (svcSample baud (i + 1)) then 2 ^ i else 0).sum)

/-- The bytes received from the characters between two flags at the rate in force. -/
def svcBytes (baud : Nat) (w : List SvcChar) : List Byte := w.filterMap (svcByte baud)

/-! ### Stump frames (15.2) -/

/-- Undo the stuffing of a body: a 0x7D must be followed by 0x5E or 0x5D (R855, R857). -/
def unstuff : List Byte → Option (List Byte)
  | [] => some []
  | b :: r =>
    if b = 0x7D#8 then match r with
      | c :: t => if c = 0x5E#8 then (unstuff t).map (0x7E#8 :: ·)
          else if c = 0x5D#8 then (unstuff t).map (0x7D#8 :: ·) else none
      | [] => none
    else (unstuff r).map (b :: ·)

/-- Stuff a body (R855). -/
def stuff (bs : List Byte) : List Byte :=
  bs.flatMap fun b => if b = 0x7E#8 then [0x7D#8, 0x5E#8] else if b = 0x7D#8 then [0x7D#8, 0x5D#8] else [b]

/-- The commands of Table 15-5. -/
def stumpCmds : List Nat := [0x01, 0x02, 0x03, 0x10, 0x11, 0x12, 0x13, 0x14, 0x15, 0x20]

/-- Commands that write (Table 15-5). -/
def stumpWrites (cmd : Nat) : Bool := [0x10, 0x11, 0x12, 0x13, 0x14, 0x20].contains cmd

/-- CMD, FSN and payload of the bytes between two flags, or nothing where R857 discards them. -/
def stumpParse (raw : List Byte) : Option (Nat × Nat × List Byte) :=
  match unstuff raw with
  | none => none
  | some b =>
    let n := b.length
    let crcOk := beBytes 2 (crcStump (b.take (n - 2))) == b.drop (n - 2)
    let cmd := (b.getD 0 0#8).toNat
    if n < 6 ∨ 1038 < n ∨ !crcOk ∨ beValue ((b.drop 2).take 2) ≠ n - 6 ∨ !(stumpCmds.contains cmd) then none
    else some (cmd, (b.getD 1 0#8).toNat, (b.drop 4).take (n - 6))

/-- The frame passes its CRC, whatever else holds of it (R862). -/
def stumpCrcOk (raw : List Byte) : Bool :=
  match unstuff raw with
  | none => false
  | some b => decide (6 ≤ b.length) && beBytes 2 (crcStump (b.take (b.length - 2))) == b.drop (b.length - 2)

/-- The reply to a command goes out (R858): status, and the reply payload. -/
def svReply (cmd fsn : Nat) (payload : List Byte) (status : Nat) (extra : List Byte) (s : State) : State :=
  let pl := byte status :: extra
  let b := [byte (cmd ||| 0x80), byte fsn] ++ beBytes 2 pl.length ++ pl
  let b := b ++ beBytes 2 (crcStump b)
  svMap (fun v => { v with
    last := some (cmd, fsn, payload), reply := b, sent := [0x7E#8] ++ stuff b ++ [0x7E#8], running := none }) s

/-- The reply to the command that runs. -/
def svAnswer (status : Nat) (extra : List Byte) (s : State) : State :=
  match s.svc.running with
  | some (cmd, fsn, pl) => svReply cmd fsn pl status extra s
  | none => s

/-- The CORE cycles that the frame sent last takes at the rate in force: ten bit times for each byte (R855). -/
def svTime (s : State) : Nat := ceilDiv (10 * s.svc.sent.length * 250000000) s.svc.baud

/-- The service port is served: by the control firmware, or by the recovery loader. DEDUCED (assumption 86). -/
def svServed (s : State) : Bool :=
  match s.sys.phase with
  | .ready | .recovery | .paused => true
  | _ => false

/-- The SVC runs under the recovery loader. -/
def inRecovery (s : State) : Bool := s.sys.phase == .recovery

/-- One received frame (R857 to R860): discarded, repeated, LOCKED, or handed to its command `act` when its CMD and
PHASE are those of the row. `act` gets the FSN and the payload; `own` tells which frames are the row's. -/
def stump (own : Nat → List Byte → Bool) (act : List Byte → State → State) (raw : List Byte) (s : State) : State :=
  if !(svServed s) then s
  else
    let s := svMap (fun v => { v with sent := [], fallbackAt := if stumpCrcOk raw then none else v.fallbackAt }) s
    match stumpParse raw with
    | none => svMap (fun v => { v with discarded := min (v.discarded + 1) 65535 }) s
    | some (cmd, fsn, pl) =>
      if s.svc.running.isSome ∨ s.sys.phase = .paused then
        svMap (fun v => { v with discarded := min (v.discarded + 1) 65535 }) s
      else if s.svc.last = some (cmd, fsn, pl) then
        svMap (fun v => { v with sent := [0x7E#8] ++ stuff v.reply ++ [0x7E#8] }) s
      else if !(own cmd pl) then s
      else if stumpWrites cmd ∧ !s.sys.svcEn then svReply cmd fsn pl 0x10 [] s
      else act pl (svMap (fun v => { v with running := some (cmd, fsn, pl) }) s)

/-- A row that owns the frames of one command. -/
def isCmd (cmd : Nat) : Nat → List Byte → Bool := fun c _ => c == cmd

/-- PING (R860). -/
def doPing (pl : List Byte) (s : State) : State :=
  if pl ≠ [] then svAnswer 0x01 [] s else svAnswer 0 [byte (b2n (inRecovery s))] s

/-- INFO (R860). -/
def doInfo (pl : List Byte) (s : State) : State :=
  if pl ≠ [] then svAnswer 0x01 [] s
  else
    let gf := match currentCopy s with
      | some c => hdrVersion (copyBase c) s
      | none => 0
    svAnswer 0 (beBytes 4 (get RG.DEV_ID 0 s) ++ beBytes 2 (get RG.ROM_VER 0 s) ++ [byte (b2n (inRecovery s)), byte (get RG.SLOT 0 s)] ++
      beBytes 4 (get RG.CF_VER 0 s) ++ beBytes 4 (get RG.CF_ALT_VER 0 s) ++ beBytes 4 gf) s

/-- SET_BAUD (R862): answered at the old rate; the new rate holds from the end of the reply, and its two seconds run from there. -/
def doSetBaud (pl : List Byte) (s : State) : State :=
  let r := beValue pl
  if pl.length ≠ 4 ∨ r < 9600 ∨ 1000000 < r then svAnswer 0x01 [] s
  else
    let s := svAnswer 0 [] s
    svMap (fun v => { v with baud := r, fallbackAt := some (s.now + svTime s + cyclesS 2) }) s

/-- SVC_BAUD_FALLBACK (R862): two seconds without a good frame at the new rate. -/
def svcBaudFallback (s : State) : State :=
  match s.svc.fallbackAt with
  | some t => svMap (fun v => { v with baud := 115200, fallbackAt := none }) (runTo t s)
  | none => s

/-- Seconds left in the confirm window (R883): the count runs from SERVICE_READY or SERVICE_RESUMED, and stands from the
moment R882 has held for 10 s. -/
def confirmLeft (s : State) : Nat :=
  match s.sys.confirmFrom with
  | none => get RG.CONFIRM_LEFT_S 0 s
  | some t =>
    let end_ := match s.sys.wellFrom with
      | some w => min s.now (w + cyclesS 10)
      | none => s.now
    30 - (end_ - t) / cyclesS 1

/-- STATUS (Table 15-7). -/
def doSvcStatus (pl : List Byte) (s : State) : State :=
  if pl ≠ [] then svAnswer 0x01 [] s
  else svAnswer 0 ([byte s.svc.st, byte s.svc.step, byte s.svc.result, byte (b2n s.sys.svcEn), byte (confirmLeft s), 0#8] ++
    beBytes 2 s.svc.discarded) s

/-- ABORT (R869). -/
def doAbort (pl : List Byte) (s : State) : State :=
  if pl ≠ [] ∨ !(s.svc.st = 1 ∨ s.svc.st = 2) then svAnswer 0x01 [] s
  else svAnswer 0 [] (svMap (fun v => { v with st := 0, step := 0xFF, result := 0 }) s)

/-- RESTART (R863): the software reset is requested for the end of the reply's closing flag. -/
def doRestart (pl : List Byte) (s : State) : State :=
  if pl ≠ [] then svAnswer 0x01 [] s
  else
    let s := svAnswer 0 [] s
    { s with sys := { s.sys with swReset := some (s.now + svTime s) } }

/-! ### Manifests and the order check (15.3, 15.4) -/

/-- A field of the manifest (Table 15-8). -/
def mf (m : List Byte) (at_ n : Nat) : Nat := beValue ((m.drop at_).take n)
/-- PARTS has the slot part. -/
def mfSlot (m : List Byte) : Bool := bitOf (mf m 5 1) 0
/-- PARTS has the GF part. -/
def mfGf (m : List Byte) : Bool := bitOf (mf m 5 1) 1

/-- A carried part has a version and a length in range; one not carried has zeros (Table 15-8). -/
def mfPart (carried : Bool) (ver len limit hash : Nat) : Bool :=
  if carried then ver % 256 != 0 && decide (0 < len) && decide (len ≤ limit) else ver == 0 && len == 0 && hash == 0

/-- Form and field ranges (R865, first check). -/
def mfForm (recovery : Bool) (m : List Byte) : Bool :=
  m.length == 264 && mf m 0 4 == 0x53544D46 && mf m 4 1 == 1 && decide (0 < mf m 5 1) && decide (mf m 5 1 < 4) &&
  (!recovery || mf m 5 1 == 1) && decide (mf m 6 2 < 16) &&
  mfPart (mfSlot m) (mf m 12 4) (mf m 24 4) 1830912 (mf m 40 32) &&
  mfPart (mfSlot m) (mf m 16 4) (mf m 28 4) 65536 (mf m 72 32) &&
  mfPart (mfGf m) (mf m 20 4) (mf m 32 4) 61440 (mf m 104 32) && (mfSlot m || mf m 36 4 == 0)

/-- Key hash and signature (R865, second check). -/
def mfSigned (m : List Byte) : Bool :=
  let key := (m.drop 136).take 64
  Crypto.sha256 key == Config.otpKeyHash && Crypto.ecdsaOk key (Crypto.sha256 (m.take 200)) ((m.drop 200).take 64)

/-- TARGET (R865, third check): the variant for the slot part, the KL-08 for the GF part. -/
def mfTarget (v : Variant) (m : List Byte) : Bool :=
  (!(mfSlot m) || bitOf (mf m 6 2) (2 - Config.scale v)) && (!(mfGf m) || bitOf (mf m 6 2) 3)

/-- The present PM groups, ascending. -/
def presentGroups (s : State) : List Nat := List.range (Config.pmGroups s.variant)

/-- `fits` of R870: `r` holds PM_GEN_MIN, PM_GEN_MAX, GF_GEN_MIN and GF_GEN_MAX. -/
def fitsRanges (r : List Nat) (pm gf : List (Nat × Option Nat)) : Bool :=
  let ok (a b : Nat) (x : Nat × Option Nat) : Bool := match x.2 with
    | some g => genIn g (r.getD a 0) (r.getD b 0)
    | none => true
  pm.all (ok 0 1) && gf.all (ok 2 3)

/-- The value of one key is replaced. -/
def setGen (k g : Nat) (l : List (Nat × Option Nat)) : List (Nat × Option Nat) :=
  l.map fun x => if x.1 = k then (k, some g) else x

/-- The running CF's ranges (Table 12-11). -/
def runningRanges (s : State) : List Nat :=
  [get RG.PM_GEN_MIN 0 s, get RG.PM_GEN_MAX 0 s, get RG.GF_GEN_MIN 0 s, get RG.GF_GEN_MAX 0 s]

/-- The guard steps of the order check. -/
def orderGuards (r : List Nat) (g : Option Nat) (pm : List (Nat × Option Nat)) :
    List Nat → List (Nat × Option Nat) → Option Nat × List (Nat × Option Nat)
  | [], gf => (none, gf)
  | k :: l, gf =>
    let gf := match g with
      | some x => setGen k x gf
      | none => gf
    if fitsRanges r pm gf then orderGuards r g pm l gf else (some k, gf)

/-- The PM steps of the order check. -/
def orderGroups (r : List Nat) (g : Option Nat) (gf : List (Nat × Option Nat)) :
    List Nat → List (Nat × Option Nat) → Option Nat × List (Nat × Option Nat)
  | [], pm => (none, pm)
  | k :: l, pm =>
    let pm := match g with
      | some x => setGen k x pm
      | none => pm
    if fitsRanges r pm gf then orderGroups r g gf l pm else (some (0x10 + k), pm)

/-- The order check (R870): the step it fails at, or nothing. -/
def orderCheck (m : List Byte) (s : State) : Option Nat :=
  let pm := (presentGroups s).map fun g => (g, some (get RG.PM_VER g s % 256))
  let gf := (presentGuards s).map fun k =>
    (k, if (gGet k s).run = 3 ∨ (gGet k s).heldOut then none else some (get RG.GF_VER k s % 256))
  let r := runningRanges s
  match orderGuards r (if mfGf m then some (mf m 20 4 % 256) else none) pm (presentGuards s) gf with
  | (some x, _) => some x
  | (none, gf) =>
    match orderGroups r (if mfSlot m then some (mf m 16 4 % 256) else none) gf (presentGroups s) pm with
    | (some x, _) => some x
    | (none, pm) =>
      if mfSlot m ∧ !(fitsRanges [mf m 36 1, mf m 37 1, mf m 38 1, mf m 39 1] pm gf) then some 0x20 else none

/-- The slot that a bundle goes to: the one not running; in ROM recovery the one that is not valid, or the one with
the lower SEQ, or slot B (R866, R886). DEDUCED where neither slot is valid (assumption 95). -/
def targetSlot (s : State) : Nat :=
  if inRecovery s then
    if !(usable (slotBase 1) s) ∧ usable (slotBase 0) s then 1
    else if !(usable (slotBase 0) s) ∧ usable (slotBase 1) s then 0
    else if hdrSeq (slotBase 0) s < hdrSeq (slotBase 1) s then 0 else 1
  else 1 - get RG.SLOT 0 s

/-- The GF copy that a bundle goes to: the one not current (R866). -/
def targetCopy (s : State) : Nat :=
  match currentCopy s with
  | some c => 1 - c
  | none => 0

/-- A guard activates a GF (R763, R865). -/
def gfActivating (s : State) : Bool := s.guards.any fun (_, g) => g.act.isSome

/-- A GF restore runs. -/
def gfRestoring (s : State) : Bool := s.guards.any fun (_, g) => g.fw.isSome || g.act.isSome

/-- BEGIN (R865, R866, R886). DEDUCED (assumption 88). -/
def doBegin (m : List Byte) (s : State) : State :=
  let rec_ := inRecovery s
  if !(s.svc.st = 0 ∨ s.svc.st = 6 ∨ s.svc.st = 7) ∨ (!rec_ ∧ (!(flag RG.CONFIRMED 0 s) ∨ gfActivating s)) then svAnswer 0x04 [] s
  else if !(mfForm rec_ m) then svAnswer 0x01 [] s
  else if !(mfSigned m) then svAnswer 0x11 [] s
  else if !(mfTarget s.variant m) then svAnswer 0x12 [] s
  else match (if rec_ then none else orderCheck m s) with
    | some step => svAnswer 0x13 [byte step] (svMap (fun v => { v with step := step, result := 0x13 }) s)
    | none =>
      let slot := targetSlot s
      let copy := targetCopy s
      let ops := (if mfSlot m then [FlashOp.erase (slotBase slot)] else []) ++
        (if mfGf m then [FlashOp.erase (copyBase copy)] else [])
      flashSubmit .begin_ ops (svMap (fun v => { v with manifest := m, slot := slot, copy := copy }) s)

/-- Base address and length of a part: 1 CF, 2 PM, 3 GF. -/
def partArea (part : Nat) (s : State) : Nat × Nat :=
  match part with
  | 1 => (slotBase s.svc.slot + 0x1000, mf s.svc.manifest 24 4)
  | 2 => (slotBase s.svc.slot + 0x1C0000, mf s.svc.manifest 28 4)
  | _ => (copyBase s.svc.copy + 0x1000, mf s.svc.manifest 32 4)

/-- The part is carried. -/
def partCarried (part : Nat) (s : State) : Bool :=
  if part = 1 ∨ part = 2 then mfSlot s.svc.manifest else part == 3 && mfGf s.svc.manifest

/-- NEXT of a part. -/
def partNext (part : Nat) (s : State) : Nat :=
  match part with
  | 1 => s.svc.nextCf
  | 2 => s.svc.nextPm
  | _ => s.svc.nextGf

/-- NEXT of a part advances. -/
def setPartNext (part n : Nat) (s : State) : State :=
  svMap (fun v => match part with
    | 1 => { v with nextCf := n }
    | 2 => { v with nextPm := n }
    | _ => { v with nextGf := n }) s

/-- The operations of a BLOCK: each sector is erased before its first page is programmed (R867). -/
def blockOps : Nat → Nat → List Byte → List FlashOp
  | 0, _, _ => []
  | f + 1, a, bs =>
    if bs.isEmpty then []
    else (if a % 4096 = 0 then [FlashOp.erase a] else []) ++ [.program a (bs.take 256)] ++ blockOps f (a + 256) (bs.drop 256)

/-- BLOCK (R867). -/
def doBlock (pl : List Byte) (s : State) : State :=
  let part := mf pl 0 1
  let off := mf pl 4 4
  let data := pl.drop 8
  let n := data.length
  let (base, len) := partArea part s
  let rest := len - partNext part s
  if s.svc.st ≠ 1 ∨ pl.length < 8 ∨ mf pl 1 3 ≠ 0 ∨ !(partCarried part s) then svAnswer 0x01 [] s
  else if off ≠ partNext part s then svAnswer 0x16 [] s
  else if !((n % 256 = 0 ∧ 256 ≤ n ∧ n ≤ 1024 ∧ n ≤ rest) ∨ (n = rest ∧ 0 < n ∧ n ≤ 1024)) then svAnswer 0x01 [] s
  else flashSubmit (.block part) (blockOps 5 (base + off) data) s

/-- A part's image as it reads back, at its manifest's length. -/
def partImage (part : Nat) (s : State) : List Byte :=
  let (a, n) := partArea part s
  fBytes a n s

/-- A part's image is sound and fits its manifest entry (R868). -/
def partGood (part : Nat) (s : State) : Bool :=
  let img := partImage part s
  let m := s.svc.manifest
  let (kind, room, ver, hash) := match part with
    | 1 => (1, 1830912, mf m 12 4, (m.drop 40).take 32)
    | 2 => (2, 65536, mf m 16 4, (m.drop 72).take 32)
    | _ => (3, 61440, mf m 20 4, (m.drop 104).take 32)
  soundImage s.variant kind room img && Crypto.sha256 img == hash && imgField img 8 4 == ver &&
    (part != 1 || imgField img 16 4 == mf m 36 4)

/-- A header page's filled bytes (Table 15-3). -/
def headerPage (magic seq ver pmVer len pmLen bundle : Nat) : List Byte :=
  beBytes 4 magic ++ beBytes 4 seq ++ beBytes 4 ver ++ beBytes 4 pmVer ++ beBytes 4 len ++ beBytes 4 pmLen ++ beBytes 4 bundle

/-- SEQ for a slot's header: one above the running slot's, in ROM recovery one above the higher valid SEQ (R868,
R887). -/
def nextSlotSeq (s : State) : Nat :=
  if inRecovery s then
    match primarySlot s with
    | some p => hdrSeq (slotBase p) s + 1
    | none => 1
  else hdrSeq (slotBase (get RG.SLOT 0 s)) s + 1

/-- SEQ for a GF copy's header (R868). -/
def nextCopySeq (s : State) : Nat :=
  match currentCopy s with
  | some c => hdrSeq (copyBase c) s + 1
  | none => 1

/-- END (R868, R887). -/
def doEnd (pl : List Byte) (s : State) : State :=
  let m := s.svc.manifest
  let parts := (if mfSlot m then [1, 2] else []) ++ (if mfGf m then [3] else [])
  if s.svc.st ≠ 1 ∨ pl ≠ [] ∨ parts.any (fun p => partNext p s != (partArea p s).2) then svAnswer 0x01 [] s
  else if parts.any (fun p => !(partGood p s)) then svAnswer 0x14 [] s
  else
    let sb := slotBase s.svc.slot
    let slotOps := if mfSlot m then
        [FlashOp.program sb (headerPage 0x5354534C (nextSlotSeq s) (mf m 12 4) (mf m 16 4) (mf m 24 4) (mf m 28 4) (mf m 8 4))] ++
        (if inRecovery s then [.program (sb + 0x100) (beBytes 4 0xA55AC33C)] else [])
      else []
    let copyOps := if mfGf m then
        [FlashOp.program (copyBase s.svc.copy) (headerPage 0x53544746 (nextCopySeq s) (mf m 20 4) 0 (mf m 32 4) 0 (mf m 8 4))]
      else []
    flashSubmit .finish (slotOps ++ copyOps) s

/-! ### Activation steps (15.5) -/

/-- A step's outcome is logged (R879): the version is that of the part, or 0 where there is none. -/
def logStep (step result : Nat) (s : State) : State :=
  let m := s.svc.manifest
  let ver := if step < 0x10 then mf m 20 4 else if step < 0x20 then mf m 16 4 else mf m 12 4
  logEvent 0x10 step result [ver, mf m 8 4] s

/-- The rejection marks of a bundle that failed (R879). -/
def rejectOps (guardStep : Bool) (s : State) : List FlashOp :=
  (if mfSlot s.svc.manifest then [FlashOp.program (slotBase s.svc.slot + 0x200) zeroMark] else []) ++
  (if guardStep then [FlashOp.program (copyBase s.svc.copy + 0x200) zeroMark] else [])

/-- A step fails, and with it the sequence (R879). -/
def stepFailed (result : Nat) (s : State) : State :=
  let step := (s.svc.steps.head?).getD 0xFF
  let s := logStep step result s
  let s := svMap (fun v => { v with st := 7, step := step, result := result, steps := [], pm := none }) s
  let s := irq RG.IRQ_FIRMWARE (put RG.UPDATE_ACTIVE 0 0 s)
  flashSubmit .failMarks (rejectOps (decide (step < 0x10)) s) s

/-- A guard's download begins from a GF copy (R873). -/
def fwBegin (k copy : Nat) (other update : Bool) (s : State) : State :=
  gMap k (fun g => { g with blocks := [], fw := some ⟨copy, 0, none, other, update⟩, restoreAt := none }) s

/-- The next step of the sequence starts, or the sequence ends (R871, R872, R876): guards that are not
present or run the manifest's GF, and groups that run its PM, are skipped. A PM step waits for PM_ACTIVATION. DEDUCED (assumption 91). -/
def nextStep : Nat → State → State
  | 0, s => s
  | f + 1, s =>
    match s.svc.steps with
    | [] =>
      let s := svMap (fun v => { v with st := if mfSlot v.manifest then 4 else 6, step := 0xFF, result := 0 }) s
      irq RG.IRQ_FIRMWARE (put RG.UPDATE_ACTIVE 0 0 s)
    | x :: r =>
      let s := svMap (fun v => { v with step := x }) s
      if x < 0x10 then
        if !(bitOf (get RG.GUARD_PRESENT 0 s) x) ∨ (gGet x s).run = 2 ∧ get RG.GF_VER x s = mf s.svc.manifest 20 4 then nextStep f (svMap (fun v => { v with steps := r }) s)
        else fwBegin x s.svc.copy false true s
      else if get RG.PM_VER (x - 0x10) s = mf s.svc.manifest 16 4 then nextStep f (svMap (fun v => { v with steps := r }) s)
      else s

/-- The step in progress passes. -/
def stepPassed (s : State) : State :=
  let step := (s.svc.steps.head?).getD 0xFF
  nextStep 16 (svMap (fun v => { v with steps := v.steps.drop 1, result := 0 }) (logStep step 0 s))

/-- ACTIVATE with PHASE 0x01 (R871, R872). -/
def doActivateParts (pl : List Byte) (s : State) : State :=
  if inRecovery s ∨ s.svc.st ≠ 2 ∨ pl ≠ [1#8] then svAnswer 0x01 [] s
  else
    let m := s.svc.manifest
    let steps := (if mfGf m then presentGuards s else []) ++ (if mfSlot m then (presentGroups s).map (0x10 + ·) else [])
    let s := svAnswer 0 [] s
    let s := put RG.UPDATE_ACTIVE 0 1 (svMap (fun v => { v with st := 3, steps := steps, step := 0xFF, result := 0 }) s)
    if mfGf m then flashSubmit .gfValid [.program (copyBase s.svc.copy + 0x100) (beBytes 4 0xA55AC33C)] s
    else nextStep 16 s

/-- ACTIVATE with PHASE 0x02 (R880): the image is checked and its slot's VALID programmed before the answer. -/
def doActivateCore (pl : List Byte) (s : State) : State :=
  if inRecovery s ∨ s.svc.st ≠ 4 ∨ !(mfSlot s.svc.manifest) ∨ pl ≠ [2#8] then svAnswer 0x01 [] s
  else if !(soundImage s.variant 1 1830912 (partImage 1 s)) then svAnswer 0x14 [] s
  else flashSubmit .coreValid [.program (slotBase s.svc.slot + 0x100) (beBytes 4 0xA55AC33C)] s

/-! ### GF activation (R873 to R875) -/

/-- The stream of a GF copy: its image and the CRC-32 over it, in blocks of 64 bytes padded with 0xFF (R873). -/
def gfStream (copy : Nat) (s : State) : List Byte :=
  let img := fBytes (copyBase copy + 0x1000) (hdrLen (copyBase copy) s) s
  img ++ beBytes 4 (crc32 img)

/-- Blocks of a stream. -/
def gfBlocks (copy : Nat) (s : State) : Nat := ceilDiv (hdrLen (copyBase copy) s + 4) 64

/-- Block `i` of a stream (R873). -/
def gfBlock (copy i : Nat) (s : State) : List Byte :=
  let b := ((gfStream copy s).drop (64 * i)).take 64
  b ++ List.replicate (64 - b.length) 255#8

/-- What the guard's flash holds: the image's version, when the CRC-32 of the stream checks (Table 15-9, step 3). -/
def gfReceived (g : Guard) : Option Nat :=
  let bs := (g.blocks.map fun (_, b) => b).flatten
  let n := 256 + imgField bs 12 4
  if decide (n + 4 ≤ bs.length) && beBytes 4 (crc32 (bs.take n)) == (bs.drop n).take 4 then some (imgField bs 8 4) else none

/-- The treatment of a port as in trim ends at a moment at which no command has told the level of its LRXn: it is free.
DESIGN CHOICE (assumption 133). -/
def untreatAny (p : Nat) (s : State) : State :=
  let (b, s) := drawBit s
  untreat p b s

/-- A GF generation outside the running CF's ranges holds a guard out of service; one inside ends that (R885). -/
def genCheck (k : Nat) (s : State) : State :=
  let g := gGet k s
  if g.run ≠ 2 then s
  else if genIn (g.gfVer % 256) (get RG.GF_GEN_MIN 0 s) (get RG.GF_GEN_MAX 0 s) then
    let s := gMap k (fun x => { x with heldOut := false }) s
    watchHealth (if g.heldOut then each (linesOf k) untreatAny s else s)
  else watchHealth (each (linesOf k) (fun p a => dropSlice p 3 (trimTakes p a)) (gMap k (fun g => { g with heldOut := true }) s))

/-- A guard needs its GF restored: it runs its ROM recovery, or is held out of service, and the current copy lies
within the running CF's ranges (R828, R885). -/
def needsGf (k : Nat) (s : State) : Bool :=
  bitOf (get RG.GUARD_PRESENT 0 s) k && ((gGet k s).run == 3 || ((gGet k s).run == 2 && (gGet k s).heldOut)) &&
  !(gGet k s).faulted &&
  match currentCopy s with
  | some c => genIn (hdrVersion (copyBase c) s % 256) (get RG.GF_GEN_MIN 0 s) (get RG.GF_GEN_MAX 0 s)
  | none => false

/-- After SERVICE_READY the firmware begins the GF restore of the lowest guard that needs one and waits for no
repetition; one guard at a time (R763, R828, R885). -/
def startRestores (s : State) : State :=
  if s.sys.phase ≠ .ready ∨ gfRestoring s ∨ s.svc.st = 3 then s
  else match (presentGuards s).find? (fun k => needsGf k s && (gGet k s).restoreAt.isNone), currentCopy s with
    | some k, some c => fwBegin k c false false s
    | _, _ => s

/-- GF_RESTORE_RETRY (R875): the clock runs on to 60 s after the last attempt. -/
def gfRestoreRetry (k : Nat) (s : State) : State :=
  match (gGet k s).restoreAt with
  | none => s
  | some t =>
    let s := runTo t s
    if gfRestoring s ∨ s.svc.st = 3 then s
    else match currentCopy s with
      | some c => if needsGf k s then fwBegin k c false false s else gMap k (fun g => { g with restoreAt := some (s.now + cyclesS 60) }) s
      | none => gMap k (fun g => { g with restoreAt := some (s.now + cyclesS 60) }) s

/-- A guard's run ends without a new GF (R875): it is tried again in 60 s, RECOVERY is set where the guard stands in
its ROM recovery, and an update's step fails. -/
def fwGiveUp (k : Nat) (update : Bool) (s : State) : State :=
  let s := gMap k (fun g => { g with fw := none, act := none, restoreAt := some (s.now + cyclesS 60) }) s
  let s := if (gGet k s).run = 3 then logGuard 3 k (guardAlert RG.GA_RECOVERY k s) else s
  if update then stepFailed 0x17 s else s

/-- FW_BLOCK (R873): the next block of the download goes to the guard; 500 µs lie between two of them. A link fault
ends the run (R904). -/
def fwBlock (k : Nat) (o : GlOutcome) (s : State) : State :=
  match (gGet k s).fw with
  | none => s
  | some r =>
    let spaced := match r.lastAt with
      | some t => decide (t + cyclesUs 500 ≤ s.now)
      | none => true
    if !(linkFree k s) ∨ !spaced ∨ (gGet k s).act.isSome ∨ gfBlocks r.copy s ≤ r.next then s
    else
      let b := gfBlock r.copy r.next s
      let s := gMap k (fun g => { g with
        blocks := if glActed o then insert r.next b g.blocks else g.blocks,
        fw := some { r with lastAt := some s.now, next := if o.isOk then r.next + 1 else r.next } }) s
      let s := transact k (glRequest 0x18 (r.next / 256) (r.next % 256) 16 b) [] o s
      if (gGet k s).faulted then fwGiveUp k r.update s
      else if o.isOk ∧ r.next + 1 = gfBlocks r.copy s then
        requestLeave (.gfActivate k) 4 (cyclesMs (get RG.FW_LEAVE_TO_MS 0 s)) false s
      else s

/-- FW_ACTIVATE (R763, R874, R266): the granted activation starts, one guard at a time; the guard's lines are treated as in
trim and no slice goes on. DEDUCED (assumption 92). -/
def fwActivate (k : Nat) (o : GlOutcome) (s : State) : State :=
  match (gGet k s).fw with
  | none => s
  | some r =>
    if !(linkFree k s) ∨ !(mayStart (.gfActivate k) s) ∨ gfActivating s then s
    else
      let s := transact k (glRequest 0x19 0xFF 0 0 []) [] o s
      if glActed o then
        let s := each (linesOf k) (fun p a => dropSlice p 3 (trimTakes p a)) s
        watchHealth <| put RG.MON_STATE k 5 (gMap k (fun g => { g with run := 5, act := some (hdrVersion (copyBase r.copy) s, s.now + cyclesMs 40) }) s)
      else if (gGet k s).faulted then fwGiveUp k r.update (releaseLeave (.gfActivate k) s)
      else s

/-- The shadow's configuration and what is owed reach the guard at once (Table 15-9, step 6). -/
def forwardAll (p : Nat) (s : State) : State :=
  let s := (lcGet p s).forward.foldl (fun a w => applyFwd p w a) s
  let s := each [0, 1, 2] (fun w a => lnMap p (fun x => { x with cfg := store (cfgReset w) w (shadowWord p w a) x.cfg }) a) s
  lcMap p (fun c => { c with forward := [], reconciled := true }) s

/-- A GF did not come to run (R875): the guard stays in ROM recovery, the other copy is tried, and an update's step fails.
DEDUCED (assumption 93). -/
def gfNotRunning (k : Nat) (r : FwRun) (s : State) : State :=
  let s := gMap k (fun g => { g with run := 3, gfVer := 0, act := none, fw := none, heldOut := true }) s
  let s := watchHealth (identTaken k (releaseLeave (.gfActivate k) s))
  if !r.other ∧ usable (copyBase (1 - r.copy)) s then
    let s := fwBegin k (1 - r.copy) true false s
    if r.update then stepFailed 0x17 s else s
  else fwGiveUp k r.update s

/-- GF_ACTIVATION_END (R874, R875): an IDENT within 40 ms shows the new GF, and the shadow is forwarded, the trim treatment and
the leave end; or it shows the ROM recovery. `startLines` lists the lines whose LRXn shows the start level. -/
def gfActivationEnd (k : Nat) (startLines : List Nat) (o : GlOutcome) (s : State) : State :=
  match (gGet k s).act, (gGet k s).fw with
  | some (ver, limit), some r =>
    if s.now > limit ∨ fetchOwed s then s
    else if !o.isOk then transact k (glRequest 0x17 0xFF 0 0 []) [] o s
    else if gfReceived (gGet k s) ≠ some ver then
      gfNotRunning k r (transact k (glRequest 0x17 0xFF 0 0 []) (identBytes { gGet k s with run := 3, gfVer := 0 }) o s)
    else
      let s := gMap k (fun g => { g with run := 2, gfVer := ver, act := none, fw := none, heldOut := false, restoreAt := none }) s
      let s := transact k (glRequest 0x17 0xFF 0 0 []) (identBytes (gGet k s)) o s
      let s := genCheck k (identTaken k (releaseLeave (.gfActivate k) s))
      let s := each (linesOf k) forwardAll s
      let s := each (linesOf k) (fun p a => untreat p (startLines.contains p) a) s
      let s := each (linesOf k) (fun p a =>
        if flag GL.PWR_EN p a ∧ (lnGet p a).pwr = 0 ∧ !(isWaiting (.switchOn p) a) then askSwitchOn p a else a) s
      if r.update then stepPassed s else startRestores s
  | _, _ => s

/-- GF_ACTIVATION_TIMEOUT (R875): no IDENT showed the new GF by 40 ms. -/
def gfActivationTimeout (k : Nat) (s : State) : State :=
  match (gGet k s).act, (gGet k s).fw with
  | some (_, limit), some r => gfNotRunning k r (runTo limit s)
  | _, _ => s

/-! ### PM activation (R876 to R878) -/

/-- The ports of a PM group. -/
def groupPorts (g : Nat) (s : State) : List Nat := (linesOf g).filter (portOk s)

/-- Polls in flight on a port: its transaction's poll is aborted and counted LATE (Table 15-10, Table 15-11). -/
def abortInFlight (p : Nat) (s : State) : State :=
  match (copGet p s).txn with
  | .poll i => abortPoll i s
  | _ => s

/-- PM_ACTIVATION (R876): the staged PM is checked, and the group's ports pause while it is loaded.
DEDUCED (assumption 90). -/
def pmActivation (s : State) : State :=
  match s.svc.steps with
  | [] => s
  | x :: _ =>
    if s.svc.st ≠ 3 ∨ x < 0x10 ∨ s.svc.pm.isSome then s
    else if !(soundImage s.variant 2 65536 (partImage 2 s)) then stepFailed 0x14 s
    else
      let s := each (groupPorts (x - 0x10) s) (fun p a => trimTakes p (abortInFlight p a)) s
      svMap (fun v => { v with pm := some (x - 0x10, s.now, false) }) s

/-- The ports of a paused group resume. -/
def pmResume (g : Nat) (startLines : List Nat) (s : State) : State :=
  let s := svMap (fun v => { v with pm := none }) s
  each (groupPorts g s) (fun p a => untreat p (startLines.contains p) a) s

/-- PM_SELF_TEST_END (R877, R878): passed, the group runs the new PM; failed, it gets the previous one back and is
tested again, and the step fails. -/
def pmSelfTestEnd (pass : Bool) (startLines : List Nat) (s : State) : State :=
  match s.svc.pm with
  | none => s
  | some (g, _, again) =>
    if !again then
      if pass then stepPassed (pmResume g startLines (put RG.PM_VER g (mf s.svc.manifest 16 4) s))
      else svMap (fun v => { v with pm := some (g, s.now, true) }) s
    else
      let old := get RG.PM_VER g s
      let s := maskBit RG.PM_REVERTED g true (pmResume g startLines s)
      let s := if pass then logEvent 0x0F 0 g [mf s.svc.manifest 16 4, old] s
        else logEvent 0x0F 1 g [mf s.svc.manifest 16 4, old] (watchHealth { s with sys := { s.sys with pmOut := s.sys.pmOut ++ [g] } })
      stepFailed 0x17 s

/-! ### CF activation, confirmation and revert (R880 to R884) -/

/-- The CF pause begins (Table 15-11, steps 1 to 3): the Canopy takes no record, polls in flight are aborted, a card
script is aborted, and Stump frames and tenant commands are turned away (R881). -/
def pauseBegin (revert : Bool) (s : State) : State :=
  let s := each (List.range (Config.ports s.variant)) abortInFlight s
  let s := each [0, 1] (fun n a =>
    if (cGet n a).script = .none then a else cMap n (fun c => { c with rerun := true }) (abortScript n a)) s
  put RG.ACTIVATING 0 1 { s with sys := { s.sys with phase := .paused }, svc := { s.svc with pause := some (s.now, revert) } }

/-- The confirm window runs from now, or the running CF is confirmed already (R823, R883). DEDUCED (assumption 148). -/
def confirmBegin (s : State) : State :=
  let s := { s with sys := { s.sys with wellFrom := if healthy s then some s.now else none } }
  if confirmedMark (slotBase (get RG.SLOT 0 s)) s then
    put RG.CONFIRMED 0 1 (put RG.CONFIRM_LEFT_S 0 0 { s with sys := { s.sys with confirmFrom := none } })
  else put RG.CONFIRMED 0 0 (put RG.CONFIRM_LEFT_S 0 30 { s with sys := { s.sys with confirmFrom := some s.now } })

/-- SERVICE_RESUMED (Table 15-11, R884): the other CF runs, its ranges judge the guards, and service goes on. -/
def serviceResumed (s : State) : State :=
  match s.svc.pause with
  | none => s
  | some (_, revert) =>
    let old := get RG.SLOT 0 s
    let slot := if revert then s.svc.oldSlot.getD (1 - old) else s.svc.slot
    let s := takeCf slot s
    let s := put RG.ACTIVATING 0 0 { s with sys := { s.sys with phase := .ready, runningSlot := some slot } }
    let s := svMap (fun v => { v with pause := none, oldSlot := if revert then none else some old }) s
    let s := confirmBegin (irq RG.IRQ_FIRMWARE (irq RG.IRQ_READY s))
    let s := each (presentGuards s) (fun k a => genCheck k a) s
    let s := each [0, 1] (fun n a => if (cGet n a).rerun then cardReset n (cMap n (fun c => { c with rerun := false }) a) else a) s
    let s := if revert then logEvent 0x11 1 old [get RG.CF_VER 0 s] (put RG.REVERTED 0 1 s)
      else put RG.UPDATE_ACTIVE 0 0 (logStep 0x20 0 (svMap (fun v => { v with st := 6, step := 0xFF, result := 0 }) (put RG.REVERTED 0 0 s)))
    startRestores s

/-- CF_CONFIRM (R883): R882 has held for 10 s inside the window; the confirmation mark is programmed. The count of
CONFIRM_LEFT_S stands from here. -/
def cfConfirm (s : State) : State :=
  match s.sys.confirmFrom, s.sys.wellFrom with
  | some _, some w =>
    if !(healthy s) ∨ s.now < w + cyclesS 10 ∨ confirmLeft s = 0 then s
    else
      let s := put RG.CONFIRM_LEFT_S 0 (confirmLeft s) { s with sys := { s.sys with confirmFrom := none } }
      flashSubmit .confirm [.program (slotBase (get RG.SLOT 0 s) + 0x300) zeroMark] s
  | _, _ => s

/-- The slot that runs is confirmed (R883). -/
def confirmed (s : State) : State :=
  let s := put RG.CONFIRMED 0 1 (put RG.CONFIRM_LEFT_S 0 0 (svMap (fun v => { v with oldSlot := none }) s))
  logEvent 0x11 0 (get RG.SLOT 0 s) [get RG.CF_VER 0 s] (irq RG.IRQ_FIRMWARE s)

/-- The mark of a revert. -/
def markOp (slot : Nat) : FlashOp := .program (slotBase slot + 0x200) zeroMark

/-- The confirmation of a new firmware ran out at `due`: the slot in use is rejected (R884). -/
def revertAt (due : Nat) (s : State) : State :=
  let s := runTo due s
  let s := put RG.CONFIRM_LEFT_S 0 0 { s with sys := { s.sys with confirmFrom := none } }
  flashSubmit .revertMark [markOp (get RG.SLOT 0 s)] s

/-- The confirm window that began at `t` does not run out: R882 will have held for 10 s before its end, and the count of
CONFIRM_LEFT_S stands from then on (R883). -/
def windowHolds (t : Nat) (s : State) : Bool :=
  match s.sys.wellFrom with
  | some w => healthy s && decide (w + cyclesS 10 < t + cyclesS 30)
  | none => false

/-- CF_REVERT (R884): the clock runs on to the end of the confirm window; the running slot is rejected first.
DEDUCED (assumption 94). -/
def cfRevert (s : State) : State :=
  match s.sys.confirmFrom with
  | none => s
  | some t => if s.sys.phase ≠ .ready ∨ windowHolds t s then s else revertAt (t + cyclesS 30) s

/-- The switch to the old image, once the mark's program has ended one way or the other (R884). With no old image in
RAM and no usable other slot, nothing can be switched to. -/
def revertSwitch (s : State) : State :=
  if s.svc.oldSlot.isSome ∨ usable (slotBase (1 - get RG.SLOT 0 s)) s then pauseBegin true s else s

/-- REJECTION_MARK_RETRY (R884): every 10 s until the mark is programmed. -/
def rejectionMarkRetry (s : State) : State :=
  match s.svc.markRetry with
  | none => s
  | some (t, slot) =>
    flashSubmit .markRetry [markOp slot] (svMap (fun v => { v with markRetry := none }) (runTo t s))

/-- A mark could not be programmed: again in 10 s (R884). -/
def markAgain (slot : Nat) (s : State) : State := svMap (fun v => { v with markRetry := some (s.now + cyclesS 10, slot) }) s

/-! ### What follows a run of flash operations -/

/-- A run has been done. The CF pause begins with the end of the reply's closing flag (R880). -/
def flashDone (why : FlashFor) (s : State) : State :=
  match why with
  | .begin_ =>
    svAnswer 0 [0xFF#8] (svMap (fun v => { v with st := 1, step := 0xFF, result := 0, nextCf := 0, nextPm := 0, nextGf := 0 }) s)
  | .block part => svAnswer 0 (beBytes 4 (partNext part s)) s
  | .finish =>
    let s := if inRecovery s then { s with sys := { s.sys with bootFails := 0, pendingFlag := false } } else s
    svAnswer 0 [] (svMap (fun v => { v with st := 2 }) s)
  | .gfValid => nextStep 16 s
  | .coreValid =>
    let s := put RG.UPDATE_ACTIVE 0 1 (svMap (fun v => { v with st := 5, step := 0x20 }) (svAnswer 0 [] s))
    pauseBegin false (elapse (svTime s) s)
  | .failMarks => s
  | .confirm => confirmed s
  | .revertMark => revertSwitch s
  | .markRetry => s
  | .journal => journalDone s
  | .ring => ringDone s

/-- A run has ended with a status of Table 15-6: LEAVE_TIMEOUT 0x07 or FLASH 0x15. `slot` is the slot whose mark was to
be programmed, where it was one; `used` tells that an operation had started. DEDUCED (assumption 89). -/
def flashFailed (why : FlashFor) (status slot : Nat) (used : Bool) (s : State) : State :=
  match why with
  | .begin_ | .block _ | .finish | .coreValid => svAnswer status [] s
  | .gfValid => stepFailed status s
  | .failMarks => s
  | .confirm => flashSubmit .confirm [.program (slotBase (get RG.SLOT 0 s) + 0x300) zeroMark] s
  | .revertMark => revertSwitch (if status = 0x07 then markAgain slot s else s)
  | .markRetry => if status = 0x07 then markAgain slot s else s
  | .journal => journalFailed used s
  | .ring => ringFailed used s

/-- The slot that an operation's address lies in. -/
def opSlot (o : FlashOp) : Nat :=
  match o with
  | .program a _ => a / 0x200000
  | .erase a => a / 0x200000

/-- FLASH_PROGRAM_DONE (R774, R848): the page reads back; `bad` gives what it reads instead, when it does not. -/
def flashProgramDone (bad : Option (List Byte)) (s : State) : State :=
  match flashOp s with
  | some (.program a data) =>
    if !s.flash.busy then s
    else
      let got := match bad with
        | some b => padTo data.length b
        | none => data
      let s := flashIssue (FlashOp.checks (.program a data)) (flashWrite a got s)
      let good := fBytes a data.length s == data
      let part := s.flash.jobs.head?.map FlashJob.why
      let s := releaseLeave .flashProgram s
      if good then
        let s := match part with
          | some (.block p) => setPartNext p (partNext p s + data.length) s
          | _ => s
        match flashNextOp s with
        | (some why, s) => flashAsk (flashDone why s)
        | (none, s) => s
      else
        match flashDrop s with
        | (some why, s) => flashAsk (flashFailed why 0x15 (opSlot (.program a data)) true (flashFault 0 a s))
        | (none, s) => s
  | _ => s

/-- An erased sector that is not blank: the byte found at an offset (R848). -/
def notBlank (a : Nat) (bad : Option (Nat × Byte)) (s : State) : State :=
  match bad with
  | some (o, b) => { s with flash := { s.flash with mem := fSet (sectorOf a + o % 4096) b s.flash.mem } }
  | none => s

/-- FLASH_ERASE_DONE (R774, R848): the sector is blank; `bad` gives an offset and the byte found there, when it is not. -/
def flashEraseDone (bad : Option (Nat × Byte)) (s : State) : State :=
  match flashOp s with
  | some (.erase a) =>
    if !s.flash.busy then s
    else
      let s := flashIssue (FlashOp.checks (.erase a)) (notBlank a bad (flashBlank a s))
      let good := match bad with
        | some (_, b) => b == 255#8
        | none => true
      let s := releaseLeave .flashErase s
      let s := if s.flash.jobs.head?.map FlashJob.why = some .begin_ ∧ a = slotBase s.svc.slot ∧ mfSlot s.svc.manifest then
          put RG.CF_ALT_VER 0 0 s else s
      let s := if s.flash.jobs.head?.map FlashJob.why = some .ring then keepRing s else s
      if good then
        match flashNextOp s with
        | (some why, s) => flashAsk (flashDone why s)
        | (none, s) => s
      else
        match flashDrop s with
        | (some why, s) => flashAsk (flashFailed why 0x15 (opSlot (.erase a)) true (flashFault 1 a s))
        | (none, s) => s
  | _ => s

/-- The next flash operation's leave has timed out (R772, R849). -/
def flashTimeout (s : State) : State :=
  match flashOp s with
  | none => s
  | some o =>
    let used := match s.flash.jobs.head? with
      | some ⟨.ring, _, ops⟩ => decide (ops.length = 1)
      | some ⟨.journal, started, _⟩ => started
      | _ => false
    match flashDrop s with
    | (some why, s) => flashAsk (flashFailed why 0x07 (opSlot o) used s)
    | (none, s) => s

/-- A GF activation's leave has timed out (R772, R879). -/
def gfTimeout (k : Nat) (s : State) : State :=
  match (gGet k s).fw with
  | none => s
  | some r =>
    let s := gMap k (fun g => { g with fw := none, restoreAt := some (s.now + cyclesS 60) }) s
    if r.update then stepFailed 0x07 s else s

end Sys2Proof.Machine
end

