-- ==== Sys2Proof/Machine/RegRead.lean ====
section
/-! DEFINITION. The register file as the management port reads it (chapters 11 and 12): which addresses are present,
reserved or absent on a variant, which fields a word holds, the fields that follow live state, and the captures that a
read brings about. -/

namespace Sys2Proof.Machine

/-! ### Which words there are -/

/-- What stands at an address (Table 11-7, R671). -/
inductive Place
  /-- A word with fields, or a reserved word of a present entry. -/
  | present
  /-- A reserved direct address, or a reserved word of the COUNTERS, REFUSAL_LOG or EVENT_LOG space. -/
  | reserved
  | absent
  deriving DecidableEq, Repr

/-- Direct addresses absent on a reduced variant (Table 12-3). -/
def directAbsent (v : Variant) (a : Nat) : Bool :=
  let within (lo hi : Nat) : Bool := decide (lo ≤ a) && decide (a ≤ hi)
  match v with
  | .sx4848 => false
  | .sx4824 => within 0x67 0x69 || within 0x6D 0x6F || within 0x84 0x8F || within 0xC7 0xC9 || within 0xD5 0xD6
  | .sx4812 => within 0x66 0x69 || within 0x6C 0x6F || within 0x70 0x95 || within 0xC6 0xC9 || within 0xD4 0xD6

/-- Reserved direct addresses (Table 12-4). -/
def directReserved (a : Nat) : Bool :=
  [(0x0D, 0x0F), (0x1D, 0x1F), (0x2C, 0x2F), (0x3E, 0x3F), (0x56, 0x5F), (0x75, 0x77), (0x96, 0x9F), (0xAC, 0xAF),
   (0xBD, 0xBF), (0xCB, 0xCF), (0xDD, 0xFF)].any fun (lo, hi) => decide (lo ≤ a) && decide (a ≤ hi)

/-- A word of the COUNTERS space (R750, R909). -/
def counterPlace (s : State) (a : Nat) : Place :=
  let here (b : Bool) : Place := if b then .present else .absent
  if a < 4096 then here (decide (a < Config.rules s.variant))
  else if a < 5904 then here (queueOk s ((a - 4096) / 8))
  else if a < 6144 then .reserved
  else if a < 6656 then here (tenantOk s ((a - 6144) / 4))
  else if a < 6860 then
    let x := (a - 6656) / 4
    here (if x < 48 then portOk s x else if x < 50 then cardOk s (x - 48) else true)
  else .reserved

/-- What stands at an address of a space (R663, R671, R720, R748 to R751). Space 0 is the direct map. -/
def place (space a : Nat) (s : State) : Place :=
  let entry (size : Nat) (ok : Nat → Bool) : Place := if ok (a / size) then .present else .absent
  match space with
  | 0 => if 0xFF < a ∨ directAbsent s.variant a then .absent else if directReserved a then .reserved else .present
  | 1 => entry 32 (portOk s)
  | 2 => entry 8 (talkerOk s)
  | 3 => entry 16 fun r => decide (r < Config.rules s.variant)
  | 4 => entry 32 (tenantOk s)
  | 5 => entry 16 fun g => decide (g < Config.groups)
  | 6 => entry 16 (talkerOk s)
  | 7 => entry 8 (queueOk s)
  | 8 => entry 16 (portOk s)
  | 9 => if a < 8192 then counterPlace s a else .absent
  | 10 => entry 8 (tenantOk s)
  | 11 => if a < 3 ∨ (4 ≤ a ∧ a < 4112) then (if a = 2 then .reserved else .present) else if a = 3 then .reserved else .absent
  | 12 => if a < 7 then .present else if a < 16 then .reserved else if a < 8208 then .present else .absent
  | 13 => entry 128 (cardOk s)
  | _ => .absent

/-! ### Fields of a word -/

/-- The fields of a table at word `off` of entry `i`. -/
def fieldsIn (l : List Fld) (off i : Nat) : List (Fld × Nat) := (l.filter fun f => f.word == off).map fun f => (f, i)

/-- The fields of a direct register. -/
def directFields (a : Nat) : List (Fld × Nat) :=
  if 0x40 ≤ a ∧ a < 0x50 then fieldsIn fldsRG (0x40 + a % 4) ((a - 0x40) / 4)
  else if 0x64 ≤ a ∧ a < 0x6A then [(RG.PM_VER, a - 0x64)]
  else if 0x6A ≤ a ∧ a < 0x70 then [(RG.GF_VER, a - 0x6A)]
  else if 0x78 ≤ a ∧ a < 0x90 then fieldsIn fldsUL (0x78 + (a - 0x78) % 12) ((a - 0x78) / 12)
  else if 0xC4 ≤ a ∧ a < 0xCA then fieldsIn fldsRG 0xC4 (a - 0xC4)
  else fieldsIn fldsRG a 0

/-- The fields of a COUNTERS word (R750, Table 16-2, Table 16-3). -/
def counterFields (a : Nat) : List (Fld × Nat) :=
  if a < 4096 then [(CN.MATCH_CNT, a)]
  else if a < 5904 then (fieldsIn fldsCN (4096 + (a - 4096) % 8) ((a - 4096) / 8)).filter fun x => x.1.stride == 8
  else if 6144 ≤ a ∧ a < 6656 then [(CN.TENANT_CLASS, a - 6144)]
  else if 6656 ≤ a ∧ a < 6860 then [(CN.SOURCE_CLASS, a - 6656)]
  else []

/-- The fields of a CARD word (Table 6-9). -/
def cardFields (a : Nat) : List (Fld × Nat) :=
  let o := a % 128
  if 8 ≤ o ∧ o ≤ 0x10 then [(CX.ATR_BYTES, a - 8)]
  else if 0x20 ≤ o ∧ o ≤ 0x60 then [(CX.CMD_BUF, a - 0x20)]
  else fieldsIn fldsCD o (a / 128)

/-- The fields of a word. TENANT words 0x18 to 0x1B are the QUEUE words 0x01 to 0x04 of the tenant's queue (R578);
the words of the two logs and of KEYS hold no field of the register file. -/
def wordFields (space a : Nat) : List (Fld × Nat) :=
  match space with
  | 0 => directFields a
  | 1 => fieldsIn fldsPT (a % 32) (a / 32)
  | 2 => fieldsIn fldsTK (a % 8) (a / 8)
  | 3 => fieldsIn fldsCY (a % 16) (a / 16)
  | 4 => if 0x18 ≤ a % 32 ∧ a % 32 < 0x1C then fieldsIn fldsQU (a % 32 - 0x17) (96 + a / 32) else fieldsIn fldsTN (a % 32) (a / 32)
  | 5 => fieldsIn fldsGP (a % 16) (a / 16)
  | 6 => fieldsIn fldsPL (a % 16) (a / 16)
  | 7 => fieldsIn fldsQU (a % 8) (a / 8)
  | 8 => fieldsIn fldsGL (a % 16) (a / 16)
  | 9 => counterFields a
  | 11 => if a < 2 then fieldsIn fldsRL a 0 else if 4 ≤ a ∧ a < 16 then [(RL.REASON_CNT, a - 3)] else []
  | 12 => if a < 7 then fieldsIn fldsEL a 0 else []
  | 13 => cardFields a
  | _ => []

/-- The address that a word is reached at under its own table: a TENANT alias is the QUEUE word (R578). -/
def ownAddress (space a : Nat) : Nat × Nat :=
  if space = 4 ∧ 0x18 ≤ a % 32 ∧ a % 32 < 0x1C then (7, 8 * (96 + a / 32) + (a % 32 - 0x17)) else (space, a)

/-! ### Live fields -/

/-- The sum of 2^i over the indices that hold. -/
def bitSum (l : List Nat) (f : Nat → Bool) : Nat := l.foldl (fun m i => if f i then m + 2 ^ i else m) 0

/-- A set bit among fields of entry `i`. -/
def anyFlag (l : List Fld) (i : Nat) (s : State) : Bool := l.any fun f => get f i s != 0

/-- LE_EVENTS and PORT word 0x11. -/
def portEvents : List Fld := fldsPT.filter fun f => f.acc == .w1c && f.word != 0x1D

/-- The units whose source bits FAULT_SUM gathers, by IRQ_STATUS bit (Table 16-1, R744). -/
def faultBit (b : Nat) (s : State) : Bool :=
  let ports := List.range (Config.ports s.variant)
  match b with
  | 2 => ports.any fun p => anyFlag (fldsPT.filter fun f => f.acc == .w1c && f.word == 0x07) p s
  | 3 => ports.any fun p => anyFlag (fldsPT.filter fun f => f.acc == .w1c && f.word == 0x11) p s
  | 4 => anyFlag [RG.GA_LINK_FAULT, RG.GA_SUPPLY, RG.GA_RECOVERY, RG.GA_DIE_HOT] 0 s || ports.any fun p => anyFlag glEvents p s
  | 5 => anyFlag [RG.DIE_TIMEOUT, RG.FIELD_TIMEOUT, RG.DIE_WAIT, RG.FIELD_WAIT] 0 s
  | 6 => anyFlag [RG.UQ_POISON, RG.UQ_SRC_DISC, RG.UQ_TX_DISC] 0 s ||
      (List.range 226).any fun q => queueOk s q && anyFlag [QU.POISON, QU.FULL, QU.CLEARED] q s
  | 7 => (List.range (Config.tenants s.variant)).any fun t => flag TN.LATE_DROP t s
  | 8 => anyFlag [RG.LATE_GRP_LO, RG.LATE_GRP_HI] 0 s || (List.range Config.groups).any fun g => flag GP.SKIP g s
  | 9 => (List.range (Config.uplinks s.variant)).any fun u => anyFlag [UL.LINK_DOWN, UL.LINK_UP_EVT, UL.LEAVE_TO] u s
  | 10 => (List.range (Config.cards s.variant)).any fun n => anyFlag (fldsCD.filter fun f => f.acc == .w1c) n s
  | 14 => anyFlag [RG.THERM_WARN, RG.THERM_HOT] 0 s
  | 16 => anyFlag [RG.PROG_FAIL, RG.ERASE_FAIL] 0 s
  | _ => false

/-- Tenants whose LATE_DROP is 1, in a word of 32. -/
def lateBits (w : Nat) (s : State) : Nat := bitSum (List.range 32) fun i => tenantOk s (32 * w + i) && flag TN.LATE_DROP (32 * w + i) s

/-- Groups whose boundaries follow R123. -/
def groupAligned (g : Nat) (s : State) : Bool := (find g s.groups).any fun r => r.target.isSome

/-- The break or its marking is on the line. -/
def breakActive (p : Nat) (s : State) : Bool := (txOf p s).phase == .brk || (txOf p s).phase == .mark

/-- The fields of a word that follow live state, put into the register file for the read. -/
def refreshWord (space a : Nat) (s : State) : State :=
  match space with
  | 0 => direct
  | 1 =>
    let p := a / 32
    let c := pGet p s
    match a % 32 with
    | 0x06 =>
      let s := put PT.RX_BUSY p (b2n c.rx.isSome) (put PT.TX_BUSY p (b2n (ldeHigh p s)) (put PT.IN_TRIM p (b2n c.inTrim) s))
      let s := put PT.BRK_ACTIVE p (b2n (breakActive p s)) (put PT.RELOAD_PENDING p (b2n (c.rxPend || c.txPend)) s)
      let s := put PT.STAGE_FILL p c.stage.length (put PT.BLOCK_CLOSED p (b2n (!c.closed.isEmpty)) s)
      put PT.TX_HOLD p (b2n (c.inTrim && (c.recHeld || c.brkHeld))) s
    | 0x19 => put PT.LST_TENANT p ((boundTenant p s).getD 0) (put PT.LST_BOUND p (b2n (boundTenant p s).isSome) s)
    | _ => s
  | 4 =>
    let t := a / 32
    if a % 32 = 0x17 then
      put TN.SUB0 t (b2n (get TN.PEER0_IP t s != 0)) (put TN.SUB1 t (b2n (get TN.PEER1_IP t s != 0))
        (put TN.BATCH_OPEN t (b2n (tGet t s).batch.isSome) s))
    else s
  | 5 => if a % 16 = 3 then put GP.ALIGNED (a / 16) (b2n (groupAligned (a / 16) s)) s else s
  | 7 =>
    let q := a / 8
    put QU.WORDS q (qGet q s).count (put QU.USED q (qGet q s).used (put QU.BORROWED q (borrowed q s) s))
  | 8 => if a % 16 = 3 then put GL.IN_TRIM (a / 16) (b2n (lcGet (a / 16) s).trimAt.isSome) s else s
  | _ => s
where
  direct : State :=
    let groups (lo : Nat) : Nat := bitSum (List.range 32) fun i => groupAligned (lo + i) s
    let ports (lo n : Nat) : Nat := bitSum (List.range n) fun i => portOk s (lo + i) && anyFlag portEvents (lo + i) s
    match a with
    | 0x04 => put RG.SVC_EN 0 (b2n s.sys.svcEn) s
    | 0x0A => put RG.BODY_LEN 0 s.mp.body.length s
    | 0x10 => put RG.PLL_LOCK 0 (b2n s.clk.locked) s
    | 0x22 => put RG.DIE_WAITING 0 (min s.leave.die.length 255) (put RG.FIELD_WAITING 0 (min s.leave.field.length 65535) s)
    | 0x51 => put RG.SHARED_USED 0 (sharedUsed s) s
    | 0x52 => put RG.GUAR_SUM 0 (((List.range 226).filter (queueOk s)).map (fun q => get QU.GUAR q s)).sum s
    | 0x62 => put RG.CONFIRM_LEFT_S 0 (confirmLeft s) s
    | 0x7D => put UL.BUILD_BUSY 0 (b2n ((uGet 0 s).build.isSome || !(uGet 0 s).queue.isEmpty)) s
    | 0x89 => put UL.BUILD_BUSY 1 (b2n ((uGet 1 s).build.isSome || !(uGet 1 s).queue.isEmpty)) s
    | 0xA3 => put RG.ALIGNED_LO 0 (groups 0) s
    | 0xA4 => put RG.ALIGNED_HI 0 (groups 32) s
    | 0xB1 => put RG.CANOPY_HELD 0 (b2n (!flag RG.CANOPY_EN 0 s && s.canopy.run.isNone))
        (put RG.CANOPY_BUSY 0 (b2n s.canopy.run.isSome) s)
    | 0xD0 => put RG.FAULT_SUM 0 (bitSum (List.range 17) fun b => faultBit b s) s
    | 0xD1 => put RG.PORT_EVT_LO 0 (ports 0 32) s
    | 0xD2 => put RG.PORT_EVT_HI 0 (ports 32 16) s
    | 0xD3 => put RG.TENANT_LATE0 0 (lateBits 0 s) s
    | 0xD4 => put RG.TENANT_LATE1 0 (lateBits 1 s) s
    | 0xD5 => put RG.TENANT_LATE2 0 (lateBits 2 s) s
    | 0xD6 => put RG.TENANT_LATE3 0 (lateBits 3 s) s
    | _ => s

/-! ### Reading -/

/-- The value that a list of fields spells. -/
def fieldsValue (l : List (Fld × Nat)) (s : State) : Nat := l.foldl (fun v (f, i) => v + get f i s * 2 ^ f.lo) 0

/-- A word of the refusal log or the event log (R694, R751): a position that nothing has written reads 0. -/
def logWord (t : Tbl LogPos) (a : Nat) : Nat := ((lookup [] ((a - 16) / 8) t).getD ((a - 16) % 8) 0#32).toNat

/-- A word as a READ returns it. WO and SC fields read 0 where nothing keeps them at 1; a WO field always reads 0
(Table 0-2). -/
def readWord (space a : Nat) (s : State) : Nat :=
  match place space a s with
  | .present =>
    if space = 11 ∧ 16 ≤ a then logWord s.logs.ref a
    else if space = 12 ∧ 16 ≤ a then logWord s.logs.ev a
    else fieldsValue ((wordFields space a).filter fun x => x.1.acc != .wo) (refreshWord space a s)
  | _ => 0

/-- The capture that reading a word brings about (R91, R184, R454, R574, R576, R738). DEDUCED (assumption 14). -/
def captureWord (space a : Nat) (s : State) : State :=
  match space, a with
  | 0, 0x13 => rtCapture s
  | 0, 0x30 => blkFreeRead s
  | 0, 0x34 => jobLedgerRead s
  | 0, 0x38 => crRead s
  | 0, 0x3B => ledgerRead s
  | 1, a => if a % 32 = 8 then rxCharsRead (a / 32) s else s
  | _, _ => s

/-- A register whose fields are all WO cannot be read (R23): RST_CTRL, HCMD_BODY, and every word of KEYS. -/
def writeOnly (space a : Nat) : Bool := (space == 0 && (a == 0x05 || a == 0x09)) || space == 10

end Sys2Proof.Machine
end

