-- ==== Sys2Proof/Machine/RegWrite.lean ====
section
/-! DEFINITION. Register writes as the management port makes them (R21, R22, R663 to R667, R985): the checks of every
word, its fields by their access and clash codes, and the effects that its chapter gives. A frame is judged word by word
against the state that its earlier words would leave, and takes effect whole or not at all. -/

namespace Sys2Proof.Machine

/-- Why a word refuses its frame. -/
inductive Reject
  /-- A status of Table 11-2: 1 REFUSED, 2 ABSENT, 4 BUSY. -/
  | status (n : Nat)
  /-- CONFLICT, with the resource code of Table 1-6. -/
  | conflict (code : Nat)
  /-- A house command that the scheduler refuses, with its reason of Table 10-5 (R690). -/
  | hcmd (reason : Nat)
  deriving DecidableEq, Repr

/-- What a word comes to: the state it leaves, and what the whole frame starts once every word stands. -/
inductive WRes
  | ok (s : State) (later : List (State → State))
  | no (r : Reject)

/-! ### Fields -/

/-- The counters of clash code A in a word. -/
def ctrFields (l : List (Fld × Nat)) : Nat := (l.filter fun x => x.1.clash == .a).length

/-- An all-ones value keeps a counter in a word that holds two or more of them (R710). -/
def keepsCtr (two : Bool) (f : Fld) (v : Nat) : Bool := two && v == 2 ^ f.width - 1

/-- One field takes what a word writes to it (Table 0-2, Table 0-3). -/
def writeField (two : Bool) (v : Nat) (s : State) (x : Fld × Nat) : State :=
  let (f, i) := x
  let b := bits v f.lo f.width
  match f.acc with
  | .rw => match f.clash with
    | .s => putSw f i b s
    | .a => if keepsCtr two f b then s else putCtr f i b s
    | _ => put f i b s
  | .w1c => clearBits f i b s
  | .ro | .wo | .sc => s

/-- Every field of a word takes what is written to it; reserved bits are ignored (R20, R22). -/
def writeFields (space a v : Nat) (s : State) : State :=
  let l := wordFields space a
  l.foldl (writeField (decide (2 ≤ ctrFields l)) v) s

/-- A one-bit field goes from 0 to 1 between two states. -/
def rises (f : Fld) (i : Nat) (b t : State) : Bool := !flag f i b && flag f i t

/-- A one-bit field goes from 1 to 0. -/
def falls (f : Fld) (i : Nat) (b t : State) : Bool := flag f i b && !flag f i t

/-- A field among those listed has another value. -/
def changes (l : List Fld) (i : Nat) (b t : State) : Bool := l.any fun f => get f i b != get f i t

/-- A word writes 1 to a one-bit field. -/
def asks (f : Fld) (v : Nat) : Bool := bitOf v f.lo

/-- A field holds a value within bounds. -/
def within (f : Fld) (i lo hi : Nat) (t : State) : Bool := decide (lo ≤ get f i t) && decide (get f i t ≤ hi)

/-- A bit of a mask stands for an absent unit (R719). -/
def absentBit (m n : Nat) (ok : Nat → Bool) : Bool := (List.range n).any fun i => bitOf m i && !ok i

/-! ### The checks: `b` is the state before the word, `t` the state as the word's fields leave it -/

/-- The first check that fails, with its answer. -/
def firstFail : List (Bool × Reject) → Option Reject
  | [] => none
  | (c, r) :: l => if c then some r else firstFail l

/-- REFUSED. -/
def refused : Reject := .status 1
/-- ABSENT. -/
def absent : Reject := .status 2
/-- BUSY. -/
def busy : Reject := .status 4

/-- GUAR_SUM as the fields stand (R538). -/
def guarSum (s : State) : Nat := (((List.range 226).filter (queueOk s)).map fun q => get QU.GUAR q s).sum

/-- The credit rules of a write of GUAR, BORROW_MAX or SHARED_POOL (R538, R539). -/
def creditChecks (t : State) : List (Bool × Reject) :=
  [(decide (Config.blocks t.variant < guarSum t + get RG.SHARED_POOL 0 t), refused),
   ((List.range 226).any (fun q => queueOk t q && decide (get QU.BORROW_MAX q t < borrowed q t)) ||
     decide (get RG.SHARED_POOL 0 t < sharedUsed t), busy)]

/-- Why the scheduler refuses the house command that stands in the registers (R688). DEDUCED (assumption 141). -/
def houseReason (t : State) : Option Nat :=
  let n := get RG.HCMD_N 0 t
  let k := get RG.HCMD_TALKER 0 t
  if !talkerOk t k then some 0x07
  else if n = 0 ∨ 40 < n ∨ t.mp.body.length < n then some 0x09
  else commandReason k (get RG.HCMD_KIND 0 t) (flag RG.HCMD_NO_REPLY 0 t) (t.mp.body.take n) t

/-- A tenant has CONSUMER 2 (R609). -/
def anyConsumer2 (s : State) : Bool := (List.range (Config.tenants s.variant)).any fun t => get TN.CONSUMER t s == 2

/-- The checks of an uplink's block (R610, R639). -/
def uplinkChecks (u : Nat) (b t : State) : List (Bool × Reject) :=
  let mac := get UL.MAC_HI u t + get UL.MAC_LO u t
  [(flag UL.VLAN_EN u t && (get UL.VID u t == 0 || get UL.VID u t == 4095), refused),
   (flag UL.EN u b && changes [UL.MAC_HI, UL.MAC_LO, UL.IP_ADDR, UL.SPEED, UL.VLAN_EN, UL.VID] u b t, refused),
   (rises UL.EN u b t && (mac == 0 || get UL.IP_ADDR u t == 0), refused)]

/-- The checks of a direct register (R730, R732, R735, R740, R747). DEDUCED (assumption 19). See assumption 147. -/
def directChecks (a v : Nat) (b t : State) : List (Bool × Reject) :=
  match a with
  | 0x05 => [(bits v 16 16 != 0x5EED || !bitOf v 0, refused)]
  | 0x08 => [(!([0, 1, 3] : List Nat).contains (get RG.HCMD_KIND 0 t), refused),
      (asks RG.HCMD_GO v && (houseReason t).isSome, .hcmd ((houseReason t).getD 0))]
  | 0x09 => [(decide (40 < b.mp.body.length + 4), refused)]
  | 0x11 => [(asks RG.RT_SET v && asks RG.RT_STEP_GO v, refused), (asks RG.RT_STEP_GO v && flag RG.LOCK_EN 0 b, refused)]
  | 0x16 => [(decide (999999999 < get RG.RT_SET_NS 0 t), refused)]
  | 0x17 => [(get RG.RT_STEP 0 t == 0x80000000, refused)]
  | 0x18 => [(decide (3435973 < (rtRate t).natAbs), refused)]
  | 0x1C => [(!within RG.WIDTH_MS 0 1 999 t, refused), (flag RG.TM_OUT_EN 0 b && changes [RG.TM_OUT_POL] 0 b t, refused),
      (rises RG.TM_OUT_EN 0 b t && b.clk.w9 == .cp1, .conflict 1)]
  | 0x28 => [(get RG.FW_LEAVE_TO_MS 0 t == 0 || get RG.BRK_LEAVE_TO_MS 0 t == 0, refused)]
  | 0x2A => [(!within RG.WARN_C 0 80 145 t || !within RG.HOT_C 0 81 145 t || decide (get RG.HOT_C 0 t ≤ get RG.WARN_C 0 t),
      refused)]
  | 0x37 => [(!queueOk t (get RG.CR_SEL 0 t), absent)]
  | 0x3B | 0x3C | 0x3D => [(true, refused)]
  | 0x50 => creditChecks t
  | 0x70 => [(!uplinkOk t 1 && flag RG.UL_MODE 0 t, absent), (get RG.UDP_PORT 0 t == 0, refused),
      (changes [RG.UL_MODE] 0 b t && (flag UL.EN 0 b || flag UL.EN 1 b), refused),
      (rises RG.UL_MODE 0 b t && anyConsumer2 t, refused)]
  | 0x71 => [(asks RG.MDIO_GO v && flag RG.MDIO_BUSY 0 b, busy)]
  | 0x73 => [(get RG.UL_LEAVE_TO_MS 0 t == 0, refused)]
  | 0x90 => [(rises RG.CP1_EN 0 b t && b.clk.w9 == .tmOut, .conflict 1)]
  | 0xA0 => [(get RG.CMD_BURST 0 t == 0 || decide (64 < get RG.POLL_RESERVE 0 t), refused)]
  | 0xA1 => [(absentBit v 32 (portOk t), absent)]
  | 0xA2 => [(absentBit v 16 fun i => portOk t (32 + i), absent)]
  | 0xC1 => [([0, 8, 16, 24].any fun lo => absentBit (bits v lo 6) 6 (guardOk t), absent)]
  | 0xC2 => [(get RG.PWR_LEAVE_TO_MS 0 t == 0 || get RG.TRIM_DEFER_MS 0 t == 0, refused)]
  | 0xC3 => [(!within RG.LEAK_WINDOW_S 0 1 3600 t, refused)]
  | a =>
    if 0x40 ≤ a ∧ a < 0x50 ∧ a % 4 = 0 then
      let c := get RG.WIN_SPACE ((a - 0x40) / 4) t
      [(decide (0x0D < c), refused), (c == 0x0D && !cardOk t 0, absent)]
    else if 0x78 ≤ a ∧ a < 0x90 then uplinkChecks ((a - 0x78) / 12) b t
    else []

/-- The rate and format that a port's grammar needs (R271, R272). -/
def grammarRuns (p : Nat) (t : State) : Bool :=
  let g := get PT.GRAMMAR p t
  let inc := get PT.BAUD_INC p t
  let form := get PT.DATA_BITS p t == 2 && get PT.PARITY p t == 1 && !flag PT.MSB_FIRST p t
  if g = 3 then inc == 103079 && form && get PT.STOP p t == 0 && !flag PT.POL p t
  else if g = 4 then (inc == 412317 || inc == 824634) && form
  else true

/-- The kind of the group-0 timer bank that a grammar uses: 1 Modbus RTU or SDI-12, 2 Mark framing (R273). -/
def bankKind (g : Nat) : Nat := if g = 2 ∨ g = 3 then 1 else if g = 4 then 2 else 0

/-- Another of ports 0 to 7 uses the other kind of the timer bank (R274). DEDUCED (assumption 31). -/
def bankClash (p : Nat) (t : State) : Bool :=
  let k := bankKind (grammar p t)
  decide (p < 8) && k != 0 && (List.range 8).any fun x => x != p && portOk t x && bankKind (grammar x t) == 3 - k

/-- An enabled poll entry names a talker that satisfies a condition. -/
def polled (c : Nat → Bool) (s : State) : Bool :=
  (List.range (Config.talkers s.variant)).any fun i => flag PL.EN i s && c (pollTalker i s)

/-- A character of RENDER_ADDR (R326, R333): a digit or an uppercase letter. -/
def renderChar (n : Nat) : Bool := (decide (0x30 ≤ n) && decide (n ≤ 0x39)) || (decide (0x41 ≤ n) && decide (n ≤ 0x5A))

/-- A tenant with EN 1 is served by the listener port (R588). DEDUCED (assumption 32). -/
def listenedTo (p : Nat) (s : State) : Bool :=
  (List.range (Config.tenants s.variant)).any fun t => flag TN.EN t s && get TN.CONSUMER t s == 3 && get TN.LISTEN_PORT t s == p

/-- The checks of a PORT word (R272 to R274, R324, R333, R587, R588). -/
def portChecks (p o : Nat) (b t : State) : List (Bool × Reject) :=
  let lineRule : List (Bool × Reject) := [((flag PT.EN p b || flag PT.EN p t) && !grammarRuns p t, refused)]
  match o with
  | 0x00 => [(decide (4 < get PT.PARITY p t) || get PT.STOP p t == 3, refused)] ++ lineRule ++
      [(rises PT.EN p b t && t.sys.pmOut.contains (p / 8), busy)]
  | 0x01 => [(!within PT.BAUD_INC p 9449 257698038 t, refused)] ++ lineRule
  | 0x02 => [(get PT.P2P_TALKER p t != 0xFFF && !talkerOk t (get PT.P2P_TALKER p t), absent)]
  | 0x03 => [(get PT.RX_TIMEOUT p t == 0, refused)]
  | 0x05 => [(get PT.BRK_MS p t == 0 || decide (get PT.BRK_DET p t < 2), refused)]
  | 0x08 | 0x09 | 0x0A | 0x0B => [(true, refused)]
  | 0x10 => [(decide (4 < grammar p t) || (grammar p t == 4 && decide (8 ≤ p)), refused),
      (flag PT.EN p b && changes [PT.GRAMMAR] p b t, refused),
      (flag PT.LST_EN p t && bankKind (grammar p t) == 1, refused),
      (changes [PT.GRAMMAR] p b t && bankClash p t, .conflict 2)]
  | 0x16 => [(!(beBytes 4 (get PT.RENDER_ADDR p t)).all (fun c => renderChar c.toNat), refused)]
  | 0x17 => [(!renderChar (get PT.RENDER_ADDR5 p t) || !within PT.RENDER_MAXLEN p 16 1023 t, refused)]
  | 0x18 => [(rises PT.LST_EN p b t && (bankKind (grammar p t) == 1 || polled (fun k => get TK.PORT k t == p) t), refused),
      (falls PT.LST_EN p b t && listenedTo p b, refused)]
  | _ => []

/-- The checks of a TALKER word (R156, R401, R402). -/
def talkerChecks (k o : Nat) (b t : State) : List (Bool × Reject) :=
  match o with
  | 0x00 => [(!portOk t (get TK.PORT k t), absent),
      ((changes [TK.PORT] k b t || falls TK.VALID k b t) && polled (· == k) b, refused)]
  | 0x02 => [(decide (41 < (signedOf 8 (get TK.LEAN k t)).natAbs), refused)]
  | 0x03 => [(!tenantOk t (get TK.OWNER k t), absent)]
  | _ => []

/-- The checks of a CANOPY word (R465, R719). -/
def ruleChecks (r o v : Nat) (t : State) : List (Bool × Reject) :=
  let port := get CY.PORT r t
  match o with
  | 0x0C => [(!(portOk t port || (decide (48 ≤ port) && cardOk t (port - 48)) || port == 63), refused),
      (get CY.GRAMMAR r t == 6 || get CY.TYPE_LEN r t == 7 || decide (259 < get CY.PAT_WORD r t), refused)]
  | 0x0D => [(get CY.TALKER r t != 0xFFF && !talkerOk t (get CY.TALKER r t), refused),
      (!talkerOk t (get CY.REWRITE_TALKER r t), refused)]
  | o => [(decide (o < 4) && absentBit v 32 (fun i => tenantOk t (32 * o + i)), absent)]

/-- The checks of a TENANT word (R490, R491 to R493, R588, R609). -/
def tenantChecks (x o : Nat) (b t : State) : List (Bool × Reject) :=
  let c := get TN.CONSUMER x t
  match o with
  | 0x00 => [((c == 1 || c == 2) && !uplinkOk t (c - 1), absent), (!portOk t (get TN.LISTEN_PORT x t), absent),
      (x == 0 && (c != 0 || !flag TN.EN x t), refused), (c == 2 && flag RG.UL_MODE 0 t, refused),
      (flag TN.EN x b && changes [TN.CONSUMER, TN.LISTEN_PORT] x b t, refused),
      (rises TN.EN x b t && tenantStartRefused x t, refused)]
  | 0x01 => [(get TN.CONTROL_DL_MS x t == 0, refused)]
  | 0x16 => [(!within TN.BATCH_US x 100 100000 t, refused)]
  | _ => []

/-- The checks of a GROUP word (R404, R405). -/
def groupChecks (g o : Nat) (b t : State) : List (Bool × Reject) :=
  if o = 1 ∨ o = 2 then
    [(!within GP.PERIOD_MS g 1 3600000 t || decide (get GP.PERIOD_MS g t ≤ get GP.PHASE_MS g t), refused),
     (flag GP.EN g b && changes [GP.PERIOD_MS, GP.PHASE_MS] g b t, refused)]
  else []

/-- A poll entry as it stands passes R410. DEDUCED (assumption 140). -/
def pollFit (i : Nat) (t : State) : Bool :=
  let k := pollTalker i t
  let n := get PL.REQ_LEN i t
  decide (1 ≤ n) && decide (n ≤ 40) && talkerValid k t &&
  templateOk (get PL.KIND i t) (flag PL.NO_REPLY i t) (get PL.D_COUNT i t) (get TK.ADDR_KEY k t) (pollTemplate i t) &&
  kindFits (get PL.KIND i t) (grammar (pollPort i t) t) && !flag PT.LST_EN (pollPort i t) t

/-- The checks of a POLL word (R410). DEDUCED (assumption 140). -/
def pollChecks (i o : Nat) (t : State) : List (Bool × Reject) :=
  match o with
  | 0x00 => [(decide (3 < get PL.KIND i t), refused), (flag PL.EN i t && !pollFit i t, refused)]
  | 0x01 => [(get PL.RESP_TO_MS i t == 0, refused), (flag PL.EN i t && !pollFit i t, refused)]
  | o => [(decide (o < 0x0C) && flag PL.EN i t && !pollFit i t, refused)]

/-- The checks of a QUEUE word (R538 to R540). -/
def queueChecks (q o : Nat) (t : State) : List (Bool × Reject) :=
  match o with
  | 0x01 => [((decide (q < 96) || q == 224) && decide (get QU.GUAR q t < 16), refused)] ++ creditChecks t
  | 0x02 => creditChecks t
  | 0x04 => [(get QU.WAIT_US q t == 0, refused)]
  | _ => []

/-- The checks of a GUARD_LINE word (R234, R259). -/
def lineChecks (p o : Nat) (b t : State) : List (Bool × Reject) :=
  match o with
  | 0x00 => [(flag GL.TERM_EN p t && flag GL.MODE p t, refused), (flag GL.EN p b && changes [GL.MODE] p b t, refused),
      (flag GL.PWR_EN p b && changes [GL.PWR_V] p b t, refused)]
  | 0x01 => [(!within GL.ILIM p 3 25 t, refused), (flag GL.PWR_EN p b && changes [GL.ILIM] p b t, refused)]
  | 0x02 => [(!within GL.LEAK_THRESH_KOHM p 20 20000 t || decide (get GL.LEAK_PERIOD_S p t < 60), refused)]
  | _ => []

/-- The checks of a CARD word (R373, R374). DEDUCED (assumption 33). -/
def cardChecks (n o v : Nat) (t : State) : List (Bool × Reject) :=
  match o with
  | 0x00 => [(get CD.DET_DEB_MS n t == 0 || !within CD.PWR_SETTLE_US n 100 10000 t, refused)]
  | 0x01 => [(get CD.CX_DEADLINE_MS n t == 0, refused)]
  | 0x04 =>
    let r := exchangeRefused n (get CD.DIR n t) ((cmdBuf n t).getD 4 0#8).toNat t
    [(get CD.DIR n t == 3, refused), (asks CD.GO v && r.isSome, .status (r.getD 0))]
  | _ => []

/-- The checks of a word of any space. -/
def wordChecks (space a v : Nat) (b t : State) : List (Bool × Reject) :=
  match space with
  | 0 => directChecks a v b t
  | 1 => portChecks (a / 32) (a % 32) b t
  | 2 => talkerChecks (a / 8) (a % 8) b t
  | 3 => ruleChecks (a / 16) (a % 16) v t
  | 4 => tenantChecks (a / 32) (a % 32) b t
  | 5 => groupChecks (a / 16) (a % 16) b t
  | 6 => pollChecks (a / 16) (a % 16) t
  | 7 => queueChecks (a / 8) (a % 8) t
  | 8 => lineChecks (a / 16) (a % 16) b t
  | 13 => cardChecks (a / 128) (a % 128) v t
  | _ => []

/-! ### The effects -/

/-- SET and STEP act on the values as the whole frame leaves them, before LOCK_EN starts or stops the loop (R94 to R97,
R105, R107). -/
def rtCtrlActs (v : Nat) (b t : State) : List (State → State) :=
  let locked := flag RG.LOCK_EN 0 b
  (if asks RG.RT_SET v then [rtSet locked] else []) ++ (if asks RG.RT_STEP_GO v then [rtStep] else []) ++
  (if rises RG.LOCK_EN 0 b t then [lockStart true] else if falls RG.LOCK_EN 0 b t then [lockStop] else [])

/-- The scheduler takes the house command (R688, R689). DEDUCED (assumption 141). -/
def houseAccept (s : State) : State :=
  let n := get RG.HCMD_N 0 s
  let s := acceptCommand 0 (get RG.HCMD_TALKER 0 s) (get RG.HCMD_KIND 0 s) (flag RG.HCMD_NO_REPLY 0 s) (s.mp.body.take n) s
  let s := put RG.ACC_SEC 0 s.ring.sec (put RG.ACC_NS 0 (stampNow s).word2 s)
  bump RG.ACC_CNT 0 (put RG.HCMD_RESULT 0 1 { s with mp := { s.mp with body := [] } })

/-- A write raises or clears the enable of card port `n` (R353, R354). -/
def cardSwitch (n : Nat) (f : Fld) (b t s : State) : State :=
  if rises f 0 b t then cardEnabled n s else if falls f 0 b t then cardDisabled n s else s

/-- The effects of a direct register: the state at once, and what starts when the frame stands.
DEDUCED (assumption 34). -/
def directActs (a v : Nat) (b t : State) : State × List (State → State) :=
  match a with
  | 0x05 => ({ t with sys := { t.sys with swReset := some t.now } }, [])
  | 0x08 =>
    let t := if asks RG.HCMD_GO v then houseAccept t else t
    (if asks RG.BODY_CLR v then { t with mp := { t.mp with body := [] } } else t, [])
  | 0x09 => ({ t with mp := { t.mp with body := t.mp.body ++ beBytes 4 v } }, [])
  | 0x11 => (t, rtCtrlActs v b t)
  | 0x18 => (reseg t, [])
  | 0x1C => (if rises RG.TM_OUT_EN 0 b t then tmOutClaim t
      else if falls RG.TM_OUT_EN 0 b t then tmOutDrop t else t, [])
  | 0x20 => (budgetWritten .die t, [])
  | 0x21 => (budgetWritten .field t, [])
  | 0x71 => (if asks RG.MDIO_GO v then mdioStart (putSw RG.MDIO_GO 0 1 t) else t, [])
  | 0x90 =>
    let s := cardSwitch 1 RG.CP1_EN b t (cardSwitch 0 RG.CP0_EN b t t)
    (if falls RG.KEYLOAD_EN 0 b t then enableDeferred s else s, [])
  | 0xA0 => (if rises RG.COP_EN 0 b t then schedulerStart t else if falls RG.COP_EN 0 b t then schedulerStop t else t, [])
  | 0xC3 => (each ((List.range 6).filter fun k => bitOf (get RG.GUARD_PRESENT 0 t) k)
      (fun k => gMap k fun g => { g with owedWindow := true }) t, [])
  | a =>
    if 0x40 ≤ a ∧ a < 0x50 ∧ a % 4 = 0 then (put RG.WIN_ADDR ((a - 0x40) / 4) 0 t, [])
    else if a = 0x78 ∨ a = 0x84 then
      let u := (a - 0x78) / 12
      (if falls UL.EN u b t then withdrawLeave (.burst u) t else t, [])
    else (t, [])

/-- The effects of a PORT word (R137, R170, R192, R711); an enabled receiver hunts from the next LINE cycle. -/
def portActs (p o v : Nat) (b t : State) : State × List (State → State) :=
  let fmt := o = 0 ∧ changes [PT.POL, PT.MSB_FIRST, PT.DATA_BITS, PT.PARITY, PT.STOP] p b t ∨ o = 1 ∧ changes [PT.BAUD_INC] p b t
  let s := if o = 0 ∧ falls PT.EN p b t then judge p (txDisable p (rxDisable p t))
    else if o = 0 ∧ rises PT.EN p b t then pMap p (fun c => { c with huntFrom := t.now / 5 + 1 }) t else t
  (if fmt then formatWritten p s else s, if o = 0 ∧ asks PT.TX_BREAK v then [txBreakWritten p] else [])

/-- Counter number `i` of a guard line owes the guard what a word writes (R710, R715). -/
def lineCounters (p o v : Nat) (s : State) : State :=
  let two := decide (2 ≤ ctrFields (wordFields 8 (16 * p + o)))
  each ((List.range 7).filter fun i => (glCounter i).word == o) (fun i s =>
    let f := glCounter i
    let x := bits v f.lo f.width
    if keepsCtr two f x then s else forwardCounter p i x s) s

/-- The effects of a GUARD_LINE word (4.3 to 4.6): every write of a configuration word is forwarded (R207), but a line that is
not reconciled holds the words in its shadow only (R834). Its power and its trim are asked for all the same (R223, R236). -/
def lineActs (p o v : Nat) (b t : State) : State :=
  let rec_ := (lcGet p t).reconciled
  match o with
    | 0x00 =>
      let s := if rec_ then forwardConfig p 0 t else t
      let s := if rec_ && rises GL.EN p b t then guardLineEnable p s else s
      let s := if rises GL.PWR_EN p b t then pwrEnSet p s else if !(flag GL.PWR_EN p t) then pwrEnClear p s else s
      let s := if falls GL.LEAK_EN p b t then leakStop p s else s
      if asks GL.TRIM_REQ v then trimReq p s else s
    | 0x01 => if rec_ then forwardConfig p 1 t else t
    | 0x02 => if rec_ then forwardConfig p 2 t else t
    | 0x04 => if !rec_ then t else if v % 2048 = 0 then t else forwardClear p (v % 2048) t
    | o => if rec_ && decide (8 ≤ o) then lineCounters p o v t else t

/-- RESET or DEACT of a card port reads 1 until the deactivation it causes has ended. -/
def cardCommand (f : Fld) (n : Nat) (act : Nat → State → State) (s : State) : State :=
  let s := act n (putSw f n 1 s)
  if cardState n s = 7 then s else put f n 0 s

/-- The effects of a CARD word (R350, R353, R354, R375). -/
def cardActs (n o v : Nat) (b t : State) : List (State → State) :=
  match o with
  | 0x00 => (if changes [CD.DET_POL] n b t then [detPolWritten n] else []) ++ (if asks CD.RESET v then [cardCommand CD.RESET n cardReset] else []) ++
      (if asks CD.DEACT v then [cardCommand CD.DEACT n cardDeact] else [])
  | 0x04 => if asks CD.GO v then [fun s => exchangeStart n (putSw CD.GO n 1 s)] else []
  | _ => []

/-- The effects of a word of any space. -/
def wordActs (space a v : Nat) (b t : State) : State × List (State → State) :=
  match space with
  | 0 => directActs a v b t
  | 1 => portActs (a / 32) (a % 32) v b t
  | 3 => ({ t with canopy := { t.canopy with decim := erase (a / 16) t.canopy.decim, freeFrom := max t.canopy.freeFrom (t.now + 1) } }, [])
  | 4 => (if a % 32 = 0 ∧ falls TN.EN (a / 32) b t then tenantStop (a / 32) t else t, [])
  | 5 => (if a % 16 = 0 ∧ rises GP.EN (a / 16) b t then groupStart (a / 16) t
      else if a % 16 = 0 ∧ falls GP.EN (a / 16) b t then groupStop (a / 16) t else t, [])
  | 7 => (t, if a % 8 = 0 ∧ asks QU.CLEAR v then [requestClear (a / 8)] else [])
  | 8 => (lineActs (a / 16) (a % 16) v b t, [])
  | 13 => (t, cardActs (a / 128) (a % 128) v b t)
  | _ => (t, [])

/-! ### One word, one frame -/

/-- A word that its space refuses at its address (Table 11-7, R194, R502, R671, R696, R909, R914). `inBurst` is true
for a direct word that its burst does not start at. -/
def addrRefused (space a : Nat) (inBurst : Bool) (s : State) : Bool :=
  match space with
  | 0 => directReserved a || (inBurst && (a == 0x09 || (decide (0x40 ≤ a) && decide (a < 0x50) && a % 4 == 2)))
  | 9 => place 9 a s == .reserved
  | 11 => !(decide (4 ≤ a) && decide (a < 16))
  | 12 => a != 5
  | 10 => true
  | _ => false

/-- One word of a frame is judged and acted on (R664, R985). -/
def writeReg (space a v : Nat) (s : State) : WRes :=
  let (space, a) := ownAddress space a
  let t := writeFields space a v s
  match firstFail (wordChecks space a v s t) with
  | some r => .no r
  | none => let (x, l) := wordActs space a v s t; .ok x l

/-- The words of a frame in burst order: space, address, value, and whether the burst runs onto the word. -/
abbrev FrameWord := Nat × Nat × Nat × Bool

/-- The words in order, each judged against what the earlier ones leave; then what the frame starts (R664, R667).
DEDUCED (assumption 18). DESIGN CHOICE (assumption 20). -/
def writeWords : List FrameWord → State → List (State → State) → (Reject × Nat × Nat) ⊕ State
  | [], s, later => .inr (later.foldl (fun a f => f a) s)
  | (space, a, v, inBurst) :: r, s, later =>
    if addrRefused space a inBurst s then .inl (refused, space, a)
    else match writeReg space a v s with
      | .no e => .inl (e, space, a)
      | .ok t l => writeWords r t (later ++ l)

/-- A burst that starts at the data register of a window (R662, R670). -/
def windowOf (arg : Nat) : Option Nat := if 0x40 ≤ arg ∧ arg < 0x50 ∧ arg % 4 = 2 then some ((arg - 0x40) / 4) else none

/-- The addresses that a burst of `n` words covers (R662, R670): `none` for a window that selects no space. -/
def burstAddrs (arg n : Nat) (s : State) : Option (List (Nat × Nat)) :=
  match windowOf arg with
  | some w =>
    if get RG.WIN_SPACE w s = 0 then none
    else some ((List.range n).map fun i => (get RG.WIN_SPACE w s, get RG.WIN_ADDR w s + i * get RG.WIN_INC w s))
  | none => some ((List.range n).map fun i => (0, if arg = 9 then 9 else arg + i))

/-- After an accepted window burst with INC at 1, ADDR stands behind it (R672). -/
def windowAdvance (arg n : Nat) (s : State) : State :=
  match windowOf arg with
  | some w => if flag RG.WIN_INC w s then put RG.WIN_ADDR w (get RG.WIN_ADDR w s + n) s else s
  | none => s

/-- The four words of a key write at 8t of KEYS, with INC at 1 (R502): the tenant. -/
def keyBurst (arg : Nat) (l : List (Nat × Nat)) : Option Nat :=
  match l with
  | [(10, a), (_, b), _, _] => if a % 8 = 0 ∧ b = a + 1 ∧ (windowOf arg).isSome then some (a / 8) else none
  | _ => none

/-! ### The journal (R888) -/

/-- The fields of a word that the journal keeps: RW fields of clash code N. -/
def keptFields (space a : Nat) : List (Fld × Nat) := (wordFields space a).filter fun x => x.1.acc == .rw && x.1.clash == .n

/-- The words that the journal never stores. -/
def notKept (space a : Nat) : Bool :=
  space == 10 || (space == 0 && (a == 5 || (decide (8 ≤ a) && decide (a ≤ 12)) || (decide (0x40 ≤ a) && decide (a < 0x50))))

/-- A word of an accepted frame as the journal stores it. DEDUCED (assumption 85). -/
def keptWord (space a v : Nat) : Option (Nat × Word) :=
  let (space, a) := ownAddress space a
  let l := keptFields space a
  if notKept space a || l.isEmpty then none
  else some (cfgKey space a, word (l.foldl (fun w (f, _) => w + bits v f.lo f.width * 2 ^ f.lo) 0))

/-- An accepted frame is owed to the journal. -/
def owe (ws : List FrameWord) (s : State) : State :=
  let l := ws.filterMap fun (sp, a, v, _) => keptWord sp a v
  if l.isEmpty then s else { s with cfg := { s.cfg with owed := s.cfg.owed ++ [l] } }

/-- A word's value differs from what its kept fields hold at reset. -/
def differsFromReset (s : State) (k : Nat) (w : Word) : Bool :=
  (keptFields (k / 2 ^ 20) (k % 2 ^ 20)).any fun (f, i) => bits w.toNat f.lo f.width != rstOf f i s

/-! ### Frames -/

/-- What a refusal of a whole frame leaves behind (R58, R690, R922): the entry of a CONFLICT, the answer to a house
command. -/
def rejectFrame (r : Reject) (space a : Nat) (s : State) : Nat × State :=
  match r with
  | .status n => (n, s)
  | .conflict code => (6, irq RG.IRQ_CONFLICT (logEvent 2 code (if space = 0 then a else 0xFFFF) [space, a] s))
  | .hcmd reason => (1, bump RG.CMD_REFUSED_CNT 0 (put RG.HCMD_RESULT 0 2 (put RG.HCMD_REASON 0 reason s)))

/-- A burst of words (R663 to R667): its status and what it leaves. -/
def writeBurst (ws : List FrameWord) (s : State) : Nat × State :=
  if ws.any fun (sp, a, _) => place sp a s == .absent then (2, s)
  else match writeWords ws s [] with
    | .inl (r, sp, a) => rejectFrame r sp a s
    | .inr t => (0, owe ws t)

/-- A key write (R502, R503): the four words of a present tenant's key. -/
def keyFrame (t : Nat) (key : List Byte) (s : State) : Nat × State :=
  if tenantOk s t then (0, keyWrite false t key s) else (2, s)

/-- A WRITE of `data` at `arg` (R662 to R667, R670 to R673): its status and what it leaves. -/
def writeFrame (arg : Nat) (data : List Word) (s : State) : Nat × State :=
  match burstAddrs arg data.length s with
  | none => (1, s)
  | some l =>
    let (st, t) := match keyBurst arg l with
      | some t => keyFrame t (data.flatMap wordBytes) s
      | none => writeBurst (((l.zip data).zipIdx).map fun (((sp, a), v), i) => (sp, a, v.toNat, sp == 0 && i != 0 && arg != 9)) s
    (st, if st = 0 then windowAdvance arg data.length t else t)

/-- A write of one word of a space, as a frame of its own: a window's data register reaches the window's word. -/
def writeOne (space a : Nat) (v : Word) (s : State) : Nat × State :=
  if space = 0 then writeFrame a [v] s else writeBurst [(space, a, v.toNat, false)] s

end Sys2Proof.Machine
end

