-- ==== Sys2Proof/Machine/Governor.lean ====
section
/-! DEFINITION. The governor's cycle over both pools with what a grant starts and what a timeout brings to its requester
(13.3, R227, R625, R767 to R772). -/

namespace Sys2Proof.Machine

/-- What a timeout brings to the requester (R227, R625, R771, R772); a slice counts in SKIPPED (R767). -/
def timeoutOutcome (k : LeaveKind) (s : State) : State :=
  match k with
  | .brk p => breakTimeout p s
  | .burst u => burstTimeout u s
  | .switchOn p => switchTimeout p s
  | .slice p => lnCount p 4 s
  | .flashProgram | .flashErase => flashTimeout s
  | .gfActivate k => gfTimeout k s

/-- Requests are removed as timed out, each with its outcome. -/
def timeoutAll (l : List LeaveReq) (s : State) : State := l.foldl (fun a r => timeoutOutcome r.kind (timeoutReq r a)) s

/-- What a grant starts by itself: a burst's builder is no longer denied (R625), a flash operation begins. -/
def grantOutcome (k : LeaveKind) (s : State) : State :=
  match k with
  | .burst u => burstGranted u s
  | .flashProgram | .flashErase => flashStart s
  | _ => s

/-- One governor cycle (R765 to R768, R770): oversized requests go, then both pools grant. -/
def governorCycle (s : State) : State :=
  let s := timeoutAll (oversize .die s ++ oversize .field s) s
  let held (t : State) : List LeaveKind := (t.leave.dieGr ++ t.leave.fieldGr).map Grant.kind
  let t := grantCycle .field (grantCycle .die s)
  ((held t).filter fun k => !(held s).contains k).foldl (fun a k => grantOutcome k a) t

/-- The CORE cycle in which the next wait limit expires. -/
def nextLimit (s : State) : Option Nat :=
  least (((s.leave.die ++ s.leave.field).filter LeaveReq.limited).map LeaveReq.limit)

/-- LEAVE_TIMEOUT (R769, R795): the clock runs on to the next wait limit; the governor grants first, then removes the
requests whose limit has passed. -/
def leaveTimeout (s : State) : State :=
  match nextLimit s with
  | none => s
  | some t =>
    let s := governorCycle (runTo t s)
    timeoutAll (expired .die s ++ expired .field s) s

/-- BUDGET_CHANGE_EFFECT (R734): the granted units have fallen to a pending budget. -/
def budgetChange (s : State) : State := checkBudget .field (checkBudget .die s)

end Sys2Proof.Machine
end

