-- ==== Sys2Proof/Machine/Boot.lean ====
section
/-! DEFINITION. Resets and start-up (chapter 14): what each reset keeps, the boot sequence, the choice of the slot, the
restore in two passes, SERVICE_READY, and ROM recovery. -/

namespace Sys2Proof.Machine

/-! ### Resets (14.2) -/

/-- The reset causes of Table 14-1. -/
inductive Cause
  | powerOn | pllLoss | resetN | watchdog | software
  deriving DecidableEq, Repr

/-- RESET_CAUSE (Table 14-1). -/
def Cause.code : Cause → Nat
  | .powerOn => 0 | .resetN => 1 | .watchdog => 2 | .software => 3 | .pllLoss => 4

/-- Place in the order of Table 14-1, highest first. -/
def Cause.rank : Cause → Nat
  | .powerOn => 1 | .pllLoss => 2 | .resetN => 3 | .watchdog => 4 | .software => 5

/-- The class of the reset. -/
def Cause.cold : Cause → Bool
  | .watchdog | .software => false
  | _ => true

/-- Rank of a RESET_CAUSE code. -/
def rankOf : Nat → Nat
  | 0 => 1 | 4 => 2 | 1 => 3 | 2 => 4 | _ => 5

/-- Fields that a warm reset keeps (Table 14-2). DEDUCED (assumption 99). -/
def keptWarm : List Fld :=
  [RG.RT_RATE, RG.QUALITY, RG.LOCK_TIME, RL.NEXT_SEQ, EL.NEXT_SEQ, EL.FLASH_NEXT, EL.BOOT_SEQ, EL.FLASH_OLDEST,
   TN.KEY_SET, TN.KEY_GEN, TN.RX_CTR, TN.TX_CTR, TN.PEER0_IP, TN.PEER0_PORT, TN.PEER0_MAC_HI, TN.PEER0_MAC_LO,
   TN.PEER1_IP, TN.PEER1_PORT, TN.PEER1_MAC_HI, TN.PEER1_MAC_LO, TN.PUSH, TK.LEAN, TK.LEAN_VALID]

/-- A key of the register file belongs to some entry of a field. -/
def Fld.holdsKey (f : Fld) (k : Nat) : Bool :=
  let w := k / 32 % 2 ^ 20
  k / 2 ^ 25 == f.space && k % 32 == f.lo && decide (f.word ≤ w) &&
  (if f.stride = 0 then w == f.word else (w - f.word) % f.stride == 0)

/-- A reset leaves the guards as they are (R806): what the concentrator kept about one is gone, and an activation that
runs in it ends by itself with the image it received. DEDUCED (assumption 100). -/
def guardAfterReset (g : Guard) : Guard :=
  let g := match g.act with
    | some (v, _) => { g with run := 2, gfVer := v, act := none, blocks := [] }
    | none => g
  { g with fetch := false, fails := 0, faulted := false, answered := false, fresh := true, fw := none, heldOut := false,
           restoreAt := none, owedWindow := false }

/-- A flash operation in progress completes inside the flash (R814, R842), but when the flash loses its supply: then the
bytes of the page, or of the sector, are unsteady (R898, R899). DEDUCED (assumption 80). -/
def settleFlash (powerLoss : Bool) (s : State) : State :=
  let cut (a n : Nat) (erased : Bool) (s : State) : State :=
    if powerLoss then { s with flash := { s.flash with unsteady := ⟨a, a + n, erased⟩ :: s.flash.unsteady } } else s
  let s := if !s.flash.busy then s else match flashOp s with
    | none => s
    | some (.program a bs) => cut (a / 256 * 256) 256 false (flashWrite a bs s)
    | some (.erase a) => cut (sectorOf a) 4096 true (flashBlank a s)
  { s with flash := { s.flash with jobs := [], busy := false } }

/-- Every unit returns to its reset state, but for what Table 14-2 keeps (R805). DEDUCED (assumption 109). -/
def resetUnits (cold : Bool) (s : State) : State :=
  let base : State := { State.reset with
    variant := s.variant, now := s.now, cyc := s.cyc, free := s.free, pending := s.pending, flash := s.flash,
    guards := s.guards.map fun (k, g) => (k, guardAfterReset g),
    lines := s.lines.map fun (p, x) => (p, if x.pwr = 1 then { x with pwr := 0 } else x),
    store := { State.reset.store with free := Config.blocks s.variant } }
  let base := { base with sys := { base.sys with svcEn := s.sys.svcEn, warm := !cold } }
  if cold then base
  else
    let q := get RG.QUALITY 0 s
    let base := { base with
      regs := s.regs.filter fun e => keptWarm.any fun f => f.holdsKey e.1,
      ring := s.ring,
      clk := { base.clk with locked := s.clk.locked, f := s.clk.f, tmLevel := s.clk.tmLevel, segs := s.clk.segs },
      tenants := s.tenants.map fun (t, x) => (t, { x with batch := none, rxTag := none }),
      logs := { base.logs with ev := s.logs.ev, ref := s.logs.ref, flashWait := s.logs.flashWait },
      sys := { base.sys with pendingFlag := s.sys.pendingFlag, bootFails := s.sys.bootFails,
                             runningSlot := s.sys.runningSlot, oweRtState := s.sys.oweRtState || q == 2 } }
    if q = 2 then reseg (put RG.QUALITY 0 3 base) else base

/-- A reset begins (R803 to R805, R109): while one is in progress the highest cause stands, and a cold cause makes it
cold. DEDUCED (assumption 98). -/
def beginReset (c : Cause) (s : State) : State :=
  let inReset := s.sys.phase == .reset
  let old := get RG.RESET_CAUSE 0 s
  let wasCold := inReset && !s.sys.warm
  let code := if inReset ∧ rankOf old ≤ c.rank then old else c.code
  let s := if wasCold && !(c == .powerOn) then s else resetUnits (c.cold || wasCold) (settleFlash (c == .powerOn) s)
  let s := { s with sys := { s.sys with phase := .reset } }
  put RG.RESET_CAUSE 0 code (put RG.WARM 0 (b2n s.sys.warm) s)

/-- RESET_N low for `lowNs` (R801): 1 µs or longer starts a reset, below 100 ns nothing happens, and between the two
the manual leaves the effect open. -/
def resetN (lowNs : Nat) (s : State) : State :=
  if 1000 ≤ lowNs then beginReset .resetN s
  else if lowNs < 100 then s
  else
    let (b, s) := drawBit s
    if b then beginReset .resetN s else s

/-- The internal clocks run and the machine is out of reset. -/
def outOfReset (s : State) : Bool :=
  match s.sys.phase with
  | .reset | .released => false
  | _ => true

/-- PLL_LOSS (R78, R803): the PLL loses the lock that it has held since a reset release, be it through a warm reset. -/
def pllLoss (s : State) : State := if s.clk.locked then beginReset .pllLoss s else s

/-- WATCHDOG_EXPIRY (R804): the boot loader arms it at reset release, from which the pending flag is 1 (R819). -/
def watchdogExpiry (s : State) : State :=
  if s.sys.phase = .locked then beginReset .watchdog { s with sys := { s.sys with pendingFlag := true } }
  else if outOfReset s then beginReset .watchdog s
  else s

/-- SOFTWARE_RESET_START (R726): `wait` CORE cycles after now MP_CS_N is high, but at the latest 100 µs after the effect
cycle of the request; the reset starts with a LINE cycle, and for a Stump RESTART not before the closing flag of its reply
(R863), where the request takes effect. -/
def softwareResetStart (wait : Nat) (s : State) : State :=
  match s.sys.swReset with
  | none => s
  | some t => beginReset .software (runTo (lineEdge (max t (min (s.now + wait) (t + cyclesUs 100)))) s)

/-! ### From release to the firmware (14.3 to 14.5) -/

/-- ROM recovery is entered (R837, Table 14-6). -/
def enterRecovery (cause : Nat) (s : State) : State :=
  put RG.RECOVERY 0 1 (put RG.RECOVERY_CAUSE 0 cause { s with sys := { s.sys with phase := .recovery } })

/-- The clocks run after a release (R820, R821): recovery with RECOVERY_N low; otherwise a failed boot is counted, and the
boot loader waits for the flash. -/
def loaderStarts (s : State) : State :=
  if !s.sys.recoveryN then enterRecovery 1 (put RG.BOOT_FAILS 0 s.sys.bootFails s)
  else
    let bf := s.sys.bootFails + b2n (s.sys.warm && s.sys.pendingFlag)
    put RG.BOOT_FAILS 0 bf { s with sys := { s.sys with phase := .locked, bootFails := bf } }

/-- RESET_RELEASE (R802, R810): RECOVERY_N is sampled. After a warm reset the PLL has stayed locked (R77). -/
def resetRelease (recoveryN : Bool) (s : State) : State :=
  if s.sys.phase ≠ .reset then s
  else
    let s := { s with sys := { s.sys with phase := .released, releaseAt := s.now, recoveryN := recoveryN } }
    let s := put RG.RECOVERY_N 0 (b2n recoveryN) s
    if s.clk.locked then loaderStarts s else s

/-- PLL_LOCK (R76, R77, R90): the clocks start, LOCK_TIME is taken, and Ring time counts from 0. -/
def pllLock (s : State) : State :=
  if s.sys.phase ≠ .released then s
  else
    let s := put RG.LOCK_TIME 0 (min 255 ((s.now - s.sys.releaseAt) / 250)) { s with clk := { s.clk with locked := true } }
    loaderStarts (reseg s)

/-- The slots in the order in which the boot loader tries them (R820). -/
def slotOrder (s : State) : List Nat :=
  let p := (primarySlot s).toList
  let a := (alternateSlot s).toList
  if s.sys.bootFails = 1 then a ++ p else p ++ a

/-- The slot that a watchdog reset has caught running and unconfirmed (R820). -/
def slotToReject (s : State) : Option Nat :=
  if get RG.RESET_CAUSE 0 s = 2 ∧ !s.sys.pendingFlag then s.sys.runningSlot.filter fun i => !confirmedMark (slotBase i) s else none

/-- Its rejection mark is programmed. -/
def rejectSlot (s : State) : State :=
  match slotToReject s with
  | some i => flashWrite (slotBase i + 0x200) zeroMark s
  | none => s

/-- FLASH_READY (R814, R819, R820, R822): a slot that a watchdog reset has caught unconfirmed is rejected, and the slots to
try are chosen. DEDUCED (assumptions 81, 101). -/
def flashReady (s : State) : State :=
  if s.sys.phase ≠ .locked then s
  else
    let s := { s with sys := { s.sys with primary := primarySlot s }, flash := { s.flash with cmds := [.readStatus] } }
    let s := rejectSlot s
    if s.sys.bootFails = 3 then enterRecovery 3 s
    else if (slotOrder s).isEmpty then enterRecovery 2 s
    else { s with sys := { s.sys with phase := .loading, pendingFlag := true } }

/-- The slot that boots: the first in order whose CF image is sound (R820, R854). -/
def bootSlot (s : State) : Option Nat := (slotOrder s).find? fun i => soundImage s.variant 1 1830912 (cfImage i s)

/-- The PM image of a slot may run under the running CF. -/
def pmRuns (slot : Nat) (s : State) : Bool :=
  usable (slotBase slot) s && soundImage s.variant 2 65536 (pmImage slot s) &&
  genIn (hdrPmVer (slotBase slot) s % 256) (get RG.PM_GEN_MIN 0 s) (get RG.PM_GEN_MAX 0 s)

/-- One PM group is loaded and tests itself (Table 14-4 step 6, R817): `fails` and `failsAgain` are the outcomes of the
self-test and of the retest with the other slot's PM. -/
def loadPm (slot : Nat) (fails failsAgain : Bool) (g : Nat) (s : State) : State :=
  let own := hdrPmVer (slotBase slot) s
  let other := hdrPmVer (slotBase (1 - slot)) s
  if !fails then put RG.PM_VER g own s
  else
    let s := irq RG.IRQ_FIRMWARE s
    let retest := pmRuns (1 - slot) s
    let s := if retest then maskBit RG.PM_REVERTED g true (put RG.PM_VER g other s) else put RG.PM_VER g own s
    if retest && !failsAgain then logEvent 0x0F 0 g [own, other] s
    else logEvent 0x0F 1 g [own, get RG.PM_VER g s] { s with sys := { s.sys with pmOut := s.sys.pmOut ++ [g] } }

/-- CF_START (Table 14-4 steps 4 to 7, R815, R817, R820, R893, R920): the firmware of the first sound slot runs, loads
the PM groups, reads the store and finds the ring; `failing` are the groups whose self-test fails, `again` those whose
retest fails too. DEDUCED (assumption 102). -/
def cfStart (failing again : List Nat) (s : State) : State :=
  if s.sys.phase ≠ .loading then s
  else match bootSlot s with
    | none => enterRecovery 2 s
    | some slot =>
      let s := put RG.REVERTED 0 (b2n (s.sys.primary != some slot)) s
      let s := takeCf slot { s with sys := { s.sys with phase := .guardWait, runningSlot := some slot } }
      let s := ringRecovery (journalWalk s)
      let s := each (presentGroups s) (fun g a =>
        loadPm slot (failing.contains g || !pmRuns slot a) (again.contains g) g a) s
      if s.sys.oweRtState then
        irq RG.IRQ_CLOCK (logEvent 4 0 3 [2] { s with sys := { s.sys with oweRtState := false } })
      else s

/-! ### Restore (14.7) -/

/-- The enable fields of a word (Table 14-5). -/
def enableFields (space a : Nat) : List Fld :=
  match space with
  | 0 => if a = 0x1C then [RG.TM_OUT_EN] else if a = 0x78 ∨ a = 0x84 then [UL.EN] else if a = 0x90 then [RG.CP0_EN, RG.CP1_EN]
      else if a = 0xB0 then [RG.CANOPY_EN] else if a = 0xA0 then [RG.COP_EN] else []
  | 1 => if a % 32 = 0 then [PT.EN] else if a % 32 = 0x18 then [PT.LST_EN] else []
  | 4 => if a % 32 = 0 ∧ a ≠ 0 then [TN.EN] else []
  | 5 => if a % 16 = 0 then [GP.EN] else []
  | 6 => if a % 16 = 0 then [PL.EN] else []
  | 8 => if a % 16 = 0 then [GL.EN, GL.PWR_EN, GL.LEAK_EN] else []
  | _ => []

/-- A word with the enable fields given as 0. -/
def without (l : List Fld) (v : Nat) : Nat := l.foldl (fun v f => if bitOf v f.lo then v - 2 ^ f.lo else v) v

/-- The indirect entry, direct register or uplink block of a word (R833). -/
def entryOf (space a : Nat) : Nat × Nat :=
  match space with
  | 0 => (0, if 0x78 ≤ a ∧ a < 0x90 then 0x78 + 12 * ((a - 0x78) / 12) else a)
  | 1 | 4 => (space, a / 32)
  | 2 | 7 => (space, a / 8)
  | 3 | 5 | 6 | 8 => (space, a / 16)
  | _ => (space, a / 128)

/-- The status code that a refusal would have on the MP. -/
def Reject.code : Reject → Nat
  | .status n => n
  | .conflict _ => 6
  | .hcmd _ => 1

/-- One restored write (R712, R831, R833): a refused one is logged and marks its entry. The restore of LOCK_EN does not
restart f (R105). DEDUCED (assumption 96). -/
def restoreWord (space a v : Nat) (x : List (Nat × Nat) × State) : List (Nat × Nat) × State :=
  let (bad, s) := x
  let no (code : Nat) : List (Nat × Nat) × State :=
    (entryOf space a :: bad, logEvent 0x12 code (if space = 4 then a / 32 else 0xFFFF) [space, a, v] s)
  if place space a s ≠ .present ∨ addrRefused space a false s then no (if place space a s = .absent then 2 else 1)
  else match writeReg space a v s with
    | .no r => no r.code
    | .ok t later =>
      let t := later.foldl (fun a f => f a) t
      (bad, { t with clk := { t.clk with f := s.clk.f } })

/-- The committed words of a space, with their addresses. -/
def stored (space : Nat) (s : State) : List (Nat × Nat) :=
  (s.cfg.committed.filter fun e => e.1 / 2 ^ 20 == space).map fun (k, w) => (k % 2 ^ 20, w.toNat)

/-- The configuration pass (R831). -/
def configPass (s : State) : List (Nat × Nat) × State :=
  let put1 (space : Nat) (l : List (Nat × Nat)) (x : List (Nat × Nat) × State) : List (Nat × Nat) × State :=
    l.foldl (fun x (a, v) => restoreWord space a (without (enableFields space a) v) x) x
  let direct := stored 0 s
  let x := put1 0 (direct.filter fun e => e.1 != 0x50) ([], s)
  let x := [1, 2, 3, 4, 5, 6, 7].foldl (fun x sp => put1 sp (stored sp s) x) x
  let x := put1 0 (direct.filter fun e => e.1 == 0x50) x
  put1 13 (stored 13 s) (put1 8 (stored 8 s) x)

/-- The enable fields of one word, in order, but for an entry that had a word refused in the configuration pass; an enable
that is refused here holds back no other one (R831, R833). A GUARD_LINE word is one write. -/
def enableWord (space a : Nat) (x : List (Nat × Nat) × State) : List (Nat × Nat) × State :=
  if x.1.contains (entryOf space a) then x
  else (x.1, (write x).2)
where
  write (x : List (Nat × Nat) × State) : List (Nat × Nat) × State :=
    let w := (lookup 0#32 (cfgKey space a) x.2.cfg.committed).toNat
    let on := (enableFields space a).filter fun f => bitOf w f.lo
    let value (s : State) : Nat := without (enableFields space a) (fieldsValue (keptFields space a) s)
    if space = 8 then
      if on.isEmpty then x else restoreWord space a (on.foldl (fun v f => v + 2 ^ f.lo) (value x.2)) x
    else on.foldl (fun x f =>
      restoreWord space a (fieldsValue (keptFields space a) x.2 + 2 ^ f.lo) x) x

/-- The words of a space that hold an enable field, as stored. -/
def enableWords (space : Nat) (s : State) : List (Nat × Nat) :=
  ((stored space s).filter fun e => !(enableFields space e.1).isEmpty).map fun e => (space, e.1)

/-- The enable fields of several words. -/
def enableAll (l : List (Nat × Nat)) (x : List (Nat × Nat) × State) : List (Nat × Nat) × State :=
  l.foldl (fun x (space, a) => enableWord space a x) x

/-- The tenants' enables (Table 14-5 row 5, R836): after a cold reset they wait for the site-card load, or follow at
once when KEYLOAD_EN is 0. -/
def enableTenants (x : List (Nat × Nat) × State) : List (Nat × Nat) × State :=
  let (bad, s) := x
  let l := enableWords 4 s
  if s.sys.warm then enableAll l x
  else
    let ts := (l.filter fun (_, a) => !bad.contains (4, a / 32) && bitOf (lookup 0#32 (cfgKey 4 a) s.cfg.committed).toNat 0).map
      fun (_, a) => a / 32
    let s := { s with sys := { s.sys with deferredTenants := ts } }
    (bad, if flag RG.KEYLOAD_EN 0 s then s else enableDeferred s)

/-- The gap registers of the enabled tenants' queues start with CLEARING at 65,535 (R807). -/
def startGaps (s : State) : State :=
  each ((List.range (Config.tenants s.variant)).filter fun t => t == 0 || flag TN.EN t s || s.sys.deferredTenants.contains t)
    (fun t => qMap (96 + t) fun c => { c with gap := { c.gap with clearing := 65535 } }) s

/-- Both passes, the guards' lines reconciled on the way (R831 to R836). -/
def restore (s : State) : State :=
  let x := configPass s
  let x := enableAll ([0x1C, 0x78, 0x84, 0x90].map fun a => (0, a)) x
  let x := enableAll (enableWords 1 s) x
  let x := enableTenants x
  let x := enableAll (enableWords 5 s ++ enableWords 6 s ++ enableWords 8 s) x
  let x := (x.1, each (presentGuards x.2) (fun k a => genCheck k (reconcileGuard k a)) x.2)
  startGaps (enableAll [(0, 0xB0), (0, 0xA0)] x).2

/-- SERVICE_READY (R819, R821, R823, R835, Table 16-5). -/
def serviceReady (s : State) : State :=
  let s := { s with sys := { s.sys with phase := .ready, pendingFlag := false, bootFails := 0 } }
  let s := logEvent 1 (get RG.RESET_CAUSE 0 s) (get RG.SLOT 0 s)
    [get RG.CF_VER 0 s, get RG.PM_REVERTED 0 s, get RG.BOOT_FAILS 0 s] s
  startRestores (confirmBegin (irq RG.IRQ_READY (put RG.SERVICE_READY 0 1 s)))

/-- GUARD_WAIT_END (R825, R830, Table 14-4 steps 8 to 10): the clock runs on to 300 ms after the release; PRESENT is
fixed, the store is restored, and `dt` CORE cycles later SERVICE_READY is reached. DEDUCED (assumption 103). -/
def guardWaitEnd (dt : Nat) (s : State) : State :=
  if s.sys.phase ≠ .guardWait then s
  else
    let s := runTo (s.sys.releaseAt + cyclesMs 300) s
    let s := each (List.range (Config.guards s.variant)) (fun k => maskBit RG.GUARD_PRESENT k (gGet k s).answered) s
    let s := match s.cfg.bank with
      | some b => put RG.CFG_BANK 0 b s
      | none => put RG.CFG_DEFAULTS 0 1 s
    serviceReady (elapse dt (put RG.CFG_RESTORED 0 1 (restore s)))

/-! ### ROM recovery (14.8) -/

/-- RECOVERY_POWER_OFF (R838): the loader identifies the guards that have not answered and switches every line of each
that does off. DESIGN CHOICE (assumption 104). -/
def recoveryPowerOff (s : State) : State :=
  if !(inRecovery s) then s
  else each ((List.range (Config.guards s.variant)).filter fun k => (gGet k s).run != 0 && (gGet k s).run != 1 &&
      (gGet k s).run != 5 && !(gGet k s).answered)
    (fun k s =>
      let s := gMap k (fun g => { g with answered := true }) s
      each (linesOf k) (fun p => lnMap p fun x => { x with pwr := 0, cause := 0, inrushEnd := none }) s) s

end Sys2Proof.Machine
end

