-- ==== Sys2Proof/Machine/MgmtPort.lean ====
section
/-! DEFINITION. The management port (chapter 11): frames with their CRC, READ and WRITE bursts, QREAD and QWRITE,
STATUS, and the register writes that have rows of their own. -/

namespace Sys2Proof.Machine

/-- Change the port's own data. -/
def mpMap (f : Mp → Mp) (s : State) : State := { s with mp := f s.mp }

/-- The MP serves every frame: SERVICE_READY has been reached, no ROM recovery runs, and no CF activation pause is on, in
which a frame is answered BUSY like one before SERVICE_READY (R658, R881, R905). DEDUCED (assumption 30). -/
def mpServes (s : State) : Bool := s.sys.phase == .ready

/-! ### Bursts of reads -/

/-- The words of a READ in burst order, each after its capture (R666). -/
def readWords : List (Nat × Nat) → State → List Nat × State
  | [], s => ([], s)
  | (space, a) :: r, s =>
    let s := captureWord space a s
    let (l, t) := readWords r s
    (readWord space a s :: l, t)

/-- A direct word that a READ refuses (Table 11-7, R23). -/
def readRefused (arg space a : Nat) : Bool :=
  writeOnly space a || (space == 0 && a != arg && decide (0x40 ≤ a) && decide (a < 0x50) && a % 4 == 2)

/-- A READ of `n` words at `arg` (R662 to R666, R670 to R672): status, words, and the state after the captures. -/
def readFrame (arg n : Nat) (s : State) : Nat × List Nat × State :=
  match burstAddrs arg n s with
  | none => (1, [], s)
  | some l =>
    if l.any fun (sp, a) => place sp a s == .absent then (2, [], s)
    else if l.any fun (sp, a) => readRefused arg sp a then (1, [], s)
    else
      let (ws, t) := readWords l s
      (0, ws, windowAdvance arg n t)

/-! ### Frames (11.2, 11.3) -/

/-- Reply bytes behind the status of a refused frame (R654, R678). -/
def refusedBytes (op cnt : Nat) : List Byte :=
  match op with
  | 0xA1 => List.replicate (4 * cnt) 0#8
  | 0xA3 => List.replicate (5 * cnt) 0#8
  | 0xA4 => [0#8]
  | _ => []

/-- The status of a frame is decided: the reply with its CRC, and the fields of Table 11-6. -/
def mpDecide (op arg status done : Nat) (bytes : List Byte) (s : State) : State :=
  let b := byte status :: bytes
  mpMap (fun m => { m with lastOp := op, lastStatus := status, lastArg := arg, lastDone := done, reply := b ++ [byte (crc8 b)] }) s

/-- The byte that MP_SDO carries at position `i` of a frame, bit 7 first (R647, R649, R654, R655): 0xFF under every request
byte, 0x5A for `waits` WAITING bytes and for as long as the status is open, then the reply with its CRC, and 0xFF behind it
until MP_CS_N rises. -/
def mpSdo (waits i : Nat) (s : State) : Byte :=
  if i < s.mp.request then 0xFF#8
  else if i < s.mp.request + waits then 0x5A#8
  else match s.mp.reply[i - s.mp.request - waits]? with
    | some b => b
    | none => if s.mp.reply.isEmpty then 0x5A#8 else 0xFF#8

/-- A frame is refused with a status. -/
def mpRefuse (op arg cnt status : Nat) (s : State) : State := mpDecide op arg status 0 (refusedBytes op cnt) s

/-- ARG bits that Table 11-1 requires to be zero. -/
def argClean (op arg : Nat) : Bool :=
  match op with
  | 0xA3 => bits arg 8 7 == 0
  | 0xA4 => bits arg 8 8 == 0
  | _ => true

/-- Frames that are answered before SERVICE_READY and in recovery (R658). -/
def servedAlways (op arg cnt : Nat) : Bool :=
  (op == 0xA1 && decide (1 ≤ cnt) && decide (arg + cnt ≤ 8)) || (op == 0xA2 && arg == 5 && cnt == 1)

/-- A frame other than STATUS, as received up to its CRC byte (R653, R657, R658, R684): a bad CRC has no effect; then
BUSY, an ill-formed frame, and the frame's own act. DESIGN CHOICE (assumption 21). DEDUCED (assumptions 23, 24). -/
def mpFrame (op arg cnt : Nat) (data : List Byte) (crc : Nat) (act : State → State) (s : State) : State :=
  let s := mpMap (fun m => { m with request := 5 + data.length }) s
  if !(outOfReset s) then s
  else if crc8 ([byte op] ++ beBytes 2 arg ++ [byte cnt] ++ data) ≠ crc then
    let b := [0x03#8]
    mpMap (fun m => { m with lastOp := op, lastStatus := 3, lastArg := arg, lastDone := 0, crcBad := min 65535 (m.crcBad + 1),
                             reply := b ++ [byte (crc8 b)] }) s
  else
    let s := mpMap (fun m => { m with frameSeq := (m.frameSeq + 1) % 65536 }) s
    if !(mpServes s) && !(servedAlways op arg cnt) then mpRefuse op arg cnt 4 s
    else if cnt = 0 ∨ 64 < cnt ∨ !(argClean op arg) then mpRefuse op arg cnt 1 s
    else act s

/-! ### READ and WRITE -/

/-- A READ is decided. `rt` is the Ring time at the address's last bit, which RT_NOW_SEC captures (R91). -/
def mpRead (rt : Nat × Nat) (arg cnt : Nat) (s : State) : State :=
  let (st, ws, t) := readFrame arg cnt s
  if st ≠ 0 then mpRefuse 0xA1 arg cnt st s
  else if (windowOf arg).isNone && decide (arg ≤ 0x13) && decide (0x13 < arg + cnt) then
    let t := put RG.RT_NOW_SEC 0 rt.1 (put RG.RT_NOW_NS 0 rt.2 t)
    let ws := ws.zipIdx.map fun (w, i) => if arg + i = 0x13 then rt.1 else if arg + i = 0x14 then rt.2 % 2 ^ 32 else w
    mpDecide 0xA1 arg 0 cnt (ws.flatMap (beBytes 4)) t
  else mpDecide 0xA1 arg 0 cnt (ws.flatMap (beBytes 4)) t

/-- READ (R662 to R666): `rest` CORE cycles lie between the address's last bit and the effect. -/
def readRow (arg cnt crc rest : Nat) (s : State) : State :=
  let rt := (s.ring.sec, (stampNow s).word2)
  mpFrame 0xA1 arg cnt [] crc (mpRead rt arg cnt) (elapse rest s)

/-- A WRITE is decided. -/
def mpWrite (arg : Nat) (data : List Word) (s : State) : State :=
  let (st, t) := writeFrame arg data s
  mpDecide 0xA2 arg st (if st = 0 then data.length else 0) [] t

/-- A WRITE whose words are rules waits while a classification is in progress (R485). DEDUCED (assumption 35). -/
def mpWriteOrWait (arg : Nat) (data : List Word) (s : State) : State :=
  match windowOf arg with
  | some w =>
    if get RG.WIN_SPACE w s = 3 ∧ s.canopy.run.isSome then
      let l := (burstAddrs arg data.length s).getD []
      mpMap (fun m => { m with reply := [] })
        { s with canopy := { s.canopy with waitWrite := some (some arg, (l.zip data).map fun ((sp, a), v) => (sp, a, v)) } }
    else mpWrite arg data s
  | none => mpWrite arg data s

/-- WRITE (R662 to R667). -/
def writeRow (arg : Nat) (data : List Word) (crc : Nat) (s : State) : State :=
  mpFrame 0xA2 arg data.length (data.flatMap wordBytes) crc (mpWriteOrWait arg data) s

/-- CANOPY_WRITE_EFFECT (R485): the CORE cycle after cycle 48, the waiting words take effect together. -/
def canopyWriteEffect (s : State) : State :=
  match s.canopy.waitWrite with
  | none => s
  | some (arg, ws) =>
    if s.canopy.run.isSome then s
    else
      let s := elapse 1 { s with canopy := { s.canopy with waitWrite := none, freeFrom := s.now + 2 } }
      match arg with
      | some a => mpWrite a (ws.map fun (_, _, v) => v) s
      | none =>
        let (st, t) := writeBurst (ws.map fun (sp, a, v) => (sp, a, v.toNat, false)) s
        mpMap (fun m => { m with answer := st }) t

/-! ### Register writes with rows of their own -/

/-- The answer of a register write: its status, BUSY before SERVICE_READY (R658). -/
def answered (f : State → Nat × State) (s : State) : State :=
  if !(outOfReset s) then s
  else if !(mpServes s) then mpMap (fun m => { m with answer := 4 }) s
  else
    let (st, t) := f s
    mpMap (fun m => { m with answer := st }) t

/-- A write of one word (R985), which waits where it is a rule's (R485). DEDUCED (assumption 106). -/
def regWrite (space a : Nat) (v : Word) (s : State) : State :=
  if space = 3 ∧ s.canopy.run.isSome ∧ mpServes s then
    { s with canopy := { s.canopy with waitWrite := some (none, [(space, a, v)]) } }
  else answered (writeOne space a v) s

/-- A write of RST_CTRL alone, which is served at any time out of reset (R658, R725). -/
def resetWrite (v : Word) (s : State) : State :=
  if !(outOfReset s) then s
  else
    let (st, t) := writeOne 0 5 v s
    mpMap (fun m => { m with answer := st }) t

/-- A word of a register with some of its fields replaced: what a read-modify-write by host software sends. The other RW
fields are sent as they stand, W1C and SC fields as 0 unless given. -/
def modified (space a : Nat) (fs : List (Fld × Nat)) (s : State) : Word :=
  let keep := (wordFields space a).filter fun x => x.1.acc == .rw && !(fs.map Prod.fst).contains x.1
  word (fieldsValue keep s + fs.foldl (fun v (f, x) => v + x % 2 ^ f.width * 2 ^ f.lo) 0)

/-- A write of some fields of entry `i`, all of one word, the word's other RW fields kept (R985).
DEDUCED (assumption 17). -/
def setFields (i : Nat) (fs : List (Fld × Nat)) (s : State) : State :=
  match fs with
  | [] => s
  | (f, _) :: _ =>
    let a := f.stride * i + f.word
    regWrite f.space a (modified f.space a fs s) s

/-- A read of one word with the capture it brings (R91, R184, R454, R574, R576, R738): the reply bytes follow. -/
def regRead (a : Nat) (s : State) : State :=
  if !(outOfReset s) then s
  else
    let (st, ws, t) := if mpServes s || decide (a < 8) then readFrame a 1 s else (4, [], s)
    let b := byte st :: (if st = 0 then ws.flatMap (beBytes 4) else refusedBytes 0xA1 1)
    mpMap (fun m => { m with request := 5, reply := b ++ [byte (crc8 b)] }) t

/-- A read of one word of an indirect space through a window, with the capture it brings (R184, R670): the reply bytes
follow. -/
def windowRead (space a : Nat) (s : State) : State :=
  if !(outOfReset s) then s
  else
    let st := if !(mpServes s) then 4 else if place space a s == .absent then 2 else if writeOnly space a then 1 else 0
    let t := if st = 0 then captureWord space a s else s
    let b := byte st :: (if st = 0 then beBytes 4 (readWord space a t) else refusedBytes 0xA1 1)
    mpMap (fun m => { m with request := 5, reply := b ++ [byte (crc8 b)] }) t

/-! ### QREAD (R523, R561 to R566, R675 to R677) -/

/-- Words that the MP can take now: those of the head that entered it in an earlier CORE cycle (R534, R561). -/
def takeableWords (q n : Nat) (s : State) : List QWord :=
  (((qGet q s).head.takeWhile fun e => decide (e.2 < s.now)).take n).map Prod.fst

/-- The slots of a QREAD: the words taken, then NOT_VALID (R561). -/
def slots (n : Nat) (ws : List QWord) : List QWord := ws ++ List.replicate (n - ws.length) ⟨.notValid, 0#32⟩

/-- Words as they travel on the MP (R527). -/
def slotBytes (ws : List QWord) : List Byte := ws.flatMap fun w => byte w.tag.code :: wordBytes w.data

/-- The status of a QREAD is decided: its words leave the queue and are retained (R561, R562, R676). -/
def qreadDecide (q n : Nat) (s : State) : State :=
  let ws := takeableWords q n s
  let c := qGet q s
  let (ins, k, len, seen) := follow ws c.inside c.outWord c.outLen c.outPoison
  let s := bumpBy CN.RECORDS_OUT q (ws.filter fun w => w.tag == .end_).length (dropWords q ws.length s)
  let s := qMap q (fun c => { c with inside := ins, outWord := k, outLen := len, outPoison := seen }) s
  let sl := slots n ws
  let s := mpMap (fun m => { m with retained := some (q, n, sl), qread := none }) s
  mpDecide 0xA3 q 0 ws.length (slotBytes sl) s

/-- QREAD may read the queue: the event queue, and a tenant queue whose tenant has CONSUMER 0 and EN 1 (R523). -/
def qreadOk (q : Nat) (s : State) : Bool :=
  q == 225 || (decide (96 ≤ q) && decide (q < 224) && flag TN.EN (q - 96) s && get TN.CONSUMER (q - 96) s == 0)

/-- A QREAD frame that passed its checks (R563, R564, R675, R676). DEDUCED (assumption 27). -/
def mpQread (arg n : Nat) (s : State) : State :=
  let q := arg % 256
  if !(queueOk s q) then mpRefuse 0xA3 arg n 2 s
  else if !(qreadOk q s) then mpRefuse 0xA3 arg n 1 s
  else if bitOf arg 15 then
    match s.mp.retained with
    | some (rq, rn, sl) =>
      if rq = q ∧ rn = n then
        mpDecide 0xA3 arg 0 (sl.filter fun w => w.tag != .notValid).length (slotBytes sl) s
      else mpRefuse 0xA3 arg n 1 s
    | none => mpRefuse 0xA3 arg n 1 s
  else if flag QU.MP_MODE q s && (takeableWords q n s).isEmpty then
    mpMap (fun m => { m with qread := some (q, n, s.now + cyclesUs (get QU.WAIT_US q s)), reply := [] }) s
  else qreadDecide q n s

/-- QREAD (R561). -/
def qreadRow (arg n crc : Nat) (s : State) : State := mpFrame 0xA3 arg n [] crc (mpQread arg n) s

/-- QREAD_WAIT_END (R564): the status is decided once the head holds a word, or when WAIT_US has passed. -/
def qreadWaitEnd (s : State) : State :=
  match s.mp.qread with
  | none => s
  | some (q, n, bound) =>
    let s := if !(takeableWords q n s).isEmpty then s else if (qGet q s).head.isEmpty then runTo bound s else elapse 1 s
    qreadDecide q n s

/-- LAST_STATUS of a frame that has had no status: the manual does not state it. DEDUCED (assumption 25). -/
def openStatus (op arg done : Nat) (s : State) : State :=
  let (x, s) := drawNat s
  mpMap (fun m => { m with lastOp := op, lastStatus := x % 256, lastArg := arg, lastDone := done, reply := [] }) s

/-- QREAD_ABANDON (R565, Table 11-6). -/
def qreadAbandon (s : State) : State :=
  match s.mp.qread with
  | none => s
  | some (q, _, _) => openStatus 0xA3 q 0 (mpMap (fun m => { m with qread := none, abort := min 65535 (m.abort + 1) }) s)

/-! ### QWRITE (R313 to R316, R678 to R682) -/

/-- What a QWRITE frame does to the order of the injected record. -/
inductive QwCheck
  | ok
  | bad
  /-- R316: the END of the record that was open before the frame comes at the wrong place. -/
  | badEnd
  deriving DecidableEq, Repr

/-- A START word keeps R313. -/
def injectStart (s : State) (w : Word) : Bool :=
  let n := w.toNat
  hdrGrammar w == 7 && hdrPort w == 63 && (hdrTalker w == 0xFFF || talkerOk s (hdrTalker w)) && decide (1 ≤ lengthOf w) &&
  decide (n < 2 ^ 32)

/-- The words of a frame against the open record (R316, R527, R678, R679). `own` is true while the record is the one
that was open before the frame; `at_` counts its words, of which it must have `len`. DEDUCED (assumption 28). -/
def qwCheck (s : State) : Bool → Bool → Nat → Nat → List (Nat × Word) → QwCheck
  | _, _, _, _, [] => .ok
  | opened, own, at_, len, (tag, d) :: r =>
    match tag with
    | 2 => if opened ∨ !(injectStart s d) then .bad else qwCheck s true false 1 (4 + ceilDiv (lengthOf d) 4) r
    | 1 => if opened then qwCheck s true own (at_ + 1) len r else .bad
    | 3 => if !opened then .bad else if at_ + 1 = len then qwCheck s false false 0 0 r else if own then .badEnd else .bad
    | _ => .bad

/-- Words still outside queue 224. -/
def qwOutside (s : State) : Nat := outside 224 .mp s

/-- A QWRITE ends with a status: the words still outside are discarded, and an open record stays open (R680). -/
def qwriteEnd (n status : Nat) (s : State) : State :=
  let done := n - qwOutside s
  let s := qMap 224 (fun c => { c with wait := c.wait.filter fun e => e.1 != .mp }) s
  mpDecide 0xA4 224 status done [byte done] (mpMap (fun m => { m with qwrite := none }) s)

/-- A QWRITE frame that passed its frame checks (R678 to R680). -/
def mpQwrite (arg : Nat) (ws : List (Nat × Word)) (s : State) : State :=
  let q := arg % 256
  let c := qGet 224 s
  let own := c.openBy == some .mp
  if !(queueOk s q) then mpRefuse 0xA4 arg ws.length 2 s
  else if q ≠ 224 then mpRefuse 0xA4 arg ws.length 1 s
  else match qwCheck s own own c.openWords c.openLen ws with
    | .bad => mpRefuse 0xA4 arg ws.length 1 s
    | .badEnd => mpRefuse 0xA4 arg ws.length 1 (discardOpen 224 .mp s)
    | .ok =>
      let s := offer 224 .mp (ws.map fun (t, d) => ⟨Tag.ofCode t, d⟩) s
      if qwOutside s = 0 then qwriteEnd ws.length 0 s
      else mpMap (fun m => { m with qwrite := some (ws.length, s.now + cyclesUs (get QU.WAIT_US 224 s)), reply := [] }) s

/-- QWRITE (R678): each word is its tag byte and its data. -/
def qwriteRow (arg : Nat) (ws : List (Nat × Word)) (crc : Nat) (s : State) : State :=
  mpFrame 0xA4 arg ws.length (ws.flatMap fun (t, d) => byte t :: wordBytes d) crc (mpQwrite arg ws) s

/-- QWRITE_DONE (R680): OK when the last word has entered, FULL_TIMEOUT when WAIT_US has passed. DEDUCED (assumption 147). -/
def qwriteDone (s : State) : State :=
  match s.mp.qwrite with
  | none => s
  | some (n, bound) => if qwOutside s = 0 then qwriteEnd n 0 s else qwriteEnd n 5 (runTo bound s)

/-- QWRITE_CS_RISE (R681). -/
def qwriteCsRise (s : State) : State :=
  match s.mp.qwrite with
  | none => s
  | some (n, _) =>
    let done := n - qwOutside s
    let s := qMap 224 (fun c => { c with wait := c.wait.filter fun e => e.1 != .mp }) s
    openStatus 0xA4 224 done (mpMap (fun m => { m with qwrite := none }) s)

/-! ### STATUS and failed frames (R683, R684) -/

/-- The twelve bytes of Table 11-6. -/
def statusBytes (s : State) : List Byte :=
  let m := s.mp
  let flags := b2n ((qGet 224 s).openBy == some .mp) + 2 * b2n m.retained.isSome + 4 * b2n (irqLow s) + 8 * b2n (flag RG.SERVICE_READY 0 s)
  [byte m.lastOp, byte m.lastStatus] ++ beBytes 2 m.lastArg ++ [byte m.lastDone, byte flags] ++ beBytes 2 m.frameSeq ++
    beBytes 2 m.crcBad ++ beBytes 2 m.abort

/-- STATUS (R683): answered in full unless its CRC fails; it changes no field of Table 11-6 but CRC_BAD_CNT.
DEDUCED (assumption 26). -/
def statusRow (arg cnt crc : Nat) (s : State) : State :=
  let s := mpMap (fun m => { m with request := 5 }) s
  if !(outOfReset s) then s
  else if crc8 ([0xA5#8] ++ beBytes 2 arg ++ [byte cnt]) ≠ crc then
    let b := [0x03#8]
    mpMap (fun m => { m with crcBad := min 65535 (m.crcBad + 1), reply := b ++ [byte (crc8 b)] }) s
  else
    let b := byte (if arg = 0 ∧ cnt = 0 then 0 else 1) :: statusBytes s
    mpMap (fun m => { m with reply := b ++ [byte (crc8 b)] }) s

/-- UNKNOWN_OPCODE (R653, R657): REFUSED, with the status byte and its CRC alone. -/
def unknownOpcode (op arg cnt crc : Nat) (s : State) : State := mpFrame op arg cnt [] crc (mpRefuse op arg cnt 1) s

/-- FRAME_ABORT (R684). -/
def frameAbort (s : State) : State :=
  if outOfReset s then mpMap (fun m => { m with abort := min 65535 (m.abort + 1), reply := [] }) s else s

end Sys2Proof.Machine
end

