-- ==== Sys2Proof/Machine/StartupFam.lean ====
section
/-! DEFINITION. The meanings of the start-up rows: resets, boot, guards powering up. Operand `dt`: the CORE cycles that
pass before the event. -/

namespace Sys2Proof.Machine

/-- What a meaning answers. -/
abbrev Answer := Host.Outcome State Fault Refusal

/-- POWER_ON_RESET (R800, R803). -/
def execPowerOnReset (dt : Nat) (s : State) : Answer := .next (beginReset .powerOn (elapse dt s))

/-- RESET_N (R801): low for `lowNs`. -/
def execResetN (dt lowNs : Nat) (s : State) : Answer := .next (resetN lowNs (elapse dt s))

/-- PLL_LOSS (R78). -/
def execPllLoss (dt : Nat) (s : State) : Answer := .next (pllLoss (elapse dt s))

/-- WATCHDOG_EXPIRY (R804). -/
def execWatchdogExpiry (dt : Nat) (s : State) : Answer := .next (watchdogExpiry (elapse dt s))

/-- SOFTWARE_RESET (R725): a write of RST_CTRL. -/
def execSoftwareReset (dt : Nat) (value : Word) (s : State) : Answer := .next (resetWrite value (elapse dt s))

/-- SOFTWARE_RESET_START (R726): MP_CS_N is high `wait` CORE cycles from now. -/
def execSoftwareResetStart (wait : Nat) (s : State) : Answer := .next (softwareResetStart wait s)

/-- RESET_RELEASE (R802, R810). -/
def execResetRelease (dt : Nat) (recoveryN : Bool) (s : State) : Answer := .next (resetRelease recoveryN (elapse dt s))

/-- PLL_LOCK (R76). -/
def execPllLock (dt : Nat) (s : State) : Answer := .next (pllLock (elapse dt s))

/-- FLASH_READY (R814). -/
def execFlashReady (dt : Nat) (s : State) : Answer := .next (flashReady (elapse dt s))

/-- CF_START (R813): `failing` are the PM groups whose self-test fails, `again` those that fail the retest too. -/
def execCfStart (dt : Nat) (failing again : List Nat) (s : State) : Answer := .next (cfStart failing again (elapse dt s))

/-- GUARD_WAIT_END (R825, R830): SERVICE_READY comes `dt` CORE cycles after the restore. -/
def execGuardWaitEnd (dt : Nat) (s : State) : Answer := .next (guardWaitEnd dt s)

/-- RECOVERY_POWER_OFF (R838). -/
def execRecoveryPowerOff (dt : Nat) (s : State) : Answer := .next (recoveryPowerOff (elapse dt s))

/-- GUARD_BOOT (R824): guard `k` with GF version `ver`, or in its ROM recovery loader. -/
def execGuardBoot (dt k ver : Nat) (b : GuardBoot) (s : State) : Answer := .next (guardBoot k ver b (elapse dt s))

/-- GUARD_VDDIO_LOW (R944). -/
def execGuardVddioLow (dt k : Nat) (s : State) : Answer := .next (guardVddio k true (elapse dt s))

/-- GUARD_VDDIO_RETURN (R944). -/
def execGuardVddioReturn (dt k : Nat) (s : State) : Answer := .next (guardVddio k false (elapse dt s))

end Sys2Proof.Machine
end

