-- ==== Sys2Proof/Machine/CanopyFam.lean ====
section
/-! DEFINITION. The meanings of the Canopy and tenant rows (chapter 8). Operand `t`: a tenant. -/

namespace Sys2Proof.Machine

/-- CLASSIFICATION_START (R483). -/
def execClassificationStart (dt : Nat) (s : State) : Answer := .next (classificationStart (elapse dt s))

/-- CLASSIFICATION_END (R480). -/
def execClassificationEnd (s : State) : Answer := .next (classificationEnd s)

/-- CANOPY_WRITE_EFFECT (R485). -/
def execCanopyWriteEffect (dt : Nat) (s : State) : Answer := .next (canopyWriteEffect (elapse dt s))

/-- CANOPY_HOLD (R486): a write of CANOPY_CTRL.EN 0. -/
def execCanopyHold (dt : Nat) (s : State) : Answer := .next (setFields 0 [(RG.CANOPY_EN, 0)] (elapse dt s))

/-- CANOPY_RESUME (R487): a write of CANOPY_CTRL.EN 1. -/
def execCanopyResume (dt : Nat) (s : State) : Answer := .next (setFields 0 [(RG.CANOPY_EN, 1)] (elapse dt s))

/-- SOURCE_GAP_REMOVE (R987). -/
def execSourceGapRemove (dt : Nat) (s : State) : Answer := .next (sourceGapRemove (elapse dt s))

/-- TENANT_ENABLE (R492): a write of a tenant's EN 1. -/
def execTenantEnable (dt t : Nat) (s : State) : Answer := .next (setFields t [(TN.EN, 1)] (elapse dt s))

/-- TENANT_DISABLE (R494): a write of a tenant's EN 0. -/
def execTenantDisable (dt t : Nat) (s : State) : Answer := .next (setFields t [(TN.EN, 0)] (elapse dt s))

/-- KEY_WRITE (R503): the four words of a key. -/
def execKeyWrite (dt t : Nat) (k0 k1 k2 k3 : Word) (s : State) : Answer :=
  .next (answered (keyFrame t ([k0, k1, k2, k3].flatMap wordBytes)) (elapse dt s))

end Sys2Proof.Machine
end

