-- ==== Sys2Proof/Machine/CardFam.lean ====
section
/-! DEFINITION. The meanings of the card rows (chapter 6). Operand `n`: the card port. -/

namespace Sys2Proof.Machine

/-- CARD_DEBOUNCE_START (R350). -/
def execCardDebounceStart (dt n : Nat) (s : State) : Answer := .next (cardDebounceStart n (elapse dt s))

/-- CARD_INSERT (R350). -/
def execCardInsert (n : Nat) (s : State) : Answer := .next (cardInsert n s)

/-- CARD_REMOVE (R350). -/
def execCardRemove (dt n : Nat) (s : State) : Answer := .next (cardRemove n (elapse dt s))

/-- CARD_CLOCK_START (Table 6-2, R351). -/
def execCardClockStart (n : Nat) (s : State) : Answer := .next (cardClockStart n s)

/-- CARD_RESET_RELEASE (Table 6-2, R351). -/
def execCardResetRelease (n : Nat) (s : State) : Answer := .next (cardResetRelease n s)

/-- TS_HUNT_START (Table 6-2, R351). -/
def execTsHuntStart (n : Nat) (s : State) : Answer := .next (tsHuntStart n s)

/-- ATR_FAIL (R365). -/
def execAtrFail (n : Nat) (s : State) : Answer := .next (atrFail n s)

/-- CARD_CHARACTER_RECEIVED (R359): the levels of samples 1 to 9. -/
def execCardCharacterReceived (dt n : Nat) (samples : List Bool) (s : State) : Answer :=
  .next (cardCharacterReceived n samples (elapse dt s))

/-- CARD_CHARACTER_SENT (R362): `low` is the level of the error signal's sample. -/
def execCardCharacterSent (n lowFrom lowTo : Nat) (s : State) : Answer := .next (cardCharacterSent n lowFrom lowTo s)

/-- WT_EXPIRED (R377). -/
def execWtExpired (n : Nat) (s : State) : Answer := .next (wtExpired n s)

/-- CX_GO (R374, R375): a write of CX_CTRL with GO 1 and a DIR. -/
def execCxGo (dt n dir : Nat) (s : State) : Answer := .next (setFields n [(CD.GO, 1), (CD.DIR, dir)] (elapse dt s))

/-- CARD_RESET (R354): a write with RESET 1. -/
def execCardReset (dt n : Nat) (s : State) : Answer := .next (setFields n [(CD.RESET, 1)] (elapse dt s))

/-- DEACT (R353): a write with DEACT 1. -/
def execDeact (dt n : Nat) (s : State) : Answer := .next (setFields n [(CD.DEACT, 1)] (elapse dt s))

/-- CARD_DEACTIVATION_END (R352): RESET and DEACT read 0 from here (Table 6-9). -/
def execCardDeactivationEnd (n : Nat) (s : State) : Answer :=
  let ends := cardState n s = 7
  let s := cardDeactivationEnd n s
  .next (if ends then putHw CD.RESET n 0 (putHw CD.DEACT n 0 s) else s)

/-- CP1_ENABLE (R347, R58): a write of CP_CTRL with CP1_EN 1. -/
def execCp1Enable (dt : Nat) (s : State) : Answer := .next (setFields 0 [(RG.CP1_EN, 1)] (elapse dt s))

/-- CARD_PORT_DISABLE (R349): a write of CP_CTRL with the enable of port `n` 0. -/
def execCardPortDisable (dt n : Nat) (s : State) : Answer :=
  .next (setFields 0 [(if n = 0 then RG.CP0_EN else RG.CP1_EN, 0)] (elapse dt s))

/-- KEYLOAD_SCRIPT (R385): the script's next exchange with the site card. -/
def execKeyloadScript (wait : Nat) (r : ScriptReply) (s : State) : Answer := .next (keyloadScript wait r s)

/-- BADGE_SCRIPT (R388): the script's next exchange with the badge. -/
def execBadgeScript (wait : Nat) (r : ScriptReply) (s : State) : Answer := .next (badgeScript wait r s)

end Sys2Proof.Machine
end

