-- ==== Sys2Proof/Machine/ClockFam.lean ====
section
/-! DEFINITION. The meanings of the clock rows: Ring time, the lock loop, TM_OUT (chapter 2). -/

namespace Sys2Proof.Machine

/-- SECONDS_CARRY (R88). -/
def execSecondsCarry (s : State) : Answer := .next (secondsCarry s)

/-- TM_OUT_PULSE_END (R120). -/
def execTmOutPulseEnd (s : State) : Answer := .next (tmOutPulseEnd s)

/-- TM_OUT_ENABLE (R118, R58): a write of TM_OUT_CFG with EN 1. -/
def execTmOutEnable (dt : Nat) (s : State) : Answer := .next (setFields 0 [(RG.TM_OUT_EN, 1)] (elapse dt s))

/-- TM_OUT_DISABLE (R59, R120): a write of TM_OUT_CFG with EN 0. -/
def execTmOutDisable (dt : Nat) (s : State) : Answer := .next (setFields 0 [(RG.TM_OUT_EN, 0)] (elapse dt s))

/-- SET (R94, R96): a write of RT_CTRL with SET 1. -/
def execSet (dt : Nat) (s : State) : Answer := .next (setFields 0 [(RG.RT_SET, 1)] (elapse dt s))

/-- STEP (R95): a write of RT_CTRL with STEP 1. -/
def execStep (dt : Nat) (s : State) : Answer := .next (setFields 0 [(RG.RT_STEP_GO, 1)] (elapse dt s))

/-- LOCK_ENABLE (R105): a write of RT_CTRL with LOCK_EN 1. -/
def execLockEnable (dt : Nat) (s : State) : Answer := .next (setFields 0 [(RG.LOCK_EN, 1)] (elapse dt s))

/-- LOCK_DISABLE (R107): a write of RT_CTRL with LOCK_EN 0. -/
def execLockDisable (dt : Nat) (s : State) : Answer := .next (setFields 0 [(RG.LOCK_EN, 0)] (elapse dt s))

/-- TM_IN_MARK (R85, R101, R104): an edge of TM_IN whose level lasts `widthNs`. -/
def execTmInMark (dt : Nat) (falling : Bool) (widthNs : Nat) (s : State) : Answer :=
  .next (tmInMark falling widthNs (elapse dt s))

/-- MARK_TIMEOUT (R106). -/
def execMarkTimeout (s : State) : Answer := .next (markTimeout s)

/-- RT_NOW_SEC_READ (R91). -/
def execRtNowSecRead (dt : Nat) (s : State) : Answer := .next (regRead 0x13 (elapse dt s))

end Sys2Proof.Machine
end

