-- ==== Sys2Proof/Machine/GuardFam.lean ====
section
/-! DEFINITION. The meanings of the guard and guard-link rows (chapter 4). Operands: `k` a guard, `p` a line by its port,
`o` what the transaction on the link comes to. -/

namespace Sys2Proof.Machine

/-- GREAD (R213): of a line, whose LRXn shows the start level or not, or of the guard itself. -/
def execGread (dt : Nat) (who : GlTarget) (reg count : Nat) (o : GlOutcome) (s : State) : Answer :=
  .next (match who with
    | .line p start => greadLine p reg count start o (elapse dt s)
    | .guard k => greadGuard k reg count o (elapse dt s))

/-- GWRITE (R207, R984): to a line, or of LEAK_WINDOW_S to a guard. -/
def execGwrite (dt : Nat) (wide : Bool) (i : Nat) (o : GlOutcome) (s : State) : Answer :=
  let s := elapse dt s
  .next (if wide then gwriteGuard i o s else gwriteLine i o s)

/-- TRIM_START (R240). -/
def execTrimStart (dt p : Nat) (o : GlOutcome) (s : State) : Answer := .next (trimStart p o (elapse dt s))

/-- SLICE_START (R246). -/
def execSliceStart (dt p : Nat) (o : GlOutcome) (s : State) : Answer := .next (sliceStart p o (elapse dt s))

/-- PWR_SWITCH (R224, R228, R229): the guard's VFIELD stands at `vfield` mV. DEDUCED (assumption 76). -/
def execPwrSwitch (dt p : Nat) (on : Bool) (vfield : Nat) (o : GlOutcome) (s : State) : Answer :=
  let s := elapse dt s
  .next (pwrSwitch p on o (when_ (guardOk s (p / 8)) (gMap (p / 8) fun g => { g with vfield := vfield }) s))

/-- ALERT_FETCH (R216): `startLines` are the ports whose LRXn shows the start level. -/
def execAlertFetch (dt k : Nat) (startLines : List Nat) (o : GlOutcome) (s : State) : Answer :=
  .next (alertFetch k startLines o (elapse dt s))

/-- IDENT (R825, R885): the generation that a guard shows is checked in service, and a GF restore may begin.
DEDUCED (assumption 77). -/
def execIdent (dt k : Nat) (o : GlOutcome) (s : State) : Answer :=
  let s := ident k o (elapse dt s)
  .next (if s.sys.phase = .ready ∧ o.isOk ∧ guardOk s k then startRestores (genCheck k s) else s)

/-- FW_BLOCK (R873). -/
def execFwBlock (dt k : Nat) (o : GlOutcome) (s : State) : Answer := .next (fwBlock k o (elapse dt s))

/-- FW_ACTIVATE (R874). -/
def execFwActivate (dt k : Nat) (o : GlOutcome) (s : State) : Answer := .next (fwActivate k o (elapse dt s))

/-- GL_ALERT_N (R216). -/
def execGlAlertN (dt : Nat) (s : State) : Answer := .next (glAlertN (elapse dt s))

/-- SHADOW_REFRESH (R208): VFIELD in mV, the die temperature, and current and voltage of each line. -/
def execShadowRefresh (dt k vfield : Nat) (temp : Int) (meas : List LineReading) (o : GlOutcome) (s : State) : Answer :=
  .next (shadowRefresh k vfield temp meas o (elapse dt s))

/-- CM_FAULT (R220). -/
def execCmFault (dt p : Nat) (s : State) : Answer := .next (cmFault p (elapse dt s))

/-- CM_FAULT_END (R220). -/
def execCmFaultEnd (dt p : Nat) (s : State) : Answer := .next (cmFaultEnd p (elapse dt s))

/-- PWR_EN_SET (R223): a write with PWR_EN 1. -/
def execPwrEnSet (dt p : Nat) (s : State) : Answer := .next (setFields p [(GL.PWR_EN, 1)] (elapse dt s))

/-- PWR_EN_CLEAR (R228): a write with PWR_EN 0. -/
def execPwrEnClear (dt p : Nat) (s : State) : Answer := .next (setFields p [(GL.PWR_EN, 0)] (elapse dt s))

/-- INRUSH_TIMER_EXPIRY (R225): `reached` tells whether the output stands at 90 %. -/
def execInrushTimerExpiry (p : Nat) (reached : Bool) (s : State) : Answer := .next (inrushTimerExpiry p reached s)

/-- PWR_FAULT (R231): the cause of Table 4-3. -/
def execPwrFault (dt p cause : Nat) (s : State) : Answer := .next (pwrFault p cause (elapse dt s))

/-- RETRY_WAIT_EXPIRY (R232). -/
def execRetryWaitExpiry (p : Nat) (s : State) : Answer := .next (retryWaitExpiry p s)

/-- TRIM_REQ (R236): a write with TRIM_REQ 1. -/
def execTrimReq (dt p : Nat) (s : State) : Answer := .next (setFields p [(GL.TRIM_REQ, 1)] (elapse dt s))

/-- TRIM_WANTED (R236). -/
def execTrimWanted (dt p : Nat) (temp : Int) (s : State) : Answer := .next (trimWantedEvent p temp (elapse dt s))

/-- GUARD_LINE_ENABLE (R238): a write with EN 1. -/
def execGuardLineEnable (dt p : Nat) (s : State) : Answer := .next (setFields p [(GL.EN, 1)] (elapse dt s))

/-- TRIM_DEFER_TIMEOUT (R239). -/
def execTrimDeferTimeout (p : Nat) (s : State) : Answer := .next (trimDeferTimeout p s)

/-- TRIM_END (R242): the codes that APPLY sets, or FAIL. -/
def execTrimEnd (dt p : Nat) (codes : Option (Nat × Nat)) (s : State) : Answer := .next (trimEnd p codes (elapse dt s))

/-- LEAK_MEASUREMENT_START (R246). -/
def execLeakMeasurementStart (p : Nat) (s : State) : Answer := .next (leakMeasurementStart p s)

/-- SLICE_SKIP (R247). -/
def execSliceSkip (dt p : Nat) (s : State) : Answer := .next (sliceSkip p (elapse dt s))

/-- SLICE_END (R250): `kohm` is the resistance that the measurement finds. -/
def execSliceEnd (p kohm : Nat) (s : State) : Answer := .next (sliceEnd p kohm s)

/-- SLICE_PREEMPT (R63). -/
def execSlicePreempt (dt p : Nat) (s : State) : Answer := .next (slicePreempt p (elapse dt s))

/-- LEAK_WINDOW_EXPIRY (R250). -/
def execLeakWindowExpiry (p : Nat) (s : State) : Answer := .next (leakWindowExpiry p s)

/-- GUARD_DIE_HOT (R254). -/
def execGuardDieHot (dt k : Nat) (temp : Int) (s : State) : Answer := .next (guardDieHot k temp (elapse dt s))

end Sys2Proof.Machine
end

