-- ==== Sys2Proof/Machine/LeaveFam.lean ====
section
/-! DEFINITION. The meanings of the leave rows (chapter 13). -/

namespace Sys2Proof.Machine

/-- LEAVE_GRANT (R765). -/
def execLeaveGrant (dt : Nat) (s : State) : Answer := .next (governorCycle (elapse dt s))

/-- LEAVE_TIMEOUT (R769). -/
def execLeaveTimeout (s : State) : Answer := .next (leaveTimeout s)

/-- BUDGET_WRITE (R734): a write of the FIELD or the DIE budget. -/
def execBudgetWrite (dt : Nat) (field : Bool) (units : Nat) (s : State) : Answer :=
  .next (setFields 0 [(if field then RG.FIELD_BUDGET else RG.DIE_BUDGET, units)] (elapse dt s))

/-- BUDGET_CHANGE_EFFECT (R734). -/
def execBudgetChangeEffect (dt : Nat) (s : State) : Answer := .next (budgetChange (elapse dt s))

/-- LV_LEDGER_READ (R738). -/
def execLvLedgerRead (dt : Nat) (s : State) : Answer := .next (regRead 0x3B (elapse dt s))

/-- DIE_TEMP_UPDATE (R787): the temperature in °C. -/
def execDieTempUpdate (dt : Nat) (temp : Int) (s : State) : Answer := .next (dieTemp temp (elapse dt s))

end Sys2Proof.Machine
end

