-- ==== Sys2Proof/Machine/LineFam.lean ====
section
/-! DEFINITION. The meanings of the line-port rows (chapters 3 and 5). Operand `p`: the port. After an event that may
complete a reply the scheduler judges it (R413, R419). -/

namespace Sys2Proof.Machine

/-- START_BIT_VALIDATED (R149). -/
def execStartBitValidated (dt p : Nat) (s : State) : Answer := .next (startBit p (elapse dt s))

/-- START_GLITCH (R149). -/
def execStartGlitch (dt p : Nat) (s : State) : Answer := .next (startGlitch p (elapse dt s))

/-- CHARACTER_RECEIVED (R151, R249): the levels of samples 1 to K, and the transitions in LINE cycles after the start
edge. -/
def execCharacterReceived (p : Nat) (samples : List Bool) (trans : List Nat) (s : State) : Answer :=
  let heard := (pGet p s).rx.isSome
  let s := judge p (characterReceived p samples trans s)
  .next (if heard then sliceHeard p s else s)

/-- LINE_FORMAT_WRITE (R137): a write of LE_CTRL, or of BAUD_INC. -/
def execLineFormatWrite (dt p : Nat) (ctrl : Bool) (value : Word) (s : State) : Answer :=
  .next (regWrite 1 (32 * p + (if ctrl then 0 else 1)) value (elapse dt s))

/-- STAGING_MOVE_DONE (R176): a requested move that the receive queue accepts goes on. -/
def execStagingMoveDone (dt p : Nat) (s : State) : Answer := .next (judge p (stagingMove p (elapse dt s)))

/-- BREAK_DETECTED (R168). -/
def execBreakDetected (p : Nat) (s : State) : Answer := .next (judge p (breakDetected p s))

/-- POSSIBLE_BREAK_IDLE (R167). -/
def execPossibleBreakIdle (dt p : Nat) (s : State) : Answer := .next (judge p (possibleBreakIdle p (elapse dt s)))

/-- HUNT_RESUME_AFTER_BREAK (R168). -/
def execHuntResumeAfterBreak (dt p : Nat) (s : State) : Answer := .next (huntResume p (elapse dt s))

/-- RX_TIMEOUT (R178). -/
def execRxTimeout (p : Nat) (s : State) : Answer := .next (judge p (rxTimeout p s))

/-- The head of the transmit queue is cleared of what never reaches the line: GAP words and the records that they
abandon (R559), and a record with a POISON word (R549). -/
def clearTxHead (p : Nat) (s : State) : State :=
  if (txOf p s).phase = .idle then txDiscard p (dropTxAbandoned p (qGet (48 + p) s).count s) else s

/-- TX_RECORD_START (R186). -/
def execTxRecordStart (dt p : Nat) (s : State) : Answer := .next (txRecordStart p (clearTxHead p (elapse dt s)))

/-- LEAD_END (R186). -/
def execLeadEnd (p : Nat) (s : State) : Answer := .next (countSent p (txOf p s) (leadEnd p s))

/-- TX_CHARACTER_DONE (R140). -/
def execTxCharacterDone (p : Nat) (s : State) : Answer := .next (txCharacterDone p s)

/-- TX_TAIL_END (R186). -/
def execTxTailEnd (p : Nat) (s : State) : Answer := .next (txTailEnd p s)

/-- TX_BREAK (R170): a write of LE_CTRL with TX_BREAK 1. -/
def execTxBreak (dt p : Nat) (s : State) : Answer := .next (setFields p [(PT.TX_BREAK, 1)] (elapse dt s))

/-- BREAK_START (R172). -/
def execBreakStart (dt p : Nat) (s : State) : Answer := .next (breakStart p (elapse dt s))

/-- BREAK_END (R172). -/
def execBreakEnd (p : Nat) (s : State) : Answer := .next (breakEnd p s)

/-- MARKING_END (R172). -/
def execMarkingEnd (p : Nat) (s : State) : Answer := .next (countSent p (txOf p s) (markingEnd p s))

/-- PORT_DISABLE (R192): a write of LE_CTRL with EN 0. -/
def execPortDisable (dt p : Nat) (s : State) : Answer := .next (setFields p [(PT.EN, 0)] (elapse dt s))

/-- RX_CHARS_READ (R184). -/
def execRxCharsRead (dt p : Nat) (s : State) : Answer := .next (windowRead 1 (32 * p + 8) (elapse dt s))

/-- T35_EXPIRY (R300). -/
def execT35Expiry (p : Nat) (s : State) : Answer := .next (judge p (t35Expiry p s))

/-- SENTENCE_TIMEOUT (R285). -/
def execSentenceTimeout (p : Nat) (s : State) : Answer := .next (judge p (sentenceTimeout p s))

/-- MARK_ABANDON (R321). -/
def execMarkAbandon (p : Nat) (s : State) : Answer := .next (markAbandon p s)

end Sys2Proof.Machine
end

