-- ==== Sys2Proof/Machine/PortFam.lean ====
section
/-! DEFINITION. The meanings of the management-port rows (chapter 11): frames as received with their CRC byte, and the
register writes that have rows of their own. `dt` CORE cycles pass before the effect. -/

namespace Sys2Proof.Machine

/-- READ (R662 to R666): `rest` CORE cycles lie between the address's last bit and the effect. -/
def execRead (dt arg cnt crc rest : Nat) (s : State) : Answer := .next (readRow arg cnt crc rest (elapse dt s))

/-- WRITE (R662 to R667). -/
def execWrite (dt arg : Nat) (data : List Word) (crc : Nat) (s : State) : Answer := .next (writeRow arg data crc (elapse dt s))

/-- QREAD (R561, R675, R676). -/
def execQread (dt arg n crc : Nat) (s : State) : Answer := .next (qreadRow arg n crc (elapse dt s))

/-- QREAD_REPEAT (R676): a QREAD with ARG bit 15 at 1. -/
def execQreadRepeat (dt q n crc : Nat) (s : State) : Answer := .next (qreadRow (2 ^ 15 + q % 256) n crc (elapse dt s))

/-- QREAD_WAIT_END (R564). -/
def execQreadWaitEnd (dt : Nat) (s : State) : Answer := .next (qreadWaitEnd (elapse dt s))

/-- QREAD_ABANDON (R565). -/
def execQreadAbandon (dt : Nat) (s : State) : Answer := .next (qreadAbandon (elapse dt s))

/-- QWRITE (R678): tag bytes with their words. -/
def execQwrite (dt arg : Nat) (words : List (Nat × Word)) (crc : Nat) (s : State) : Answer :=
  .next (qwriteRow arg words crc (elapse dt s))

/-- QWRITE_DONE (R680). -/
def execQwriteDone (dt : Nat) (s : State) : Answer := .next (qwriteDone (elapse dt s))

/-- QWRITE_CS_RISE (R681). -/
def execQwriteCsRise (dt : Nat) (s : State) : Answer := .next (qwriteCsRise (elapse dt s))

/-- STATUS (R683). -/
def execStatus (dt arg cnt crc : Nat) (s : State) : Answer := .next (statusRow arg cnt crc (elapse dt s))

/-- UNKNOWN_OPCODE (R657): a frame with an OP of Table 11-1 is none of this row's. DEDUCED (assumption 22). -/
def execUnknownOpcode (dt op arg cnt crc : Nat) (s : State) : Answer :=
  let s := elapse dt s
  .next (if [0xA1, 0xA2, 0xA3, 0xA4, 0xA5].contains op then s else unknownOpcode op arg cnt crc s)

/-- FRAME_ABORT (R684). -/
def execFrameAbort (dt : Nat) (s : State) : Answer := .next (frameAbort (elapse dt s))

/-- WINDOW_SPACE_WRITE (R673): a write of WINw_SPACE. -/
def execWindowSpaceWrite (dt w : Nat) (value : Word) (s : State) : Answer := .next (regWrite 0 (0x40 + 4 * w) value (elapse dt s))

/-- HCMD_GO (R688): a write of HCMD with GO 1. -/
def execHcmdGo (dt : Nat) (s : State) : Answer := .next (setFields 0 [(RG.HCMD_GO, 1)] (elapse dt s))

/-- BODY_CLR (R687): a write of HCMD with BODY_CLR 1. -/
def execBodyClr (dt : Nat) (s : State) : Answer := .next (setFields 0 [(RG.BODY_CLR, 1)] (elapse dt s))

/-- HCMD_BODY_WRITE (R687). -/
def execHcmdBodyWrite (dt : Nat) (value : Word) (s : State) : Answer := .next (regWrite 0 0x09 value (elapse dt s))

/-- REGISTER_WRITE (R985): a word of a space; space 0 is the direct map. -/
def execRegisterWrite (dt space addr : Nat) (value : Word) (s : State) : Answer := .next (regWrite space addr value (elapse dt s))

end Sys2Proof.Machine
end

