-- ==== Sys2Proof/Machine/StorePort.lean ====
section
/-! DEFINITION. The store's data port (R60, R62, R986): which client gets each STORE cycle, and what waiting for it costs in
time. A request moves one word per STORE cycle; a row that ends one runs the clock on to the cycle in which its last word
has had its turn. -/

namespace Sys2Proof.Machine

/-- The classes of Table 1-6 and R62, highest first. -/
inductive StoreClass
  | spillWrite | uplinkRead | headRefill | copyRead
  deriving DecidableEq, Repr

/-- The number under which the arbiter keeps a class's queue served last. -/
def StoreClass.code : StoreClass → Nat
  | .spillWrite => 0 | .uplinkRead => 1 | .headRefill => 2 | .copyRead => 3

/-- A request for the data port: who asks, in which class, and how many STORE cycles it needs in all. -/
structure StoreReq where
  client : StoreClient
  cls : StoreClass
  need : Nat
  deriving DecidableEq, Repr

/-- The queue of a client. -/
def StoreClient.queue : StoreClient → Nat
  | .spill q | .writeBack q | .verify q | .refill q => q
  | .copy q _ => q

/-- Within one queue a verify pass goes before a refill, and its write-back before a spill (R986). -/
def StoreClient.rank : StoreClient → Nat
  | .writeBack _ | .verify _ => 0
  | .spill _ | .refill _ => 1
  | .copy _ job => job

/-! ### Who asks -/

/-- The tenant queue's consumer is an uplink builder (R532). -/
def uplinkQueue (q : Nat) (s : State) : Bool :=
  tenantQueue q && (get TN.CONSUMER (q - 96) s == 1 || get TN.CONSUMER (q - 96) s == 2)

/-- A spill of queue `q` can write now: its tail is to be spilled and it has, or can get, a half block (R531, R537). -/
def spillReady (q : Nat) (s : State) : Bool :=
  wantsSpill (qGet q s) && !holdsPartial q s &&
  (match newest (qGet q s).mid with
    | some b => decide (b.written < 16)
    | none => false) || (wantsSpill (qGet q s) && !holdsPartial q s && mayAllocate q s && decide (s.store.lanes.length < 8))

/-- Words of the head record of queue `q` that lie in the store: what a verify pass reads (R546). -/
def storedWords (q : Nat) (s : State) : Nat :=
  let c := qGet q s
  min (c.headExtent.getD 0 - c.head.length) c.midWords.length

/-- What queue `q` asks of the data port (R531, R532, R546). -/
def queueReqs (q : Nat) (s : State) : List StoreReq :=
  let c := qGet q s
  (if spillReady q s then [⟨.spill q, .spillWrite, 8⟩] else []) ++
  (if c.head.length ≤ 4 && !c.mid.isEmpty then
    [⟨.refill q, if uplinkQueue q s then .uplinkRead else .headRefill, min (8 - c.head.length) c.midWords.length⟩] else []) ++
  (if c.verifying then [⟨.verify q, .headRefill, storedWords q s⟩] else [])

/-- A forward-copy that has not copied its record reads the words of it that lie in the store (R62). -/
def copyReqs (s : State) : List StoreReq :=
  (s.jobs.filter fun j => j.kind == .fwd && !j.begun && j.idleAt.isNone).filterMap fun j =>
    match sourceQueue j.src, releaseOf j.src s with
    | some q, some r => some ⟨.copy q j.id, .copyRead, min (r.words.length - (qGet q s).head.length) (qGet q s).midWords.length⟩
    | _, _ => none

/-- Every request for the data port. MP access takes its words from head registers and asks for none (R561).
DEDUCED (assumption 124). -/
def storeReqs (s : State) : List StoreReq := ((s.queues.map Prod.fst).flatMap fun q => queueReqs q s) ++ copyReqs s

/-! ### Who gets the cycle -/

/-- STORE cycles that a client has been given. -/
def Arb.got (a : Arb) (c : StoreClient) : Nat := ((a.given.find? fun e => e.1 == c).map Prod.snd).getD 0

/-- One more STORE cycle for a client. -/
def Arb.give (a : Arb) (c : StoreClient) : Arb :=
  { a with given := (a.given.filter fun e => e.1 != c) ++ [(c, a.got c + 1)] }

/-- A finished request is forgotten. -/
def Arb.done (a : Arb) (c : StoreClient) : Arb := { a with given := a.given.filter fun e => e.1 != c }

/-- The requests of a class that still need cycles. -/
def Arb.open_ (a : Arb) (k : StoreClass) (l : List StoreReq) : List StoreReq :=
  l.filter fun r => r.cls == k && decide (a.got r.client < r.need)

/-- Round-robin over queue index within a class: the lowest index above the queue served last, wrapping (R986). -/
def Arb.pick (a : Arb) (k : StoreClass) (l : List StoreReq) : Option StoreReq :=
  match roundRobin (lookup 225 k.code a.last) (l.map fun r => r.client.queue) with
  | none => none
  | some q => (l.filter fun r => r.client.queue == q).foldl (fun b r => match b with
      | none => some r
      | some x => if r.client.rank < x.client.rank then some r else some x) none

/-- Which request gets a STORE cycle (R60, R62): spill writes, but for every fourth cycle in which uplink reads ask too; then
uplink reads, head refills, and forward-copy reads. -/
def Arb.next (a : Arb) (l : List StoreReq) : Option StoreReq :=
  let spills := a.open_ .spillWrite l
  let uplinks := a.open_ .uplinkRead l
  let refills := a.open_ .headRefill l
  if !spills.isEmpty && (uplinks.isEmpty || decide (a.run < 3)) then a.pick .spillWrite spills
  else if !uplinks.isEmpty then a.pick .uplinkRead uplinks
  else if !refills.isEmpty then a.pick .headRefill refills
  else a.pick .copyRead (a.open_ .copyRead l)

/-- The arbiter after it has given a STORE cycle to a request. -/
def Arb.grant (a : Arb) (l : List StoreReq) (r : StoreReq) : Arb :=
  let b := a.give r.client
  { b with last := insert r.cls.code r.client.queue b.last
           run := if r.cls = .spillWrite && !(a.open_ .uplinkRead l).isEmpty then a.run + 1 else 0 }

/-- STORE cycles pass, at most `n`, until a client has been given the cycles it needs: the number that passed, and the
arbiter after them. -/
def Arb.serve (l : List StoreReq) (c : StoreClient) (need : Nat) : Nat → Arb → Nat × Arb
  | 0, a => (0, a)
  | n + 1, a =>
    if need ≤ a.got c then (0, a)
    else match a.next l with
      | none => (0, a)
      | some r => let (k, b) := Arb.serve l c need n (a.grant l r); (k + 1, b)

/-- The data port serves a client to its last word: the clock runs on by the STORE cycles that pass, those of other clients
that go before included, and every other request keeps what it has been given. -/
def portServes (c : StoreClient) (cls : StoreClass) (need : Nat) (s : State) : State :=
  let l := (storeReqs s).filter (fun r => r.client != c) ++ [⟨c, cls, need⟩]
  let a : Arb := { s.store.arb with given := s.store.arb.given.filter fun e => l.any fun r => r.client == e.1 }
  let (k, b) := Arb.serve l c need ((l.map StoreReq.need).sum) a
  let s := elapse (cyclesStore k) s
  { s with store := { s.store with arb := b.done c } }

/-- The data port serves a request of queue `q` that stands in `storeReqs`. -/
def portServesReq (c : StoreClient) (s : State) : State :=
  match (storeReqs s).find? (fun r => r.client == c) with
  | some r => portServes c r.cls r.need s
  | none => s

end Sys2Proof.Machine
end

