-- ==== Sys2Proof/Machine/QueueFam.lean ====
section
/-! DEFINITION. The meanings of the queue and store rows (chapter 9). Operand `q`: a queue; `bad` lists the 36 bits that
are read from the store at some places. -/

namespace Sys2Proof.Machine

/-- The producers that wait at a queue, each once, in the order in which their words came. -/
def waitingProducers (q : Nat) (s : State) : List Producer := ((qGet q s).wait.map Prod.fst).eraseDups

/-- PRODUCER_ADMIT (R522): the producer at a place among those that wait. -/
def execProducerAdmit (dt q place : Nat) (s : State) : Answer :=
  let s := elapse dt s
  .next (match (waitingProducers q s)[place]? with
    | some p => judge q (moveStep q (producerAdmit q p s))
    | none => s)

/-- QUEUE_WORD_WRITE (R529). The last word of a line port's move empties its block, and the END word of a reply lets the
scheduler judge it (R176, R419). -/
def execQueueWordWrite (dt q : Nat) (s : State) : Answer := .next (judge q (moveStep q (queueWordWrite q (elapse dt s))))

/-- HEAD_MOVE (R530). -/
def execHeadMove (dt q : Nat) (s : State) : Answer := .next (headMove q (elapse dt s))

/-- SPILL (R60, R531): the 8 words are written as the store's data port has STORE cycles for them. -/
def execSpill (dt q : Nat) (s : State) : Answer := .next (spill q (portServesReq (.spill q) (elapse dt s)))

/-- ALLOCATION_END (R542). -/
def execAllocationEnd (dt q : Nat) (s : State) : Answer := .next (allocationEnd q (elapse dt s))

/-- RELEASE_END (R542). -/
def execReleaseEnd (dt q : Nat) (s : State) : Answer := .next (releaseEnd q (elapse dt s))

/-- REFILL (R60, R62, R532): the words are read as the store's data port has STORE cycles for them. -/
def execRefill (dt q : Nat) (bad : List (Nat × BitVec 36)) (s : State) : Answer :=
  .next (refill q bad (portServesReq (.refill q) (elapse dt s)))

/-- VERIFY_PASS (R546). -/
def execVerifyPass (dt q : Nat) (s : State) : Answer := .next (verifyPass q (elapse dt s))

/-- A record of a source whose word 0 failed parity is discarded unclassified (R548). -/
def sourceDiscard (q : Nat) (s : State) : State :=
  let ws := (qGet q s).words
  if (decide (q < 48) || q == 224) && (ws.head?.map QWord.tag) == some .poison then
    match extent ws with
    | some n => logEvent 0x0A 0 q [] (raise RG.IRQ_QUEUE RG.UQ_SRC_DISC 0 (bump RG.SRC_DISC_CNT 0 (dropWords q n s)))
    | none => s
  else s

/-- A verify pass has had its STORE cycles: one read for each stored word, in the class of head refills, and one write-back for
each that failed, in the spill-write class (R546). -/
def passServed (q : Nat) (bad : List (Nat × BitVec 36)) (s : State) : State :=
  let s := portServesReq (.verify q) s
  let n := (passFaults q bad s).length
  if n = 0 then s else portServes (.writeBack q) .spillWrite n s

/-- VERIFY_PASS_END (R546 to R549). DEDUCED (assumption 40). -/
def execVerifyPassEnd (dt q : Nat) (bad : List (Nat × BitVec 36)) (s : State) : Answer :=
  let s := elapse dt s
  if !(qGet q s).verifying then .next s
  else
    let s := sourceDiscard q (verifyWords q bad (passServed q bad s))
    .next (if 48 ≤ q ∧ q < 96 then txDiscard (q - 48) s else s)

/-- GAP_WORD_WRITE (R554). -/
def execGapWordWrite (dt q : Nat) (s : State) : Answer := .next (gapWordWrite q (elapse dt s))

/-- CLEAR (R567): a write of Q_CTRL with CLEAR 1. -/
def execClear (dt q : Nat) (s : State) : Answer := .next (setFields q [(QU.CLEAR, 1)] (elapse dt s))

/-- What a Clearing does outside its queue: the requests of a transmit queue are lost, and a retained reply of the queue
ends (R569, R677, R773). DEDUCED (assumption 41). -/
def clearingOutside (q : Nat) (s : State) : State :=
  let s := if 48 ≤ q ∧ q < 96 then txCleared (q - 48) s else s
  match s.mp.retained with
  | some (rq, _, _) => if rq = q then mpMap (fun m => { m with retained := none }) s else s
  | none => s

/-- CLEARING_EFFECT (R568, R569): once the consumer is outside a record. -/
def execClearingEffect (dt q : Nat) (s : State) : Answer :=
  let s := elapse dt s
  .next (if (qGet q s).clearWanted && !(insideRecord q s) then clearingOutside q (clearingEffect q s) else s)

/-- CLEARING_END (R571). -/
def execClearingEnd (dt q : Nat) (s : State) : Answer := .next (clearingEnd q (elapse dt s))

/-- BLK_FREE_READ (R574). -/
def execBlkFreeRead (dt : Nat) (s : State) : Answer := .next (regRead 0x30 (elapse dt s))

/-- CR_GUAR_USED_READ (R576). -/
def execCrGuarUsedRead (dt : Nat) (s : State) : Answer := .next (regRead 0x38 (elapse dt s))

end Sys2Proof.Machine
end

