-- ==== Sys2Proof/Machine/JobEnds.lean ====
section
/-! DEFINITION. Which waiting job gets an idle slot (R452), and what a job's expiry does for each kind (R50). -/

namespace Sys2Proof.Machine

/-! ### JOB_SPAWN (R452) -/

/-- A classified record or a batch that waits for a slot: class, deadline in ns, 0 for a record and 2 for a batch, and
source or builder. -/
structure Want where
  cls : Nat
  deadline : Nat
  rank : Nat
  index : Nat
  deriving DecidableEq, Repr

/-- The order of R452, item 3. -/
def Want.before (a b : Want) : Bool :=
  decide (a.cls < b.cls) || (a.cls == b.cls && (decide (a.deadline < b.deadline) || (a.deadline == b.deadline &&
    (decide (a.rank < b.rank) || (a.rank == b.rank && decide (a.index < b.index))))))

/-- Put a waiting job at its place. -/
def Want.insert (x : Want) : List Want → List Want
  | [] => [x]
  | y :: l => if x.before y then x :: y :: l else y :: Want.insert x l

/-- The earliest deadline among the batches of a builder that wait for a job, with the highest class of that batch. -/
def batchWant (b : Nat) (s : State) : Option Want :=
  ((uGet b s).queue.filter Dgram.waits).foldl (fun (a : Option Want) d =>
    let w : Want := { cls := d.classes.foldl min 3, deadline := d.deadline, rank := 2, index := b }
    match a with
    | none => some w
    | some x => if d.deadline < x.deadline then some w else some x) none

/-- What waits for a slot under R452, item 3, in its order. -/
def wants (s : State) : List Want :=
  let fwd := (s.releases.filter fun r => !r.todo.isEmpty).map fun r =>
    ({ cls := r.cls, deadline := r.deadline, rank := 0, index := r.src } : Want)
  (fwd ++ (s.uplinks.map Prod.fst).filterMap fun b => batchWant b s).foldl (fun l w => Want.insert w l) []

/-- One waiting job gets its slot, while a slot is idle beyond the reserve (R451). -/
def grantWant (w : Want) (s : State) : State :=
  if !slotBeyondReserve s then s else if w.rank = 0 then spawnForward w.index s else spawnUplink w.index s

/-- Ports whose due poll has found no slot (R453), ascending. -/
def pollsWaiting (s : State) : List Nat :=
  (List.range 48).filter fun p => match duePoll p s with
    | some i => (plGet i s).slotWaited
    | none => false

/-- JOB_SPAWN (R40, R41, R451, R452): in this CORE cycle the due polls that wait for a slot go first, in ascending port
order; then each waiting record and each builder gets one job, in order of class and deadline.
DEDUCED (assumption 51). -/
def jobSpawn (s : State) : State :=
  let s := each (pollsWaiting s) transactionStart s
  (wants s).foldl (fun a w => grantWant w a) s

/-! ### JOB_DEADLINE_EXPIRY (R50) -/

/-- A job whose deadline the job engine enforces: ACTIVE, its deadline point not reached (R450). A poll's job has the
boundary that ends its period for its deadline, where R427 aborts it. DEDUCED (assumption 52). -/
def enforced (j : Job) : Bool := j.idleAt.isNone && !j.met && (j.kind != .poll || j.poll.isNone)

/-- The job whose remaining time reaches 0 first. -/
def nextExpiry (s : State) : Option Job :=
  (s.jobs.filter enforced).foldl (fun a j => match a with
    | none => some j
    | some x => if j.due < x.due then some j else some x) none

/-- A forward-copy's remaining time reaches 0 before its END word is written (R50, R555). -/
def forwardExpired (j : Job) (s : State) : State :=
  endJob j.id (lateDrop j.tenant j.cls (dropProducer (96 + j.tenant) (.job j.id) s))

/-- What the expiry of a job does, by its kind. -/
def jobExpired (j : Job) (s : State) : State :=
  match j.kind with
  | .fwd => forwardExpired j s
  | .poll => dropCommand j.src j s
  | .listen => listenerExpired j s
  | .uplink => uplinkExpired j s
  | .card => cardLate j s

/-- JOB_DEADLINE_EXPIRY (R50): the clock runs on to the CORE cycle in which a remaining time reaches 0. -/
def jobDeadlineExpiry (s : State) : State :=
  match nextExpiry s with
  | none => s
  | some j => jobExpired j (runTo j.due s)

end Sys2Proof.Machine
end

