-- ==== Sys2Proof/Machine/SchedulerFam.lean ====
section
/-! DEFINITION. The meanings of the scheduler and job rows (chapter 7, R33 to R51). Operands: `g` a scan group, `p` a
port, `i` a poll entry, `src` a source of the Canopy. -/

namespace Sys2Proof.Machine

/-- PERIOD_BOUNDARY (R407). -/
def execPeriodBoundary (g : Nat) (s : State) : Answer := .next (periodBoundary g s)

/-- TRANSACTION_START (R414). -/
def execTransactionStart (dt p : Nat) (s : State) : Answer := .next (transactionStart p (elapse dt s))

/-- RESPONSE_WINDOW_CLOSE (R416): a poll's window closes RESP_TO_MS after LDEn fell; a command's, whose length the manual
does not state, `dt` CORE cycles from now. DEDUCED (assumption 45). -/
def execResponseWindowClose (dt p : Nat) (s : State) : Answer :=
  .next (responseWindowClose p (match windowDue p s with
    | some t => runTo t s
    | none => elapse dt s))

/-- MEASUREMENT_WAIT_END (R423). -/
def execMeasurementWaitEnd (i : Nat) (s : State) : Answer := .next (measurementWaitEnd i s)

/-- GROUP_ENABLE (R124): a write of a group's EN 1. -/
def execGroupEnable (dt g : Nat) (s : State) : Answer := .next (setFields g [(GP.EN, 1)] (elapse dt s))

/-- GROUP_DISABLE (R408): a write of a group's EN 0. -/
def execGroupDisable (dt g : Nat) (s : State) : Answer := .next (setFields g [(GP.EN, 0)] (elapse dt s))

/-- SCHEDULER_DISABLE (R457): a write of COP_CTRL.EN 0. -/
def execSchedulerDisable (dt : Nat) (s : State) : Answer := .next (setFields 0 [(RG.COP_EN, 0)] (elapse dt s))

/-- JOB_SPAWN (R452). -/
def execJobSpawn (dt : Nat) (s : State) : Answer := .next (jobSpawn (elapse dt s))

/-- JOB_DEADLINE_EXPIRY (R50). -/
def execJobDeadlineExpiry (s : State) : Answer := .next (jobDeadlineExpiry s)

/-- WAITING_RECORD_SETTLE (R51). -/
def execWaitingRecordSettle (src : Nat) (s : State) : Answer := .next (waitingRecordSettle src s)

/-- SLOT_IDLE (R449). -/
def execSlotIdle (s : State) : Answer := .next (slotIdle s)

/-- The forward-copy of a source to a tenant has read the words of its record that lie in the store, in their class of R62. -/
def copyServed (src tenant : Nat) (s : State) : State :=
  match forwardJob src tenant s, sourceQueue src with
  | some j, some q => portServesReq (.copy q j.id) s
  | _, _ => s

/-- FORWARD_COPY_DONE (R49, R62). -/
def execForwardCopyDone (dt src tenant : Nat) (s : State) : Answer :=
  .next (forwardCopyDone src tenant (copyServed src tenant (elapse dt s)))

/-- JOB_LEDGER_READ (R454). -/
def execJobLedgerRead (dt : Nat) (s : State) : Answer := .next (regRead 0x34 (elapse dt s))

end Sys2Proof.Machine
end

