-- ==== Sys2Proof/Machine/UpdateFam.lean ====
section
/-! DEFINITION. The meanings of the field-update, flash and log rows (chapters 15 and 16). A Stump row carries the level
of SVC_EN and the characters between two flags. -/

namespace Sys2Proof.Machine

/-- One Stump frame arrives with SVC_EN at a level, its characters received at the rate in force (R84, R811, R857 to R860).
DEDUCED (assumption 87). -/
def stumpRow (own : Nat → List Byte → Bool) (act : List Byte → State → State) (svcEn : Bool) (raw : List SvcChar)
    (s : State) : State :=
  stump own act (svcBytes s.svc.baud raw) { s with sys := { s.sys with svcEn := svcEn } }

/-- PING (R860). -/
def execPing (dt : Nat) (svcEn : Bool) (raw : List SvcChar) (s : State) : Answer :=
  .next (stumpRow (isCmd 0x01) doPing svcEn raw (elapse dt s))

/-- INFO (R860). -/
def execInfo (dt : Nat) (svcEn : Bool) (raw : List SvcChar) (s : State) : Answer :=
  .next (stumpRow (isCmd 0x02) doInfo svcEn raw (elapse dt s))

/-- SET_BAUD (R862). -/
def execSetBaud (dt : Nat) (svcEn : Bool) (raw : List SvcChar) (s : State) : Answer :=
  .next (stumpRow (isCmd 0x03) doSetBaud svcEn raw (elapse dt s))

/-- SVC_BAUD_FALLBACK (R862). -/
def execSvcBaudFallback (s : State) : Answer := .next (svcBaudFallback s)

/-- BEGIN (R865). -/
def execBegin (dt : Nat) (svcEn : Bool) (raw : List SvcChar) (s : State) : Answer :=
  .next (stumpRow (isCmd 0x10) doBegin svcEn raw (elapse dt s))

/-- BLOCK (R867). -/
def execBlock (dt : Nat) (svcEn : Bool) (raw : List SvcChar) (s : State) : Answer :=
  .next (stumpRow (isCmd 0x11) doBlock svcEn raw (elapse dt s))

/-- END (R868). -/
def execEnd (dt : Nat) (svcEn : Bool) (raw : List SvcChar) (s : State) : Answer :=
  .next (stumpRow (isCmd 0x12) doEnd svcEn raw (elapse dt s))

/-- ACTIVATE_PARTS (R871): every ACTIVATE but the one of the core. -/
def execActivateParts (dt : Nat) (svcEn : Bool) (raw : List SvcChar) (s : State) : Answer :=
  .next (stumpRow (fun c pl => c == 0x13 && pl != [2#8]) doActivateParts svcEn raw (elapse dt s))

/-- ACTIVATE_CORE (R880). -/
def execActivateCore (dt : Nat) (svcEn : Bool) (raw : List SvcChar) (s : State) : Answer :=
  .next (stumpRow (fun c pl => c == 0x13 && pl == [2#8]) doActivateCore svcEn raw (elapse dt s))

/-- ABORT (R869). -/
def execAbort (dt : Nat) (svcEn : Bool) (raw : List SvcChar) (s : State) : Answer :=
  .next (stumpRow (isCmd 0x14) doAbort svcEn raw (elapse dt s))

/-- SVC_STATUS (R860): STATUS of Table 15-5. -/
def execSvcStatus (dt : Nat) (svcEn : Bool) (raw : List SvcChar) (s : State) : Answer :=
  .next (stumpRow (isCmd 0x15) doSvcStatus svcEn raw (elapse dt s))

/-- RESTART (R863). -/
def execRestart (dt : Nat) (svcEn : Bool) (raw : List SvcChar) (s : State) : Answer :=
  .next (stumpRow (isCmd 0x20) doRestart svcEn raw (elapse dt s))

/-- GF_ACTIVATION_END (R874). -/
def execGfActivationEnd (dt k : Nat) (startLines : List Nat) (o : GlOutcome) (s : State) : Answer :=
  .next (gfActivationEnd k startLines o (elapse dt s))

/-- GF_ACTIVATION_TIMEOUT (R875). -/
def execGfActivationTimeout (k : Nat) (s : State) : Answer := .next (gfActivationTimeout k s)

/-- GF_RESTORE_RETRY (R875). -/
def execGfRestoreRetry (k : Nat) (s : State) : Answer := .next (gfRestoreRetry k s)

/-- PM_ACTIVATION (R876). -/
def execPmActivation (dt : Nat) (s : State) : Answer := .next (pmActivation (elapse dt s))

/-- PM_SELF_TEST_END (R878): `startLines` are the ports whose LRXn shows the start level. -/
def execPmSelfTestEnd (dt : Nat) (pass : Bool) (startLines : List Nat) (s : State) : Answer :=
  .next (pmSelfTestEnd pass startLines (elapse dt s))

/-- SERVICE_RESUMED (R880). -/
def execServiceResumed (dt : Nat) (s : State) : Answer := .next (serviceResumed (elapse dt s))

/-- CF_CONFIRM (R883). -/
def execCfConfirm (dt : Nat) (s : State) : Answer := .next (cfConfirm (elapse dt s))

/-- CF_REVERT (R884). -/
def execCfRevert (s : State) : Answer := .next (cfRevert s)

/-- REJECTION_MARK_RETRY (R884). -/
def execRejectionMarkRetry (s : State) : Answer := .next (rejectionMarkRetry s)

/-- JOURNAL_COMMIT (R892). -/
def execJournalCommit (dt : Nat) (s : State) : Answer :=
  let s := elapse dt s
  .next (journalCommit (differsFromReset s) s)

/-- FLASH_PROGRAM_DONE (R848): `bad` is what the page reads when it does not read back as programmed. -/
def execFlashProgramDone (dt : Nat) (bad : Option (List Byte)) (s : State) : Answer := .next (flashProgramDone bad (elapse dt s))

/-- FLASH_ERASE_DONE (R848): `bad` is an offset and the byte found there when the sector is not blank. -/
def execFlashEraseDone (dt : Nat) (bad : Option (Nat × Byte)) (s : State) : Answer := .next (flashEraseDone bad (elapse dt s))

/-- EVENT_NOTICE (R913): a notice that waits enters the event queue. -/
def execEventNotice (dt : Nat) (s : State) : Answer := .next (writeFor 225 .events (elapse dt s))

/-- RING_PAGE_WRITE (R917). -/
def execRingPageWrite (dt : Nat) (s : State) : Answer := .next (ringPageWrite (elapse dt s))

/-- RING_PAGE_RETRY (R988). -/
def execRingPageRetry (s : State) : Answer := .next (ringPageRetry s)

end Sys2Proof.Machine
end

