-- ==== Sys2Proof/Machine/UplinkFam.lean ====
section
/-! DEFINITION. The meanings of the uplink and listener rows (chapter 10). Operands: `u` an uplink, `t` a tenant, `p` a
listener port; `bad` lists places in the queue and the 36 bits that the
consumer's refill reads there. -/

namespace Sys2Proof.Machine

/-- ETH_FRAME_RECEIVED (R595): the frame's bytes with the FCS, and RXER. -/
def execEthFrameReceived (dt u : Nat) (frame : List Byte) (rxer : Bool) (s : State) : Answer :=
  .next (ethFrameReceived u frame rxer (elapse dt s))

/-- ARP_REQUEST (R603). -/
def execArpRequest (dt u : Nat) (s : State) : Answer := .next (arpRequest u (elapse dt s))

/-- ECHO_REQUEST (R603). -/
def execEchoRequest (dt u : Nat) (s : State) : Answer := .next (echoRequest u (elapse dt s))

/-- SUBSCRIBE (R612). -/
def execSubscribe (dt u : Nat) (s : State) : Answer := .next (onRequest u 1 (doSubscribe u) (elapse dt s))

/-- PULL (R624). -/
def execPull (dt u : Nat) (bad : List (Nat × BitVec 36)) (s : State) : Answer := .next (onRequest u 2 (doPull u bad) (elapse dt s))

/-- COMMAND (R618). -/
def execCommand (dt u : Nat) (s : State) : Answer := .next (onRequest u 3 (doCommand u) (elapse dt s))

/-- TALKER_STATUS (R498). -/
def execTalkerStatus (dt u : Nat) (s : State) : Answer := .next (onRequest u 4 (doTalkerStatus u) (elapse dt s))

/-- TENANT_STATUS (R617). -/
def execTenantStatus (dt u : Nat) (s : State) : Answer := .next (onRequest u 5 (doStatus u) (elapse dt s))

/-- REFUSAL_SEND (R633). -/
def execRefusalSend (u : Nat) (s : State) : Answer := .next (refusalSend u s)

/-- MDIO_FRAME (R598): a write of MDIO_CMD. -/
def execMdioFrame (dt : Nat) (value : Word) (s : State) : Answer := .next (regWrite 0 0x71 value (elapse dt s))

/-- MDIO_FRAME_END (R598): `rdata` are the 16 bits read. -/
def execMdioFrameEnd (rdata : Nat) (s : State) : Answer := .next (mdioFrameEnd rdata s)

/-- AUTOPOLL_READ (R599): PHY register 1 reads `reg1`. -/
def execAutopollRead (dt u reg1 : Nat) (s : State) : Answer := .next (autopollRead u reg1 (elapse dt s))

/-- UPLINK_RECORD_TAKE (R621). -/
def execUplinkRecordTake (dt u t : Nat) (bad : List (Nat × BitVec 36)) (s : State) : Answer :=
  .next (uplinkRecordTake u t bad (elapse dt s))

/-- BATCH_CLOSE (R622). -/
def execBatchClose (dt t : Nat) (s : State) : Answer := .next (batchClose t (elapse dt s))

/-- DATAGRAM_BUILD (R625). -/
def execDatagramBuild (dt u : Nat) (s : State) : Answer := .next (datagramBuild u (elapse dt s))

/-- DATAGRAM_HANDOFF (R626). -/
def execDatagramHandoff (dt u : Nat) (s : State) : Answer := .next (datagramHandoff u (elapse dt s))

/-- UPLINK_LEAVE_RETRY (R625). -/
def execUplinkLeaveRetry (u : Nat) (s : State) : Answer := .next (uplinkLeaveRetry u s)

/-- UPLINK_LEAVE_RELEASE (R625). -/
def execUplinkLeaveRelease (u : Nat) (s : State) : Answer := .next (uplinkLeaveRelease u s)

/-- LISTENER_RENDER (R589). -/
def execListenerRender (dt p : Nat) (bad : List (Nat × BitVec 36)) (s : State) : Answer := .next (listenerRender p bad (elapse dt s))

/-- LISTENER_RENDER_DONE (R589). -/
def execListenerRenderDone (dt p : Nat) (s : State) : Answer := .next (listenerRenderDone p (elapse dt s))

end Sys2Proof.Machine
end

