-- ==== Sys2Proof/Machine/Dispatch.lean ====
section
/-! DEFINITION. What each command does: one arm per constructor, each one call of its meaning. -/

namespace Sys2Proof.Machine

def exec (i : Instr) (s : State) : Host.Outcome State Fault Refusal :=
  match i with
  -- Start-up
  | .powerOnReset dt => Sys2Proof.Machine.execPowerOnReset dt s
  | .resetN dt lowNs => Sys2Proof.Machine.execResetN dt lowNs s
  | .pllLoss dt => Sys2Proof.Machine.execPllLoss dt s
  | .watchdogExpiry dt => Sys2Proof.Machine.execWatchdogExpiry dt s
  | .softwareReset dt value => Sys2Proof.Machine.execSoftwareReset dt value s
  | .softwareResetStart wait => Sys2Proof.Machine.execSoftwareResetStart wait s
  | .resetRelease dt recoveryN => Sys2Proof.Machine.execResetRelease dt recoveryN s
  | .pllLock dt => Sys2Proof.Machine.execPllLock dt s
  | .flashReady dt => Sys2Proof.Machine.execFlashReady dt s
  | .cfStart dt failing again => Sys2Proof.Machine.execCfStart dt failing again s
  | .guardWaitEnd dt => Sys2Proof.Machine.execGuardWaitEnd dt s
  | .recoveryPowerOff dt => Sys2Proof.Machine.execRecoveryPowerOff dt s
  | .guardBoot dt k ver b => Sys2Proof.Machine.execGuardBoot dt k ver b s
  | .guardVddioLow dt k => Sys2Proof.Machine.execGuardVddioLow dt k s
  -- Clock
  | .secondsCarry => Sys2Proof.Machine.execSecondsCarry s
  | .tmOutPulseEnd => Sys2Proof.Machine.execTmOutPulseEnd s
  | .tmOutEnable dt => Sys2Proof.Machine.execTmOutEnable dt s
  | .tmOutDisable dt => Sys2Proof.Machine.execTmOutDisable dt s
  | .set dt => Sys2Proof.Machine.execSet dt s
  | .step dt => Sys2Proof.Machine.execStep dt s
  | .lockEnable dt => Sys2Proof.Machine.execLockEnable dt s
  | .lockDisable dt => Sys2Proof.Machine.execLockDisable dt s
  | .tmInMark dt falling widthNs => Sys2Proof.Machine.execTmInMark dt falling widthNs s
  | .markTimeout => Sys2Proof.Machine.execMarkTimeout s
  | .rtNowSecRead dt => Sys2Proof.Machine.execRtNowSecRead dt s
  -- Line ports
  | .characterReceived p samples edges => Sys2Proof.Machine.execCharacterReceived p samples edges s
  | .startGlitch dt p => Sys2Proof.Machine.execStartGlitch dt p s
  | .lineFormatWrite dt p ctrl value => Sys2Proof.Machine.execLineFormatWrite dt p ctrl value s
  | .stagingMoveDone dt p => Sys2Proof.Machine.execStagingMoveDone dt p s
  | .breakDetected p => Sys2Proof.Machine.execBreakDetected p s
  | .rxTimeout p => Sys2Proof.Machine.execRxTimeout p s
  | .txRecordStart dt p => Sys2Proof.Machine.execTxRecordStart dt p s
  | .leadEnd p => Sys2Proof.Machine.execLeadEnd p s
  | .txCharacterDone p => Sys2Proof.Machine.execTxCharacterDone p s
  | .txTailEnd p => Sys2Proof.Machine.execTxTailEnd p s
  | .txBreak dt p => Sys2Proof.Machine.execTxBreak dt p s
  | .breakStart dt p => Sys2Proof.Machine.execBreakStart dt p s
  | .breakEnd p => Sys2Proof.Machine.execBreakEnd p s
  | .markingEnd p => Sys2Proof.Machine.execMarkingEnd p s
  | .portDisable dt p => Sys2Proof.Machine.execPortDisable dt p s
  | .rxCharsRead dt p => Sys2Proof.Machine.execRxCharsRead dt p s
  | .t35Expiry p => Sys2Proof.Machine.execT35Expiry p s
  | .sentenceTimeout p => Sys2Proof.Machine.execSentenceTimeout p s
  | .markAbandon p => Sys2Proof.Machine.execMarkAbandon p s
  -- Card ports
  | .cardInsert n => Sys2Proof.Machine.execCardInsert n s
  | .cardRemove dt n => Sys2Proof.Machine.execCardRemove dt n s
  | .cardClockStart n => Sys2Proof.Machine.execCardClockStart n s
  | .cardResetRelease n => Sys2Proof.Machine.execCardResetRelease n s
  | .tsHuntStart n => Sys2Proof.Machine.execTsHuntStart n s
  | .atrFail n => Sys2Proof.Machine.execAtrFail n s
  | .cardCharacterReceived dt n samples => Sys2Proof.Machine.execCardCharacterReceived dt n samples s
  | .cardCharacterSent n lowFrom lowTo => Sys2Proof.Machine.execCardCharacterSent n lowFrom lowTo s
  | .wtExpired n => Sys2Proof.Machine.execWtExpired n s
  | .cxGo dt n dir => Sys2Proof.Machine.execCxGo dt n dir s
  | .cardReset dt n => Sys2Proof.Machine.execCardReset dt n s
  | .deact dt n => Sys2Proof.Machine.execDeact dt n s
  | .cardDeactivationEnd n => Sys2Proof.Machine.execCardDeactivationEnd n s
  | .cp1Enable dt => Sys2Proof.Machine.execCp1Enable dt s
  | .cardPortDisable dt n => Sys2Proof.Machine.execCardPortDisable dt n s
  | .keyloadScript wait r => Sys2Proof.Machine.execKeyloadScript wait r s
  | .badgeScript wait r => Sys2Proof.Machine.execBadgeScript wait r s
  -- Scheduler and jobs
  | .periodBoundary g => Sys2Proof.Machine.execPeriodBoundary g s
  | .transactionStart dt p => Sys2Proof.Machine.execTransactionStart dt p s
  | .responseWindowClose dt p => Sys2Proof.Machine.execResponseWindowClose dt p s
  | .measurementWaitEnd e => Sys2Proof.Machine.execMeasurementWaitEnd e s
  | .groupEnable dt g => Sys2Proof.Machine.execGroupEnable dt g s
  | .groupDisable dt g => Sys2Proof.Machine.execGroupDisable dt g s
  | .schedulerDisable dt => Sys2Proof.Machine.execSchedulerDisable dt s
  | .jobSpawn dt => Sys2Proof.Machine.execJobSpawn dt s
  | .jobDeadlineExpiry => Sys2Proof.Machine.execJobDeadlineExpiry s
  | .waitingRecordSettle src => Sys2Proof.Machine.execWaitingRecordSettle src s
  | .slotIdle => Sys2Proof.Machine.execSlotIdle s
  | .forwardCopyDone dt src tenant => Sys2Proof.Machine.execForwardCopyDone dt src tenant s
  | .jobLedgerRead dt => Sys2Proof.Machine.execJobLedgerRead dt s
  -- Canopy and tenants
  | .classificationStart dt => Sys2Proof.Machine.execClassificationStart dt s
  | .classificationEnd => Sys2Proof.Machine.execClassificationEnd s
  | .canopyWriteEffect dt => Sys2Proof.Machine.execCanopyWriteEffect dt s
  | .canopyHold dt => Sys2Proof.Machine.execCanopyHold dt s
  | .canopyResume dt => Sys2Proof.Machine.execCanopyResume dt s
  | .sourceGapRemove dt => Sys2Proof.Machine.execSourceGapRemove dt s
  | .tenantEnable dt t => Sys2Proof.Machine.execTenantEnable dt t s
  | .tenantDisable dt t => Sys2Proof.Machine.execTenantDisable dt t s
  | .keyWrite dt t k0 k1 k2 k3 => Sys2Proof.Machine.execKeyWrite dt t k0 k1 k2 k3 s
  -- Queues and the store
  | .producerAdmit dt q place => Sys2Proof.Machine.execProducerAdmit dt q place s
  | .queueWordWrite dt q => Sys2Proof.Machine.execQueueWordWrite dt q s
  | .headMove dt q => Sys2Proof.Machine.execHeadMove dt q s
  | .spill dt q => Sys2Proof.Machine.execSpill dt q s
  | .allocationEnd dt q => Sys2Proof.Machine.execAllocationEnd dt q s
  | .releaseEnd dt q => Sys2Proof.Machine.execReleaseEnd dt q s
  | .refill dt q bad => Sys2Proof.Machine.execRefill dt q bad s
  | .verifyPass dt q => Sys2Proof.Machine.execVerifyPass dt q s
  | .verifyPassEnd dt q bad => Sys2Proof.Machine.execVerifyPassEnd dt q bad s
  | .gapWordWrite dt q => Sys2Proof.Machine.execGapWordWrite dt q s
  | .clear dt q => Sys2Proof.Machine.execClear dt q s
  | .clearingEffect dt q => Sys2Proof.Machine.execClearingEffect dt q s
  | .clearingEnd dt q => Sys2Proof.Machine.execClearingEnd dt q s
  | .blkFreeRead dt => Sys2Proof.Machine.execBlkFreeRead dt s
  | .crGuarUsedRead dt => Sys2Proof.Machine.execCrGuarUsedRead dt s
  -- Management port
  | .read dt arg cnt crc rest => Sys2Proof.Machine.execRead dt arg cnt crc rest s
  | .write dt arg data crc => Sys2Proof.Machine.execWrite dt arg data crc s
  | .qread dt arg n crc => Sys2Proof.Machine.execQread dt arg n crc s
  | .qreadRepeat dt q n crc => Sys2Proof.Machine.execQreadRepeat dt q n crc s
  | .qreadWaitEnd dt => Sys2Proof.Machine.execQreadWaitEnd dt s
  | .qreadAbandon dt => Sys2Proof.Machine.execQreadAbandon dt s
  | .qwrite dt arg words crc => Sys2Proof.Machine.execQwrite dt arg words crc s
  | .qwriteDone dt => Sys2Proof.Machine.execQwriteDone dt s
  | .qwriteCsRise dt => Sys2Proof.Machine.execQwriteCsRise dt s
  | .status dt arg cnt crc => Sys2Proof.Machine.execStatus dt arg cnt crc s
  | .unknownOpcode dt op arg cnt crc => Sys2Proof.Machine.execUnknownOpcode dt op arg cnt crc s
  | .frameAbort dt => Sys2Proof.Machine.execFrameAbort dt s
  | .windowSpaceWrite dt w value => Sys2Proof.Machine.execWindowSpaceWrite dt w value s
  | .hcmdGo dt => Sys2Proof.Machine.execHcmdGo dt s
  | .bodyClr dt => Sys2Proof.Machine.execBodyClr dt s
  | .hcmdBodyWrite dt value => Sys2Proof.Machine.execHcmdBodyWrite dt value s
  | .registerWrite dt space addr value => Sys2Proof.Machine.execRegisterWrite dt space addr value s
  -- Uplinks and listeners
  | .ethFrameReceived dt u frame rxer => Sys2Proof.Machine.execEthFrameReceived dt u frame rxer s
  | .arpRequest dt u => Sys2Proof.Machine.execArpRequest dt u s
  | .echoRequest dt u => Sys2Proof.Machine.execEchoRequest dt u s
  | .subscribe dt u => Sys2Proof.Machine.execSubscribe dt u s
  | .pull dt u bad => Sys2Proof.Machine.execPull dt u bad s
  | .command dt u => Sys2Proof.Machine.execCommand dt u s
  | .talkerStatus dt u => Sys2Proof.Machine.execTalkerStatus dt u s
  | .tenantStatus dt u => Sys2Proof.Machine.execTenantStatus dt u s
  | .refusalSend u => Sys2Proof.Machine.execRefusalSend u s
  | .mdioFrame dt value => Sys2Proof.Machine.execMdioFrame dt value s
  | .mdioFrameEnd rdata => Sys2Proof.Machine.execMdioFrameEnd rdata s
  | .autopollRead dt u reg1 => Sys2Proof.Machine.execAutopollRead dt u reg1 s
  | .uplinkRecordTake dt u t bad => Sys2Proof.Machine.execUplinkRecordTake dt u t bad s
  | .batchClose dt t => Sys2Proof.Machine.execBatchClose dt t s
  | .datagramBuild dt u => Sys2Proof.Machine.execDatagramBuild dt u s
  | .datagramHandoff dt u => Sys2Proof.Machine.execDatagramHandoff dt u s
  | .uplinkLeaveRetry u => Sys2Proof.Machine.execUplinkLeaveRetry u s
  | .uplinkLeaveRelease u => Sys2Proof.Machine.execUplinkLeaveRelease u s
  | .listenerRender dt p bad => Sys2Proof.Machine.execListenerRender dt p bad s
  | .listenerRenderDone dt p => Sys2Proof.Machine.execListenerRenderDone dt p s
  -- Guards
  | .gread dt who reg count o => Sys2Proof.Machine.execGread dt who reg count o s
  | .gwrite dt wide j o => Sys2Proof.Machine.execGwrite dt wide j o s
  | .trimStart dt p o => Sys2Proof.Machine.execTrimStart dt p o s
  | .sliceStart dt p o => Sys2Proof.Machine.execSliceStart dt p o s
  | .pwrSwitch dt p on vfield o => Sys2Proof.Machine.execPwrSwitch dt p on vfield o s
  | .alertFetch dt k startLines o => Sys2Proof.Machine.execAlertFetch dt k startLines o s
  | .ident dt k o => Sys2Proof.Machine.execIdent dt k o s
  | .fwBlock dt k o => Sys2Proof.Machine.execFwBlock dt k o s
  | .fwActivate dt k o => Sys2Proof.Machine.execFwActivate dt k o s
  | .glAlertN dt => Sys2Proof.Machine.execGlAlertN dt s
  | .shadowRefresh dt k vfield temp meas o => Sys2Proof.Machine.execShadowRefresh dt k vfield temp meas o s
  | .cmFault dt p => Sys2Proof.Machine.execCmFault dt p s
  | .pwrEnSet dt p => Sys2Proof.Machine.execPwrEnSet dt p s
  | .pwrEnClear dt p => Sys2Proof.Machine.execPwrEnClear dt p s
  | .inrushTimerExpiry p reached => Sys2Proof.Machine.execInrushTimerExpiry p reached s
  | .pwrFault dt p cause => Sys2Proof.Machine.execPwrFault dt p cause s
  | .retryWaitExpiry p => Sys2Proof.Machine.execRetryWaitExpiry p s
  | .trimReq dt p => Sys2Proof.Machine.execTrimReq dt p s
  | .trimWanted dt p temp => Sys2Proof.Machine.execTrimWanted dt p temp s
  | .guardLineEnable dt p => Sys2Proof.Machine.execGuardLineEnable dt p s
  | .trimDeferTimeout p => Sys2Proof.Machine.execTrimDeferTimeout p s
  | .trimEnd dt p codes => Sys2Proof.Machine.execTrimEnd dt p codes s
  | .leakMeasurementStart p => Sys2Proof.Machine.execLeakMeasurementStart p s
  | .sliceSkip dt p => Sys2Proof.Machine.execSliceSkip dt p s
  | .sliceEnd p kohm => Sys2Proof.Machine.execSliceEnd p kohm s
  | .slicePreempt dt p => Sys2Proof.Machine.execSlicePreempt dt p s
  | .leakWindowExpiry p => Sys2Proof.Machine.execLeakWindowExpiry p s
  | .guardDieHot dt k temp => Sys2Proof.Machine.execGuardDieHot dt k temp s
  -- Leave
  | .leaveGrant dt => Sys2Proof.Machine.execLeaveGrant dt s
  | .leaveTimeout => Sys2Proof.Machine.execLeaveTimeout s
  | .budgetWrite dt field units => Sys2Proof.Machine.execBudgetWrite dt field units s
  | .budgetChangeEffect dt => Sys2Proof.Machine.execBudgetChangeEffect dt s
  | .lvLedgerRead dt => Sys2Proof.Machine.execLvLedgerRead dt s
  | .dieTempUpdate dt temp => Sys2Proof.Machine.execDieTempUpdate dt temp s
  -- Field update, flash and logs
  | .ping dt svcEn raw => Sys2Proof.Machine.execPing dt svcEn raw s
  | .info dt svcEn raw => Sys2Proof.Machine.execInfo dt svcEn raw s
  | .setBaud dt svcEn raw => Sys2Proof.Machine.execSetBaud dt svcEn raw s
  | .svcBaudFallback => Sys2Proof.Machine.execSvcBaudFallback s
  | .begin_ dt svcEn raw => Sys2Proof.Machine.execBegin dt svcEn raw s
  | .block dt svcEn raw => Sys2Proof.Machine.execBlock dt svcEn raw s
  | .end_ dt svcEn raw => Sys2Proof.Machine.execEnd dt svcEn raw s
  | .activateParts dt svcEn raw => Sys2Proof.Machine.execActivateParts dt svcEn raw s
  | .activateCore dt svcEn raw => Sys2Proof.Machine.execActivateCore dt svcEn raw s
  | .abort dt svcEn raw => Sys2Proof.Machine.execAbort dt svcEn raw s
  | .svcStatus dt svcEn raw => Sys2Proof.Machine.execSvcStatus dt svcEn raw s
  | .restart dt svcEn raw => Sys2Proof.Machine.execRestart dt svcEn raw s
  | .gfActivationEnd dt k startLines o => Sys2Proof.Machine.execGfActivationEnd dt k startLines o s
  | .gfActivationTimeout k => Sys2Proof.Machine.execGfActivationTimeout k s
  | .gfRestoreRetry k => Sys2Proof.Machine.execGfRestoreRetry k s
  | .pmActivation dt => Sys2Proof.Machine.execPmActivation dt s
  | .pmSelfTestEnd dt pass startLines => Sys2Proof.Machine.execPmSelfTestEnd dt pass startLines s
  | .serviceResumed dt => Sys2Proof.Machine.execServiceResumed dt s
  | .cfConfirm dt => Sys2Proof.Machine.execCfConfirm dt s
  | .cfRevert => Sys2Proof.Machine.execCfRevert s
  | .rejectionMarkRetry => Sys2Proof.Machine.execRejectionMarkRetry s
  | .journalCommit dt => Sys2Proof.Machine.execJournalCommit dt s
  | .flashProgramDone dt bad => Sys2Proof.Machine.execFlashProgramDone dt bad s
  | .flashEraseDone dt bad => Sys2Proof.Machine.execFlashEraseDone dt bad s
  | .eventNotice dt => Sys2Proof.Machine.execEventNotice dt s
  | .ringPageWrite dt => Sys2Proof.Machine.execRingPageWrite dt s
  | .ringPageRetry => Sys2Proof.Machine.execRingPageRetry s
  -- Rows at the end of the table
  | .startBitValidated dt p => Sys2Proof.Machine.execStartBitValidated dt p s
  | .possibleBreakIdle dt p => Sys2Proof.Machine.execPossibleBreakIdle dt p s
  | .huntResumeAfterBreak dt p => Sys2Proof.Machine.execHuntResumeAfterBreak dt p s
  | .cmFaultEnd dt p => Sys2Proof.Machine.execCmFaultEnd dt p s
  | .guardVddioReturn dt k => Sys2Proof.Machine.execGuardVddioReturn dt k s
  | .cardDebounceStart dt n => Sys2Proof.Machine.execCardDebounceStart dt n s

end Sys2Proof.Machine
end

