-- ==== Sys2Proof/Machine/Step.lean ====
section
/-! DEFINITION. One step of the block: the command at the front of the queue runs on the machine with the rest of the
queue. On an empty queue one CORE cycle passes (DESIGN CHOICE, assumption 2). -/

namespace Sys2Proof.Machine

/-- One step. DESIGN CHOICE (assumptions 2, 7). -/
def step (s : State) : Host.Outcome State Fault Refusal :=
  match s.pending with
  | [] => .next (elapse 1 s)
  | c :: rest => exec c { s with pending := rest }

/-- Put the command that a table word spells at the front of the queue. No row of the opcode table gives bits, so no word
spells a command and the state stays as it is. -/
def State.withFetchWord (s : State) (nbits w : Nat) : State :=
  match decodeTableWord nbits w with
  | some c => { s with pending := c :: s.pending }
  | none => s

end Sys2Proof.Machine
end

