-- ==== Sys2Proof/Safety.lean ====
section
/-! DEFINITION. What counts as a safe run: no step faults, and none is refused. Then the terms in which statements speak
of register writes: a write that is taken, and what a taken write leaves. -/

namespace Sys2Proof.Safety

/-- A step from the state answers a next state. -/
def goesOn (s : Machine.State) : Prop := ∃ t, Machine.step s = .next t

/-- Every step of a run of `n` steps answers a next state. -/
def runsOn : Nat → Machine.State → Prop
  | 0, _ => True
  | n + 1, s => ∃ t, Machine.step s = .next t ∧ runsOn n t

/-! ### Register writes -/

open Sys2Proof.Machine

/-- Two states agree in every unit: they may differ in the register file and in the marks of the CORE cycle. -/
def sameUnits (s t : State) : Prop := t = { s with regs := t.regs, cyc := t.cyc }

/-- The word address that a write of some fields of entry `i` goes to. -/
def wordOf (f : Fld) (i : Nat) : Nat := f.stride * i + f.word

/-- A write of fields of one word of entry `i` is taken: the management port serves frames, the word is present, and it
passes every check that its register's rules make. -/
abbrev taken (i : Nat) (f : Fld) (fs : List (Fld × Nat)) (s : State) : Prop :=
  mpServes s = true ∧ place f.space (wordOf f i) s = .present ∧
  firstFail (wordChecks f.space (wordOf f i) (modified f.space (wordOf f i) fs s).toNat s
    (writeFields f.space (wordOf f i) (modified f.space (wordOf f i) fs s).toNat s)) = none

/-- What a taken write leaves: the fields it gives hold their values, every other field stands, the units stand but for
what the write starts (`act`), the journal is owed the word, and the answer is OK. -/
def wrote (i : Nat) (f : Fld) (fs : List (Fld × Nat)) (act : State → State) (s t : State) : Prop :=
  ∃ w l, sameUnits s w ∧ (∀ y ∈ fs, y.1.acc = .rw → get y.1 i w = y.2 % 2 ^ y.1.width) ∧
    (∀ x ∈ wordFields f.space (wordOf f i), x.1 ∉ fs.map Prod.fst ∨ x.1.acc ≠ .rw → get x.1 x.2 w = get x.1 x.2 s) ∧
    (∀ g j, (∀ x ∈ wordFields f.space (wordOf f i), g.key j ≠ x.1.key x.2) → get g j w = get g j s) ∧
    t = { act w with
      mp := { (act w).mp with answer := 0 }
      cfg := { (act w).cfg with owed := (act w).cfg.owed ++ l } }

/-! ### Line ports -/

/-- The scheduler has nothing to learn from the receive side of port `p`: no reply waits to be judged, and no aborted poll waits
for its line action. -/
abbrev quiet (p : Nat) (s : State) : Prop := (pGet p s).reply = none ∧ (copGet p s).ending = none

/-- The logical levels at samples 1 to K of character `x`, from those of ball LRXn: POL inverts them, and a common-mode fault
forces the ball high (R145, R220). -/
def sampled (p : Nat) (x : RxChar) (sm : List Bool) (s : State) : List Bool :=
  sm.zipIdx.map fun b => x.fmt.ball (b.1 || forcedHigh p (cyclesLine (x.c0 + sampleLine (b.2 + 1) x.inc)) s)

/-- Data, parity and stop samples all show the start level (R167). -/
def allStart (x : RxChar) (l : List Bool) : Bool :=
  !(l.getD (x.fmt.stopSample - 1) false) && (l.take x.fmt.dataBits).all (! ·) &&
  (x.fmt.parity == 0 || !(l.getD x.fmt.dataBits false))

/-- The CORE cycle in which RX_TIMEOUT character times have passed since `l` (R178). -/
def rxDue (p l : Nat) (s : State) : Nat :=
  l + cyclesLine (halfBitsLine (get PT.RX_TIMEOUT p s * (pGet p s).rxF.halfBits) (pGet p s).rxF.inc)

/-- The CORE cycle in which t3.5 has passed since `e` (R300). -/
def t35Due (p e : Nat) (s : State) : Nat := e + cyclesLine (t35Line (pGet p s).rxF)

/-- The CORE cycle in which SENT_TIMEOUT_MS has passed since `l` (R285). -/
def sentDue (p l : Nat) (s : State) : Nat := l + cyclesMs (get PT.SENT_TIMEOUT_MS p s)

/-- The CORE cycle in which 64 character times have passed since `l` (R321). -/
def markDue (p l : Nat) (s : State) : Nat := l + cyclesLine (halfBitsLine (64 * (pGet p s).rxF.halfBits) (pGet p s).rxF.inc)

/-! ### Queues -/

/-- The middle of queue `q` as spills leave it: no block holds more words than were written to it, and only the newest can
have none written (R531). -/
abbrev blocksKept (q : Nat) (s : State) : Prop :=
  (∀ b ∈ (qGet q s).mid, b.words.length ≤ b.written) ∧ ∀ b ∈ (qGet q s).mid.dropLast, 0 < b.written

/-! ### Tenant requests -/

/-- The requests that a row of this TYPE judges: its own TYPE, and one that no row names. -/
def ofType (typ : Nat) (a : Arrival) : Bool := a.kind == .request && (reqType a == typ || !([1, 2, 3, 4, 5].contains (reqType a)))

/-- Request `a` of uplink `u` is taken up, `r` stay behind it. -/
def takenUp (u : Nat) (r : List Arrival) (s : State) : State := uMap u (fun x => { x with inbox := r }) (noFrames s)

/-- RX_CTR, the TAG that a mirrored copy repeats, and CTR_EXHAUST, as a request that passes check 4 leaves them (R505, R630). -/
def counted (a : Arrival) (s : State) : State :=
  let t := reqField a.bytes 4 2
  let s := put TN.RX_CTR t (reqField a.bytes 8 4) s
  let s := tMap t (fun x => { x with rxTag := some (a.bytes.drop (12 + reqField a.bytes 6 2), a.at_) }) s
  if reqField a.bytes 8 4 = 4294967295 then setBits TN.CTR_EXHAUST t 1 s else s

/-- The oldest request of this TYPE on uplink `u` is `a`, and it passes every check of Table 10-5. -/
abbrev admitted (u typ : Nat) (a : Arrival) (r : List Arrival) (s : State) : Prop :=
  takeArrival (ofType typ) (uGet u s).inbox = some (a, r) ∧ reqType a = typ ∧
  checkFront u a (takenUp u r s) = none ∧ mirrorCopy a (takenUp u r s) = false ∧
  get TN.RX_CTR (reqField a.bytes 4 2) s < reqField a.bytes 8 4 ∧ checkBack u a (counted a (takenUp u r s)) = none

/-! ### Stump frames -/

/-- The characters between two flags carry a new command (CMD, FSN, payload) that the service port takes up (R857, R859). -/
abbrev fresh (cmd fsn : Nat) (pl : List Byte) (raw : List SvcChar) (s : State) : Prop :=
  svServed s = true ∧ s.sys.phase ≠ .paused ∧ s.svc.running = none ∧ s.svc.last ≠ some (cmd, fsn, pl) ∧
  stumpParse (svcBytes s.svc.baud raw) = some (cmd, fsn, pl)

/-- The reply to a Stump command with its CRC (R858). -/
def replyOf (cmd fsn status : Nat) (extra : List Byte) : List Byte :=
  let pl := byte status :: extra
  let b := [byte (cmd ||| 0x80), byte fsn] ++ beBytes 2 pl.length ++ pl
  b ++ beBytes 2 (crcStump b)

/-- The reply has gone out, between flags and stuffed, and no command runs. -/
def replied (r : List Byte) (t : State) : Prop :=
  t.svc.reply = r ∧ t.svc.sent = [0x7E#8] ++ stuff r ++ [0x7E#8] ∧ t.svc.running = none

/-- The command stands and its flash operations wait behind the others; it has no reply yet. -/
def submitted (cmd fsn : Nat) (pl : List Byte) (why : FlashFor) (ops : List FlashOp) (s t : State) : Prop :=
  t.svc.running = some (cmd, fsn, pl) ∧ t.flash.jobs = s.flash.jobs ++ [⟨why, false, ops⟩] ∧ t.svc.sent = []

end Sys2Proof.Safety
end

