-- ==== Sys2Proof/WellFormed.lean ====
section
/-! DEFINITION. Which commands a variant can receive: every index names a unit that the variant has (Table 0-1, R7, R749),
and every number fits the bits that carry it. An ill-formed command still has a meaning; what it names is absent. -/

namespace Sys2Proof.WellFormed

/-- A line port of the variant. -/
def line (v : Variant) (p : Nat) : Bool := decide (p < Config.ports v)
/-- A card port. -/
def card (v : Variant) (n : Nat) : Bool := decide (n < Config.cards v)
/-- A guard. -/
def guard (v : Variant) (k : Nat) : Bool := decide (k < Config.guards v)
/-- A scan group. -/
def group (g : Nat) : Bool := decide (g < Config.groups)
/-- A poll entry. -/
def poll (v : Variant) (i : Nat) : Bool := decide (i < Config.talkers v)
/-- A tenant. -/
def isTenant (v : Variant) (t : Nat) : Bool := decide (t < Config.tenants v)
/-- A queue. -/
def queue (v : Variant) (q : Nat) : Bool := Config.queuePresent v q
/-- An uplink. -/
def uplink (v : Variant) (u : Nat) : Bool := decide (u < Config.uplinks v)
/-- A source of the Canopy (R31). -/
def source (v : Variant) (src : Nat) : Bool :=
  line v src || (decide (48 ≤ src) && card v (src - 48)) || src == 50
/-- The direct map, or an indirect space of Table 12-8. -/
def isSpace (sp : Nat) : Bool := decide (sp ≤ 13)
/-- A window. -/
def window (w : Nat) : Bool := decide (w < 4)
/-- A DIR code. -/
def dirCode (d : Nat) : Bool := decide (d < 4)
/-- A number of one byte. -/
def byteSized (x : Nat) : Bool := decide (x < 2 ^ 8)
/-- A number of two bytes. -/
def halfSized (x : Nat) : Bool := decide (x < 2 ^ 16)
/-- A number of four bytes. -/
def wordSized (x : Nat) : Bool := decide (x < 2 ^ 32)
/-- An address of a space. -/
def addrSized (a : Nat) : Bool := decide (a < 2 ^ 20)
/-- Leave units as a budget field holds them. -/
def unitCount (x : Nat) : Bool := decide (x < 2 ^ 13)
/-- The words of a QWRITE, each with a tag byte. -/
def tagged (ws : List (Nat × Word)) : Bool := ws.all fun e => byteSized e.1
/-- A cause of Table 4-3. -/
def faultCause (c : Nat) : Bool := decide (c < 16)
/-- A transaction has at most 2 repeats and 32 hold-off bytes (R212, R214). -/
def linked (o : GlOutcome) : Bool := decide (o.badReplies ≤ 2) && decide (o.hold ≤ 32)
/-- An exchange of a script that went through has its status words; it is neither removed, disabled nor late. -/
def scripted (r : ScriptReply) : Bool :=
  (r.sw2.isNone || r.sw1.isSome) && (!r.result.good || r.sw2.isSome) &&
  !(r.result == .removed || r.result == .disabled || r.result == .late)
/-- The words of a GREAD lie in a line's 16. -/
def readSpan (reg count : Nat) : Bool := decide (0 < count) && decide (reg + count ≤ 16)
/-- Ports of the variant. -/
def lines (v : Variant) (l : List Nat) : Bool := l.all (line v)
/-- PM groups of the variant. -/
def pmGroups (v : Variant) (l : List Nat) : Bool := l.all fun g => decide (g < Config.pmGroups v)
/-- The nine samples of a card character. -/
def nine (l : List Bool) : Bool := l.length == 9

end Sys2Proof.WellFormed

namespace Sys2Proof

open WellFormed in
/-- A command that the variant can receive. -/
def Instr.wellFormed (v : Variant) : Instr → Bool
  -- Start-up
  | .powerOnReset _ => true
  | .resetN _ _ => true
  | .pllLoss _ => true
  | .watchdogExpiry _ => true
  | .softwareReset _ _ => true
  | .softwareResetStart _ => true
  | .resetRelease _ _ => true
  | .pllLock _ => true
  | .flashReady _ => true
  | .cfStart _ failing again => pmGroups v failing && pmGroups v again
  | .guardWaitEnd _ => true
  | .recoveryPowerOff _ => true
  | .guardBoot _ k ver _ => guard v k && wordSized ver
  | .guardVddioLow _ k => guard v k
  -- Clock
  | .secondsCarry => true
  | .tmOutPulseEnd => true
  | .tmOutEnable _ => true
  | .tmOutDisable _ => true
  | .set _ => true
  | .step _ => true
  | .lockEnable _ => true
  | .lockDisable _ => true
  | .tmInMark _ _ _ => true
  | .markTimeout => true
  | .rtNowSecRead _ => true
  -- Line ports
  | .characterReceived p _ _ => line v p
  | .startGlitch _ p => line v p
  | .lineFormatWrite _ p _ _ => line v p
  | .stagingMoveDone _ p => line v p
  | .breakDetected p => line v p
  | .rxTimeout p => line v p
  | .txRecordStart _ p => line v p
  | .leadEnd p => line v p
  | .txCharacterDone p => line v p
  | .txTailEnd p => line v p
  | .txBreak _ p => line v p
  | .breakStart _ p => line v p
  | .breakEnd p => line v p
  | .markingEnd p => line v p
  | .portDisable _ p => line v p
  | .rxCharsRead _ p => line v p
  | .t35Expiry p => line v p
  | .sentenceTimeout p => line v p
  | .markAbandon p => line v p
  -- Card ports
  | .cardInsert n => card v n
  | .cardRemove _ n => card v n
  | .cardClockStart n => card v n
  | .cardResetRelease n => card v n
  | .tsHuntStart n => card v n
  | .atrFail n => card v n
  | .cardCharacterReceived _ n samples => card v n && nine samples
  | .cardCharacterSent n _ _ => card v n
  | .wtExpired n => card v n
  | .cxGo _ n dir => card v n && dirCode dir
  | .cardReset _ n => card v n
  | .deact _ n => card v n
  | .cardDeactivationEnd n => card v n
  | .cp1Enable _ => true
  | .cardPortDisable _ n => card v n
  | .keyloadScript _ r => scripted r
  | .badgeScript _ r => scripted r
  -- Scheduler and jobs
  | .periodBoundary g => group g
  | .transactionStart _ p => line v p
  | .responseWindowClose _ p => line v p
  | .measurementWaitEnd e => poll v e
  | .groupEnable _ g => group g
  | .groupDisable _ g => group g
  | .schedulerDisable _ => true
  | .jobSpawn _ => true
  | .jobDeadlineExpiry => true
  | .waitingRecordSettle src => source v src
  | .slotIdle => true
  | .forwardCopyDone _ src tenant => source v src && isTenant v tenant
  | .jobLedgerRead _ => true
  -- Canopy and tenants
  | .classificationStart _ => true
  | .classificationEnd => true
  | .canopyWriteEffect _ => true
  | .canopyHold _ => true
  | .canopyResume _ => true
  | .sourceGapRemove _ => true
  | .tenantEnable _ t => isTenant v t
  | .tenantDisable _ t => isTenant v t
  | .keyWrite _ t _ _ _ _ => isTenant v t
  -- Queues and the store
  | .producerAdmit _ q _ => queue v q
  | .queueWordWrite _ q => queue v q
  | .headMove _ q => queue v q
  | .spill _ q => queue v q
  | .allocationEnd _ q => queue v q
  | .releaseEnd _ q => queue v q
  | .refill _ q _ => queue v q
  | .verifyPass _ q => queue v q
  | .verifyPassEnd _ q _ => queue v q
  | .gapWordWrite _ q => queue v q
  | .clear _ q => queue v q
  | .clearingEffect _ q => queue v q
  | .clearingEnd _ q => queue v q
  | .blkFreeRead _ => true
  | .crGuarUsedRead _ => true
  -- Management port
  | .read _ arg cnt crc _ => halfSized arg && byteSized cnt && byteSized crc
  | .write _ arg _ crc => halfSized arg && byteSized crc
  | .qread _ arg n crc => halfSized arg && byteSized n && byteSized crc
  | .qreadRepeat _ q n crc => queue v q && byteSized n && byteSized crc
  | .qreadWaitEnd _ => true
  | .qreadAbandon _ => true
  | .qwrite _ arg words crc => halfSized arg && tagged words && byteSized crc
  | .qwriteDone _ => true
  | .qwriteCsRise _ => true
  | .status _ arg cnt crc => halfSized arg && byteSized cnt && byteSized crc
  | .unknownOpcode _ op arg cnt crc => byteSized op && halfSized arg && byteSized cnt && byteSized crc
  | .frameAbort _ => true
  | .windowSpaceWrite _ w _ => window w
  | .hcmdGo _ => true
  | .bodyClr _ => true
  | .hcmdBodyWrite _ _ => true
  | .registerWrite _ space addr _ => isSpace space && addrSized addr
  -- Uplinks and listeners
  | .ethFrameReceived _ u _ _ => uplink v u
  | .arpRequest _ u => uplink v u
  | .echoRequest _ u => uplink v u
  | .subscribe _ u => uplink v u
  | .pull _ u _ => uplink v u
  | .command _ u => uplink v u
  | .talkerStatus _ u => uplink v u
  | .tenantStatus _ u => uplink v u
  | .refusalSend u => uplink v u
  | .mdioFrame _ _ => true
  | .mdioFrameEnd rdata => halfSized rdata
  | .autopollRead _ u reg1 => uplink v u && halfSized reg1
  | .uplinkRecordTake _ u t _ => uplink v u && isTenant v t
  | .batchClose _ t => isTenant v t
  | .datagramBuild _ u => uplink v u
  | .datagramHandoff _ u => uplink v u
  | .uplinkLeaveRetry u => uplink v u
  | .uplinkLeaveRelease u => uplink v u
  | .listenerRender _ p _ => line v p
  | .listenerRenderDone _ p => line v p
  -- Guards
  | .gread _ who reg count o => (match who with | .line p _ => line v p | .guard k => guard v k) && readSpan reg count && linked o
  | .gwrite _ wide j o => (if wide then guard v j else line v j) && linked o
  | .trimStart _ p o => line v p && linked o
  | .sliceStart _ p o => line v p && linked o
  | .pwrSwitch _ p _ vfield o => line v p && halfSized vfield && linked o
  | .alertFetch _ k startLines o => guard v k && lines v startLines && linked o
  | .ident _ k o => guard v k && linked o
  | .fwBlock _ k o => guard v k && linked o
  | .fwActivate _ k o => guard v k && linked o
  | .glAlertN _ => true
  | .shadowRefresh _ k vfield _ meas o => guard v k && halfSized vfield && meas.length == 8 && linked o
  | .cmFault _ p => line v p
  | .pwrEnSet _ p => line v p
  | .pwrEnClear _ p => line v p
  | .inrushTimerExpiry p _ => line v p
  | .pwrFault _ p cause => line v p && faultCause cause
  | .retryWaitExpiry p => line v p
  | .trimReq _ p => line v p
  | .trimWanted _ p _ => line v p
  | .guardLineEnable _ p => line v p
  | .trimDeferTimeout p => line v p
  | .trimEnd _ p _ => line v p
  | .leakMeasurementStart p => line v p
  | .sliceSkip _ p => line v p
  | .sliceEnd p kohm => line v p && wordSized kohm
  | .slicePreempt _ p => line v p
  | .leakWindowExpiry p => line v p
  | .guardDieHot _ k _ => guard v k
  -- Leave
  | .leaveGrant _ => true
  | .leaveTimeout => true
  | .budgetWrite _ _ units => unitCount units
  | .budgetChangeEffect _ => true
  | .lvLedgerRead _ => true
  | .dieTempUpdate _ _ => true
  -- Field update, flash and logs
  | .ping _ _ _ => true
  | .info _ _ _ => true
  | .setBaud _ _ _ => true
  | .svcBaudFallback => true
  | .begin_ _ _ _ => true
  | .block _ _ _ => true
  | .end_ _ _ _ => true
  | .activateParts _ _ _ => true
  | .activateCore _ _ _ => true
  | .abort _ _ _ => true
  | .svcStatus _ _ _ => true
  | .restart _ _ _ => true
  | .gfActivationEnd _ k startLines o => guard v k && lines v startLines && linked o
  | .gfActivationTimeout k => guard v k
  | .gfRestoreRetry k => guard v k
  | .pmActivation _ => true
  | .pmSelfTestEnd _ _ startLines => lines v startLines
  | .serviceResumed _ => true
  | .cfConfirm _ => true
  | .cfRevert => true
  | .rejectionMarkRetry => true
  | .journalCommit _ => true
  | .flashProgramDone _ _ => true
  | .flashEraseDone _ _ => true
  | .eventNotice _ => true
  | .ringPageWrite _ => true
  | .ringPageRetry => true
  -- Rows at the end of the table
  | .startBitValidated _ p => line v p
  | .possibleBreakIdle _ p => line v p
  | .huntResumeAfterBreak _ p => line v p
  | .cmFaultEnd _ p => line v p
  | .guardVddioReturn _ k => guard v k
  | .cardDebounceStart _ n => card v n

end Sys2Proof
end

