-- ==== Sys2Proof/Certificates/Slice0/Obligations.lean ====
section
/-! DEFINITION. The statements for the provers. Most say, for the rows of one family, that the command answers a next
state and what that state holds. A row with an operand `dt` acts `dt` CORE cycles from now, so what it changes is said
against the state `elapse dt s` that those cycles leave; a timed row acts on the state `runTo due s`, in which its due
time has come. -/

section

open Sys2Proof Sys2Proof.Machine Sys2Proof.Safety

/-- For every command c and state s: one step of s with c at the front of its queue is exec of c on s with the queue's
rest, here the queue of s itself. (00_scope.md; R9) -/
def Obligations.StepTakesFront : Prop :=
  ∀ (c : Instr) (s : State), step { s with pending := c :: s.pending } = exec c s

/-- The model's own choice (assumption 2): with no command waiting a step answers the state one CORE cycle later, in
which the units of the machine, the flash and the start-up phase stand as they were. (02_clocks_and_ring_time.md) -/
def Obligations.EmptyQueuePassesOneCycle : Prop :=
  ∀ s : State, s.pending = [] → ∃ t, step s = .next t ∧ t.now = s.now + 1 ∧ t.pending = [] ∧ t.sys = s.sys ∧
    t.ports = s.ports ∧ t.cop = s.cop ∧ t.jobs = s.jobs ∧ t.leave = s.leave ∧ t.guards = s.guards ∧ t.lines = s.lines ∧
    t.cards = s.cards ∧ t.uplinks = s.uplinks ∧ t.tenants = s.tenants ∧ t.flash = s.flash ∧ t.cfg = s.cfg ∧ t.svc = s.svc

/-- POWER_ON_RESET, RESET_N low for 1 µs or longer, PLL_LOSS and WATCHDOG_EXPIRY each answer a state in reset with the
cause of Table 14-1, empty queues and no job; the cold ones restart Ring time at 0 and quality 00, the warm one
keeps Ring time and the lock; ETH_REFCLK is low until the PLL locks again after a power-on or a loss of lock. RESET_N low
for less than 100 ns changes nothing but time. (14_start_up_and_reset.md section 14.2;
02_clocks_and_ring_time.md section 2.1) -/
def Obligations.ResetsBegin : Prop :=
  (∀ dt s, ∃ t, exec (.powerOnReset dt) s = .next t ∧ t.sys.phase = .reset ∧ get RG.RESET_CAUSE 0 t = 0 ∧
      get RG.WARM 0 t = 0 ∧ get RG.QUALITY 0 t = 0 ∧ t.ring = ⟨0, 0⟩ ∧ t.queues = [] ∧ t.jobs = [] ∧ ethRefclk t = .low) ∧
  (∀ dt low s, 1000 ≤ low → s.sys.phase ≠ .reset → ∃ t, exec (.resetN dt low) s = .next t ∧ t.sys.phase = .reset ∧
      get RG.RESET_CAUSE 0 t = 1 ∧ get RG.WARM 0 t = 0 ∧ get RG.QUALITY 0 t = 0 ∧ t.ring = ⟨0, 0⟩ ∧ t.queues = [] ∧ t.jobs = []) ∧
  (∀ dt low s, low < 100 → exec (.resetN dt low) s = .next (elapse dt s)) ∧
  (∀ dt s, s.sys.phase ≠ .reset → s.clk.locked = true → ∃ t, exec (.pllLoss dt) s = .next t ∧ t.sys.phase = .reset ∧
      get RG.RESET_CAUSE 0 t = 4 ∧ get RG.WARM 0 t = 0 ∧ get RG.QUALITY 0 t = 0 ∧ t.ring = ⟨0, 0⟩ ∧ t.queues = [] ∧ t.jobs = [] ∧
      ethRefclk t = .low) ∧
  (∀ dt s, outOfReset s = true → ∃ t, exec (.watchdogExpiry dt) s = .next t ∧ t.sys.phase = .reset ∧
      get RG.RESET_CAUSE 0 t = 2 ∧ get RG.WARM 0 t = 1 ∧ t.ring = (elapse dt s).ring ∧ t.queues = [] ∧ t.jobs = [] ∧
      ethRefclk t = ethRefclk s)

/-- A write of RST_CTRL with GO and the key 0x5EED is accepted in any phase out of reset and remembers its cycle;
SOFTWARE_RESET_START then begins a warm reset with cause 3 in the LINE cycle in which MP_CS_N is high, not before
the request takes effect and at the latest 100 µs after it. (12_register_reference.md Table 12-6; 14_start_up_and_reset.md section 14.2) -/
def Obligations.SoftwareResetRuns : Prop :=
  (∀ dt s, outOfReset s = true → ∃ t, exec (.softwareReset dt 0x5EED0001#32) s = .next t ∧ t.sys.swReset = some (s.now + dt) ∧
      t.mp.answer = 0 ∧ t.sys.phase = s.sys.phase ∧ t.regs = (elapse dt s).regs) ∧
  (∀ wait t0 s, s.sys.swReset = some t0 → s.sys.phase ≠ .reset → ∃ t, exec (.softwareResetStart wait) s = .next t ∧
      t.sys.phase = .reset ∧ get RG.RESET_CAUSE 0 t = 3 ∧ get RG.WARM 0 t = 1 ∧ t.queues = [] ∧
      t.now = max s.now (lineEdge (max t0 (min (s.now + wait) (t0 + cyclesUs 100)))))

/-- RESET_RELEASE samples RECOVERY_N and waits for the PLL; PLL_LOCK starts ETH_REFCLK, takes LOCK_TIME and goes to the boot loader, or to
ROM recovery with RECOVERY_N low; FLASH_READY with a usable slot and no failed boot loads it, and with none enters
recovery with cause 2; CF_START runs the first sound slot, or enters recovery with cause 2.
(14_start_up_and_reset.md sections 14.3 to 14.5; 02_clocks_and_ring_time.md section 2.1) -/
def Obligations.BootReachesFirmware : Prop :=
  (∀ dt r s, s.sys.phase = .reset → s.clk.locked = false → ∃ t, exec (.resetRelease dt r) s = .next t ∧
      t.sys.phase = .released ∧ t.sys.releaseAt = s.now + dt ∧ get RG.RECOVERY_N 0 t = b2n r) ∧
  (∀ dt s, s.sys.phase = .released → ∃ t, exec (.pllLock dt) s = .next t ∧ t.clk.locked = true ∧ ethRefclk t = .line50MHz ∧
      t.sys.phase = (if s.sys.recoveryN then .locked else .recovery) ∧
      get RG.LOCK_TIME 0 t = min 255 ((s.now + dt - s.sys.releaseAt) / 250)) ∧
  (∀ dt s, s.sys.phase = .locked → s.sys.warm = false → s.sys.bootFails ≠ 3 → get RG.RESET_CAUSE 0 (elapse dt s) ≠ 2 →
      ∃ t, exec (.flashReady dt) s = .next t ∧
        (if (primarySlot (elapse dt s)).isSome then t.sys.phase = .loading ∧ t.sys.pendingFlag = true
         else t.sys.phase = .recovery ∧ get RG.RECOVERY_CAUSE 0 t = 2)) ∧
  (∀ dt f a s, s.sys.phase = .loading → ∃ t, exec (.cfStart dt f a) s = .next t ∧ (match bootSlot (elapse dt s) with
      | some slot => t.sys.phase = .guardWait ∧ t.sys.runningSlot = some slot
      | none => t.sys.phase = .recovery ∧ get RG.RECOVERY 0 t = 1 ∧ get RG.RECOVERY_CAUSE 0 t = 2))

/-- GUARD_WAIT_END reaches SERVICE_READY with no pending flag and no failed boot; RECOVERY_POWER_OFF in ROM recovery
switches every line of a guard that has booted, is in service and has not answered off; GUARD_BOOT opens every switch of
the guard, which boots, runs with its version, or stays in its ROM loader with its alert; a VDD_IO that falls and returns is the guard's own state. (14_start_up_and_reset.md sections 14.4,
14.7 and 14.8; 04_kl08_line_guard.md section 4.1; 16_faults_counters_interrupts.md section 16.6) -/
def Obligations.ServiceBeginsOrLinesGoOff : Prop :=
  (∀ dt s, s.sys.phase = .guardWait → ∃ t, exec (.guardWaitEnd dt) s = .next t ∧ t.sys.phase = .ready ∧
      t.sys.pendingFlag = false ∧ t.sys.bootFails = 0) ∧
  (∀ dt s, s.sys.phase = .recovery → ∃ t, exec (.recoveryPowerOff dt) s = .next t ∧
      ∀ k, k < Config.guards s.variant → (gGet k s).run ≠ 0 → (gGet k s).run ≠ 1 → (gGet k s).run ≠ 5 → (gGet k s).answered = false →
        (gGet k t).answered = true ∧ ∀ p ∈ linesOf k, (lnGet p t).pwr = 0 ∧ (lnGet p t).inrushEnd = none) ∧
  (∀ dt k v b s, guardOk s k = true → ∃ t, exec (.guardBoot dt k v b) s = .next t ∧ (∀ p ∈ linesOf k, (lnGet p t).pwr = 0) ∧
      (match b with
        | .powerUp => (gGet k t).run = 1
        | .running => (gGet k t).run = 2 ∧ (gGet k t).gfVer = v
        | .recovery => (gGet k t).run = 3 ∧ bitOf (gGet k t).alertG 1 = true)) ∧
  (∀ dt k s, guardOk s k = true → ∃ t, exec (.guardVddioLow dt k) s = .next t ∧ (gGet k t).vddioLow = true) ∧
  (∀ dt k s, guardOk s k = true → ∃ t, exec (.guardVddioReturn dt k) s = .next t ∧ (gGet k t).vddioLow = false)

/-- While the management port serves frames, a register write that changes PWR_V or ILIM with PWR_EN at 1, that changes
MODE with EN at 1 or sets TERM_EN with MODE at 1, that changes GRAMMAR with EN of the port at 1 or gives grammar 4
to a port outside 0 to 7, that gives RT_SET_NS a value above 999,999,999 or WIDTH_MS a value outside 1 to 999, is
answered REFUSED (0x01) and leaves everything but the port's answer as it was. (R98; R122; R234; R259; R269; R270) -/
def Obligations.GuardedWritesAreRefused : Prop :=
  (∀ dt p v s, mpServes s = true → portOk s p = true → get GL.PWR_EN p s = 1 → bits v.toNat 5 1 ≠ get GL.PWR_V p s →
      ∃ t, exec (.registerWrite dt 8 (16 * p) v) s = .next t ∧ t.mp.answer = 1 ∧ t = { elapse dt s with mp := t.mp }) ∧
  (∀ dt p v s, mpServes s = true → portOk s p = true → get GL.PWR_EN p s = 1 → bits v.toNat 0 5 ≠ get GL.ILIM p s →
      ∃ t, exec (.registerWrite dt 8 (16 * p + 1) v) s = .next t ∧ t.mp.answer = 1 ∧ t = { elapse dt s with mp := t.mp }) ∧
  (∀ dt p v s, mpServes s = true → portOk s p = true → get GL.EN p s = 1 → bits v.toNat 1 1 ≠ get GL.MODE p s →
      ∃ t, exec (.registerWrite dt 8 (16 * p) v) s = .next t ∧ t.mp.answer = 1 ∧ t = { elapse dt s with mp := t.mp }) ∧
  (∀ dt p v s, mpServes s = true → portOk s p = true → bits v.toNat 1 1 = 1 → bits v.toNat 2 1 = 1 →
      ∃ t, exec (.registerWrite dt 8 (16 * p) v) s = .next t ∧ t.mp.answer = 1 ∧ t = { elapse dt s with mp := t.mp }) ∧
  (∀ dt p v s, mpServes s = true → portOk s p = true → get PT.EN p s = 1 → bits v.toNat 0 3 ≠ get PT.GRAMMAR p s →
      ∃ t, exec (.registerWrite dt 1 (32 * p + 0x10) v) s = .next t ∧ t.mp.answer = 1 ∧ t = { elapse dt s with mp := t.mp }) ∧
  (∀ dt p v s, mpServes s = true → portOk s p = true → 8 ≤ p → bits v.toNat 0 3 = 4 →
      ∃ t, exec (.registerWrite dt 1 (32 * p + 0x10) v) s = .next t ∧ t.mp.answer = 1 ∧ t = { elapse dt s with mp := t.mp }) ∧
  (∀ dt v s, mpServes s = true → 999999999 < bits v.toNat 0 30 →
      ∃ t, exec (.registerWrite dt 0 0x16 v) s = .next t ∧ t.mp.answer = 1 ∧ t = { elapse dt s with mp := t.mp }) ∧
  (∀ dt v s, mpServes s = true → (bits v.toNat 4 10 = 0 ∨ 999 < bits v.toNat 4 10) →
      ∃ t, exec (.registerWrite dt 0 0x1C v) s = .next t ∧ t.mp.answer = 1 ∧ t = { elapse dt s with mp := t.mp })

/-- In the state after reset and after a power-on reset, RESET_N low for 1 µs or longer, a loss of PLL lock, a watchdog
expiry and the start of a requested software reset, IRQ_MASK reads 0 and IRQ_N is not driven low; while that reset
lasts, its release leaves it so. (R692) -/
def Obligations.InterruptIsReleasedByResets : Prop :=
  (get RG.IRQ_MASK 0 State.reset = 0 ∧ irqLow State.reset = false) ∧
  (∀ dt s, ∃ t, exec (.powerOnReset dt) s = .next t ∧ get RG.IRQ_MASK 0 t = 0 ∧ irqLow t = false) ∧
  (∀ dt low s, 1000 ≤ low → s.sys.phase ≠ .reset → ∃ t, exec (.resetN dt low) s = .next t ∧ get RG.IRQ_MASK 0 t = 0 ∧ irqLow t = false) ∧
  (∀ dt s, s.sys.phase ≠ .reset → s.clk.locked = true → ∃ t, exec (.pllLoss dt) s = .next t ∧ get RG.IRQ_MASK 0 t = 0 ∧ irqLow t = false) ∧
  (∀ dt s, outOfReset s = true → ∃ t, exec (.watchdogExpiry dt) s = .next t ∧ get RG.IRQ_MASK 0 t = 0 ∧ irqLow t = false) ∧
  (∀ n x s, s.sys.swReset = some x → s.sys.phase ≠ .reset → ∃ t, exec (.softwareResetStart n) s = .next t ∧
      get RG.IRQ_MASK 0 t = 0 ∧ irqLow t = false) ∧
  (∀ dt r s, s.sys.phase = .reset → get RG.IRQ_MASK 0 s = 0 → ∃ t, exec (.resetRelease dt r) s = .next t ∧
      get RG.IRQ_MASK 0 t = 0 ∧ irqLow t = false)

/-- With the PLL locked and RT_RATE within its limits: in the first CORE cycle in which the nanosecond value reaches
1,000,000,000, SECONDS_CARRY leaves it less 1,000,000,000 and the seconds one higher, modulo 2^32; in the cycles
before it nothing carries. With the clocks stopped nothing happens. (R88) -/
def Obligations.RingTimeCarries : Prop :=
  (∀ n s, s.clk.locked = true → (rtRate s).natAbs ≤ 3435973 → s.ring.acc < ringSecond →
      (∀ m, m < n → s.ring.acc + m * ringPerCycle s < ringSecond) → ringSecond ≤ s.ring.acc + n * ringPerCycle s →
      (∃ t, exec .secondsCarry s = .next t ∧ t.now = s.now + n ∧ t.ring.sec = (s.ring.sec + 1) % 2 ^ 32 ∧
        t.ring.acc = s.ring.acc + n * ringPerCycle s - ringSecond) ∧
      (∀ m, m < n → (elapse m s).ring = ⟨s.ring.sec, s.ring.acc + m * ringPerCycle s⟩)) ∧
  (∀ s, s.clk.locked = false → exec .secondsCarry s = .next s)

/-- A write of EN 1 with W9 free claims W9 and drives the inactive level; with CP1 holding W9 it is answered CONFLICT
and EN stays 0. A write of EN 0 releases W9 at once outside a pulse and keeps it during one. The end of the pulse
drives the inactive level, and every pulse left after it ends later than now; when EN has been cleared, W9 is released in
the next LINE cycle. With no pulse and no release due nothing happens. (R58; R59; R118; R119; R120) -/
def Obligations.TmOutClaimsAndReleasesW9 : Prop :=
  (∀ dt s, mpServes s = true → get RG.TM_OUT_EN 0 s = 0 → s.clk.w9 = .none → s.clk.pulseEnd = none → s.clk.w9Free = none →
      1 ≤ get RG.WIDTH_MS 0 s → get RG.WIDTH_MS 0 s ≤ 999 →
      ∃ t, exec (.tmOutEnable dt) s = .next t ∧ t.mp.answer = 0 ∧ get RG.TM_OUT_EN 0 t = 1 ∧ t.clk.w9 = .tmOut ∧
        t.clk.tmOutHigh = (get RG.TM_OUT_POL 0 s == 1) ∧ t.ring = (elapse dt s).ring ∧ t.ports = s.ports ∧ t.cards = s.cards) ∧
  (∀ dt s, mpServes s = true → get RG.TM_OUT_EN 0 s = 0 → s.clk.w9 = .cp1 → 1 ≤ get RG.WIDTH_MS 0 s → get RG.WIDTH_MS 0 s ≤ 999 →
      ∃ t, exec (.tmOutEnable dt) s = .next t ∧ t.mp.answer = 6 ∧ get RG.TM_OUT_EN 0 t = 0 ∧ t.clk = (elapse dt s).clk ∧
        get RG.IRQ_CONFLICT 0 t = 1 ∧ t.ports = s.ports ∧ t.cards = s.cards) ∧
  (∀ dt s, mpServes s = true → get RG.TM_OUT_EN 0 s = 1 → 1 ≤ get RG.WIDTH_MS 0 s → get RG.WIDTH_MS 0 s ≤ 999 →
      ∃ t, exec (.tmOutDisable dt) s = .next t ∧ t.mp.answer = 0 ∧ get RG.TM_OUT_EN 0 t = 0 ∧
        t.clk.pulseEnd = (elapse dt s).clk.pulseEnd ∧
        t.clk.w9 = (if (elapse dt s).clk.pulseEnd = none ∧ (elapse dt s).clk.w9 = .tmOut then .none else (elapse dt s).clk.w9)) ∧
  (∀ e s, s.clk.pulseEnd = some e → get RG.TM_OUT_EN 0 s = 1 → 1 ≤ get RG.WIDTH_MS 0 s → get RG.WIDTH_MS 0 s ≤ 999 → s.clk.w9Free = none →
      ∃ t, exec .tmOutPulseEnd s = .next t ∧ t.now = max s.now e ∧ t.clk.w9 = s.clk.w9 ∧
        (∀ x, t.clk.pulseEnd = some x → t.now < x) ∧
        (t.clk.pulseEnd = none → t.clk.tmOutHigh = (get RG.TM_OUT_POL 0 s == 1))) ∧
  (∀ e s, s.clk.pulseEnd = some e → get RG.TM_OUT_EN 0 s = 0 → s.clk.w9 = .tmOut → s.clk.w9Free = none →
      ∃ t, exec .tmOutPulseEnd s = .next t ∧ t.now = max s.now (nextLine e) ∧ t.clk.w9 = .none ∧ t.clk.pulseEnd = none ∧
        t.clk.tmOutHigh = (get RG.TM_OUT_POL 0 s == 1)) ∧
  (∀ s, s.clk.pulseEnd = none → s.clk.w9Free = none → exec .tmOutPulseEnd s = .next s)

/-- With LOCK_EN 1 a write of RT_CTRL with SET loads RT_SET_SEC into the seconds; the nanoseconds and the quality stand,
whatever RT_SET_NS holds. (R96) -/
def Obligations.SetLoadsSecondsOnlyWhileLocked : Prop :=
  ∀ dt s, mpServes s = true → get RG.LOCK_EN 0 s = 1 → ∃ t, exec (.set dt) s = .next t ∧ t.mp.answer = 0 ∧
    t.ring = ⟨get RG.RT_SET_SEC 0 s, (elapse dt s).ring.acc⟩ ∧ get RG.QUALITY 0 t = get RG.QUALITY 0 s

/-- With LOCK_EN 0, SET loads seconds and nanoseconds and STEP adds RT_STEP ns with borrow and carry, both leaving
quality 01, LOCK_EN, RT_RATE and every unit but the clock and the logs as they were; with LOCK_EN 1 STEP is answered
REFUSED and Ring time only counts on. (R94; R95; R97; R985) -/
def Obligations.SetAndStepMoveRingTime : Prop :=
  (∀ dt s, mpServes s = true → get RG.LOCK_EN 0 s = 0 → ∃ t, exec (.set dt) s = .next t ∧ t.mp.answer = 0 ∧
      t.ring = ⟨get RG.RT_SET_SEC 0 s, get RG.RT_SET_NS 0 s * 2 ^ 32⟩ ∧ get RG.QUALITY 0 t = 1 ∧ get RG.LOCK_EN 0 t = 0 ∧
      get RG.RT_RATE 0 t = get RG.RT_RATE 0 s ∧ t.ports = s.ports ∧ t.cards = s.cards ∧ t.uplinks = s.uplinks ∧ t.lines = s.lines) ∧
  (∀ dt s, mpServes s = true → get RG.LOCK_EN 0 s = 0 → ∃ t, exec (.step dt) s = .next t ∧ t.mp.answer = 0 ∧
      ((t.ring.sec * ringSecond + t.ring.acc : Nat) : Int) =
        (((elapse dt s).ring.sec * ringSecond + (elapse dt s).ring.acc : Nat) + signedOf 32 (get RG.RT_STEP 0 s) * 2 ^ 32) %
          (2 ^ 32 * ringSecond : Nat) ∧
      t.ring.acc < ringSecond ∧ get RG.QUALITY 0 t = 1 ∧ get RG.LOCK_EN 0 t = 0 ∧
      get RG.RT_RATE 0 t = get RG.RT_RATE 0 s ∧ t.ports = s.ports ∧ t.cards = s.cards ∧ t.uplinks = s.uplinks ∧ t.lines = s.lines) ∧
  (∀ dt s, mpServes s = true → get RG.LOCK_EN 0 s = 1 → ∃ t, exec (.step dt) s = .next t ∧ t.mp.answer = 1 ∧
      t.ring = (elapse dt s).ring ∧ t.regs = (elapse dt s).regs)

/-- LOCK_ENABLE from LOCK_EN 0 starts the loop without a reference and with f at 0. A TM_IN level of 40 ns or less, or
the return from one, changes nothing but time; an accepted edge with LOCK_EN 0 moves the accepted level alone. The first
mark becomes the reference with STREAK 1 and its phase error; an inconsistent edge is only counted. After 1.5 s without a
mark, and when host software clears LOCK_EN, the reference is dropped, and quality 10 (in TRACK, for the timeout) becomes
11. (R85; R102; R103; R104; R105; R106; R107) -/
def Obligations.LockLoopFollowsMarks : Prop :=
  (∀ dt s, mpServes s = true → get RG.LOCK_EN 0 s = 0 → ∃ t, exec (.lockEnable dt) s = .next t ∧ t.mp.answer = 0 ∧
      get RG.LOCK_EN 0 t = 1 ∧ t.clk.f = 0 ∧ t.clk.lastMark = none ∧ get RG.STREAK 0 t = 0 ∧ get RG.REF_VALID 0 t = 0 ∧
      get RG.LOCK_STATE 0 t = 0 ∧ get RG.QUALITY 0 t = get RG.QUALITY 0 s ∧ t.ring = (elapse dt s).ring) ∧
  (∀ dt s, mpServes s = true → get RG.LOCK_EN 0 s = 1 → ∃ t, exec (.lockDisable dt) s = .next t ∧ t.mp.answer = 0 ∧
      get RG.LOCK_EN 0 t = 0 ∧ t.clk.lastMark = none ∧ get RG.STREAK 0 t = 0 ∧ get RG.REF_VALID 0 t = 0 ∧
      get RG.QUALITY 0 t = (if get RG.QUALITY 0 s = 2 then 3 else get RG.QUALITY 0 s) ∧
      get RG.RT_RATE 0 t = get RG.RT_RATE 0 s ∧ t.ring = (elapse dt s).ring) ∧
  (∀ dt fall w s, w ≤ 40 ∨ s.clk.tmLevel = !fall → exec (.tmInMark dt fall w) s = .next (elapse dt s)) ∧
  (∀ dt fall w s, 60 ≤ w → s.clk.locked = true → s.clk.tmLevel = fall →
      get RG.LOCK_EN 0 s = 0 ∨ get RG.TM_EDGE 0 s ≠ b2n fall → exec (.tmInMark dt fall w) s =
        .next { elapse dt s with clk := { (elapse dt s).clk with tmLevel := !fall } }) ∧
  (∀ dt fall w s, 60 ≤ w → s.clk.tmLevel = fall → get RG.LOCK_EN 0 s = 1 → get RG.TM_EDGE 0 s = b2n fall → s.clk.locked = true →
      s.clk.lastMark = none →
      ∃ t, exec (.tmInMark dt fall w) s = .next t ∧ t.clk.lastMark = some (s.now + dt) ∧ t.clk.tmLevel = !fall ∧
        get RG.REF_VALID 0 t = 1 ∧
        get RG.STREAK 0 t = 1 ∧ get RG.TM_LAST_ERR 0 t = fieldOf 32 (phaseError (markTime (elapse dt s))) ∧
        get RG.RT_RATE 0 t = get RG.RT_RATE 0 s ∧ get RG.QUALITY 0 t = get RG.QUALITY 0 s ∧
        ((phaseError (markTime (elapse dt s))).natAbs ≤ 1000 → t.ring = (elapse dt s).ring)) ∧
  (∀ dt fall w last s, 60 ≤ w → s.clk.tmLevel = fall → get RG.LOCK_EN 0 s = 1 → get RG.TM_EDGE 0 s = b2n fall → s.clk.locked = true →
      s.clk.lastMark = some last → consistent last (s.now + dt) = false →
      exec (.tmInMark dt fall w) s = .next (put RG.TM_REJECTED 0 (get RG.TM_REJECTED 0 s + 1)
        { elapse dt s with clk := { (elapse dt s).clk with tmLevel := !fall } })) ∧
  (∀ last s, s.clk.lastMark = some last → s.now < last + cyclesMs 1500 → ∃ t, exec .markTimeout s = .next t ∧
      t.now = last + cyclesMs 1500 ∧ t.clk.lastMark = none ∧ get RG.STREAK 0 t = 0 ∧ get RG.REF_VALID 0 t = 0 ∧
      get RG.LOCK_STATE 0 t = 0 ∧ get RG.QUALITY 0 t = (if get RG.LOCK_STATE 0 s = 1 then 3 else get RG.QUALITY 0 s) ∧
      get RG.RT_RATE 0 t = (if get RG.LOCK_STATE 0 s = 1 then fieldOf 32 (rateOf s.clk.f) else get RG.RT_RATE 0 s)) ∧
  (∀ s, s.clk.lastMark = none → exec .markTimeout s = .next s)

/-- A READ of RT_NOW_SEC captures Ring time, and READs of JOB_LEDGER, BLK_FREE, CR_GUAR_USED, LEDGER_CAPTURE and
RX_CHARS capture their values; each leaves the units as they were and the reply that the captured word spells. (R91;
R184; R454; R574; R576; R738; R666) -/
def Obligations.ReadsCaptureSnapshots : Prop :=
  (∀ dt s, mpServes s = true → ∃ t, exec (.rtNowSecRead dt) s = .next t ∧ get RG.RT_NOW_SEC 0 t = (elapse dt s).ring.sec % 2 ^ 32 ∧
      get RG.RT_NOW_NS 0 t = (stampNow (elapse dt s)).word2 % 2 ^ 32 ∧ t = { elapse dt s with regs := t.regs, mp := t.mp }) ∧
  (∀ dt s, mpServes s = true → ∃ t, exec (.jobLedgerRead dt) s = .next t ∧
      get RG.JOB_IDLE 0 t = idleSlots s % 2 ^ RG.JOB_IDLE.width ∧
      get RG.JOB_RETIRING 0 t = retiringSlots s % 2 ^ RG.JOB_RETIRING.width ∧
      get RG.KIND_POLL 0 t = kindSlots .poll s % 2 ^ RG.KIND_POLL.width ∧ t = { elapse dt s with regs := t.regs, mp := t.mp }) ∧
  (∀ dt s, mpServes s = true → ∃ t, exec (.blkFreeRead dt) s = .next t ∧
      get RG.BLK_FREE 0 t = (elapse dt s).store.free % 2 ^ RG.BLK_FREE.width ∧
      get RG.BLK_HELD 0 t = (elapse dt s).store.held % 2 ^ RG.BLK_HELD.width ∧
      get RG.BLK_MOTION 0 t = (elapse dt s).store.lanes.length % 2 ^ RG.BLK_MOTION.width ∧ t = { elapse dt s with regs := t.regs, mp := t.mp }) ∧
  (∀ dt s, mpServes s = true → ∃ t, exec (.crGuarUsedRead dt) s = .next t ∧
      get RG.CR_BORROWED 0 t = borrowed (get RG.CR_SEL 0 s) (elapse dt s) % 2 ^ RG.CR_BORROWED.width ∧
      get RG.CR_GUAR_USED 0 t = guarUsed (get RG.CR_SEL 0 s) (elapse dt s) % 2 ^ RG.CR_GUAR_USED.width ∧
      get RG.CR_SHARED_USED 0 t = sharedUsed (elapse dt s) % 2 ^ RG.CR_SHARED_USED.width ∧ t = { elapse dt s with regs := t.regs, mp := t.mp }) ∧
  (∀ dt s, mpServes s = true → ∃ t, exec (.lvLedgerRead dt) s = .next t ∧
      get RG.LV_DIE_FREE 0 t = freeUnits .die s % 2 ^ RG.LV_DIE_FREE.width ∧
      get RG.LV_DIE_GRANTED 0 t = granted .die s % 2 ^ RG.LV_DIE_GRANTED.width ∧
      get RG.LV_FIELD_FREE 0 t = freeUnits .field s % 2 ^ RG.LV_FIELD_FREE.width ∧
      get RG.LV_FIELD_GRANTED 0 t = granted .field s % 2 ^ RG.LV_FIELD_GRANTED.width ∧ t = { elapse dt s with regs := t.regs, mp := t.mp }) ∧
  (∀ dt p s, mpServes s = true → p < Config.ports s.variant → ∃ t, exec (.rxCharsRead dt p) s = .next t ∧
      get PT.RX_CHARS p t = (pGet p s).rxChars % 2 ^ PT.RX_CHARS.width ∧
      get PT.MOVED_CHARS p t = (pGet p s).movedChars % 2 ^ PT.MOVED_CHARS.width ∧
      get PT.OVR_CHARS p t = (pGet p s).ovrChars % 2 ^ PT.OVR_CHARS.width ∧
      get PT.STAGE_AUDIT p t = (pGet p s).stage.length % 2 ^ PT.STAGE_AUDIT.width ∧ t = { elapse dt s with regs := t.regs, mp := t.mp })

/-- A receiver that was hunting at the start edge and whose sample 0 shows the start level takes up a character in its
present format with its start edge one half bit time back, 70 ns less as its edge time, and the lean in force; one whose
sample 0 shows the idle level counts GLITCH_CNT and hunts from the next LINE cycle on. A receiver that does not hunt, or
did not at the edge, takes neither. No other unit changes. (R111; R147; R148; R149; R154; R157; R195) -/
def Obligations.StartBitsAreSampled : Prop :=
  (∀ dt p s, hunting p s = true → edgeSeen p (elapse dt s) = true → canStart p (elapse dt s) = true →
      ∃ t x, exec (.startBitValidated dt p) s = .next t ∧ (pGet p t).rx = some x ∧ x.fmt = (pGet p s).rxF ∧
      x.leaned = (leanFor p (elapse dt s)).isSome ∧ x.inc = incEff (pGet p s).rxF.inc ((leanFor p (elapse dt s)).getD 0) ∧
      x.c0 = (s.now + dt) / 5 - sampleLine 0 x.inc ∧ x.edge = (stampAt (5 * x.c0) (elapse dt s)).sub 70 ∧
      (∀ q, q ≠ p → pGet q t = pGet q s) ∧ t = { elapse dt s with ports := t.ports }) ∧
  (∀ dt p s, hunting p s = true → edgeSeen p (elapse dt s) = true → canIdle p (elapse dt s) = true →
      ∃ t, exec (.startGlitch dt p) s = .next t ∧ pGet p t = { pGet p s with huntFrom := (s.now + dt) / 5 + 1 } ∧
      get PT.GLITCH_CNT p t = (get PT.GLITCH_CNT p s + 1) % 2 ^ 32 ∧ (∀ q, q ≠ p → pGet q t = pGet q s) ∧
      t = { elapse dt s with ports := t.ports, regs := t.regs, cyc := t.cyc }) ∧
  (∀ dt p s, hunting p s = false ∨ edgeSeen p (elapse dt s) = false →
      exec (.startBitValidated dt p) s = .next (elapse dt s) ∧ exec (.startGlitch dt p) s = .next (elapse dt s))

/-- CHARACTER_RECEIVED runs the clock on to the stop-bit sample of the character's own format and frees the receiver. A
character whose data, parity and stop samples all show the start level is held back and not counted; any other is counted.
An idle level inside the window gives the held character back with FRAMING, and none after it does; at c0 + T it becomes a
recognised break that is counted and marks the next record; hunting resumes after one idle bit. (R144; R145; R148; R151;
R152; R167; R168; R220) -/
def Obligations.CharactersEndAtTheirStopSample : Prop :=
  (∀ p sm tr x s, (pGet p s).rx = some x → quiet p s → allStart x (sampled p x sm s) = true →
      ∃ t l, exec (.characterReceived p sm tr) s = .next t ∧ t.now = max s.now (cyclesLine x.stopLine) ∧
        (pGet p t).rx = none ∧ (pGet p t).held = some (x, l) ∧ (pGet p t).rxChars = (pGet p s).rxChars) ∧
  (∀ p sm tr x s, (pGet p s).rx = some x → allStart x (sampled p x sm s) = false →
      ∃ t, exec (.characterReceived p sm tr) s = .next t ∧ t.now = max s.now (cyclesLine x.stopLine) ∧
        (pGet p t).rx = none ∧ (pGet p t).rxChars = ((pGet p s).rxChars + 1) % 2 ^ 32) ∧
  (∀ p sm tr s, (pGet p s).rx = none → quiet p s → exec (.characterReceived p sm tr) s = .next s) ∧
  (∀ dt p x l s, p < 48 → (pGet p s).held = some (x, l) → (s.now + dt) / 5 < x.c0 + breakLine p s →
      canIdle p (elapse dt s) = true →
      ∃ t, exec (.possibleBreakIdle dt p) s = .next t ∧ (pGet p t).held = none ∧
      (pGet p t).rxChars = ((pGet p s).rxChars + 1) % 2 ^ 32 ∧
      get PT.FRAMING_CNT p t = min (get PT.FRAMING_CNT p s + 1) 65535) ∧
  (∀ dt p s, quiet p s → (pGet p s).held = none ∨ (∃ x l, (pGet p s).held = some (x, l) ∧ x.c0 + breakLine p s ≤ (s.now + dt) / 5) →
      exec (.possibleBreakIdle dt p) s = .next (elapse dt s)) ∧
  (∀ p x l s, p < 48 → (pGet p s).held = some (x, l) → (pGet p s).open_ = none → quiet p s → grammar p s ≠ 4 →
      canStart p (runTo (cyclesLine (x.c0 + breakLine p s)) s) = true →
      ∃ t, exec (.breakDetected p) s = .next t ∧ t.now = max s.now (cyclesLine (x.c0 + breakLine p s)) ∧
        (pGet p t).held = none ∧ (pGet p t).afterBreak = true ∧ (pGet p t).nextFlags = (pGet p s).nextFlags ||| fBREAK ∧
        get PT.BREAK_CNT p t = min (get PT.BREAK_CNT p s + 1) 65535 ∧ get PT.EV_BREAK_DET p t = 1 ∧ get RG.IRQ_LINE 0 t = 1) ∧
  (∀ dt p s, (pGet p s).afterBreak = true → canIdle p (elapse dt s) = true →
      ∃ t, exec (.huntResumeAfterBreak dt p) s = .next t ∧ (pGet p t).afterBreak = false ∧
      (pGet p t).huntFrom = (s.now + dt) / 5 ∧
      (pGet p t).idleFrom = some (s.now + dt - cyclesLine (halfBitsLine 2 (pGet p s).rxF.inc)) ∧
      (∀ q, q ≠ p → pGet q t = pGet q s) ∧ t = { elapse dt s with ports := t.ports }) ∧
  (∀ dt p s, (pGet p s).afterBreak = false → exec (.huntResumeAfterBreak dt p) s = .next (elapse dt s))

/-- RX_TIMEOUT of a RAW port, T35_EXPIRY of a Modbus port and SENTENCE_TIMEOUT of an NMEA or SDI-12 port run the clock
on to their times and close the open sentence, which counts as one record, the last one with GE_UNTERMINATED;
MARK_ABANDON discards an open Mark sentence and counts it. With nothing open RX_TIMEOUT only asks for the move of
staged bytes. A start bit validated before, a start edge before t3.5, and a character that completes before keep the
sentence open, and nothing happens. (R178; R285; R291; R300; R321; R341) -/
def Obligations.SentencesEndByTheirTimers : Prop :=
  (∀ p l r s, p < 48 → (pGet p s).lastRx = some l → startedBefore p (rxDue p l s) s = false → grammar p s = 0 →
      (pGet p s).open_ = some r →
      ∃ t, exec (.rxTimeout p) s = .next t ∧ (pGet p t).open_ = none ∧ (pGet p t).discard = false ∧
        t.now = max s.now (rxDue p l s) ∧ get PT.RECORD_CNT p t = (get PT.RECORD_CNT p s + 1) % 2 ^ 32) ∧
  (∀ p l s, p < 48 → (pGet p s).lastRx = some l → startedBefore p (rxDue p l s) s = false → (pGet p s).open_ = none → quiet p s →
      ∃ t, exec (.rxTimeout p) s = .next t ∧ (pGet p t).stage = (pGet p s).stage ∧
        (pGet p t).moveReq = ((pGet p s).moveReq || !(pGet p s).stage.isEmpty)) ∧
  (∀ p l s, (pGet p s).lastRx = some l → startedBefore p (rxDue p l s) s = true → quiet p s → exec (.rxTimeout p) s = .next s) ∧
  (∀ p e r s, p < 48 → (pGet p s).idleFrom = some e → edgeBefore p (t35Due p e s) s = false → grammar p s = 2 →
      (pGet p s).open_ = some r →
      ∃ t, exec (.t35Expiry p) s = .next t ∧ (pGet p t).open_ = none ∧ (pGet p t).discard = false ∧
        t.now = max s.now (t35Due p e s) ∧ get PT.RECORD_CNT p t = (get PT.RECORD_CNT p s + 1) % 2 ^ 32) ∧
  (∀ p e s, (pGet p s).idleFrom = some e → edgeBefore p (t35Due p e s) s = true → quiet p s → exec (.t35Expiry p) s = .next s) ∧
  (∀ p l r s, p < 48 → (pGet p s).lastRx = some l → (grammar p s = 1 ∨ grammar p s = 3) → (pGet p s).open_ = some r →
      get PT.SENT_TIMEOUT_MS p s ≠ 0 → completesBefore p (sentDue p l s) s = false → breakBy p (sentDue p l s) s = false →
      ∃ t, exec (.sentenceTimeout p) s = .next t ∧ (pGet p t).open_ = none ∧
        t.now = max s.now (sentDue p l s) ∧ get PT.GE_UNTERMINATED p t = 1 ∧
        get PT.RECORD_CNT p t = (get PT.RECORD_CNT p s + 1) % 2 ^ 32) ∧
  (∀ p l s, (pGet p s).lastRx = some l → completesBefore p (sentDue p l s) s = true → quiet p s →
      exec (.sentenceTimeout p) s = .next s) ∧
  (∀ p l r s, p < 48 → (pGet p s).lastRx = some l → grammar p s = 4 → (pGet p s).open_ = some r →
      completesBefore p (markDue p l s) s = false →
      ∃ t, exec (.markAbandon p) s = .next t ∧ (pGet p t).open_ = none ∧ get PT.GE_MARK_ABANDON p t = 1 ∧
        t.now = max s.now (markDue p l s) ∧
        get PT.MARK_ABANDON_CNT p t = min (get PT.MARK_ABANDON_CNT p s + 1) (2 ^ PT.MARK_ABANDON_CNT.width - 1) ∧
        get PT.RECORD_CNT p t = get PT.RECORD_CNT p s)

/-- STAGING_MOVE_DONE with a move requested and accepted, or under way, brings the staged words into the receive queue as far
as it takes them: the block is empty, its bytes count as moved and a closed sentence is finished once every word has
entered, and until then the block stands. With no move requested, or none accepted, nothing but time passes. (R175; R176;
R177; R181; R182) -/
def Obligations.StagedBytesMove : Prop :=
  (∀ dt p s, p < 48 → (pGet p s).moveReq = true → ((pGet p s).moving = true ∨ moveAccepted p (elapse dt s) = true) → quiet p s →
      (pGet p s).closed = [] →
      ∃ t, exec (.stagingMoveDone dt p) s = .next t ∧ (∀ q, q ≠ p → pGet q t = pGet q s) ∧
        (if outside p (.line p) t = 0 then (pGet p t).stage = [] ∧ (pGet p t).moveReq = false ∧ (pGet p t).moving = false ∧
            (pGet p t).movedChars = ((pGet p s).movedChars + (pGet p s).stage.length) % 2 ^ 32
          else (pGet p t).stage = (pGet p s).stage ∧ (pGet p t).moveReq = true ∧ (pGet p t).moving = true ∧
            (pGet p t).movedChars = (pGet p s).movedChars)) ∧
  (∀ dt p c s, p < 48 → (pGet p s).moveReq = true → ((pGet p s).moving = true ∨ moveAccepted p (elapse dt s) = true) → quiet p s →
      (pGet p s).closed = [c] → c.isReply = false → (pGet p s).open_ = none →
      ∃ t, exec (.stagingMoveDone dt p) s = .next t ∧
        (if outside p (.line p) t = 0 then (pGet p t).closed = [] ∧ (pGet p t).stage = [] ∧ (pGet p t).moveReq = false
          else (pGet p t).closed = [{ c with moved := c.bytes.length, placed := true }] ∧ (pGet p t).stage = (pGet p s).stage)) ∧
  (∀ dt p s, ((pGet p s).moveReq = false ∨ ((pGet p s).moving = false ∧ moveAccepted p (elapse dt s) = false)) → quiet p s →
      exec (.stagingMoveDone dt p) s = .next (elapse dt s))

/-- A write of BAUD_INC within its range to a disabled port is stored; the receiver takes it up, and so does the transmitter
unless it is sending a character, after which it will; one outside its range is answered REFUSED with no register
changed. A taken TX_BREAK that read 0, on an enabled idle port not in trim, asks for one FIELD unit and reads 1. A taken EN
0 leaves no character in reception, no held one, no open sentence and TX_BREAK 0. (R137; R138; R170; R171; R192; R287;
Table 3-7) -/
def Obligations.LineSettingsTakeEffect : Prop :=
  (∀ dt p v s, mpServes s = true → p < Config.ports s.variant → get PT.EN p s = 0 → 9449 ≤ v.toNat → v.toNat ≤ 257698038 →
      ∃ t, exec (.lineFormatWrite dt p false v) s = .next t ∧ t.mp.answer = 0 ∧ get PT.BAUD_INC p t = v.toNat ∧
        (get PT.BAUD_INC p s ≠ v.toNat → (pGet p t).rxF = regFmt p t ∧
          (if (txOf p s).phase = .chars then (pGet p t).txF = (pGet p s).txF ∧ (pGet p t).txPend = true
            else (pGet p t).txF = regFmt p t))) ∧
  (∀ dt p v s, mpServes s = true → p < Config.ports s.variant → v.toNat < 9449 ∨ 257698038 < v.toNat →
      ∃ t, exec (.lineFormatWrite dt p false v) s = .next t ∧ t.mp.answer = 1 ∧ t = { elapse dt s with mp := t.mp }) ∧
  (∀ dt p s, p < 48 → taken p PT.TX_BREAK [(PT.TX_BREAK, 1)] (elapse dt s) → get PT.EN p s = 1 → get PT.TX_BREAK p s = 0 →
      (txOf p s).phase = .idle → (pGet p s).inTrim = false →
      ∃ t, exec (.txBreak dt p) s = .next t ∧ t.mp.answer = 0 ∧ get PT.TX_BREAK p t = 1 ∧ (txOf p t).phase = .leaveWait ∧
        (t.leave.field.any fun r => r.kind == .brk p && r.units == 1) = true) ∧
  (∀ dt p s, p < 48 → taken p PT.EN [(PT.EN, 0)] (elapse dt s) → get PT.EN p s = 1 →
      ∃ t, exec (.portDisable dt p) s = .next t ∧ t.mp.answer = 0 ∧ get PT.EN p t = 0 ∧ (pGet p t).rx = none ∧
        (pGet p t).held = none ∧ (pGet p t).afterBreak = false ∧ (pGet p t).open_ = none ∧ get PT.TX_BREAK p t = 0)

/-- An available record with no break directive starts at the end of its turnaround gap with LDEn high for LEAD_US, or
is held and counted once while the line is in trim; its characters follow back to back; after the last one LDEn stays
high for TAIL_US, and then the transmitter is idle and the response window of a poll opens. (R140; R185; R186; R188;
R413; R416) -/
def Obligations.RecordsAreTransmitted : Prop :=
  (∀ dt p ws s, portOk s p = true → get PT.EN p s = 1 → (txOf p s).phase = .idle →
      txReady p (clearTxHead p (elapse dt s)) = some ws → (pGet p (clearTxHead p (elapse dt s))).brkWanted = false →
      (txOf p (clearTxHead p (elapse dt s))).phase = .idle →
      (pGet p (clearTxHead p (elapse dt s))).inTrim = false → has (hdrFlags (recWord ws 3)) fBREAK = false →
      ∃ t, exec (.txRecordStart dt p) s = .next t ∧ t.now = max (s.now + dt) (earliestTx p (clearTxHead p (elapse dt s))) ∧
        (txOf p t).phase = .lead ∧ (txOf p t).due = t.now + cyclesUs (get PT.LEAD_US p t) ∧ (txOf p t).bytes = recPayload ws ∧
        (pGet p t).txq = (pGet p (clearTxHead p (elapse dt s))).txq.drop 1) ∧
  (∀ dt p ws s, portOk s p = true → get PT.EN p s = 1 → (txOf p s).phase = .idle →
      txReady p (clearTxHead p (elapse dt s)) = some ws → (pGet p (clearTxHead p (elapse dt s))).brkWanted = false →
      (txOf p (clearTxHead p (elapse dt s))).phase = .idle → (pGet p (clearTxHead p (elapse dt s))).inTrim = true →
      ∃ t, exec (.txRecordStart dt p) s = .next t ∧ (txOf p t).phase = .held ∧ (pGet p t).recHeld = true ∧
        (if (pGet p (clearTxHead p (elapse dt s))).recHeld then get PT.TX_HELD p t = get PT.TX_HELD p (clearTxHead p (elapse dt s))
          else get PT.EV_TX_HELD p t = 1 ∧
            get PT.TX_HELD p t = PT.TX_HELD.count (get PT.TX_HELD p (clearTxHead p (elapse dt s))) 1)) ∧
  (∀ p b r s, (txOf p s).phase = .lead → (txOf p s).bytes = b :: r → (txOf p s).cut = false →
      ∃ t, exec (.leadEnd p) s = .next t ∧ t.now = max s.now (txOf p s).due ∧ (txOf p t).phase = .chars ∧
        (txOf p t).cur = some b ∧ (txOf p t).bytes = r ∧ (txOf p t).begun = true ∧
        (txOf p t).due = t.now + cyclesLine (pGet p s).txF.charLine) ∧
  (∀ p b r s, (txOf p s).phase = .chars → (txOf p s).bytes = b :: r → (txOf p s).cut = false →
      ∃ t, exec (.txCharacterDone p) s = .next t ∧ t.now = max s.now (txOf p s).due ∧ (pGet p t).lastEnd = some t.now ∧
        (txOf p t).phase = .chars ∧ (txOf p t).cur = some b ∧ (txOf p t).bytes = r) ∧
  (∀ p s, p < 48 → (txOf p s).phase = .chars → (txOf p s).bytes = [] ∨ (txOf p s).cut = true →
      ∃ t, exec (.txCharacterDone p) s = .next t ∧ t.now = max s.now (txOf p s).due ∧ (txOf p t).phase = .tail ∧
        (txOf p t).cur = none ∧ (txOf p t).due = t.now + cyclesUs (get PT.TAIL_US p s)) ∧
  (∀ p s, p < 48 → (txOf p s).phase = .tail → (pGet p s).brkWanted = false → (txOf p s).owner = none →
      ∃ t, exec (.txTailEnd p) s = .next t ∧ t.now = max s.now (txOf p s).due ∧ txOf p t = Tx.idle ∧
        (pGet p t).renderAfter = t.now + cyclesUs (get PT.LST_GAP_US p s)) ∧
  (∀ p i s, p < 48 → i < 4096 → (txOf p s).phase = .tail → (pGet p s).brkWanted = false → (txOf p s).owner = some (.poll i) →
      (txOf p s).cut = false → (copGet p s).txn = .poll i → get PL.NO_REPLY i s = 0 → (copGet p s).ending = none →
      ∃ t, exec (.txTailEnd p) s = .next t ∧ txOf p t = Tx.idle ∧
        (pGet p t).win = some ⟨pollTalker i s, some (t.now + cyclesMs (get PL.RESP_TO_MS i s)), false, false⟩)

/-- With its FIELD unit granted in an earlier CORE cycle and the line not in trim, a break raises LDEn (that of a record after
its turnaround gap), starts after LEAD_US and lasts BRK_MS; in trim it is held and counted once. The idle level then holds
for MARK_MS, unless the break was cut; after the marking the unit is given back, the tail runs for TAIL_US, and TX_BREAK
reads 0. Without the grant nothing but time passes. (R171; R172; R185; R188; R192; R766) -/
def Obligations.BreaksAreSent : Prop :=
  (∀ dt p s, p < 48 → (txOf p s).phase = .leaveWait → mayStart (.brk p) (elapse dt s) = true → (pGet p s).inTrim = false →
      (txOf p s).directive = false →
      ∃ t, exec (.breakStart dt p) s = .next t ∧ (txOf p t).phase = .brk ∧
        (txOf p t).brkAt = s.now + dt + cyclesUs (get PT.LEAD_US p s) ∧
        (txOf p t).due = s.now + dt + cyclesUs (get PT.LEAD_US p s) + cyclesMs (get PT.BRK_MS p s) ∧
        t = { elapse dt s with ports := t.ports }) ∧
  (∀ dt p ws s, p < 48 → (txOf p s).phase = .leaveWait → mayStart (.brk p) (elapse dt s) = true → (pGet p s).inTrim = false →
      (txOf p s).directive = true → txReady p (elapse dt s) = some ws →
      ∃ t, exec (.breakStart dt p) s = .next t ∧ t.now = max (s.now + dt) (earliestTx p s) ∧ (txOf p t).phase = .brk ∧
        (txOf p t).directive = true ∧ (txOf p t).bytes = recPayload ws ∧
        (txOf p t).brkAt = t.now + cyclesUs (get PT.LEAD_US p s) ∧
        (txOf p t).due = t.now + cyclesUs (get PT.LEAD_US p s) + cyclesMs (get PT.BRK_MS p s)) ∧
  (∀ dt p s, p < 48 → (txOf p s).phase = .leaveWait → mayStart (.brk p) (elapse dt s) = true → (pGet p s).inTrim = true →
      (txOf p s).directive = false →
      ∃ t, exec (.breakStart dt p) s = .next t ∧ (txOf p t).phase = .leaveWait ∧ (pGet p t).brkHeld = true ∧ t.leave = s.leave ∧
        (if (pGet p s).brkHeld then get PT.TX_HELD p t = get PT.TX_HELD p s
          else get PT.EV_TX_HELD p t = 1 ∧ get PT.TX_HELD p t = PT.TX_HELD.count (get PT.TX_HELD p s) 1)) ∧
  (∀ dt p s, ((txOf p s).phase ≠ .leaveWait ∨ mayStart (.brk p) (elapse dt s) = false) →
      exec (.breakStart dt p) s = .next (elapse dt s)) ∧
  (∀ p s, p < 48 → (txOf p s).phase = .brk → (txOf p s).cut = false → ∃ t, exec (.breakEnd p) s = .next t ∧
      t.now = max s.now (txOf p s).due ∧ (txOf p t).phase = .mark ∧ (txOf p t).due = t.now + cyclesMs (get PT.MARK_MS p s) ∧
      t.leave = s.leave) ∧
  (∀ p s, p < 48 → (txOf p s).phase = .brk → (txOf p s).cut = true → ∃ t, exec (.breakEnd p) s = .next t ∧
      (txOf p t).phase = .tail ∧ (txOf p t).due = t.now + cyclesUs (get PT.TAIL_US p s) ∧ isGranted (.brk p) t = false) ∧
  (∀ p s, p < 48 → (txOf p s).phase = .mark → (txOf p s).directive = false → s.now < (txOf p s).due →
      ∃ t, exec (.markingEnd p) s = .next t ∧ t.now = (txOf p s).due ∧ (txOf p t).phase = .tail ∧
        (txOf p t).due = t.now + cyclesUs (get PT.TAIL_US p s) ∧ isGranted (.brk p) t = false ∧ get PT.TX_BREAK p t = 0)

/-- A present level starts the debounce; at its end an enabled port sets INSERT and begins step 1 of Table 6-2, and each
step runs the clock on to its time. No ATR in time, or an ATR that stops, deactivates the card towards FAULT with ATR_FAIL.
A removal deactivates an active card, and leaves any other absent. A level that shows what it showed before changes
nothing but time. (R350; R351; Table 6-2; R353; R364; R365) -/
def Obligations.CardsActivateStepByStep : Prop :=
  (∀ dt n s, cardOk s n = true → cardPresent n s = false → ∃ t, exec (.cardDebounceStart dt n) s = .next t ∧
      cardPresent n t = true ∧ (cGet n t).debounceEnd = some (s.now + dt + cyclesMs (get CD.DET_DEB_MS n s)) ∧
      cardState n t = (if cardState n s = 0 then 1 else cardState n s) ∧
      t = { elapse dt s with cards := t.cards, regs := t.regs }) ∧
  (∀ dt n s, cardPresent n s = true → exec (.cardDebounceStart dt n) s = .next (elapse dt s)) ∧
  (∀ n d s, n < 2 → (cGet n s).debounceEnd = some d → cardEn n s = true → cardState n s ≠ 7 →
      ∃ t, exec (.cardInsert n) s = .next t ∧ t.now = max s.now d ∧ (cGet n t).inserted = true ∧ (cGet n t).debounceEnd = none ∧
        get CD.EV_INSERT n t = 1 ∧ get RG.IRQ_CARD 0 t = 1 ∧ cardState n t = 2 ∧ (cGet n t).actStep = 0 ∧
        (cGet n t).due = t.now + cyclesUs (get CD.PWR_SETTLE_US n s)) ∧
  (∀ n d s, n < 2 → (cGet n s).debounceEnd = some d → cardEn n s = false → ∃ t, exec (.cardInsert n) s = .next t ∧
      (cGet n t).inserted = true ∧ cardState n t = (if cardState n s = 1 then 0 else cardState n s) ∧
      get CD.EV_INSERT n t = get CD.EV_INSERT n s) ∧
  (∀ n s, n < 2 → cardState n s = 2 → (cGet n s).actStep = 0 → ∃ t, exec (.cardClockStart n) s = .next t ∧
      (cGet n t).actStep = 1 ∧ (cGet n t).due = t.now + 1000 * cardClock n s ∧
      t = { runTo (cGet n s).due s with cards := t.cards }) ∧
  (∀ n s, n < 2 → cardState n s = 2 → (cGet n s).actStep = 1 → ∃ t, exec (.cardResetRelease n) s = .next t ∧
      (cGet n t).actStep = 2 ∧ (cGet n t).due = t.now + 380 * cardClock n s ∧
      t = { runTo (cGet n s).due s with cards := t.cards }) ∧
  (∀ n s, n < 2 → cardState n s = 2 → (cGet n s).actStep = 2 → ∃ t, exec (.tsHuntStart n) s = .next t ∧
      (cGet n t).actStep = 3 ∧ (cGet n t).due = t.now + 39620 * cardClock n s ∧
      t = { runTo (cGet n s).due s with cards := t.cards }) ∧
  (∀ n s, n < 2 → cardState n s = 2 → (cGet n s).actStep = 3 ∨ (cGet n s).actStep = 4 → (cGet n s).script = .none →
      ∃ t, exec (.atrFail n) s = .next t ∧
      t.now = max s.now (if (cGet n s).actStep = 3 then (cGet n s).due else (cGet n s).rxEdge + halfE 19200 n s) ∧
      cardState n t = 7 ∧ (cGet n t).endState = 9 ∧ (cGet n t).due = t.now + cyclesUs 103 ∧
      get CD.EV_ATR_FAIL n t = 1 ∧ get CD.ATR_FAIL_CNT n t = min (get CD.ATR_FAIL_CNT n s + 1) (2 ^ CD.ATR_FAIL_CNT.width - 1)) ∧
  (∀ dt n s, cardOk s n = true → cardPresent n s = true → (cGet n s).script = .none → cardState n s ≠ 5 →
      ∃ t, exec (.cardRemove dt n) s = .next t ∧ cardPresent n t = false ∧ (cGet n t).inserted = false ∧
        (cGet n t).debounceEnd = none ∧ (cGet n t).badge = none ∧
        cardState n t = (if 2 ≤ cardState n s ∧ cardState n s ≤ 7 then 7 else 0) ∧
        (cardEn n s = true → get CD.EV_REMOVE n t = 1)) ∧
  (∀ dt n s, cardOk s n = true → cardPresent n s = true → (cGet n s).script = .none → cardState n s = 5 →
      ∃ t, exec (.cardRemove dt n) s = .next t ∧ cardPresent n t = false ∧ (cGet n t).inserted = false ∧
        get CD.CX_RESULT n t = CxResult.removed.code ∧ get CD.EV_CX_DONE n t = 1 ∧ cardState n t = 7 ∧ (cGet n t).endState = 0) ∧
  (∀ dt n s, cardPresent n s = false → exec (.cardRemove dt n) s = .next (elapse dt s))

/-- An engine that does not listen takes no character. An ATR that starts with neither convention fails; a bad parity within
CX_RETRY is answered with an error signal and stores nothing; a data byte of an exchange is stored. A sent character is
sampled 11 E after its start: it goes on when no error signal came, the next one 12 + N E after it, it is repeated and
counted when one did, 13 E after its start, and after CX_RETRY repetitions the exchange ends; WT that runs out ends an
exchange with its code and deactivates the card. (R358; R360; R361; R362; R364; R376; R377; R379; R395) -/
def Obligations.CardCharactersFollowTheirRules : Prop :=
  (∀ dt n sm s, cardListens n s = false → exec (.cardCharacterReceived dt n sm) s = .next (elapse dt s)) ∧
  (∀ dt n sm s, cardOk s n = true → cardState n s = 2 → (cGet n s).actStep = 3 → (cGet n s).script = .none →
      (cardDecode false sm).1.toNat ≠ 0x3B → (cardDecode true sm).1.toNat ≠ 0x3F →
      ∃ t, exec (.cardCharacterReceived dt n sm) s = .next t ∧ cardState n t = 7 ∧ (cGet n t).endState = 9 ∧ get CD.EV_ATR_FAIL n t = 1) ∧
  (∀ dt n sm s, cardListens n s = true → cardState n s ≠ 2 ∨ (cGet n s).actStep = 4 →
      (cardDecode (flag CD.CONV n s) sm).2 = false → (cGet n s).repeats < get CD.CX_RETRY n s →
      ∃ t, exec (.cardCharacterReceived dt n sm) s = .next t ∧ (cGet n t).repeats = (cGet n s).repeats + 1 ∧
        (cGet n t).errEdge = some (s.now + dt - halfE 19 n s) ∧ (cGet n t).rxEdge = s.now + dt - halfE 19 n s ∧
        (cGet n t).rxBytes = (cGet n s).rxBytes ∧ (cGet n t).moved = (cGet n s).moved ∧ t = { elapse dt s with cards := t.cards }) ∧
  (∀ dt n sm s, cardOk s n = true → cardState n s = 5 → (cardDecode (flag CD.CONV n s) sm).2 = true →
      (cGet n s).txBytes = [] → (cGet n s).sw1 = none → 0 < (cGet n s).burst →
      (cGet n s).repeats < get CD.CX_RETRY n s ∨ get CD.CX_RETRY n s = 0 →
      ∃ t, exec (.cardCharacterReceived dt n sm) s = .next t ∧
        (cGet n t).moved = (cGet n s).moved ++ [(cardDecode (flag CD.CONV n s) sm).1] ∧
        (cGet n t).burst = (cGet n s).burst - 1 ∧ (cGet n t).toRecv = (cGet n s).toRecv - 1 ∧ (cGet n t).repeats = 0 ∧
        cardState n t = 5) ∧
  (∀ n a z b r s, cardOk s n = true → cardState n s = 3 ∨ cardState n s = 5 → (cGet n s).txBytes = b :: r →
      errorSignalled n a z s = false → ∃ t,
      exec (.cardCharacterSent n a z) s = .next t ∧ t.now = max s.now ((cGet n s).txAt + halfE 22 n s) ∧
      (cGet n t).txBytes = r ∧ (cGet n t).repeats = 0 ∧ (cGet n t).txEdge = (cGet n s).txAt ∧
      (cGet n t).txAt = (cGet n s).txAt + halfE (24 + 2 * get CD.GUARD_N n s) n s ∧
      (cGet n t).hdrLeft = (cGet n s).hdrLeft - 1 ∧
      (cGet n t).moved = (if cardState n s = 5 ∧ (cGet n s).hdrLeft = 0 then (cGet n s).moved ++ [b] else (cGet n s).moved) ∧
      t = { runTo ((cGet n s).txAt + halfE 22 n s) s with cards := t.cards }) ∧
  (∀ n a z b r s, cardOk s n = true → cardState n s = 3 ∨ cardState n s = 5 → (cGet n s).txBytes = b :: r →
      errorSignalled n a z s = true → (cGet n s).repeats < get CD.CX_RETRY n s →
      ∃ t, exec (.cardCharacterSent n a z) s = .next t ∧ t.now = max s.now ((cGet n s).txAt + halfE 22 n s) ∧
        (cGet n t).txBytes = b :: r ∧ (cGet n t).repeats = (cGet n s).repeats + 1 ∧
        (cGet n t).txAt = (cGet n s).txAt + halfE 26 n s ∧
        get CD.TX_REP_CNT n t = min (get CD.TX_REP_CNT n s + 1) (2 ^ CD.TX_REP_CNT.width - 1)) ∧
  (∀ n a z b r s, cardOk s n = true → cardState n s = 5 → (cGet n s).txBytes = b :: r → (cGet n s).script = .none →
      errorSignalled n a z s = true → get CD.CX_RETRY n s ≤ (cGet n s).repeats →
      ∃ t, exec (.cardCharacterSent n a z) s = .next t ∧ get CD.CX_RESULT n t = CxResult.txParity.code ∧
        get CD.EV_CX_DONE n t = 1 ∧ cardState n t = 7 ∧ (cGet n t).endState = 9) ∧
  (∀ n s, cardOk s n = true → cardState n s = 5 → (cGet n s).heard = true ∨ (cGet n s).txBytes = [] → (cGet n s).script = .none →
      ∃ t, exec (.wtExpired n) s = .next t ∧ t.now = max s.now ((cGet n s).wtFrom + cardWT n s) ∧
        get CD.CX_RESULT n t = CxResult.wtExpired.code ∧
        get CD.EV_CX_DONE n t = 1 ∧ cardState n t = 7 ∧ (cGet n t).endState = 9)

/-- An accepted GO takes a job, sends the five header bytes of the command buffer and reads 1. RESET deactivates a ready
card to activate it again, DEACT to leave it so; the end of the 103 µs gives the card its next state and clears
both. Enabling CP1 with W9 free claims it, and is answered CONFLICT while TM_OUT holds it; disabling a port
deactivates its card. (R347; R348; R349; R352; R353; R354; R374; R375) -/
def Obligations.CardCommandsActOnTheCard : Prop :=
  (∀ dt n dir s, n < 2 → dir < 4 → taken n CD.GO [(CD.GO, 1), (CD.DIR, dir)] (elapse dt s) →
      ∃ t, exec (.cxGo dt n dir) s = .next t ∧ t.mp.answer = 0 ∧ get CD.GO n t = 1 ∧ cardState n t = 5 ∧
        (cGet n t).txBytes = (cmdBuf n s).take 5 ∧ (cGet n t).hdr = (cmdBuf n s).take 5 ∧ (cGet n t).hdrLeft = 5 ∧
        (cGet n t).job = some s.nextJob ∧ (cGet n t).dir = dir ∧
        t.nextJob = s.nextJob + 1 ∧ t.jobs.length = s.jobs.length + 1) ∧
  (∀ dt n s, n < 2 → taken n CD.RESET [(CD.RESET, 1)] (elapse dt s) → (cGet n s).inserted = true → cardEn n s = true →
      cardState n s = 4 → (cGet n s).script = .none →
      ∃ t, exec (.cardReset dt n) s = .next t ∧ t.mp.answer = 0 ∧ cardState n t = 7 ∧ (cGet n t).again = true ∧
        get CD.RESET n t = 1 ∧ (cGet n t).due = s.now + dt + cyclesUs 103) ∧
  (∀ dt n s, n < 2 → taken n CD.DEACT [(CD.DEACT, 1)] (elapse dt s) → cardState n s = 4 → (cGet n s).script = .none →
      ∃ t, exec (.deact dt n) s = .next t ∧ t.mp.answer = 0 ∧ cardState n t = 7 ∧ (cGet n t).again = false ∧
        (cGet n t).endState = 9 ∧ get CD.DEACT n t = 1) ∧
  (∀ n s, n < 2 → cardState n s = 7 → (cGet n s).endState < 16 → s.now < (cGet n s).due →
      ∃ t, exec (.cardDeactivationEnd n) s = .next t ∧ t.now = (cGet n s).due ∧
        get CD.RESET n t = 0 ∧ get CD.DEACT n t = 0 ∧
        cardState n t = (if (cGet n s).again = true ∧ cardPresent n s = true ∧ cardEn n s = true then 2
          else if cardPresent n s = false then 0 else if (cGet n s).debounceEnd.isSome then 1 else (cGet n s).endState)) ∧
  (∀ dt s, mpServes s = true → s.variant = .sx4848 → get RG.CP1_EN 0 s = 0 → s.clk.w9 = .none →
      ∃ t, exec (.cp1Enable dt) s = .next t ∧ t.mp.answer = 0 ∧ get RG.CP1_EN 0 t = 1 ∧ t.clk.w9 = .cp1) ∧
  (∀ dt s, mpServes s = true → s.variant = .sx4848 → get RG.CP1_EN 0 s = 0 → s.clk.w9 = .tmOut → s.clk.w9Free = none →
      get RG.TM_OUT_EN 0 s = 1 →
      ∃ t, exec (.cp1Enable dt) s = .next t ∧ t.mp.answer = 6 ∧ get RG.CP1_EN 0 t = 0 ∧ t.clk.w9 = .tmOut ∧ get RG.IRQ_CONFLICT 0 t = 1) ∧
  (∀ dt n s, n < 2 → mpServes s = true → s.variant = .sx4848 → cardEn n s = true → cardState n s = 4 → (cGet n s).script = .none →
      ∃ t, exec (.cardPortDisable dt n) s = .next t ∧ t.mp.answer = 0 ∧ cardEn n t = false ∧ cardState n t = 7 ∧
        (cGet n t).endState = 0 ∧ (cGet n t).again = false ∧ t.clk.w9 = (elapse dt s).clk.w9)

/-- Each exchange of the key load script, and of the badge script, takes its time and writes CX_RESULT; the script goes on
while no verdict is due. The key load ends with the code of Table 6-7: for 1 with its site and its number of keys, for any
other with SITE_ID and KEYS_LOADED as they were; the badge script ends with the badge that the READ or the ATR gives.
Afterwards the card is READY when the last exchange went through, and is deactivated towards FAULT when it did not. Where
no such script runs, nothing happens. (R353; R384; R385; R386; R387; R388; R389; Table 6-7) -/
def Obligations.CardScriptsLoadKeysAndBadges : Prop :=
  (∀ w r s, (cGet 0 s).script ≠ .keyload → exec (.keyloadScript w r) s = .next s) ∧
  (∀ w r s, (cGet 1 s).script ≠ .badge → exec (.badgeScript w r) s = .next s) ∧
  (∀ w r s, (cGet 0 s).script = .keyload → siteVerdict ((cGet 0 s).got ++ [r]) s = none →
      ∃ t, exec (.keyloadScript w r) s = .next t ∧ t.now = s.now + w + r.rest ∧ (cGet 0 t).script = .keyload ∧
        (cGet 0 t).got = (cGet 0 s).got ++ [r] ∧ get CD.CX_RESULT 0 t = r.result.code ∧ get CD.EV_CX_DONE 0 t = 1 ∧
        cardState 0 t = cardState 0 s) ∧
  (∀ w r code site serial k ks s, (cGet 0 s).script = .keyload → cardState 0 s = 6 →
      siteVerdict ((cGet 0 s).got ++ [r]) s = some (code, site, serial, k, ks) →
      ∃ t, exec (.keyloadScript w r) s = .next t ∧ (cGet 0 t).script = .none ∧ get CD.CX_RESULT 0 t = r.result.code ∧
        get RG.KEYLOAD_RESULT 0 t = code % 2 ^ RG.KEYLOAD_RESULT.width ∧
        (if code = 1 then get RG.SITE_ID 0 t = site % 2 ^ 32 ∧ get RG.KEYS_LOADED 0 t = k % 2 ^ RG.KEYS_LOADED.width
          else get RG.SITE_ID 0 t = get RG.SITE_ID 0 s ∧ get RG.KEYS_LOADED 0 t = get RG.KEYS_LOADED 0 s) ∧
        (if r.result.good then cardState 0 t = 4 else cardState 0 t = 7 ∧ (cGet 0 t).endState = 9)) ∧
  (∀ w r s, (cGet 1 s).script = .badge → (cGet 1 s).got = [] → (scriptData 0 r).isSome = true →
      ∃ t, exec (.badgeScript w r) s = .next t ∧ t.now = s.now + w + r.rest ∧ (cGet 1 t).script = .badge ∧
        (cGet 1 t).got = [r] ∧ get CD.CX_RESULT 1 t = r.result.code ∧ get CD.EV_CX_DONE 1 t = 1) ∧
  (∀ w r s, (cGet 1 s).script = .badge → cardState 1 s = 6 → (cGet 1 s).got ≠ [] ∨ scriptData 0 r = none →
      ∃ t, exec (.badgeScript w r) s = .next t ∧ (cGet 1 t).script = .none ∧ get CD.CX_RESULT 1 t = r.result.code ∧
        (cGet 1 t).badge = (let read := if (cGet 1 s).got = [] then none else readBadge r
          some (read.getD (atrBadge s), read.isNone)) ∧
        (if r.result.good then cardState 1 t = 4 else cardState 1 t = 7 ∧ (cGet 1 t).endState = 9))

/-- PERIOD_BOUNDARY runs the clock on to the boundary of a running group and opens a period that begins there. A group
enabled under a running scheduler, with a quality other than 10, opens its first period at once; with the scheduler
off it only stores EN. A disabled group no longer runs; with the scheduler disabled no group runs. (R123; R124;
R407; R408; R457; Table 7-2) -/
def Obligations.ScanGroupsOpenPeriods : Prop :=
  (∀ g r s, g < 64 → find g s.groups = some r → ∃ t y, exec (.periodBoundary g) s = .next t ∧
      t.now = max s.now (boundaryCycle r s) ∧ get GP.RUNNING g t = 1 ∧ find g t.groups = some y ∧ y.lastB = t.now ∧
      y.aborted = false ∧ y.lastEnd = none ∧ get GP.LAST_B_SEC g t = t.ring.sec % 2 ^ 32 ∧
      get GP.PERIOD_CNT g t = GP.PERIOD_CNT.count (get GP.PERIOD_CNT g s) 1) ∧
  (∀ g s, find g s.groups = none → exec (.periodBoundary g) s = .next s) ∧
  (∀ dt g s, g < 64 → taken g GP.EN [(GP.EN, 1)] (elapse dt s) → get GP.EN g s = 0 → get RG.COP_EN 0 s = 1 →
      get RG.QUALITY 0 s ≠ 2 → find g s.groups = none →
      ∃ t y, exec (.groupEnable dt g) s = .next t ∧ t.mp.answer = 0 ∧ get GP.EN g t = 1 ∧ get GP.RUNNING g t = 1 ∧
        find g t.groups = some y ∧ y.lastB = s.now + dt ∧ y.nextB = s.now + dt + cyclesMs (get GP.PERIOD_MS g s)) ∧
  (∀ dt g s, g < 64 → taken g GP.EN [(GP.EN, 1)] (elapse dt s) → get RG.COP_EN 0 s = 0 →
      ∃ t, exec (.groupEnable dt g) s = .next t ∧ t.mp.answer = 0 ∧ get GP.EN g t = 1 ∧ t.groups = (elapse dt s).groups) ∧
  (∀ dt g s, g < 64 → taken g GP.EN [(GP.EN, 0)] (elapse dt s) → get GP.EN g s = 1 →
      ∃ t, exec (.groupDisable dt g) s = .next t ∧ t.mp.answer = 0 ∧ get GP.EN g t = 0 ∧ get GP.RUNNING g t = 0 ∧
        find g t.groups = none) ∧
  (∀ dt s, taken 0 RG.COP_EN [(RG.COP_EN, 0)] (elapse dt s) → get RG.COP_EN 0 s = 1 →
      ∃ t, exec (.schedulerDisable dt) s = .next t ∧ t.mp.answer = 0 ∧ get RG.COP_EN 0 t = 0 ∧ t.groups = [])

/-- TRANSACTION_START on a free port releases the step that a poll owes, or a waiting command when no poll is due, or
the due poll with a job of its own when a slot is idle; with none of these, or on a port that is not free, only time
passes. A response window that closes with no start edge frees the port, and a poll without retries ends NO_REPLY.
The end of a measurement wait owes the data commands, or frees the port of a poll that has ended. (R413; R414; R416; R418; R420; R423; R424; R426) -/
def Obligations.TransactionsHoldThePort : Prop :=
  (∀ dt p s, portFree p (elapse dt s) = false → exec (.transactionStart dt p) s = .next (elapse dt s)) ∧
  (∀ dt p s, owedPoll p (elapse dt s) = none → (copGet p s).cmds = [] → duePoll p (elapse dt s) = none →
      exec (.transactionStart dt p) s = .next (elapse dt s)) ∧
  (∀ dt p i s, portFree p (elapse dt s) = true → owedPoll p (elapse dt s) = some i →
      ∃ t, exec (.transactionStart dt p) s = .next t ∧ (copGet p t).txn = .poll i ∧ (plGet i t).st = .active ∧
        (pGet p t).txq = (pGet p s).txq ++ [.poll i] ∧ t.jobs = s.jobs) ∧
  (∀ dt p c s, portFree p (elapse dt s) = true → owedPoll p (elapse dt s) = none → nextCmd (copGet p s).cmds = some c →
      duePoll p (elapse dt s) = none ∨ (copGet p s).burst < get RG.CMD_BURST 0 s →
      ∃ t, exec (.transactionStart dt p) s = .next t ∧ (copGet p t).txn = .cmd c ∧
        (copGet p t).cmds = (copGet p s).cmds.filter (fun y => y.job != c.job) ∧ (pGet p t).txq = (pGet p s).txq ++ [.cmd c.job]) ∧
  (∀ dt p i s, portFree p (elapse dt s) = true → owedPoll p (elapse dt s) = none → (copGet p s).cmds = [] →
      duePoll p (elapse dt s) = some i → owes i s = false → anySlot s = true →
      ∃ t, exec (.transactionStart dt p) s = .next t ∧ (copGet p t).txn = .poll i ∧ (plGet i t).st = .active ∧
        (plGet i t).job = some s.nextJob ∧ t.jobs.length = s.jobs.length + 1) ∧
  (∀ dt p i s, portFree p (elapse dt s) = true → owedPoll p (elapse dt s) = none → (copGet p s).cmds = [] →
      duePoll p (elapse dt s) = some i → owes i s = true →
      ∃ t, exec (.transactionStart dt p) s = .next t ∧ (copGet p t).txn = .poll i ∧ (plGet i t).st = .active ∧
        t.jobs = s.jobs) ∧
  (∀ dt p s, (pGet p s).win = none → exec (.responseWindowClose dt p) s = .next (elapse dt s)) ∧
  (∀ dt p i w c s, i < 4096 → (pGet p s).win = some w → w.closeAt = some c → w.started = false → (pGet p s).open_ = none →
      (pGet p s).closed = [] → (copGet p s).txn = .poll i → pollPort i s = p → (plGet i s).st = .active → get PL.RETRIES i s = 0 →
      ∃ t, exec (.responseWindowClose dt p) s = .next t ∧ t.now = max s.now c ∧ (pGet p t).win = none ∧
        (copGet p t).txn = .none ∧ get PL.OUTCOME i t = Outcome7.noReply.code ∧
        get PL.NOREPLY_CNT i t = PL.NOREPLY_CNT.count (get PL.NOREPLY_CNT i s) 1) ∧
  (∀ i u h s, (plGet i s).st = .measuring u h → ∃ t, exec (.measurementWaitEnd i) s = .next t ∧ t.now = max s.now u ∧
      (plGet i t).st = .dataOwed) ∧
  (∀ i u s, (plGet i s).st = .holding u → ∃ t, exec (.measurementWaitEnd i) s = .next t ∧ t.now = max s.now u ∧
      plGet i t = PollRun.idle ∧ (copGet (pollPort i s) t).txn = .none) ∧
  (∀ i s, (∀ u h, (plGet i s).st ≠ .measuring u h) → (∀ u, (plGet i s).st ≠ .holding u) → exec (.measurementWaitEnd i) s = .next s)

/-- A record that alone waits for a slot beyond the reserve gets one forward job for its next tenant; with no slot
nothing starts. A forward job that expires is counted late for its tenant and class and ends. A record whose
deadline comes settles the destinations without a job. SLOT_IDLE leaves no slot retiring past its time. A copy whose
words are all in its queue is delivered and ends; otherwise it keeps its slot. (R33; R41; R47; R49; R50; R51; R449;
R451; R452) -/
def Obligations.JobsTakeAndFreeSlots : Prop :=
  (∀ dt s, pollsWaiting (elapse dt s) = [] → slotBeyondReserve s = false → exec (.jobSpawn dt) s = .next (elapse dt s)) ∧
  (∀ dt r d rest rem s, pollsWaiting (elapse dt s) = [] → slotBeyondReserve s = true → s.releases = [r] → s.uplinks = [] →
      r.todo = d :: rest → remaining r.deadline (elapse dt s) = some rem →
      ∃ t, exec (.jobSpawn dt) s = .next t ∧ t.releases = [{ r with todo := rest, jobs := r.jobs ++ [s.nextJob] }] ∧
        t.jobs = s.jobs ++ [⟨s.nextJob, .fwd, s.now + dt + ceilDiv rem 4, r.cls, d, r.src, none, false, false, none⟩] ∧
        t.nextJob = s.nextJob + 1) ∧
  (∀ s, nextExpiry s = none → exec .jobDeadlineExpiry s = .next s) ∧
  (∀ j s, j.tenant < 128 → nextExpiry s = some j → j.kind = .fwd → ∃ t, exec .jobDeadlineExpiry s = .next t ∧ t.now = max s.now j.due ∧
      activeJob j.id t = none ∧
      get (lateDropF j.cls) j.tenant t = (lateDropF j.cls).count (get (lateDropF j.cls) j.tenant s) 1 ∧
      get TN.LATE_DROP j.tenant t = 1 ∧ get RG.IRQ_LATE 0 t = 1) ∧
  (∀ src s, releaseOf src s = none → exec (.waitingRecordSettle src) s = .next s) ∧
  (∀ src r s, releaseOf src s = some r → r.todo ≠ [] → r.jobs ≠ [] → ∃ t, exec (.waitingRecordSettle src) s = .next t ∧
      t.now = max s.now (cycleOfNs r.deadline s) ∧
      releaseOf src t = some { r with settled := r.settled + r.todo.length, todo := [] }) ∧
  (∀ s, nextIdle s = none → exec .slotIdle s = .next s) ∧
  (∀ x s, nextIdle s = some x → ∃ t, exec .slotIdle s = .next t ∧ t.now = max s.now x ∧
      (∀ j ∈ t.jobs, j ∈ s.jobs ∧ ∀ y, j.idleAt = some y → t.now < y)) ∧
  (∀ dt src d s, forwardJob src d s = none → exec (.forwardCopyDone dt src d) s = .next (elapse dt s)) ∧
  (∀ dt src d j s, d < 128 → forwardJob src d s = some j → ∃ t, exec (.forwardCopyDone dt src d) s = .next t ∧
      (if outside (96 + d) (.job j.id) t = 0 then activeJob j.id t = none ∧
          get TN.DELIVERED d t = TN.DELIVERED.count (get TN.DELIVERED d s) 1
        else (activeJob j.id t).isSome = true ∧ get TN.DELIVERED d t = get TN.DELIVERED d s))

/-- CLASSIFICATION_START takes the record of the source that is visited next, the first that is not blocked and has a
record or a GAP word at its head; CLASSIFICATION_END comes in cycle
48, counts the record, and either counts a no-match or hands the rewritten record to the job engine with its class
and destinations. Waiting CANOPY words take effect one cycle later, once no classification runs. CANOPY_EN is stored
by hold and resume; a GAP word at the head of the source that is visited next is removed. (R32; R33; R476; R480; R483; R484; R485;
R486; R487; R987) -/
def Obligations.RecordsAreClassified : Prop :=
  (∀ dt s, canopyFree (elapse dt s) = false → exec (.classificationStart dt) s = .next (elapse dt s) ∧
      exec (.sourceGapRemove dt) s = .next (elapse dt s)) ∧
  (∀ dt src s, canopyFree (elapse dt s) = true → nextVisit (elapse dt s) = some src → (sourceRecord src (elapse dt s)).isSome = true →
      ∃ t, exec (.classificationStart dt) s = .next t ∧ t.canopy.last = src ∧ t.canopy.run = some (src, s.now + dt,
        combine (evaluate ((sourceRecord src (elapse dt s)).getD []) (elapse dt s)).contrib (elapse dt s)) ∧
        t.releases = s.releases ∧ t.jobs = s.jobs) ∧
  (∀ dt src s, src < 48 → canopyFree (elapse dt s) = true → nextVisit (elapse dt s) = some src → sourceGap src (elapse dt s) = true →
      blocksKept src s →
      ∃ t, exec (.sourceGapRemove dt) s = .next t ∧ t.canopy.last = src ∧ (qGet src t).count + 1 = (qGet src s).count ∧
        (∀ q, q ≠ src → qGet q t = qGet q (elapse dt s))) ∧
  (∀ s, s.canopy.run = none → exec .classificationEnd s = .next s) ∧
  (∀ src c r s, s.canopy.run = some (src, c, r) → r.noMatch = true → r.logRule = none → ∃ t, exec .classificationEnd s = .next t ∧
      t.now = max s.now (c + 47) ∧ t.canopy.run = none ∧ t.releases = s.releases ∧
      get RG.NOMATCH_CNT 0 t = RG.NOMATCH_CNT.count (get RG.NOMATCH_CNT 0 s) 1 ∧
      get RG.CLASSIFIED_CNT 0 t = RG.CLASSIFIED_CNT.count (get RG.CLASSIFIED_CNT 0 s) 1) ∧
  (∀ src c r ws s, src < 48 → s.canopy.run = some (src, c, r) → r.noMatch = false → r.drop = false → r.deliver ≠ [] → r.logRule = none →
      sourceRecord src s = some ws →
      (remaining ((hdrStamp (recWord (resultWords r ws) 1) (recWord (resultWords r ws) 2)).total +
        (r.deadlineMs.getD (classDefaultMs r.cls)) * 1000000) (runTo (c + 47) s)).isSome = true →
      ∃ t d, exec .classificationEnd s = .next t ∧ t.canopy.run = none ∧
        t.releases = s.releases ++ [⟨src, resultWords r ws, d, r.cls, r.deliver, [], 0⟩] ∧ qGet src t = qGet src s ∧
        get RG.CLASSIFIED_CNT 0 t = RG.CLASSIFIED_CNT.count (get RG.CLASSIFIED_CNT 0 s) 1) ∧
  (∀ dt s, (s.canopy.waitWrite = none ∨ s.canopy.run ≠ none) → exec (.canopyWriteEffect dt) s = .next (elapse dt s)) ∧
  (∀ dt ws s, s.canopy.waitWrite = some (none, ws) → s.canopy.run = none → ∃ t, exec (.canopyWriteEffect dt) s = .next t ∧
      t.now = s.now + dt + 1 ∧ t.canopy.waitWrite = none) ∧
  (∀ dt s, mpServes s = true → ∃ t, exec (.canopyHold dt) s = .next t ∧ t.mp.answer = 0 ∧ get RG.CANOPY_EN 0 t = 0 ∧
      t = { elapse dt s with regs := t.regs, cyc := t.cyc, mp := t.mp, cfg := t.cfg }) ∧
  (∀ dt s, mpServes s = true → ∃ t, exec (.canopyResume dt) s = .next t ∧ t.mp.answer = 0 ∧ get RG.CANOPY_EN 0 t = 1 ∧
      t = { elapse dt s with regs := t.regs, cyc := t.cyc, mp := t.mp, cfg := t.cfg })

/-- A taken EN 1 stores the enable and starts nothing else; a taken EN 0 of an enabled tenant stores it; tenant 0 cannot
be disabled. A key write of a present tenant replaces its key, sets KEY_SET, advances KEY_GEN and clears both
counters; one of an absent tenant is answered ABSENT and changes nothing else. (R491; R492; R494; R502; R503) -/
def Obligations.TenantsAndKeysAreWritten : Prop :=
  (∀ dt x s, x < 128 → taken x TN.EN [(TN.EN, 1)] (elapse dt s) → ∃ t, exec (.tenantEnable dt x) s = .next t ∧ t.mp.answer = 0 ∧
      get TN.EN x t = 1 ∧ t = { elapse dt s with regs := t.regs, cyc := t.cyc, mp := t.mp, cfg := t.cfg }) ∧
  (∀ dt x s, x < 128 → taken x TN.EN [(TN.EN, 0)] (elapse dt s) → ∃ t, exec (.tenantDisable dt x) s = .next t ∧ t.mp.answer = 0 ∧
      get TN.EN x t = 0) ∧
  (∀ dt s, mpServes s = true → get TN.CONSUMER 0 s = 0 → get TN.LISTEN_PORT 0 s = 0 →
      ∃ t, exec (.tenantDisable dt 0) s = .next t ∧ t.mp.answer = 1 ∧ t = { elapse dt s with mp := t.mp }) ∧
  (∀ dt x k0 k1 k2 k3 s, mpServes s = true → x < Config.tenants s.variant → ∃ t, exec (.keyWrite dt x k0 k1 k2 k3) s = .next t ∧
      t.mp.answer = 0 ∧ (tGet x t).key = [k0, k1, k2, k3].flatMap wordBytes ∧ get TN.KEY_SET x t = 1 ∧
      get TN.KEY_GEN x t = TN.KEY_GEN.count (get TN.KEY_GEN x s) 1 ∧ get TN.RX_CTR x t = 0 ∧ get TN.TX_CTR x t = 0 ∧
      get TN.KEY_LOADED x t = 1 ∧ (∀ y, y ≠ x → tGet y t = tGet y s)) ∧
  (∀ dt x k0 k1 k2 k3 s, mpServes s = true → Config.tenants s.variant ≤ x → ∃ t, exec (.keyWrite dt x k0 k1 k2 k3) s = .next t ∧
      t.mp.answer = 2 ∧ t = { elapse dt s with mp := t.mp })

/-- The next waiting word that its queue accepts enters and counts; one that is not accepted waits on with FULL set. Of
producers that wait with no record open the named one writes its START word. While the middle is empty the oldest
tail word moves into a free head place, and the head shows the POISON flags that its words have come by. The gap register of an idle queue with room writes its count as a GAP word
and returns to 0. (R522; R529; R530; R552; R553; R554; Table 16-3) -/
def Obligations.QueueWordsEnterAndAdvance : Prop :=
  (∀ dt q p w rest s, q < 226 → queueOk s q = true → quiet q s → (pGet q s).moving = false → (qGet q (elapse dt s)).openBy = some p →
      (qGet q (elapse dt s)).openCleared = false → (qGet q (elapse dt s)).gap = ⟨0, 0, 0, 0, 0⟩ →
      takeWaiting p (qGet q (elapse dt s)).wait = some (w, rest) → accepts q p w (elapse dt s) = true →
      ∃ t, exec (.queueWordWrite dt q) s = .next t ∧ (qGet q t).wait = rest ∧ (qGet q t).count = (qGet q (elapse dt s)).count + 1 ∧
        get CN.WORDS_IN q t = CN.WORDS_IN.count (get CN.WORDS_IN q (elapse dt s)) 1) ∧
  (∀ dt q p w rest s, q < 226 → queueOk s q = true → quiet q s → (pGet q s).moving = false → (qGet q (elapse dt s)).openBy = some p →
      takeWaiting p (qGet q (elapse dt s)).wait = some (w, rest) → accepts q p w (elapse dt s) = false →
      (qGet q (elapse dt s)).counted = false →
      ∃ t, exec (.queueWordWrite dt q) s = .next t ∧ (qGet q t).wait = (qGet q (elapse dt s)).wait ∧
        (qGet q t).count = (qGet q (elapse dt s)).count ∧ get QU.FULL q t = 1 ∧
        get CN.FULL_CNT q t = CN.FULL_CNT.count (get CN.FULL_CNT q (elapse dt s)) 1) ∧
  (∀ dt q k p w rest s, q < 226 → queueOk s q = true → quiet q s → (pGet q s).moving = false → (waitingProducers q (elapse dt s))[k]? = some p →
      (qGet q (elapse dt s)).openBy = none → (qGet q (elapse dt s)).gap = ⟨0, 0, 0, 0, 0⟩ → (qGet q (elapse dt s)).room = true →
      takeWaiting p (qGet q (elapse dt s)).wait = some (w, rest) → w.tag = .start → (qGet q (elapse dt s)).openCleared = false →
      ∃ t, exec (.producerAdmit dt q k) s = .next t ∧ (qGet q t).openBy = some p ∧ (qGet q t).wait = rest ∧
        (qGet q t).count = (qGet q (elapse dt s)).count + 1) ∧
  (∀ dt q k s, (waitingProducers q (elapse dt s))[k]? = none → exec (.producerAdmit dt q k) s = .next (elapse dt s)) ∧
  (∀ dt q w r s, queueOk s q = true → (qGet q (elapse dt s)).mid = [] → (qGet q (elapse dt s)).head.length < 8 →
      (qGet q (elapse dt s)).tail = w :: r → ∃ t, exec (.headMove dt q) s = .next t ∧
      qGet q t = { qGet q (elapse dt s) with head := (qGet q (elapse dt s)).head ++ [(w, s.now + dt)], tail := r }.marked ∧
      (∀ k, k ≠ q → qGet k t = qGet k (elapse dt s)) ∧ t = { elapse dt s with queues := t.queues }) ∧
  (∀ dt q s, ((qGet q (elapse dt s)).mid ≠ [] ∨ (qGet q (elapse dt s)).tail = [] ∨ 8 ≤ (qGet q (elapse dt s)).head.length) →
      exec (.headMove dt q) s = .next (elapse dt s)) ∧
  (∀ dt q n s, q < 226 → queueOk s q = true → 0 < n → (qGet q (elapse dt s)).gap = ⟨0, n, 0, 0, 0⟩ →
      (qGet q (elapse dt s)).openBy = none → (qGet q (elapse dt s)).room = true → ∃ t, exec (.gapWordWrite dt q) s = .next t ∧
      (qGet q t).gap = ⟨0, 0, 0, 0, 0⟩ ∧ (qGet q t).gapOwed = true ∧ (qGet q t).count = (qGet q (elapse dt s)).count + 1 ∧
      get CN.GAP_CNT q t = CN.GAP_CNT.count (get CN.GAP_CNT q (elapse dt s)) 1) ∧
  (∀ dt q s, (qGet q (elapse dt s)).openBy ≠ none → exec (.gapWordWrite dt q) s = .next (elapse dt s))

/-- A spill goes into a half-written newest block once the store's data port has given it its STORE cycles, or takes a lane and
a free block when the queue may allocate; when it may not, nothing moves, and with nothing to spill only time passes. The
end of an allocation moves its block to HELD, the end of a release to FREE. A refill moves words from the middle until the
head is full or the middle empty, and loses none. (R60; R62; R531; R532; R533; R536; R537; R542; Table 9-9) -/
def Obligations.BlocksSpillAndRefill : Prop :=
  (∀ dt q s, wantsSpill (qGet q (elapse dt s)) = false → exec (.spill dt q) s = .next (elapse dt s)) ∧
  (∀ dt q b e s, e = portServesReq (.spill q) (elapse dt s) → wantsSpill (qGet q e) = true → holdsPartial q e = false →
      newest (qGet q e).mid = some b → b.written < 16 →
      ∃ t, exec (.spill dt q) s = .next t ∧ (qGet q t).tail = [] ∧ (qGet q t).used = (qGet q e).used ∧
        (qGet q t).words = (qGet q e).words ∧ t = { e with queues := t.queues }) ∧
  (∀ dt q e s, e = portServesReq (.spill q) (elapse dt s) → q < 226 → wantsSpill (qGet q e) = true → holdsPartial q e = false →
      (∀ b, newest (qGet q e).mid = some b → 16 ≤ b.written) → mayAllocate q e = true → e.store.lanes.length < 8 →
      ∃ t, exec (.spill dt q) s = .next t ∧ (qGet q t).tail = [] ∧ (qGet q t).used = (qGet q e).used + 1 ∧
        (qGet q t).words = (qGet q e).words ∧ t.store.free = e.store.free - 1 ∧ t.now = e.now ∧
        t.store.lanes = e.store.lanes ++ [⟨q, true, false⟩]) ∧
  (∀ dt q e s, e = portServesReq (.spill q) (elapse dt s) → (∀ b, newest (qGet q e).mid = some b → 16 ≤ b.written) →
      mayAllocate q e = false → exec (.spill dt q) s = .next e) ∧
  (∀ dt q l rest s, dropLane q true s.store.lanes = some (l, rest) → l.clearing = false → s.store.allocWait = [] → s.store.releases = [] →
      ∃ t, exec (.allocationEnd dt q) s = .next t ∧ t.store.lanes = rest ∧ t.store.held = s.store.held + 1 ∧
        t.store.free = s.store.free ∧ t = { elapse dt s with store := t.store }) ∧
  (∀ dt q l rest s, dropLane q false s.store.lanes = some (l, rest) → l.clearing = false → s.store.allocWait = [] → s.store.releases = [] →
      ∃ t, exec (.releaseEnd dt q) s = .next t ∧ t.store.lanes = rest ∧ t.store.free = s.store.free + 1 ∧
        t.store.held = s.store.held ∧ t = { elapse dt s with store := t.store }) ∧
  (∀ dt q s, dropLane q true s.store.lanes = none → exec (.allocationEnd dt q) s = .next (elapse dt s)) ∧
  (∀ dt q s, dropLane q false s.store.lanes = none → exec (.releaseEnd dt q) s = .next (elapse dt s)) ∧
  (∀ dt q e s, e = portServesReq (.refill q) (elapse dt s) → (qGet q e).head.length ≤ 4 → (qGet q e).mid ≠ [] →
      blocksKept q e →
      ∃ t, exec (.refill dt q []) s = .next t ∧ (qGet q t).count = (qGet q e).count ∧
        (qGet q t).head.length = min 8 ((qGet q e).head.length + (qGet q e).midWords.length) ∧
        (qGet q t).tail = (qGet q e).tail ∧ t.now = e.now) ∧
  (∀ dt q bad s, (4 < (qGet q (elapse dt s)).head.length ∨ (qGet q (elapse dt s)).mid = []) →
      exec (.refill dt q bad) s = .next (elapse dt s))

/-- A complete record at the head of a verified queue, with words in the store, begins its verify pass; the end of a
pass that finds every word sound, after its STORE cycles, marks the record verified and changes no word. Where no pass is
due or none runs, only time passes. (R62; R544; R546; R547) -/
def Obligations.RecordsAreVerified : Prop :=
  (∀ dt q n w r s, queueOk s q = true → verifiedQueue q = true → (qGet q (elapse dt s)).verified = false →
      (qGet q (elapse dt s)).verifying = false → (qGet q (elapse dt s)).headExtent = some n → (qGet q (elapse dt s)).head = w :: r →
      w.1.tag = .start → (qGet q (elapse dt s)).head.length < n → (qGet q (elapse dt s)).mid ≠ [] →
      ∃ t, exec (.verifyPass dt q) s = .next t ∧ qGet q t = { qGet q (elapse dt s) with verifying := true } ∧
        t = { elapse dt s with queues := t.queues }) ∧
  (∀ dt q s, (verifiedQueue q = false ∨ (qGet q (elapse dt s)).verified = true ∨ (qGet q (elapse dt s)).verifying = true ∨
        (qGet q (elapse dt s)).headExtent = none) → exec (.verifyPass dt q) s = .next (elapse dt s)) ∧
  (∀ dt q e s, e = passServed q [] (elapse dt s) → (qGet q (elapse dt s)).verifying = true → (∀ w ∈ (qGet q e).words, w.tag ≠ .poison) →
      ∃ t, exec (.verifyPassEnd dt q []) s = .next t ∧ (qGet q t).verified = true ∧ (qGet q t).verifying = false ∧
        (qGet q t).words = (qGet q e).words ∧ t = { e with queues := t.queues }) ∧
  (∀ dt q bad s, (qGet q (elapse dt s)).verifying = false → exec (.verifyPassEnd dt q bad) s = .next (elapse dt s))

/-- A taken CLEAR 1 reads 1 and asks for a Clearing. Once the consumer is outside a record the Clearing empties head,
middle and tail, leaves at most one GAP word and a gap register that holds the late drops of this CORE cycle alone, detaches the blocks, sets CLEARED and
counts; inside a record nothing but time passes. CLEAR reads 0 when no detached block is left, but where software writes 1 in that
very CORE cycle the bit stays and a second Clearing is asked for. (R24; R567; R568; R569;
R570; R571; R572) -/
def Obligations.ClearingEmptiesAQueue : Prop :=
  (∀ dt q s, q < 226 → taken q QU.CLEAR [(QU.CLEAR, 1)] (elapse dt s) → get QU.CLEAR q s = 0 →
      ∃ t, exec (.clear dt q) s = .next t ∧ t.mp.answer = 0 ∧ get QU.CLEAR q t = 1 ∧ (qGet q t).clearWanted = true ∧
        (qGet q t).words = (qGet q (elapse dt s)).words) ∧
  (∀ dt q s, q < 226 → (48 ≤ q → q < 96 → (pGet (q - 48) s).txq = []) → (qGet q (elapse dt s)).clearWanted = true →
      (qGet q (elapse dt s)).inside = false →
      ∃ t, exec (.clearingEffect dt q) s = .next t ∧ (qGet q t).mid = [] ∧ (qGet q t).tail = [] ∧ (qGet q t).head.length ≤ 1 ∧
        (qGet q t).gap = ((elapse dt s).cyc.late.filter fun e => e.1 == q).foldl (fun g e => g.late e.2) ⟨0, 0, 0, 0, 0⟩ ∧
        (qGet q t).clearWanted = false ∧ (qGet q t).detached = (qGet q (elapse dt s)).used ∧
        get QU.CLEARED q t = 1 ∧ get RG.IRQ_QUEUE 0 t = 1 ∧
        get CN.CLEAR_CNT q t = CN.CLEAR_CNT.count (get CN.CLEAR_CNT q (elapse dt s)) 1) ∧
  (∀ dt q s, ((qGet q (elapse dt s)).clearWanted = false ∨ (qGet q (elapse dt s)).inside = true) →
      exec (.clearingEffect dt q) s = .next (elapse dt s)) ∧
  (∀ dt q s, get QU.CLEAR q (elapse dt s) = 1 → (qGet q (elapse dt s)).clearWanted = false → (qGet q (elapse dt s)).detached = 0 →
      (elapse dt s).cyc.sw.contains (QU.CLEAR.key q) = false →
      ∃ t, exec (.clearingEnd dt q) s = .next t ∧ get QU.CLEAR q t = 0 ∧ t = { elapse dt s with regs := t.regs }) ∧
  (∀ dt q s, get QU.CLEAR q (elapse dt s) = 1 → (qGet q (elapse dt s)).clearWanted = false → (qGet q (elapse dt s)).detached = 0 →
      (elapse dt s).cyc.sw.contains (QU.CLEAR.key q) = true →
      ∃ t, exec (.clearingEnd dt q) s = .next t ∧ get QU.CLEAR q t = 1 ∧ (qGet q t).clearWanted = true ∧
        t = { elapse dt s with queues := t.queues }) ∧
  (∀ dt q s, (get QU.CLEAR q (elapse dt s) ≠ 1 ∨ (qGet q (elapse dt s)).detached ≠ 0) →
      exec (.clearingEnd dt q) s = .next (elapse dt s))

/-- A frame with a bad CRC byte is answered CRC_BAD, counts in CRC_BAD_CNT and changes nothing but the port. A good
frame advances FRAME_SEQ; a served READ of one present word answers OK with LAST fields as received, an absent one
ABSENT; a WRITE answers with the status of its words; an unknown opcode is REFUSED. STATUS answers its twelve bytes
and changes no LAST field; an aborted frame counts in ABORT_CNT. (R653; R657; R658; R662; R666; R667; R683; R684;
Table 11-6) -/
def Obligations.FramesAreAnsweredByTheirChecks : Prop :=
  (∀ dt a n crc rest s, outOfReset s = true → crc8 ([byte 0xA1] ++ beBytes 2 a ++ [byte n]) ≠ crc →
      ∃ t, exec (.read dt a n crc rest) s = .next t ∧ t.mp.lastStatus = 3 ∧ t.mp.lastOp = 0xA1 ∧ t.mp.frameSeq = s.mp.frameSeq ∧
        t.mp.crcBad = min 65535 (s.mp.crcBad + 1) ∧ t = { elapse rest (elapse dt s) with mp := t.mp }) ∧
  (∀ dt a rest s, mpServes s = true → a < 256 → windowOf a = none → place 0 a s = .absent →
      ∃ t, exec (.read dt a 1 (crc8 ([byte 0xA1] ++ beBytes 2 a ++ [byte 1])) rest) s = .next t ∧ t.mp.lastStatus = 2 ∧
        t.mp.lastArg = a ∧ t.mp.lastDone = 0 ∧ t.mp.frameSeq = (s.mp.frameSeq + 1) % 65536 ∧
        t = { elapse rest (elapse dt s) with mp := t.mp }) ∧
  (∀ dt a rest s, mpServes s = true → a < 256 → windowOf a = none → a ≠ 9 → place 0 a s ≠ .absent → writeOnly 0 a = false →
      ∃ t, exec (.read dt a 1 (crc8 ([byte 0xA1] ++ beBytes 2 a ++ [byte 1])) rest) s = .next t ∧ t.mp.lastStatus = 0 ∧
        t.mp.lastOp = 0xA1 ∧ t.mp.lastArg = a ∧ t.mp.lastDone = 1 ∧ t.mp.frameSeq = (s.mp.frameSeq + 1) % 65536 ∧
        t.ring = (elapse rest (elapse dt s)).ring ∧ t.ports = s.ports) ∧
  (∀ dt a v crc s, outOfReset s = true → crc8 ([byte 0xA2] ++ beBytes 2 a ++ [byte 1] ++ wordBytes v) ≠ crc →
      ∃ t, exec (.write dt a [v] crc) s = .next t ∧ t.mp.lastStatus = 3 ∧ t.mp.lastOp = 0xA2 ∧
        t = { elapse dt s with mp := t.mp }) ∧
  (∀ dt a v s, mpServes s = true → windowOf a = none →
      ∃ t, exec (.write dt a [v] (crc8 ([byte 0xA2] ++ beBytes 2 a ++ [byte 1] ++ wordBytes v))) s = .next t ∧ t.mp.lastOp = 0xA2 ∧
        t.mp.lastStatus = (writeFrame a [v] (mpMap (fun m => { m with request := 9, frameSeq := (s.mp.frameSeq + 1) % 65536 }) (elapse dt s))).1 ∧
        t.mp.lastDone = (if t.mp.lastStatus = 0 then 1 else 0)) ∧
  (∀ dt a v s, mpServes s = false → outOfReset s = true → a ≠ 5 →
      ∃ t, exec (.write dt a [v] (crc8 ([byte 0xA2] ++ beBytes 2 a ++ [byte 1] ++ wordBytes v))) s = .next t ∧
        t.mp.lastStatus = 4 ∧ t.mp.lastDone = 0 ∧ t = { elapse dt s with mp := t.mp }) ∧
  (∀ dt a n s, outOfReset s = true → ∃ t, exec (.status dt a n (crc8 ([0xA5#8] ++ beBytes 2 a ++ [byte n]))) s = .next t ∧
      t.mp.reply = (byte (if a = 0 ∧ n = 0 then 0 else 1) :: statusBytes (elapse dt s)) ++
        [byte (crc8 (byte (if a = 0 ∧ n = 0 then 0 else 1) :: statusBytes (elapse dt s)))] ∧
      t.mp = { s.mp with request := 5, reply := t.mp.reply } ∧ t = { elapse dt s with mp := t.mp }) ∧
  (∀ dt op a n s, mpServes s = true → op < 0xA1 ∨ 0xA5 < op → ∃ t,
      exec (.unknownOpcode dt op a n (crc8 ([byte op] ++ beBytes 2 a ++ [byte n] ++ []))) s = .next t ∧
      t.mp.lastOp = op ∧ t.mp.lastStatus = 1 ∧ t.mp.lastDone = 0 ∧ t.mp.frameSeq = (s.mp.frameSeq + 1) % 65536 ∧
      t = { elapse dt s with mp := t.mp }) ∧
  (∀ dt s, outOfReset s = true → ∃ t, exec (.frameAbort dt) s = .next t ∧
      t.mp = { s.mp with abort := min 65535 (s.mp.abort + 1), reply := [] } ∧ t = { elapse dt s with mp := t.mp })

/-- A good QREAD frame of a readable queue takes up to N takeable words from the queue, answers OK with their number in
LAST_DONE, and retains the reply; in WAIT mode with nothing takeable it waits until its bound. A repeat of the
retained queue and N answers the same words and takes none. A queue that QREAD may not read is answered REFUSED. The
end of the wait decides the status; an abandoned wait counts in ABORT_CNT. (R523; R561; R562; R563; R564; R565;
R675; R676; R677) -/
def Obligations.QueueReadsTakeWords : Prop :=
  (∀ dt q n s, mpServes s = true → q < 226 → 1 ≤ n → n ≤ 64 → queueOk s q = true → qreadOk q (elapse dt s) = true →
      (get QU.MP_MODE q s = 0 ∨ takeableWords q n (elapse dt s) ≠ []) →
      ∃ t, exec (.qread dt q n (crc8 ([byte 0xA3] ++ beBytes 2 q ++ [byte n] ++ []))) s = .next t ∧ t.mp.lastStatus = 0 ∧
        t.mp.lastOp = 0xA3 ∧ t.mp.lastDone = (takeableWords q n (elapse dt s)).length ∧
        t.mp.retained = some (q, n, slots n (takeableWords q n (elapse dt s))) ∧
        (qGet q t).count + t.mp.lastDone = (qGet q (elapse dt s)).count) ∧
  (∀ dt q n s, mpServes s = true → q < 226 → 1 ≤ n → n ≤ 64 → queueOk s q = true → qreadOk q (elapse dt s) = true →
      get QU.MP_MODE q s = 1 → takeableWords q n (elapse dt s) = [] →
      ∃ t, exec (.qread dt q n (crc8 ([byte 0xA3] ++ beBytes 2 q ++ [byte n] ++ []))) s = .next t ∧
        t.mp.qread = some (q, n, s.now + dt + cyclesUs (get QU.WAIT_US q s)) ∧ t = { elapse dt s with mp := t.mp }) ∧
  (∀ dt q n s, mpServes s = true → q < 226 → 1 ≤ n → n ≤ 64 → queueOk s q = true → qreadOk q (elapse dt s) = false →
      ∃ t, exec (.qread dt q n (crc8 ([byte 0xA3] ++ beBytes 2 q ++ [byte n] ++ []))) s = .next t ∧
        t.mp.lastStatus = 1 ∧ t = { elapse dt s with mp := t.mp }) ∧
  (∀ dt q n sl s, mpServes s = true → q < 226 → 1 ≤ n → n ≤ 64 → queueOk s q = true → qreadOk q (elapse dt s) = true →
      s.mp.retained = some (q, n, sl) →
      ∃ t, exec (.qreadRepeat dt q n (crc8 ([byte 0xA3] ++ beBytes 2 (0x8000 + q) ++ [byte n] ++ []))) s = .next t ∧
        t.mp.lastStatus = 0 ∧ t.mp.retained = s.mp.retained ∧ t = { elapse dt s with mp := t.mp }) ∧
  (∀ dt q n b s, s.mp.qread = some (q, n, b) → (qGet q (elapse dt s)).head = [] →
      ∃ t, exec (.qreadWaitEnd dt) s = .next t ∧ t.mp.qread = none ∧ t.mp.lastStatus = 0 ∧ t.now = max (s.now + dt) b) ∧
  (∀ dt s, s.mp.qread = none → exec (.qreadWaitEnd dt) s = .next (elapse dt s) ∧ exec (.qreadAbandon dt) s = .next (elapse dt s)) ∧
  (∀ dt x s, s.mp.qread = some x → ∃ t, exec (.qreadAbandon dt) s = .next t ∧ t.mp.qread = none ∧
      t.mp.abort = min 65535 (s.mp.abort + 1) ∧ t.mp.lastOp = 0xA3 ∧ t.mp.lastDone = 0 ∧ t.queues = (elapse dt s).queues)

/-- A good QWRITE whose words follow the order of an injected record enters them in queue 224 and answers OK when all
have entered, or waits until its bound. A bad order is answered REFUSED with queue 224 unchanged when no record of
the port was open. The end of the wait answers OK with every word entered, and FULL_TIMEOUT when the bound has
passed; a rise of MP_CS_N drops the words outside. (R313; R315; R316; R678; R679; R680; R681) -/
def Obligations.QueueWritesInject : Prop :=
  (∀ dt ws s, mpServes s = true → 1 ≤ ws.length → ws.length ≤ 64 → (qGet 224 s).openBy = none →
      qwCheck (elapse dt s) false false (qGet 224 s).openWords (qGet 224 s).openLen ws = .ok →
      ∃ t, exec (.qwrite dt 224 ws (crc8 ([byte 0xA4] ++ beBytes 2 224 ++ [byte ws.length] ++
          ws.flatMap fun (t, d) => byte t :: wordBytes d))) s = .next t ∧
        (if t.mp.qwrite = none then t.mp.lastStatus = 0 ∧ t.mp.lastOp = 0xA4 ∧ t.mp.lastDone = ws.length
         else t.mp.qwrite = some (ws.length, s.now + dt + cyclesUs (get QU.WAIT_US 224 s)) ∧ 0 < qwOutside t)) ∧
  (∀ dt ws s, mpServes s = true → 1 ≤ ws.length → ws.length ≤ 64 → (qGet 224 s).openBy = none →
      qwCheck (elapse dt s) false false (qGet 224 s).openWords (qGet 224 s).openLen ws = .bad →
      ∃ t, exec (.qwrite dt 224 ws (crc8 ([byte 0xA4] ++ beBytes 2 224 ++ [byte ws.length] ++
          ws.flatMap fun (t, d) => byte t :: wordBytes d))) s = .next t ∧
        t.mp.lastStatus = 1 ∧ t.mp.lastDone = 0 ∧ t = { elapse dt s with mp := t.mp }) ∧
  (∀ dt n b s, s.mp.qwrite = some (n, b) → qwOutside s = 0 → ∃ t, exec (.qwriteDone dt) s = .next t ∧ t.mp.lastStatus = 0 ∧
      t.mp.lastDone = n ∧ t.mp.qwrite = none ∧ t.now = s.now + dt) ∧
  (∀ dt n b s, s.mp.qwrite = some (n, b) → 0 < qwOutside s → ∃ t, exec (.qwriteDone dt) s = .next t ∧ t.mp.lastStatus = 5 ∧
      t.mp.lastDone = n - qwOutside s ∧ t.mp.qwrite = none ∧ t.now = max (s.now + dt) b ∧ qwOutside t = 0) ∧
  (∀ dt n b s, s.mp.qwrite = some (n, b) → ∃ t, exec (.qwriteCsRise dt) s = .next t ∧ t.mp.qwrite = none ∧
      t.mp.lastDone = n - qwOutside s ∧ qwOutside t = 0 ∧ t.now = s.now + dt) ∧
  (∀ dt s, s.mp.qwrite = none → exec (.qwriteDone dt) s = .next (elapse dt s) ∧ exec (.qwriteCsRise dt) s = .next (elapse dt s))

/-- Before SERVICE_READY a register write is answered BUSY and writes nothing; one to an absent word is answered ABSENT,
one to a reserved word REFUSED; RT_SET_SEC takes its value and nothing else changes. A window space within range is
stored with address 0, one beyond it refused. The body buffer takes four bytes up to forty and is cleared by
BODY_CLR; a refused GO gives its reason and runs nothing, an accepted one empties the buffer and counts. (R20; R22;
R663; R664; R667; R672; R687; R688; R689; R985; Table 11-7) -/
def Obligations.RegisterWritesAreJudged : Prop :=
  (∀ dt space a v s, outOfReset s = true → mpServes s = false → ∃ t, exec (.registerWrite dt space a v) s = .next t ∧
      t.mp.answer = 4 ∧ t = { elapse dt s with mp := t.mp }) ∧
  (∀ dt space a v s, mpServes s = true → 1 ≤ space → space ≠ 3 → place space a s = .absent →
      ∃ t, exec (.registerWrite dt space a v) s = .next t ∧ t.mp.answer = 2 ∧ t = { elapse dt s with mp := t.mp }) ∧
  (∀ dt a v s, mpServes s = true → a < 256 → windowOf a = none → place 0 a s = .reserved →
      ∃ t, exec (.registerWrite dt 0 a v) s = .next t ∧ t.mp.answer = 1 ∧ t = { elapse dt s with mp := t.mp }) ∧
  (∀ dt v s, mpServes s = true → ∃ t, exec (.registerWrite dt 0 0x15 v) s = .next t ∧ t.mp.answer = 0 ∧
      get RG.RT_SET_SEC 0 t = v.toNat ∧ (∀ g j, g.key j ≠ RG.RT_SET_SEC.key 0 → get g j t = get g j (elapse dt s)) ∧
      t = { elapse dt s with regs := t.regs, cyc := t.cyc, mp := t.mp, cfg := t.cfg }) ∧
  (∀ dt w v s, mpServes s = true → w < 4 → bits v.toNat 0 8 ≤ 12 → ∃ t, exec (.windowSpaceWrite dt w v) s = .next t ∧
      t.mp.answer = 0 ∧ get RG.WIN_SPACE w t = bits v.toNat 0 8 ∧ get RG.WIN_ADDR w t = 0) ∧
  (∀ dt w v s, mpServes s = true → w < 4 → 14 ≤ bits v.toNat 0 8 → ∃ t, exec (.windowSpaceWrite dt w v) s = .next t ∧
      t.mp.answer = 1 ∧ t = { elapse dt s with mp := t.mp }) ∧
  (∀ dt v s, mpServes s = true → s.mp.body.length ≤ 36 → ∃ t, exec (.hcmdBodyWrite dt v) s = .next t ∧ t.mp.answer = 0 ∧
      t.mp.body = s.mp.body ++ beBytes 4 v.toNat) ∧
  (∀ dt v s, mpServes s = true → 36 < s.mp.body.length → ∃ t, exec (.hcmdBodyWrite dt v) s = .next t ∧ t.mp.answer = 1 ∧
      t = { elapse dt s with mp := t.mp } ∧ t.mp.body = s.mp.body) ∧
  (∀ dt s, taken 0 RG.BODY_CLR [(RG.BODY_CLR, 1)] (elapse dt s) → ∃ t, exec (.bodyClr dt) s = .next t ∧ t.mp.answer = 0 ∧ t.mp.body = []) ∧
  (∀ dt s, taken 0 RG.HCMD_GO [(RG.HCMD_GO, 1)] (elapse dt s) → ∃ t, exec (.hcmdGo dt) s = .next t ∧ t.mp.answer = 0 ∧ t.mp.body = [] ∧
      get RG.HCMD_RESULT 0 t = 1 ∧ get RG.ACC_CNT 0 t = RG.ACC_CNT.count (get RG.ACC_CNT 0 s) 1 ∧ t.nextJob = s.nextJob + 1) ∧
  (∀ dt r s, mpServes s = true → (get RG.HCMD_KIND 0 s = 0 ∨ get RG.HCMD_KIND 0 s = 1 ∨ get RG.HCMD_KIND 0 s = 3) →
      houseReason (elapse dt s) = some r → ∃ t, exec (.hcmdGo dt) s = .next t ∧ t.mp.answer = 1 ∧ get RG.HCMD_RESULT 0 t = 2 ∧
      get RG.HCMD_REASON 0 t = r ∧ t.jobs = s.jobs ∧ t.mp.body = s.mp.body)

/-- An uplink that is absent or off receives nothing. A bad frame counts in RX_ERR, one for another address or VLAN in
RX_DROP, and an ARP request for the own address or a tenant request is passed on with its time and source and counts
in RX_FRAMES. ARP_REQUEST answers the oldest ARP request with the own address, ECHO_REQUEST the oldest echo request,
and each counts; with nothing to answer only time passes. REFUSAL_SEND runs the clock on to the due time of the
oldest refusal and sends it, or loses it while the link is down. (R595; R601; R603; R604; R605; R606; R616; R633;
R635) -/
def Obligations.UplinkFramesAreReceived : Prop :=
  (∀ dt u f x s, uplinkOk s u = false ∨ get UL.EN u s = 0 → exec (.ethFrameReceived dt u f x) s = .next (elapse dt s)) ∧
  (∀ dt u f x s, uplinkOk s u = true → get UL.EN u s = 1 → frameBad f x = true →
      ∃ t, exec (.ethFrameReceived dt u f x) s = .next t ∧ get UL.RX_ERR u t = UL.RX_ERR.count (get UL.RX_ERR u s) 1 ∧
        t = { elapse dt s with regs := t.regs, cyc := t.cyc }) ∧
  (∀ dt u f x s, uplinkOk s u = true → get UL.EN u s = 1 → frameBad f x = false →
      ((splitFrame f).dst ≠ macAddr u s ∧ (splitFrame f).dst ≠ List.replicate 6 0xFF#8 ∨ vlanOk u (splitFrame f) s = false) →
      ∃ t, exec (.ethFrameReceived dt u f x) s = .next t ∧ get UL.RX_DROP u t = UL.RX_DROP.count (get UL.RX_DROP u s) 1 ∧
        t = { elapse dt s with regs := t.regs, cyc := t.cyc }) ∧
  (∀ dt u f x s, uplinkOk s u = true → get UL.EN u s = 1 → frameBad f x = false →
      ((splitFrame f).dst = macAddr u s ∨ (splitFrame f).dst = List.replicate 6 0xFF#8) → vlanOk u (splitFrame f) s = true →
      (splitFrame f).etherType = 0x0806 → isArpRequest u (splitFrame f).payload s = true →
      ∃ t, exec (.ethFrameReceived dt u f x) s = .next t ∧ get UL.RX_FRAMES u t = UL.RX_FRAMES.count (get UL.RX_FRAMES u s) 1 ∧
        (uGet u t).inbox = (uGet u s).inbox ++ [⟨.arp, s.now + dt, stampNow (elapse dt s),
          ⟨((splitFrame f).payload.drop 8).take 6, beValue (((splitFrame f).payload.drop 14).take 4), 0⟩, (splitFrame f).src⟩] ∧
        t = { elapse dt s with regs := t.regs, cyc := t.cyc, uplinks := t.uplinks }) ∧
  (∀ dt u f x src p port d s, uplinkOk s u = true → get UL.EN u s = 1 → frameBad f x = false →
      ((splitFrame f).dst = macAddr u s ∨ (splitFrame f).dst = List.replicate 6 0xFF#8) → vlanOk u (splitFrame f) s = true →
      (splitFrame f).etherType = 0x0800 → ipAccept u (splitFrame f).payload s = some (17, src, p) →
      udpAccept src u p s = some (port, d) → isRequest d = true →
      ∃ t, exec (.ethFrameReceived dt u f x) s = .next t ∧ get UL.RX_FRAMES u t = UL.RX_FRAMES.count (get UL.RX_FRAMES u s) 1 ∧
        (uGet u t).inbox = (uGet u s).inbox ++ [⟨.request, s.now + dt, stampNow (elapse dt s), ⟨(splitFrame f).src, src, port⟩, d⟩] ∧
        t = { elapse dt s with regs := t.regs, cyc := t.cyc, uplinks := t.uplinks }) ∧
  (∀ dt u a r s, linkUp u s = true → takeArrival (fun x => x.kind == .arp) (uGet u s).inbox = some (a, r) →
      ∃ t, exec (.arpRequest dt u) s = .next t ∧ (uGet u t).inbox = r ∧
        (uGet u t).sent = [buildFrame u a.bytes (get UL.PCP_CONTROL u s) 0x0806 (arpPacket u 2 a.src.mac a.src.ip s) s] ∧
        get UL.TX_FRAMES u t = UL.TX_FRAMES.count (get UL.TX_FRAMES u s) 1 ∧
        t = { elapse dt s with regs := t.regs, cyc := t.cyc, uplinks := t.uplinks }) ∧
  (∀ dt u a r s, linkUp u s = true → takeArrival (fun x => x.kind == .echo) (uGet u s).inbox = some (a, r) →
      ∃ t f, exec (.echoRequest dt u) s = .next t ∧ (uGet u t).inbox = r ∧ (uGet u t).sent = [f] ∧
        (uGet u t).ipId = ((uGet u s).ipId + 1) % 65536 ∧ get UL.ECHO_CNT u t = UL.ECHO_CNT.count (get UL.ECHO_CNT u s) 1 ∧
        get UL.TX_FRAMES u t = UL.TX_FRAMES.count (get UL.TX_FRAMES u s) 1 ∧
        t = { elapse dt s with regs := t.regs, cyc := t.cyc, uplinks := t.uplinks }) ∧
  (∀ dt u s, takeArrival (fun x => x.kind == .arp) (uGet u s).inbox = none → exec (.arpRequest dt u) s = .next (elapse dt s)) ∧
  (∀ dt u s, takeArrival (fun x => x.kind == .echo) (uGet u s).inbox = none → exec (.echoRequest dt u) s = .next (elapse dt s)) ∧
  (∀ u s, (uGet u s).refuse = [] → exec (.refusalSend u) s = .next s) ∧
  (∀ u r l s, linkUp u s = true → (uGet u s).refuse = r :: l →
      ∃ t, exec (.refusalSend u) s = .next t ∧ t.now = max s.now r.at_ ∧ (uGet u t).refuse = l ∧ (uGet u t).sent = [r.frame] ∧
        get UL.REFUSE_SENT u t = UL.REFUSE_SENT.count (get UL.REFUSE_SENT u s) 1 ∧
        get UL.TX_FRAMES u t = UL.TX_FRAMES.count (get UL.TX_FRAMES u s) 1) ∧
  (∀ u r l s, u < 2 → linkUp u s = false → (uGet u s).refuse = r :: l →
      ∃ t, exec (.refusalSend u) s = .next t ∧ t.now = max s.now r.at_ ∧ (uGet u t).refuse = l ∧ (uGet u t).sent = [] ∧
        get UL.REFUSE_LOST u t = UL.REFUSE_LOST.count (get UL.REFUSE_LOST u s) 1)

/-- A request that passes every check sets RX_CTR to its counter, and its reply to its source is queued: SUBSCRIBE
stores the peer and PUSH, PULL queues one batch, COMMAND hands a job to the scheduler and answers the time of
acceptance, TALKER_STATUS and STATUS answer their bodies. A request that fails a check before the replay check, or
the replay check, adds one to its reason, writes a refusal log entry, and its refusal is due 250 µs after it
arrived; RX_CTR stands. With no request of the row waiting only time passes. (R495; R498; R505; R612; R617; R618;
R624; R631; R633; R637; Table 10-5) -/
def Obligations.TenantRequestsAreJudged : Prop :=
  (∀ dt u s, takeArrival (ofType 1) (uGet u s).inbox = none → exec (.subscribe dt u) s = .next (elapse dt s)) ∧
  (∀ dt u bad s, takeArrival (ofType 2) (uGet u s).inbox = none → exec (.pull dt u bad) s = .next (elapse dt s)) ∧
  (∀ dt u s, takeArrival (ofType 3) (uGet u s).inbox = none → exec (.command dt u) s = .next (elapse dt s)) ∧
  (∀ dt u s, takeArrival (ofType 4) (uGet u s).inbox = none → exec (.talkerStatus dt u) s = .next (elapse dt s)) ∧
  (∀ dt u s, takeArrival (ofType 5) (uGet u s).inbox = none → exec (.tenantStatus dt u) s = .next (elapse dt s)) ∧
  (∀ dt u a r s, admitted u 1 a r (elapse dt s) → 0 < dt → a.src.mac.length = 6 → a.src.ip < 2 ^ 32 → a.src.port < 2 ^ 16 →
      ∃ t d, exec (.subscribe dt u) s = .next t ∧ (uGet u t).inbox = r ∧
        get TN.RX_CTR (reqField a.bytes 4 2) t = reqField a.bytes 8 4 ∧
        (uGet (builderOf u s) t).queue = (uGet (builderOf u s) s).queue ++ [d] ∧ d.tenant = reqField a.bytes 4 2 ∧
        d.dest = [(u, a.src)] ∧ d.typ = 0x81 ∧ d.waits = false ∧
        peerOf u (reqField a.bytes 4 2) t = a.src ∧ get TN.PUSH (reqField a.bytes 4 2) t = ((reqBody a.bytes).getD 0 0#8).toNat) ∧
  (∀ dt u a r bad s, admitted u 2 a r (elapse dt s) → ∃ t, exec (.pull dt u bad) s = .next t ∧ (uGet u t).inbox = r ∧
        get TN.RX_CTR (reqField a.bytes 4 2) t = reqField a.bytes 8 4 ∧ (uGet u t).refuse = (uGet u s).refuse) ∧
  (∀ dt u a r bad s, admitted u 2 a r (elapse dt s) → slotBeyondReserve (elapse dt s) = false →
      ∃ t d, exec (.pull dt u bad) s = .next t ∧ (uGet u t).inbox = r ∧
        get TN.RX_CTR (reqField a.bytes 4 2) t = reqField a.bytes 8 4 ∧
        (uGet (builderOf u s) t).queue = (uGet (builderOf u s) s).queue ++ [d] ∧ d.tenant = reqField a.bytes 4 2 ∧
        d.dest = [(u, a.src)] ∧ d.typ = 0x80 ∧ d.waits = true ∧ d.batch = true ∧
        ((qGet (96 + reqField a.bytes 4 2) s).count = 0 → d.body = [1#8, 0#8, 0#8, 0#8])) ∧
  (∀ dt u a r s, admitted u 3 a r (elapse dt s) →
      ∃ t d, exec (.command dt u) s = .next t ∧ (uGet u t).inbox = r ∧
        get TN.RX_CTR (reqField a.bytes 4 2) t = reqField a.bytes 8 4 ∧
        (uGet (builderOf u s) t).queue = (uGet (builderOf u s) s).queue ++ [d] ∧ d.tenant = reqField a.bytes 4 2 ∧
        d.dest = [(u, a.src)] ∧ d.typ = 0x83 ∧ t.nextJob = s.nextJob + 1 ∧
        d.body = beBytes 4 (elapse dt s).ring.sec ++ beBytes 4 (stampNow (elapse dt s)).word2) ∧
  (∀ dt u a r s, admitted u 4 a r (elapse dt s) →
      ∃ t d, exec (.talkerStatus dt u) s = .next t ∧ (uGet u t).inbox = r ∧
        get TN.RX_CTR (reqField a.bytes 4 2) t = reqField a.bytes 8 4 ∧
        (uGet (builderOf u s) t).queue = (uGet (builderOf u s) s).queue ++ [d] ∧ d.tenant = reqField a.bytes 4 2 ∧
        d.dest = [(u, a.src)] ∧ d.typ = 0x84 ∧ t.nextJob = s.nextJob ∧
        d.body = (reqTalkers 4 (reqBody a.bytes)).flatMap fun k => talkerBody k s) ∧
  (∀ dt u a r s, admitted u 5 a r (elapse dt s) →
      ∃ t d, exec (.tenantStatus dt u) s = .next t ∧ (uGet u t).inbox = r ∧
        get TN.RX_CTR (reqField a.bytes 4 2) t = reqField a.bytes 8 4 ∧
        (uGet (builderOf u s) t).queue = (uGet (builderOf u s) s).queue ++ [d] ∧ d.tenant = reqField a.bytes 4 2 ∧
        d.dest = [(u, a.src)] ∧ d.typ = 0x85 ∧ t.nextJob = s.nextJob ∧
        d.body = statusBody u (reqField a.bytes 4 2) (elapse dt s)) ∧
  (∀ dt u a r k s, takeArrival (ofType 5) (uGet u s).inbox = some (a, r) → checkFront u a (takenUp u r (elapse dt s)) = some k → k ≠ 0 → u < 2 →
      ∃ t f, exec (.tenantStatus dt u) s = .next t ∧ (uGet u t).inbox = r ∧ (uGet u t).refuse = (uGet u s).refuse ++ [⟨a.at_ + cyclesUs 250, f⟩] ∧
        get RL.REASON_CNT k t = RL.REASON_CNT.count (get RL.REASON_CNT k s) 1 ∧
        get RL.NEXT_SEQ 0 t = (get RL.NEXT_SEQ 0 s + 1) % 2 ^ 32 ∧ get RG.IRQ_REFUSAL 0 t = 1 ∧ t.tenants = s.tenants ∧ t.jobs = s.jobs) ∧
  (∀ dt u a r s, takeArrival (ofType 1) (uGet u s).inbox = some (a, r) → checkFront u a (takenUp u r (elapse dt s)) = none → u < 2 →
      mirrorCopy a (takenUp u r (elapse dt s)) = false → reqField a.bytes 8 4 ≤ get TN.RX_CTR (reqField a.bytes 4 2) s →
      ∃ t f, exec (.subscribe dt u) s = .next t ∧ (uGet u t).refuse = (uGet u s).refuse ++ [⟨a.at_ + cyclesUs 250, f⟩] ∧
        get RL.REASON_CNT 4 t = RL.REASON_CNT.count (get RL.REASON_CNT 4 s) 1 ∧
        get TN.RX_CTR (reqField a.bytes 4 2) t = get TN.RX_CTR (reqField a.bytes 4 2) s ∧
        get TN.PUSH (reqField a.bytes 4 2) t = get TN.PUSH (reqField a.bytes 4 2) s)

/-- A record at the head that the builder may take opens a batch that is due BATCH_US later. A batch closes at its due
time into a datagram that waits for its job. With its leave, or at 10 Mb/s, the builder builds the ready datagram
with the earliest deadline and TX_CTR adds one. With one destination up and no refusal in the way the built datagram
goes to the MAC and its uplink is free again. The leave is asked again when its retry is due, and released when its
time has come. With nothing to do only time passes. (R506; R608; R613; R621; R622; R623; R625; R626; R627) -/
def Obligations.BatchesAndDatagramsGoOut : Prop :=
  (∀ dt u tn bad s, builderTakes (builderOf u s) tn (elapse dt s) = false →
      exec (.uplinkRecordTake dt u tn bad) s = .next (elapse dt s)) ∧
  (∀ dt u tn ws rem s, builderTakes (builderOf u s) tn (elapse dt s) = true → takeable (96 + tn) (elapse dt s) = .record ws →
      remaining (headDeadline (96 + tn) (elapse dt s)) (elapse dt s) = some rem → (tGet tn s).batch = none →
      fits (builderOf u s) (Batch.new 0) (.record ws) s = true → blocksKept (96 + tn) s →
      ∃ t x, exec (.uplinkRecordTake dt u tn []) s = .next t ∧ (tGet tn t).batch = some x ∧ x.entries = [.record ws] ∧
        x.due = s.now + dt + cyclesUs (get TN.BATCH_US tn s) ∧ x.deadline = some (headDeadline (96 + tn) s) ∧
        (qGet (96 + tn) t).count + ws.length = (qGet (96 + tn) s).count ∧ t.uplinks = s.uplinks ∧
        get CN.RECORDS_OUT (96 + tn) t = CN.RECORDS_OUT.count (get CN.RECORDS_OUT (96 + tn) s) 1) ∧
  (∀ dt tn s, (tGet tn s).batch = none → exec (.batchClose dt tn) s = .next (elapse dt s)) ∧
  (∀ dt tn x s, (tGet tn s).batch = some x → mustClose (builderOfTenant tn s) tn x (elapse dt s) = false → slotBeyondReserve (runTo x.due (elapse dt s)) = false →
      ∃ t d, exec (.batchClose dt tn) s = .next t ∧ t.now = max (s.now + dt) x.due ∧ (tGet tn t).batch = none ∧
        (uGet (builderOfTenant tn s) t).queue = (uGet (builderOfTenant tn s) s).queue ++ [d] ∧ d.tenant = tn ∧ d.waits = true ∧
        d.body = 0#8 :: batchBody x.entries ∧ d.classes = x.classes) ∧
  (∀ dt u d s, (uGet (builderOf u s) s).build = none → (burstUnits (builderOf u s) s = 0 ∨ mayStart (.burst (builderOf u s)) (elapse dt s) = true) →
      nextDgram (builderOf u s) s = some d → d.tenant < 128 →
      ∃ t, exec (.datagramBuild dt u) s = .next t ∧ get TN.TX_CTR d.tenant t = get TN.TX_CTR d.tenant s + 1 ∧
        (uGet (builderOf u s) t).build = some (d, payloadOf d (get TN.TX_CTR d.tenant s + 1) s) ∧
        (uGet (builderOf u s) t).queue = (uGet (builderOf u s) s).queue.filter (· != d) ∧
        t = { elapse dt s with regs := t.regs, cyc := t.cyc, uplinks := t.uplinks }) ∧
  (∀ dt u s, ((uGet (builderOf u s) s).build ≠ none ∨ nextDgram (builderOf u s) s = none ∨
        burstUnits (builderOf u s) s ≠ 0 ∧ mayStart (.burst (builderOf u s)) (elapse dt s) = false) →
      exec (.datagramBuild dt u) s = .next (elapse dt s)) ∧
  (∀ dt u s, (uGet (builderOf u s) s).build = none → exec (.datagramHandoff dt u) s = .next (elapse dt s)) ∧
  (∀ dt u d p m q s, mirror s = false → (uGet u s).build = some (d, p) → destOf u d s = [(m, q)] → linkUp m s = true → (uGet m s).refuse = [] →
      ∃ t, exec (.datagramHandoff dt u) s = .next t ∧ t.now = max (s.now + dt) (uGet m s).busyUntil ∧ (uGet u t).build = none ∧
        (uGet m t).sent = [(udpFrame m (pcpOf m d s) q p s).1] ∧ (uGet m t).ipId = ((uGet m s).ipId + 1) % 65536 ∧
        get UL.TX_FRAMES m t = UL.TX_FRAMES.count (get UL.TX_FRAMES m s) 1) ∧
  (∀ u s, (uGet u s).retryAt = none → exec (.uplinkLeaveRetry u) s = .next s) ∧
  (∀ u x s, (uGet u s).retryAt = some x → ∃ t, exec (.uplinkLeaveRetry u) s = .next t ∧ t.now = max s.now x ∧ (uGet u t).retryAt = none ∧
      ((uGet u s).build = none → nextDgram u s ≠ none → burstUnits u s ≠ 0 → isGranted (.burst u) s = false → isWaiting (.burst u) t = true)) ∧
  (∀ u s, (uGet u s).releaseAt = none → exec (.uplinkLeaveRelease u) s = .next s) ∧
  (∀ u x s, (uGet u s).releaseAt = some x → ∃ t, exec (.uplinkLeaveRelease u) s = .next t ∧ t.now = max s.now x ∧ (uGet u t).releaseAt = none ∧
      isGranted (.burst u) t = (isGranted (.burst u) s && (uGet u s).build.isSome))

/-- A taken write of MDIO_CMD with GO starts a frame of the PHY, register, operation and data that it names, and sets BUSY; with BUSY at 1 the write answers BUSY and starts
nothing. The frame ends 6,400 CORE cycles after it began: BUSY and GO fall, and a read leaves its 16 bits in RDATA.
An autopoll read with bit 2 high raises LINK_UP with its event bit, with bit 2 low lowers it; a read with no change,
on an absent uplink or with AUTOPOLL off moves no link. (R597; R598; R599; R600) -/
def Obligations.PhyIsReadAndWritten : Prop :=
  (∀ dt v s, mpServes s = true → bits v.toNat 27 1 = 1 → get RG.MDIO_BUSY 0 s = 0 →
      ∃ t, exec (.mdioFrame dt v) s = .next t ∧ t.mp.answer = 0 ∧
        t.mdio = some ⟨s.now + dt, bits v.toNat 21 5, bits v.toNat 16 5, bits v.toNat 26 1 == 1, bits v.toNat 0 16⟩ ∧ get RG.MDIO_BUSY 0 t = 1 ∧
        get RG.MDIO_GO 0 t = 1 ∧ get RG.MDIO_OP 0 t = bits v.toNat 26 1 ∧ get RG.MDIO_PHYAD 0 t = bits v.toNat 21 5 ∧
        get RG.MDIO_REGAD 0 t = bits v.toNat 16 5 ∧ get RG.MDIO_WDATA 0 t = bits v.toNat 0 16) ∧
  (∀ dt v s, mpServes s = true → bits v.toNat 27 1 = 1 → get RG.MDIO_BUSY 0 s = 1 →
      ∃ t, exec (.mdioFrame dt v) s = .next t ∧ t.mp.answer = 4 ∧ t = { elapse dt s with mp := t.mp }) ∧
  (∀ rd s, s.mdio = none → exec (.mdioFrameEnd rd) s = .next s) ∧
  (∀ rd x s, rd < 65536 → s.mdio = some x → ∃ t, exec (.mdioFrameEnd rd) s = .next t ∧ t.now = max s.now (x.from_ + 6400) ∧ t.mdio = none ∧
      get RG.MDIO_BUSY 0 t = 0 ∧ get RG.MDIO_RDATA 0 t = (if x.write then get RG.MDIO_RDATA 0 s else rd) ∧
      t = { runTo (x.from_ + 6400) s with regs := t.regs, mdio := none }) ∧
  (∀ dt u v s, uplinkOk s u = false ∨ get UL.AUTOPOLL u s = 0 → exec (.autopollRead dt u v) s = .next (elapse dt s)) ∧
  (∀ dt u v s, uplinkOk s u = true → get UL.AUTOPOLL u s = 1 → bitOf v 2 = flag UL.LINK_UP u s →
      ∃ t, exec (.autopollRead dt u v) s = .next t ∧ t.regs = (elapse dt s).regs ∧
        t = { elapse dt s with uplinks := t.uplinks, mdio := t.mdio }) ∧
  (∀ dt u v s, uplinkOk s u = true → get UL.AUTOPOLL u s = 1 → bitOf v 2 = true → get UL.LINK_UP u s = 0 →
      ∃ t, exec (.autopollRead dt u v) s = .next t ∧ get UL.LINK_UP u t = 1 ∧ get UL.LINK_UP_EVT u t = 1 ∧ get RG.IRQ_UPLINK 0 t = 1 ∧
        (get UL.IP_ADDR u s ≠ 0 → get UL.EN u s = 1 → ((uGet u t).sent).length = 1 ∧
          get UL.TX_FRAMES u t = UL.TX_FRAMES.count (get UL.TX_FRAMES u s) 1)) ∧
  (∀ dt u v s, uplinkOk s u = true → get UL.AUTOPOLL u s = 1 → bitOf v 2 = false → get UL.LINK_UP u s = 1 →
      ∃ t, exec (.autopollRead dt u v) s = .next t ∧ get UL.LINK_UP u t = 0 ∧ get UL.LINK_DOWN u t = 1 ∧ get RG.IRQ_UPLINK 0 t = 1)

/-- A record at the head of the tenant of a free listener port is taken with a listener job and its render when a slot
is idle beyond the reserve; one whose deadline has passed is dropped and counted late; one that the render skips is
dropped and counted. A port with no tenant or not free takes nothing. A render whose words have all entered the
transmit queue counts in RENDERED_CNT and frees the port. (R551; R588; R589; R590; R591; Table 5-6) -/
def Obligations.ListenersRenderTheirTenant : Prop :=
  (∀ dt p bad s, boundTenant p s = none ∨ listenerFree p (elapse dt s) = false → exec (.listenerRender dt p bad) s = .next (elapse dt s)) ∧
  (∀ dt p tn ws rem s, boundTenant p s = some tn → listenerFree p (elapse dt s) = true → takeable (96 + tn) s = .record ws →
      remaining (headDeadline (96 + tn) s) (elapse dt s) = some rem → renderSkips p ws s = false → slotBeyondReserve (elapse dt s) = true →
      blocksKept (96 + tn) s →
      ∃ t, exec (.listenerRender dt p []) s = .next t ∧
        (pGet p t).render = some ⟨s.nextJob, (renderOf p ws s).1, (renderOf p ws s).2, false⟩ ∧ t.nextJob = s.nextJob + 1 ∧
        t.jobs.length = s.jobs.length + 1 ∧ (qGet (96 + tn) t).count + ws.length = (qGet (96 + tn) s).count) ∧
  (∀ dt p tn ws rem s, boundTenant p s = some tn → listenerFree p (elapse dt s) = true → takeable (96 + tn) s = .record ws →
      remaining (headDeadline (96 + tn) s) (elapse dt s) = some rem → renderSkips p ws s = false → slotBeyondReserve (elapse dt s) = false →
      ∃ t, exec (.listenerRender dt p []) s = .next t ∧ t.jobs = s.jobs ∧ qGet (96 + tn) t = qGet (96 + tn) s) ∧
  (∀ dt p tn ws s, boundTenant p s = some tn → listenerFree p (elapse dt s) = true → takeable (96 + tn) s = .record ws →
      remaining (headDeadline (96 + tn) s) (elapse dt s) = none → get PT.GAP_EMIT p s = 0 → blocksKept (96 + tn) s →
      ∃ t, exec (.listenerRender dt p []) s = .next t ∧ get PT.LST_LATE p t = 1 ∧
        get PT.LST_LATE_CNT p t = PT.LST_LATE_CNT.count (get PT.LST_LATE_CNT p s) 1 ∧ t.jobs = s.jobs ∧ (pGet p t).render = none ∧
        (qGet (96 + tn) t).count + ws.length = (qGet (96 + tn) s).count) ∧
  (∀ dt p tn ws rem s, boundTenant p s = some tn → listenerFree p (elapse dt s) = true → takeable (96 + tn) s = .record ws →
      remaining (headDeadline (96 + tn) s) (elapse dt s) = some rem → renderSkips p ws s = true → blocksKept (96 + tn) s →
      ∃ t, exec (.listenerRender dt p []) s = .next t ∧ get PT.LST_SKIP p t = 1 ∧
        get PT.SKIP_CNT p t = PT.SKIP_CNT.count (get PT.SKIP_CNT p s) 1 ∧ t.jobs = s.jobs ∧
        (qGet (96 + tn) t).count + ws.length = (qGet (96 + tn) s).count) ∧
  (∀ dt p s, (pGet p s).render = none → exec (.listenerRenderDone dt p) s = .next (elapse dt s)) ∧
  (∀ dt p r s, p < 48 → (pGet p s).render = some r → r.begun = true → (qGet (48 + p) s).wait = [] →
      ∃ t, exec (.listenerRenderDone dt p) s = .next t ∧ (pGet p t).render = none ∧
        get PT.RENDERED_CNT p t = PT.RENDERED_CNT.count (get PT.RENDERED_CNT p s) 1 ∧
        get PT.CUT_CNT p t = (if r.cut then PT.CUT_CNT.count (get PT.CUT_CNT p s) 1 else get PT.CUT_CNT p s) ∧
        activeJob r.job t = none) ∧
  (∀ dt p r s, p < 48 → (pGet p s).render = some r → r.begun = false →
      ∃ t, exec (.listenerRenderDone dt p) s = .next t ∧ (pGet p t).txq = (pGet p s).txq ++ [.listener])

/-- A GWRITE that is acknowledged applies the oldest word owed to a reconciled line and removes it; one whose reply
fails its CRC applies it, keeps it owed and counts an error; a REFUSED applies nothing. GWRITE of LEAK_WINDOW_S leaves it in
the guard. A GREAD puts the status words that it reads into the shadow, one of the guard itself its GUARD_MON, and a
shadow refresh all of them with the measurements. Three failures in a row mark the link faulted. While an ALERT_FETCH is
owed, or when the link cannot reach the guard, nothing happens. (R207; R208; R212; R213; R214; R215; R216; R713; R984) -/
def Obligations.GuardLinkForwardsAndReports : Prop :=
  (∀ dt p reg n l o s, linkFree (p / 8) s = false ∨ n = 0 ∨ 16 < n → exec (.gread dt (.line p l) reg n o) s = .next (elapse dt s)) ∧
  (∀ dt k reg n o s, linkFree k s = false ∨ n = 0 ∨ 16 < n → exec (.gread dt (.guard k) reg n o) s = .next (elapse dt s)) ∧
  (∀ dt p reg n l o s, linkFree (p / 8) s = true → 1 ≤ n → n ≤ 16 → o.isOk = true →
      ∃ t, exec (.gread dt (.line p l) reg n o) s = .next t ∧ (gGet (p / 8) t).fails = 0 ∧ bitOf (get RG.GUARD_LINK_OK 0 t) (p / 8) = true ∧
        (reg ≤ 3 → 3 < reg + n → get GL.CM_FAULT p t = b2n (lnGet p s).cmFault) ∧
        (reg ≤ 4 → 4 < reg + n → (lnGet p t).since = 0) ∧
        (reg ≤ 5 → 5 < reg + n → get GL.I_MA p t = (lnGet p s).iMa % 2 ^ GL.I_MA.width ∧
          get GL.V_10MV p t = (lnGet p s).v10mv % 2 ^ GL.V_10MV.width) ∧
        (reg ≤ 6 → 6 < reg + n → get GL.LEAK_RESULT p t = (lnGet p s).leakResult % 2 ^ GL.LEAK_RESULT.width)) ∧
  (∀ dt k reg n o s, linkFree k s = true → 1 ≤ n → n ≤ 16 → o.isOk = true → reg ≤ 4 + k → 4 + k < reg + n →
      ∃ t, exec (.gread dt (.guard k) reg n o) s = .next t ∧ (gGet k t).fails = 0 ∧
        get RG.MON_VFIELD_MV k t = (gGet k s).vfield % 2 ^ RG.MON_VFIELD_MV.width ∧
        get RG.MON_DIE_TEMP k t = tempField (gGet k s).temp % 2 ^ RG.MON_DIE_TEMP.width) ∧
  (∀ dt p reg n l h s, linkFree (p / 8) s = true → 1 ≤ n → n ≤ 16 → (gGet (p / 8) s).fails ≤ 1 →
      ∃ t, exec (.gread dt (.line p l) reg n ⟨0, h, .requestCrc⟩) s = .next t ∧ (gGet (p / 8) t).fails = (gGet (p / 8) s).fails + 1 ∧
        t = { elapse dt s with guards := t.guards, sys := { (elapse dt s).sys with wellFrom := t.sys.wellFrom } }) ∧
  (∀ dt p reg n l h s, linkFree (p / 8) s = true → 1 ≤ n → n ≤ 16 → (gGet (p / 8) s).fails = 2 →
      ∃ t, exec (.gread dt (.line p l) reg n ⟨0, h, .replyCrc⟩) s = .next t ∧ (gGet (p / 8) t).faulted = true ∧
        get RG.MON_STATE (p / 8) t = 4 ∧ bitOf (get RG.GUARD_LINK_OK 0 t) (p / 8) = false ∧
        bitOf (get RG.GA_LINK_FAULT 0 t) (p / 8) = true ∧
        get RG.GL_ERR_CNT 0 t = RG.GL_ERR_CNT.count (get RG.GL_ERR_CNT 0 s) 1 ∧ get RG.IRQ_GUARD 0 t = 1 ∧ t.lines = s.lines) ∧
  (∀ dt p w r o s, linkFree (p / 8) s = true → (gGet (p / 8) s).run = 2 → (lcGet p s).reconciled = true →
      (lcGet p s).forward = w :: r → o.isOk = true →
      ∃ t, exec (.gwrite dt false p o) s = .next t ∧ (lcGet p t).forward = r ∧ lnGet p t = lnGet p (applyFwd p w s) ∧
        (gGet (p / 8) t).fails = 0) ∧
  (∀ dt p w r h s, linkFree (p / 8) s = true → (gGet (p / 8) s).run = 2 → (lcGet p s).reconciled = true → (lcGet p s).forward = w :: r →
      ∃ t, exec (.gwrite dt false p ⟨0, h, .replyCrc⟩) s = .next t ∧ (lcGet p t).forward = w :: r ∧
        lnGet p t = lnGet p (applyFwd p w s) ∧
        (gGet (p / 8) t).fails = (gGet (p / 8) s).fails + 1 ∧ get RG.GL_ERR_CNT 0 t = RG.GL_ERR_CNT.count (get RG.GL_ERR_CNT 0 s) 1) ∧
  (∀ dt p w r h s, linkFree (p / 8) s = true → (gGet (p / 8) s).run = 2 → (lcGet p s).reconciled = true → (lcGet p s).forward = w :: r →
      ∃ t, exec (.gwrite dt false p ⟨0, h, .refused⟩) s = .next t ∧ (lcGet p t).forward = r ∧ t.lines = s.lines ∧
        (gGet (p / 8) t).fails = 0) ∧
  (∀ dt p o s, linkFree (p / 8) s = false ∨ (gGet (p / 8) s).run ≠ 2 ∨ (lcGet p s).reconciled = false ∨ (lcGet p s).forward = [] →
      exec (.gwrite dt false p o) s = .next (elapse dt s)) ∧
  (∀ dt k o s, linkFree k s = true → (gGet k s).run = 2 → (gGet k s).owedWindow = true → o.isOk = true →
      ∃ t, exec (.gwrite dt true k o) s = .next t ∧ (gGet k t).leakWindow = get RG.LEAK_WINDOW_S 0 s ∧ (gGet k t).owedWindow = false ∧
        t.lines = s.lines) ∧
  (∀ dt k v x m o s, linkFree k s = false ∨ (gGet k s).run ≠ 2 → exec (.shadowRefresh dt k v x m o) s = .next (elapse dt s)) ∧
  (∀ dt k v x m o s, linkFree k s = true → (gGet k s).run = 2 → m.length = 8 → o.isOk = true →
      ∃ t, exec (.shadowRefresh dt k v x m o) s = .next t ∧ get RG.MON_VFIELD_MV k t = v % 2 ^ RG.MON_VFIELD_MV.width ∧
        get RG.MON_DIE_TEMP k t = tempField x % 2 ^ RG.MON_DIE_TEMP.width ∧ (gGet k t).temp = x ∧
        ∀ j < 8, get GL.I_MA (8 * k + j) t = (m.getD j ⟨0, 0, false⟩).iMa % 2 ^ GL.I_MA.width ∧
          get GL.V_10MV (8 * k + j) t = (m.getD j ⟨0, 0, false⟩).v10mv % 2 ^ GL.V_10MV.width)

/-- GL_ALERT_N owes a fetch to a guard with a pending alert and to no other. A fetched alert is cleared and its bits of
GUARD_ALERT are set. IDENT in the guard wait marks the guard answered and shows its version and state; a guard that is
still booting shows state 1 and has not answered. A common-mode fault of a running RS-485 line sets its event once and
its end clears it. A guard at 140 °C raises DIE_HOT, at 150 °C every powered line opens with THERMAL. (R216; R220; R254;
R743; R791; R825; R826; Table 4-7) -/
def Obligations.GuardsAlertAndIdentify : Prop :=
  (∀ dt k s, ∃ t, exec (.glAlertN dt) s = .next t ∧ t = { elapse dt s with guards := t.guards } ∧
      gGet k t = (if ((gGet k s).alertG ≠ 0 ∨ (gGet k s).alertL ≠ []) ∧ (gGet k s).vddioLow = false then
        { gGet k s with fetch := true } else gGet k s)) ∧
  (∀ dt k l o s, linkUsable k s = false → exec (.alertFetch dt k l o) s = .next (elapse dt s)) ∧
  (∀ dt k l o s, linkUsable k s = true → o.isOk = true → ∃ t, exec (.alertFetch dt k l o) s = .next t ∧ (gGet k t).alertG = 0 ∧
      (gGet k t).alertL = [] ∧ (gGet k t).fetch = false ∧
      (o.badReplies = 0 → bitOf (gGet k s).alertG 0 = true → bitOf (get RG.GA_SUPPLY 0 t) k = true ∧ get RG.IRQ_GUARD 0 t = 1) ∧
      (o.badReplies = 0 → bitOf (gGet k s).alertG 1 = true → bitOf (get RG.GA_RECOVERY 0 t) k = true ∧ get RG.GF_VER k t = 0) ∧
      (o.badReplies = 0 → bitOf (gGet k s).alertG 2 = true → bitOf (get RG.GA_DIE_HOT 0 t) k = true)) ∧
  (∀ dt k l h s, linkUsable k s = true → (gGet k s).fails ≤ 1 → ∃ t, exec (.alertFetch dt k l ⟨0, h, .requestCrc⟩) s = .next t ∧
      (gGet k t).alertG = (gGet k s).alertG ∧ (gGet k t).alertL = (gGet k s).alertL ∧ (gGet k t).fails = (gGet k s).fails + 1 ∧
      t = { elapse dt s with guards := t.guards, sys := { (elapse dt s).sys with wellFrom := t.sys.wellFrom } }) ∧
  (∀ dt k o s, guardOk s k = true → (gGet k s).run ≠ 0 → (gGet k s).run ≠ 1 → (gGet k s).run ≠ 5 → fetchOwed s = false →
      s.sys.phase = .guardWait → o.isOk = true →
      ∃ t, exec (.ident dt k o) s = .next t ∧ (gGet k t).answered = true ∧ bitOf (get RG.GUARD_LINK_OK 0 t) k = true ∧
        get RG.GF_VER k t = (if (gGet k s).run = 3 then 0 else (gGet k s).gfVer) % 2 ^ RG.GF_VER.width ∧
        get RG.MON_STATE k t = (gGet k s).run % 2 ^ RG.MON_STATE.width ∧ t.lines = s.lines) ∧
  (∀ dt k o s, guardOk s k = true → (gGet k s).run = 1 → fetchOwed s = false → s.sys.phase = .guardWait → o.isOk = true →
      ∃ t, exec (.ident dt k o) s = .next t ∧ (gGet k t).answered = (gGet k s).answered ∧ get RG.MON_STATE k t = 1 ∧ t.lines = s.lines) ∧
  (∀ dt k o s, guardOk s k = false ∨ (gGet k s).run = 0 ∨ (gGet k s).run = 5 ∨ fetchOwed s = true → s.sys.phase ≠ .ready →
      exec (.ident dt k o) s = .next (elapse dt s)) ∧
  (∀ dt p s, portOk s p = true → (gGet (p / 8) s).run = 2 → cfgField p 0 1 1 s = 0 → (lnGet p s).cmFault = false →
      ∃ t, exec (.cmFault dt p) s = .next t ∧ (lnGet p t).cmFault = true ∧ (lnGet p t).cmFrom = s.now + dt ∧
        bitOf (lnGet p t).events 10 = true ∧ t = { elapse dt s with lines := t.lines, lineCtl := t.lineCtl }) ∧
  (∀ dt p s, (gGet (p / 8) s).run ≠ 2 ∨ cfgField p 0 1 1 s ≠ 0 ∨ (lnGet p s).cmFault = true →
      exec (.cmFault dt p) s = .next (elapse dt s)) ∧
  (∀ dt p s, ∃ t, exec (.cmFaultEnd dt p) s = .next t ∧ (lnGet p t).cmFault = false ∧ (lnGet p t).events = (lnGet p s).events ∧
      ((lnGet p s).cmFault = true → (lnGet p t).cmTo = s.now + dt) ∧ t = { elapse dt s with lines := t.lines }) ∧
  (∀ dt k (x : Int) s, guardOk s k = true → (gGet k s).run ≠ 0 → 140 ≤ x → x < 150 → ∃ t, exec (.guardDieHot dt k x) s = .next t ∧
      (gGet k t).temp = x ∧ bitOf (gGet k t).alertG 2 = true ∧ t = { elapse dt s with guards := t.guards }) ∧
  (∀ dt p (x : Int) s, guardOk s (p / 8) = true → (gGet (p / 8) s).run ≠ 0 → 150 ≤ x → powered p s = true →
      ∃ t, exec (.guardDieHot dt (p / 8) x) s = .next t ∧ (lnGet p t).pwr = 5 ∧ (lnGet p t).cause = 4) ∧
  (∀ dt k x s, guardOk s k = false ∨ (gGet k s).run = 0 → exec (.guardDieHot dt k x) s = .next (elapse dt s))

/-- A taken PWR_EN 1 asks for leave and the line waits, reconciled or, in service, not yet; PWR_EN 0 ends the wait, turns
RETRY_WAIT and LATCHED into OFF, or asks for the switch-off. A line granted in an earlier cycle closes its switch for 5 ms of
inrush; below 14 V a 12 V line faults with SUPPLY_LOW instead, and a guard that activates leaves its switches alone. At
the end of inrush the line is on, or off with START_FAIL. OC retries, SHORT latches, neither acts in inrush, and a supply
fault opens every powered line of the guard. A retry asks for leave again. (R223; R224; R225; R226; R228; R229; R230;
R231; R232; R260; R266; Table 4-3) -/
def Obligations.BusPowerRunsBehindItsLeave : Prop :=
  (∀ dt p s, taken p GL.PWR_EN [(GL.PWR_EN, 1)] (elapse dt s) → get GL.PWR_EN p s = 0 → (lcGet p s).reconciled = true →
      (gGet (p / 8) s).heldOut = false → ∃ t, exec (.pwrEnSet dt p) s = .next t ∧ t.mp.answer = 0 ∧ get GL.PWR_EN p t = 1 ∧
        (lnGet p t).pwr = 1 ∧ get GL.PWR_STATE p t = 1 ∧ isWaiting (.switchOn p) t = true ∧ (lcGet p t).retries = 0) ∧
  (∀ dt p s, taken p GL.PWR_EN [(GL.PWR_EN, 1)] (elapse dt s) → get GL.PWR_EN p s = 0 → (lcGet p s).reconciled = false →
      (gGet (p / 8) s).heldOut = false → s.sys.phase = .ready → ∃ t, exec (.pwrEnSet dt p) s = .next t ∧ t.mp.answer = 0 ∧
        get GL.PWR_EN p t = 1 ∧ get GL.PWR_STATE p t = 1 ∧ isWaiting (.switchOn p) t = true ∧ t.lines = s.lines) ∧
  (∀ dt p s, taken p GL.PWR_EN [(GL.PWR_EN, 1)] (elapse dt s) → (lcGet p s).reconciled = false →
      s.sys.phase ≠ .ready ∧ s.sys.phase ≠ .paused ∨ (gGet (p / 8) s).heldOut = true ∨ get GL.PWR_EN p s = 1 →
      ∃ t, exec (.pwrEnSet dt p) s = .next t ∧ t.mp.answer = 0 ∧ get GL.PWR_EN p t = 1 ∧ t.lines = s.lines ∧ t.leave = s.leave) ∧
  (∀ dt p s, taken p GL.PWR_EN [(GL.PWR_EN, 0)] (elapse dt s) → (lcGet p s).reconciled = true → (lnGet p s).pwr = 1 →
      ∃ t, exec (.pwrEnClear dt p) s = .next t ∧ t.mp.answer = 0 ∧ get GL.PWR_EN p t = 0 ∧ (lnGet p t).pwr = 0 ∧
        isWaiting (.switchOn p) t = false ∧ isGranted (.switchOn p) t = false) ∧
  (∀ dt p s, taken p GL.PWR_EN [(GL.PWR_EN, 0)] (elapse dt s) → (lcGet p s).reconciled = true → (lnGet p s).pwr = 4 ∨ (lnGet p s).pwr = 5 →
      ∃ t, exec (.pwrEnClear dt p) s = .next t ∧ t.mp.answer = 0 ∧ get GL.PWR_EN p t = 0 ∧ (lnGet p t).pwr = 0 ∧
        get GL.PWR_STATE p t = 0 ∧ (lcGet p t).retryAt = none) ∧
  (∀ dt p s, taken p GL.PWR_EN [(GL.PWR_EN, 0)] (elapse dt s) → (lcGet p s).reconciled = true → (lnGet p s).pwr = 3 →
      ∃ t, exec (.pwrEnClear dt p) s = .next t ∧ t.mp.answer = 0 ∧ get GL.PWR_EN p t = 0 ∧ (lnGet p t).pwr = 3 ∧ (lcGet p t).offWanted = true) ∧
  (∀ dt p v o s, linkFree (p / 8) s = true → (gGet (p / 8) s).act = none → (gGet (p / 8) s).run ≠ 5 → (lcGet p s).reconciled = true →
      (lnGet p s).pwr = 1 → mayStart (.switchOn p) (elapse dt s) = true → (cfgField p 0 5 1 s = 0 ∨ 14000 ≤ v) → o.isOk = true →
      ∃ t, exec (.pwrSwitch dt p true v o) s = .next t ∧ (lnGet p t).pwr = 2 ∧
        (lnGet p t).inrushEnd = some (s.now + dt + cyclesMs 5) ∧ get GL.PWR_STATE p t = 2 ∧ isGranted (.switchOn p) t = true) ∧
  (∀ dt p v o s, linkFree (p / 8) s = true → (gGet (p / 8) s).act = none → (gGet (p / 8) s).run ≠ 5 → (lcGet p s).reconciled = true →
      (lnGet p s).pwr = 1 → mayStart (.switchOn p) (elapse dt s) = true → cfgField p 0 5 1 s = 1 → v < 14000 → o.isOk = true →
      ∃ t, exec (.pwrSwitch dt p true v o) s = .next t ∧ (lnGet p t).pwr = 5 ∧ (lnGet p t).cause = 5 ∧ (lnGet p t).inrushEnd = none ∧
        bitOf (gGet (p / 8) t).alertG 0 = true ∧ (gGet (p / 8) t).alertL.contains (p % 8) = true) ∧
  (∀ dt p v o s, linkFree (p / 8) s = true → (gGet (p / 8) s).act = none → (gGet (p / 8) s).run ≠ 5 → (lcGet p s).offWanted = true →
      (lnGet p s).pwr = 3 → o.isOk = true →
      ∃ t, exec (.pwrSwitch dt p false v o) s = .next t ∧ (lnGet p t).pwr = 0 ∧ (lcGet p t).offWanted = false) ∧
  (∀ dt p v o s, (lnGet p s).pwr ≠ 1 ∨ (lcGet p s).reconciled = false ∨ mayStart (.switchOn p) (elapse dt s) = false →
      ∃ t, exec (.pwrSwitch dt p true v o) s = .next t ∧ t = { elapse dt s with guards := t.guards }) ∧
  (∀ dt p on v o s, (gGet (p / 8) s).act ≠ none ∨ (gGet (p / 8) s).run = 5 →
      ∃ t, exec (.pwrSwitch dt p on v o) s = .next t ∧ t = { elapse dt s with guards := t.guards }) ∧
  (∀ p b s, (lnGet p s).inrushEnd = none → exec (.inrushTimerExpiry p b) s = .next s) ∧
  (∀ p x s, (lnGet p s).inrushEnd = some x → ∃ t, exec (.inrushTimerExpiry p true) s = .next t ∧ t.now = max s.now x ∧
      (lnGet p t).pwr = 3 ∧ (lnGet p t).inrushEnd = none ∧ (gGet (p / 8) t).alertL.contains (p % 8) = true) ∧
  (∀ p x s, (lnGet p s).inrushEnd = some x → ∃ t, exec (.inrushTimerExpiry p false) s = .next t ∧ t.now = max s.now x ∧
      (lnGet p t).pwr = 5 ∧ (lnGet p t).cause = 3 ∧ bitOf (lnGet p t).events 2 = true) ∧
  (∀ dt p s, portOk s p = true → (gGet (p / 8) s).run ≠ 0 → (lnGet p s).pwr = 3 → ∃ t, exec (.pwrFault dt p 1) s = .next t ∧
      (lnGet p t).pwr = 4 ∧ (lnGet p t).cause = 1 ∧ (lnGet p t).faultAt = s.now + dt ∧ bitOf (lnGet p t).events 0 = true) ∧
  (∀ dt p s, portOk s p = true → (gGet (p / 8) s).run ≠ 0 → (lnGet p s).pwr = 3 → ∃ t, exec (.pwrFault dt p 2) s = .next t ∧
      (lnGet p t).pwr = 5 ∧ (lnGet p t).cause = 2) ∧
  (∀ dt p c s, c = 1 ∨ c = 2 → (lnGet p s).pwr = 2 → exec (.pwrFault dt p c) s = .next (elapse dt s)) ∧
  (∀ dt p q c s, portOk s p = true → (gGet (p / 8) s).run ≠ 0 → c = 5 ∨ c = 6 → q / 8 = p / 8 → powered q s = true →
      ∃ t, exec (.pwrFault dt p c) s = .next t ∧ (lnGet q t).pwr = 5 ∧ (lnGet q t).cause = c ∧ bitOf (gGet (p / 8) t).alertG 0 = true) ∧
  (∀ p s, (lcGet p s).retryAt = none → exec (.retryWaitExpiry p) s = .next s) ∧
  (∀ p x s, (lcGet p s).retryAt = some x → (lnGet p s).pwr = 4 → (lcGet p s).reconciled = true →
      ∃ t, exec (.retryWaitExpiry p) s = .next t ∧ t.now = max s.now x ∧ (lnGet p t).pwr = 1 ∧ get GL.PWR_STATE p t = 1 ∧
        (lcGet p t).retryAt = none ∧ (lcGet p t).retries = (lcGet p s).retries + 1 ∧ isWaiting (.switchOn p) t = true)

/-- A taken TRIM_REQ records the need with its cause and leaves one that is recorded; enabling a line that is reconciled
records its need at once, in place of any other. A temperature 10 °C or more from the last trim makes the guard want trim.
When the deferral ends the trim is forced. The line that the guard trims next enters trim with its slice preempted; a
request whose CRC fails changes nothing there, and a reply whose CRC fails counts as started. A trim ends with its codes
or with TRIM_FAIL, and counts. (R236; R237; R238; R239; R240; R242; R243; R253; R263) -/
def Obligations.LinesAreTrimmed : Prop :=
  (∀ dt p s, taken p GL.TRIM_REQ [(GL.TRIM_REQ, 1)] (elapse dt s) → (lcGet p s).needTrim = none →
      ∃ t, exec (.trimReq dt p) s = .next t ∧ t.mp.answer = 0 ∧ (lcGet p t).needTrim = some (s.now + dt, 2) ∧
        get GL.TRIM_WANTED p t = 1 ∧ get GL.TRIM_REQ p t = 1) ∧
  (∀ dt p x s, taken p GL.TRIM_REQ [(GL.TRIM_REQ, 1)] (elapse dt s) → (lcGet p s).needTrim = some x →
      ∃ t, exec (.trimReq dt p) s = .next t ∧ t.mp.answer = 0 ∧ (lcGet p t).needTrim = some x) ∧
  (∀ dt p s, taken p GL.EN [(GL.EN, 1)] (elapse dt s) → get GL.EN p s = 0 → (lcGet p s).reconciled = true →
      ∃ t, exec (.guardLineEnable dt p) s = .next t ∧ t.mp.answer = 0 ∧ get GL.EN p t = 1 ∧
        (lcGet p t).needTrim = some (s.now + dt, 0) ∧ get GL.TRIM_WANTED p t = 1) ∧
  (∀ dt p (x : Int) s, portOk s p = true → (gGet (p / 8) s).run = 2 → 10 ≤ (x - (lnGet p s).trimTemp).natAbs → (lnGet p s).inTrim = false →
      ∃ t, exec (.trimWanted dt p x) s = .next t ∧ (lnGet p t).trimWanted = true ∧ (gGet (p / 8) t).temp = x ∧
        (gGet (p / 8) t).alertL.contains (p % 8) = true ∧ t = { elapse dt s with guards := t.guards, lines := t.lines }) ∧
  (∀ dt p (x : Int) s, portOk s p = true → (gGet (p / 8) s).run = 2 → (x - (lnGet p s).trimTemp).natAbs < 10 →
      ∃ t, exec (.trimWanted dt p x) s = .next t ∧ (gGet (p / 8) t).temp = x ∧ t = { elapse dt s with guards := t.guards }) ∧
  (∀ p x c s, (lcGet p s).needTrim = some (x, c) → c ≠ 0 → ∃ t, exec (.trimDeferTimeout p) s = .next t ∧ (lcGet p t).forced = true ∧
      t.now = max s.now (x + cyclesMs (get RG.TRIM_DEFER_MS 0 s))) ∧
  (∀ p s, (∀ x c, (lcGet p s).needTrim = some (x, c) → c = 0) → exec (.trimDeferTimeout p) s = .next s) ∧
  (∀ dt p o s, linkFree (p / 8) s = false ∨ nextTrim (p / 8) (elapse dt s) ≠ some p → exec (.trimStart dt p o) s = .next (elapse dt s)) ∧
  (∀ dt p o s, linkFree (p / 8) s = true → nextTrim (p / 8) (elapse dt s) = some p → o.isOk = true ∨ o.last = .replyCrc →
      ∃ t, exec (.trimStart dt p o) s = .next t ∧ (lnGet p t).inTrim = true ∧
        (lnGet p t).slice = none ∧ (lcGet p t).trimAt = some (s.now + dt) ∧ (lcGet p t).needTrim = none ∧ (pGet p t).inTrim = true ∧
        get GL.TRIM_WANTED p t = 0) ∧
  (∀ dt p h s, linkFree (p / 8) s = true → nextTrim (p / 8) (elapse dt s) = some p →
      ∃ t, exec (.trimStart dt p ⟨0, h, .requestCrc⟩) s = .next t ∧
        (gGet (p / 8) t).fails = (gGet (p / 8) s).fails + 1 ∧ (lnGet p t).inTrim = (lnGet p s).inTrim ∧
        (lcGet p t).needTrim = (lcGet p s).needTrim ∧ (lcGet p t).trimAt = none) ∧
  (∀ dt p c s, (lnGet p s).inTrim = false → exec (.trimEnd dt p c) s = .next (elapse dt s)) ∧
  (∀ dt p a b s, (lnGet p s).inTrim = true → ∃ t, exec (.trimEnd dt p (some (a, b))) s = .next t ∧ (lnGet p t).inTrim = false ∧
      (lnGet p t).thresh = b % 256 ∧ (lnGet p t).trimTemp = (gGet (p / 8) s).temp ∧
      (lnGet p t).termCode = (if cfgField p 0 1 1 s = 0 then a % 16 else (lnGet p s).termCode) ∧
      lookup 0 0 (lnGet p t).cnt = GL.TRIM_CNT.count (lookup 0 0 (lnGet p s).cnt) 1 ∧
      lookup 0 1 (lnGet p t).cnt = lookup 0 1 (lnGet p s).cnt) ∧
  (∀ dt p s, (lnGet p s).inTrim = true → ∃ t, exec (.trimEnd dt p none) s = .next t ∧ (lnGet p t).inTrim = false ∧
      bitOf (lnGet p t).events 7 = true ∧ (lnGet p t).thresh = (lnGet p s).thresh ∧
      lookup 0 0 (lnGet p t).cnt = GL.TRIM_CNT.count (lookup 0 0 (lnGet p s).cnt) 1 ∧
      lookup 0 1 (lnGet p t).cnt = GL.TRIM_FAIL_CNT.count (lookup 0 1 (lnGet p s).cnt) 1 ∧
      (gGet (p / 8) t).alertL.contains (p % 8) = true)

/-- A measurement begins at once, or LEAK_PERIOD_S after the previous one began, whose slice is discarded, and asks for its
first slice. A slice begins SLICE_MARGIN_US into a predicted gap that its leave covers and that no trim takes, or counts
SKIPPED when the gap starts without a grant. It ends 2 ms later and counts; the 25th within the window gives LEAK_RESULT,
and one after the window starts anew. A transmit or a trim preempts a slice, and it counts PREEMPTED. A window that passes
discards the slices, sets LEAK_STALE and begins anew. Otherwise only time passes. (R63; R246; R247; R248; R250; R251;
R253) -/
def Obligations.LeakageIsMeasuredInSlices : Prop :=
  (∀ p s, portOk s p = true → get GL.LEAK_EN p s = 1 → (lcGet p s).leakFrom = none →
      ∃ t, exec (.leakMeasurementStart p) s = .next t ∧ t.now = s.now ∧ (lcGet p t).measuring = true ∧ (lcGet p t).leakFrom = some s.now ∧
        (lnGet p t).slicesDone = 0 ∧ (lnGet p t).firstSlice = none ∧ (isWaiting (.slice p) t || isGranted (.slice p) t) = true) ∧
  (∀ p x s, portOk s p = true → get GL.LEAK_EN p s = 1 → (lcGet p s).leakFrom = some x →
      ∃ t, exec (.leakMeasurementStart p) s = .next t ∧ t.now = max s.now (x + cyclesS (get GL.LEAK_PERIOD_S p s)) ∧
        (lcGet p t).measuring = true ∧ (lcGet p t).leakFrom = some t.now ∧ (lnGet p t).slicesDone = 0 ∧ (lnGet p t).slice = none) ∧
  (∀ p s, portOk s p = false ∨ get GL.LEAK_EN p s = 0 → exec (.leakMeasurementStart p) s = .next s) ∧
  (∀ dt p o s, linkFree (p / 8) s = true → guardServes p s = true → (lcGet p s).measuring = true → mayStart (.slice p) (elapse dt s) = true →
      (lnGet p s).slice = none → (lcGet p s).trimAt = none → trimStarts p (elapse dt s) = false → sliceSpaced p (elapse dt s) = true →
      gapFits p (sliceGap s) (elapse dt s) = true → o.isOk = true → ∃ t, exec (.sliceStart dt p o) s = .next t ∧
        (lnGet p t).slice = some (s.now + dt + cyclesUs (get RG.SLICE_MARGIN_US 0 s)) ∧
        (lcGet p t).lastSlice = (lnGet p t).slice ∧ get RG.GAP_GRANT_CNT 0 t = RG.GAP_GRANT_CNT.count (get RG.GAP_GRANT_CNT 0 s) 1) ∧
  (∀ dt p o s, linkFree (p / 8) s = false ∨ (lcGet p s).measuring = false ∨ mayStart (.slice p) (elapse dt s) = false ∨
        (lnGet p s).slice ≠ none ∨ trimStarts p (elapse dt s) = true →
      exec (.sliceStart dt p o) s = .next (elapse dt s)) ∧
  (∀ dt p s, (lcGet p s).measuring = true → isGranted (.slice p) s = false → (lnGet p s).slice = none →
      sliceSpaced p (elapse dt s) = true → gapFits p (sliceGap s) (elapse dt s) = true → isWaiting (.slice p) s = true →
      ∃ t, exec (.sliceSkip dt p) s = .next t ∧ isWaiting (.slice p) t = true ∧
        lookup 0 4 (lnGet p t).cnt = GL.SKIPPED.count (lookup 0 4 (lnGet p s).cnt) 1) ∧
  (∀ dt p s, (lcGet p s).measuring = false ∨ isGranted (.slice p) s = true → exec (.sliceSkip dt p) s = .next (elapse dt s)) ∧
  (∀ p r s, (lnGet p s).slice = none ∨ ldeHigh p s = true ∨ (lnGet p s).inTrim = true → exec (.sliceEnd p r) s = .next s) ∧
  (∀ p r x s, (lnGet p s).slice = some x → ldeHigh p s = false → (lnGet p s).inTrim = false → (lnGet p s).slicesDone < 24 →
      max s.now (x + cyclesMs 2) ≤ (lnGet p s).firstSlice.getD x + cyclesS (gGet (p / 8) s).leakWindow →
      ∃ t, exec (.sliceEnd p r) s = .next t ∧ t.now = max s.now (x + cyclesMs 2) ∧ (lnGet p t).slice = none ∧
        (lnGet p t).slicesDone = (lnGet p s).slicesDone + 1 ∧ (lnGet p t).firstSlice = some ((lnGet p s).firstSlice.getD x) ∧
        isGranted (.slice p) t = false ∧ lookup 0 2 (lnGet p t).cnt = GL.SLICE_CNT.count (lookup 0 2 (lnGet p s).cnt) 1 ∧
        ((lcGet p s).measuring = true → isWaiting (.slice p) t = true)) ∧
  (∀ p r x s, (lnGet p s).slice = some x → ldeHigh p s = false → (lnGet p s).inTrim = false → (lnGet p s).slicesDone = 24 →
      max s.now (x + cyclesMs 2) ≤ (lnGet p s).firstSlice.getD x + cyclesS (gGet (p / 8) s).leakWindow →
      ∃ t, exec (.sliceEnd p r) s = .next t ∧ (lnGet p t).leakValid = true ∧ (lcGet p t).measuring = false ∧
        (lnGet p t).leakResult = (if r < 20 then 0 else if 20000 < r then 65535 else r) ∧ (lnGet p t).leakAt = max s.now (x + cyclesMs 2)) ∧
  (∀ p r x s, (lnGet p s).slice = some x → ldeHigh p s = false → (lnGet p s).inTrim = false →
      (lnGet p s).firstSlice.getD x + cyclesS (gGet (p / 8) s).leakWindow < max s.now (x + cyclesMs 2) →
      ∃ t, exec (.sliceEnd p r) s = .next t ∧ (lnGet p t).slice = none ∧ (lnGet p t).slicesDone = 0 ∧
        (lcGet p t).leakFrom = some (max s.now (x + cyclesMs 2)) ∧ bitOf (lnGet p t).events 9 = true ∧
        (lnGet p t).leakResult = (lnGet p s).leakResult) ∧
  (∀ dt p x s, ldeHigh p s = true ∨ (lnGet p s).inTrim = true → (lnGet p s).slice = some x →
      ∃ t, exec (.slicePreempt dt p) s = .next t ∧ (lnGet p t).slice = none ∧ isGranted (.slice p) t = false ∧
        lookup 0 3 (lnGet p t).cnt = GL.PREEMPTED.count (lookup 0 3 (lnGet p s).cnt) 1) ∧
  (∀ dt p s, ldeHigh p s = false → (lnGet p s).inTrim = false → exec (.slicePreempt dt p) s = .next (elapse dt s)) ∧
  (∀ p x s, (lnGet p s).firstSlice = some x → (lcGet p s).measuring = true → ∃ t, exec (.leakWindowExpiry p) s = .next t ∧
      t.now = max s.now (x + cyclesS (gGet (p / 8) s).leakWindow) ∧ (lnGet p t).slicesDone = 0 ∧ (lnGet p t).firstSlice = none ∧
      (lnGet p t).slice = none ∧ (lcGet p t).leakFrom = some t.now ∧ bitOf (lnGet p t).events 9 = true) ∧
  (∀ p s, (lnGet p s).firstSlice = none ∨ (lcGet p s).measuring = false → exec (.leakWindowExpiry p) s = .next s)

/-- In a governor cycle after its request the first request of the DIE queue that is eligible and fits is granted; with nothing waiting
and no change pending nothing happens. At a wait limit an ungranted request is removed, counted and flagged: a
denied burst waits 100 ms, a switch-on ends with LEAVE_TO. A budget write stands at once when it covers the grants
and is pending otherwise, and takes effect when the grants have fallen to it. (R227; R625; R734; R764; R765; R768;
R769; R770; R772; Table 13-1) -/
def Obligations.LeaveIsGrantedOrTimesOut : Prop :=
  (∀ dt s, s.leave.die = [] → s.leave.field = [] → get RG.DIE_CHANGE 0 s = 0 → get RG.FIELD_CHANGE 0 s = 0 →
      exec (.leaveGrant dt) s = .next (elapse dt s)) ∧
  (∀ dt r l s, s.leave.die = r :: l → eligible r s = true → 0 < r.units → r.units ≤ freeUnits .die s →
      r.at_ < s.now + dt → oversize .die (elapse dt s) = [] → oversize .field (elapse dt s) = [] →
      ∃ t, exec (.leaveGrant dt) s = .next t ∧ t.now = s.now + dt ∧ ⟨r.kind, r.units, s.now + dt⟩ ∈ t.leave.dieGr ∧ granted .die s + r.units ≤ granted .die t ∧
        granted .die t ≤ get RG.DIE_BUDGET 0 t) ∧
  (∀ s, s.leave.die = [] → s.leave.field = [] → exec .leaveTimeout s = .next s) ∧
  (∀ u r s, u < 2 → s.leave.die = [r] → s.leave.field = [] → r.kind = .burst u → eligible r s = false → r.units ≤ get RG.DIE_BUDGET 0 s →
      get RG.DIE_CHANGE 0 s = 0 → ∃ t, exec .leaveTimeout s = .next t ∧ t.now = max s.now r.limit ∧ isWaiting r.kind t = false ∧
        get RG.DIE_TO_CNT 0 t = RG.DIE_TO_CNT.count (get RG.DIE_TO_CNT 0 s) 1 ∧ get RG.DIE_TIMEOUT 0 t = 1 ∧ get RG.IRQ_LEAVE 0 t = 1 ∧
        get UL.LEAVE_DENIED u t = 1 ∧ (uGet u t).retryAt = some (t.now + cyclesMs 100)) ∧
  (∀ p r s, p < 48 → s.leave.field = [r] → s.leave.die = [] → r.kind = .switchOn p → eligible r s = false → r.units ≤ get RG.FIELD_BUDGET 0 s →
      get RG.FIELD_CHANGE 0 s = 0 → ∃ t, exec .leaveTimeout s = .next t ∧ t.now = max s.now r.limit ∧ isWaiting r.kind t = false ∧
        get RG.FIELD_TO_CNT 0 t = RG.FIELD_TO_CNT.count (get RG.FIELD_TO_CNT 0 s) 1 ∧ get RG.FIELD_TIMEOUT 0 t = 1 ∧
        get GL.PWR_STATE p t = 5 ∧ get GL.PWR_CAUSE p t = 7 ∧ get GL.EV_LEAVE_TO p t = 1 ∧
        ((lcGet p s).reconciled = true → (lnGet p t).pwr = 5 ∧ (lnGet p t).cause = 7)) ∧
  (∀ dt n s, taken 0 RG.FIELD_BUDGET [(RG.FIELD_BUDGET, n)] (elapse dt s) → ∃ t, exec (.budgetWrite dt true n) s = .next t ∧
      t.mp.answer = 0 ∧ get RG.FIELD_BUDGET 0 t = n % 2 ^ RG.FIELD_BUDGET.width ∧
      get RG.FIELD_CHANGE 0 t = (if granted .field s ≤ n % 2 ^ RG.FIELD_BUDGET.width then 0 else 1) ∧ t.leave = s.leave) ∧
  (∀ dt n s, taken 0 RG.DIE_BUDGET [(RG.DIE_BUDGET, n)] (elapse dt s) → ∃ t, exec (.budgetWrite dt false n) s = .next t ∧
      t.mp.answer = 0 ∧ get RG.DIE_BUDGET 0 t = n % 2 ^ RG.DIE_BUDGET.width ∧
      get RG.DIE_CHANGE 0 t = (if granted .die s ≤ n % 2 ^ RG.DIE_BUDGET.width then 0 else 1) ∧ t.leave = s.leave) ∧
  (∀ dt s, ∃ t, exec (.budgetChangeEffect dt) s = .next t ∧ t = { elapse dt s with regs := t.regs } ∧
      get RG.DIE_CHANGE 0 t = (if granted .die s ≤ get RG.DIE_BUDGET 0 s then 0 else get RG.DIE_CHANGE 0 s) ∧
      get RG.FIELD_CHANGE 0 t = (if granted .field s ≤ get RG.FIELD_BUDGET 0 s then 0 else get RG.FIELD_CHANGE 0 s))

/-- DIE_TEMP takes the temperature. The warm state is entered at WARN_C and left below WARN_C less 5 °C, the hot state
likewise at HOT_C, and in between each stands. An entry sets its bit of THERMAL and the interrupt. No queue or grant
of the governor changes. (R787; R788) -/
def Obligations.DieTemperatureWarmsTheGovernor : Prop :=
  ∀ dt (x : Int) s, ∃ t, exec (.dieTempUpdate dt x) s = .next t ∧ get RG.DIE_TEMP 0 t = fieldOf 10 x % 2 ^ RG.DIE_TEMP.width ∧
    t.leave = { s.leave with warm := t.leave.warm, hot := t.leave.hot } ∧
    ((get RG.WARN_C 0 s : Int) ≤ x → t.leave.warm = true ∧ (s.leave.warm = false → get RG.THERM_WARN 0 t = 1 ∧ get RG.IRQ_THERMAL 0 t = 1)) ∧
    (x < (get RG.WARN_C 0 s : Int) - 5 → t.leave.warm = false) ∧
    ((get RG.WARN_C 0 s : Int) - 5 ≤ x → x < (get RG.WARN_C 0 s : Int) → t.leave.warm = s.leave.warm) ∧
    ((get RG.HOT_C 0 s : Int) ≤ x → t.leave.hot = true ∧ (s.leave.hot = false → get RG.THERM_HOT 0 t = 1 ∧ get RG.IRQ_THERMAL 0 t = 1)) ∧
    (x < (get RG.HOT_C 0 s : Int) - 5 → t.leave.hot = false) ∧
    ((get RG.HOT_C 0 s : Int) - 5 ≤ x → x < (get RG.HOT_C 0 s : Int) → t.leave.hot = s.leave.hot)

/-- A frame that R857 discards is counted and nothing is sent; a repeat of the last command sends the last reply again.
PING answers whether the recovery loader runs, INFO the identity, SET_BAUD answers at the old rate and takes a rate
in range with a fallback two seconds after the end of the reply, STATUS answers Table 15-7, ABORT ends an update in state 1 or 2 and
RESTART requests a software reset for the end of its reply. A payload that a command does not have is answered PARAM; a command that writes
is LOCKED while SVC_EN is low. (R811; R855; R857; R858; R859; R860; R862; R863; R869; Table 15-5; Table 15-7) -/
def Obligations.StumpFramesAreAnswered : Prop :=
  (∀ dt e raw s, svServed s = true → stumpParse (svcBytes s.svc.baud raw) = none → ∃ t, exec (.ping dt e raw) s = .next t ∧ t.svc.sent = [] ∧
      t.svc.discarded = min (s.svc.discarded + 1) 65535 ∧ t.svc.last = s.svc.last ∧
      t = { elapse dt s with sys := { s.sys with svcEn := e }, svc := t.svc }) ∧
  (∀ dt e raw x s, svServed s = true → s.sys.phase ≠ .paused → s.svc.running = none → stumpParse (svcBytes s.svc.baud raw) = some x → s.svc.last = some x →
      ∃ t, exec (.svcStatus dt e raw) s = .next t ∧ t.svc.sent = [0x7E#8] ++ stuff s.svc.reply ++ [0x7E#8] ∧ t.svc.reply = s.svc.reply ∧
      t = { elapse dt s with sys := { s.sys with svcEn := e }, svc := t.svc }) ∧
  (∀ dt e n raw s, fresh 0x01 n [] raw s → ∃ t, exec (.ping dt e raw) s = .next t ∧
      replied (replyOf 0x01 n 0 [byte (b2n (s.sys.phase == .recovery))]) t ∧ t = { elapse dt s with sys := { s.sys with svcEn := e }, svc := t.svc }) ∧
  (∀ dt e n pl raw s, fresh 0x01 n pl raw s → pl ≠ [] → ∃ t, exec (.ping dt e raw) s = .next t ∧ replied (replyOf 0x01 n 0x01 []) t) ∧
  (∀ dt e n raw s, fresh 0x02 n [] raw s → ∃ t, exec (.info dt e raw) s = .next t ∧
      replied (replyOf 0x02 n 0 (beBytes 4 (get RG.DEV_ID 0 s) ++ beBytes 2 (get RG.ROM_VER 0 s) ++
        [byte (b2n (s.sys.phase == .recovery)), byte (get RG.SLOT 0 s)] ++ beBytes 4 (get RG.CF_VER 0 s) ++ beBytes 4 (get RG.CF_ALT_VER 0 s) ++
        beBytes 4 (match currentCopy (elapse dt s) with | some c => hdrVersion (copyBase c) (elapse dt s) | none => 0))) t) ∧
  (∀ dt e n pl raw s, fresh 0x03 n pl raw s → pl.length = 4 → 9600 ≤ beValue pl → beValue pl ≤ 1000000 →
      ∃ t, exec (.setBaud dt e raw) s = .next t ∧ replied (replyOf 0x03 n 0 []) t ∧ t.svc.baud = beValue pl ∧
        t.svc.fallbackAt = some (s.now + dt + ceilDiv (10 * t.svc.sent.length * 250000000) s.svc.baud + cyclesS 2)) ∧
  (∀ dt e n pl raw s, fresh 0x03 n pl raw s → (pl.length ≠ 4 ∨ beValue pl < 9600 ∨ 1000000 < beValue pl) →
      ∃ t, exec (.setBaud dt e raw) s = .next t ∧ replied (replyOf 0x03 n 0x01 []) t ∧ t.svc.baud = s.svc.baud) ∧
  (∀ s, s.svc.fallbackAt = none → exec .svcBaudFallback s = .next s) ∧
  (∀ x s, s.svc.fallbackAt = some x → ∃ t, exec .svcBaudFallback s = .next t ∧ t.now = max s.now x ∧ t.svc.baud = 115200 ∧ t.svc.fallbackAt = none) ∧
  (∀ dt e n raw s, fresh 0x15 n [] raw s → ∃ t, exec (.svcStatus dt e raw) s = .next t ∧
      replied (replyOf 0x15 n 0 ([byte s.svc.st, byte s.svc.step, byte s.svc.result, byte (b2n e), byte (confirmLeft (elapse dt s)), 0#8] ++
        beBytes 2 s.svc.discarded)) t) ∧
  (∀ dt n raw s, fresh 0x14 n [] raw s → (s.svc.st = 1 ∨ s.svc.st = 2) → ∃ t, exec (.abort dt true raw) s = .next t ∧
      replied (replyOf 0x14 n 0 []) t ∧ t.svc.st = 0 ∧ t.svc.step = 0xFF ∧ t.svc.result = 0) ∧
  (∀ dt n raw s, fresh 0x14 n [] raw s → s.svc.st ≠ 1 → s.svc.st ≠ 2 → ∃ t, exec (.abort dt true raw) s = .next t ∧
      replied (replyOf 0x14 n 0x01 []) t ∧ t.svc.st = s.svc.st) ∧
  (∀ dt n pl raw s, fresh 0x14 n pl raw s → ∃ t, exec (.abort dt false raw) s = .next t ∧ replied (replyOf 0x14 n 0x10 []) t ∧ t.svc.st = s.svc.st) ∧
  (∀ dt n raw s, fresh 0x20 n [] raw s → ∃ t, exec (.restart dt true raw) s = .next t ∧ replied (replyOf 0x20 n 0 []) t ∧
      t.sys.swReset = some (s.now + dt + ceilDiv (10 * t.svc.sent.length * 250000000) s.svc.baud)) ∧
  (∀ dt n pl raw s, fresh 0x20 n pl raw s → ∃ t, exec (.restart dt false raw) s = .next t ∧ replied (replyOf 0x20 n 0x10 []) t ∧
      t.sys.swReset = s.sys.swReset)

/-- BEGIN is answered STATE outside the states that allow it, PARAM for a bad form, and otherwise SIGNATURE unless key
and signature check, or its erases wait and the manifest is held. BLOCK is answered PARAM outside state 1 and OFFSET
when it does not continue its part, or its pages wait. END is answered PARAM while a part is incomplete, IMAGE when
one is not sound, or its headers wait. ACTIVATE of the parts starts the sequence with the GF copy's mark, ACTIVATE
of the core checks the image first. (R865; R866; R867; R868; R870; R871; R880; Table 15-6) -/
def Obligations.BundlesAreWrittenAndActivated : Prop :=
  (∀ dt n m raw s, fresh 0x10 n m raw s → s.svc.st ≠ 0 → s.svc.st ≠ 6 → s.svc.st ≠ 7 →
      ∃ t, exec (.begin_ dt true raw) s = .next t ∧ replied (replyOf 0x10 n 0x04 []) t ∧ t.flash.jobs = s.flash.jobs ∧ t.svc.manifest = s.svc.manifest) ∧
  (∀ dt n m raw s, fresh 0x10 n m raw s → s.sys.phase = .ready → s.svc.st = 0 ∨ s.svc.st = 6 ∨ s.svc.st = 7 → get RG.CONFIRMED 0 s = 1 →
      gfActivating s = false → mfForm false m = false →
      ∃ t, exec (.begin_ dt true raw) s = .next t ∧ replied (replyOf 0x10 n 0x01 []) t ∧ t.flash.jobs = s.flash.jobs) ∧
  (∀ dt n m raw s, fresh 0x10 n m raw s → s.sys.phase = .ready → s.svc.st = 0 ∨ s.svc.st = 6 ∨ s.svc.st = 7 → get RG.CONFIRMED 0 s = 1 →
      gfActivating s = false → mfForm false m = true → mfTarget s.variant m = true → orderCheck m s = none →
      ∃ t, exec (.begin_ dt true raw) s = .next t ∧ (if mfSigned m = true then t.svc.manifest = m ∧ t.svc.slot = 1 - get RG.SLOT 0 s ∧
          submitted 0x10 n m .begin_ ((if mfSlot m then [.erase (slotBase (1 - get RG.SLOT 0 s))] else []) ++
            (if mfGf m then [.erase (copyBase (targetCopy (elapse dt s)))] else [])) s t
        else replied (replyOf 0x10 n 0x11 []) t ∧ t.flash.jobs = s.flash.jobs)) ∧
  (∀ dt n pl raw s, fresh 0x11 n pl raw s → s.svc.st ≠ 1 → ∃ t, exec (.block dt true raw) s = .next t ∧ replied (replyOf 0x11 n 0x01 []) t ∧
      t.flash.jobs = s.flash.jobs) ∧
  (∀ dt n pl raw s, fresh 0x11 n pl raw s → s.svc.st = 1 → 8 ≤ pl.length → mf pl 1 3 = 0 → partCarried (mf pl 0 1) s = true →
      mf pl 4 4 ≠ partNext (mf pl 0 1) s → ∃ t, exec (.block dt true raw) s = .next t ∧ replied (replyOf 0x11 n 0x16 []) t ∧
      t.flash.jobs = s.flash.jobs) ∧
  (∀ dt n pl raw s, fresh 0x11 n pl raw s → s.svc.st = 1 → 8 ≤ pl.length → mf pl 1 3 = 0 → partCarried (mf pl 0 1) s = true →
      mf pl 4 4 = partNext (mf pl 0 1) s → pl.length - 8 = 256 → 256 ≤ (partArea (mf pl 0 1) s).2 - partNext (mf pl 0 1) s →
      ((partArea (mf pl 0 1) s).1 + mf pl 4 4) % 4096 ≠ 0 →
      ∃ t, exec (.block dt true raw) s = .next t ∧ submitted 0x11 n pl (.block (mf pl 0 1))
        [.program ((partArea (mf pl 0 1) s).1 + mf pl 4 4) (pl.drop 8)] s t) ∧
  (∀ dt n raw s, fresh 0x12 n [] raw s → (s.svc.st ≠ 1 ∨ mfGf s.svc.manifest = true ∧ s.svc.nextGf ≠ mf s.svc.manifest 32 4) →
      ∃ t, exec (.end_ dt true raw) s = .next t ∧ replied (replyOf 0x12 n 0x01 []) t ∧ t.flash.jobs = s.flash.jobs ∧ t.svc.st = s.svc.st) ∧
  (∀ dt n raw s, fresh 0x12 n [] raw s → s.svc.st = 1 → mfSlot s.svc.manifest = false → mfGf s.svc.manifest = true →
      s.svc.nextGf = mf s.svc.manifest 32 4 → ∃ t, exec (.end_ dt true raw) s = .next t ∧ (if partGood 3 (elapse dt s) = true then
          submitted 0x12 n [] .finish [.program (copyBase s.svc.copy) (headerPage 0x53544746 (nextCopySeq (elapse dt s)) (mf s.svc.manifest 20 4) 0
            (mf s.svc.manifest 32 4) 0 (mf s.svc.manifest 8 4))] s t
        else replied (replyOf 0x12 n 0x14 []) t ∧ t.flash.jobs = s.flash.jobs)) ∧
  (∀ dt n raw s, fresh 0x13 n [1#8] raw s → s.svc.st ≠ 2 → ∃ t, exec (.activateParts dt true raw) s = .next t ∧
      replied (replyOf 0x13 n 0x01 []) t ∧ t.svc.st = s.svc.st ∧ t.flash.jobs = s.flash.jobs) ∧
  (∀ dt n raw s, fresh 0x13 n [1#8] raw s → s.sys.phase = .ready → s.svc.st = 2 → mfGf s.svc.manifest = true →
      ∃ t, exec (.activateParts dt true raw) s = .next t ∧ replied (replyOf 0x13 n 0 []) t ∧ t.svc.st = 3 ∧ get RG.UPDATE_ACTIVE 0 t = 1 ∧
        t.svc.steps = presentGuards s ++ (if mfSlot s.svc.manifest then (presentGroups s).map (0x10 + ·) else []) ∧
        t.flash.jobs = s.flash.jobs ++ [⟨.gfValid, false, [.program (copyBase s.svc.copy + 0x100) (beBytes 4 0xA55AC33C)]⟩]) ∧
  (∀ dt n raw s, fresh 0x13 n [2#8] raw s → s.svc.st ≠ 4 → ∃ t, exec (.activateCore dt true raw) s = .next t ∧
      replied (replyOf 0x13 n 0x01 []) t ∧ t.svc.st = s.svc.st ∧ t.flash.jobs = s.flash.jobs) ∧
  (∀ dt n raw s, fresh 0x13 n [2#8] raw s → s.sys.phase = .ready → s.svc.st = 4 → mfSlot s.svc.manifest = true →
      ∃ t, exec (.activateCore dt true raw) s = .next t ∧ (if soundImage s.variant 1 1830912 (partImage 1 (elapse dt s)) = true then
          submitted 0x13 n [2#8] .coreValid [.program (slotBase s.svc.slot + 0x100) (beBytes 4 0xA55AC33C)] s t
        else replied (replyOf 0x13 n 0x14 []) t ∧ t.flash.jobs = s.flash.jobs))

/-- FW_BLOCK sends the next block of a running download, 500 µs after the one before, and asks for the activation's
leave after the last one. FW_ACTIVATE starts an activation granted in an earlier cycle, which may take 40 ms. An IDENT in time that shows
the received GF ends it with the guard running that GF and its leave released. At 40 ms the guard stands in ROM
recovery and is tried again in 60 s, and so it does where the IDENT shows it there. A retry begins the download of the current copy. (R873; R874; R875; R904; Table
15-9) -/
def Obligations.GuardFirmwareIsDownloadedAndActivated : Prop :=
  (∀ dt k o s, (gGet k s).fw = none → exec (.fwBlock dt k o) s = .next (elapse dt s) ∧ exec (.fwActivate dt k o) s = .next (elapse dt s)) ∧
  (∀ dt k r x o s, (gGet k s).fw = some r → r.lastAt = some x → s.now + dt < x + cyclesUs 500 →
      exec (.fwBlock dt k o) s = .next (elapse dt s)) ∧
  (∀ dt k r o s, linkFree k s = true → (gGet k s).fw = some r → (∀ x, r.lastAt = some x → x + cyclesUs 500 ≤ s.now + dt) → (gGet k s).act = none →
      r.next < gfBlocks r.copy (elapse dt s) → o.isOk = true → ∃ t, exec (.fwBlock dt k o) s = .next t ∧
        find r.next (gGet k t).blocks = some (gfBlock r.copy r.next (elapse dt s)) ∧
        (gGet k t).fw = some { r with lastAt := some (s.now + dt), next := r.next + 1 } ∧
        (r.next + 1 = gfBlocks r.copy (elapse dt s) → isWaiting (.gfActivate k) t = true)) ∧
  (∀ dt k r o s, linkFree k s = true → (gGet k s).fw = some r → mayStart (.gfActivate k) (elapse dt s) = true → gfActivating s = false →
      o.isOk = true → ∃ t, exec (.fwActivate dt k o) s = .next t ∧ (gGet k t).run = 5 ∧ get RG.MON_STATE k t = 5 ∧
        (gGet k t).act = some (hdrVersion (copyBase r.copy) (elapse dt s), s.now + dt + cyclesMs 40) ∧ isGranted (.gfActivate k) t = true) ∧
  (∀ dt k r o s, (gGet k s).fw = some r → (mayStart (.gfActivate k) (elapse dt s) = false ∨ gfActivating s = true) → exec (.fwActivate dt k o) s = .next (elapse dt s)) ∧
  (∀ dt k l o s, (gGet k s).act = none → exec (.gfActivationEnd dt k l o) s = .next (elapse dt s)) ∧
  (∀ dt k l r v x o s, k < 6 → (gGet k s).act = some (v, x) → (gGet k s).fw = some r → s.now + dt ≤ x → gfReceived (gGet k s) = some v →
      r.update = false → genIn (v % 256) (get RG.GF_GEN_MIN 0 s) (get RG.GF_GEN_MAX 0 s) = true →
      fetchOwed s = false → o.isOk = true → ∃ t, exec (.gfActivationEnd dt k l o) s = .next t ∧ (gGet k t).run = 2 ∧ (gGet k t).gfVer = v ∧ (gGet k t).act = none ∧
        (gGet k t).heldOut = false ∧ isGranted (.gfActivate k) t = false ∧ get RG.GF_VER k t = v % 2 ^ RG.GF_VER.width ∧ get RG.MON_STATE k t = 2) ∧
  (∀ dt k l r v x o s, (gGet k s).act = some (v, x) → (gGet k s).fw = some r → s.now + dt ≤ x → gfReceived (gGet k s) ≠ some v →
      r.other = true → r.update = false → fetchOwed s = false → o.isOk = true → ∃ t, exec (.gfActivationEnd dt k l o) s = .next t ∧
        (gGet k t).run = 3 ∧ (gGet k t).act = none ∧ (gGet k t).fw = none ∧ (gGet k t).restoreAt = some (s.now + dt + cyclesS 60)) ∧
  (∀ k s, (gGet k s).act = none → exec (.gfActivationTimeout k) s = .next s) ∧
  (∀ k r v x s, k < 6 → (gGet k s).act = some (v, x) → (gGet k s).fw = some r → r.other = true → r.update = false →
      ∃ t, exec (.gfActivationTimeout k) s = .next t ∧ t.now = max s.now x ∧ (gGet k t).run = 3 ∧ (gGet k t).act = none ∧ (gGet k t).fw = none ∧
        (gGet k t).restoreAt = some (t.now + cyclesS 60) ∧ isGranted (.gfActivate k) t = false ∧ bitOf (get RG.GA_RECOVERY 0 t) k = true) ∧
  (∀ k s, (gGet k s).restoreAt = none → exec (.gfRestoreRetry k) s = .next s) ∧
  (∀ k x c s, (gGet k s).restoreAt = some x → gfRestoring s = false → s.svc.st ≠ 3 → currentCopy (runTo x s) = some c → needsGf k (runTo x s) = true →
      ∃ t, exec (.gfRestoreRetry k) s = .next t ∧ t.now = max s.now x ∧ (gGet k t).fw = some ⟨c, 0, none, false, false⟩ ∧
        (gGet k t).restoreAt = none) ∧
  (∀ k x s, (gGet k s).restoreAt = some x → gfRestoring s = false → s.svc.st ≠ 3 → currentCopy (runTo x s) = none →
      ∃ t, exec (.gfRestoreRetry k) s = .next t ∧ (gGet k t).restoreAt = some (max s.now x + cyclesS 60) ∧ (gGet k t).fw = none)

/-- PM_ACTIVATION pauses the group of the next step when the staged PM is sound, and fails the step otherwise. A group
that passes its self-test runs the new version; one that fails is tested again on the old one and then the step
fails. SERVICE_RESUMED puts the other CF in service. A CF that has been healthy for 10 s without a break is
confirmed through its mark; where that does not come about inside the window, the running slot's rejection mark is
submitted at its end; a mark that could not be programmed is retried
when due. (R876; R877; R878; R880; R882; R883; R884) -/
def Obligations.PmAndCfAreActivatedAndConfirmed : Prop :=
  (∀ dt s, s.svc.steps = [] ∨ s.svc.st ≠ 3 ∨ s.svc.pm ≠ none → exec (.pmActivation dt) s = .next (elapse dt s)) ∧
  (∀ dt g l s, s.svc.steps = (0x10 + g) :: l → s.svc.st = 3 → s.svc.pm = none → ∃ t, exec (.pmActivation dt) s = .next t ∧
      (if soundImage s.variant 2 65536 (partImage 2 (elapse dt s)) = true then t.svc.pm = some (g, s.now + dt, false) ∧ t.svc.st = 3
       else t.svc.pm = none ∧ t.svc.st = 7 ∧ t.svc.result = 0x14 ∧ t.svc.step = 0x10 + g ∧ get RG.UPDATE_ACTIVE 0 t = 0)) ∧
  (∀ dt b l s, s.svc.pm = none → exec (.pmSelfTestEnd dt b l) s = .next (elapse dt s)) ∧
  (∀ dt l g x s, g < 6 → s.svc.pm = some (g, x, false) → ∃ t, exec (.pmSelfTestEnd dt true l) s = .next t ∧ t.svc.pm = none ∧
      get RG.PM_VER g t = mf s.svc.manifest 16 4 % 2 ^ RG.PM_VER.width) ∧
  (∀ dt l g x s, s.svc.pm = some (g, x, false) → ∃ t, exec (.pmSelfTestEnd dt false l) s = .next t ∧ t.svc.pm = some (g, s.now + dt, true) ∧
      t = { elapse dt s with svc := t.svc }) ∧
  (∀ dt b l g x s, g < 6 → s.svc.pm = some (g, x, true) → ∃ t, exec (.pmSelfTestEnd dt b l) s = .next t ∧ t.svc.pm = none ∧ t.svc.st = 7 ∧
      t.svc.result = 0x17 ∧ bitOf (get RG.PM_REVERTED 0 t) g = true ∧ get RG.PM_VER g t = get RG.PM_VER g s ∧
      t.sys.pmOut = (if b then s.sys.pmOut else s.sys.pmOut ++ [g]) ∧ get RG.IRQ_FIRMWARE 0 t = 1) ∧
  (∀ dt s, s.svc.pause = none → exec (.serviceResumed dt) s = .next (elapse dt s)) ∧
  (∀ dt x s, s.svc.pause = some (x, false) → ∃ t, exec (.serviceResumed dt) s = .next t ∧ t.sys.phase = .ready ∧ t.svc.pause = none ∧
      t.sys.runningSlot = some s.svc.slot ∧ get RG.SLOT 0 t = s.svc.slot % 2 ^ RG.SLOT.width ∧ get RG.ACTIVATING 0 t = 0 ∧ t.svc.st = 6 ∧
      get RG.IRQ_READY 0 t = 1 ∧ get RG.UPDATE_ACTIVE 0 t = 0 ∧ t.svc.oldSlot = some (get RG.SLOT 0 s)) ∧
  (∀ dt x s, s.svc.pause = some (x, true) → ∃ t, exec (.serviceResumed dt) s = .next t ∧ t.sys.phase = .ready ∧ t.svc.pause = none ∧
      t.sys.runningSlot = some (s.svc.oldSlot.getD (1 - get RG.SLOT 0 s)) ∧ get RG.REVERTED 0 t = 1 ∧ get RG.ACTIVATING 0 t = 0 ∧ t.svc.st = s.svc.st) ∧
  (∀ dt x w s, s.sys.confirmFrom = some x → s.sys.wellFrom = some w → healthy s = true → w + cyclesS 10 ≤ s.now + dt →
      confirmLeft (elapse dt s) ≠ 0 →
      ∃ t, exec (.cfConfirm dt) s = .next t ∧ t.sys.confirmFrom = none ∧
        t.flash.jobs = s.flash.jobs ++ [⟨.confirm, false, [.program (slotBase (get RG.SLOT 0 s) + 0x300) zeroMark]⟩]) ∧
  (∀ dt s, (s.sys.confirmFrom = none ∨ s.sys.wellFrom = none ∨ healthy s = false ∨ confirmLeft (elapse dt s) = 0 ∨
        (∃ w, s.sys.wellFrom = some w ∧ s.now + dt < w + cyclesS 10)) → exec (.cfConfirm dt) s = .next (elapse dt s)) ∧
  (∀ s, (s.sys.confirmFrom = none ∨ s.sys.phase ≠ .ready ∨ ∃ x, s.sys.confirmFrom = some x ∧ windowHolds x s = true) →
      exec .cfRevert s = .next s) ∧
  (∀ x s, s.sys.confirmFrom = some x → s.sys.phase = .ready → windowHolds x s = false → ∃ t, exec .cfRevert s = .next t ∧ t.now = max s.now (x + cyclesS 30) ∧
      get RG.CONFIRM_LEFT_S 0 t = 0 ∧ t.sys.confirmFrom = none ∧
      t.flash.jobs = s.flash.jobs ++ [⟨.revertMark, false, [.program (slotBase (get RG.SLOT 0 s) + 0x200) zeroMark]⟩]) ∧
  (∀ s, s.svc.markRetry = none → exec .rejectionMarkRetry s = .next s) ∧
  (∀ x i s, s.svc.markRetry = some (x, i) → ∃ t, exec .rejectionMarkRetry s = .next t ∧ t.now = max s.now x ∧ t.svc.markRetry = none ∧
      t.flash.jobs = s.flash.jobs ++ [⟨.markRetry, false, [.program (slotBase i + 0x200) zeroMark]⟩])

/-- FLASH_PROGRAM_DONE with the page read back as programmed leaves each byte of the page as the old byte AND the data
and every other byte as it was; FLASH_ERASE_DONE with a blank sector leaves 0xFF in every byte of the sector and
every other byte as it was. Either releases its leave. With no operation of the kind running nothing changes. A page
that reads back otherwise sets PROG_FAIL, a sector that does not read blank ERASE_FAIL. (R774; R846; R848; R898) -/
def Obligations.FlashOperationsChangeTheirBytes : Prop :=
  (∀ dt b s, s.flash.busy = false ∨ flashOp s = none → exec (.flashProgramDone dt b) s = .next (elapse dt s)) ∧
  (∀ dt b s, s.flash.busy = false ∨ flashOp s = none → exec (.flashEraseDone dt b) s = .next (elapse dt s)) ∧
  (∀ dt a d s, s.flash.busy = true → flashOp s = some (.program a d) → ∃ t, exec (.flashProgramDone dt none) s = .next t ∧
      (∀ x, fByte x t.flash.mem = if a ≤ x ∧ x < a + d.length then fByte x s.flash.mem &&& d.getD (x - a) 0#8 else fByte x s.flash.mem) ∧
      isGranted .flashProgram t = false ∧ t.flash.busy = false) ∧
  (∀ dt a s, s.flash.busy = true → flashOp s = some (.erase a) → ∃ t, exec (.flashEraseDone dt none) s = .next t ∧
      (∀ x, fByte x t.flash.mem = if x / 4096 = a / 4096 then 255#8 else fByte x s.flash.mem) ∧
      isGranted .flashErase t = false ∧ t.flash.busy = false) ∧
  (∀ dt a d b s, s.flash.busy = true → flashOp s = some (.program a [d]) → fByte a s.flash.mem = 255#8 → b ≠ d → get RG.PROG_FAIL 0 s = 0 →
      ∃ t, exec (.flashProgramDone dt (some [b])) s = .next t ∧ fByte a t.flash.mem = b ∧ get RG.PROG_FAIL 0 t = 1 ∧ get RG.IRQ_FLASH 0 t = 1 ∧
        (∀ x, x ≠ a → fByte x t.flash.mem = fByte x s.flash.mem)) ∧
  (∀ dt a o b s, s.flash.busy = true → flashOp s = some (.erase a) → o < 4096 → b ≠ 255#8 → ∃ t, exec (.flashEraseDone dt (some (o, b))) s = .next t ∧
      get RG.ERASE_FAIL 0 t = 1 ∧ get RG.IRQ_FLASH 0 t = 1 ∧
      (∀ x, fByte x t.flash.mem = if x = sectorOf a + o then b else if x / 4096 = a / 4096 then 255#8 else fByte x s.flash.mem))

/-- A ring page attempt begins at once with seven entries waiting, and otherwise 60 s after the oldest was written; a
retry begins 10 s after a failed attempt, or with a trigger that comes after the failure; none begins while one stands, while the die is warm, or before the logger
runs. A journal write begins with the oldest owed frame when a bank has room for it, and not while the die is warm,
with nothing owed, or while one stands. A notice that waits at the event queue enters when the queue accepts it.
(R892; R896; R897; R913; R917; R988) -/
def Obligations.LogAndJournalReachTheFlash : Prop :=
  (∀ dt s, s.logs.flashWait = [] → exec (.ringPageWrite dt) s = .next (elapse dt s)) ∧
  (∀ dt n x l s, s.logs.flashWait = (n, x) :: l → s.logs.retryAt = none → s.leave.warm = false → logging s = true → flashHas .ring s = false →
      ∃ t ops, exec (.ringPageWrite dt) s = .next t ∧ t.now = (if 6 ≤ l.length then s.now + dt else max (s.now + dt) (x + cyclesS 60)) ∧
        t.flash.jobs = s.flash.jobs ++ [⟨.ring, false, ops⟩] ∧
        ops.getLast? = some (.program (pageAddr s.logs.ringPos + 228) [0x3C#8]) ∧ t.logs.retryAt = none) ∧
  (∀ dt n x l s, s.logs.flashWait = (n, x) :: l → s.logs.retryAt = none → (s.leave.warm = true ∨ logging s = false ∨ flashHas .ring s = true) → 6 ≤ l.length →
      exec (.ringPageWrite dt) s = .next (elapse dt s)) ∧
  (∀ dt n x l y s, s.logs.flashWait = (n, x) :: l → s.logs.retryAt = some y → x + cyclesS 70 ≤ y → (∀ e, l[5]? = some e → e.2 + cyclesS 10 ≤ y) →
      exec (.ringPageWrite dt) s = .next (elapse dt s)) ∧
  (∀ dt n x l y s, s.logs.flashWait = (n, x) :: l → s.logs.retryAt = some y → y < x + cyclesS 70 → l.length < 6 → s.leave.warm = false →
      logging s = true → flashHas .ring s = false → ∃ t ops, exec (.ringPageWrite dt) s = .next t ∧ t.now = max (s.now + dt) (x + cyclesS 60) ∧
        t.flash.jobs = s.flash.jobs ++ [⟨.ring, false, ops⟩] ∧ t.logs.retryAt = none) ∧
  (∀ s, s.logs.retryAt = none → exec .ringPageRetry s = .next s) ∧
  (∀ x s, s.logs.retryAt = some x → s.logs.flashWait ≠ [] → s.leave.warm = false → logging s = true → flashHas .ring s = false →
      ∃ t ops, exec .ringPageRetry s = .next t ∧ t.now = max s.now x ∧ t.logs.retryAt = none ∧ t.flash.jobs = s.flash.jobs ++ [⟨.ring, false, ops⟩]) ∧
  (∀ dt s, s.cfg.owed = [] ∨ s.leave.warm = true ∨ flashHas .journal s = true → exec (.journalCommit dt) s = .next (elapse dt s)) ∧
  (∀ dt w b s, s.cfg.owed = [[w]] → s.leave.warm = false → flashHas .journal s = false → s.cfg.damaged = false → s.cfg.bank = some b →
      s.cfg.next + 28 ≤ 65536 → ∃ t ops, exec (.journalCommit dt) s = .next t ∧ t.cfg.writing = 1 ∧ t.cfg.goal = (b, s.cfg.next + 28) ∧
        t.cfg.owed = s.cfg.owed ∧ t.flash.jobs = s.flash.jobs ++ [⟨.journal, false, ops⟩] ∧
        ops.getLast? = some (.program (bankBase b + s.cfg.next + 24) [0x3C#8])) ∧
  (∀ dt w r s, takeWaiting .events (qGet 225 (gapWrite 225 (elapse dt s))).wait = some (w, r) →
      accepts 225 .events w (gapWrite 225 (elapse dt s)) = true →
      ∃ t, exec (.eventNotice dt) s = .next t ∧ (qGet 225 t).wait = r) ∧
  (∀ dt s, (qGet 225 (elapse dt s)).wait = [] → (qGet 225 (elapse dt s)).gap = ⟨0, 0, 0, 0, 0⟩ → exec (.eventNotice dt) s = .next (elapse dt s))

/-- Whatever the command and the state, exec answers a next state; it takes nothing from the queue of waiting commands,
and the variant of the concentrator does not change. That a command queue exists is the model's own convention (log
entry 2). (00_scope.md; R7; R8) -/
def Obligations.EveryCommandKeepsTheQueueAndTheVariant : Prop :=
  ∀ c s, ∃ t, exec c s = .next t ∧ t.pending = s.pending ∧ t.variant = s.variant

/-- From every state whose flash contents list rising addresses and no erased byte, a step leaves flash contents of that
form, whatever command it runs. The form is the model's own; equal flash contents are therefore equal data. (R847;
R848; R898) -/
def Obligations.FlashKeepsItsCanonicalForm : Prop :=
  ∀ s t, Memory.wf s.flash.mem = true → step s = .next t → Memory.wf t.flash.mem = true

/-- The flash of State.reset lists no byte, so it has the form that every step keeps. That it is erased is the model's
own choice and named in the log. (R847) -/
def Obligations.ResetFlashIsCanonical : Prop :=
  Memory.wf State.reset.flash.mem = true ∧ ∀ a, fByte a State.reset.flash.mem = 255#8

/-- Of all commands only the ends of flash operations, FLASH_READY and CF_START, which settle marks and commits at boot,
and the resets, which may cut an operation, change flash contents: every other command leaves every byte as it was,
whatever its operands and the state. (R763; R846; R848; R892; R920) -/
def Obligations.OnlyFlashOperationsAndResetsChangeFlash : Prop :=
  ∀ c s t, exec c s = .next t → (∀ a, fByte a t.flash.mem = fByte a s.flash.mem) ∨
    (∃ dt, c = .powerOnReset dt) ∨ (∃ dt n, c = .resetN dt n) ∨ (∃ dt, c = .pllLoss dt) ∨ (∃ dt, c = .watchdogExpiry dt) ∨
    (∃ n, c = .softwareResetStart n) ∨ (∃ dt, c = .flashReady dt) ∨ (∃ dt l m, c = .cfStart dt l m) ∨
    (∃ dt b, c = .flashProgramDone dt b) ∨ (∃ dt b, c = .flashEraseDone dt b)

end
end

