-- ==== Sys2Proof/Laws/KeptOps.lean ====
section
/-! SUPPORT. What the operations of Machine/Ops.lean leave alone: the flash bytes, the variant, and the queue of waiting
commands. -/

namespace Sys2Proof.Machine

@[simp] theorem put_kept (f : Fld) (i v : Nat) (s : State) :
    (put f i v s).flash.mem = s.flash.mem ∧ (put f i v s).variant = s.variant ∧ (put f i v s).pending = s.pending := by
  unfold put; simp

@[simp] theorem putHw_kept (f : Fld) (i v : Nat) (s : State) :
    (putHw f i v s).flash.mem = s.flash.mem ∧ (putHw f i v s).variant = s.variant ∧
    (putHw f i v s).pending = s.pending := by
  unfold putHw; simp [apply_ite State.flash, apply_ite State.variant, apply_ite State.pending]; (repeat' split) <;> simp

@[simp] theorem putSw_kept (f : Fld) (i v : Nat) (s : State) :
    (putSw f i v s).flash.mem = s.flash.mem ∧ (putSw f i v s).variant = s.variant ∧
    (putSw f i v s).pending = s.pending := by
  unfold putSw; simp

@[simp] theorem bumpBy_kept (f : Fld) (i n : Nat) (s : State) :
    (bumpBy f i n s).flash.mem = s.flash.mem ∧ (bumpBy f i n s).variant = s.variant ∧
    (bumpBy f i n s).pending = s.pending := by
  unfold bumpBy; simp

@[simp] theorem bump_kept (f : Fld) (i : Nat) (s : State) :
    (bump f i s).flash.mem = s.flash.mem ∧ (bump f i s).variant = s.variant ∧ (bump f i s).pending = s.pending := by
  unfold bump; simp

@[simp] theorem putCtr_kept (f : Fld) (i v : Nat) (s : State) :
    (putCtr f i v s).flash.mem = s.flash.mem ∧ (putCtr f i v s).variant = s.variant ∧
    (putCtr f i v s).pending = s.pending := by
  unfold putCtr; simp

@[simp] theorem setBits_kept (f : Fld) (i m : Nat) (s : State) :
    (setBits f i m s).flash.mem = s.flash.mem ∧ (setBits f i m s).variant = s.variant ∧
    (setBits f i m s).pending = s.pending := by
  unfold setBits; simp

@[simp] theorem clearBits_kept (f : Fld) (i m : Nat) (s : State) :
    (clearBits f i m s).flash.mem = s.flash.mem ∧ (clearBits f i m s).variant = s.variant ∧
    (clearBits f i m s).pending = s.pending := by
  unfold clearBits; simp

@[simp] theorem raise_kept (irq src : Fld) (i : Nat) (s : State) :
    (raise irq src i s).flash.mem = s.flash.mem ∧ (raise irq src i s).variant = s.variant ∧
    (raise irq src i s).pending = s.pending := by
  unfold raise; simp

@[simp] theorem irq_kept (f : Fld) (s : State) :
    (irq f s).flash.mem = s.flash.mem ∧ (irq f s).variant = s.variant ∧ (irq f s).pending = s.pending := by
  unfold irq; simp

@[simp] theorem each_kept (l : List Nat) (f : Nat → State → State) (s : State)
    (h : ∀ k t, (f k t).flash.mem = t.flash.mem ∧ (f k t).variant = t.variant ∧ (f k t).pending = t.pending) :
    (each l f s).flash.mem = s.flash.mem ∧ (each l f s).variant = s.variant ∧ (each l f s).pending = s.pending := by
  induction l generalizing s with
  | nil => exact ⟨rfl, rfl, rfl⟩
  | cons k l ih =>
    have := ih (f k s)
    have hk := h k s
    simp only [each, List.foldl_cons] at *
    exact ⟨this.1.trans hk.1, this.2.1.trans hk.2.1, this.2.2.trans hk.2.2⟩

@[simp] theorem when_kept (c : Bool) (f : State → State) (s : State)
    (h : ∀ t, (f t).flash.mem = t.flash.mem ∧ (f t).variant = t.variant ∧ (f t).pending = t.pending) :
    (when_ c f s).flash.mem = s.flash.mem ∧ (when_ c f s).variant = s.variant ∧ (when_ c f s).pending = s.pending := by
  unfold when_; split <;> simp [h]

@[simp] theorem drawNat_kept (s : State) :
    (drawNat s).2.flash.mem = s.flash.mem ∧ (drawNat s).2.variant = s.variant ∧ (drawNat s).2.pending = s.pending := by
  unfold drawNat; simp

@[simp] theorem foldl_kept {α : Type} (l : List α) (f : State → α → State) (s : State)
    (h : ∀ t a, (f t a).flash.mem = t.flash.mem ∧ (f t a).variant = t.variant ∧ (f t a).pending = t.pending) :
    (l.foldl f s).flash.mem = s.flash.mem ∧ (l.foldl f s).variant = s.variant ∧ (l.foldl f s).pending = s.pending := by
  induction l generalizing s with
  | nil => exact ⟨rfl, rfl, rfl⟩
  | cons a l ih => simpa [h] using ih (f s a)

@[simp] theorem drawBit_kept (s : State) :
    (drawBit s).2.flash.mem = s.flash.mem ∧ (drawBit s).2.variant = s.variant ∧ (drawBit s).2.pending = s.pending :=
  ⟨rfl, rfl, rfl⟩

@[simp] theorem advance_kept (target : Nat) (s : State) :
    (advance target s).flash.mem = s.flash.mem ∧ (advance target s).variant = s.variant ∧
    (advance target s).pending = s.pending := by
  unfold advance; simp [apply_ite State.flash, apply_ite State.variant, apply_ite State.pending]

end Sys2Proof.Machine
end

