-- ==== Sys2Proof/Laws/KeptUnderstory.lean ====
section
/-! SUPPORT. What the operations of Machine/Understory.lean leave alone: the flash bytes, the variant, and the queue of waiting
commands. -/

namespace Sys2Proof.Machine

@[simp] theorem qSet_kept (q : Nat) (v : Queue) (s : State) :
    (qSet q v s).flash.mem = s.flash.mem ∧ (qSet q v s).variant = s.variant ∧ (qSet q v s).pending = s.pending := by
  unfold qSet; simp

@[simp] theorem qMap_kept (q : Nat) (f : Queue → Queue) (s : State) :
    (qMap q f s).flash.mem = s.flash.mem ∧ (qMap q f s).variant = s.variant ∧ (qMap q f s).pending = s.pending := by
  unfold qMap; simp

@[simp] theorem qMarks_kept (q : Nat) (s : State) :
    (qMarks q s).flash.mem = s.flash.mem ∧ (qMarks q s).variant = s.variant ∧ (qMarks q s).pending = s.pending := by
  unfold qMarks; simp [apply_ite State.flash, apply_ite State.variant, apply_ite State.pending]; (repeat' split) <;> simp

@[simp] theorem entered_kept (q : Nat) (t : Tag) (s : State) :
    (entered q t s).flash.mem = s.flash.mem ∧ (entered q t s).variant = s.variant ∧
    (entered q t s).pending = s.pending := by
  unfold entered; simp [apply_ite State.flash, apply_ite State.variant, apply_ite State.pending]; (repeat' split) <;> simp

@[simp] theorem enter_kept (q : Nat) (p : Producer) (w : QWord) (s : State) :
    (enter q p w s).flash.mem = s.flash.mem ∧ (enter q p w s).variant = s.variant ∧
    (enter q p w s).pending = s.pending := by
  unfold enter; simp [apply_ite State.flash, apply_ite State.variant, apply_ite State.pending]

@[simp] theorem gapWrite_kept (q : Nat) (s : State) :
    (gapWrite q s).flash.mem = s.flash.mem ∧ (gapWrite q s).variant = s.variant ∧
    (gapWrite q s).pending = s.pending := by
  unfold gapWrite
  refine foldl_kept _ _ _ fun t a => ?_
  dsimp only
  split <;> simp

@[simp] theorem writeWord_kept (q : Nat) (p : Producer) (w : QWord) (s : State) :
    (writeWord q p w s).flash.mem = s.flash.mem ∧ (writeWord q p w s).variant = s.variant ∧
    (writeWord q p w s).pending = s.pending := by
  unfold writeWord; simp [apply_ite State.flash, apply_ite State.variant, apply_ite State.pending]; (repeat' split) <;> simp

@[simp] theorem stall_kept (q : Nat) (s : State) :
    (stall q s).flash.mem = s.flash.mem ∧ (stall q s).variant = s.variant ∧ (stall q s).pending = s.pending := by
  unfold stall; simp [apply_ite State.flash, apply_ite State.variant, apply_ite State.pending]; (repeat' split) <;> simp

@[simp] theorem writeFor_kept (q : Nat) (p : Producer) (s : State) :
    (writeFor q p s).flash.mem = s.flash.mem ∧ (writeFor q p s).variant = s.variant ∧
    (writeFor q p s).pending = s.pending := by
  unfold writeFor; simp; (repeat' split) <;> simp

@[simp] theorem writeNext_kept (q : Nat) (s : State) :
    (writeNext q s).flash.mem = s.flash.mem ∧ (writeNext q s).variant = s.variant ∧
    (writeNext q s).pending = s.pending := by
  unfold writeNext; (repeat' split) <;> first | exact ⟨rfl, rfl, rfl⟩ | simp

@[simp] theorem writeMany_kept (q n : Nat) (s : State) :
    (writeMany q n s).flash.mem = s.flash.mem ∧ (writeMany q n s).variant = s.variant ∧
    (writeMany q n s).pending = s.pending := by
  induction n generalizing s with
  | zero => exact ⟨rfl, rfl, rfl⟩
  | succ n ih =>
    simp only [writeMany]
    split <;> simp [ih]

@[simp] theorem offer_kept (q : Nat) (p : Producer) (ws : List QWord) (s : State) :
    (offer q p ws s).flash.mem = s.flash.mem ∧ (offer q p ws s).variant = s.variant ∧
    (offer q p ws s).pending = s.pending := by
  unfold offer; simp

@[simp] theorem dropProducer_kept (q : Nat) (p : Producer) (s : State) :
    (dropProducer q p s).flash.mem = s.flash.mem ∧ (dropProducer q p s).variant = s.variant ∧
    (dropProducer q p s).pending = s.pending := by
  unfold dropProducer; simp

@[simp] theorem discardOpen_kept (q : Nat) (p : Producer) (s : State) :
    (discardOpen q p s).flash.mem = s.flash.mem ∧ (discardOpen q p s).variant = s.variant ∧
    (discardOpen q p s).pending = s.pending := by
  unfold discardOpen; simp only []; split <;> simp []

@[simp] theorem releaseBlocks_kept (q n : Nat) (clearing : Bool) (s : State) :
    (releaseBlocks q n clearing s).flash.mem = s.flash.mem ∧ (releaseBlocks q n clearing s).variant = s.variant ∧
    (releaseBlocks q n clearing s).pending = s.pending := by
  unfold releaseBlocks; simp

@[simp] theorem dropWords_kept (q n : Nat) (s : State) :
    (dropWords q n s).flash.mem = s.flash.mem ∧ (dropWords q n s).variant = s.variant ∧
    (dropWords q n s).pending = s.pending := by
  unfold dropWords; simp

@[simp] theorem clearingEffect_kept (q : Nat) (s : State) :
    (clearingEffect q s).flash.mem = s.flash.mem ∧ (clearingEffect q s).variant = s.variant ∧
    (clearingEffect q s).pending = s.pending := by
  unfold clearingEffect; simp [apply_ite State.flash, apply_ite State.variant, apply_ite State.pending]; (repeat' split) <;> simp

@[simp] theorem clearingEnd_kept (q : Nat) (s : State) :
    (clearingEnd q s).flash.mem = s.flash.mem ∧ (clearingEnd q s).variant = s.variant ∧
    (clearingEnd q s).pending = s.pending := by
  unfold clearingEnd; simp [apply_ite State.flash, apply_ite State.variant, apply_ite State.pending]; (repeat' split) <;> simp

@[simp] theorem beginAllocation_kept (q : Nat) (s : State) :
    (beginAllocation q s).flash.mem = s.flash.mem ∧ (beginAllocation q s).variant = s.variant ∧
    (beginAllocation q s).pending = s.pending := by
  unfold beginAllocation; simp

@[simp] theorem serveLanes_kept (s : State) :
    (serveLanes s).flash.mem = s.flash.mem ∧ (serveLanes s).variant = s.variant ∧
    (serveLanes s).pending = s.pending := by
  unfold serveLanes; simp; (repeat' split) <;> simp

@[simp] theorem spillTail_kept (q : Nat) (s : State) :
    (spillTail q s).flash.mem = s.flash.mem ∧ (spillTail q s).variant = s.variant ∧
    (spillTail q s).pending = s.pending := by
  unfold spillTail; simp

@[simp] theorem spill_alloc_kept (q : Nat) (s : State) :
    (spill.alloc q s).flash.mem = s.flash.mem ∧ (spill.alloc q s).variant = s.variant ∧
    (spill.alloc q s).pending = s.pending := by
  unfold spill.alloc
  (repeat' split) <;> simp

@[simp] theorem spill_kept (q : Nat) (s : State) :
    (spill q s).flash.mem = s.flash.mem ∧ (spill q s).variant = s.variant ∧ (spill q s).pending = s.pending := by
  unfold spill
  (repeat' split) <;> simp

@[simp] theorem countPoison_kept (q : Nat) (s : State) :
    (countPoison q s).flash.mem = s.flash.mem ∧ (countPoison q s).variant = s.variant ∧
    (countPoison q s).pending = s.pending := by
  unfold countPoison; simp

@[simp] theorem refill_kept (q : Nat) (bad : List (Nat × BitVec 36)) (s : State) :
    (refill q bad s).flash.mem = s.flash.mem ∧ (refill q bad s).variant = s.variant ∧
    (refill q bad s).pending = s.pending := by
  unfold refill; simp only []; split <;> simp []

@[simp] theorem queueWordWrite_kept (q : Nat) (s : State) :
    (queueWordWrite q s).flash.mem = s.flash.mem ∧ (queueWordWrite q s).variant = s.variant ∧
    (queueWordWrite q s).pending = s.pending := by
  unfold queueWordWrite; simp [apply_ite State.flash, apply_ite State.variant, apply_ite State.pending]; (repeat' split) <;> simp

@[simp] theorem producerAdmit_kept (q : Nat) (p : Producer) (s : State) :
    (producerAdmit q p s).flash.mem = s.flash.mem ∧ (producerAdmit q p s).variant = s.variant ∧
    (producerAdmit q p s).pending = s.pending := by
  unfold producerAdmit; simp [apply_ite State.flash, apply_ite State.variant, apply_ite State.pending]; (repeat' split) <;> simp

@[simp] theorem headMove_kept (q : Nat) (s : State) :
    (headMove q s).flash.mem = s.flash.mem ∧ (headMove q s).variant = s.variant ∧
    (headMove q s).pending = s.pending := by
  unfold headMove; simp [apply_ite State.flash, apply_ite State.variant, apply_ite State.pending]; (repeat' split) <;> simp

@[simp] theorem verifyPass_kept (q : Nat) (s : State) :
    (verifyPass q s).flash.mem = s.flash.mem ∧ (verifyPass q s).variant = s.variant ∧
    (verifyPass q s).pending = s.pending := by
  unfold verifyPass; simp [apply_ite State.flash, apply_ite State.variant, apply_ite State.pending]; (repeat' split) <;> simp

@[simp] theorem verifyWords_kept (q : Nat) (bad : List (Nat × BitVec 36)) (s : State) :
    (verifyWords q bad s).flash.mem = s.flash.mem ∧ (verifyWords q bad s).variant = s.variant ∧
    (verifyWords q bad s).pending = s.pending := by
  unfold verifyWords; simp

@[simp] theorem allocationEnd_kept (q : Nat) (s : State) :
    (allocationEnd q s).flash.mem = s.flash.mem ∧ (allocationEnd q s).variant = s.variant ∧
    (allocationEnd q s).pending = s.pending := by
  unfold allocationEnd; simp only []; split <;> simp []

@[simp] theorem releaseEnd_kept (q : Nat) (s : State) :
    (releaseEnd q s).flash.mem = s.flash.mem ∧ (releaseEnd q s).variant = s.variant ∧
    (releaseEnd q s).pending = s.pending := by
  unfold releaseEnd; simp; (repeat' split) <;> simp

@[simp] theorem gapWordWrite_kept (q : Nat) (s : State) :
    (gapWordWrite q s).flash.mem = s.flash.mem ∧ (gapWordWrite q s).variant = s.variant ∧
    (gapWordWrite q s).pending = s.pending := by
  unfold gapWordWrite; simp [apply_ite State.flash, apply_ite State.variant, apply_ite State.pending]; (repeat' split) <;> simp

@[simp] theorem requestClear_kept (q : Nat) (s : State) :
    (requestClear q s).flash.mem = s.flash.mem ∧ (requestClear q s).variant = s.variant ∧
    (requestClear q s).pending = s.pending := by
  unfold requestClear; simp [apply_ite State.flash, apply_ite State.variant, apply_ite State.pending]; (repeat' split) <;> simp

@[simp] theorem blkFreeRead_kept (s : State) :
    (blkFreeRead s).flash.mem = s.flash.mem ∧ (blkFreeRead s).variant = s.variant ∧
    (blkFreeRead s).pending = s.pending := by
  unfold blkFreeRead; simp

@[simp] theorem crRead_kept (s : State) :
    (crRead s).flash.mem = s.flash.mem ∧ (crRead s).variant = s.variant ∧ (crRead s).pending = s.pending := by
  unfold crRead; simp

end Sys2Proof.Machine
end

