-- ==== Sys2Proof/Laws/KeptTime.lean ====
section
/-! SUPPORT. What the operations of Machine/Time.lean leave alone: the flash bytes, the variant, and the queue of waiting
commands. -/

namespace Sys2Proof.Machine

@[simp] theorem keepFlashNext_kept (s : State) :
    (keepFlashNext s).flash.mem = s.flash.mem ∧ (keepFlashNext s).variant = s.variant ∧
    (keepFlashNext s).pending = s.pending := by
  unfold keepFlashNext; simp

@[simp] theorem loseOld_kept (pos : Nat) (s : State) :
    (loseOld pos s).flash.mem = s.flash.mem ∧ (loseOld pos s).variant = s.variant ∧
    (loseOld pos s).pending = s.pending := by
  unfold loseOld; simp; (repeat' split) <;> simp

@[simp] theorem logPos_kept (code sub idx : Nat) (d : List Nat) (s : State) :
    (logPos code sub idx d s).flash.mem = s.flash.mem ∧ (logPos code sub idx d s).variant = s.variant ∧
    (logPos code sub idx d s).pending = s.pending := by
  unfold logPos; simp

@[simp] theorem notice_kept (n : Nat) (s : State) :
    (notice n s).flash.mem = s.flash.mem ∧ (notice n s).variant = s.variant ∧ (notice n s).pending = s.pending := by
  unfold notice; split <;> simp

@[simp] theorem logEvent_kept (code sub idx : Nat) (d : List Nat) (s : State) :
    (logEvent code sub idx d s).flash.mem = s.flash.mem ∧ (logEvent code sub idx d s).variant = s.variant ∧
    (logEvent code sub idx d s).pending = s.pending := by
  unfold logEvent; simp [apply_ite State.flash, apply_ite State.variant, apply_ite State.pending]; (repeat' split) <;> simp

@[simp] theorem logMirror_kept (rule : Nat) (hdr : List Nat) (len : Nat) (data : List Nat) (s : State) :
    (logMirror rule hdr len data s).flash.mem = s.flash.mem ∧ (logMirror rule hdr len data s).variant = s.variant ∧
    (logMirror rule hdr len data s).pending = s.pending := by
  unfold logMirror; simp [apply_ite State.flash, apply_ite State.variant, apply_ite State.pending]; (repeat' split) <;> simp

@[simp] theorem reseg_kept (s : State) :
    (reseg s).flash.mem = s.flash.mem ∧ (reseg s).variant = s.variant ∧ (reseg s).pending = s.pending := by
  unfold reseg; simp

@[simp] theorem holdGroups_kept (s : State) :
    (holdGroups s).flash.mem = s.flash.mem ∧ (holdGroups s).variant = s.variant ∧
    (holdGroups s).pending = s.pending := by
  unfold holdGroups; simp

@[simp] theorem groupsAlign_kept (s : State) :
    (groupsAlign s).flash.mem = s.flash.mem ∧ (groupsAlign s).variant = s.variant ∧
    (groupsAlign s).pending = s.pending := by
  unfold groupsAlign; simp

@[simp] theorem groupsUnalign_kept (s : State) :
    (groupsUnalign s).flash.mem = s.flash.mem ∧ (groupsUnalign s).variant = s.variant ∧
    (groupsUnalign s).pending = s.pending := by
  unfold groupsUnalign; simp

@[simp] theorem setQuality_kept (q : Nat) (s : State) :
    (setQuality q s).flash.mem = s.flash.mem ∧ (setQuality q s).variant = s.variant ∧
    (setQuality q s).pending = s.pending := by
  unfold setQuality; simp [apply_ite State.flash, apply_ite State.variant, apply_ite State.pending]; (repeat' split) <;> simp

@[simp] theorem pulseDone_kept (s : State) :
    (pulseDone s).flash.mem = s.flash.mem ∧ (pulseDone s).variant = s.variant ∧ (pulseDone s).pending = s.pending := by
  unfold pulseDone; (repeat' split) <;> simp

@[simp] theorem w9Release_kept (s : State) :
    (w9Release s).flash.mem = s.flash.mem ∧ (w9Release s).variant = s.variant ∧ (w9Release s).pending = s.pending := by
  unfold w9Release; (repeat' split) <;> simp

@[simp] theorem pulseCheck_kept (s : State) :
    (pulseCheck s).flash.mem = s.flash.mem ∧ (pulseCheck s).variant = s.variant ∧
    (pulseCheck s).pending = s.pending := by
  unfold pulseCheck; simp

@[simp] theorem pulseStart_kept (s : State) :
    (pulseStart s).flash.mem = s.flash.mem ∧ (pulseStart s).variant = s.variant ∧
    (pulseStart s).pending = s.pending := by
  unfold pulseStart; simp [apply_ite State.flash, apply_ite State.variant, apply_ite State.pending]

@[simp] theorem carry_kept (s : State) :
    (carry s).flash.mem = s.flash.mem ∧ (carry s).variant = s.variant ∧ (carry s).pending = s.pending := by
  unfold carry; simp only []; split <;> simp []

@[simp] theorem passTo_kept (target n : Nat) (s : State) :
    (passTo target n s).flash.mem = s.flash.mem ∧ (passTo target n s).variant = s.variant ∧
    (passTo target n s).pending = s.pending := by
  induction n generalizing s with
  | zero => simp [passTo]
  | succ n ih =>
    simp only [passTo]
    split <;> simp [ih]

@[simp] theorem elapseTo_kept (target : Nat) (s : State) :
    (elapseTo target s).flash.mem = s.flash.mem ∧ (elapseTo target s).variant = s.variant ∧
    (elapseTo target s).pending = s.pending := by
  unfold elapseTo; simp [apply_ite State.flash, apply_ite State.variant, apply_ite State.pending]; (repeat' split) <;> simp

@[simp] theorem elapse_kept (dt : Nat) (s : State) :
    (elapse dt s).flash.mem = s.flash.mem ∧ (elapse dt s).variant = s.variant ∧ (elapse dt s).pending = s.pending := by
  unfold elapse; simp

@[simp] theorem runTo_kept (due : Nat) (s : State) :
    (runTo due s).flash.mem = s.flash.mem ∧ (runTo due s).variant = s.variant ∧ (runTo due s).pending = s.pending := by
  unfold runTo; simp

@[simp] theorem logRtChange_kept (sub : Nat) (before : Stamp) (s : State) :
    (logRtChange sub before s).flash.mem = s.flash.mem ∧ (logRtChange sub before s).variant = s.variant ∧
    (logRtChange sub before s).pending = s.pending := by
  unfold logRtChange; simp

end Sys2Proof.Machine
end

