-- ==== Sys2Proof/Laws/KeptClock.lean ====
section
/-! SUPPORT. What the operations of Machine/Clock.lean leave alone: the flash bytes, the variant, and the queue of waiting
commands. -/

namespace Sys2Proof.Machine

@[simp] theorem addRing_kept (d : Int) (s : State) :
    (addRing d s).flash.mem = s.flash.mem ∧ (addRing d s).variant = s.variant ∧ (addRing d s).pending = s.pending := by
  unfold addRing; simp

@[simp] theorem rtSet_setAfter_kept (locked : Bool) (before : Stamp) (s : State) :
    (rtSet.setAfter locked before s).flash.mem = s.flash.mem ∧ (rtSet.setAfter locked before s).variant = s.variant ∧
    (rtSet.setAfter locked before s).pending = s.pending := by
  unfold rtSet.setAfter
  simp only []
  (repeat' split) <;> simp

@[simp] theorem rtSet_kept (locked : Bool) (s : State) :
    (rtSet locked s).flash.mem = s.flash.mem ∧ (rtSet locked s).variant = s.variant ∧
    (rtSet locked s).pending = s.pending := by
  unfold rtSet
  simp only []
  (repeat' split) <;> simp

@[simp] theorem rtStep_kept (s : State) :
    (rtStep s).flash.mem = s.flash.mem ∧ (rtStep s).variant = s.variant ∧ (rtStep s).pending = s.pending := by
  unfold rtStep; simp only []; split <;> simp []

@[simp] theorem dropReference_kept (s : State) :
    (dropReference s).flash.mem = s.flash.mem ∧ (dropReference s).variant = s.variant ∧
    (dropReference s).pending = s.pending := by
  unfold dropReference; simp

@[simp] theorem lockStart_kept (host : Bool) (s : State) :
    (lockStart host s).flash.mem = s.flash.mem ∧ (lockStart host s).variant = s.variant ∧
    (lockStart host s).pending = s.pending := by
  unfold lockStart; simp [apply_ite State.flash, apply_ite State.variant, apply_ite State.pending]

@[simp] theorem lockStop_kept (s : State) :
    (lockStop s).flash.mem = s.flash.mem ∧ (lockStop s).variant = s.variant ∧ (lockStop s).pending = s.pending := by
  unfold lockStop; simp only []; split <;> simp []

@[simp] theorem slew_kept (e : Int) (s : State) :
    (slew e s).flash.mem = s.flash.mem ∧ (slew e s).variant = s.variant ∧ (slew e s).pending = s.pending := by
  unfold slew; simp

@[simp] theorem loopStep_kept (e : Int) (s : State) :
    (loopStep e s).flash.mem = s.flash.mem ∧ (loopStep e s).variant = s.variant ∧
    (loopStep e s).pending = s.pending := by
  unfold loopStep; simp

@[simp] theorem acceptMark_kept (e : Int) (s : State) :
    (acceptMark e s).flash.mem = s.flash.mem ∧ (acceptMark e s).variant = s.variant ∧
    (acceptMark e s).pending = s.pending := by
  unfold acceptMark; simp

@[simp] theorem lockMark_kept (s : State) :
    (lockMark s).flash.mem = s.flash.mem ∧ (lockMark s).variant = s.variant ∧ (lockMark s).pending = s.pending := by
  unfold lockMark; simp; (repeat' split) <;> simp

@[simp] theorem levelAccepted_kept (widthNs : Nat) (s : State) :
    (levelAccepted widthNs s).2.flash.mem = s.flash.mem ∧ (levelAccepted widthNs s).2.variant = s.variant ∧
    (levelAccepted widthNs s).2.pending = s.pending := by
  unfold levelAccepted; (repeat' split) <;> exact ⟨rfl, rfl, rfl⟩

@[simp] theorem tmInMark_kept (falling : Bool) (widthNs : Nat) (s : State) :
    (tmInMark falling widthNs s).flash.mem = s.flash.mem ∧ (tmInMark falling widthNs s).variant = s.variant ∧
    (tmInMark falling widthNs s).pending = s.pending := by
  unfold tmInMark; split
  · simp
  · simp; (repeat' split) <;> simp

@[simp] theorem markTimeout_kept (s : State) :
    (markTimeout s).flash.mem = s.flash.mem ∧ (markTimeout s).variant = s.variant ∧
    (markTimeout s).pending = s.pending := by
  unfold markTimeout; simp; (repeat' split) <;> simp

@[simp] theorem rtCapture_kept (s : State) :
    (rtCapture s).flash.mem = s.flash.mem ∧ (rtCapture s).variant = s.variant ∧ (rtCapture s).pending = s.pending := by
  unfold rtCapture; simp

@[simp] theorem tmOutClaim_kept (s : State) :
    (tmOutClaim s).flash.mem = s.flash.mem ∧ (tmOutClaim s).variant = s.variant ∧
    (tmOutClaim s).pending = s.pending := by
  unfold tmOutClaim; simp

@[simp] theorem tmOutDrop_kept (s : State) :
    (tmOutDrop s).flash.mem = s.flash.mem ∧ (tmOutDrop s).variant = s.variant ∧ (tmOutDrop s).pending = s.pending := by
  unfold tmOutDrop; simp [apply_ite State.flash, apply_ite State.variant, apply_ite State.pending]

@[simp] theorem secondsCarry_kept (s : State) :
    (secondsCarry s).flash.mem = s.flash.mem ∧ (secondsCarry s).variant = s.variant ∧
    (secondsCarry s).pending = s.pending := by
  unfold secondsCarry; simp [apply_ite State.flash, apply_ite State.variant, apply_ite State.pending]; (repeat' split) <;> simp

@[simp] theorem toW9Release_kept (s : State) :
    (toW9Release s).flash.mem = s.flash.mem ∧ (toW9Release s).variant = s.variant ∧
    (toW9Release s).pending = s.pending := by
  unfold toW9Release; split <;> simp

@[simp] theorem tmOutPulseEnd_kept (s : State) :
    (tmOutPulseEnd s).flash.mem = s.flash.mem ∧ (tmOutPulseEnd s).variant = s.variant ∧
    (tmOutPulseEnd s).pending = s.pending := by
  unfold tmOutPulseEnd; (repeat' split) <;> first | exact ⟨rfl, rfl, rfl⟩ | simp

end Sys2Proof.Machine
end

