-- ==== Sys2Proof/Laws/KeptLeave.lean ====
section
/-! SUPPORT. What the operations of Machine/Leave.lean leave alone: the flash bytes, the variant, and the queue of waiting
commands. -/

namespace Sys2Proof.Machine

@[simp] theorem setWaiting_kept (p : Pool) (l : List LeaveReq) (s : State) :
    (setWaiting p l s).flash.mem = s.flash.mem ∧ (setWaiting p l s).variant = s.variant ∧
    (setWaiting p l s).pending = s.pending := by
  unfold setWaiting; simp only []; split <;> simp []

@[simp] theorem setGrants_kept (p : Pool) (l : List Grant) (s : State) :
    (setGrants p l s).flash.mem = s.flash.mem ∧ (setGrants p l s).variant = s.variant ∧
    (setGrants p l s).pending = s.pending := by
  unfold setGrants; simp only []; split <;> simp []

@[simp] theorem checkBudget_kept (p : Pool) (s : State) :
    (checkBudget p s).flash.mem = s.flash.mem ∧ (checkBudget p s).variant = s.variant ∧
    (checkBudget p s).pending = s.pending := by
  unfold checkBudget; simp [apply_ite State.flash, apply_ite State.variant, apply_ite State.pending]; (repeat' split) <;> simp

@[simp] theorem budgetWritten_kept (p : Pool) (s : State) :
    (budgetWritten p s).flash.mem = s.flash.mem ∧ (budgetWritten p s).variant = s.variant ∧
    (budgetWritten p s).pending = s.pending := by
  unfold budgetWritten; simp

@[simp] theorem requestLeave_kept (k : LeaveKind) (units limit : Nat) (urgent : Bool) (s : State) :
    (requestLeave k units limit urgent s).flash.mem = s.flash.mem ∧
    (requestLeave k units limit urgent s).variant = s.variant ∧
    (requestLeave k units limit urgent s).pending = s.pending := by
  unfold requestLeave; simp

@[simp] theorem withdrawLeave_kept (k : LeaveKind) (s : State) :
    (withdrawLeave k s).flash.mem = s.flash.mem ∧ (withdrawLeave k s).variant = s.variant ∧
    (withdrawLeave k s).pending = s.pending := by
  unfold withdrawLeave; simp

@[simp] theorem releaseLeave_kept (k : LeaveKind) (s : State) :
    (releaseLeave k s).flash.mem = s.flash.mem ∧ (releaseLeave k s).variant = s.variant ∧
    (releaseLeave k s).pending = s.pending := by
  unfold releaseLeave; simp

@[simp] theorem cutGrant_kept (k : LeaveKind) (units : Nat) (s : State) :
    (cutGrant k units s).flash.mem = s.flash.mem ∧ (cutGrant k units s).variant = s.variant ∧
    (cutGrant k units s).pending = s.pending := by
  unfold cutGrant; simp

@[simp] theorem markUnits_kept (p : Pool) (s : State) :
    (markUnits p s).flash.mem = s.flash.mem ∧ (markUnits p s).variant = s.variant ∧
    (markUnits p s).pending = s.pending := by
  unfold markUnits; simp [apply_ite State.flash, apply_ite State.variant, apply_ite State.pending]; (repeat' split) <;> simp

@[simp] theorem book_kept (k : LeaveKind) (units : Nat) (s : State) :
    (book k units s).flash.mem = s.flash.mem ∧ (book k units s).variant = s.variant ∧
    (book k units s).pending = s.pending := by
  unfold book; simp only []; split <;> simp []

@[simp] theorem grantCycle_markWaits_kept (p : Pool) (s : State) :
    (grantCycle.markWaits p s).flash.mem = s.flash.mem ∧ (grantCycle.markWaits p s).variant = s.variant ∧
    (grantCycle.markWaits p s).pending = s.pending := by
  unfold grantCycle.markWaits
  simp only []
  split <;> simp

@[simp] theorem grantCycle_kept (p : Pool) (s : State) :
    (grantCycle p s).flash.mem = s.flash.mem ∧ (grantCycle p s).variant = s.variant ∧
    (grantCycle p s).pending = s.pending := by
  unfold grantCycle
  simp only []
  split
  · simp
  · split <;> simp

@[simp] theorem timeoutReq_kept (r : LeaveReq) (s : State) :
    (timeoutReq r s).flash.mem = s.flash.mem ∧ (timeoutReq r s).variant = s.variant ∧
    (timeoutReq r s).pending = s.pending := by
  unfold timeoutReq; simp only []; split <;> simp []

@[simp] theorem ledgerRead_kept (s : State) :
    (ledgerRead s).flash.mem = s.flash.mem ∧ (ledgerRead s).variant = s.variant ∧
    (ledgerRead s).pending = s.pending := by
  unfold ledgerRead; simp

@[simp] theorem dieTemp_kept (t : Int) (s : State) :
    (dieTemp t s).flash.mem = s.flash.mem ∧ (dieTemp t s).variant = s.variant ∧ (dieTemp t s).pending = s.pending := by
  unfold dieTemp; simp [apply_ite State.flash, apply_ite State.variant, apply_ite State.pending]; (repeat' split) <;> simp

end Sys2Proof.Machine
end

