-- ==== Sys2Proof/Laws/KeptLine.lean ====
section
/-! SUPPORT. What the operations of Machine/Line.lean leave alone: the flash bytes, the variant, and the queue of waiting
commands. -/

namespace Sys2Proof.Machine

@[simp] theorem pSet_kept (p : Nat) (v : Port) (s : State) :
    (pSet p v s).flash.mem = s.flash.mem ∧ (pSet p v s).variant = s.variant ∧ (pSet p v s).pending = s.pending := by
  unfold pSet; simp

@[simp] theorem pMap_kept (p : Nat) (f : Port → Port) (s : State) :
    (pMap p f s).flash.mem = s.flash.mem ∧ (pMap p f s).variant = s.variant ∧ (pMap p f s).pending = s.pending := by
  unfold pMap; simp

@[simp] theorem lnMap_kept (p : Nat) (f : GLine → GLine) (s : State) :
    (lnMap p f s).flash.mem = s.flash.mem ∧ (lnMap p f s).variant = s.variant ∧
    (lnMap p f s).pending = s.pending := by
  unfold lnMap; simp

@[simp] theorem rxTakeUp_kept (p : Nat) (s : State) :
    (rxTakeUp p s).flash.mem = s.flash.mem ∧ (rxTakeUp p s).variant = s.variant ∧
    (rxTakeUp p s).pending = s.pending := by
  unfold rxTakeUp; simp [apply_ite State.flash, apply_ite State.variant, apply_ite State.pending]; (repeat' split) <;> simp

@[simp] theorem txTakeUp_kept (p : Nat) (s : State) :
    (txTakeUp p s).flash.mem = s.flash.mem ∧ (txTakeUp p s).variant = s.variant ∧
    (txTakeUp p s).pending = s.pending := by
  unfold txTakeUp; simp [apply_ite State.flash, apply_ite State.variant, apply_ite State.pending]; (repeat' split) <;> simp

@[simp] theorem formatWritten_kept (p : Nat) (s : State) :
    (formatWritten p s).flash.mem = s.flash.mem ∧ (formatWritten p s).variant = s.variant ∧
    (formatWritten p s).pending = s.pending := by
  unfold formatWritten; simp [apply_ite State.flash, apply_ite State.variant, apply_ite State.pending]; (repeat' split) <;> simp

@[simp] theorem creditLean_kept (p t : Nat) (m : Int) (s : State) :
    (creditLean p t m s).flash.mem = s.flash.mem ∧ (creditLean p t m s).variant = s.variant ∧
    (creditLean p t m s).pending = s.pending := by
  unfold creditLean; simp [apply_ite State.flash, apply_ite State.variant, apply_ite State.pending]; (repeat' split) <;> simp

@[simp] theorem measureLean_kept (p : Nat) (r : OpenRec) (flags talker : Nat) (s : State) :
    (measureLean p r flags talker s).flash.mem = s.flash.mem ∧ (measureLean p r flags talker s).variant = s.variant ∧
    (measureLean p r flags talker s).pending = s.pending := by
  unfold measureLean; simp [apply_ite State.flash, apply_ite State.variant, apply_ite State.pending]; (repeat' split) <;> simp

@[simp] theorem patchRecord_kept (q : Nat) (pr : Producer) (ws : List QWord) (final : Bool) (s : State) :
    (patchRecord q pr ws final s).flash.mem = s.flash.mem ∧ (patchRecord q pr ws final s).variant = s.variant ∧
    (patchRecord q pr ws final s).pending = s.pending := by
  unfold patchRecord; simp

@[simp] theorem placeWords_kept (p k : Nat) (ws : List QWord) (final : Bool) (s : State) :
    (placeWords p k ws final s).flash.mem = s.flash.mem ∧ (placeWords p k ws final s).variant = s.variant ∧
    (placeWords p k ws final s).pending = s.pending := by
  unfold placeWords; simp

@[simp] theorem takeNextFlags_kept (p : Nat) (s : State) :
    (takeNextFlags p s).2.flash.mem = s.flash.mem ∧ (takeNextFlags p s).2.variant = s.variant ∧
    (takeNextFlags p s).2.pending = s.pending := by
  unfold takeNextFlags; simp

@[simp] theorem openRecord_kept (p : Nat) (edge : Stamp) (s : State) :
    (openRecord p edge s).flash.mem = s.flash.mem ∧ (openRecord p edge s).variant = s.variant ∧
    (openRecord p edge s).pending = s.pending := by
  unfold openRecord; simp

@[simp] theorem blockEmptied_kept (p : Nat) (s : State) :
    (blockEmptied p s).flash.mem = s.flash.mem ∧ (blockEmptied p s).variant = s.variant ∧
    (blockEmptied p s).pending = s.pending := by
  unfold blockEmptied; simp

@[simp] theorem moveOpen_kept (p : Nat) (s : State) :
    (moveOpen p s).flash.mem = s.flash.mem ∧ (moveOpen p s).variant = s.variant ∧
    (moveOpen p s).pending = s.pending := by
  unfold moveOpen; simp [apply_ite State.flash, apply_ite State.variant, apply_ite State.pending]; (repeat' split) <;> simp

@[simp] theorem finishClosed_kept (p : Nat) (c : Closed) (s : State) :
    (finishClosed p c s).flash.mem = s.flash.mem ∧ (finishClosed p c s).variant = s.variant ∧
    (finishClosed p c s).pending = s.pending := by
  unfold finishClosed; simp

@[simp] theorem moveOn_kept (p : Nat) (l : List Closed) (s : State) :
    (moveOn p l s).flash.mem = s.flash.mem ∧ (moveOn p l s).variant = s.variant ∧
    (moveOn p l s).pending = s.pending := by
  induction l generalizing s with
  | nil => simp [moveOn]
  | cons c r ih => unfold moveOn; dsimp only; split <;> simp [ih]

@[simp] theorem closeRecord_kept (p extra : Nat) (markEdge : Option Stamp) (s : State) :
    (closeRecord p extra markEdge s).flash.mem = s.flash.mem ∧ (closeRecord p extra markEdge s).variant = s.variant ∧
    (closeRecord p extra markEdge s).pending = s.pending := by
  unfold closeRecord
  split
  · exact ⟨rfl, rfl, rfl⟩
  · extract_lets
    rename_i r _ g pre late ck flags key talker stamp0 stamp hdr a b c d e f h n cl j
    have hb : b.flash.mem = s.flash.mem ∧ b.variant = s.variant ∧ b.pending = s.pending := by simp [b, a]
    clear_value b
    have hc : c.flash.mem = s.flash.mem ∧ c.variant = s.variant ∧ c.pending = s.pending := by simp only [c]; split <;> simp [hb]
    clear_value c
    have hd : d.flash.mem = s.flash.mem ∧ d.variant = s.variant ∧ d.pending = s.pending := by simp only [d]; split <;> simp [hc]
    clear_value d
    have he : e.flash.mem = s.flash.mem ∧ e.variant = s.variant ∧ e.pending = s.pending := by simp only [e]; split <;> simp [hd]
    clear_value e
    have hf : f.flash.mem = s.flash.mem ∧ f.variant = s.variant ∧ f.pending = s.pending := by simp only [f]; split <;> simp [he]
    clear_value f
    have hh : h.flash.mem = s.flash.mem ∧ h.variant = s.variant ∧ h.pending = s.pending := by simp only [h]; split <;> simp [hf]
    clear_value h
    have hj : j.flash.mem = s.flash.mem ∧ j.variant = s.variant ∧ j.pending = s.pending := by simp [j, hh]
    clear_value j
    split <;> simp [hj]

@[simp] theorem abandonMark_kept (p : Nat) (s : State) :
    (abandonMark p s).flash.mem = s.flash.mem ∧ (abandonMark p s).variant = s.variant ∧
    (abandonMark p s).pending = s.pending := by
  unfold abandonMark; (repeat' split) <;> simp

@[simp] theorem moveStep_kept (p : Nat) (s : State) :
    (moveStep p s).flash.mem = s.flash.mem ∧ (moveStep p s).variant = s.variant ∧
    (moveStep p s).pending = s.pending := by
  unfold moveStep; split <;> simp

@[simp] theorem stagingMove_kept (p : Nat) (s : State) :
    (stagingMove p s).flash.mem = s.flash.mem ∧ (stagingMove p s).variant = s.variant ∧
    (stagingMove p s).pending = s.pending := by
  unfold stagingMove; simp [apply_ite State.flash, apply_ite State.variant, apply_ite State.pending]; (repeat' split) <;> simp

@[simp] theorem loseByte31_kept (p : Nat) (s : State) :
    (loseByte31 p s).flash.mem = s.flash.mem ∧ (loseByte31 p s).variant = s.variant ∧
    (loseByte31 p s).pending = s.pending := by
  unfold loseByte31; simp

@[simp] theorem freeByte_kept (p : Nat) (s : State) :
    (freeByte p s).flash.mem = s.flash.mem ∧ (freeByte p s).variant = s.variant ∧
    (freeByte p s).pending = s.pending := by
  unfold freeByte; (repeat' split) <;> simp

@[simp] theorem stageByte_kept (p : Nat) (b : Byte) (payload : Bool) (s : State) :
    (stageByte p b payload s).flash.mem = s.flash.mem ∧ (stageByte p b payload s).variant = s.variant ∧
    (stageByte p b payload s).pending = s.pending := by
  unfold stageByte; simp

@[simp] theorem discardClosed_kept (p : Nat) (s : State) :
    (discardClosed p s).flash.mem = s.flash.mem ∧ (discardClosed p s).variant = s.variant ∧
    (discardClosed p s).pending = s.pending := by
  unfold discardClosed; simp

@[simp] theorem countNoise_kept (p : Nat) (s : State) :
    (countNoise p s).flash.mem = s.flash.mem ∧ (countNoise p s).variant = s.variant ∧
    (countNoise p s).pending = s.pending := by
  unfold countNoise; simp

@[simp] theorem appendChar_kept (p : Nat) (b : Byte) (flags : Nat) (lean : LeanSum) (leaned : Bool) (s : State) :
    (appendChar p b flags lean leaned s).flash.mem = s.flash.mem ∧
    (appendChar p b flags lean leaned s).variant = s.variant ∧
    (appendChar p b flags lean leaned s).pending = s.pending := by
  unfold appendChar; simp

@[simp] theorem truncate_kept (p : Nat) (s : State) :
    (truncate p s).flash.mem = s.flash.mem ∧ (truncate p s).variant = s.variant ∧
    (truncate p s).pending = s.pending := by
  unfold truncate; simp only []; split <;> simp []

@[simp] theorem closeLate_kept (p extra : Nat) (ended : Bool) (s : State) :
    (closeLate p extra ended s).flash.mem = s.flash.mem ∧ (closeLate p extra ended s).variant = s.variant ∧
    (closeLate p extra ended s).pending = s.pending := by
  unfold closeLate; (repeat' split) <;> simp

@[simp] theorem nmeaRestart_kept (p : Nat) (b : Byte) (s : State) :
    (nmeaRestart p b s).flash.mem = s.flash.mem ∧ (nmeaRestart p b s).variant = s.variant ∧
    (nmeaRestart p b s).pending = s.pending := by
  unfold nmeaRestart; (repeat' split) <;> simp

@[simp] theorem modbusGap_kept (p : Nat) (f : Fmt) (gap : Option Nat) (s : State) :
    (modbusGap p f gap s).flash.mem = s.flash.mem ∧ (modbusGap p f gap s).variant = s.variant ∧
    (modbusGap p f gap s).pending = s.pending := by
  unfold modbusGap; (repeat' split) <;> simp

@[simp] theorem insideChar_kept (p : Nat) (b : Byte) (edge : Stamp) (flags : Nat) (lean : LeanSum) (leaned : Bool) (s : State) :
    (insideChar p b edge flags lean leaned s).flash.mem = s.flash.mem ∧ (insideChar p b edge flags lean leaned s).variant = s.variant ∧
    (insideChar p b edge flags lean leaned s).pending = s.pending := by
  unfold insideChar; simp [apply_ite State.flash, apply_ite State.variant, apply_ite State.pending]; (repeat' split) <;> simp

@[simp] theorem outsideChar_kept (p : Nat) (b : Byte) (s : State) :
    (outsideChar p b s).flash.mem = s.flash.mem ∧ (outsideChar p b s).variant = s.variant ∧
    (outsideChar p b s).pending = s.pending := by
  unfold outsideChar; simp [apply_ite State.flash, apply_ite State.variant, apply_ite State.pending]; (repeat' split) <;> simp

@[simp] theorem grammarChar_kept (p : Nat) (b : Byte) (edge : Stamp) (flags : Nat) (lean : LeanSum) (leaned : Bool) (f : Fmt) (gap : Option Nat) (s : State) :
    (grammarChar p b edge flags lean leaned f gap s).flash.mem = s.flash.mem ∧ (grammarChar p b edge flags lean leaned f gap s).variant = s.variant ∧
    (grammarChar p b edge flags lean leaned f gap s).pending = s.pending := by
  unfold grammarChar; simp [apply_ite State.flash, apply_ite State.variant, apply_ite State.pending]; (repeat' split) <;> simp

@[simp] theorem takeChar_kept (p : Nat) (x : RxChar) (b : Byte) (framing parity : Bool) (lean : LeanSum) (at_ : Nat) (s : State) :
    (takeChar p x b framing parity lean at_ s).flash.mem = s.flash.mem ∧ (takeChar p x b framing parity lean at_ s).variant = s.variant ∧
    (takeChar p x b framing parity lean at_ s).pending = s.pending := by
  unfold takeChar; simp [apply_ite State.flash, apply_ite State.variant, apply_ite State.pending]; (repeat' split) <;> simp

@[simp] theorem startBit_kept (p : Nat) (s : State) :
    (startBit p s).flash.mem = s.flash.mem ∧ (startBit p s).variant = s.variant ∧
    (startBit p s).pending = s.pending := by
  unfold startBit; simp only []; split <;> simp []

@[simp] theorem startGlitch_kept (p : Nat) (s : State) :
    (startGlitch p s).flash.mem = s.flash.mem ∧ (startGlitch p s).variant = s.variant ∧
    (startGlitch p s).pending = s.pending := by
  unfold startGlitch; simp [apply_ite State.flash, apply_ite State.variant, apply_ite State.pending]; (repeat' split) <;> simp

@[simp] theorem characterReceived_kept (p : Nat) (samples : List Bool) (trans : List Nat) (s : State) :
    (characterReceived p samples trans s).flash.mem = s.flash.mem ∧
    (characterReceived p samples trans s).variant = s.variant ∧
    (characterReceived p samples trans s).pending = s.pending := by
  unfold characterReceived; simp; (repeat' split) <;> simp

@[simp] theorem possibleBreakIdle_kept (p : Nat) (s : State) :
    (possibleBreakIdle p s).flash.mem = s.flash.mem ∧ (possibleBreakIdle p s).variant = s.variant ∧
    (possibleBreakIdle p s).pending = s.pending := by
  unfold possibleBreakIdle; (repeat' split) <;> simp

@[simp] theorem breakClose_kept (p : Nat) (s : State) :
    (breakClose p s).flash.mem = s.flash.mem ∧ (breakClose p s).variant = s.variant ∧
    (breakClose p s).pending = s.pending := by
  unfold breakClose; simp [apply_ite State.flash, apply_ite State.variant, apply_ite State.pending]; (repeat' split) <;> simp

@[simp] theorem breakDetected_kept (p : Nat) (s : State) :
    (breakDetected p s).flash.mem = s.flash.mem ∧ (breakDetected p s).variant = s.variant ∧
    (breakDetected p s).pending = s.pending := by
  unfold breakDetected; simp; (repeat' split) <;> simp

@[simp] theorem huntResume_kept (p : Nat) (s : State) :
    (huntResume p s).flash.mem = s.flash.mem ∧ (huntResume p s).variant = s.variant ∧
    (huntResume p s).pending = s.pending := by
  unfold huntResume; (repeat' split) <;> simp

@[simp] theorem rxTimeout_kept (p : Nat) (s : State) :
    (rxTimeout p s).flash.mem = s.flash.mem ∧ (rxTimeout p s).variant = s.variant ∧
    (rxTimeout p s).pending = s.pending := by
  unfold rxTimeout; simp; (repeat' split) <;> simp

@[simp] theorem t35Expiry_kept (p : Nat) (s : State) :
    (t35Expiry p s).flash.mem = s.flash.mem ∧ (t35Expiry p s).variant = s.variant ∧
    (t35Expiry p s).pending = s.pending := by
  unfold t35Expiry; simp; (repeat' split) <;> simp

@[simp] theorem sentenceTimeout_kept (p : Nat) (s : State) :
    (sentenceTimeout p s).flash.mem = s.flash.mem ∧ (sentenceTimeout p s).variant = s.variant ∧
    (sentenceTimeout p s).pending = s.pending := by
  unfold sentenceTimeout; simp [apply_ite State.flash, apply_ite State.variant, apply_ite State.pending]; (repeat' split) <;> simp

theorem runFrom_kept (o : Option Nat) (g : Nat → Nat) (s : State) :
    (match o with | some l => runTo (g l) s | none => s).flash.mem = s.flash.mem ∧
    (match o with | some l => runTo (g l) s | none => s).variant = s.variant ∧
    (match o with | some l => runTo (g l) s | none => s).pending = s.pending := by
  cases o with
  | none => exact ⟨rfl, rfl, rfl⟩
  | some l => exact runTo_kept _ s

@[simp] theorem markAbandon_kept (p : Nat) (s : State) :
    (markAbandon p s).flash.mem = s.flash.mem ∧ (markAbandon p s).variant = s.variant ∧
    (markAbandon p s).pending = s.pending := by
  unfold markAbandon; simp [apply_ite State.flash, apply_ite State.variant, apply_ite State.pending]; (repeat' split) <;> simp

@[simp] theorem rxCharsRead_kept (p : Nat) (s : State) :
    (rxCharsRead p s).flash.mem = s.flash.mem ∧ (rxCharsRead p s).variant = s.variant ∧
    (rxCharsRead p s).pending = s.pending := by
  unfold rxCharsRead; simp

@[simp] theorem trimBegins_kept (p : Nat) (s : State) :
    (trimBegins p s).flash.mem = s.flash.mem ∧ (trimBegins p s).variant = s.variant ∧
    (trimBegins p s).pending = s.pending := by
  unfold trimBegins; simp only []; split <;> simp []

@[simp] theorem trimEnds_kept (p : Nat) (startLevel : Bool) (s : State) :
    (trimEnds p startLevel s).flash.mem = s.flash.mem ∧ (trimEnds p startLevel s).variant = s.variant ∧
    (trimEnds p startLevel s).pending = s.pending := by
  unfold trimEnds; simp [apply_ite State.flash, apply_ite State.variant, apply_ite State.pending]; (repeat' split) <;> simp

@[simp] theorem rxDisable_kept (p : Nat) (s : State) :
    (rxDisable p s).flash.mem = s.flash.mem ∧ (rxDisable p s).variant = s.variant ∧
    (rxDisable p s).pending = s.pending := by
  unfold rxDisable; simp [apply_ite State.flash, apply_ite State.variant, apply_ite State.pending]; (repeat' split) <;> simp

end Sys2Proof.Machine
end

