-- ==== Sys2Proof/Laws/KeptLineTx.lean ====
section
/-! SUPPORT. What the operations of Machine/LineTx.lean leave alone: the flash bytes, the variant, and the queue of waiting
commands. -/

namespace Sys2Proof.Machine

@[simp] theorem txMap_kept (p : Nat) (f : Tx → Tx) (s : State) :
    (txMap p f s).flash.mem = s.flash.mem ∧ (txMap p f s).variant = s.variant ∧ (txMap p f s).pending = s.pending := by
  unfold txMap; simp

@[simp] theorem raiseLde_kept (p : Nat) (s : State) :
    (raiseLde p s).flash.mem = s.flash.mem ∧ (raiseLde p s).variant = s.variant ∧
    (raiseLde p s).pending = s.pending := by
  unfold raiseLde; simp

@[simp] theorem askBreak_kept (p : Nat) (directive : Bool) (s : State) :
    (askBreak p directive s).flash.mem = s.flash.mem ∧ (askBreak p directive s).variant = s.variant ∧
    (askBreak p directive s).pending = s.pending := by
  unfold askBreak; simp

@[simp] theorem countHeld_kept (p : Nat) (s : State) :
    (countHeld p s).flash.mem = s.flash.mem ∧ (countHeld p s).variant = s.variant ∧
    (countHeld p s).pending = s.pending := by
  unfold countHeld; simp

@[simp] theorem holdTx_kept (p : Nat) (s : State) :
    (holdTx p s).flash.mem = s.flash.mem ∧ (holdTx p s).variant = s.variant ∧ (holdTx p s).pending = s.pending := by
  unfold holdTx; simp [apply_ite State.flash, apply_ite State.variant, apply_ite State.pending]; (repeat' split) <;> simp

@[simp] theorem holdBreak_kept (p : Nat) (directive : Bool) (s : State) :
    (holdBreak p directive s).flash.mem = s.flash.mem ∧ (holdBreak p directive s).variant = s.variant ∧
    (holdBreak p directive s).pending = s.pending := by
  unfold holdBreak; (repeat' split) <;> simp

@[simp] theorem takeTxRecord_kept (p : Nat) (ws : List QWord) (s : State) :
    (takeTxRecord p ws s).flash.mem = s.flash.mem ∧ (takeTxRecord p ws s).variant = s.variant ∧
    (takeTxRecord p ws s).pending = s.pending := by
  unfold takeTxRecord; simp

@[simp] theorem txRecordStart_kept (p : Nat) (s : State) :
    (txRecordStart p s).flash.mem = s.flash.mem ∧ (txRecordStart p s).variant = s.variant ∧
    (txRecordStart p s).pending = s.pending := by
  unfold txRecordStart; simp [apply_ite State.flash, apply_ite State.variant, apply_ite State.pending]; (repeat' split) <;> simp

@[simp] theorem nextChar_kept (p : Nat) (s : State) :
    (nextChar p s).flash.mem = s.flash.mem ∧ (nextChar p s).variant = s.variant ∧
    (nextChar p s).pending = s.pending := by
  unfold nextChar; simp only []; split <;> simp []

@[simp] theorem leadEnd_kept (p : Nat) (s : State) :
    (leadEnd p s).flash.mem = s.flash.mem ∧ (leadEnd p s).variant = s.variant ∧ (leadEnd p s).pending = s.pending := by
  unfold leadEnd; simp [apply_ite State.flash, apply_ite State.variant, apply_ite State.pending]; (repeat' split) <;> simp

@[simp] theorem txCharacterDone_kept (p : Nat) (s : State) :
    (txCharacterDone p s).flash.mem = s.flash.mem ∧ (txCharacterDone p s).variant = s.variant ∧
    (txCharacterDone p s).pending = s.pending := by
  unfold txCharacterDone; simp only []; split <;> simp []

@[simp] theorem lowerLde_kept (p : Nat) (s : State) :
    (lowerLde p s).flash.mem = s.flash.mem ∧ (lowerLde p s).variant = s.variant ∧
    (lowerLde p s).pending = s.pending := by
  unfold lowerLde; simp

@[simp] theorem breakStart_kept (p : Nat) (s : State) :
    (breakStart p s).flash.mem = s.flash.mem ∧ (breakStart p s).variant = s.variant ∧
    (breakStart p s).pending = s.pending := by
  unfold breakStart; simp [apply_ite State.flash, apply_ite State.variant, apply_ite State.pending]; (repeat' split) <;> simp

@[simp] theorem breakEnd_kept (p : Nat) (s : State) :
    (breakEnd p s).flash.mem = s.flash.mem ∧ (breakEnd p s).variant = s.variant ∧
    (breakEnd p s).pending = s.pending := by
  unfold breakEnd; simp [apply_ite State.flash, apply_ite State.variant, apply_ite State.pending]; (repeat' split) <;> simp

@[simp] theorem clearTxBreak_kept (p : Nat) (s : State) :
    (clearTxBreak p s).flash.mem = s.flash.mem ∧ (clearTxBreak p s).variant = s.variant ∧
    (clearTxBreak p s).pending = s.pending := by
  unfold clearTxBreak; (repeat' split) <;> simp

@[simp] theorem markingEnd_kept (p : Nat) (s : State) :
    (markingEnd p s).flash.mem = s.flash.mem ∧ (markingEnd p s).variant = s.variant ∧
    (markingEnd p s).pending = s.pending := by
  unfold markingEnd; simp [apply_ite State.flash, apply_ite State.variant, apply_ite State.pending]; (repeat' split) <;> simp

@[simp] theorem servePendingBreak_kept (p : Nat) (s : State) :
    (servePendingBreak p s).flash.mem = s.flash.mem ∧ (servePendingBreak p s).variant = s.variant ∧
    (servePendingBreak p s).pending = s.pending := by
  unfold servePendingBreak; simp [apply_ite State.flash, apply_ite State.variant, apply_ite State.pending]; (repeat' split) <;> simp

@[simp] theorem txBreakWritten_kept (p : Nat) (s : State) :
    (txBreakWritten p s).flash.mem = s.flash.mem ∧ (txBreakWritten p s).variant = s.variant ∧
    (txBreakWritten p s).pending = s.pending := by
  unfold txBreakWritten; simp [apply_ite State.flash, apply_ite State.variant, apply_ite State.pending]; (repeat' split) <;> simp

@[simp] theorem dropTxGaps_kept (p : Nat) (s : State) :
    (dropTxGaps p s).flash.mem = s.flash.mem ∧ (dropTxGaps p s).variant = s.variant ∧
    (dropTxGaps p s).pending = s.pending := by
  unfold dropTxGaps; simp only []; split <;> simp []

@[simp] theorem discardTxHead_kept (p : Nat) (s : State) :
    (discardTxHead p s).flash.mem = s.flash.mem ∧ (discardTxHead p s).variant = s.variant ∧
    (discardTxHead p s).pending = s.pending := by
  unfold discardTxHead; simp; (repeat' split) <;> simp

@[simp] theorem removeRequest_kept (p : Nat) (s : State) :
    (removeRequest p s).flash.mem = s.flash.mem ∧ (removeRequest p s).variant = s.variant ∧
    (removeRequest p s).pending = s.pending := by
  unfold removeRequest; simp [apply_ite State.flash, apply_ite State.variant, apply_ite State.pending]; (repeat' split) <;> simp

@[simp] theorem cutTx_kept (p : Nat) (s : State) :
    (cutTx p s).flash.mem = s.flash.mem ∧ (cutTx p s).variant = s.variant ∧ (cutTx p s).pending = s.pending := by
  unfold cutTx; simp; (repeat' split) <;> simp

end Sys2Proof.Machine
end

