-- ==== Sys2Proof/Laws/KeptJobs.lean ====
section
/-! SUPPORT. What the operations of Machine/Jobs.lean leave alone: the flash bytes, the variant, and the queue of waiting
commands. -/

namespace Sys2Proof.Machine

@[simp] theorem jobMap_kept (id : Nat) (f : Job → Job) (s : State) :
    (jobMap id f s).flash.mem = s.flash.mem ∧ (jobMap id f s).variant = s.variant ∧
    (jobMap id f s).pending = s.pending := by
  unfold jobMap; simp

@[simp] theorem spawnJob_kept (kind : JobKind) (rem cls tenant src : Nat) (poll : Option Nat) (s : State) :
    (spawnJob kind rem cls tenant src poll s).flash.mem = s.flash.mem ∧
    (spawnJob kind rem cls tenant src poll s).variant = s.variant ∧
    (spawnJob kind rem cls tenant src poll s).pending = s.pending := by
  unfold spawnJob; simp only []; split <;> simp []

@[simp] theorem endJob_kept (id : Nat) (s : State) :
    (endJob id s).flash.mem = s.flash.mem ∧ (endJob id s).variant = s.variant ∧ (endJob id s).pending = s.pending := by
  unfold endJob; simp

@[simp] theorem meetJob_kept (id : Nat) (s : State) :
    (meetJob id s).flash.mem = s.flash.mem ∧ (meetJob id s).variant = s.variant ∧
    (meetJob id s).pending = s.pending := by
  unfold meetJob; simp

@[simp] theorem countLate_kept (tenant cls : Nat) (s : State) :
    (countLate tenant cls s).flash.mem = s.flash.mem ∧ (countLate tenant cls s).variant = s.variant ∧
    (countLate tenant cls s).pending = s.pending := by
  unfold countLate; simp

@[simp] theorem countGap_kept (q cls : Nat) (s : State) :
    (countGap q cls s).flash.mem = s.flash.mem ∧ (countGap q cls s).variant = s.variant ∧
    (countGap q cls s).pending = s.pending := by
  unfold countGap; simp

@[simp] theorem lateDrop_kept (tenant cls : Nat) (s : State) :
    (lateDrop tenant cls s).flash.mem = s.flash.mem ∧ (lateDrop tenant cls s).variant = s.variant ∧
    (lateDrop tenant cls s).pending = s.pending := by
  unfold lateDrop; simp

@[simp] theorem cMap_kept (n : Nat) (f : Card → Card) (s : State) :
    (cMap n f s).flash.mem = s.flash.mem ∧ (cMap n f s).variant = s.variant ∧ (cMap n f s).pending = s.pending := by
  unfold cMap; simp

@[simp] theorem releaseSource_kept (src n : Nat) (s : State) :
    (releaseSource src n s).flash.mem = s.flash.mem ∧ (releaseSource src n s).variant = s.variant ∧
    (releaseSource src n s).pending = s.pending := by
  unfold releaseSource; simp; (repeat' split) <;> simp

@[simp] theorem releaseMap_kept (src : Nat) (f : Release → Release) (s : State) :
    (releaseMap src f s).flash.mem = s.flash.mem ∧ (releaseMap src f s).variant = s.variant ∧
    (releaseMap src f s).pending = s.pending := by
  unfold releaseMap; simp

@[simp] theorem releaseDone_kept (src : Nat) (s : State) :
    (releaseDone src s).flash.mem = s.flash.mem ∧ (releaseDone src s).variant = s.variant ∧
    (releaseDone src s).pending = s.pending := by
  unfold releaseDone; simp; (repeat' split) <;> simp

@[simp] theorem settleRecord_kept (src : Nat) (s : State) :
    (settleRecord src s).flash.mem = s.flash.mem ∧ (settleRecord src s).variant = s.variant ∧
    (settleRecord src s).pending = s.pending := by
  unfold settleRecord; simp only []; split <;> simp []

@[simp] theorem waitingRecordSettle_kept (src : Nat) (s : State) :
    (waitingRecordSettle src s).flash.mem = s.flash.mem ∧ (waitingRecordSettle src s).variant = s.variant ∧
    (waitingRecordSettle src s).pending = s.pending := by
  unfold waitingRecordSettle; simp; (repeat' split) <;> simp

@[simp] theorem jobRetired_kept (id : Nat) (s : State) :
    (jobRetired id s).flash.mem = s.flash.mem ∧ (jobRetired id s).variant = s.variant ∧
    (jobRetired id s).pending = s.pending := by
  unfold jobRetired; simp only []; split <;> simp []

@[simp] theorem slotIdle_kept (s : State) :
    (slotIdle s).flash.mem = s.flash.mem ∧ (slotIdle s).variant = s.variant ∧ (slotIdle s).pending = s.pending := by
  unfold slotIdle; simp only []; split <;> simp []

@[simp] theorem forwardMet_kept (j : Job) (s : State) :
    (forwardMet j s).flash.mem = s.flash.mem ∧ (forwardMet j s).variant = s.variant ∧
    (forwardMet j s).pending = s.pending := by
  unfold forwardMet; simp

@[simp] theorem forwardCopyDone_kept (src tenant : Nat) (s : State) :
    (forwardCopyDone src tenant s).flash.mem = s.flash.mem ∧ (forwardCopyDone src tenant s).variant = s.variant ∧
    (forwardCopyDone src tenant s).pending = s.pending := by
  unfold forwardCopyDone; simp; (repeat' split) <;> simp

@[simp] theorem spawnNext_kept (src : Nat) (r : Release) (rem : Option Nat) (todo : List Nat) (s : State) :
    (spawnNext src r rem todo s).flash.mem = s.flash.mem ∧ (spawnNext src r rem todo s).variant = s.variant ∧
    (spawnNext src r rem todo s).pending = s.pending := by
  unfold spawnNext
  split
  · exact settleRecord_kept src s
  · extract_lets; simp
  · exact ⟨rfl, rfl, rfl⟩

@[simp] theorem spawnForward_kept (src : Nat) (s : State) :
    (spawnForward src s).flash.mem = s.flash.mem ∧ (spawnForward src s).variant = s.variant ∧
    (spawnForward src s).pending = s.pending := by
  unfold spawnForward
  split
  · exact spawnNext_kept _ _ _ _ s
  · exact ⟨rfl, rfl, rfl⟩

@[simp] theorem jobLedgerRead_kept (s : State) :
    (jobLedgerRead s).flash.mem = s.flash.mem ∧ (jobLedgerRead s).variant = s.variant ∧
    (jobLedgerRead s).pending = s.pending := by
  unfold jobLedgerRead; simp

end Sys2Proof.Machine
end

