-- ==== Sys2Proof/Laws/KeptCanopy.lean ====
section
/-! SUPPORT. What the operations of Machine/Canopy.lean leave alone: the flash bytes, the variant, and the queue of waiting
commands. -/

namespace Sys2Proof.Machine

@[simp] theorem classificationStart_kept (s : State) :
    (classificationStart s).flash.mem = s.flash.mem ∧ (classificationStart s).variant = s.variant ∧
    (classificationStart s).pending = s.pending := by
  unfold classificationStart; simp [apply_ite State.flash, apply_ite State.variant, apply_ite State.pending]; (repeat' split) <;> simp

@[simp] theorem sourceGapRemove_kept (s : State) :
    (sourceGapRemove s).flash.mem = s.flash.mem ∧ (sourceGapRemove s).variant = s.variant ∧
    (sourceGapRemove s).pending = s.pending := by
  unfold sourceGapRemove; extract_lets; (repeat' split) <;> simp [*]

@[simp] theorem mirrorRecord_kept (rule : Nat) (ws : List QWord) (s : State) :
    (mirrorRecord rule ws s).flash.mem = s.flash.mem ∧ (mirrorRecord rule ws s).variant = s.variant ∧
    (mirrorRecord rule ws s).pending = s.pending := by
  unfold mirrorRecord; simp

@[simp] theorem classificationEnd_kept (s : State) :
    (classificationEnd s).flash.mem = s.flash.mem ∧ (classificationEnd s).variant = s.variant ∧
    (classificationEnd s).pending = s.pending := by
  unfold classificationEnd; simp [apply_ite State.variant, apply_ite State.pending]; (repeat' split) <;> simp

end Sys2Proof.Machine
end

