-- ==== Sys2Proof/Laws/KeptCoppice.lean ====
section
/-! SUPPORT. What the operations of Machine/Coppice.lean leave alone: the flash bytes, the variant, and the queue of waiting
commands. -/

namespace Sys2Proof.Machine

@[simp] theorem plMap_kept (i : Nat) (f : PollRun → PollRun) (s : State) :
    (plMap i f s).flash.mem = s.flash.mem ∧ (plMap i f s).variant = s.variant ∧ (plMap i f s).pending = s.pending := by
  unfold plMap; simp

@[simp] theorem copMap_kept (p : Nat) (f : CopPort → CopPort) (s : State) :
    (copMap p f s).flash.mem = s.flash.mem ∧ (copMap p f s).variant = s.variant ∧
    (copMap p f s).pending = s.pending := by
  unfold copMap; simp

@[simp] theorem endTxn_kept (p : Nat) (s : State) :
    (endTxn p s).flash.mem = s.flash.mem ∧ (endTxn p s).variant = s.variant ∧ (endTxn p s).pending = s.pending := by
  unfold endTxn; simp

@[simp] theorem endJob?_kept (j : Option Nat) (s : State) :
    (endJob? j s).flash.mem = s.flash.mem ∧ (endJob? j s).variant = s.variant ∧
    (endJob? j s).pending = s.pending := by
  unfold endJob?; (repeat' split) <;> simp

@[simp] theorem endJobOpt_kept (j : Option Nat) (s : State) :
    (endJob? j s).flash.mem = s.flash.mem ∧ (endJob? j s).variant = s.variant ∧ (endJob? j s).pending = s.pending := by
  unfold endJob?; (repeat' split) <;> simp

@[simp] theorem countOutcome_kept (i : Nat) (o : Outcome7) (s : State) :
    (countOutcome i o s).flash.mem = s.flash.mem ∧ (countOutcome i o s).variant = s.variant ∧
    (countOutcome i o s).pending = s.pending := by
  unfold countOutcome; simp; (repeat' split) <;> simp

@[simp] theorem groupMap_kept (g : Nat) (f : GroupRun → GroupRun) (s : State) :
    (groupMap g f s).flash.mem = s.flash.mem ∧ (groupMap g f s).variant = s.variant ∧
    (groupMap g f s).pending = s.pending := by
  unfold groupMap; simp

@[simp] theorem endPoll_kept (i : Nat) (o : Outcome7) (seen : Option Nat) (s : State) :
    (endPoll i o seen s).flash.mem = s.flash.mem ∧ (endPoll i o seen s).variant = s.variant ∧
    (endPoll i o seen s).pending = s.pending := by
  unfold endPoll
  extract_lets
  rename_i r a b c d
  have hb : b.flash.mem = s.flash.mem ∧ b.variant = s.variant ∧ b.pending = s.pending := by simp [b, a]
  clear_value b
  have hc : c.flash.mem = s.flash.mem ∧ c.variant = s.variant ∧ c.pending = s.pending := by simp only [c]; split <;> simp [hb]
  clear_value c
  have hd : d.flash.mem = s.flash.mem ∧ d.variant = s.variant ∧ d.pending = s.pending := by simp [d, hc]
  clear_value d
  by_cases h : o = .late <;> simp [h, hd]

@[simp] theorem releaseRequest_kept (p talker kind : Nat) (bytes : List Byte) (owner : TxOwner) (crc : Bool) (s : State) :
    (releaseRequest p talker kind bytes owner crc s).flash.mem = s.flash.mem ∧
    (releaseRequest p talker kind bytes owner crc s).variant = s.variant ∧
    (releaseRequest p talker kind bytes owner crc s).pending = s.pending := by
  unfold releaseRequest; simp

@[simp] theorem releasePoll_kept (i : Nat) (s : State) :
    (releasePoll i s).flash.mem = s.flash.mem ∧ (releasePoll i s).variant = s.variant ∧
    (releasePoll i s).pending = s.pending := by
  unfold releasePoll; simp

@[simp] theorem tryFailed_kept (i : Nat) (o : Outcome7) (s : State) :
    (tryFailed i o s).flash.mem = s.flash.mem ∧ (tryFailed i o s).variant = s.variant ∧
    (tryFailed i o s).pending = s.pending := by
  unfold tryFailed; simp only []; split <;> simp []

@[simp] theorem tryOk_kept (i : Nat) (seen : Option Nat) (payload : List Byte) (s : State) :
    (tryOk i seen payload s).flash.mem = s.flash.mem ∧ (tryOk i seen payload s).variant = s.variant ∧
    (tryOk i seen payload s).pending = s.pending := by
  unfold tryOk; simp [apply_ite State.flash, apply_ite State.variant, apply_ite State.pending]; (repeat' split) <;> simp

@[simp] theorem judgeTry_kept (i : Nat) (r : Reply) (s : State) :
    (judgeTry i r s).flash.mem = s.flash.mem ∧ (judgeTry i r s).variant = s.variant ∧
    (judgeTry i r s).pending = s.pending := by
  unfold judgeTry; simp [apply_ite State.flash, apply_ite State.variant, apply_ite State.pending]; (repeat' split) <;> simp

@[simp] theorem serviceRequest_kept (i : Nat) (payload : List Byte) (s : State) :
    (serviceRequest i payload s).flash.mem = s.flash.mem ∧ (serviceRequest i payload s).variant = s.variant ∧
    (serviceRequest i payload s).pending = s.pending := by
  unfold serviceRequest; extract_lets; (repeat' split) <;> simp [*]

@[simp] theorem retireEnding_kept (p : Nat) (s : State) :
    (retireEnding p s).flash.mem = s.flash.mem ∧ (retireEnding p s).variant = s.variant ∧
    (retireEnding p s).pending = s.pending := by
  unfold retireEnding; (repeat' split) <;> simp

@[simp] theorem judgeReply_kept (p : Nat) (s : State) :
    (judgeReply p s).flash.mem = s.flash.mem ∧ (judgeReply p s).variant = s.variant ∧
    (judgeReply p s).pending = s.pending := by
  unfold judgeReply; simp [apply_ite State.flash, apply_ite State.variant, apply_ite State.pending]; (repeat' split) <;> simp

@[simp] theorem judge_kept (p : Nat) (s : State) :
    (judge p s).flash.mem = s.flash.mem ∧ (judge p s).variant = s.variant ∧ (judge p s).pending = s.pending := by
  unfold judge; simp

@[simp] theorem ownerLost_kept (p : Nat) (o : Option TxOwner) (s : State) :
    (ownerLost p o s).flash.mem = s.flash.mem ∧ (ownerLost p o s).variant = s.variant ∧
    (ownerLost p o s).pending = s.pending := by
  unfold ownerLost; (repeat' split) <;> simp

@[simp] theorem abortReply_kept (p : Nat) (s : State) :
    (abortReply p s).2.flash.mem = s.flash.mem ∧ (abortReply p s).2.variant = s.variant ∧
    (abortReply p s).2.pending = s.pending := by
  unfold abortReply; extract_lets; (repeat' split) <;> simp [*]

@[simp] theorem abortLine_kept (p i : Nat) (s : State) :
    (abortLine p i s).2.flash.mem = s.flash.mem ∧ (abortLine p i s).2.variant = s.variant ∧
    (abortLine p i s).2.pending = s.pending := by
  unfold abortLine; simp; (repeat' split) <;> simp

@[simp] theorem abortPoll_kept (i : Nat) (s : State) :
    (abortPoll i s).flash.mem = s.flash.mem ∧ (abortPoll i s).variant = s.variant ∧
    (abortPoll i s).pending = s.pending := by
  unfold abortPoll
  extract_lets
  rename_i r p holds a b
  have ha : a.flash.mem = s.flash.mem ∧ a.variant = s.variant ∧ a.pending = s.pending := by simp [a]
  clear_value a
  have hb : b.flash.mem = s.flash.mem ∧ b.variant = s.variant ∧ b.pending = s.pending := by simp [b, ha]
  clear_value b
  have h1 := abortLine_kept p i b
  have h2 := abortReply_kept p b
  (repeat' split) <;> simp_all

@[simp] theorem releaseHold_kept (i : Nat) (s : State) :
    (releaseHold i s).flash.mem = s.flash.mem ∧ (releaseHold i s).variant = s.variant ∧
    (releaseHold i s).pending = s.pending := by
  unfold releaseHold; simp

@[simp] theorem abortGroup_kept (g : Nat) (s : State) :
    (abortGroup g s).flash.mem = s.flash.mem ∧ (abortGroup g s).variant = s.variant ∧
    (abortGroup g s).pending = s.pending := by
  unfold abortGroup; simp

@[simp] theorem pollDue_kept (g i : Nat) (s : State) :
    (pollDue g i s).flash.mem = s.flash.mem ∧ (pollDue g i s).variant = s.variant ∧
    (pollDue g i s).pending = s.pending := by
  unfold pollDue; (repeat' split) <;> simp

@[simp] theorem fixNext_kept (g : Nat) (s : State) :
    (fixNext g s).flash.mem = s.flash.mem ∧ (fixNext g s).variant = s.variant ∧ (fixNext g s).pending = s.pending := by
  unfold fixNext; (repeat' split) <;> simp

@[simp] theorem slack_kept (g : Nat) (s : State) :
    (slack g s).flash.mem = s.flash.mem ∧ (slack g s).variant = s.variant ∧ (slack g s).pending = s.pending := by
  unfold slack; (repeat' split) <;> simp

@[simp] theorem boundaryMarks_kept (g : Nat) (s : State) :
    (boundaryMarks g s).flash.mem = s.flash.mem ∧ (boundaryMarks g s).variant = s.variant ∧
    (boundaryMarks g s).pending = s.pending := by
  unfold boundaryMarks; simp

@[simp] theorem boundary_kept (g : Nat) (s : State) :
    (boundary g s).flash.mem = s.flash.mem ∧ (boundary g s).variant = s.variant ∧
    (boundary g s).pending = s.pending := by
  unfold boundary; simp

@[simp] theorem periodBoundary_kept (g : Nat) (s : State) :
    (periodBoundary g s).flash.mem = s.flash.mem ∧ (periodBoundary g s).variant = s.variant ∧
    (periodBoundary g s).pending = s.pending := by
  unfold periodBoundary; (repeat' split) <;> simp

@[simp] theorem groupStart_kept (g : Nat) (s : State) :
    (groupStart g s).flash.mem = s.flash.mem ∧ (groupStart g s).variant = s.variant ∧
    (groupStart g s).pending = s.pending := by
  unfold groupStart; simp [apply_ite State.flash, apply_ite State.variant, apply_ite State.pending]; (repeat' split) <;> simp

@[simp] theorem groupStop_kept (g : Nat) (s : State) :
    (groupStop g s).flash.mem = s.flash.mem ∧ (groupStop g s).variant = s.variant ∧
    (groupStop g s).pending = s.pending := by
  unfold groupStop; (repeat' split) <;> simp

@[simp] theorem acceptCommand_kept (tenant talker kind : Nat) (noReply : Bool) (body : List Byte) (s : State) :
    (acceptCommand tenant talker kind noReply body s).flash.mem = s.flash.mem ∧
    (acceptCommand tenant talker kind noReply body s).variant = s.variant ∧
    (acceptCommand tenant talker kind noReply body s).pending = s.pending := by
  unfold acceptCommand; simp only []; split <;> simp []

@[simp] theorem commandSent_kept (talker : Nat) (s : State) :
    (commandSent talker s).flash.mem = s.flash.mem ∧ (commandSent talker s).variant = s.variant ∧
    (commandSent talker s).pending = s.pending := by
  unfold commandSent; simp

@[simp] theorem dropCommand_kept (p : Nat) (j : Job) (s : State) :
    (dropCommand p j s).flash.mem = s.flash.mem ∧ (dropCommand p j s).variant = s.variant ∧
    (dropCommand p j s).pending = s.pending := by
  unfold dropCommand; simp; (repeat' split) <;> simp

@[simp] theorem startPoll_kept (i : Nat) (s : State) :
    (startPoll i s).flash.mem = s.flash.mem ∧ (startPoll i s).variant = s.variant ∧
    (startPoll i s).pending = s.pending := by
  unfold startPoll; (repeat' split) <;> simp

@[simp] theorem startCommand_kept (p : Nat) (c : Cmd) (s : State) :
    (startCommand p c s).flash.mem = s.flash.mem ∧ (startCommand p c s).variant = s.variant ∧
    (startCommand p c s).pending = s.pending := by
  unfold startCommand; simp

@[simp] theorem transactionStart_kept (p : Nat) (s : State) :
    (transactionStart p s).flash.mem = s.flash.mem ∧ (transactionStart p s).variant = s.variant ∧
    (transactionStart p s).pending = s.pending := by
  unfold transactionStart; (repeat' split) <;> simp

@[simp] theorem responseWindowClose_kept (p : Nat) (s : State) :
    (responseWindowClose p s).flash.mem = s.flash.mem ∧ (responseWindowClose p s).variant = s.variant ∧
    (responseWindowClose p s).pending = s.pending := by
  unfold responseWindowClose; extract_lets; (repeat' split) <;> simp [*]

@[simp] theorem endWait_kept (p : Nat) (s : State) :
    (endWait p s).flash.mem = s.flash.mem ∧ (endWait p s).variant = s.variant ∧
    (endWait p s).pending = s.pending := by
  unfold endWait; simp

@[simp] theorem measurementWaitEnd_kept (i : Nat) (s : State) :
    (measurementWaitEnd i s).flash.mem = s.flash.mem ∧ (measurementWaitEnd i s).variant = s.variant ∧
    (measurementWaitEnd i s).pending = s.pending := by
  unfold measurementWaitEnd; (repeat' split) <;> simp

@[simp] theorem openWindow_kept (p talker : Nat) (due : Option Nat) (s : State) :
    (openWindow p talker due s).flash.mem = s.flash.mem ∧ (openWindow p talker due s).variant = s.variant ∧
    (openWindow p talker due s).pending = s.pending := by
  unfold openWindow; simp

@[simp] theorem requestSent_kept (p : Nat) (t : Tx) (s : State) :
    (requestSent p t s).flash.mem = s.flash.mem ∧ (requestSent p t s).variant = s.variant ∧
    (requestSent p t s).pending = s.pending := by
  unfold requestSent; (repeat' split) <;> simp

@[simp] theorem txTailEnd_kept (p : Nat) (s : State) :
    (txTailEnd p s).flash.mem = s.flash.mem ∧ (txTailEnd p s).variant = s.variant ∧
    (txTailEnd p s).pending = s.pending := by
  unfold txTailEnd; simp only []; split <;> simp []

@[simp] theorem txDiscard_kept (p : Nat) (s : State) :
    (txDiscard p s).flash.mem = s.flash.mem ∧ (txDiscard p s).variant = s.variant ∧
    (txDiscard p s).pending = s.pending := by
  unfold txDiscard; (repeat' split) <;> simp

@[simp] theorem countSent_kept (p : Nat) (before : Tx) (s : State) :
    (countSent p before s).flash.mem = s.flash.mem ∧ (countSent p before s).variant = s.variant ∧
    (countSent p before s).pending = s.pending := by
  unfold countSent; (repeat' split) <;> simp

@[simp] theorem txDisable_kept (p : Nat) (s : State) :
    (txDisable p s).flash.mem = s.flash.mem ∧ (txDisable p s).variant = s.variant ∧
    (txDisable p s).pending = s.pending := by
  unfold txDisable; simp; (repeat' split) <;> simp

@[simp] theorem breakTimeout_kept (p : Nat) (s : State) :
    (breakTimeout p s).flash.mem = s.flash.mem ∧ (breakTimeout p s).variant = s.variant ∧
    (breakTimeout p s).pending = s.pending := by
  unfold breakTimeout; extract_lets; (repeat' split) <;> simp [*]

@[simp] theorem txCleared_kept (p : Nat) (s : State) :
    (txCleared p s).flash.mem = s.flash.mem ∧ (txCleared p s).variant = s.variant ∧
    (txCleared p s).pending = s.pending := by
  unfold txCleared; simp [apply_ite State.flash, apply_ite State.variant, apply_ite State.pending]; (repeat' split) <;> simp

@[simp] theorem schedulerStop_kept (s : State) :
    (schedulerStop s).flash.mem = s.flash.mem ∧ (schedulerStop s).variant = s.variant ∧
    (schedulerStop s).pending = s.pending := by
  unfold schedulerStop; simp

@[simp] theorem schedulerStart_kept (s : State) :
    (schedulerStart s).flash.mem = s.flash.mem ∧ (schedulerStart s).variant = s.variant ∧
    (schedulerStart s).pending = s.pending := by
  unfold schedulerStart; simp

@[simp] theorem grantGap_kept (p : Nat) (s : State) :
    (grantGap p s).flash.mem = s.flash.mem ∧ (grantGap p s).variant = s.variant ∧
    (grantGap p s).pending = s.pending := by
  unfold grantGap; simp

end Sys2Proof.Machine
end

