-- ==== Sys2Proof/Laws/KeptListener.lean ====
section
/-! SUPPORT. What the operations of Machine/Listener.lean leave alone: the flash bytes, the variant, and the queue of waiting
commands. -/

namespace Sys2Proof.Machine

@[simp] theorem readFaults_kept (q : Nat) (bad : List (Nat × BitVec 36)) (s : State) :
    (readFaults q bad s).flash.mem = s.flash.mem ∧ (readFaults q bad s).variant = s.variant ∧
    (readFaults q bad s).pending = s.pending := by
  unfold readFaults; simp

@[simp] theorem takeOut_kept (q n : Nat) (s : State) :
    (takeOut q n s).flash.mem = s.flash.mem ∧ (takeOut q n s).variant = s.variant ∧
    (takeOut q n s).pending = s.pending := by
  unfold takeOut; simp

@[simp] theorem offerRender_kept (p : Nat) (bytes : List Byte) (s : State) :
    (offerRender p bytes s).flash.mem = s.flash.mem ∧ (offerRender p bytes s).variant = s.variant ∧
    (offerRender p bytes s).pending = s.pending := by
  unfold offerRender; simp

@[simp] theorem gapRender_kept (p : Nat) (s : State) :
    (gapRender p s).flash.mem = s.flash.mem ∧ (gapRender p s).variant = s.variant ∧
    (gapRender p s).pending = s.pending := by
  unfold gapRender; (repeat' split) <;> simp

@[simp] theorem listenerLate_kept (p tenant cls : Nat) (s : State) :
    (listenerLate p tenant cls s).flash.mem = s.flash.mem ∧ (listenerLate p tenant cls s).variant = s.variant ∧
    (listenerLate p tenant cls s).pending = s.pending := by
  unfold listenerLate; simp

@[simp] theorem listenerTake_kept (p t : Nat) (ws : List QWord) (rem : Option Nat) (s : State) :
    (listenerTake p t ws rem s).flash.mem = s.flash.mem ∧ (listenerTake p t ws rem s).variant = s.variant ∧
    (listenerTake p t ws rem s).pending = s.pending := by
  unfold listenerTake; (repeat' split) <;> simp

@[simp] theorem listenerRender_kept (p : Nat) (bad : List (Nat × BitVec 36)) (s : State) :
    (listenerRender p bad s).flash.mem = s.flash.mem ∧ (listenerRender p bad s).variant = s.variant ∧
    (listenerRender p bad s).pending = s.pending := by
  unfold listenerRender; simp; (repeat' split) <;> simp

@[simp] theorem listenerRenderDone_kept (p : Nat) (s : State) :
    (listenerRenderDone p s).flash.mem = s.flash.mem ∧ (listenerRenderDone p s).variant = s.variant ∧
    (listenerRenderDone p s).pending = s.pending := by
  unfold listenerRenderDone; simp; (repeat' split) <;> simp

@[simp] theorem listenerExpired_kept (j : Job) (s : State) :
    (listenerExpired j s).flash.mem = s.flash.mem ∧ (listenerExpired j s).variant = s.variant ∧
    (listenerExpired j s).pending = s.pending := by
  unfold listenerExpired; simp; (repeat' split) <;> simp

@[simp] theorem dropTxAbandoned_kept (p n : Nat) (s : State) :
    (dropTxAbandoned p n s).flash.mem = s.flash.mem ∧ (dropTxAbandoned p n s).variant = s.variant ∧
    (dropTxAbandoned p n s).pending = s.pending := by
  induction n generalizing s with
  | zero => exact ⟨rfl, rfl, rfl⟩
  | succ n ih =>
    unfold dropTxAbandoned
    split
    · simp [ih]
    · simp [ih]
    · exact ⟨rfl, rfl, rfl⟩

end Sys2Proof.Machine
end

