-- ==== Sys2Proof/Laws/KeptUplink.lean ====
section
/-! SUPPORT. What the operations of Machine/Uplink.lean leave alone: the flash bytes, the variant, and the queue of waiting
commands. -/

namespace Sys2Proof.Machine

@[simp] theorem uMap_kept (u : Nat) (f : Uplink → Uplink) (s : State) :
    (uMap u f s).flash.mem = s.flash.mem ∧ (uMap u f s).variant = s.variant ∧ (uMap u f s).pending = s.pending := by
  unfold uMap; simp

@[simp] theorem tMap_kept (t : Nat) (f : Tenant → Tenant) (s : State) :
    (tMap t f s).flash.mem = s.flash.mem ∧ (tMap t f s).variant = s.variant ∧ (tMap t f s).pending = s.pending := by
  unfold tMap; simp

@[simp] theorem setPeer_kept (u t : Nat) (p : Peer) (s : State) :
    (setPeer u t p s).flash.mem = s.flash.mem ∧ (setPeer u t p s).variant = s.variant ∧
    (setPeer u t p s).pending = s.pending := by
  unfold setPeer; (repeat' split) <;> simp

@[simp] theorem ipPacket_kept (u proto dst : Nat) (payload : List Byte) (s : State) :
    (ipPacket u proto dst payload s).2.flash.mem = s.flash.mem ∧
    (ipPacket u proto dst payload s).2.variant = s.variant ∧
    (ipPacket u proto dst payload s).2.pending = s.pending := by
  unfold ipPacket; simp

@[simp] theorem udpFrame_kept (u pcp : Nat) (p : Peer) (payload : List Byte) (s : State) :
    (udpFrame u pcp p payload s).2.flash.mem = s.flash.mem ∧ (udpFrame u pcp p payload s).2.variant = s.variant ∧
    (udpFrame u pcp p payload s).2.pending = s.pending := by
  unfold udpFrame; simp

@[simp] theorem sendFrame_kept (u : Nat) (f : List Byte) (s : State) :
    (sendFrame u f s).flash.mem = s.flash.mem ∧ (sendFrame u f s).variant = s.variant ∧
    (sendFrame u f s).pending = s.pending := by
  unfold sendFrame; simp

@[simp] theorem noFrames_kept (s : State) :
    (noFrames s).flash.mem = s.flash.mem ∧ (noFrames s).variant = s.variant ∧ (noFrames s).pending = s.pending := by
  unfold noFrames; simp

@[simp] theorem sendReply_kept (u : Nat) (f : List Byte) (s : State) :
    (sendReply u f s).flash.mem = s.flash.mem ∧ (sendReply u f s).variant = s.variant ∧
    (sendReply u f s).pending = s.pending := by
  unfold sendReply; simp

@[simp] theorem receive_kept (u : Nat) (k : Inbound) (src : Peer) (bytes : List Byte) (s : State) :
    (receive u k src bytes s).flash.mem = s.flash.mem ∧ (receive u k src bytes s).variant = s.variant ∧
    (receive u k src bytes s).pending = s.pending := by
  unfold receive; simp

@[simp] theorem receiveIp_kept (u : Nat) (mac : List Byte) (b : List Byte) (s : State) :
    (receiveIp u mac b s).flash.mem = s.flash.mem ∧ (receiveIp u mac b s).variant = s.variant ∧
    (receiveIp u mac b s).pending = s.pending := by
  unfold receiveIp; (repeat' split) <;> simp

@[simp] theorem ethFrameReceived_kept (u : Nat) (f : List Byte) (rxer : Bool) (s : State) :
    (ethFrameReceived u f rxer s).flash.mem = s.flash.mem ∧ (ethFrameReceived u f rxer s).variant = s.variant ∧
    (ethFrameReceived u f rxer s).pending = s.pending := by
  unfold ethFrameReceived; simp [apply_ite State.flash, apply_ite State.variant, apply_ite State.pending]; (repeat' split) <;> simp

theorem answer_kept (u : Nat) (p : Arrival → Bool) (f : Arrival → State → State) (s : State)
    (hf : ∀ a s, (f a s).flash.mem = s.flash.mem ∧ (f a s).variant = s.variant ∧ (f a s).pending = s.pending) :
    (answer u p f s).flash.mem = s.flash.mem ∧ (answer u p f s).variant = s.variant ∧
    (answer u p f s).pending = s.pending := by
  unfold answer
  split
  · simp [hf]
  · exact ⟨rfl, rfl, rfl⟩

@[simp] theorem arpRequest_kept (u : Nat) (s : State) :
    (arpRequest u s).flash.mem = s.flash.mem ∧ (arpRequest u s).variant = s.variant ∧
    (arpRequest u s).pending = s.pending := by
  unfold arpRequest
  apply answer_kept
  intro a s
  split <;> simp

@[simp] theorem echoRequest_kept (u : Nat) (s : State) :
    (echoRequest u s).flash.mem = s.flash.mem ∧ (echoRequest u s).variant = s.variant ∧
    (echoRequest u s).pending = s.pending := by
  unfold echoRequest
  apply answer_kept
  intro a s
  dsimp only
  split <;> simp

@[simp] theorem uplinkAsk_kept (b : Nat) (s : State) :
    (uplinkAsk b s).flash.mem = s.flash.mem ∧ (uplinkAsk b s).variant = s.variant ∧
    (uplinkAsk b s).pending = s.pending := by
  unfold uplinkAsk; (repeat' split) <;> simp

@[simp] theorem queueDgram_kept (b : Nat) (d : Dgram) (s : State) :
    (queueDgram b d s).flash.mem = s.flash.mem ∧ (queueDgram b d s).variant = s.variant ∧
    (queueDgram b d s).pending = s.pending := by
  unfold queueDgram; simp

@[simp] theorem batchDropped_kept (d : Dgram) (s : State) :
    (batchDropped d s).flash.mem = s.flash.mem ∧ (batchDropped d s).variant = s.variant ∧
    (batchDropped d s).pending = s.pending := by
  unfold batchDropped; simp

@[simp] theorem askWith_kept (b : Nat) (d : Dgram) (rem : Option Nat) (s : State) :
    (askWith b d rem s).flash.mem = s.flash.mem ∧ (askWith b d rem s).variant = s.variant ∧
    (askWith b d rem s).pending = s.pending := by
  unfold askWith; (repeat' split) <;> simp

@[simp] theorem spawnUplink_kept (b : Nat) (s : State) :
    (spawnUplink b s).flash.mem = s.flash.mem ∧ (spawnUplink b s).variant = s.variant ∧
    (spawnUplink b s).pending = s.pending := by
  unfold spawnUplink; (repeat' split) <;> simp

@[simp] theorem takeRecord_kept (t : Nat) (ws : List QWord) (d : Nat) (rem : Option Nat) (x : Batch) (s : State) :
    (takeRecord t ws d rem x s).2.flash.mem = s.flash.mem ∧ (takeRecord t ws d rem x s).2.variant = s.variant ∧
    (takeRecord t ws d rem x s).2.pending = s.pending := by
  unfold takeRecord; (repeat' split) <;> simp

@[simp] theorem takeEntry_kept (t : Nat) (x : Batch) (s : State) :
    (takeEntry t x s).2.flash.mem = s.flash.mem ∧ (takeEntry t x s).2.variant = s.variant ∧
    (takeEntry t x s).2.pending = s.pending := by
  unfold takeEntry; extract_lets; (repeat' split) <;> simp [*]

@[simp] theorem dropAbandoned_kept (q n : Nat) (s : State) :
    (dropAbandoned q n s).flash.mem = s.flash.mem ∧ (dropAbandoned q n s).variant = s.variant ∧
    (dropAbandoned q n s).pending = s.pending := by
  induction n generalizing s with
  | zero => exact ⟨rfl, rfl, rfl⟩
  | succ n ih =>
    unfold dropAbandoned
    split
    · simp [ih]
    · exact ⟨rfl, rfl, rfl⟩

@[simp] theorem uplinkRecordTake_kept (u t : Nat) (bad : List (Nat × BitVec 36)) (s : State) :
    (uplinkRecordTake u t bad s).flash.mem = s.flash.mem ∧ (uplinkRecordTake u t bad s).variant = s.variant ∧
    (uplinkRecordTake u t bad s).pending = s.pending := by
  unfold uplinkRecordTake; simp [apply_ite State.flash, apply_ite State.variant, apply_ite State.pending]; (repeat' split) <;> simp

@[simp] theorem closeBatch_kept (b t : Nat) (dest : List (Nat × Peer)) (s : State) :
    (closeBatch b t dest s).flash.mem = s.flash.mem ∧ (closeBatch b t dest s).variant = s.variant ∧
    (closeBatch b t dest s).pending = s.pending := by
  unfold closeBatch; simp; (repeat' split) <;> simp

@[simp] theorem batchClose_kept (t : Nat) (s : State) :
    (batchClose t s).flash.mem = s.flash.mem ∧ (batchClose t s).variant = s.variant ∧
    (batchClose t s).pending = s.pending := by
  unfold batchClose; extract_lets; (repeat' split) <;> simp [*]

@[simp] theorem logRefusal_kept (u reason detail rxCtr : Nat) (a : Arrival) (s : State) :
    (logRefusal u reason detail rxCtr a s).flash.mem = s.flash.mem ∧
    (logRefusal u reason detail rxCtr a s).variant = s.variant ∧
    (logRefusal u reason detail rxCtr a s).pending = s.pending := by
  unfold logRefusal; simp

@[simp] theorem refuseRequest_kept (u reason detail : Nat) (a : Arrival) (s : State) :
    (refuseRequest u reason detail a s).flash.mem = s.flash.mem ∧
    (refuseRequest u reason detail a s).variant = s.variant ∧
    (refuseRequest u reason detail a s).pending = s.pending := by
  unfold refuseRequest; simp [apply_ite State.flash, apply_ite State.variant, apply_ite State.pending]; (repeat' split) <;> simp

@[simp] theorem reply_kept (u : Nat) (a : Arrival) (typ : Nat) (body : List Byte) (s : State) :
    (reply u a typ body s).flash.mem = s.flash.mem ∧ (reply u a typ body s).variant = s.variant ∧
    (reply u a typ body s).pending = s.pending := by
  unfold reply; simp

@[simp] theorem pullTake_kept (b t fuel n : Nat) (x : Batch) (s : State) :
    ((pullTake b t fuel n x s).2).flash.mem = s.flash.mem ∧ ((pullTake b t fuel n x s).2).variant = s.variant ∧
    ((pullTake b t fuel n x s).2).pending = s.pending := by
  induction fuel generalizing n x s with
  | zero => exact ⟨rfl, rfl, rfl⟩
  | succ m ih =>
    unfold pullTake
    extract_lets
    rename_i a
    have ha : a.flash.mem = s.flash.mem ∧ a.variant = s.variant ∧ a.pending = s.pending := by simp [a]
    clear_value a
    have ht := takeEntry_kept t x a
    (repeat' split) <;> simp_all

@[simp] theorem doSubscribe_kept (u : Nat) (a : Arrival) (s : State) :
    (doSubscribe u a s).flash.mem = s.flash.mem ∧ (doSubscribe u a s).variant = s.variant ∧
    (doSubscribe u a s).pending = s.pending := by
  unfold doSubscribe; simp

@[simp] theorem doPull_kept (u : Nat) (bad : List (Nat × BitVec 36)) (a : Arrival) (s : State) :
    (doPull u bad a s).flash.mem = s.flash.mem ∧ (doPull u bad a s).variant = s.variant ∧
    (doPull u bad a s).pending = s.pending := by
  unfold doPull; simp [apply_ite State.flash, apply_ite State.variant, apply_ite State.pending]; (repeat' split) <;> simp

@[simp] theorem doCommand_kept (u : Nat) (a : Arrival) (s : State) :
    (doCommand u a s).flash.mem = s.flash.mem ∧ (doCommand u a s).variant = s.variant ∧
    (doCommand u a s).pending = s.pending := by
  unfold doCommand; simp

@[simp] theorem doTalkerStatus_kept (u : Nat) (a : Arrival) (s : State) :
    (doTalkerStatus u a s).flash.mem = s.flash.mem ∧ (doTalkerStatus u a s).variant = s.variant ∧
    (doTalkerStatus u a s).pending = s.pending := by
  unfold doTalkerStatus; simp

@[simp] theorem doStatus_kept (u : Nat) (a : Arrival) (s : State) :
    (doStatus u a s).flash.mem = s.flash.mem ∧ (doStatus u a s).variant = s.variant ∧
    (doStatus u a s).pending = s.pending := by
  unfold doStatus; simp

theorem judgeRequest_kept (u : Nat) (act : Arrival → State → State) (a : Arrival) (s : State)
    (hf : ∀ a s, (act a s).flash.mem = s.flash.mem ∧ (act a s).variant = s.variant ∧ (act a s).pending = s.pending) :
    (judgeRequest u act a s).flash.mem = s.flash.mem ∧ (judgeRequest u act a s).variant = s.variant ∧
    (judgeRequest u act a s).pending = s.pending := by
  unfold judgeRequest
  extract_lets
  rename_i t ctr b c d
  have hd : d.flash.mem = s.flash.mem ∧ d.variant = s.variant ∧ d.pending = s.pending := by simp only [d]; split <;> simp [c, b]
  clear_value d
  split
  · simp
  · split
    · simp
    · split
      · simp only [refuseRequest_kept]; split <;> simp
      · split <;> simp [hf, hd]

theorem onRequest_kept (u typ : Nat) (act : Arrival → State → State) (s : State)
    (hf : ∀ a s, (act a s).flash.mem = s.flash.mem ∧ (act a s).variant = s.variant ∧ (act a s).pending = s.pending) :
    (onRequest u typ act s).flash.mem = s.flash.mem ∧ (onRequest u typ act s).variant = s.variant ∧
    (onRequest u typ act s).pending = s.pending := by
  unfold onRequest
  exact answer_kept _ _ _ _ (fun a s => judgeRequest_kept u act a s hf)

@[simp] theorem refusalSend_kept (u : Nat) (s : State) :
    (refusalSend u s).flash.mem = s.flash.mem ∧ (refusalSend u s).variant = s.variant ∧
    (refusalSend u s).pending = s.pending := by
  unfold refusalSend; simp; (repeat' split) <;> simp

@[simp] theorem datagramBuild_kept (u : Nat) (s : State) :
    (datagramBuild u s).flash.mem = s.flash.mem ∧ (datagramBuild u s).variant = s.variant ∧
    (datagramBuild u s).pending = s.pending := by
  unfold datagramBuild; simp [apply_ite State.flash, apply_ite State.variant, apply_ite State.pending]; (repeat' split) <;> simp

@[simp] theorem datagramHandoff_kept (u : Nat) (s : State) :
    (datagramHandoff u s).flash.mem = s.flash.mem ∧ (datagramHandoff u s).variant = s.variant ∧
    (datagramHandoff u s).pending = s.pending := by
  unfold datagramHandoff; simp; (repeat' split) <;> simp

@[simp] theorem uplinkExpired_kept (j : Job) (s : State) :
    (uplinkExpired j s).flash.mem = s.flash.mem ∧ (uplinkExpired j s).variant = s.variant ∧
    (uplinkExpired j s).pending = s.pending := by
  unfold uplinkExpired; simp [apply_ite State.flash, apply_ite State.variant, apply_ite State.pending]; (repeat' split) <;> simp

@[simp] theorem burstTimeout_kept (b : Nat) (s : State) :
    (burstTimeout b s).flash.mem = s.flash.mem ∧ (burstTimeout b s).variant = s.variant ∧
    (burstTimeout b s).pending = s.pending := by
  unfold burstTimeout; simp

@[simp] theorem uplinkLeaveRetry_kept (u : Nat) (s : State) :
    (uplinkLeaveRetry u s).flash.mem = s.flash.mem ∧ (uplinkLeaveRetry u s).variant = s.variant ∧
    (uplinkLeaveRetry u s).pending = s.pending := by
  unfold uplinkLeaveRetry; (repeat' split) <;> simp

@[simp] theorem burstGranted_kept (b : Nat) (s : State) :
    (burstGranted b s).flash.mem = s.flash.mem ∧ (burstGranted b s).variant = s.variant ∧
    (burstGranted b s).pending = s.pending := by
  unfold burstGranted; simp

@[simp] theorem uplinkLeaveRelease_kept (u : Nat) (s : State) :
    (uplinkLeaveRelease u s).flash.mem = s.flash.mem ∧ (uplinkLeaveRelease u s).variant = s.variant ∧
    (uplinkLeaveRelease u s).pending = s.pending := by
  unfold uplinkLeaveRelease; simp; (repeat' split) <;> simp

@[simp] theorem tenantStop_kept (t : Nat) (s : State) :
    (tenantStop t s).flash.mem = s.flash.mem ∧ (tenantStop t s).variant = s.variant ∧
    (tenantStop t s).pending = s.pending := by
  unfold tenantStop; simp only []; split <;> simp []

@[simp] theorem keyWrite_kept (site : Bool) (t : Nat) (key : List Byte) (s : State) :
    (keyWrite site t key s).flash.mem = s.flash.mem ∧ (keyWrite site t key s).variant = s.variant ∧
    (keyWrite site t key s).pending = s.pending := by
  unfold keyWrite; simp

@[simp] theorem mdioStart_kept (s : State) :
    (mdioStart s).flash.mem = s.flash.mem ∧ (mdioStart s).variant = s.variant ∧ (mdioStart s).pending = s.pending := by
  unfold mdioStart; simp

@[simp] theorem mdioFrameEnd_kept (rdata : Nat) (s : State) :
    (mdioFrameEnd rdata s).flash.mem = s.flash.mem ∧ (mdioFrameEnd rdata s).variant = s.variant ∧
    (mdioFrameEnd rdata s).pending = s.pending := by
  unfold mdioFrameEnd; simp [apply_ite State.flash, apply_ite State.variant, apply_ite State.pending]; (repeat' split) <;> simp

@[simp] theorem autopollRead_kept (u reg1 : Nat) (s : State) :
    (autopollRead u reg1 s).flash.mem = s.flash.mem ∧ (autopollRead u reg1 s).variant = s.variant ∧
    (autopollRead u reg1 s).pending = s.pending := by
  unfold autopollRead; simp [apply_ite State.flash, apply_ite State.variant, apply_ite State.pending]; (repeat' split) <;> simp

end Sys2Proof.Machine
end

