-- ==== Sys2Proof/Laws/KeptCard.lean ====
section
/-! SUPPORT. What the operations of Machine/Card.lean leave alone: the flash bytes, the variant, and the queue of waiting
commands. -/

namespace Sys2Proof.Machine

@[simp] theorem startSend_kept (n : Nat) (bs : List Byte) (s : State) :
    (startSend n bs s).flash.mem = s.flash.mem ∧ (startSend n bs s).variant = s.variant ∧
    (startSend n bs s).pending = s.pending := by
  unfold startSend; simp

@[simp] theorem activate_kept (n : Nat) (s : State) :
    (activate n s).flash.mem = s.flash.mem ∧ (activate n s).variant = s.variant ∧
    (activate n s).pending = s.pending := by
  unfold activate; simp

@[simp] theorem keyLoadEnd_kept (result siteId serial k : Nat) (s : State) :
    (keyLoadEnd result siteId serial k s).flash.mem = s.flash.mem ∧ (keyLoadEnd result siteId serial k s).variant = s.variant ∧
    (keyLoadEnd result siteId serial k s).pending = s.pending := by
  unfold keyLoadEnd; simp

@[simp] theorem abortScript_kept (n : Nat) (s : State) :
    (abortScript n s).flash.mem = s.flash.mem ∧ (abortScript n s).variant = s.variant ∧
    (abortScript n s).pending = s.pending := by
  unfold abortScript; simp only []; split <;> simp []

@[simp] theorem cardRecord_kept (n : Nat) (t : Stamp) (flags : Nat) (sw1 : Byte) (payload : List Byte) (s : State) :
    (cardRecord n t flags sw1 payload s).flash.mem = s.flash.mem ∧ (cardRecord n t flags sw1 payload s).variant = s.variant ∧
    (cardRecord n t flags sw1 payload s).pending = s.pending := by
  unfold cardRecord; simp

@[simp] theorem exchangeRecord_kept (n : Nat) (r : CxResult) (s : State) :
    (exchangeRecord n r s).flash.mem = s.flash.mem ∧ (exchangeRecord n r s).variant = s.variant ∧
    (exchangeRecord n r s).pending = s.pending := by
  unfold exchangeRecord; simp

@[simp] theorem exchangeResult_kept (n : Nat) (r : CxResult) (s : State) :
    (exchangeResult n r s).flash.mem = s.flash.mem ∧ (exchangeResult n r s).variant = s.variant ∧
    (exchangeResult n r s).pending = s.pending := by
  unfold exchangeResult; simp

@[simp] theorem exchangeDone_kept (n : Nat) (r : CxResult) (s : State) :
    (exchangeDone n r s).flash.mem = s.flash.mem ∧ (exchangeDone n r s).variant = s.variant ∧
    (exchangeDone n r s).pending = s.pending := by
  unfold exchangeDone; simp only []; split <;> simp []

@[simp] theorem deactivate_kept (n endState : Nat) (again : Bool) (s : State) :
    (deactivate n endState again s).flash.mem = s.flash.mem ∧ (deactivate n endState again s).variant = s.variant ∧
    (deactivate n endState again s).pending = s.pending := by
  unfold deactivate; simp [apply_ite State.flash, apply_ite State.variant, apply_ite State.pending]; (repeat' split) <;> simp

@[simp] theorem endExchange_kept (n : Nat) (r : CxResult) (endState : Nat) (again : Bool) (s : State) :
    (endExchange n r endState again s).flash.mem = s.flash.mem ∧ (endExchange n r endState again s).variant = s.variant ∧
    (endExchange n r endState again s).pending = s.pending := by
  unfold endExchange; (repeat' split) <;> simp

@[simp] theorem stopCard_kept (n : Nat) (r : CxResult) (endState : Nat) (again : Bool) (s : State) :
    (stopCard n r endState again s).flash.mem = s.flash.mem ∧ (stopCard n r endState again s).variant = s.variant ∧
    (stopCard n r endState again s).pending = s.pending := by
  unfold stopCard; (repeat' split) <;> simp

@[simp] theorem atrFailed_kept (n : Nat) (s : State) :
    (atrFailed n s).flash.mem = s.flash.mem ∧ (atrFailed n s).variant = s.variant ∧
    (atrFailed n s).pending = s.pending := by
  unfold atrFailed; simp

@[simp] theorem ppsFailed_kept (n : Nat) (s : State) :
    (ppsFailed n s).flash.mem = s.flash.mem ∧ (ppsFailed n s).variant = s.variant ∧
    (ppsFailed n s).pending = s.pending := by
  unfold ppsFailed; simp

@[simp] theorem cardReady_kept (n : Nat) (s : State) :
    (cardReady n s).flash.mem = s.flash.mem ∧ (cardReady n s).variant = s.variant ∧
    (cardReady n s).pending = s.pending := by
  unfold cardReady; simp

@[simp] theorem putAtr_kept (n : Nat) (a : List Byte) (s : State) :
    (putAtr n a s).flash.mem = s.flash.mem ∧ (putAtr n a s).variant = s.variant ∧
    (putAtr n a s).pending = s.pending := by
  unfold putAtr; simp

@[simp] theorem atrDone_kept (n : Nat) (s : State) :
    (atrDone n s).flash.mem = s.flash.mem ∧ (atrDone n s).variant = s.variant ∧
    (atrDone n s).pending = s.pending := by
  unfold atrDone
  extract_lets
  split
  · simp
  · rename_i c a i r fl rc fc f0 a3 a4 a5 sp un hn
    have h1 : f0.flash.mem = s.flash.mem ∧ f0.variant = s.variant ∧ f0.pending = s.pending := by simp only [f0]; split <;> simp [rc, r]
    clear_value f0
    have h2 : a5.flash.mem = s.flash.mem ∧ a5.variant = s.variant ∧ a5.pending = s.pending := by simp [a5, a4, a3, h1]
    clear_value a5
    (repeat' split) <;> simp [h2]

@[simp] theorem atrChar_kept (n : Nat) (b : Byte) (s : State) :
    (atrChar n b s).flash.mem = s.flash.mem ∧ (atrChar n b s).variant = s.variant ∧
    (atrChar n b s).pending = s.pending := by
  unfold atrChar; simp [apply_ite State.flash, apply_ite State.variant, apply_ite State.pending]; (repeat' split) <;> simp

@[simp] theorem ppsChar_kept (n : Nat) (b : Byte) (s : State) :
    (ppsChar n b s).flash.mem = s.flash.mem ∧ (ppsChar n b s).variant = s.variant ∧
    (ppsChar n b s).pending = s.pending := by
  unfold ppsChar; simp [apply_ite State.flash, apply_ite State.variant, apply_ite State.pending]; (repeat' split) <;> simp

@[simp] theorem procByte_kept (n : Nat) (b : Byte) (s : State) :
    (procByte n b s).flash.mem = s.flash.mem ∧ (procByte n b s).variant = s.variant ∧
    (procByte n b s).pending = s.pending := by
  unfold procByte; extract_lets; (repeat' split) <;> simp [*]

@[simp] theorem exchangeChar_kept (n : Nat) (b : Byte) (s : State) :
    (exchangeChar n b s).flash.mem = s.flash.mem ∧ (exchangeChar n b s).variant = s.variant ∧
    (exchangeChar n b s).pending = s.pending := by
  unfold exchangeChar; simp [apply_ite State.flash, apply_ite State.variant, apply_ite State.pending]; (repeat' split) <;> simp

@[simp] theorem cardCharacterReceived_kept (n : Nat) (samples : List Bool) (s : State) :
    (cardCharacterReceived n samples s).flash.mem = s.flash.mem ∧ (cardCharacterReceived n samples s).variant = s.variant ∧
    (cardCharacterReceived n samples s).pending = s.pending := by
  unfold cardCharacterReceived; simp [apply_ite State.flash, apply_ite State.variant, apply_ite State.pending]; (repeat' split) <;> simp

@[simp] theorem charSent_kept (n : Nat) (b : Byte) (s : State) :
    (charSent n b s).flash.mem = s.flash.mem ∧ (charSent n b s).variant = s.variant ∧
    (charSent n b s).pending = s.pending := by
  unfold charSent; simp

@[simp] theorem cardCharacterSent_kept (n lowFrom lowTo : Nat) (s : State) :
    (cardCharacterSent n lowFrom lowTo s).flash.mem = s.flash.mem ∧ (cardCharacterSent n lowFrom lowTo s).variant = s.variant ∧
    (cardCharacterSent n lowFrom lowTo s).pending = s.pending := by
  unfold cardCharacterSent; simp [apply_ite State.flash, apply_ite State.variant, apply_ite State.pending]; (repeat' split) <;> simp

@[simp] theorem wtExpired_kept (n : Nat) (s : State) :
    (wtExpired n s).flash.mem = s.flash.mem ∧ (wtExpired n s).variant = s.variant ∧
    (wtExpired n s).pending = s.pending := by
  unfold wtExpired; extract_lets; (repeat' split) <;> simp [*]

@[simp] theorem detPresent_kept (n : Nat) (s : State) :
    (detPresent n s).flash.mem = s.flash.mem ∧ (detPresent n s).variant = s.variant ∧
    (detPresent n s).pending = s.pending := by
  unfold detPresent; simp only []; split <;> simp []

@[simp] theorem cardDebounceStart_kept (n : Nat) (s : State) :
    (cardDebounceStart n s).flash.mem = s.flash.mem ∧ (cardDebounceStart n s).variant = s.variant ∧
    (cardDebounceStart n s).pending = s.pending := by
  unfold cardDebounceStart; simp [apply_ite State.flash, apply_ite State.variant, apply_ite State.pending]; (repeat' split) <;> simp

@[simp] theorem cardInsert_kept (n : Nat) (s : State) :
    (cardInsert n s).flash.mem = s.flash.mem ∧ (cardInsert n s).variant = s.variant ∧
    (cardInsert n s).pending = s.pending := by
  unfold cardInsert; simp; (repeat' split) <;> simp

@[simp] theorem detAbsent_kept (n : Nat) (s : State) :
    (detAbsent n s).flash.mem = s.flash.mem ∧ (detAbsent n s).variant = s.variant ∧
    (detAbsent n s).pending = s.pending := by
  unfold detAbsent; simp [apply_ite State.flash, apply_ite State.variant, apply_ite State.pending]; (repeat' split) <;> simp

@[simp] theorem cardRemove_kept (n : Nat) (s : State) :
    (cardRemove n s).flash.mem = s.flash.mem ∧ (cardRemove n s).variant = s.variant ∧
    (cardRemove n s).pending = s.pending := by
  unfold cardRemove; simp [apply_ite State.flash, apply_ite State.variant, apply_ite State.pending]; (repeat' split) <;> simp

@[simp] theorem detPolWritten_kept (n : Nat) (s : State) :
    (detPolWritten n s).flash.mem = s.flash.mem ∧ (detPolWritten n s).variant = s.variant ∧
    (detPolWritten n s).pending = s.pending := by
  unfold detPolWritten; (repeat' split) <;> simp

@[simp] theorem cardClockStart_kept (n : Nat) (s : State) :
    (cardClockStart n s).flash.mem = s.flash.mem ∧ (cardClockStart n s).variant = s.variant ∧
    (cardClockStart n s).pending = s.pending := by
  unfold cardClockStart; (repeat' split) <;> simp

@[simp] theorem cardResetRelease_kept (n : Nat) (s : State) :
    (cardResetRelease n s).flash.mem = s.flash.mem ∧ (cardResetRelease n s).variant = s.variant ∧
    (cardResetRelease n s).pending = s.pending := by
  unfold cardResetRelease; (repeat' split) <;> simp

@[simp] theorem tsHuntStart_kept (n : Nat) (s : State) :
    (tsHuntStart n s).flash.mem = s.flash.mem ∧ (tsHuntStart n s).variant = s.variant ∧
    (tsHuntStart n s).pending = s.pending := by
  unfold tsHuntStart; (repeat' split) <;> simp

@[simp] theorem atrFail_kept (n : Nat) (s : State) :
    (atrFail n s).flash.mem = s.flash.mem ∧ (atrFail n s).variant = s.variant ∧
    (atrFail n s).pending = s.pending := by
  unfold atrFail; extract_lets; (repeat' split) <;> simp [*]

@[simp] theorem cardDeactivationEnd_kept (n : Nat) (s : State) :
    (cardDeactivationEnd n s).flash.mem = s.flash.mem ∧ (cardDeactivationEnd n s).variant = s.variant ∧
    (cardDeactivationEnd n s).pending = s.pending := by
  unfold cardDeactivationEnd; simp [apply_ite State.flash, apply_ite State.variant, apply_ite State.pending]; (repeat' split) <;> simp

@[simp] theorem cardEnabled_kept (n : Nat) (s : State) :
    (cardEnabled n s).flash.mem = s.flash.mem ∧ (cardEnabled n s).variant = s.variant ∧
    (cardEnabled n s).pending = s.pending := by
  unfold cardEnabled; simp [apply_ite State.flash, apply_ite State.variant, apply_ite State.pending]; (repeat' split) <;> simp

@[simp] theorem cardDisabled_kept (n : Nat) (s : State) :
    (cardDisabled n s).flash.mem = s.flash.mem ∧ (cardDisabled n s).variant = s.variant ∧
    (cardDisabled n s).pending = s.pending := by
  unfold cardDisabled; simp only []; split <;> simp [apply_ite State.flash, apply_ite State.variant, apply_ite State.pending]

@[simp] theorem cardReset_kept (n : Nat) (s : State) :
    (cardReset n s).flash.mem = s.flash.mem ∧ (cardReset n s).variant = s.variant ∧
    (cardReset n s).pending = s.pending := by
  unfold cardReset; simp [apply_ite State.flash, apply_ite State.variant, apply_ite State.pending]; (repeat' split) <;> simp

@[simp] theorem cardDeact_kept (n : Nat) (s : State) :
    (cardDeact n s).flash.mem = s.flash.mem ∧ (cardDeact n s).variant = s.variant ∧
    (cardDeact n s).pending = s.pending := by
  unfold cardDeact; (repeat' split) <;> simp

@[simp] theorem exchangeStart_kept (n : Nat) (s : State) :
    (exchangeStart n s).flash.mem = s.flash.mem ∧ (exchangeStart n s).variant = s.variant ∧
    (exchangeStart n s).pending = s.pending := by
  unfold exchangeStart; simp

@[simp] theorem cardLate_kept (j : Job) (s : State) :
    (cardLate j s).flash.mem = s.flash.mem ∧ (cardLate j s).variant = s.variant ∧
    (cardLate j s).pending = s.pending := by
  unfold cardLate; simp

theorem enableEach_kept (l : List Nat) (s : State) :
    (l.foldl (fun a t => if tenantStartRefused t a then logEvent 0x12 1 t [4, 32 * t, 1] a else put TN.EN t 1 a) s).flash.mem = s.flash.mem ∧
    (l.foldl (fun a t => if tenantStartRefused t a then logEvent 0x12 1 t [4, 32 * t, 1] a else put TN.EN t 1 a) s).variant = s.variant ∧
    (l.foldl (fun a t => if tenantStartRefused t a then logEvent 0x12 1 t [4, 32 * t, 1] a else put TN.EN t 1 a) s).pending = s.pending := by
  induction l generalizing s with
  | nil => exact ⟨rfl, rfl, rfl⟩
  | cons t l ih =>
    rw [List.foldl_cons]
    split <;> simp [ih]

@[simp] theorem enableDeferred_kept (s : State) :
    (enableDeferred s).flash.mem = s.flash.mem ∧ (enableDeferred s).variant = s.variant ∧
    (enableDeferred s).pending = s.pending := by
  unfold enableDeferred
  simp [enableEach_kept]

@[simp] theorem scriptExchange_kept (n : Nat) (cmd : List Byte) (recorded : Bool) (wait : Nat) (r : ScriptReply) (s : State) :
    (scriptExchange n cmd recorded wait r s).flash.mem = s.flash.mem ∧ (scriptExchange n cmd recorded wait r s).variant = s.variant ∧
    (scriptExchange n cmd recorded wait r s).pending = s.pending := by
  unfold scriptExchange; (repeat' split) <;> simp

@[simp] theorem scriptEnd_kept (n : Nat) (r : ScriptReply) (s : State) :
    (scriptEnd n r s).flash.mem = s.flash.mem ∧ (scriptEnd n r s).variant = s.variant ∧
    (scriptEnd n r s).pending = s.pending := by
  unfold scriptEnd; (repeat' split) <;> simp

@[simp] theorem keyloadScript_kept (wait : Nat) (r : ScriptReply) (s : State) :
    (keyloadScript wait r s).flash.mem = s.flash.mem ∧ (keyloadScript wait r s).variant = s.variant ∧
    (keyloadScript wait r s).pending = s.pending := by
  unfold keyloadScript; simp [apply_ite State.flash, apply_ite State.variant, apply_ite State.pending]; (repeat' split) <;> simp

@[simp] theorem badgeScript_kept (wait : Nat) (r : ScriptReply) (s : State) :
    (badgeScript wait r s).flash.mem = s.flash.mem ∧ (badgeScript wait r s).variant = s.variant ∧
    (badgeScript wait r s).pending = s.pending := by
  unfold badgeScript; simp [apply_ite State.flash, apply_ite State.variant, apply_ite State.pending]; (repeat' split) <;> simp

end Sys2Proof.Machine
end

