-- ==== Sys2Proof/Laws/KeptGuards.lean ====
section
/-! SUPPORT. What the operations of Machine/Guards.lean leave alone: the flash bytes, the variant, and the queue of waiting
commands. -/

namespace Sys2Proof.Machine

@[simp] theorem gMap_kept (k : Nat) (f : Guard → Guard) (s : State) :
    (gMap k f s).flash.mem = s.flash.mem ∧ (gMap k f s).variant = s.variant ∧
    (gMap k f s).pending = s.pending := by
  unfold gMap; simp

@[simp] theorem lcMap_kept (p : Nat) (f : LineCtl → LineCtl) (s : State) :
    (lcMap p f s).flash.mem = s.flash.mem ∧ (lcMap p f s).variant = s.variant ∧
    (lcMap p f s).pending = s.pending := by
  unfold lcMap; simp

@[simp] theorem maskBit_kept (f : Fld) (k : Nat) (v : Bool) (s : State) :
    (maskBit f k v s).flash.mem = s.flash.mem ∧ (maskBit f k v s).variant = s.variant ∧
    (maskBit f k v s).pending = s.pending := by
  unfold maskBit; simp

@[simp] theorem guardAlert_kept (f : Fld) (k : Nat) (s : State) :
    (guardAlert f k s).flash.mem = s.flash.mem ∧ (guardAlert f k s).variant = s.variant ∧
    (guardAlert f k s).pending = s.pending := by
  unfold guardAlert; simp

@[simp] theorem lnCount_kept (p i : Nat) (s : State) :
    (lnCount p i s).flash.mem = s.flash.mem ∧ (lnCount p i s).variant = s.variant ∧
    (lnCount p i s).pending = s.pending := by
  unfold lnCount; simp

@[simp] theorem lnEvent_kept (p bit : Nat) (s : State) :
    (lnEvent p bit s).flash.mem = s.flash.mem ∧ (lnEvent p bit s).variant = s.variant ∧
    (lnEvent p bit s).pending = s.pending := by
  unfold lnEvent; simp

@[simp] theorem alertLine_kept (p : Nat) (s : State) :
    (alertLine p s).flash.mem = s.flash.mem ∧ (alertLine p s).variant = s.variant ∧
    (alertLine p s).pending = s.pending := by
  unfold alertLine; simp

@[simp] theorem lnFault_kept (p cause : Nat) (s : State) :
    (lnFault p cause s).flash.mem = s.flash.mem ∧ (lnFault p cause s).variant = s.variant ∧
    (lnFault p cause s).pending = s.pending := by
  unfold lnFault; simp

@[simp] theorem logGuard_kept (sub k : Nat) (s : State) :
    (logGuard sub k s).flash.mem = s.flash.mem ∧ (logGuard sub k s).variant = s.variant ∧
    (logGuard sub k s).pending = s.pending := by
  unfold logGuard; simp

@[simp] theorem linkGood_kept (k : Nat) (s : State) :
    (linkGood k s).flash.mem = s.flash.mem ∧ (linkGood k s).variant = s.variant ∧
    (linkGood k s).pending = s.pending := by
  unfold linkGood; simp only []; split <;> simp []

@[simp] theorem linkBad_kept (k : Nat) (s : State) :
    (linkBad k s).flash.mem = s.flash.mem ∧ (linkBad k s).variant = s.variant ∧
    (linkBad k s).pending = s.pending := by
  unfold linkBad; simp only []; split <;> simp []

@[simp] theorem linkTry_kept (k : Nat) (e : GlEnd) (s : State) :
    (linkTry k e s).flash.mem = s.flash.mem ∧ (linkTry k e s).variant = s.variant ∧
    (linkTry k e s).pending = s.pending := by
  unfold linkTry; (repeat' split) <;> simp

@[simp] theorem linkResult_kept (k : Nat) (o : GlOutcome) (s : State) :
    (linkResult k o s).flash.mem = s.flash.mem ∧ (linkResult k o s).variant = s.variant ∧
    (linkResult k o s).pending = s.pending := by
  unfold linkResult; simp

@[simp] theorem watchHealth_kept (s : State) :
    (watchHealth s).flash.mem = s.flash.mem ∧ (watchHealth s).variant = s.variant ∧
    (watchHealth s).pending = s.pending := by
  unfold watchHealth; simp

@[simp] theorem transact_kept (k : Nat) (req data : List Byte) (o : GlOutcome) (s : State) :
    (transact k req data o s).flash.mem = s.flash.mem ∧ (transact k req data o s).variant = s.variant ∧
    (transact k req data o s).pending = s.pending := by
  unfold transact; simp

@[simp] theorem logLineFault_kept (p sub : Nat) (s : State) :
    (logLineFault p sub s).flash.mem = s.flash.mem ∧ (logLineFault p sub s).variant = s.variant ∧
    (logLineFault p sub s).pending = s.pending := by
  unfold logLineFault; simp

@[simp] theorem logEvents_kept (p new : Nat) (s : State) :
    (logEvents p new s).flash.mem = s.flash.mem ∧ (logEvents p new s).variant = s.variant ∧
    (logEvents p new s).pending = s.pending := by
  unfold logEvents; simp [apply_ite State.flash, apply_ite State.variant, apply_ite State.pending]; (repeat' split) <;> simp

@[simp] theorem untreat_kept (p : Nat) (startLevel : Bool) (s : State) :
    (untreat p startLevel s).flash.mem = s.flash.mem ∧ (untreat p startLevel s).variant = s.variant ∧
    (untreat p startLevel s).pending = s.pending := by
  unfold untreat; (repeat' split) <;> simp

@[simp] theorem trimTakes_kept (p : Nat) (s : State) :
    (trimTakes p s).flash.mem = s.flash.mem ∧ (trimTakes p s).variant = s.variant ∧
    (trimTakes p s).pending = s.pending := by
  unfold trimTakes; simp

@[simp] theorem trimCleared_kept (p : Nat) (startLevel : Bool) (s : State) :
    (trimCleared p startLevel s).flash.mem = s.flash.mem ∧ (trimCleared p startLevel s).variant = s.variant ∧
    (trimCleared p startLevel s).pending = s.pending := by
  unfold trimCleared; (repeat' split) <;> simp

@[simp] theorem setPwr_kept (p st cause : Nat) (s : State) :
    (setPwr p st cause s).flash.mem = s.flash.mem ∧ (setPwr p st cause s).variant = s.variant ∧
    (setPwr p st cause s).pending = s.pending := by
  unfold setPwr; (repeat' split) <;> simp

@[simp] theorem askSwitchOn_kept (p : Nat) (s : State) :
    (askSwitchOn p s).flash.mem = s.flash.mem ∧ (askSwitchOn p s).variant = s.variant ∧
    (askSwitchOn p s).pending = s.pending := by
  unfold askSwitchOn; simp

@[simp] theorem powerReported_kept (p : Nat) (s : State) :
    (powerReported p s).flash.mem = s.flash.mem ∧ (powerReported p s).variant = s.variant ∧
    (powerReported p s).pending = s.pending := by
  unfold powerReported; simp [apply_ite State.flash, apply_ite State.variant, apply_ite State.pending]; (repeat' split) <;> simp

@[simp] theorem powerFetched_kept (p : Nat) (s : State) :
    (powerFetched p s).flash.mem = s.flash.mem ∧ (powerFetched p s).variant = s.variant ∧
    (powerFetched p s).pending = s.pending := by
  unfold powerFetched; simp [apply_ite State.flash, apply_ite State.variant, apply_ite State.pending]; (repeat' split) <;> simp

@[simp] theorem trimLearned_kept (p : Nat) (s : State) :
    (trimLearned p s).flash.mem = s.flash.mem ∧ (trimLearned p s).variant = s.variant ∧
    (trimLearned p s).pending = s.pending := by
  unfold trimLearned; (repeat' split) <;> simp

@[simp] theorem reportWord_kept (p w : Nat) (s : State) :
    (reportWord p w s).flash.mem = s.flash.mem ∧ (reportWord p w s).variant = s.variant ∧
    (reportWord p w s).pending = s.pending := by
  unfold reportWord; simp [apply_ite State.flash, apply_ite State.variant, apply_ite State.pending]; (repeat' split) <;> simp

@[simp] theorem reportWords_kept (p reg count : Nat) (s : State) :
    (reportWords p reg count s).flash.mem = s.flash.mem ∧ (reportWords p reg count s).variant = s.variant ∧
    (reportWords p reg count s).pending = s.pending := by
  unfold reportWords
  extract_lets
  rename_i a
  have ha : a.flash.mem = s.flash.mem ∧ a.variant = s.variant ∧ a.pending = s.pending := by
    have h := each_kept ((List.range count).map (reg + ·)) (fun w a => if 3 ≤ w ∧ w ≤ 11 then reportWord p w a else a) s
      (fun w t => by split <;> simp)
    simpa [a] using h
  clear_value a
  split <;> simp [ha]

@[simp] theorem lineReport_kept (p : Nat) (s : State) :
    (lineReport p s).flash.mem = s.flash.mem ∧ (lineReport p s).variant = s.variant ∧
    (lineReport p s).pending = s.pending := by
  unfold lineReport; simp

@[simp] theorem monReport_kept (k : Nat) (s : State) :
    (monReport k s).flash.mem = s.flash.mem ∧ (monReport k s).variant = s.variant ∧
    (monReport k s).pending = s.pending := by
  unfold monReport; simp only []; split <;> simp [apply_ite State.flash, apply_ite State.variant, apply_ite State.pending]

@[simp] theorem trimOverdue_kept (p : Nat) (startLevel : Bool) (s : State) :
    (trimOverdue p startLevel s).flash.mem = s.flash.mem ∧ (trimOverdue p startLevel s).variant = s.variant ∧
    (trimOverdue p startLevel s).pending = s.pending := by
  unfold trimOverdue; (repeat' split) <;> simp

@[simp] theorem greadLine_kept (p reg count : Nat) (startLevel : Bool) (o : GlOutcome) (s : State) :
    (greadLine p reg count startLevel o s).flash.mem = s.flash.mem ∧ (greadLine p reg count startLevel o s).variant = s.variant ∧
    (greadLine p reg count startLevel o s).pending = s.pending := by
  unfold greadLine; simp [apply_ite State.flash, apply_ite State.variant, apply_ite State.pending]; (repeat' split) <;> simp

@[simp] theorem greadGuard_kept (k reg count : Nat) (o : GlOutcome) (s : State) :
    (greadGuard k reg count o s).flash.mem = s.flash.mem ∧ (greadGuard k reg count o s).variant = s.variant ∧
    (greadGuard k reg count o s).pending = s.pending := by
  unfold greadGuard; (repeat' split) <;> simp

@[simp] theorem shadowRefresh_kept (k vfield : Nat) (temp : Int) (meas : List LineReading) (o : GlOutcome) (s : State) :
    (shadowRefresh k vfield temp meas o s).flash.mem = s.flash.mem ∧ (shadowRefresh k vfield temp meas o s).variant = s.variant ∧
    (shadowRefresh k vfield temp meas o s).pending = s.pending := by
  unfold shadowRefresh
  split
  · exact ⟨rfl, rfl, rfl⟩
  · extract_lets
    rename_i a b c
    have ha : a.flash.mem = s.flash.mem ∧ a.variant = s.variant ∧ a.pending = s.pending := by simp [a]
    clear_value a
    have hb : b.flash.mem = s.flash.mem ∧ b.variant = s.variant ∧ b.pending = s.pending := by
      have h := foldl_kept (meas.take 8).zipIdx (fun (a : State) (x : LineReading × Nat) =>
        lnMap (8 * k + x.2) (fun y => { y with iMa := x.1.iMa, v10mv := x.1.v10mv }) a) a
        (fun t x => by simp)
      simpa [b, ha] using h
    clear_value b
    have hc : c.flash.mem = s.flash.mem ∧ c.variant = s.variant ∧ c.pending = s.pending := by simp [c, hb]
    clear_value c
    split
    · simp [hc]
    · exact hc

@[simp] theorem applyFwd_kept (p : Nat) (w : Fwd) (s : State) :
    (applyFwd p w s).flash.mem = s.flash.mem ∧ (applyFwd p w s).variant = s.variant ∧
    (applyFwd p w s).pending = s.pending := by
  unfold applyFwd; (repeat' split) <;> simp

@[simp] theorem gwriteLine_kept (p : Nat) (o : GlOutcome) (s : State) :
    (gwriteLine p o s).flash.mem = s.flash.mem ∧ (gwriteLine p o s).variant = s.variant ∧
    (gwriteLine p o s).pending = s.pending := by
  unfold gwriteLine; extract_lets; (repeat' split) <;> simp [*]

@[simp] theorem gwriteGuard_kept (k : Nat) (o : GlOutcome) (s : State) :
    (gwriteGuard k o s).flash.mem = s.flash.mem ∧ (gwriteGuard k o s).variant = s.variant ∧
    (gwriteGuard k o s).pending = s.pending := by
  unfold gwriteGuard; (repeat' split) <;> simp

@[simp] theorem forwardConfig_kept (p w : Nat) (s : State) :
    (forwardConfig p w s).flash.mem = s.flash.mem ∧ (forwardConfig p w s).variant = s.variant ∧
    (forwardConfig p w s).pending = s.pending := by
  unfold forwardConfig; simp

@[simp] theorem forwardClear_kept (p mask : Nat) (s : State) :
    (forwardClear p mask s).flash.mem = s.flash.mem ∧ (forwardClear p mask s).variant = s.variant ∧
    (forwardClear p mask s).pending = s.pending := by
  unfold forwardClear; (repeat' split) <;> simp

@[simp] theorem forwardCounter_kept (p i v : Nat) (s : State) :
    (forwardCounter p i v s).flash.mem = s.flash.mem ∧ (forwardCounter p i v s).variant = s.variant ∧
    (forwardCounter p i v s).pending = s.pending := by
  unfold forwardCounter; simp

@[simp] theorem sliceAsk_kept (p : Nat) (s : State) :
    (sliceAsk p s).flash.mem = s.flash.mem ∧ (sliceAsk p s).variant = s.variant ∧
    (sliceAsk p s).pending = s.pending := by
  unfold sliceAsk; (repeat' split) <;> simp

@[simp] theorem dropSlice_kept (p counter : Nat) (s : State) :
    (dropSlice p counter s).flash.mem = s.flash.mem ∧ (dropSlice p counter s).variant = s.variant ∧
    (dropSlice p counter s).pending = s.pending := by
  unfold dropSlice; (repeat' split) <;> simp

@[simp] theorem measureStart_kept (p : Nat) (s : State) :
    (measureStart p s).flash.mem = s.flash.mem ∧ (measureStart p s).variant = s.variant ∧
    (measureStart p s).pending = s.pending := by
  unfold measureStart; simp

@[simp] theorem discardSlice_kept (p : Nat) (s : State) :
    (discardSlice p s).flash.mem = s.flash.mem ∧ (discardSlice p s).variant = s.variant ∧
    (discardSlice p s).pending = s.pending := by
  unfold discardSlice; (repeat' split) <;> simp

@[simp] theorem leakMeasurementStart_kept (p : Nat) (s : State) :
    (leakMeasurementStart p s).flash.mem = s.flash.mem ∧ (leakMeasurementStart p s).variant = s.variant ∧
    (leakMeasurementStart p s).pending = s.pending := by
  unfold leakMeasurementStart; (repeat' split) <;> simp

@[simp] theorem leakStop_kept (p : Nat) (s : State) :
    (leakStop p s).flash.mem = s.flash.mem ∧ (leakStop p s).variant = s.variant ∧
    (leakStop p s).pending = s.pending := by
  unfold leakStop; simp only []; split <;> simp []

@[simp] theorem sliceStart_kept (p : Nat) (o : GlOutcome) (s : State) :
    (sliceStart p o s).flash.mem = s.flash.mem ∧ (sliceStart p o s).variant = s.variant ∧
    (sliceStart p o s).pending = s.pending := by
  unfold sliceStart; (repeat' split) <;> simp

@[simp] theorem sliceSkip_kept (p : Nat) (s : State) :
    (sliceSkip p s).flash.mem = s.flash.mem ∧ (sliceSkip p s).variant = s.variant ∧
    (sliceSkip p s).pending = s.pending := by
  unfold sliceSkip; (repeat' split) <;> simp

@[simp] theorem leakResult_kept (p kohm : Nat) (s : State) :
    (leakResult p kohm s).flash.mem = s.flash.mem ∧ (leakResult p kohm s).variant = s.variant ∧
    (leakResult p kohm s).pending = s.pending := by
  unfold leakResult; simp [apply_ite State.flash, apply_ite State.variant, apply_ite State.pending]; (repeat' split) <;> simp

@[simp] theorem windowExpired_kept (p : Nat) (s : State) :
    (windowExpired p s).flash.mem = s.flash.mem ∧ (windowExpired p s).variant = s.variant ∧
    (windowExpired p s).pending = s.pending := by
  unfold windowExpired; simp

@[simp] theorem leakWindowExpiry_kept (p : Nat) (s : State) :
    (leakWindowExpiry p s).flash.mem = s.flash.mem ∧ (leakWindowExpiry p s).variant = s.variant ∧
    (leakWindowExpiry p s).pending = s.pending := by
  unfold leakWindowExpiry; simp; (repeat' split) <;> simp

@[simp] theorem sliceEnd_kept (p kohm : Nat) (s : State) :
    (sliceEnd p kohm s).flash.mem = s.flash.mem ∧ (sliceEnd p kohm s).variant = s.variant ∧
    (sliceEnd p kohm s).pending = s.pending := by
  unfold sliceEnd; simp; (repeat' split) <;> simp

@[simp] theorem slicePreempt_kept (p : Nat) (s : State) :
    (slicePreempt p s).flash.mem = s.flash.mem ∧ (slicePreempt p s).variant = s.variant ∧
    (slicePreempt p s).pending = s.pending := by
  unfold slicePreempt; (repeat' split) <;> simp

@[simp] theorem needTrim_kept (p cause : Nat) (s : State) :
    (needTrim p cause s).flash.mem = s.flash.mem ∧ (needTrim p cause s).variant = s.variant ∧
    (needTrim p cause s).pending = s.pending := by
  unfold needTrim; (repeat' split) <;> simp

@[simp] theorem trimDeferTimeout_kept (p : Nat) (s : State) :
    (trimDeferTimeout p s).flash.mem = s.flash.mem ∧ (trimDeferTimeout p s).variant = s.variant ∧
    (trimDeferTimeout p s).pending = s.pending := by
  unfold trimDeferTimeout; (repeat' split) <;> simp

@[simp] theorem trimStart_kept (p : Nat) (o : GlOutcome) (s : State) :
    (trimStart p o s).flash.mem = s.flash.mem ∧ (trimStart p o s).variant = s.variant ∧
    (trimStart p o s).pending = s.pending := by
  unfold trimStart; simp [apply_ite State.flash, apply_ite State.variant, apply_ite State.pending]; (repeat' split) <;> simp

@[simp] theorem trimEnd_kept (p : Nat) (codes : Option (Nat × Nat)) (s : State) :
    (trimEnd p codes s).flash.mem = s.flash.mem ∧ (trimEnd p codes s).variant = s.variant ∧
    (trimEnd p codes s).pending = s.pending := by
  unfold trimEnd; (repeat' split) <;> simp

@[simp] theorem trimWantedEvent_kept (p : Nat) (temp : Int) (s : State) :
    (trimWantedEvent p temp s).flash.mem = s.flash.mem ∧ (trimWantedEvent p temp s).variant = s.variant ∧
    (trimWantedEvent p temp s).pending = s.pending := by
  unfold trimWantedEvent; simp [apply_ite State.flash, apply_ite State.variant, apply_ite State.pending]; (repeat' split) <;> simp

@[simp] theorem trimReq_kept (p : Nat) (s : State) :
    (trimReq p s).flash.mem = s.flash.mem ∧ (trimReq p s).variant = s.variant ∧
    (trimReq p s).pending = s.pending := by
  unfold trimReq; simp

@[simp] theorem pwrEnSet_kept (p : Nat) (s : State) :
    (pwrEnSet p s).flash.mem = s.flash.mem ∧ (pwrEnSet p s).variant = s.variant ∧
    (pwrEnSet p s).pending = s.pending := by
  unfold pwrEnSet; simp only []; split <;> simp []

@[simp] theorem pwrEnClear_kept (p : Nat) (s : State) :
    (pwrEnClear p s).flash.mem = s.flash.mem ∧ (pwrEnClear p s).variant = s.variant ∧
    (pwrEnClear p s).pending = s.pending := by
  unfold pwrEnClear; simp [apply_ite State.flash, apply_ite State.variant, apply_ite State.pending]; (repeat' split) <;> simp

@[simp] theorem switchCloses_kept (p : Nat) (s : State) :
    (switchCloses p s).flash.mem = s.flash.mem ∧ (switchCloses p s).variant = s.variant ∧
    (switchCloses p s).pending = s.pending := by
  unfold switchCloses; simp only []; split <;> simp []

@[simp] theorem switchOpens_kept (p : Nat) (s : State) :
    (switchOpens p s).flash.mem = s.flash.mem ∧ (switchOpens p s).variant = s.variant ∧
    (switchOpens p s).pending = s.pending := by
  unfold switchOpens; simp

@[simp] theorem pwrSwitch_kept (p : Nat) (on : Bool) (o : GlOutcome) (s : State) :
    (pwrSwitch p on o s).flash.mem = s.flash.mem ∧ (pwrSwitch p on o s).variant = s.variant ∧
    (pwrSwitch p on o s).pending = s.pending := by
  unfold pwrSwitch; simp [apply_ite State.flash, apply_ite State.variant, apply_ite State.pending]; (repeat' split) <;> simp

@[simp] theorem inrushTimerExpiry_kept (p : Nat) (reached : Bool) (s : State) :
    (inrushTimerExpiry p reached s).flash.mem = s.flash.mem ∧ (inrushTimerExpiry p reached s).variant = s.variant ∧
    (inrushTimerExpiry p reached s).pending = s.pending := by
  unfold inrushTimerExpiry; (repeat' split) <;> simp

@[simp] theorem latchWaiting_kept (p cause : Nat) (s : State) :
    (latchWaiting p cause s).flash.mem = s.flash.mem ∧ (latchWaiting p cause s).variant = s.variant ∧
    (latchWaiting p cause s).pending = s.pending := by
  unfold latchWaiting; simp

@[simp] theorem allOpen_kept (k cause : Nat) (s : State) :
    (allOpen k cause s).flash.mem = s.flash.mem ∧ (allOpen k cause s).variant = s.variant ∧
    (allOpen k cause s).pending = s.pending := by
  unfold allOpen
  apply each_kept
  intro p t
  dsimp only
  (repeat' split) <;> simp

@[simp] theorem pwrFault_kept (p cause : Nat) (s : State) :
    (pwrFault p cause s).flash.mem = s.flash.mem ∧ (pwrFault p cause s).variant = s.variant ∧
    (pwrFault p cause s).pending = s.pending := by
  unfold pwrFault; (repeat' split) <;> simp

@[simp] theorem retryWaitExpiry_kept (p : Nat) (s : State) :
    (retryWaitExpiry p s).flash.mem = s.flash.mem ∧ (retryWaitExpiry p s).variant = s.variant ∧
    (retryWaitExpiry p s).pending = s.pending := by
  unfold retryWaitExpiry; simp; (repeat' split) <;> simp

@[simp] theorem switchTimeout_kept (p : Nat) (s : State) :
    (switchTimeout p s).flash.mem = s.flash.mem ∧ (switchTimeout p s).variant = s.variant ∧
    (switchTimeout p s).pending = s.pending := by
  unfold switchTimeout; simp

@[simp] theorem glAlertN_kept (s : State) :
    (glAlertN s).flash.mem = s.flash.mem ∧ (glAlertN s).variant = s.variant ∧
    (glAlertN s).pending = s.pending := by
  unfold glAlertN; simp

@[simp] theorem guardFetched_kept (k alertG : Nat) (temp : Int) (s : State) :
    (guardFetched k alertG temp s).flash.mem = s.flash.mem ∧ (guardFetched k alertG temp s).variant = s.variant ∧
    (guardFetched k alertG temp s).pending = s.pending := by
  unfold guardFetched; (repeat' split) <;> simp

@[simp] theorem alertFetch_kept (k : Nat) (startLines : List Nat) (o : GlOutcome) (s : State) :
    (alertFetch k startLines o s).flash.mem = s.flash.mem ∧ (alertFetch k startLines o s).variant = s.variant ∧
    (alertFetch k startLines o s).pending = s.pending := by
  unfold alertFetch
  split
  · exact ⟨rfl, rfl, rfl⟩
  · extract_lets
    rename_i lost g a b c d
    have ha : a.flash.mem = s.flash.mem ∧ a.variant = s.variant ∧ a.pending = s.pending := by simp only [a]; split <;> simp
    clear_value a
    have hb : b.flash.mem = s.flash.mem ∧ b.variant = s.variant ∧ b.pending = s.pending := by simp [b, ha]
    clear_value b
    have hc : c.flash.mem = s.flash.mem ∧ c.variant = s.variant ∧ c.pending = s.pending := by simp [c, hb]
    clear_value c
    have hd : d.flash.mem = s.flash.mem ∧ d.variant = s.variant ∧ d.pending = s.pending := by
      have h := each_kept (linesOf k) (fun p a => let a := lineReport p a
        let a := if (lcGet p a).reconciled then powerFetched p a else a
        if g.alertL.contains (p % 8) && !(lnGet p a).inTrim then trimCleared p (startLines.contains p) a else a) c
        (fun p t => by dsimp only; (repeat' split) <;> simp)
      simpa [d, hc] using h
    clear_value d
    split
    · exact hb
    · simp [hd]

@[simp] theorem cmFault_kept (p : Nat) (s : State) :
    (cmFault p s).flash.mem = s.flash.mem ∧ (cmFault p s).variant = s.variant ∧
    (cmFault p s).pending = s.pending := by
  unfold cmFault; (repeat' split) <;> simp

@[simp] theorem cmFaultEnd_kept (p : Nat) (s : State) :
    (cmFaultEnd p s).flash.mem = s.flash.mem ∧ (cmFaultEnd p s).variant = s.variant ∧
    (cmFaultEnd p s).pending = s.pending := by
  unfold cmFaultEnd; (repeat' split) <;> simp

@[simp] theorem guardDieHot_kept (k : Nat) (temp : Int) (s : State) :
    (guardDieHot k temp s).flash.mem = s.flash.mem ∧ (guardDieHot k temp s).variant = s.variant ∧
    (guardDieHot k temp s).pending = s.pending := by
  unfold guardDieHot; (repeat' split) <;> simp

@[simp] theorem guardVddio_kept (k : Nat) (low : Bool) (s : State) :
    (guardVddio k low s).flash.mem = s.flash.mem ∧ (guardVddio k low s).variant = s.variant ∧
    (guardVddio k low s).pending = s.pending := by
  unfold guardVddio; (repeat' split) <;> simp

@[simp] theorem guardBoot_kept (k ver : Nat) (b : GuardBoot) (s : State) :
    (guardBoot k ver b s).flash.mem = s.flash.mem ∧ (guardBoot k ver b s).variant = s.variant ∧
    (guardBoot k ver b s).pending = s.pending := by
  unfold guardBoot; (repeat' split) <;> simp

@[simp] theorem reconcile_kept (p : Nat) (s : State) :
    (reconcile p s).flash.mem = s.flash.mem ∧ (reconcile p s).variant = s.variant ∧
    (reconcile p s).pending = s.pending := by
  unfold reconcile; simp [apply_ite State.flash, apply_ite State.variant, apply_ite State.pending]; (repeat' split) <;> simp

@[simp] theorem reconcileGuard_kept (k : Nat) (s : State) :
    (reconcileGuard k s).flash.mem = s.flash.mem ∧ (reconcileGuard k s).variant = s.variant ∧
    (reconcileGuard k s).pending = s.pending := by
  unfold reconcileGuard; (repeat' split) <;> simp

@[simp] theorem identTaken_kept (k : Nat) (s : State) :
    (identTaken k s).flash.mem = s.flash.mem ∧ (identTaken k s).variant = s.variant ∧
    (identTaken k s).pending = s.pending := by
  unfold identTaken; simp

@[simp] theorem ident_kept (k : Nat) (o : GlOutcome) (s : State) :
    (ident k o s).flash.mem = s.flash.mem ∧ (ident k o s).variant = s.variant ∧
    (ident k o s).pending = s.pending := by
  unfold ident; simp [apply_ite State.flash, apply_ite State.variant, apply_ite State.pending]; (repeat' split) <;> simp

@[simp] theorem guardLineEnable_kept (p : Nat) (s : State) :
    (guardLineEnable p s).flash.mem = s.flash.mem ∧ (guardLineEnable p s).variant = s.variant ∧
    (guardLineEnable p s).pending = s.pending := by
  unfold guardLineEnable; simp

@[simp] theorem sliceHeard_kept (p : Nat) (s : State) :
    (sliceHeard p s).flash.mem = s.flash.mem ∧ (sliceHeard p s).variant = s.variant ∧
    (sliceHeard p s).pending = s.pending := by
  unfold sliceHeard; (repeat' split) <;> simp

end Sys2Proof.Machine
end

