-- ==== Sys2Proof/Laws/KeptFlashLog.lean ====
section
/-! SUPPORT. What the operations of Machine/FlashLog.lean leave alone: the flash bytes, the variant, and the queue of waiting
commands. -/

namespace Sys2Proof.Machine

@[simp] theorem flashWrite_mem (a : Nat) (bs : List Byte) (s : State) :
    (flashWrite a bs s).flash.mem = fProgram a bs s.flash.mem := rfl

@[simp] theorem flashBlank_mem (a : Nat) (s : State) : (flashBlank a s).flash.mem = fErase a s.flash.mem := rfl

@[simp] theorem flashWrite_kept (a : Nat) (bs : List Byte) (s : State) :
    (flashWrite a bs s).variant = s.variant ∧ (flashWrite a bs s).pending = s.pending := ⟨rfl, rfl⟩

@[simp] theorem flashBlank_kept (a : Nat) (s : State) :
    (flashBlank a s).variant = s.variant ∧ (flashBlank a s).pending = s.pending := ⟨rfl, rfl⟩

@[simp] theorem flashIssue_kept (l : List FlashCmd) (s : State) :
    (flashIssue l s).flash.mem = s.flash.mem ∧ (flashIssue l s).variant = s.variant ∧
    (flashIssue l s).pending = s.pending := by
  unfold flashIssue; simp

@[simp] theorem flashAsk_kept (s : State) :
    (flashAsk s).flash.mem = s.flash.mem ∧ (flashAsk s).variant = s.variant ∧ (flashAsk s).pending = s.pending := by
  unfold flashAsk; (repeat' split) <;> simp

@[simp] theorem flashSubmit_kept (why : FlashFor) (ops : List FlashOp) (s : State) :
    (flashSubmit why ops s).flash.mem = s.flash.mem ∧ (flashSubmit why ops s).variant = s.variant ∧
    (flashSubmit why ops s).pending = s.pending := by
  unfold flashSubmit; (repeat' split) <;> simp

@[simp] theorem flashNextOp_kept (s : State) :
    (flashNextOp s).2.flash.mem = s.flash.mem ∧ (flashNextOp s).2.variant = s.variant ∧
    (flashNextOp s).2.pending = s.pending := by
  unfold flashNextOp; (repeat' split) <;> simp

@[simp] theorem flashDrop_kept (s : State) :
    (flashDrop s).2.flash.mem = s.flash.mem ∧ (flashDrop s).2.variant = s.variant ∧
    (flashDrop s).2.pending = s.pending := by
  unfold flashDrop; simp

@[simp] theorem flashFault_kept (sub addr : Nat) (s : State) :
    (flashFault sub addr s).flash.mem = s.flash.mem ∧ (flashFault sub addr s).variant = s.variant ∧
    (flashFault sub addr s).pending = s.pending := by
  unfold flashFault; simp

@[simp] theorem takeCf_kept (slot : Nat) (s : State) :
    (takeCf slot s).flash.mem = s.flash.mem ∧ (takeCf slot s).variant = s.variant ∧
    (takeCf slot s).pending = s.pending := by
  unfold takeCf; simp

@[simp] theorem keepRing_kept (s : State) :
    (keepRing s).flash.mem = s.flash.mem ∧ (keepRing s).variant = s.variant ∧ (keepRing s).pending = s.pending := by
  unfold keepRing; simp

@[simp] theorem flashStart_kept (s : State) :
    (flashStart s).flash.mem = s.flash.mem ∧ (flashStart s).variant = s.variant ∧
    (flashStart s).pending = s.pending := by
  unfold flashStart flashStart.begun; split <;> simp

@[simp] theorem ringAttempt_kept (s : State) :
    (ringAttempt s).flash.mem = s.flash.mem ∧ (ringAttempt s).variant = s.variant ∧
    (ringAttempt s).pending = s.pending := by
  unfold ringAttempt; (repeat' split) <;> simp

@[simp] theorem ringPageWrite_kept (s : State) :
    (ringPageWrite s).flash.mem = s.flash.mem ∧ (ringPageWrite s).variant = s.variant ∧
    (ringPageWrite s).pending = s.pending := by
  unfold ringPageWrite; dsimp only; (repeat' split) <;> simp

@[simp] theorem ringPageRetry_kept (s : State) :
    (ringPageRetry s).flash.mem = s.flash.mem ∧ (ringPageRetry s).variant = s.variant ∧
    (ringPageRetry s).pending = s.pending := by
  unfold ringPageRetry; (repeat' split) <;> simp

@[simp] theorem ringDone_kept (s : State) :
    (ringDone s).flash.mem = s.flash.mem ∧ (ringDone s).variant = s.variant ∧ (ringDone s).pending = s.pending := by
  unfold ringDone; (repeat' split) <;> simp

@[simp] theorem ringFailed_kept (used : Bool) (s : State) :
    (ringFailed used s).flash.mem = s.flash.mem ∧ (ringFailed used s).variant = s.variant ∧
    (ringFailed used s).pending = s.pending := by
  unfold ringFailed; simp only []; split <;> simp []

@[simp] theorem settlePage_kept (top : Option Nat) (s : State) :
    (settlePage top s).variant = s.variant ∧ (settlePage top s).pending = s.pending := by
  unfold settlePage; split <;> simp

@[simp] theorem settleCommit_kept (b : Nat) (l : List JRec) (s : State) :
    (settleCommit b l s).variant = s.variant ∧ (settleCommit b l s).pending = s.pending := by
  unfold settleCommit; split <;> simp

@[simp] theorem ringRecovery_kept (s : State) : (ringRecovery s).variant = s.variant ∧
    (ringRecovery s).pending = s.pending := by
  unfold ringRecovery; simp only []; split <;> simp [apply_ite State.variant, apply_ite State.pending]

@[simp] theorem journalWalk_kept (s : State) : (journalWalk s).variant = s.variant ∧
    (journalWalk s).pending = s.pending := by
  unfold journalWalk; (repeat' split) <;> simp

@[simp] theorem journalCommit_kept (differs : Nat → Word → Bool) (s : State) :
    (journalCommit differs s).flash.mem = s.flash.mem ∧ (journalCommit differs s).variant = s.variant ∧
    (journalCommit differs s).pending = s.pending := by
  unfold journalCommit; extract_lets; (repeat' split) <;> simp [*]

@[simp] theorem journalDone_kept (s : State) :
    (journalDone s).flash.mem = s.flash.mem ∧ (journalDone s).variant = s.variant ∧
    (journalDone s).pending = s.pending := by
  unfold journalDone; simp

@[simp] theorem journalFailed_kept (touched : Bool) (s : State) :
    (journalFailed touched s).flash.mem = s.flash.mem ∧ (journalFailed touched s).variant = s.variant ∧
    (journalFailed touched s).pending = s.pending := by
  unfold journalFailed; simp

end Sys2Proof.Machine
end

