-- ==== Sys2Proof/Laws/KeptUpdate.lean ====
section
/-! SUPPORT. What the operations of Machine/Update.lean leave alone: the flash bytes, the variant, and the queue of waiting
commands. -/

namespace Sys2Proof.Machine

@[simp] theorem svMap_kept (f : Svc → Svc) (s : State) :
    (svMap f s).flash.mem = s.flash.mem ∧ (svMap f s).variant = s.variant ∧ (svMap f s).pending = s.pending := by
  unfold svMap; simp

@[simp] theorem svReply_kept (cmd fsn : Nat) (payload : List Byte) (status : Nat) (extra : List Byte) (s : State) :
    (svReply cmd fsn payload status extra s).flash.mem = s.flash.mem ∧
    (svReply cmd fsn payload status extra s).variant = s.variant ∧
    (svReply cmd fsn payload status extra s).pending = s.pending := by
  unfold svReply; simp

@[simp] theorem svAnswer_kept (status : Nat) (extra : List Byte) (s : State) :
    (svAnswer status extra s).flash.mem = s.flash.mem ∧ (svAnswer status extra s).variant = s.variant ∧
    (svAnswer status extra s).pending = s.pending := by
  unfold svAnswer; (repeat' split) <;> simp

theorem stump_kept (own : Nat → List Byte → Bool) (act : List Byte → State → State) (raw : List Byte) (s : State)
    (hf : ∀ b s, (act b s).flash.mem = s.flash.mem ∧ (act b s).variant = s.variant ∧ (act b s).pending = s.pending) :
    (stump own act raw s).flash.mem = s.flash.mem ∧ (stump own act raw s).variant = s.variant ∧
    (stump own act raw s).pending = s.pending := by
  unfold stump
  extract_lets
  rename_i a
  have ha : a.flash.mem = s.flash.mem ∧ a.variant = s.variant ∧ a.pending = s.pending := by simp [a]
  clear_value a
  (repeat' split) <;> simp [hf, ha]

@[simp] theorem doPing_kept (pl : List Byte) (s : State) :
    (doPing pl s).flash.mem = s.flash.mem ∧ (doPing pl s).variant = s.variant ∧ (doPing pl s).pending = s.pending := by
  unfold doPing; (repeat' split) <;> simp

@[simp] theorem doInfo_kept (pl : List Byte) (s : State) :
    (doInfo pl s).flash.mem = s.flash.mem ∧ (doInfo pl s).variant = s.variant ∧ (doInfo pl s).pending = s.pending := by
  unfold doInfo; (repeat' split) <;> simp

@[simp] theorem doSetBaud_kept (pl : List Byte) (s : State) :
    (doSetBaud pl s).flash.mem = s.flash.mem ∧ (doSetBaud pl s).variant = s.variant ∧
    (doSetBaud pl s).pending = s.pending := by
  unfold doSetBaud; dsimp only; split <;> simp

@[simp] theorem svcBaudFallback_kept (s : State) :
    (svcBaudFallback s).flash.mem = s.flash.mem ∧ (svcBaudFallback s).variant = s.variant ∧
    (svcBaudFallback s).pending = s.pending := by
  unfold svcBaudFallback; (repeat' split) <;> simp

@[simp] theorem doSvcStatus_kept (pl : List Byte) (s : State) :
    (doSvcStatus pl s).flash.mem = s.flash.mem ∧ (doSvcStatus pl s).variant = s.variant ∧
    (doSvcStatus pl s).pending = s.pending := by
  unfold doSvcStatus; (repeat' split) <;> simp

@[simp] theorem doAbort_kept (pl : List Byte) (s : State) :
    (doAbort pl s).flash.mem = s.flash.mem ∧ (doAbort pl s).variant = s.variant ∧
    (doAbort pl s).pending = s.pending := by
  unfold doAbort; (repeat' split) <;> simp

@[simp] theorem doRestart_kept (pl : List Byte) (s : State) :
    (doRestart pl s).flash.mem = s.flash.mem ∧ (doRestart pl s).variant = s.variant ∧
    (doRestart pl s).pending = s.pending := by
  unfold doRestart; (repeat' split) <;> simp

@[simp] theorem doBegin_kept (m : List Byte) (s : State) :
    (doBegin m s).flash.mem = s.flash.mem ∧ (doBegin m s).variant = s.variant ∧ (doBegin m s).pending = s.pending := by
  unfold doBegin; extract_lets; (repeat' split) <;> simp [*]

@[simp] theorem setPartNext_kept (part n : Nat) (s : State) :
    (setPartNext part n s).flash.mem = s.flash.mem ∧ (setPartNext part n s).variant = s.variant ∧
    (setPartNext part n s).pending = s.pending := by
  unfold setPartNext; simp

@[simp] theorem doBlock_kept (pl : List Byte) (s : State) :
    (doBlock pl s).flash.mem = s.flash.mem ∧ (doBlock pl s).variant = s.variant ∧
    (doBlock pl s).pending = s.pending := by
  unfold doBlock; simp [apply_ite State.flash, apply_ite State.variant, apply_ite State.pending]; (repeat' split) <;> simp

@[simp] theorem doEnd_kept (pl : List Byte) (s : State) :
    (doEnd pl s).flash.mem = s.flash.mem ∧ (doEnd pl s).variant = s.variant ∧ (doEnd pl s).pending = s.pending := by
  unfold doEnd; extract_lets; (repeat' split) <;> simp [*]

@[simp] theorem logStep_kept (step result : Nat) (s : State) :
    (logStep step result s).flash.mem = s.flash.mem ∧ (logStep step result s).variant = s.variant ∧
    (logStep step result s).pending = s.pending := by
  unfold logStep; simp

@[simp] theorem stepFailed_kept (result : Nat) (s : State) :
    (stepFailed result s).flash.mem = s.flash.mem ∧ (stepFailed result s).variant = s.variant ∧
    (stepFailed result s).pending = s.pending := by
  unfold stepFailed; simp

@[simp] theorem fwBegin_kept (k copy : Nat) (other update : Bool) (s : State) :
    (fwBegin k copy other update s).flash.mem = s.flash.mem ∧ (fwBegin k copy other update s).variant = s.variant ∧
    (fwBegin k copy other update s).pending = s.pending := by
  unfold fwBegin; simp

@[simp] theorem nextStep_kept (f : Nat) (s : State) :
    (nextStep f s).flash.mem = s.flash.mem ∧ (nextStep f s).variant = s.variant ∧
    (nextStep f s).pending = s.pending := by
  induction f generalizing s with
  | zero => exact ⟨rfl, rfl, rfl⟩
  | succ f ih =>
    unfold nextStep
    split
    · simp
    · dsimp only
      (repeat' split) <;> simp [ih]

@[simp] theorem stepPassed_kept (s : State) :
    (stepPassed s).flash.mem = s.flash.mem ∧ (stepPassed s).variant = s.variant ∧
    (stepPassed s).pending = s.pending := by
  unfold stepPassed; simp

@[simp] theorem doActivateParts_kept (pl : List Byte) (s : State) :
    (doActivateParts pl s).flash.mem = s.flash.mem ∧ (doActivateParts pl s).variant = s.variant ∧
    (doActivateParts pl s).pending = s.pending := by
  unfold doActivateParts; simp [apply_ite State.flash, apply_ite State.variant, apply_ite State.pending]; (repeat' split) <;> simp

@[simp] theorem doActivateCore_kept (pl : List Byte) (s : State) :
    (doActivateCore pl s).flash.mem = s.flash.mem ∧ (doActivateCore pl s).variant = s.variant ∧
    (doActivateCore pl s).pending = s.pending := by
  unfold doActivateCore; (repeat' split) <;> simp

@[simp] theorem untreatAny_kept (p : Nat) (s : State) :
    (untreatAny p s).flash.mem = s.flash.mem ∧ (untreatAny p s).variant = s.variant ∧
    (untreatAny p s).pending = s.pending := by
  unfold untreatAny; simp

@[simp] theorem genCheck_kept (k : Nat) (s : State) :
    (genCheck k s).flash.mem = s.flash.mem ∧ (genCheck k s).variant = s.variant ∧
    (genCheck k s).pending = s.pending := by
  unfold genCheck; dsimp only; (repeat' split) <;> simp

@[simp] theorem startRestores_kept (s : State) :
    (startRestores s).flash.mem = s.flash.mem ∧ (startRestores s).variant = s.variant ∧
    (startRestores s).pending = s.pending := by
  unfold startRestores; (repeat' split) <;> simp

@[simp] theorem gfRestoreRetry_kept (k : Nat) (s : State) :
    (gfRestoreRetry k s).flash.mem = s.flash.mem ∧ (gfRestoreRetry k s).variant = s.variant ∧
    (gfRestoreRetry k s).pending = s.pending := by
  unfold gfRestoreRetry; simp; (repeat' split) <;> simp

@[simp] theorem fwGiveUp_kept (k : Nat) (update : Bool) (s : State) :
    (fwGiveUp k update s).flash.mem = s.flash.mem ∧ (fwGiveUp k update s).variant = s.variant ∧
    (fwGiveUp k update s).pending = s.pending := by
  unfold fwGiveUp; simp [apply_ite State.flash, apply_ite State.variant, apply_ite State.pending]; (repeat' split) <;> simp

@[simp] theorem fwBlock_kept (k : Nat) (o : GlOutcome) (s : State) :
    (fwBlock k o s).flash.mem = s.flash.mem ∧ (fwBlock k o s).variant = s.variant ∧
    (fwBlock k o s).pending = s.pending := by
  unfold fwBlock; simp; (repeat' split) <;> simp

@[simp] theorem fwActivate_kept (k : Nat) (o : GlOutcome) (s : State) :
    (fwActivate k o s).flash.mem = s.flash.mem ∧ (fwActivate k o s).variant = s.variant ∧
    (fwActivate k o s).pending = s.pending := by
  unfold fwActivate; simp; (repeat' split) <;> simp

@[simp] theorem forwardAll_kept (p : Nat) (s : State) :
    (forwardAll p s).flash.mem = s.flash.mem ∧ (forwardAll p s).variant = s.variant ∧
    (forwardAll p s).pending = s.pending := by
  unfold forwardAll; simp

@[simp] theorem gfNotRunning_kept (k : Nat) (r : FwRun) (s : State) :
    (gfNotRunning k r s).flash.mem = s.flash.mem ∧ (gfNotRunning k r s).variant = s.variant ∧
    (gfNotRunning k r s).pending = s.pending := by
  unfold gfNotRunning; dsimp only; (repeat' split) <;> simp

@[simp] theorem gfActivationEnd_kept (k : Nat) (startLines : List Nat) (o : GlOutcome) (s : State) :
    (gfActivationEnd k startLines o s).flash.mem = s.flash.mem ∧
    (gfActivationEnd k startLines o s).variant = s.variant ∧
    (gfActivationEnd k startLines o s).pending = s.pending := by
  unfold gfActivationEnd
  split
  · split
    · exact ⟨rfl, rfl, rfl⟩
    · split
      · simp
      split
      · simp
      · extract_lets
        rename_i a b c d e f
        have hb : b.flash.mem = s.flash.mem ∧ b.variant = s.variant ∧ b.pending = s.pending := by simp [b, a]
        clear_value b
        have hd : d.flash.mem = s.flash.mem ∧ d.variant = s.variant ∧ d.pending = s.pending := by simp [d, c, hb]
        clear_value d
        have he : e.flash.mem = s.flash.mem ∧ e.variant = s.variant ∧ e.pending = s.pending := by simp [e, hd]
        clear_value e
        have hf : f.flash.mem = s.flash.mem ∧ f.variant = s.variant ∧ f.pending = s.pending := by
          have h := each_kept (linesOf k) (fun p a =>
            if flag GL.PWR_EN p a ∧ (lnGet p a).pwr = 0 ∧ !(isWaiting (.switchOn p) a) then askSwitchOn p a else a) e
            (fun p t => by split <;> simp)
          simpa [f, he] using h
        clear_value f
        split <;> simp [hf]
  · exact ⟨rfl, rfl, rfl⟩

@[simp] theorem gfActivationTimeout_kept (k : Nat) (s : State) :
    (gfActivationTimeout k s).flash.mem = s.flash.mem ∧ (gfActivationTimeout k s).variant = s.variant ∧
    (gfActivationTimeout k s).pending = s.pending := by
  unfold gfActivationTimeout; split <;> simp

@[simp] theorem abortInFlight_kept (p : Nat) (s : State) :
    (abortInFlight p s).flash.mem = s.flash.mem ∧ (abortInFlight p s).variant = s.variant ∧
    (abortInFlight p s).pending = s.pending := by
  unfold abortInFlight; (repeat' split) <;> simp

@[simp] theorem pmActivation_kept (s : State) :
    (pmActivation s).flash.mem = s.flash.mem ∧ (pmActivation s).variant = s.variant ∧
    (pmActivation s).pending = s.pending := by
  unfold pmActivation; (repeat' split) <;> simp

@[simp] theorem pmResume_kept (g : Nat) (startLines : List Nat) (s : State) :
    (pmResume g startLines s).flash.mem = s.flash.mem ∧ (pmResume g startLines s).variant = s.variant ∧
    (pmResume g startLines s).pending = s.pending := by
  unfold pmResume; simp

@[simp] theorem pmSelfTestEnd_kept (pass : Bool) (startLines : List Nat) (s : State) :
    (pmSelfTestEnd pass startLines s).flash.mem = s.flash.mem ∧
    (pmSelfTestEnd pass startLines s).variant = s.variant ∧
    (pmSelfTestEnd pass startLines s).pending = s.pending := by
  unfold pmSelfTestEnd; (repeat' split) <;> simp

@[simp] theorem pauseBegin_kept (revert : Bool) (s : State) :
    (pauseBegin revert s).flash.mem = s.flash.mem ∧ (pauseBegin revert s).variant = s.variant ∧
    (pauseBegin revert s).pending = s.pending := by
  unfold pauseBegin
  extract_lets
  rename_i a b x y
  have ha : a.flash.mem = s.flash.mem ∧ a.variant = s.variant ∧ a.pending = s.pending := by simp [a]
  clear_value a
  have hb : b.flash.mem = s.flash.mem ∧ b.variant = s.variant ∧ b.pending = s.pending := by
    have h := each_kept [0, 1] (fun n a => if (cGet n a).script = .none then a
      else cMap n (fun c => { c with rerun := true }) (abortScript n a)) a (fun p t => by split <;> simp)
    simpa [b, ha] using h
  clear_value b
  simp [hb]

@[simp] theorem confirmBegin_kept (s : State) :
    (confirmBegin s).flash.mem = s.flash.mem ∧ (confirmBegin s).variant = s.variant ∧
    (confirmBegin s).pending = s.pending := by
  unfold confirmBegin; simp [apply_ite State.flash, apply_ite State.variant, apply_ite State.pending]; (repeat' split) <;> simp

@[simp] theorem serviceResumed_kept (s : State) :
    (serviceResumed s).flash.mem = s.flash.mem ∧ (serviceResumed s).variant = s.variant ∧
    (serviceResumed s).pending = s.pending := by
  unfold serviceResumed
  split
  · exact ⟨rfl, rfl, rfl⟩
  · extract_lets
    rename_i old slot a x b c d e f g
    have ha : a.flash.mem = s.flash.mem ∧ a.variant = s.variant ∧ a.pending = s.pending := by simp [a]
    clear_value a
    have hb : b.flash.mem = s.flash.mem ∧ b.variant = s.variant ∧ b.pending = s.pending := by simp [b, ha]
    clear_value b
    have hc : c.flash.mem = s.flash.mem ∧ c.variant = s.variant ∧ c.pending = s.pending := by simp [c, hb]
    clear_value c
    have hd : d.flash.mem = s.flash.mem ∧ d.variant = s.variant ∧ d.pending = s.pending := by simp [d, hc]
    clear_value d
    have he : e.flash.mem = s.flash.mem ∧ e.variant = s.variant ∧ e.pending = s.pending := by simp [e, hd]
    clear_value e
    have hf : f.flash.mem = s.flash.mem ∧ f.variant = s.variant ∧ f.pending = s.pending := by
      have h := each_kept [0, 1] (fun n a => if (cGet n a).rerun then cardReset n (cMap n (fun c => { c with rerun := false }) a)
        else a) e (fun p t => by split <;> simp)
      simpa [f, he] using h
    clear_value f
    have hg : g.flash.mem = s.flash.mem ∧ g.variant = s.variant ∧ g.pending = s.pending := by simp only [g]; split <;> simp [hf]
    clear_value g
    simp [hg]

@[simp] theorem cfConfirm_kept (s : State) :
    (cfConfirm s).flash.mem = s.flash.mem ∧ (cfConfirm s).variant = s.variant ∧ (cfConfirm s).pending = s.pending := by
  unfold cfConfirm; (repeat' split) <;> simp

@[simp] theorem confirmed_kept (s : State) :
    (confirmed s).flash.mem = s.flash.mem ∧ (confirmed s).variant = s.variant ∧ (confirmed s).pending = s.pending := by
  unfold confirmed; simp

@[simp] theorem revertAt_kept (due : Nat) (s : State) :
    (revertAt due s).flash.mem = s.flash.mem ∧ (revertAt due s).variant = s.variant ∧
    (revertAt due s).pending = s.pending := by
  unfold revertAt; simp

@[simp] theorem cfRevert_kept (s : State) :
    (cfRevert s).flash.mem = s.flash.mem ∧ (cfRevert s).variant = s.variant ∧ (cfRevert s).pending = s.pending := by
  unfold cfRevert
  split
  · exact ⟨rfl, rfl, rfl⟩
  · split
    · exact ⟨rfl, rfl, rfl⟩
    · exact revertAt_kept _ s

@[simp] theorem revertSwitch_kept (s : State) :
    (revertSwitch s).flash.mem = s.flash.mem ∧ (revertSwitch s).variant = s.variant ∧
    (revertSwitch s).pending = s.pending := by
  unfold revertSwitch; (repeat' split) <;> simp

@[simp] theorem rejectionMarkRetry_kept (s : State) :
    (rejectionMarkRetry s).flash.mem = s.flash.mem ∧ (rejectionMarkRetry s).variant = s.variant ∧
    (rejectionMarkRetry s).pending = s.pending := by
  unfold rejectionMarkRetry; (repeat' split) <;> simp

@[simp] theorem markAgain_kept (slot : Nat) (s : State) :
    (markAgain slot s).flash.mem = s.flash.mem ∧ (markAgain slot s).variant = s.variant ∧
    (markAgain slot s).pending = s.pending := by
  unfold markAgain; simp

@[simp] theorem flashDone_kept (why : FlashFor) (s : State) :
    (flashDone why s).flash.mem = s.flash.mem ∧ (flashDone why s).variant = s.variant ∧
    (flashDone why s).pending = s.pending := by
  unfold flashDone; (repeat' split) <;> simp

@[simp] theorem flashFailed_kept (why : FlashFor) (status slot : Nat) (used : Bool) (s : State) :
    (flashFailed why status slot used s).flash.mem = s.flash.mem ∧
    (flashFailed why status slot used s).variant = s.variant ∧
    (flashFailed why status slot used s).pending = s.pending := by
  unfold flashFailed; (repeat' split) <;> simp

@[simp] theorem flashProgramDone_kept (bad : Option (List Byte)) (s : State) :
    (flashProgramDone bad s).variant = s.variant ∧ (flashProgramDone bad s).pending = s.pending := by
  unfold flashProgramDone
  split
  · split
    · exact ⟨rfl, rfl⟩
    · extract_lets
      rename_i was got m x a good part b c
      clear_value part good
      have ha : a.variant = s.variant ∧ a.pending = s.pending := by simp [a]
      clear_value a
      have hb : b.variant = s.variant ∧ b.pending = s.pending := by simp [b, ha]
      clear_value b
      have hc : c.variant = s.variant ∧ c.pending = s.pending := by simp only [c]; split <;> simp [hb]
      clear_value c
      have h1 := flashNextOp_kept c
      have h2 := flashDrop_kept b
      (repeat' split) <;> simp_all
  · exact ⟨rfl, rfl⟩

@[simp] theorem notBlank_kept (a : Nat) (bad : Option (Nat × Byte)) (s : State) :
    (notBlank a bad s).variant = s.variant ∧ (notBlank a bad s).pending = s.pending := by
  unfold notBlank; split <;> simp

@[simp] theorem flashEraseDone_kept (bad : Option (Nat × Byte)) (s : State) :
    (flashEraseDone bad s).variant = s.variant ∧ (flashEraseDone bad s).pending = s.pending := by
  unfold flashEraseDone
  split
  · split
    · exact ⟨rfl, rfl⟩
    · extract_lets
      rename_i a good b c d
      have ha : a.variant = s.variant ∧ a.pending = s.pending := by simp [a]
      clear_value a
      have hb : b.variant = s.variant ∧ b.pending = s.pending := by simp [b, ha]
      clear_value b
      have hc : c.variant = s.variant ∧ c.pending = s.pending := by simp only [c]; split <;> simp [hb]
      clear_value c
      have hd : d.variant = s.variant ∧ d.pending = s.pending := by simp only [d]; split <;> simp [hc]
      clear_value d
      have h1 := flashNextOp_kept d
      have h2 := flashDrop_kept d
      (repeat' split) <;> simp_all
  · exact ⟨rfl, rfl⟩

@[simp] theorem flashTimeout_kept (s : State) :
    (flashTimeout s).flash.mem = s.flash.mem ∧ (flashTimeout s).variant = s.variant ∧
    (flashTimeout s).pending = s.pending := by
  unfold flashTimeout
  split
  · exact ⟨rfl, rfl, rfl⟩
  · extract_lets
    rename_i used
    clear_value used
    have h2 := flashDrop_kept s
    split <;> simp_all

@[simp] theorem gfTimeout_kept (k : Nat) (s : State) :
    (gfTimeout k s).flash.mem = s.flash.mem ∧ (gfTimeout k s).variant = s.variant ∧
    (gfTimeout k s).pending = s.pending := by
  unfold gfTimeout; (repeat' split) <;> simp

end Sys2Proof.Machine
end

