-- ==== Sys2Proof/Laws/KeptRegRead.lean ====
section
/-! SUPPORT. What the operations of Machine/RegRead.lean leave alone: the flash bytes, the variant, and the queue of waiting
commands. -/

namespace Sys2Proof.Machine

@[simp] theorem refreshWord_direct_kept (a : Nat) (s : State) :
    (refreshWord.direct a s).flash.mem = s.flash.mem ∧ (refreshWord.direct a s).variant = s.variant ∧
    (refreshWord.direct a s).pending = s.pending := by
  unfold refreshWord.direct
  extract_lets
  rename_i g p
  clear_value g p
  (repeat' split) <;> simp

@[simp] theorem refreshWord_kept (space a : Nat) (s : State) :
    (refreshWord space a s).flash.mem = s.flash.mem ∧ (refreshWord space a s).variant = s.variant ∧
    (refreshWord space a s).pending = s.pending := by
  unfold refreshWord
  (repeat' split) <;> simp

@[simp] theorem captureWord_kept (space a : Nat) (s : State) :
    (captureWord space a s).flash.mem = s.flash.mem ∧ (captureWord space a s).variant = s.variant ∧
    (captureWord space a s).pending = s.pending := by
  unfold captureWord; (repeat' split) <;> simp

end Sys2Proof.Machine
end

