-- ==== Sys2Proof/Laws/KeptRegWrite.lean ====
section
/-! SUPPORT. What the operations of Machine/RegWrite.lean leave alone: the flash bytes, the variant, and the queue of waiting
commands. -/

namespace Sys2Proof.Machine

@[simp] theorem writeField_kept (two : Bool) (v : Nat) (s : State) (x : Fld × Nat) :
    (writeField two v s x).flash.mem = s.flash.mem ∧ (writeField two v s x).variant = s.variant ∧
    (writeField two v s x).pending = s.pending := by
  unfold writeField; simp; (repeat' split) <;> simp

@[simp] theorem writeFields_kept (space a v : Nat) (s : State) :
    (writeFields space a v s).flash.mem = s.flash.mem ∧ (writeFields space a v s).variant = s.variant ∧
    (writeFields space a v s).pending = s.pending := by
  unfold writeFields; simp

theorem rtCtrlActs_kept (v : Nat) (b t : State) :
    ∀ f ∈ rtCtrlActs v b t, ∀ u, (f u).flash.mem = u.flash.mem ∧ (f u).variant = u.variant ∧
    (f u).pending = u.pending := by
  unfold rtCtrlActs
  extract_lets
  (repeat' split) <;> simp

@[simp] theorem houseAccept_kept (s : State) :
    (houseAccept s).flash.mem = s.flash.mem ∧ (houseAccept s).variant = s.variant ∧
    (houseAccept s).pending = s.pending := by
  unfold houseAccept; simp

@[simp] theorem cardSwitch_kept (n : Nat) (f : Fld) (b t s : State) :
    (cardSwitch n f b t s).flash.mem = s.flash.mem ∧ (cardSwitch n f b t s).variant = s.variant ∧
    (cardSwitch n f b t s).pending = s.pending := by
  unfold cardSwitch; (repeat' split) <;> simp

theorem directActs_kept (a v : Nat) (b t : State) :
    ((directActs a v b t).1.flash.mem = t.flash.mem ∧ (directActs a v b t).1.variant = t.variant ∧
    (directActs a v b t).1.pending = t.pending) ∧
    ∀ f ∈ (directActs a v b t).2, ∀ u, (f u).flash.mem = u.flash.mem ∧ (f u).variant = u.variant ∧
    (f u).pending = u.pending := by
  unfold directActs
  split
  · exact ⟨⟨rfl, rfl, rfl⟩, by simp⟩
  · refine ⟨?_, by simp⟩; dsimp only; (repeat' split) <;> simp
  · exact ⟨⟨rfl, rfl, rfl⟩, by simp⟩
  · exact ⟨⟨rfl, rfl, rfl⟩, rtCtrlActs_kept v b t⟩
  · exact ⟨reseg_kept t, by simp⟩
  · refine ⟨?_, by simp⟩; dsimp only; (repeat' split) <;> simp
  · exact ⟨budgetWritten_kept .die t, by simp⟩
  · exact ⟨budgetWritten_kept .field t, by simp⟩
  · refine ⟨?_, by simp⟩; dsimp only; (repeat' split) <;> simp
  · dsimp only; split <;> simp
  · refine ⟨?_, by simp⟩; dsimp only; (repeat' split) <;> simp
  · refine ⟨?_, by simp⟩; dsimp only; (repeat' split) <;> simp
  · split
    · exact ⟨put_kept _ _ _ t, by simp⟩
    · split
      · refine ⟨?_, by simp⟩; dsimp only; split <;> simp
      · exact ⟨⟨rfl, rfl, rfl⟩, by simp⟩

theorem portActs_kept (p o v : Nat) (b t : State) :
    ((portActs p o v b t).1.flash.mem = t.flash.mem ∧ (portActs p o v b t).1.variant = t.variant ∧
    (portActs p o v b t).1.pending = t.pending) ∧
    ∀ f ∈ (portActs p o v b t).2, ∀ u, (f u).flash.mem = u.flash.mem ∧ (f u).variant = u.variant ∧
    (f u).pending = u.pending := by
  unfold portActs; dsimp only; (repeat' split) <;> simp

@[simp] theorem lineCounters_kept (p o v : Nat) (s : State) :
    (lineCounters p o v s).flash.mem = s.flash.mem ∧ (lineCounters p o v s).variant = s.variant ∧
    (lineCounters p o v s).pending = s.pending := by
  unfold lineCounters
  extract_lets
  apply each_kept
  intro i t
  dsimp only
  split <;> simp

theorem lineActs_kept (p o v : Nat) (b t : State) : (lineActs p o v b t).flash.mem = t.flash.mem ∧
    (lineActs p o v b t).variant = t.variant ∧ (lineActs p o v b t).pending = t.pending := by
  unfold lineActs; simp [apply_ite State.flash, apply_ite State.variant, apply_ite State.pending]; (repeat' split) <;> simp

theorem cardCommand_kept (f : Fld) (n : Nat) (act : Nat → State → State) (s : State)
    (h : ∀ n t, (act n t).flash.mem = t.flash.mem ∧ (act n t).variant = t.variant ∧ (act n t).pending = t.pending) :
    (cardCommand f n act s).flash.mem = s.flash.mem ∧ (cardCommand f n act s).variant = s.variant ∧
    (cardCommand f n act s).pending = s.pending := by
  unfold cardCommand
  dsimp only
  split <;> simp [h]

theorem cardActs_kept (n o v : Nat) (b t : State) :
    ∀ f ∈ cardActs n o v b t, ∀ u, (f u).flash.mem = u.flash.mem ∧ (f u).variant = u.variant ∧
    (f u).pending = u.pending := by
  unfold cardActs
  split
  · (repeat' split) <;> simp [cardCommand_kept]
  · (repeat' split) <;> simp
  · simp

theorem wordActs_kept (space a v : Nat) (b t : State) :
    ((wordActs space a v b t).1.flash.mem = t.flash.mem ∧ (wordActs space a v b t).1.variant = t.variant ∧
    (wordActs space a v b t).1.pending = t.pending) ∧
    ∀ f ∈ (wordActs space a v b t).2, ∀ u, (f u).flash.mem = u.flash.mem ∧ (f u).variant = u.variant ∧
    (f u).pending = u.pending := by
  unfold wordActs
  split
  · exact directActs_kept _ _ _ _
  · exact portActs_kept _ _ _ _ _
  · simp
  · refine ⟨?_, by simp⟩; dsimp only; split <;> simp
  · refine ⟨?_, by simp⟩; dsimp only; (repeat' split) <;> simp
  · refine ⟨⟨rfl, rfl, rfl⟩, ?_⟩; dsimp only; split <;> simp
  · exact ⟨lineActs_kept _ _ _ _ _, by simp⟩
  · exact ⟨⟨rfl, rfl, rfl⟩, cardActs_kept _ _ _ _ _⟩
  · exact ⟨⟨rfl, rfl, rfl⟩, by simp⟩

theorem writeReg_kept (space a v : Nat) (s t : State) (l : List (State → State))
    (h : writeReg space a v s = .ok t l) :
    (t.flash.mem = s.flash.mem ∧ t.variant = s.variant ∧ t.pending = s.pending) ∧
    ∀ f ∈ l, ∀ u, (f u).flash.mem = u.flash.mem ∧ (f u).variant = u.variant ∧ (f u).pending = u.pending := by
  unfold writeReg at h
  split at h
  rename_i space a _
  dsimp only at h
  split at h
  · cases h
  · have h1 := wordActs_kept space a v s (writeFields space a v s)
    have h2 := writeFields_kept space a v s
    cases h
    exact ⟨⟨h1.1.1.trans h2.1, h1.1.2.1.trans h2.2.1, h1.1.2.2.trans h2.2.2⟩, h1.2⟩

theorem runActs_kept (l : List (State → State)) (s : State)
    (h : ∀ f ∈ l, ∀ u, (f u).flash.mem = u.flash.mem ∧ (f u).variant = u.variant ∧
    (f u).pending = u.pending) : (l.foldl (fun a f => f a) s).flash.mem = s.flash.mem ∧
    (l.foldl (fun a f => f a) s).variant = s.variant ∧ (l.foldl (fun a f => f a) s).pending = s.pending := by
  induction l generalizing s with
  | nil => exact ⟨rfl, rfl, rfl⟩
  | cons f l ih =>
    have h1 := h f (by simp) s
    have h2 := ih (f s) (fun g hg => h g (by simp [hg]))
    exact ⟨h2.1.trans h1.1, h2.2.1.trans h1.2.1, h2.2.2.trans h1.2.2⟩

theorem writeWords_kept (ws : List FrameWord) (s : State) (later : List (State → State)) (t : State)
    (hl : ∀ f ∈ later, ∀ u, (f u).flash.mem = u.flash.mem ∧ (f u).variant = u.variant ∧ (f u).pending = u.pending)
    (h : writeWords ws s later = .inr t) : t.flash.mem = s.flash.mem ∧ t.variant = s.variant ∧
    t.pending = s.pending := by
  induction ws generalizing s later with
  | nil =>
    simp only [writeWords] at h
    cases h
    exact runActs_kept later s hl
  | cons w ws ih =>
    obtain ⟨space, a, v, b⟩ := w
    unfold writeWords at h
    split at h
    · cases h
    · split at h
      · cases h
      · rename_i t1 l he
        have h1 := writeReg_kept space a v s t1 l he
        have h2 := ih t1 (later ++ l) (fun f hf => by
          rcases List.mem_append.mp hf with hf | hf
          · exact hl f hf
          · exact h1.2 f hf) h
        exact ⟨h2.1.trans h1.1.1, h2.2.1.trans h1.1.2.1, h2.2.2.trans h1.1.2.2⟩

@[simp] theorem windowAdvance_kept (arg n : Nat) (s : State) :
    (windowAdvance arg n s).flash.mem = s.flash.mem ∧ (windowAdvance arg n s).variant = s.variant ∧
    (windowAdvance arg n s).pending = s.pending := by
  unfold windowAdvance; (repeat' split) <;> simp

@[simp] theorem owe_kept (ws : List FrameWord) (s : State) :
    (owe ws s).flash.mem = s.flash.mem ∧ (owe ws s).variant = s.variant ∧ (owe ws s).pending = s.pending := by
  unfold owe; simp [apply_ite State.flash, apply_ite State.variant, apply_ite State.pending]

@[simp] theorem rejectFrame_kept (r : Reject) (space a : Nat) (s : State) :
    (rejectFrame r space a s).2.flash.mem = s.flash.mem ∧ (rejectFrame r space a s).2.variant = s.variant ∧
    (rejectFrame r space a s).2.pending = s.pending := by
  unfold rejectFrame; (repeat' split) <;> simp

@[simp] theorem writeBurst_kept (ws : List FrameWord) (s : State) : (writeBurst ws s).2.flash.mem = s.flash.mem ∧
    (writeBurst ws s).2.variant = s.variant ∧ (writeBurst ws s).2.pending = s.pending := by
  unfold writeBurst
  split
  · exact ⟨rfl, rfl, rfl⟩
  · split
    · simp
    · rename_i t he
      have h := writeWords_kept ws s [] t (by simp) he
      simp [h]

@[simp] theorem keyFrame_kept (t : Nat) (key : List Byte) (s : State) :
    (keyFrame t key s).2.flash.mem = s.flash.mem ∧ (keyFrame t key s).2.variant = s.variant ∧
    (keyFrame t key s).2.pending = s.pending := by
  unfold keyFrame; (repeat' split) <;> simp

@[simp] theorem writeFrame_kept (arg : Nat) (data : List Word) (s : State) : (writeFrame arg data s).2.flash.mem = s.flash.mem ∧
    (writeFrame arg data s).2.variant = s.variant ∧ (writeFrame arg data s).2.pending = s.pending := by
  unfold writeFrame
  split
  · exact ⟨rfl, rfl, rfl⟩
  · rename_i l _
    dsimp only
    cases hk : keyBurst arg l with
    | some t =>
      dsimp only
      split <;> simp
    | none =>
      dsimp only
      split <;> simp

@[simp] theorem writeOne_kept (space a : Nat) (v : Word) (s : State) :
    (writeOne space a v s).2.flash.mem = s.flash.mem ∧ (writeOne space a v s).2.variant = s.variant ∧
    (writeOne space a v s).2.pending = s.pending := by
  unfold writeOne; (repeat' split) <;> simp

end Sys2Proof.Machine
end

