-- ==== Sys2Proof/Laws/KeptBoot.lean ====
section
/-! SUPPORT. What the operations of Machine/Boot.lean leave alone: the flash bytes, the variant, and the queue of waiting
commands. -/

namespace Sys2Proof.Machine

@[simp] theorem settleFlash_kept (powerLoss : Bool) (s : State) : (settleFlash powerLoss s).variant = s.variant ∧
    (settleFlash powerLoss s).pending = s.pending := by
  unfold settleFlash; (repeat' split) <;> simp

@[simp] theorem resetUnits_kept (cold : Bool) (s : State) : (resetUnits cold s).variant = s.variant ∧
    (resetUnits cold s).pending = s.pending := by
  unfold resetUnits; simp [apply_ite State.variant, apply_ite State.pending]

@[simp] theorem beginReset_kept (c : Cause) (s : State) : (beginReset c s).variant = s.variant ∧
    (beginReset c s).pending = s.pending := by
  unfold beginReset; simp [apply_ite State.variant, apply_ite State.pending]

@[simp] theorem resetN_kept (lowNs : Nat) (s : State) : (resetN lowNs s).variant = s.variant ∧
    (resetN lowNs s).pending = s.pending := by
  unfold resetN; simp [apply_ite State.variant, apply_ite State.pending]

@[simp] theorem pllLoss_kept (s : State) : (pllLoss s).variant = s.variant ∧ (pllLoss s).pending = s.pending := by
  unfold pllLoss; simp [apply_ite State.variant, apply_ite State.pending]

@[simp] theorem watchdogExpiry_kept (s : State) : (watchdogExpiry s).variant = s.variant ∧
    (watchdogExpiry s).pending = s.pending := by
  unfold watchdogExpiry; simp [apply_ite State.variant, apply_ite State.pending]

@[simp] theorem softwareResetStart_kept (wait : Nat) (s : State) : (softwareResetStart wait s).variant = s.variant ∧
    (softwareResetStart wait s).pending = s.pending := by
  unfold softwareResetStart; (repeat' split) <;> simp

@[simp] theorem enterRecovery_kept (cause : Nat) (s : State) :
    (enterRecovery cause s).flash.mem = s.flash.mem ∧ (enterRecovery cause s).variant = s.variant ∧
    (enterRecovery cause s).pending = s.pending := by
  unfold enterRecovery; simp

@[simp] theorem loaderStarts_kept (s : State) :
    (loaderStarts s).flash.mem = s.flash.mem ∧ (loaderStarts s).variant = s.variant ∧
    (loaderStarts s).pending = s.pending := by
  unfold loaderStarts; (repeat' split) <;> simp

@[simp] theorem resetRelease_kept (recoveryN : Bool) (s : State) :
    (resetRelease recoveryN s).flash.mem = s.flash.mem ∧ (resetRelease recoveryN s).variant = s.variant ∧
    (resetRelease recoveryN s).pending = s.pending := by
  unfold resetRelease; simp [apply_ite State.flash, apply_ite State.variant, apply_ite State.pending]; (repeat' split) <;> simp

@[simp] theorem pllLock_kept (s : State) :
    (pllLock s).flash.mem = s.flash.mem ∧ (pllLock s).variant = s.variant ∧ (pllLock s).pending = s.pending := by
  unfold pllLock; (repeat' split) <;> simp

@[simp] theorem rejectSlot_kept (s : State) :
    (rejectSlot s).variant = s.variant ∧ (rejectSlot s).pending = s.pending := by
  unfold rejectSlot; split <;> simp

@[simp] theorem flashReady_kept (s : State) : (flashReady s).variant = s.variant ∧
    (flashReady s).pending = s.pending := by
  unfold flashReady; simp [apply_ite State.variant, apply_ite State.pending]

@[simp] theorem loadPm_kept (slot : Nat) (fails failsAgain : Bool) (g : Nat) (s : State) :
    (loadPm slot fails failsAgain g s).flash.mem = s.flash.mem ∧
    (loadPm slot fails failsAgain g s).variant = s.variant ∧
    (loadPm slot fails failsAgain g s).pending = s.pending := by
  unfold loadPm; simp [apply_ite State.flash, apply_ite State.variant, apply_ite State.pending]; (repeat' split) <;> simp

@[simp] theorem cfStart_kept (failing again : List Nat) (s : State) : (cfStart failing again s).variant = s.variant ∧
    (cfStart failing again s).pending = s.pending := by
  unfold cfStart; simp [apply_ite State.variant, apply_ite State.pending]; (repeat' split) <;> simp

@[simp] theorem restoreWord_kept (space a v : Nat) (x : List (Nat × Nat) × State) :
    (restoreWord space a v x).2.flash.mem = x.2.flash.mem ∧ (restoreWord space a v x).2.variant = x.2.variant ∧
    (restoreWord space a v x).2.pending = x.2.pending := by
  obtain ⟨bad, s⟩ := x
  unfold restoreWord
  dsimp only
  split
  · simp
  · split
    · simp
    · rename_i t later he
      have h1 := writeReg_kept space a v s t later he
      have h2 := runActs_kept later t h1.2
      exact ⟨h2.1.trans h1.1.1, h2.2.1.trans h1.1.2.1, h2.2.2.trans h1.1.2.2⟩

theorem foldPair_kept {α β : Type} (l : List α) (f : β × State → α → β × State) (x : β × State)
    (h : ∀ x a, (f x a).2.flash.mem = x.2.flash.mem ∧ (f x a).2.variant = x.2.variant ∧
    (f x a).2.pending = x.2.pending) : (l.foldl f x).2.flash.mem = x.2.flash.mem ∧
    (l.foldl f x).2.variant = x.2.variant ∧ (l.foldl f x).2.pending = x.2.pending := by
  induction l generalizing x with
  | nil => exact ⟨rfl, rfl, rfl⟩
  | cons a l ih =>
    have h1 := h x a
    have h2 := ih (f x a)
    exact ⟨h2.1.trans h1.1, h2.2.1.trans h1.2.1, h2.2.2.trans h1.2.2⟩

@[simp] theorem configPass_kept (s : State) : (configPass s).2.flash.mem = s.flash.mem ∧
    (configPass s).2.variant = s.variant ∧ (configPass s).2.pending = s.pending := by
  unfold configPass
  extract_lets put1 direct a b c
  have hp (sp : Nat) (l : List (Nat × Nat)) (x : List (Nat × Nat) × State) : (put1 sp l x).2.flash.mem = x.2.flash.mem ∧ (put1 sp l x).2.variant = x.2.variant ∧ (put1 sp l x).2.pending = x.2.pending :=
    foldPair_kept l _ x (fun x e => restoreWord_kept _ _ _ x)
  clear_value put1
  have ha : a.2.flash.mem = s.flash.mem ∧ a.2.variant = s.variant ∧ a.2.pending = s.pending := by simp [a, hp]
  clear_value a
  have hb : b.2.flash.mem = s.flash.mem ∧ b.2.variant = s.variant ∧ b.2.pending = s.pending := by
    have h := foldPair_kept [1, 2, 3, 4, 5, 6, 7] (fun x sp => put1 sp (stored sp s) x) a (fun x e => hp _ _ x)
    simpa [b, ha] using h
  clear_value b
  simp [c, hp, hb]

@[simp] theorem enableWord_kept (space a : Nat) (x : List (Nat × Nat) × State) :
    (enableWord space a x).2.flash.mem = x.2.flash.mem ∧ (enableWord space a x).2.variant = x.2.variant ∧
    (enableWord space a x).2.pending = x.2.pending := by
  unfold enableWord
  split
  · exact ⟨rfl, rfl, rfl⟩
  · unfold enableWord.write
    extract_lets w on value
    dsimp only
    split
    · split <;> simp
    · exact foldPair_kept on _ x (fun x f => restoreWord_kept _ _ _ x)

@[simp] theorem enableAll_kept (l : List (Nat × Nat)) (x : List (Nat × Nat) × State) :
    (enableAll l x).2.flash.mem = x.2.flash.mem ∧ (enableAll l x).2.variant = x.2.variant ∧
    (enableAll l x).2.pending = x.2.pending :=
  foldPair_kept l _ x (fun x _ => enableWord_kept _ _ x)

@[simp] theorem enableTenants_kept (x : List (Nat × Nat) × State) :
    (enableTenants x).2.flash.mem = x.2.flash.mem ∧ (enableTenants x).2.variant = x.2.variant ∧
    (enableTenants x).2.pending = x.2.pending := by
  obtain ⟨bad, s⟩ := x
  unfold enableTenants
  dsimp only
  split
  · simp
  · dsimp only
    split <;> simp

@[simp] theorem startGaps_kept (s : State) :
    (startGaps s).flash.mem = s.flash.mem ∧ (startGaps s).variant = s.variant ∧ (startGaps s).pending = s.pending := by
  unfold startGaps; simp

@[simp] theorem restore_kept (s : State) :
    (restore s).flash.mem = s.flash.mem ∧ (restore s).variant = s.variant ∧ (restore s).pending = s.pending := by
  unfold restore; simp

@[simp] theorem serviceReady_kept (s : State) :
    (serviceReady s).flash.mem = s.flash.mem ∧ (serviceReady s).variant = s.variant ∧
    (serviceReady s).pending = s.pending := by
  unfold serviceReady; simp

@[simp] theorem guardWaitEnd_kept (dt : Nat) (s : State) :
    (guardWaitEnd dt s).flash.mem = s.flash.mem ∧ (guardWaitEnd dt s).variant = s.variant ∧
    (guardWaitEnd dt s).pending = s.pending := by
  unfold guardWaitEnd; simp [apply_ite State.flash, apply_ite State.variant, apply_ite State.pending]; (repeat' split) <;> simp

@[simp] theorem recoveryPowerOff_kept (s : State) :
    (recoveryPowerOff s).flash.mem = s.flash.mem ∧ (recoveryPowerOff s).variant = s.variant ∧
    (recoveryPowerOff s).pending = s.pending := by
  unfold recoveryPowerOff; (repeat' split) <;> simp

end Sys2Proof.Machine
end

