-- ==== Sys2Proof/Laws/KeptMgmtPort.lean ====
section
/-! SUPPORT. What the operations of Machine/MgmtPort.lean leave alone: the flash bytes, the variant, and the queue of waiting
commands. -/

namespace Sys2Proof.Machine

@[simp] theorem mpMap_kept (f : Mp → Mp) (s : State) :
    (mpMap f s).flash.mem = s.flash.mem ∧ (mpMap f s).variant = s.variant ∧ (mpMap f s).pending = s.pending := by
  unfold mpMap; simp

@[simp] theorem readWords_kept (l : List (Nat × Nat)) (s : State) : (readWords l s).2.flash.mem = s.flash.mem ∧
    (readWords l s).2.variant = s.variant ∧ (readWords l s).2.pending = s.pending := by
  induction l generalizing s with
  | nil => exact ⟨rfl, rfl, rfl⟩
  | cons e l ih =>
    unfold readWords
    simp [ih]

@[simp] theorem readFrame_kept (arg n : Nat) (s : State) :
    (readFrame arg n s).2.2.flash.mem = s.flash.mem ∧ (readFrame arg n s).2.2.variant = s.variant ∧
    (readFrame arg n s).2.2.pending = s.pending := by
  unfold readFrame; simp; (repeat' split) <;> simp

@[simp] theorem mpDecide_kept (op arg status done : Nat) (bytes : List Byte) (s : State) :
    (mpDecide op arg status done bytes s).flash.mem = s.flash.mem ∧
    (mpDecide op arg status done bytes s).variant = s.variant ∧
    (mpDecide op arg status done bytes s).pending = s.pending := by
  unfold mpDecide; simp

@[simp] theorem mpRefuse_kept (op arg cnt status : Nat) (s : State) :
    (mpRefuse op arg cnt status s).flash.mem = s.flash.mem ∧ (mpRefuse op arg cnt status s).variant = s.variant ∧
    (mpRefuse op arg cnt status s).pending = s.pending := by
  unfold mpRefuse; simp

theorem mpFrame_kept (op arg cnt : Nat) (data : List Byte) (crc : Nat) (act : State → State) (s : State)
    (hf : ∀ s, (act s).flash.mem = s.flash.mem ∧ (act s).variant = s.variant ∧ (act s).pending = s.pending) :
    (mpFrame op arg cnt data crc act s).flash.mem = s.flash.mem ∧
    (mpFrame op arg cnt data crc act s).variant = s.variant ∧
    (mpFrame op arg cnt data crc act s).pending = s.pending := by
  unfold mpFrame
  extract_lets
  rename_i r b a
  have hr : r.flash.mem = s.flash.mem ∧ r.variant = s.variant ∧ r.pending = s.pending := by simp [r]
  clear_value r
  have ha : a.flash.mem = s.flash.mem ∧ a.variant = s.variant ∧ a.pending = s.pending := by simp [a, hr]
  clear_value a
  (repeat' split) <;> simp [hf, hr, ha]

@[simp] theorem mpRead_kept (rt : Nat × Nat) (arg cnt : Nat) (s : State) :
    (mpRead rt arg cnt s).flash.mem = s.flash.mem ∧ (mpRead rt arg cnt s).variant = s.variant ∧
    (mpRead rt arg cnt s).pending = s.pending := by
  unfold mpRead; simp [apply_ite State.flash, apply_ite State.variant, apply_ite State.pending]; (repeat' split) <;> simp

@[simp] theorem readRow_kept (arg cnt crc rest : Nat) (s : State) :
    (readRow arg cnt crc rest s).flash.mem = s.flash.mem ∧ (readRow arg cnt crc rest s).variant = s.variant ∧
    (readRow arg cnt crc rest s).pending = s.pending := by
  unfold readRow
  have h := mpFrame_kept 0xA1 arg cnt [] crc (mpRead (s.ring.sec, (stampNow s).word2) arg cnt) (elapse rest s) (fun s => by simp)
  simpa using h

@[simp] theorem mpWrite_kept (arg : Nat) (data : List Word) (s : State) :
    (mpWrite arg data s).flash.mem = s.flash.mem ∧ (mpWrite arg data s).variant = s.variant ∧
    (mpWrite arg data s).pending = s.pending := by
  unfold mpWrite; simp

@[simp] theorem mpWriteOrWait_kept (arg : Nat) (data : List Word) (s : State) :
    (mpWriteOrWait arg data s).flash.mem = s.flash.mem ∧ (mpWriteOrWait arg data s).variant = s.variant ∧
    (mpWriteOrWait arg data s).pending = s.pending := by
  unfold mpWriteOrWait; (repeat' split) <;> simp

@[simp] theorem writeRow_kept (arg : Nat) (data : List Word) (crc : Nat) (s : State) :
    (writeRow arg data crc s).flash.mem = s.flash.mem ∧ (writeRow arg data crc s).variant = s.variant ∧
    (writeRow arg data crc s).pending = s.pending := by
  exact mpFrame_kept _ _ _ _ _ _ s (fun s => by simp)

@[simp] theorem canopyWriteEffect_kept (s : State) :
    (canopyWriteEffect s).flash.mem = s.flash.mem ∧ (canopyWriteEffect s).variant = s.variant ∧
    (canopyWriteEffect s).pending = s.pending := by
  unfold canopyWriteEffect; (repeat' split) <;> simp

theorem answered_kept (f : State → Nat × State) (s : State)
    (hf : ∀ s, (f s).2.flash.mem = s.flash.mem ∧ (f s).2.variant = s.variant ∧ (f s).2.pending = s.pending) :
    (answered f s).flash.mem = s.flash.mem ∧ (answered f s).variant = s.variant ∧
    (answered f s).pending = s.pending := by
  unfold answered
  split
  · exact ⟨rfl, rfl, rfl⟩
  · split
    · simp
    · have h := hf s
      simp [h]

@[simp] theorem regWrite_kept (space a : Nat) (v : Word) (s : State) :
    (regWrite space a v s).flash.mem = s.flash.mem ∧ (regWrite space a v s).variant = s.variant ∧
    (regWrite space a v s).pending = s.pending := by
  unfold regWrite
  split
  · exact ⟨rfl, rfl, rfl⟩
  · exact answered_kept _ s (fun s => by simp)

@[simp] theorem resetWrite_kept (v : Word) (s : State) :
    (resetWrite v s).flash.mem = s.flash.mem ∧ (resetWrite v s).variant = s.variant ∧
    (resetWrite v s).pending = s.pending := by
  unfold resetWrite; simp only []; split <;> simp []

@[simp] theorem setFields_kept (i : Nat) (fs : List (Fld × Nat)) (s : State) :
    (setFields i fs s).flash.mem = s.flash.mem ∧ (setFields i fs s).variant = s.variant ∧
    (setFields i fs s).pending = s.pending := by
  unfold setFields; (repeat' split) <;> simp

@[simp] theorem regRead_kept (a : Nat) (s : State) :
    (regRead a s).flash.mem = s.flash.mem ∧ (regRead a s).variant = s.variant ∧ (regRead a s).pending = s.pending := by
  unfold regRead; simp [apply_ite State.flash, apply_ite State.variant, apply_ite State.pending]; (repeat' split) <;> simp

@[simp] theorem windowRead_kept (space a : Nat) (s : State) :
    (windowRead space a s).flash.mem = s.flash.mem ∧ (windowRead space a s).variant = s.variant ∧
    (windowRead space a s).pending = s.pending := by
  unfold windowRead; simp [apply_ite State.flash, apply_ite State.variant, apply_ite State.pending]; (repeat' split) <;> simp

@[simp] theorem qreadDecide_kept (q n : Nat) (s : State) :
    (qreadDecide q n s).flash.mem = s.flash.mem ∧ (qreadDecide q n s).variant = s.variant ∧
    (qreadDecide q n s).pending = s.pending := by
  unfold qreadDecide; simp

@[simp] theorem mpQread_kept (arg n : Nat) (s : State) :
    (mpQread arg n s).flash.mem = s.flash.mem ∧ (mpQread arg n s).variant = s.variant ∧
    (mpQread arg n s).pending = s.pending := by
  unfold mpQread; extract_lets; (repeat' split) <;> simp [*]

@[simp] theorem qreadRow_kept (arg n crc : Nat) (s : State) :
    (qreadRow arg n crc s).flash.mem = s.flash.mem ∧ (qreadRow arg n crc s).variant = s.variant ∧
    (qreadRow arg n crc s).pending = s.pending := by
  exact mpFrame_kept _ _ _ _ _ _ s (fun s => by simp)

@[simp] theorem qreadWaitEnd_kept (s : State) :
    (qreadWaitEnd s).flash.mem = s.flash.mem ∧ (qreadWaitEnd s).variant = s.variant ∧
    (qreadWaitEnd s).pending = s.pending := by
  unfold qreadWaitEnd; (repeat' split) <;> simp

@[simp] theorem openStatus_kept (op arg done : Nat) (s : State) :
    (openStatus op arg done s).flash.mem = s.flash.mem ∧ (openStatus op arg done s).variant = s.variant ∧
    (openStatus op arg done s).pending = s.pending := by
  unfold openStatus; simp

@[simp] theorem qreadAbandon_kept (s : State) :
    (qreadAbandon s).flash.mem = s.flash.mem ∧ (qreadAbandon s).variant = s.variant ∧
    (qreadAbandon s).pending = s.pending := by
  unfold qreadAbandon; (repeat' split) <;> simp

@[simp] theorem qwriteEnd_kept (n status : Nat) (s : State) :
    (qwriteEnd n status s).flash.mem = s.flash.mem ∧ (qwriteEnd n status s).variant = s.variant ∧
    (qwriteEnd n status s).pending = s.pending := by
  unfold qwriteEnd; simp

@[simp] theorem mpQwrite_kept (arg : Nat) (ws : List (Nat × Word)) (s : State) :
    (mpQwrite arg ws s).flash.mem = s.flash.mem ∧ (mpQwrite arg ws s).variant = s.variant ∧
    (mpQwrite arg ws s).pending = s.pending := by
  unfold mpQwrite; simp [apply_ite State.flash, apply_ite State.variant, apply_ite State.pending]; (repeat' split) <;> simp

@[simp] theorem qwriteRow_kept (arg : Nat) (ws : List (Nat × Word)) (crc : Nat) (s : State) :
    (qwriteRow arg ws crc s).flash.mem = s.flash.mem ∧ (qwriteRow arg ws crc s).variant = s.variant ∧
    (qwriteRow arg ws crc s).pending = s.pending := by
  exact mpFrame_kept _ _ _ _ _ _ s (fun s => by simp)

@[simp] theorem qwriteDone_kept (s : State) :
    (qwriteDone s).flash.mem = s.flash.mem ∧ (qwriteDone s).variant = s.variant ∧
    (qwriteDone s).pending = s.pending := by
  unfold qwriteDone; (repeat' split) <;> simp

@[simp] theorem qwriteCsRise_kept (s : State) :
    (qwriteCsRise s).flash.mem = s.flash.mem ∧ (qwriteCsRise s).variant = s.variant ∧
    (qwriteCsRise s).pending = s.pending := by
  unfold qwriteCsRise; (repeat' split) <;> simp

@[simp] theorem statusRow_kept (arg cnt crc : Nat) (s : State) :
    (statusRow arg cnt crc s).flash.mem = s.flash.mem ∧ (statusRow arg cnt crc s).variant = s.variant ∧
    (statusRow arg cnt crc s).pending = s.pending := by
  unfold statusRow; simp [apply_ite State.flash, apply_ite State.variant, apply_ite State.pending]; (repeat' split) <;> simp

@[simp] theorem unknownOpcode_kept (op arg cnt crc : Nat) (s : State) :
    (unknownOpcode op arg cnt crc s).flash.mem = s.flash.mem ∧ (unknownOpcode op arg cnt crc s).variant = s.variant ∧
    (unknownOpcode op arg cnt crc s).pending = s.pending := by
  exact mpFrame_kept _ _ _ _ _ _ s (fun s => by simp)

@[simp] theorem frameAbort_kept (s : State) :
    (frameAbort s).flash.mem = s.flash.mem ∧ (frameAbort s).variant = s.variant ∧
    (frameAbort s).pending = s.pending := by
  unfold frameAbort; (repeat' split) <;> simp

end Sys2Proof.Machine
end

