-- ==== Sys2Proof/Laws/KeptJobEnds.lean ====
section
/-! SUPPORT. What the operations of Machine/JobEnds.lean leave alone: the flash bytes, the variant, and the queue of waiting
commands. -/

namespace Sys2Proof.Machine

@[simp] theorem grantWant_kept (w : Want) (s : State) :
    (grantWant w s).flash.mem = s.flash.mem ∧ (grantWant w s).variant = s.variant ∧
    (grantWant w s).pending = s.pending := by
  unfold grantWant; (repeat' split) <;> simp

@[simp] theorem jobSpawn_kept (s : State) :
    (jobSpawn s).flash.mem = s.flash.mem ∧ (jobSpawn s).variant = s.variant ∧ (jobSpawn s).pending = s.pending := by
  unfold jobSpawn; simp

@[simp] theorem forwardExpired_kept (j : Job) (s : State) :
    (forwardExpired j s).flash.mem = s.flash.mem ∧ (forwardExpired j s).variant = s.variant ∧
    (forwardExpired j s).pending = s.pending := by
  unfold forwardExpired; simp

@[simp] theorem jobExpired_kept (j : Job) (s : State) :
    (jobExpired j s).flash.mem = s.flash.mem ∧ (jobExpired j s).variant = s.variant ∧
    (jobExpired j s).pending = s.pending := by
  unfold jobExpired; (repeat' split) <;> simp

@[simp] theorem jobDeadlineExpiry_kept (s : State) :
    (jobDeadlineExpiry s).flash.mem = s.flash.mem ∧ (jobDeadlineExpiry s).variant = s.variant ∧
    (jobDeadlineExpiry s).pending = s.pending := by
  unfold jobDeadlineExpiry; (repeat' split) <;> simp

end Sys2Proof.Machine
end

