-- ==== Sys2Proof/Laws/KeptGovernor.lean ====
section
/-! SUPPORT. What the operations of Machine/Governor.lean leave alone: the flash bytes, the variant, and the queue of waiting
commands. -/

namespace Sys2Proof.Machine

@[simp] theorem timeoutOutcome_kept (k : LeaveKind) (s : State) :
    (timeoutOutcome k s).flash.mem = s.flash.mem ∧ (timeoutOutcome k s).variant = s.variant ∧
    (timeoutOutcome k s).pending = s.pending := by
  unfold timeoutOutcome; (repeat' split) <;> simp

@[simp] theorem timeoutAll_kept (l : List LeaveReq) (s : State) :
    (timeoutAll l s).flash.mem = s.flash.mem ∧ (timeoutAll l s).variant = s.variant ∧
    (timeoutAll l s).pending = s.pending := by
  unfold timeoutAll; simp

@[simp] theorem grantOutcome_kept (k : LeaveKind) (s : State) :
    (grantOutcome k s).flash.mem = s.flash.mem ∧ (grantOutcome k s).variant = s.variant ∧
    (grantOutcome k s).pending = s.pending := by
  unfold grantOutcome; (repeat' split) <;> simp

@[simp] theorem governorCycle_kept (s : State) :
    (governorCycle s).flash.mem = s.flash.mem ∧ (governorCycle s).variant = s.variant ∧
    (governorCycle s).pending = s.pending := by
  unfold governorCycle; simp

@[simp] theorem leaveTimeout_kept (s : State) :
    (leaveTimeout s).flash.mem = s.flash.mem ∧ (leaveTimeout s).variant = s.variant ∧
    (leaveTimeout s).pending = s.pending := by
  unfold leaveTimeout; (repeat' split) <;> simp

@[simp] theorem budgetChange_kept (s : State) :
    (budgetChange s).flash.mem = s.flash.mem ∧ (budgetChange s).variant = s.variant ∧
    (budgetChange s).pending = s.pending := by
  unfold budgetChange; simp

end Sys2Proof.Machine
end

