-- ==== Sys2Proof/Laws/KeptStorePort.lean ====
section
/-! SUPPORT. What the operations of Machine/StorePort.lean leave alone: the flash bytes, the variant, and the queue of waiting
commands. -/

namespace Sys2Proof.Machine

@[simp] theorem portServes_kept (c : StoreClient) (cls : StoreClass) (need : Nat) (s : State) :
    (portServes c cls need s).flash.mem = s.flash.mem ∧ (portServes c cls need s).variant = s.variant ∧
    (portServes c cls need s).pending = s.pending := by
  unfold portServes; simp

@[simp] theorem portServesReq_kept (c : StoreClient) (s : State) :
    (portServesReq c s).flash.mem = s.flash.mem ∧ (portServesReq c s).variant = s.variant ∧
    (portServesReq c s).pending = s.pending := by
  unfold portServesReq; (repeat' split) <;> simp

end Sys2Proof.Machine
end

