-- ==== Sys2Proof/Laws/KeptExec.lean ====
section
/-! SUPPORT. What each meaning leaves alone: it answers a next state with the flash bytes (but for the meanings of the resets,
of boot and of the flash operations that end), the variant and the queue of waiting commands as they were. -/

namespace Sys2Proof.Machine

/-! ### StartupFam -/

theorem execPowerOnReset_kept (dt : Nat) (s : State) :
    ∃ z, execPowerOnReset dt s = .next z ∧ z.variant = s.variant ∧ z.pending = s.pending :=
  ⟨_, rfl, by simp⟩

theorem execResetN_kept (dt lowNs : Nat) (s : State) :
    ∃ z, execResetN dt lowNs s = .next z ∧ z.variant = s.variant ∧ z.pending = s.pending :=
  ⟨_, rfl, by simp⟩

theorem execPllLoss_kept (dt : Nat) (s : State) :
    ∃ z, execPllLoss dt s = .next z ∧ z.variant = s.variant ∧ z.pending = s.pending :=
  ⟨_, rfl, by simp⟩

theorem execWatchdogExpiry_kept (dt : Nat) (s : State) :
    ∃ z, execWatchdogExpiry dt s = .next z ∧ z.variant = s.variant ∧ z.pending = s.pending :=
  ⟨_, rfl, by simp⟩

theorem execSoftwareReset_kept (dt : Nat) (value : Word) (s : State) :
    ∃ z, execSoftwareReset dt value s = .next z ∧ z.flash.mem = s.flash.mem ∧ z.variant = s.variant ∧
    z.pending = s.pending :=
  ⟨_, rfl, by simp⟩

theorem execSoftwareResetStart_kept (wait : Nat) (s : State) :
    ∃ z, execSoftwareResetStart wait s = .next z ∧ z.variant = s.variant ∧ z.pending = s.pending :=
  ⟨_, rfl, by simp⟩

theorem execResetRelease_kept (dt : Nat) (recoveryN : Bool) (s : State) :
    ∃ z, execResetRelease dt recoveryN s = .next z ∧ z.flash.mem = s.flash.mem ∧ z.variant = s.variant ∧
    z.pending = s.pending :=
  ⟨_, rfl, by simp⟩

theorem execPllLock_kept (dt : Nat) (s : State) :
    ∃ z, execPllLock dt s = .next z ∧ z.flash.mem = s.flash.mem ∧ z.variant = s.variant ∧ z.pending = s.pending :=
  ⟨_, rfl, by simp⟩

theorem execFlashReady_kept (dt : Nat) (s : State) :
    ∃ z, execFlashReady dt s = .next z ∧ z.variant = s.variant ∧ z.pending = s.pending :=
  ⟨_, rfl, by simp⟩

theorem execCfStart_kept (dt : Nat) (failing again : List Nat) (s : State) :
    ∃ z, execCfStart dt failing again s = .next z ∧ z.variant = s.variant ∧ z.pending = s.pending :=
  ⟨_, rfl, by simp⟩

theorem execGuardWaitEnd_kept (dt : Nat) (s : State) :
    ∃ z, execGuardWaitEnd dt s = .next z ∧ z.flash.mem = s.flash.mem ∧ z.variant = s.variant ∧ z.pending = s.pending :=
  ⟨_, rfl, by simp⟩

theorem execRecoveryPowerOff_kept (dt : Nat) (s : State) :
    ∃ z, execRecoveryPowerOff dt s = .next z ∧ z.flash.mem = s.flash.mem ∧ z.variant = s.variant ∧
    z.pending = s.pending :=
  ⟨_, rfl, by simp⟩

theorem execGuardBoot_kept (dt k ver : Nat) (b : GuardBoot) (s : State) :
    ∃ z, execGuardBoot dt k ver b s = .next z ∧ z.flash.mem = s.flash.mem ∧ z.variant = s.variant ∧
    z.pending = s.pending :=
  ⟨_, rfl, by simp⟩

theorem execGuardVddioLow_kept (dt k : Nat) (s : State) :
    ∃ z, execGuardVddioLow dt k s = .next z ∧ z.flash.mem = s.flash.mem ∧ z.variant = s.variant ∧
    z.pending = s.pending :=
  ⟨_, rfl, by simp⟩

theorem execGuardVddioReturn_kept (dt k : Nat) (s : State) :
    ∃ z, execGuardVddioReturn dt k s = .next z ∧ z.flash.mem = s.flash.mem ∧ z.variant = s.variant ∧
    z.pending = s.pending :=
  ⟨_, rfl, by simp⟩

/-! ### ClockFam -/

theorem execSecondsCarry_kept (s : State) :
    ∃ z, execSecondsCarry s = .next z ∧ z.flash.mem = s.flash.mem ∧ z.variant = s.variant ∧ z.pending = s.pending :=
  ⟨_, rfl, by simp⟩

theorem execTmOutPulseEnd_kept (s : State) :
    ∃ z, execTmOutPulseEnd s = .next z ∧ z.flash.mem = s.flash.mem ∧ z.variant = s.variant ∧ z.pending = s.pending :=
  ⟨_, rfl, by simp⟩

theorem execTmOutEnable_kept (dt : Nat) (s : State) :
    ∃ z, execTmOutEnable dt s = .next z ∧ z.flash.mem = s.flash.mem ∧ z.variant = s.variant ∧ z.pending = s.pending :=
  ⟨_, rfl, by simp⟩

theorem execTmOutDisable_kept (dt : Nat) (s : State) :
    ∃ z, execTmOutDisable dt s = .next z ∧ z.flash.mem = s.flash.mem ∧ z.variant = s.variant ∧ z.pending = s.pending :=
  ⟨_, rfl, by simp⟩

theorem execSet_kept (dt : Nat) (s : State) :
    ∃ z, execSet dt s = .next z ∧ z.flash.mem = s.flash.mem ∧ z.variant = s.variant ∧ z.pending = s.pending :=
  ⟨_, rfl, by simp⟩

theorem execStep_kept (dt : Nat) (s : State) :
    ∃ z, execStep dt s = .next z ∧ z.flash.mem = s.flash.mem ∧ z.variant = s.variant ∧ z.pending = s.pending :=
  ⟨_, rfl, by simp⟩

theorem execLockEnable_kept (dt : Nat) (s : State) :
    ∃ z, execLockEnable dt s = .next z ∧ z.flash.mem = s.flash.mem ∧ z.variant = s.variant ∧ z.pending = s.pending :=
  ⟨_, rfl, by simp⟩

theorem execLockDisable_kept (dt : Nat) (s : State) :
    ∃ z, execLockDisable dt s = .next z ∧ z.flash.mem = s.flash.mem ∧ z.variant = s.variant ∧ z.pending = s.pending :=
  ⟨_, rfl, by simp⟩

theorem execTmInMark_kept (dt : Nat) (falling : Bool) (widthNs : Nat) (s : State) :
    ∃ z, execTmInMark dt falling widthNs s = .next z ∧ z.flash.mem = s.flash.mem ∧ z.variant = s.variant ∧
    z.pending = s.pending :=
  ⟨_, rfl, by simp⟩

theorem execMarkTimeout_kept (s : State) :
    ∃ z, execMarkTimeout s = .next z ∧ z.flash.mem = s.flash.mem ∧ z.variant = s.variant ∧ z.pending = s.pending :=
  ⟨_, rfl, by simp⟩

theorem execRtNowSecRead_kept (dt : Nat) (s : State) :
    ∃ z, execRtNowSecRead dt s = .next z ∧ z.flash.mem = s.flash.mem ∧ z.variant = s.variant ∧ z.pending = s.pending :=
  ⟨_, rfl, by simp⟩

/-! ### LineFam -/

theorem execStartBitValidated_kept (dt p : Nat) (s : State) :
    ∃ z, execStartBitValidated dt p s = .next z ∧ z.flash.mem = s.flash.mem ∧ z.variant = s.variant ∧
    z.pending = s.pending :=
  ⟨_, rfl, by simp⟩

theorem execStartGlitch_kept (dt p : Nat) (s : State) :
    ∃ z, execStartGlitch dt p s = .next z ∧ z.flash.mem = s.flash.mem ∧ z.variant = s.variant ∧ z.pending = s.pending :=
  ⟨_, rfl, by simp⟩

theorem execCharacterReceived_kept (p : Nat) (samples : List Bool) (trans : List Nat) (s : State) :
    ∃ z, execCharacterReceived p samples trans s = .next z ∧ z.flash.mem = s.flash.mem ∧ z.variant = s.variant ∧
    z.pending = s.pending := by
  refine ⟨_, rfl, ?_⟩
  split <;> simp

theorem execLineFormatWrite_kept (dt p : Nat) (ctrl : Bool) (value : Word) (s : State) :
    ∃ z, execLineFormatWrite dt p ctrl value s = .next z ∧ z.flash.mem = s.flash.mem ∧ z.variant = s.variant ∧
    z.pending = s.pending :=
  ⟨_, rfl, by simp⟩

theorem execStagingMoveDone_kept (dt p : Nat) (s : State) :
    ∃ z, execStagingMoveDone dt p s = .next z ∧ z.flash.mem = s.flash.mem ∧ z.variant = s.variant ∧
    z.pending = s.pending :=
  ⟨_, rfl, by simp⟩

theorem execBreakDetected_kept (p : Nat) (s : State) :
    ∃ z, execBreakDetected p s = .next z ∧ z.flash.mem = s.flash.mem ∧ z.variant = s.variant ∧ z.pending = s.pending :=
  ⟨_, rfl, by simp⟩

theorem execPossibleBreakIdle_kept (dt p : Nat) (s : State) :
    ∃ z, execPossibleBreakIdle dt p s = .next z ∧ z.flash.mem = s.flash.mem ∧ z.variant = s.variant ∧
    z.pending = s.pending :=
  ⟨_, rfl, by simp⟩

theorem execHuntResumeAfterBreak_kept (dt p : Nat) (s : State) :
    ∃ z, execHuntResumeAfterBreak dt p s = .next z ∧ z.flash.mem = s.flash.mem ∧ z.variant = s.variant ∧
    z.pending = s.pending :=
  ⟨_, rfl, by simp⟩

theorem execRxTimeout_kept (p : Nat) (s : State) :
    ∃ z, execRxTimeout p s = .next z ∧ z.flash.mem = s.flash.mem ∧ z.variant = s.variant ∧ z.pending = s.pending :=
  ⟨_, rfl, by simp⟩

@[simp] theorem clearTxHead_kept (p : Nat) (s : State) :
    (clearTxHead p s).flash.mem = s.flash.mem ∧ (clearTxHead p s).variant = s.variant ∧
    (clearTxHead p s).pending = s.pending := by unfold clearTxHead; (repeat' split) <;> simp

theorem execTxRecordStart_kept (dt p : Nat) (s : State) :
    ∃ z, execTxRecordStart dt p s = .next z ∧ z.flash.mem = s.flash.mem ∧ z.variant = s.variant ∧
    z.pending = s.pending :=
  ⟨_, rfl, by simp⟩

theorem execLeadEnd_kept (p : Nat) (s : State) :
    ∃ z, execLeadEnd p s = .next z ∧ z.flash.mem = s.flash.mem ∧ z.variant = s.variant ∧ z.pending = s.pending :=
  ⟨_, rfl, by simp⟩

theorem execTxCharacterDone_kept (p : Nat) (s : State) :
    ∃ z, execTxCharacterDone p s = .next z ∧ z.flash.mem = s.flash.mem ∧ z.variant = s.variant ∧
    z.pending = s.pending :=
  ⟨_, rfl, by simp⟩

theorem execTxTailEnd_kept (p : Nat) (s : State) :
    ∃ z, execTxTailEnd p s = .next z ∧ z.flash.mem = s.flash.mem ∧ z.variant = s.variant ∧ z.pending = s.pending :=
  ⟨_, rfl, by simp⟩

theorem execTxBreak_kept (dt p : Nat) (s : State) :
    ∃ z, execTxBreak dt p s = .next z ∧ z.flash.mem = s.flash.mem ∧ z.variant = s.variant ∧ z.pending = s.pending :=
  ⟨_, rfl, by simp⟩

theorem execBreakStart_kept (dt p : Nat) (s : State) :
    ∃ z, execBreakStart dt p s = .next z ∧ z.flash.mem = s.flash.mem ∧ z.variant = s.variant ∧ z.pending = s.pending :=
  ⟨_, rfl, by simp⟩

theorem execBreakEnd_kept (p : Nat) (s : State) :
    ∃ z, execBreakEnd p s = .next z ∧ z.flash.mem = s.flash.mem ∧ z.variant = s.variant ∧ z.pending = s.pending :=
  ⟨_, rfl, by simp⟩

theorem execMarkingEnd_kept (p : Nat) (s : State) :
    ∃ z, execMarkingEnd p s = .next z ∧ z.flash.mem = s.flash.mem ∧ z.variant = s.variant ∧ z.pending = s.pending :=
  ⟨_, rfl, by simp⟩

theorem execPortDisable_kept (dt p : Nat) (s : State) :
    ∃ z, execPortDisable dt p s = .next z ∧ z.flash.mem = s.flash.mem ∧ z.variant = s.variant ∧ z.pending = s.pending :=
  ⟨_, rfl, by simp⟩

theorem execRxCharsRead_kept (dt p : Nat) (s : State) :
    ∃ z, execRxCharsRead dt p s = .next z ∧ z.flash.mem = s.flash.mem ∧ z.variant = s.variant ∧ z.pending = s.pending :=
  ⟨_, rfl, by simp⟩

theorem execT35Expiry_kept (p : Nat) (s : State) :
    ∃ z, execT35Expiry p s = .next z ∧ z.flash.mem = s.flash.mem ∧ z.variant = s.variant ∧ z.pending = s.pending :=
  ⟨_, rfl, by simp⟩

theorem execSentenceTimeout_kept (p : Nat) (s : State) :
    ∃ z, execSentenceTimeout p s = .next z ∧ z.flash.mem = s.flash.mem ∧ z.variant = s.variant ∧
    z.pending = s.pending :=
  ⟨_, rfl, by simp⟩

theorem execMarkAbandon_kept (p : Nat) (s : State) :
    ∃ z, execMarkAbandon p s = .next z ∧ z.flash.mem = s.flash.mem ∧ z.variant = s.variant ∧ z.pending = s.pending :=
  ⟨_, rfl, by simp⟩

/-! ### CardFam -/

theorem execCardDebounceStart_kept (dt n : Nat) (s : State) :
    ∃ z, execCardDebounceStart dt n s = .next z ∧ z.flash.mem = s.flash.mem ∧ z.variant = s.variant ∧
    z.pending = s.pending :=
  ⟨_, rfl, by simp⟩

theorem execCardInsert_kept (n : Nat) (s : State) :
    ∃ z, execCardInsert n s = .next z ∧ z.flash.mem = s.flash.mem ∧ z.variant = s.variant ∧ z.pending = s.pending :=
  ⟨_, rfl, by simp⟩

theorem execCardRemove_kept (dt n : Nat) (s : State) :
    ∃ z, execCardRemove dt n s = .next z ∧ z.flash.mem = s.flash.mem ∧ z.variant = s.variant ∧ z.pending = s.pending :=
  ⟨_, rfl, by simp⟩

theorem execCardClockStart_kept (n : Nat) (s : State) :
    ∃ z, execCardClockStart n s = .next z ∧ z.flash.mem = s.flash.mem ∧ z.variant = s.variant ∧ z.pending = s.pending :=
  ⟨_, rfl, by simp⟩

theorem execCardResetRelease_kept (n : Nat) (s : State) :
    ∃ z, execCardResetRelease n s = .next z ∧ z.flash.mem = s.flash.mem ∧ z.variant = s.variant ∧
    z.pending = s.pending :=
  ⟨_, rfl, by simp⟩

theorem execTsHuntStart_kept (n : Nat) (s : State) :
    ∃ z, execTsHuntStart n s = .next z ∧ z.flash.mem = s.flash.mem ∧ z.variant = s.variant ∧ z.pending = s.pending :=
  ⟨_, rfl, by simp⟩

theorem execAtrFail_kept (n : Nat) (s : State) :
    ∃ z, execAtrFail n s = .next z ∧ z.flash.mem = s.flash.mem ∧ z.variant = s.variant ∧ z.pending = s.pending :=
  ⟨_, rfl, by simp⟩

theorem execCardCharacterReceived_kept (dt n : Nat) (samples : List Bool) (s : State) :
    ∃ z, execCardCharacterReceived dt n samples s = .next z ∧ z.flash.mem = s.flash.mem ∧ z.variant = s.variant ∧
    z.pending = s.pending :=
  ⟨_, rfl, by simp⟩

theorem execCardCharacterSent_kept (n lowFrom lowTo : Nat) (s : State) :
    ∃ z, execCardCharacterSent n lowFrom lowTo s = .next z ∧ z.flash.mem = s.flash.mem ∧ z.variant = s.variant ∧
    z.pending = s.pending :=
  ⟨_, rfl, by simp⟩

theorem execWtExpired_kept (n : Nat) (s : State) :
    ∃ z, execWtExpired n s = .next z ∧ z.flash.mem = s.flash.mem ∧ z.variant = s.variant ∧ z.pending = s.pending :=
  ⟨_, rfl, by simp⟩

theorem execCxGo_kept (dt n dir : Nat) (s : State) :
    ∃ z, execCxGo dt n dir s = .next z ∧ z.flash.mem = s.flash.mem ∧ z.variant = s.variant ∧ z.pending = s.pending :=
  ⟨_, rfl, by simp⟩

theorem execCardReset_kept (dt n : Nat) (s : State) :
    ∃ z, execCardReset dt n s = .next z ∧ z.flash.mem = s.flash.mem ∧ z.variant = s.variant ∧ z.pending = s.pending :=
  ⟨_, rfl, by simp⟩

theorem execDeact_kept (dt n : Nat) (s : State) :
    ∃ z, execDeact dt n s = .next z ∧ z.flash.mem = s.flash.mem ∧ z.variant = s.variant ∧ z.pending = s.pending :=
  ⟨_, rfl, by simp⟩

theorem execCardDeactivationEnd_kept (n : Nat) (s : State) :
    ∃ z, execCardDeactivationEnd n s = .next z ∧ z.flash.mem = s.flash.mem ∧ z.variant = s.variant ∧
    z.pending = s.pending := by
  refine ⟨_, rfl, ?_⟩
  split <;> simp

theorem execCp1Enable_kept (dt : Nat) (s : State) :
    ∃ z, execCp1Enable dt s = .next z ∧ z.flash.mem = s.flash.mem ∧ z.variant = s.variant ∧ z.pending = s.pending :=
  ⟨_, rfl, by simp⟩

theorem execCardPortDisable_kept (dt n : Nat) (s : State) :
    ∃ z, execCardPortDisable dt n s = .next z ∧ z.flash.mem = s.flash.mem ∧ z.variant = s.variant ∧
    z.pending = s.pending :=
  ⟨_, rfl, by simp⟩

theorem execKeyloadScript_kept (wait : Nat) (r : ScriptReply) (s : State) :
    ∃ z, execKeyloadScript wait r s = .next z ∧ z.flash.mem = s.flash.mem ∧ z.variant = s.variant ∧
    z.pending = s.pending :=
  ⟨_, rfl, by simp⟩

theorem execBadgeScript_kept (wait : Nat) (r : ScriptReply) (s : State) :
    ∃ z, execBadgeScript wait r s = .next z ∧ z.flash.mem = s.flash.mem ∧ z.variant = s.variant ∧
    z.pending = s.pending :=
  ⟨_, rfl, by simp⟩

/-! ### SchedulerFam -/

theorem execPeriodBoundary_kept (g : Nat) (s : State) :
    ∃ z, execPeriodBoundary g s = .next z ∧ z.flash.mem = s.flash.mem ∧ z.variant = s.variant ∧ z.pending = s.pending :=
  ⟨_, rfl, by simp⟩

theorem execTransactionStart_kept (dt p : Nat) (s : State) :
    ∃ z, execTransactionStart dt p s = .next z ∧ z.flash.mem = s.flash.mem ∧ z.variant = s.variant ∧
    z.pending = s.pending :=
  ⟨_, rfl, by simp⟩

theorem execResponseWindowClose_kept (dt p : Nat) (s : State) :
    ∃ z, execResponseWindowClose dt p s = .next z ∧ z.flash.mem = s.flash.mem ∧ z.variant = s.variant ∧
    z.pending = s.pending := by
  refine ⟨_, rfl, ?_⟩
  generalize windowDue p s = o
  cases o <;> simp

theorem execMeasurementWaitEnd_kept (i : Nat) (s : State) :
    ∃ z, execMeasurementWaitEnd i s = .next z ∧ z.flash.mem = s.flash.mem ∧ z.variant = s.variant ∧
    z.pending = s.pending :=
  ⟨_, rfl, by simp⟩

theorem execGroupEnable_kept (dt g : Nat) (s : State) :
    ∃ z, execGroupEnable dt g s = .next z ∧ z.flash.mem = s.flash.mem ∧ z.variant = s.variant ∧ z.pending = s.pending :=
  ⟨_, rfl, by simp⟩

theorem execGroupDisable_kept (dt g : Nat) (s : State) :
    ∃ z, execGroupDisable dt g s = .next z ∧ z.flash.mem = s.flash.mem ∧ z.variant = s.variant ∧
    z.pending = s.pending :=
  ⟨_, rfl, by simp⟩

theorem execSchedulerDisable_kept (dt : Nat) (s : State) :
    ∃ z, execSchedulerDisable dt s = .next z ∧ z.flash.mem = s.flash.mem ∧ z.variant = s.variant ∧
    z.pending = s.pending :=
  ⟨_, rfl, by simp⟩

theorem execJobSpawn_kept (dt : Nat) (s : State) :
    ∃ z, execJobSpawn dt s = .next z ∧ z.flash.mem = s.flash.mem ∧ z.variant = s.variant ∧ z.pending = s.pending :=
  ⟨_, rfl, by simp⟩

theorem execJobDeadlineExpiry_kept (s : State) :
    ∃ z, execJobDeadlineExpiry s = .next z ∧ z.flash.mem = s.flash.mem ∧ z.variant = s.variant ∧
    z.pending = s.pending :=
  ⟨_, rfl, by simp⟩

theorem execWaitingRecordSettle_kept (src : Nat) (s : State) :
    ∃ z, execWaitingRecordSettle src s = .next z ∧ z.flash.mem = s.flash.mem ∧ z.variant = s.variant ∧
    z.pending = s.pending :=
  ⟨_, rfl, by simp⟩

theorem execSlotIdle_kept (s : State) :
    ∃ z, execSlotIdle s = .next z ∧ z.flash.mem = s.flash.mem ∧ z.variant = s.variant ∧ z.pending = s.pending :=
  ⟨_, rfl, by simp⟩

@[simp] theorem copyServed_kept (src tenant : Nat) (s : State) :
    (copyServed src tenant s).flash.mem = s.flash.mem ∧ (copyServed src tenant s).variant = s.variant ∧
    (copyServed src tenant s).pending = s.pending := by unfold copyServed; split <;> simp

theorem execForwardCopyDone_kept (dt src tenant : Nat) (s : State) :
    ∃ z, execForwardCopyDone dt src tenant s = .next z ∧ z.flash.mem = s.flash.mem ∧ z.variant = s.variant ∧
    z.pending = s.pending :=
  ⟨_, rfl, by simp⟩

theorem execJobLedgerRead_kept (dt : Nat) (s : State) :
    ∃ z, execJobLedgerRead dt s = .next z ∧ z.flash.mem = s.flash.mem ∧ z.variant = s.variant ∧ z.pending = s.pending :=
  ⟨_, rfl, by simp⟩

/-! ### CanopyFam -/

theorem execClassificationStart_kept (dt : Nat) (s : State) :
    ∃ z, execClassificationStart dt s = .next z ∧ z.flash.mem = s.flash.mem ∧ z.variant = s.variant ∧
    z.pending = s.pending :=
  ⟨_, rfl, by simp⟩

theorem execClassificationEnd_kept (s : State) :
    ∃ z, execClassificationEnd s = .next z ∧ z.flash.mem = s.flash.mem ∧ z.variant = s.variant ∧
    z.pending = s.pending :=
  ⟨_, rfl, by simp⟩

theorem execCanopyWriteEffect_kept (dt : Nat) (s : State) :
    ∃ z, execCanopyWriteEffect dt s = .next z ∧ z.flash.mem = s.flash.mem ∧ z.variant = s.variant ∧
    z.pending = s.pending :=
  ⟨_, rfl, by simp⟩

theorem execCanopyHold_kept (dt : Nat) (s : State) :
    ∃ z, execCanopyHold dt s = .next z ∧ z.flash.mem = s.flash.mem ∧ z.variant = s.variant ∧ z.pending = s.pending :=
  ⟨_, rfl, by simp⟩

theorem execCanopyResume_kept (dt : Nat) (s : State) :
    ∃ z, execCanopyResume dt s = .next z ∧ z.flash.mem = s.flash.mem ∧ z.variant = s.variant ∧ z.pending = s.pending :=
  ⟨_, rfl, by simp⟩

theorem execSourceGapRemove_kept (dt : Nat) (s : State) :
    ∃ z, execSourceGapRemove dt s = .next z ∧ z.flash.mem = s.flash.mem ∧ z.variant = s.variant ∧
    z.pending = s.pending :=
  ⟨_, rfl, by simp⟩

theorem execTenantEnable_kept (dt t : Nat) (s : State) :
    ∃ z, execTenantEnable dt t s = .next z ∧ z.flash.mem = s.flash.mem ∧ z.variant = s.variant ∧
    z.pending = s.pending :=
  ⟨_, rfl, by simp⟩

theorem execTenantDisable_kept (dt t : Nat) (s : State) :
    ∃ z, execTenantDisable dt t s = .next z ∧ z.flash.mem = s.flash.mem ∧ z.variant = s.variant ∧
    z.pending = s.pending :=
  ⟨_, rfl, by simp⟩

theorem execKeyWrite_kept (dt t : Nat) (k0 k1 k2 k3 : Word) (s : State) :
    ∃ z, execKeyWrite dt t k0 k1 k2 k3 s = .next z ∧ z.flash.mem = s.flash.mem ∧ z.variant = s.variant ∧
    z.pending = s.pending := by
  have h := answered_kept (keyFrame t ([k0, k1, k2, k3].flatMap wordBytes)) (elapse dt s) (fun s => by simp)
  exact ⟨_, rfl, by simpa using h⟩

/-! ### QueueFam -/


theorem execProducerAdmit_kept (dt q place : Nat) (s : State) :
    ∃ z, execProducerAdmit dt q place s = .next z ∧ z.flash.mem = s.flash.mem ∧ z.variant = s.variant ∧
    z.pending = s.pending := by
  refine ⟨_, rfl, ?_⟩
  split <;> simp

theorem execQueueWordWrite_kept (dt q : Nat) (s : State) :
    ∃ z, execQueueWordWrite dt q s = .next z ∧ z.flash.mem = s.flash.mem ∧ z.variant = s.variant ∧
    z.pending = s.pending :=
  ⟨_, rfl, by simp⟩

theorem execHeadMove_kept (dt q : Nat) (s : State) :
    ∃ z, execHeadMove dt q s = .next z ∧ z.flash.mem = s.flash.mem ∧ z.variant = s.variant ∧ z.pending = s.pending :=
  ⟨_, rfl, by simp⟩

theorem execSpill_kept (dt q : Nat) (s : State) :
    ∃ z, execSpill dt q s = .next z ∧ z.flash.mem = s.flash.mem ∧ z.variant = s.variant ∧ z.pending = s.pending :=
  ⟨_, rfl, by simp⟩

theorem execAllocationEnd_kept (dt q : Nat) (s : State) :
    ∃ z, execAllocationEnd dt q s = .next z ∧ z.flash.mem = s.flash.mem ∧ z.variant = s.variant ∧
    z.pending = s.pending :=
  ⟨_, rfl, by simp⟩

theorem execReleaseEnd_kept (dt q : Nat) (s : State) :
    ∃ z, execReleaseEnd dt q s = .next z ∧ z.flash.mem = s.flash.mem ∧ z.variant = s.variant ∧ z.pending = s.pending :=
  ⟨_, rfl, by simp⟩

theorem execRefill_kept (dt q : Nat) (bad : List (Nat × BitVec 36)) (s : State) :
    ∃ z, execRefill dt q bad s = .next z ∧ z.flash.mem = s.flash.mem ∧ z.variant = s.variant ∧ z.pending = s.pending :=
  ⟨_, rfl, by simp⟩

theorem execVerifyPass_kept (dt q : Nat) (s : State) :
    ∃ z, execVerifyPass dt q s = .next z ∧ z.flash.mem = s.flash.mem ∧ z.variant = s.variant ∧ z.pending = s.pending :=
  ⟨_, rfl, by simp⟩

@[simp] theorem sourceDiscard_kept (q : Nat) (s : State) :
    (sourceDiscard q s).flash.mem = s.flash.mem ∧ (sourceDiscard q s).variant = s.variant ∧
    (sourceDiscard q s).pending = s.pending := by unfold sourceDiscard; extract_lets; (repeat' split) <;> simp [*]

@[simp] theorem passServed_kept (q : Nat) (bad : List (Nat × BitVec 36)) (s : State) :
    (passServed q bad s).flash.mem = s.flash.mem ∧ (passServed q bad s).variant = s.variant ∧
    (passServed q bad s).pending = s.pending := by
  unfold passServed; dsimp only; split <;> simp

theorem execVerifyPassEnd_kept (dt q : Nat) (bad : List (Nat × BitVec 36)) (s : State) :
    ∃ z, execVerifyPassEnd dt q bad s = .next z ∧ z.flash.mem = s.flash.mem ∧ z.variant = s.variant ∧
    z.pending = s.pending := by
  unfold execVerifyPassEnd
  dsimp only
  split
  · exact ⟨_, rfl, by simp⟩
  · refine ⟨_, rfl, ?_⟩
    split <;> simp

theorem execGapWordWrite_kept (dt q : Nat) (s : State) :
    ∃ z, execGapWordWrite dt q s = .next z ∧ z.flash.mem = s.flash.mem ∧ z.variant = s.variant ∧
    z.pending = s.pending :=
  ⟨_, rfl, by simp⟩

theorem execClear_kept (dt q : Nat) (s : State) :
    ∃ z, execClear dt q s = .next z ∧ z.flash.mem = s.flash.mem ∧ z.variant = s.variant ∧ z.pending = s.pending :=
  ⟨_, rfl, by simp⟩

@[simp] theorem clearingOutside_kept (q : Nat) (s : State) :
    (clearingOutside q s).flash.mem = s.flash.mem ∧ (clearingOutside q s).variant = s.variant ∧
    (clearingOutside q s).pending = s.pending := by
  unfold clearingOutside
  extract_lets
  rename_i a
  have ha : a.flash.mem = s.flash.mem ∧ a.variant = s.variant ∧ a.pending = s.pending := by simp only [a]; split <;> simp
  clear_value a
  (repeat' split) <;> simp [ha]

theorem execClearingEffect_kept (dt q : Nat) (s : State) :
    ∃ z, execClearingEffect dt q s = .next z ∧ z.flash.mem = s.flash.mem ∧ z.variant = s.variant ∧
    z.pending = s.pending := by
  refine ⟨_, rfl, ?_⟩
  split <;> simp

theorem execClearingEnd_kept (dt q : Nat) (s : State) :
    ∃ z, execClearingEnd dt q s = .next z ∧ z.flash.mem = s.flash.mem ∧ z.variant = s.variant ∧ z.pending = s.pending :=
  ⟨_, rfl, by simp⟩

theorem execBlkFreeRead_kept (dt : Nat) (s : State) :
    ∃ z, execBlkFreeRead dt s = .next z ∧ z.flash.mem = s.flash.mem ∧ z.variant = s.variant ∧ z.pending = s.pending :=
  ⟨_, rfl, by simp⟩

theorem execCrGuarUsedRead_kept (dt : Nat) (s : State) :
    ∃ z, execCrGuarUsedRead dt s = .next z ∧ z.flash.mem = s.flash.mem ∧ z.variant = s.variant ∧
    z.pending = s.pending :=
  ⟨_, rfl, by simp⟩

/-! ### PortFam -/

theorem execRead_kept (dt arg cnt crc rest : Nat) (s : State) :
    ∃ z, execRead dt arg cnt crc rest s = .next z ∧ z.flash.mem = s.flash.mem ∧ z.variant = s.variant ∧
    z.pending = s.pending :=
  ⟨_, rfl, by simp⟩

theorem execWrite_kept (dt arg : Nat) (data : List Word) (crc : Nat) (s : State) :
    ∃ z, execWrite dt arg data crc s = .next z ∧ z.flash.mem = s.flash.mem ∧ z.variant = s.variant ∧
    z.pending = s.pending :=
  ⟨_, rfl, by simp⟩

theorem execQread_kept (dt arg n crc : Nat) (s : State) :
    ∃ z, execQread dt arg n crc s = .next z ∧ z.flash.mem = s.flash.mem ∧ z.variant = s.variant ∧
    z.pending = s.pending :=
  ⟨_, rfl, by simp⟩

theorem execQreadRepeat_kept (dt q n crc : Nat) (s : State) :
    ∃ z, execQreadRepeat dt q n crc s = .next z ∧ z.flash.mem = s.flash.mem ∧ z.variant = s.variant ∧
    z.pending = s.pending :=
  ⟨_, rfl, by simp⟩

theorem execQreadWaitEnd_kept (dt : Nat) (s : State) :
    ∃ z, execQreadWaitEnd dt s = .next z ∧ z.flash.mem = s.flash.mem ∧ z.variant = s.variant ∧ z.pending = s.pending :=
  ⟨_, rfl, by simp⟩

theorem execQreadAbandon_kept (dt : Nat) (s : State) :
    ∃ z, execQreadAbandon dt s = .next z ∧ z.flash.mem = s.flash.mem ∧ z.variant = s.variant ∧ z.pending = s.pending :=
  ⟨_, rfl, by simp⟩

theorem execQwrite_kept (dt arg : Nat) (words : List (Nat × Word)) (crc : Nat) (s : State) :
    ∃ z, execQwrite dt arg words crc s = .next z ∧ z.flash.mem = s.flash.mem ∧ z.variant = s.variant ∧
    z.pending = s.pending :=
  ⟨_, rfl, by simp⟩

theorem execQwriteDone_kept (dt : Nat) (s : State) :
    ∃ z, execQwriteDone dt s = .next z ∧ z.flash.mem = s.flash.mem ∧ z.variant = s.variant ∧ z.pending = s.pending :=
  ⟨_, rfl, by simp⟩

theorem execQwriteCsRise_kept (dt : Nat) (s : State) :
    ∃ z, execQwriteCsRise dt s = .next z ∧ z.flash.mem = s.flash.mem ∧ z.variant = s.variant ∧ z.pending = s.pending :=
  ⟨_, rfl, by simp⟩

theorem execStatus_kept (dt arg cnt crc : Nat) (s : State) :
    ∃ z, execStatus dt arg cnt crc s = .next z ∧ z.flash.mem = s.flash.mem ∧ z.variant = s.variant ∧
    z.pending = s.pending :=
  ⟨_, rfl, by simp⟩

theorem execUnknownOpcode_kept (dt op arg cnt crc : Nat) (s : State) :
    ∃ z, execUnknownOpcode dt op arg cnt crc s = .next z ∧ z.flash.mem = s.flash.mem ∧ z.variant = s.variant ∧
    z.pending = s.pending := by
  refine ⟨_, rfl, ?_⟩
  split <;> simp

theorem execFrameAbort_kept (dt : Nat) (s : State) :
    ∃ z, execFrameAbort dt s = .next z ∧ z.flash.mem = s.flash.mem ∧ z.variant = s.variant ∧ z.pending = s.pending :=
  ⟨_, rfl, by simp⟩

theorem execWindowSpaceWrite_kept (dt w : Nat) (value : Word) (s : State) :
    ∃ z, execWindowSpaceWrite dt w value s = .next z ∧ z.flash.mem = s.flash.mem ∧ z.variant = s.variant ∧
    z.pending = s.pending :=
  ⟨_, rfl, by simp⟩

theorem execHcmdGo_kept (dt : Nat) (s : State) :
    ∃ z, execHcmdGo dt s = .next z ∧ z.flash.mem = s.flash.mem ∧ z.variant = s.variant ∧ z.pending = s.pending :=
  ⟨_, rfl, by simp⟩

theorem execBodyClr_kept (dt : Nat) (s : State) :
    ∃ z, execBodyClr dt s = .next z ∧ z.flash.mem = s.flash.mem ∧ z.variant = s.variant ∧ z.pending = s.pending :=
  ⟨_, rfl, by simp⟩

theorem execHcmdBodyWrite_kept (dt : Nat) (value : Word) (s : State) :
    ∃ z, execHcmdBodyWrite dt value s = .next z ∧ z.flash.mem = s.flash.mem ∧ z.variant = s.variant ∧
    z.pending = s.pending :=
  ⟨_, rfl, by simp⟩

theorem execRegisterWrite_kept (dt space addr : Nat) (value : Word) (s : State) :
    ∃ z, execRegisterWrite dt space addr value s = .next z ∧ z.flash.mem = s.flash.mem ∧ z.variant = s.variant ∧
    z.pending = s.pending :=
  ⟨_, rfl, by simp⟩

/-! ### UplinkFam -/

theorem execEthFrameReceived_kept (dt u : Nat) (frame : List Byte) (rxer : Bool) (s : State) :
    ∃ z, execEthFrameReceived dt u frame rxer s = .next z ∧ z.flash.mem = s.flash.mem ∧ z.variant = s.variant ∧
    z.pending = s.pending :=
  ⟨_, rfl, by simp⟩

theorem execArpRequest_kept (dt u : Nat) (s : State) :
    ∃ z, execArpRequest dt u s = .next z ∧ z.flash.mem = s.flash.mem ∧ z.variant = s.variant ∧ z.pending = s.pending :=
  ⟨_, rfl, by simp⟩

theorem execEchoRequest_kept (dt u : Nat) (s : State) :
    ∃ z, execEchoRequest dt u s = .next z ∧ z.flash.mem = s.flash.mem ∧ z.variant = s.variant ∧ z.pending = s.pending :=
  ⟨_, rfl, by simp⟩

theorem execSubscribe_kept (dt u : Nat) (s : State) :
    ∃ z, execSubscribe dt u s = .next z ∧ z.flash.mem = s.flash.mem ∧ z.variant = s.variant ∧
    z.pending = s.pending := by
  have h := onRequest_kept u 1 (doSubscribe u) (elapse dt s) (fun a s => by simp)
  exact ⟨_, rfl, by simpa using h⟩

theorem execPull_kept (dt u : Nat) (bad : List (Nat × BitVec 36)) (s : State) :
    ∃ z, execPull dt u bad s = .next z ∧ z.flash.mem = s.flash.mem ∧ z.variant = s.variant ∧ z.pending = s.pending := by
  have h := onRequest_kept u 2 (doPull u bad) (elapse dt s) (fun a s => by simp)
  exact ⟨_, rfl, by simpa using h⟩

theorem execCommand_kept (dt u : Nat) (s : State) :
    ∃ z, execCommand dt u s = .next z ∧ z.flash.mem = s.flash.mem ∧ z.variant = s.variant ∧ z.pending = s.pending := by
  have h := onRequest_kept u 3 (doCommand u) (elapse dt s) (fun a s => by simp)
  exact ⟨_, rfl, by simpa using h⟩

theorem execTalkerStatus_kept (dt u : Nat) (s : State) :
    ∃ z, execTalkerStatus dt u s = .next z ∧ z.flash.mem = s.flash.mem ∧ z.variant = s.variant ∧
    z.pending = s.pending := by
  have h := onRequest_kept u 4 (doTalkerStatus u) (elapse dt s) (fun a s => by simp)
  exact ⟨_, rfl, by simpa using h⟩

theorem execTenantStatus_kept (dt u : Nat) (s : State) :
    ∃ z, execTenantStatus dt u s = .next z ∧ z.flash.mem = s.flash.mem ∧ z.variant = s.variant ∧
    z.pending = s.pending := by
  have h := onRequest_kept u 5 (doStatus u) (elapse dt s) (fun a s => by simp)
  exact ⟨_, rfl, by simpa using h⟩

theorem execRefusalSend_kept (u : Nat) (s : State) :
    ∃ z, execRefusalSend u s = .next z ∧ z.flash.mem = s.flash.mem ∧ z.variant = s.variant ∧ z.pending = s.pending :=
  ⟨_, rfl, by simp⟩

theorem execMdioFrame_kept (dt : Nat) (value : Word) (s : State) :
    ∃ z, execMdioFrame dt value s = .next z ∧ z.flash.mem = s.flash.mem ∧ z.variant = s.variant ∧
    z.pending = s.pending :=
  ⟨_, rfl, by simp⟩

theorem execMdioFrameEnd_kept (rdata : Nat) (s : State) :
    ∃ z, execMdioFrameEnd rdata s = .next z ∧ z.flash.mem = s.flash.mem ∧ z.variant = s.variant ∧
    z.pending = s.pending :=
  ⟨_, rfl, by simp⟩

theorem execAutopollRead_kept (dt u reg1 : Nat) (s : State) :
    ∃ z, execAutopollRead dt u reg1 s = .next z ∧ z.flash.mem = s.flash.mem ∧ z.variant = s.variant ∧
    z.pending = s.pending :=
  ⟨_, rfl, by simp⟩

theorem execUplinkRecordTake_kept (dt u t : Nat) (bad : List (Nat × BitVec 36)) (s : State) :
    ∃ z, execUplinkRecordTake dt u t bad s = .next z ∧ z.flash.mem = s.flash.mem ∧ z.variant = s.variant ∧
    z.pending = s.pending :=
  ⟨_, rfl, by simp⟩

theorem execBatchClose_kept (dt t : Nat) (s : State) :
    ∃ z, execBatchClose dt t s = .next z ∧ z.flash.mem = s.flash.mem ∧ z.variant = s.variant ∧ z.pending = s.pending :=
  ⟨_, rfl, by simp⟩

theorem execDatagramBuild_kept (dt u : Nat) (s : State) :
    ∃ z, execDatagramBuild dt u s = .next z ∧ z.flash.mem = s.flash.mem ∧ z.variant = s.variant ∧
    z.pending = s.pending :=
  ⟨_, rfl, by simp⟩

theorem execDatagramHandoff_kept (dt u : Nat) (s : State) :
    ∃ z, execDatagramHandoff dt u s = .next z ∧ z.flash.mem = s.flash.mem ∧ z.variant = s.variant ∧
    z.pending = s.pending :=
  ⟨_, rfl, by simp⟩

theorem execUplinkLeaveRetry_kept (u : Nat) (s : State) :
    ∃ z, execUplinkLeaveRetry u s = .next z ∧ z.flash.mem = s.flash.mem ∧ z.variant = s.variant ∧
    z.pending = s.pending :=
  ⟨_, rfl, by simp⟩

theorem execUplinkLeaveRelease_kept (u : Nat) (s : State) :
    ∃ z, execUplinkLeaveRelease u s = .next z ∧ z.flash.mem = s.flash.mem ∧ z.variant = s.variant ∧
    z.pending = s.pending :=
  ⟨_, rfl, by simp⟩

theorem execListenerRender_kept (dt p : Nat) (bad : List (Nat × BitVec 36)) (s : State) :
    ∃ z, execListenerRender dt p bad s = .next z ∧ z.flash.mem = s.flash.mem ∧ z.variant = s.variant ∧
    z.pending = s.pending :=
  ⟨_, rfl, by simp⟩

theorem execListenerRenderDone_kept (dt p : Nat) (s : State) :
    ∃ z, execListenerRenderDone dt p s = .next z ∧ z.flash.mem = s.flash.mem ∧ z.variant = s.variant ∧
    z.pending = s.pending :=
  ⟨_, rfl, by simp⟩

/-! ### GuardFam -/

theorem execGread_kept (dt : Nat) (who : GlTarget) (reg count : Nat) (o : GlOutcome) (s : State) :
    ∃ z, execGread dt who reg count o s = .next z ∧ z.flash.mem = s.flash.mem ∧ z.variant = s.variant ∧
    z.pending = s.pending := by
  refine ⟨_, rfl, ?_⟩
  split <;> simp

theorem execGwrite_kept (dt : Nat) (wide : Bool) (i : Nat) (o : GlOutcome) (s : State) :
    ∃ z, execGwrite dt wide i o s = .next z ∧ z.flash.mem = s.flash.mem ∧ z.variant = s.variant ∧
    z.pending = s.pending := by
  refine ⟨_, rfl, ?_⟩
  split <;> simp

theorem execTrimStart_kept (dt p : Nat) (o : GlOutcome) (s : State) :
    ∃ z, execTrimStart dt p o s = .next z ∧ z.flash.mem = s.flash.mem ∧ z.variant = s.variant ∧ z.pending = s.pending :=
  ⟨_, rfl, by simp⟩

theorem execSliceStart_kept (dt p : Nat) (o : GlOutcome) (s : State) :
    ∃ z, execSliceStart dt p o s = .next z ∧ z.flash.mem = s.flash.mem ∧ z.variant = s.variant ∧
    z.pending = s.pending :=
  ⟨_, rfl, by simp⟩

theorem execPwrSwitch_kept (dt p : Nat) (on : Bool) (vfield : Nat) (o : GlOutcome) (s : State) :
    ∃ z, execPwrSwitch dt p on vfield o s = .next z ∧ z.flash.mem = s.flash.mem ∧ z.variant = s.variant ∧
    z.pending = s.pending :=
  ⟨_, rfl, by simp⟩

theorem execAlertFetch_kept (dt k : Nat) (startLines : List Nat) (o : GlOutcome) (s : State) :
    ∃ z, execAlertFetch dt k startLines o s = .next z ∧ z.flash.mem = s.flash.mem ∧ z.variant = s.variant ∧
    z.pending = s.pending :=
  ⟨_, rfl, by simp⟩

theorem execIdent_kept (dt k : Nat) (o : GlOutcome) (s : State) :
    ∃ z, execIdent dt k o s = .next z ∧ z.flash.mem = s.flash.mem ∧ z.variant = s.variant ∧ z.pending = s.pending := by
  refine ⟨_, rfl, ?_⟩
  split <;> simp

theorem execFwBlock_kept (dt k : Nat) (o : GlOutcome) (s : State) :
    ∃ z, execFwBlock dt k o s = .next z ∧ z.flash.mem = s.flash.mem ∧ z.variant = s.variant ∧ z.pending = s.pending :=
  ⟨_, rfl, by simp⟩

theorem execFwActivate_kept (dt k : Nat) (o : GlOutcome) (s : State) :
    ∃ z, execFwActivate dt k o s = .next z ∧ z.flash.mem = s.flash.mem ∧ z.variant = s.variant ∧
    z.pending = s.pending :=
  ⟨_, rfl, by simp⟩

theorem execGlAlertN_kept (dt : Nat) (s : State) :
    ∃ z, execGlAlertN dt s = .next z ∧ z.flash.mem = s.flash.mem ∧ z.variant = s.variant ∧ z.pending = s.pending :=
  ⟨_, rfl, by simp⟩

theorem execShadowRefresh_kept (dt k vfield : Nat) (temp : Int) (meas : List LineReading) (o : GlOutcome) (s : State) :
    ∃ z, execShadowRefresh dt k vfield temp meas o s = .next z ∧ z.flash.mem = s.flash.mem ∧ z.variant = s.variant ∧
    z.pending = s.pending :=
  ⟨_, rfl, by simp⟩

theorem execCmFault_kept (dt p : Nat) (s : State) :
    ∃ z, execCmFault dt p s = .next z ∧ z.flash.mem = s.flash.mem ∧ z.variant = s.variant ∧ z.pending = s.pending :=
  ⟨_, rfl, by simp⟩

theorem execCmFaultEnd_kept (dt p : Nat) (s : State) :
    ∃ z, execCmFaultEnd dt p s = .next z ∧ z.flash.mem = s.flash.mem ∧ z.variant = s.variant ∧ z.pending = s.pending :=
  ⟨_, rfl, by simp⟩

theorem execPwrEnSet_kept (dt p : Nat) (s : State) :
    ∃ z, execPwrEnSet dt p s = .next z ∧ z.flash.mem = s.flash.mem ∧ z.variant = s.variant ∧ z.pending = s.pending :=
  ⟨_, rfl, by simp⟩

theorem execPwrEnClear_kept (dt p : Nat) (s : State) :
    ∃ z, execPwrEnClear dt p s = .next z ∧ z.flash.mem = s.flash.mem ∧ z.variant = s.variant ∧ z.pending = s.pending :=
  ⟨_, rfl, by simp⟩

theorem execInrushTimerExpiry_kept (p : Nat) (reached : Bool) (s : State) :
    ∃ z, execInrushTimerExpiry p reached s = .next z ∧ z.flash.mem = s.flash.mem ∧ z.variant = s.variant ∧
    z.pending = s.pending :=
  ⟨_, rfl, by simp⟩

theorem execPwrFault_kept (dt p cause : Nat) (s : State) :
    ∃ z, execPwrFault dt p cause s = .next z ∧ z.flash.mem = s.flash.mem ∧ z.variant = s.variant ∧
    z.pending = s.pending :=
  ⟨_, rfl, by simp⟩

theorem execRetryWaitExpiry_kept (p : Nat) (s : State) :
    ∃ z, execRetryWaitExpiry p s = .next z ∧ z.flash.mem = s.flash.mem ∧ z.variant = s.variant ∧
    z.pending = s.pending :=
  ⟨_, rfl, by simp⟩

theorem execTrimReq_kept (dt p : Nat) (s : State) :
    ∃ z, execTrimReq dt p s = .next z ∧ z.flash.mem = s.flash.mem ∧ z.variant = s.variant ∧ z.pending = s.pending :=
  ⟨_, rfl, by simp⟩

theorem execTrimWanted_kept (dt p : Nat) (temp : Int) (s : State) :
    ∃ z, execTrimWanted dt p temp s = .next z ∧ z.flash.mem = s.flash.mem ∧ z.variant = s.variant ∧
    z.pending = s.pending :=
  ⟨_, rfl, by simp⟩

theorem execGuardLineEnable_kept (dt p : Nat) (s : State) :
    ∃ z, execGuardLineEnable dt p s = .next z ∧ z.flash.mem = s.flash.mem ∧ z.variant = s.variant ∧
    z.pending = s.pending :=
  ⟨_, rfl, by simp⟩

theorem execTrimDeferTimeout_kept (p : Nat) (s : State) :
    ∃ z, execTrimDeferTimeout p s = .next z ∧ z.flash.mem = s.flash.mem ∧ z.variant = s.variant ∧
    z.pending = s.pending :=
  ⟨_, rfl, by simp⟩

theorem execTrimEnd_kept (dt p : Nat) (codes : Option (Nat × Nat)) (s : State) :
    ∃ z, execTrimEnd dt p codes s = .next z ∧ z.flash.mem = s.flash.mem ∧ z.variant = s.variant ∧
    z.pending = s.pending :=
  ⟨_, rfl, by simp⟩

theorem execLeakMeasurementStart_kept (p : Nat) (s : State) :
    ∃ z, execLeakMeasurementStart p s = .next z ∧ z.flash.mem = s.flash.mem ∧ z.variant = s.variant ∧
    z.pending = s.pending :=
  ⟨_, rfl, by simp⟩

theorem execSliceSkip_kept (dt p : Nat) (s : State) :
    ∃ z, execSliceSkip dt p s = .next z ∧ z.flash.mem = s.flash.mem ∧ z.variant = s.variant ∧ z.pending = s.pending :=
  ⟨_, rfl, by simp⟩

theorem execSliceEnd_kept (p kohm : Nat) (s : State) :
    ∃ z, execSliceEnd p kohm s = .next z ∧ z.flash.mem = s.flash.mem ∧ z.variant = s.variant ∧ z.pending = s.pending :=
  ⟨_, rfl, by simp⟩

theorem execSlicePreempt_kept (dt p : Nat) (s : State) :
    ∃ z, execSlicePreempt dt p s = .next z ∧ z.flash.mem = s.flash.mem ∧ z.variant = s.variant ∧
    z.pending = s.pending :=
  ⟨_, rfl, by simp⟩

theorem execLeakWindowExpiry_kept (p : Nat) (s : State) :
    ∃ z, execLeakWindowExpiry p s = .next z ∧ z.flash.mem = s.flash.mem ∧ z.variant = s.variant ∧
    z.pending = s.pending :=
  ⟨_, rfl, by simp⟩

theorem execGuardDieHot_kept (dt k : Nat) (temp : Int) (s : State) :
    ∃ z, execGuardDieHot dt k temp s = .next z ∧ z.flash.mem = s.flash.mem ∧ z.variant = s.variant ∧
    z.pending = s.pending :=
  ⟨_, rfl, by simp⟩

/-! ### LeaveFam -/

theorem execLeaveGrant_kept (dt : Nat) (s : State) :
    ∃ z, execLeaveGrant dt s = .next z ∧ z.flash.mem = s.flash.mem ∧ z.variant = s.variant ∧ z.pending = s.pending :=
  ⟨_, rfl, by simp⟩

theorem execLeaveTimeout_kept (s : State) :
    ∃ z, execLeaveTimeout s = .next z ∧ z.flash.mem = s.flash.mem ∧ z.variant = s.variant ∧ z.pending = s.pending :=
  ⟨_, rfl, by simp⟩

theorem execBudgetWrite_kept (dt : Nat) (field : Bool) (units : Nat) (s : State) :
    ∃ z, execBudgetWrite dt field units s = .next z ∧ z.flash.mem = s.flash.mem ∧ z.variant = s.variant ∧
    z.pending = s.pending :=
  ⟨_, rfl, by simp⟩

theorem execBudgetChangeEffect_kept (dt : Nat) (s : State) :
    ∃ z, execBudgetChangeEffect dt s = .next z ∧ z.flash.mem = s.flash.mem ∧ z.variant = s.variant ∧
    z.pending = s.pending :=
  ⟨_, rfl, by simp⟩

theorem execLvLedgerRead_kept (dt : Nat) (s : State) :
    ∃ z, execLvLedgerRead dt s = .next z ∧ z.flash.mem = s.flash.mem ∧ z.variant = s.variant ∧ z.pending = s.pending :=
  ⟨_, rfl, by simp⟩

theorem execDieTempUpdate_kept (dt : Nat) (temp : Int) (s : State) :
    ∃ z, execDieTempUpdate dt temp s = .next z ∧ z.flash.mem = s.flash.mem ∧ z.variant = s.variant ∧
    z.pending = s.pending :=
  ⟨_, rfl, by simp⟩

/-! ### UpdateFam -/

theorem stumpRow_kept (own : Nat → List Byte → Bool) (act : List Byte → State → State) (svcEn : Bool)
    (raw : List SvcChar) (s : State) (hf : ∀ b s, (act b s).flash.mem = s.flash.mem ∧ (act b s).variant = s.variant ∧
    (act b s).pending = s.pending) : (stumpRow own act svcEn raw s).flash.mem = s.flash.mem ∧
    (stumpRow own act svcEn raw s).variant = s.variant ∧ (stumpRow own act svcEn raw s).pending = s.pending := by
  unfold stumpRow
  simp [stump_kept _ _ _ _ hf]

theorem execPing_kept (dt : Nat) (svcEn : Bool) (raw : List SvcChar) (s : State) :
    ∃ z, execPing dt svcEn raw s = .next z ∧ z.flash.mem = s.flash.mem ∧ z.variant = s.variant ∧
    z.pending = s.pending := by
  have h := stumpRow_kept (isCmd 0x01) doPing svcEn raw (elapse dt s) (fun b s => by simp)
  exact ⟨_, rfl, by simpa using h⟩

theorem execInfo_kept (dt : Nat) (svcEn : Bool) (raw : List SvcChar) (s : State) :
    ∃ z, execInfo dt svcEn raw s = .next z ∧ z.flash.mem = s.flash.mem ∧ z.variant = s.variant ∧
    z.pending = s.pending := by
  have h := stumpRow_kept (isCmd 0x02) doInfo svcEn raw (elapse dt s) (fun b s => by simp)
  exact ⟨_, rfl, by simpa using h⟩

theorem execSetBaud_kept (dt : Nat) (svcEn : Bool) (raw : List SvcChar) (s : State) :
    ∃ z, execSetBaud dt svcEn raw s = .next z ∧ z.flash.mem = s.flash.mem ∧ z.variant = s.variant ∧
    z.pending = s.pending := by
  have h := stumpRow_kept (isCmd 0x03) doSetBaud svcEn raw (elapse dt s) (fun b s => by simp)
  exact ⟨_, rfl, by simpa using h⟩

theorem execSvcBaudFallback_kept (s : State) :
    ∃ z, execSvcBaudFallback s = .next z ∧ z.flash.mem = s.flash.mem ∧ z.variant = s.variant ∧ z.pending = s.pending :=
  ⟨_, rfl, by simp⟩

theorem execBegin_kept (dt : Nat) (svcEn : Bool) (raw : List SvcChar) (s : State) :
    ∃ z, execBegin dt svcEn raw s = .next z ∧ z.flash.mem = s.flash.mem ∧ z.variant = s.variant ∧
    z.pending = s.pending := by
  have h := stumpRow_kept (isCmd 0x10) doBegin svcEn raw (elapse dt s) (fun b s => by simp)
  exact ⟨_, rfl, by simpa using h⟩

theorem execBlock_kept (dt : Nat) (svcEn : Bool) (raw : List SvcChar) (s : State) :
    ∃ z, execBlock dt svcEn raw s = .next z ∧ z.flash.mem = s.flash.mem ∧ z.variant = s.variant ∧
    z.pending = s.pending := by
  have h := stumpRow_kept (isCmd 0x11) doBlock svcEn raw (elapse dt s) (fun b s => by simp)
  exact ⟨_, rfl, by simpa using h⟩

theorem execEnd_kept (dt : Nat) (svcEn : Bool) (raw : List SvcChar) (s : State) :
    ∃ z, execEnd dt svcEn raw s = .next z ∧ z.flash.mem = s.flash.mem ∧ z.variant = s.variant ∧
    z.pending = s.pending := by
  have h := stumpRow_kept (isCmd 0x12) doEnd svcEn raw (elapse dt s) (fun b s => by simp)
  exact ⟨_, rfl, by simpa using h⟩

theorem execActivateParts_kept (dt : Nat) (svcEn : Bool) (raw : List SvcChar) (s : State) :
    ∃ z, execActivateParts dt svcEn raw s = .next z ∧ z.flash.mem = s.flash.mem ∧ z.variant = s.variant ∧
    z.pending = s.pending := by
  have h := stumpRow_kept (fun c pl => c == 0x13 && pl != [2#8]) doActivateParts svcEn raw (elapse dt s) (fun b s => by simp)
  exact ⟨_, rfl, by simpa using h⟩

theorem execActivateCore_kept (dt : Nat) (svcEn : Bool) (raw : List SvcChar) (s : State) :
    ∃ z, execActivateCore dt svcEn raw s = .next z ∧ z.flash.mem = s.flash.mem ∧ z.variant = s.variant ∧
    z.pending = s.pending := by
  have h := stumpRow_kept (fun c pl => c == 0x13 && pl == [2#8]) doActivateCore svcEn raw (elapse dt s) (fun b s => by simp)
  exact ⟨_, rfl, by simpa using h⟩

theorem execAbort_kept (dt : Nat) (svcEn : Bool) (raw : List SvcChar) (s : State) :
    ∃ z, execAbort dt svcEn raw s = .next z ∧ z.flash.mem = s.flash.mem ∧ z.variant = s.variant ∧
    z.pending = s.pending := by
  have h := stumpRow_kept (isCmd 0x14) doAbort svcEn raw (elapse dt s) (fun b s => by simp)
  exact ⟨_, rfl, by simpa using h⟩

theorem execSvcStatus_kept (dt : Nat) (svcEn : Bool) (raw : List SvcChar) (s : State) :
    ∃ z, execSvcStatus dt svcEn raw s = .next z ∧ z.flash.mem = s.flash.mem ∧ z.variant = s.variant ∧
    z.pending = s.pending := by
  have h := stumpRow_kept (isCmd 0x15) doSvcStatus svcEn raw (elapse dt s) (fun b s => by simp)
  exact ⟨_, rfl, by simpa using h⟩

theorem execRestart_kept (dt : Nat) (svcEn : Bool) (raw : List SvcChar) (s : State) :
    ∃ z, execRestart dt svcEn raw s = .next z ∧ z.flash.mem = s.flash.mem ∧ z.variant = s.variant ∧
    z.pending = s.pending := by
  have h := stumpRow_kept (isCmd 0x20) doRestart svcEn raw (elapse dt s) (fun b s => by simp)
  exact ⟨_, rfl, by simpa using h⟩

theorem execGfActivationEnd_kept (dt k : Nat) (startLines : List Nat) (o : GlOutcome) (s : State) :
    ∃ z, execGfActivationEnd dt k startLines o s = .next z ∧ z.flash.mem = s.flash.mem ∧ z.variant = s.variant ∧
    z.pending = s.pending :=
  ⟨_, rfl, by simp⟩

theorem execGfActivationTimeout_kept (k : Nat) (s : State) :
    ∃ z, execGfActivationTimeout k s = .next z ∧ z.flash.mem = s.flash.mem ∧ z.variant = s.variant ∧
    z.pending = s.pending :=
  ⟨_, rfl, by simp⟩

theorem execGfRestoreRetry_kept (k : Nat) (s : State) :
    ∃ z, execGfRestoreRetry k s = .next z ∧ z.flash.mem = s.flash.mem ∧ z.variant = s.variant ∧ z.pending = s.pending :=
  ⟨_, rfl, by simp⟩

theorem execPmActivation_kept (dt : Nat) (s : State) :
    ∃ z, execPmActivation dt s = .next z ∧ z.flash.mem = s.flash.mem ∧ z.variant = s.variant ∧ z.pending = s.pending :=
  ⟨_, rfl, by simp⟩

theorem execPmSelfTestEnd_kept (dt : Nat) (pass : Bool) (startLines : List Nat) (s : State) :
    ∃ z, execPmSelfTestEnd dt pass startLines s = .next z ∧ z.flash.mem = s.flash.mem ∧ z.variant = s.variant ∧
    z.pending = s.pending :=
  ⟨_, rfl, by simp⟩

theorem execServiceResumed_kept (dt : Nat) (s : State) :
    ∃ z, execServiceResumed dt s = .next z ∧ z.flash.mem = s.flash.mem ∧ z.variant = s.variant ∧
    z.pending = s.pending :=
  ⟨_, rfl, by simp⟩

theorem execCfConfirm_kept (dt : Nat) (s : State) :
    ∃ z, execCfConfirm dt s = .next z ∧ z.flash.mem = s.flash.mem ∧ z.variant = s.variant ∧ z.pending = s.pending :=
  ⟨_, rfl, by simp⟩

theorem execCfRevert_kept (s : State) :
    ∃ z, execCfRevert s = .next z ∧ z.flash.mem = s.flash.mem ∧ z.variant = s.variant ∧ z.pending = s.pending :=
  ⟨_, rfl, by simp⟩

theorem execRejectionMarkRetry_kept (s : State) :
    ∃ z, execRejectionMarkRetry s = .next z ∧ z.flash.mem = s.flash.mem ∧ z.variant = s.variant ∧
    z.pending = s.pending :=
  ⟨_, rfl, by simp⟩

theorem execJournalCommit_kept (dt : Nat) (s : State) :
    ∃ z, execJournalCommit dt s = .next z ∧ z.flash.mem = s.flash.mem ∧ z.variant = s.variant ∧ z.pending = s.pending :=
  ⟨_, rfl, by simp⟩

theorem execFlashProgramDone_kept (dt : Nat) (bad : Option (List Byte)) (s : State) :
    ∃ z, execFlashProgramDone dt bad s = .next z ∧ z.variant = s.variant ∧ z.pending = s.pending :=
  ⟨_, rfl, by simp⟩

theorem execFlashEraseDone_kept (dt : Nat) (bad : Option (Nat × Byte)) (s : State) :
    ∃ z, execFlashEraseDone dt bad s = .next z ∧ z.variant = s.variant ∧ z.pending = s.pending :=
  ⟨_, rfl, by simp⟩

theorem execEventNotice_kept (dt : Nat) (s : State) :
    ∃ z, execEventNotice dt s = .next z ∧ z.flash.mem = s.flash.mem ∧ z.variant = s.variant ∧ z.pending = s.pending :=
  ⟨_, rfl, by simp⟩

theorem execRingPageWrite_kept (dt : Nat) (s : State) :
    ∃ z, execRingPageWrite dt s = .next z ∧ z.flash.mem = s.flash.mem ∧ z.variant = s.variant ∧ z.pending = s.pending :=
  ⟨_, rfl, by simp⟩

theorem execRingPageRetry_kept (s : State) :
    ∃ z, execRingPageRetry s = .next z ∧ z.flash.mem = s.flash.mem ∧ z.variant = s.variant ∧ z.pending = s.pending :=
  ⟨_, rfl, by simp⟩

end Sys2Proof.Machine
end

