-- ==== Sys2Proof/Laws/State.lean ====
section
/-! SUPPORT. What each update of State leaves as it was, field by field: no later proof unfolds a record update. -/

namespace Sys2Proof.Machine

@[simp] theorem put_fields (f : Fld) (i v : Nat) (s : State) :
    (put f i v s).variant = s.variant ∧ (put f i v s).cyc = s.cyc ∧ (put f i v s).now = s.now ∧
    (put f i v s).ring = s.ring ∧ (put f i v s).clk = s.clk ∧ (put f i v s).sys = s.sys ∧ (put f i v s).mp = s.mp ∧
    (put f i v s).queues = s.queues ∧ (put f i v s).store = s.store ∧ (put f i v s).ports = s.ports ∧
    (put f i v s).cop = s.cop ∧ (put f i v s).polls = s.polls ∧ (put f i v s).groups = s.groups ∧
    (put f i v s).jobs = s.jobs ∧ (put f i v s).nextJob = s.nextJob ∧ (put f i v s).releases = s.releases ∧
    (put f i v s).canopy = s.canopy ∧ (put f i v s).tenants = s.tenants ∧ (put f i v s).cards = s.cards ∧
    (put f i v s).leave = s.leave ∧ (put f i v s).guards = s.guards ∧ (put f i v s).lines = s.lines ∧
    (put f i v s).lineCtl = s.lineCtl ∧ (put f i v s).uplinks = s.uplinks ∧ (put f i v s).mdio = s.mdio ∧
    (put f i v s).logs = s.logs ∧ (put f i v s).flash = s.flash ∧ (put f i v s).svc = s.svc ∧
    (put f i v s).cfg = s.cfg ∧ (put f i v s).free = s.free ∧ (put f i v s).pending = s.pending := by repeat' constructor

@[simp] theorem putHw_fields (f : Fld) (i v : Nat) (s : State) :
    (putHw f i v s).variant = s.variant ∧ (putHw f i v s).cyc = s.cyc ∧ (putHw f i v s).now = s.now ∧
    (putHw f i v s).ring = s.ring ∧ (putHw f i v s).clk = s.clk ∧ (putHw f i v s).sys = s.sys ∧
    (putHw f i v s).mp = s.mp ∧ (putHw f i v s).queues = s.queues ∧ (putHw f i v s).store = s.store ∧
    (putHw f i v s).ports = s.ports ∧ (putHw f i v s).cop = s.cop ∧ (putHw f i v s).polls = s.polls ∧
    (putHw f i v s).groups = s.groups ∧ (putHw f i v s).jobs = s.jobs ∧ (putHw f i v s).nextJob = s.nextJob ∧
    (putHw f i v s).releases = s.releases ∧ (putHw f i v s).canopy = s.canopy ∧ (putHw f i v s).tenants = s.tenants ∧
    (putHw f i v s).cards = s.cards ∧ (putHw f i v s).leave = s.leave ∧ (putHw f i v s).guards = s.guards ∧
    (putHw f i v s).lines = s.lines ∧ (putHw f i v s).lineCtl = s.lineCtl ∧ (putHw f i v s).uplinks = s.uplinks ∧
    (putHw f i v s).mdio = s.mdio ∧ (putHw f i v s).logs = s.logs ∧ (putHw f i v s).flash = s.flash ∧
    (putHw f i v s).svc = s.svc ∧ (putHw f i v s).cfg = s.cfg ∧ (putHw f i v s).free = s.free ∧
    (putHw f i v s).pending = s.pending := by
  unfold putHw; split <;> simp

@[simp] theorem putSw_fields (f : Fld) (i v : Nat) (s : State) :
    (putSw f i v s).variant = s.variant ∧ (putSw f i v s).now = s.now ∧ (putSw f i v s).ring = s.ring ∧
    (putSw f i v s).clk = s.clk ∧ (putSw f i v s).sys = s.sys ∧ (putSw f i v s).mp = s.mp ∧
    (putSw f i v s).queues = s.queues ∧ (putSw f i v s).store = s.store ∧ (putSw f i v s).ports = s.ports ∧
    (putSw f i v s).cop = s.cop ∧ (putSw f i v s).polls = s.polls ∧ (putSw f i v s).groups = s.groups ∧
    (putSw f i v s).jobs = s.jobs ∧ (putSw f i v s).nextJob = s.nextJob ∧ (putSw f i v s).releases = s.releases ∧
    (putSw f i v s).canopy = s.canopy ∧ (putSw f i v s).tenants = s.tenants ∧ (putSw f i v s).cards = s.cards ∧
    (putSw f i v s).leave = s.leave ∧ (putSw f i v s).guards = s.guards ∧ (putSw f i v s).lines = s.lines ∧
    (putSw f i v s).lineCtl = s.lineCtl ∧ (putSw f i v s).uplinks = s.uplinks ∧ (putSw f i v s).mdio = s.mdio ∧
    (putSw f i v s).logs = s.logs ∧ (putSw f i v s).flash = s.flash ∧ (putSw f i v s).svc = s.svc ∧
    (putSw f i v s).cfg = s.cfg ∧ (putSw f i v s).free = s.free ∧ (putSw f i v s).pending = s.pending := by repeat' constructor

@[simp] theorem bumpBy_fields (f : Fld) (i n : Nat) (s : State) :
    (bumpBy f i n s).variant = s.variant ∧ (bumpBy f i n s).now = s.now ∧ (bumpBy f i n s).ring = s.ring ∧
    (bumpBy f i n s).clk = s.clk ∧ (bumpBy f i n s).sys = s.sys ∧ (bumpBy f i n s).mp = s.mp ∧
    (bumpBy f i n s).queues = s.queues ∧ (bumpBy f i n s).store = s.store ∧ (bumpBy f i n s).ports = s.ports ∧
    (bumpBy f i n s).cop = s.cop ∧ (bumpBy f i n s).polls = s.polls ∧ (bumpBy f i n s).groups = s.groups ∧
    (bumpBy f i n s).jobs = s.jobs ∧ (bumpBy f i n s).nextJob = s.nextJob ∧ (bumpBy f i n s).releases = s.releases ∧
    (bumpBy f i n s).canopy = s.canopy ∧ (bumpBy f i n s).tenants = s.tenants ∧ (bumpBy f i n s).cards = s.cards ∧
    (bumpBy f i n s).leave = s.leave ∧ (bumpBy f i n s).guards = s.guards ∧ (bumpBy f i n s).lines = s.lines ∧
    (bumpBy f i n s).lineCtl = s.lineCtl ∧ (bumpBy f i n s).uplinks = s.uplinks ∧ (bumpBy f i n s).mdio = s.mdio ∧
    (bumpBy f i n s).logs = s.logs ∧ (bumpBy f i n s).flash = s.flash ∧ (bumpBy f i n s).svc = s.svc ∧
    (bumpBy f i n s).cfg = s.cfg ∧ (bumpBy f i n s).free = s.free ∧ (bumpBy f i n s).pending = s.pending := by repeat' constructor

@[simp] theorem bump_fields (f : Fld) (i : Nat) (s : State) :
    (bump f i s).variant = s.variant ∧ (bump f i s).now = s.now ∧ (bump f i s).ring = s.ring ∧
    (bump f i s).clk = s.clk ∧ (bump f i s).sys = s.sys ∧ (bump f i s).mp = s.mp ∧ (bump f i s).queues = s.queues ∧
    (bump f i s).store = s.store ∧ (bump f i s).ports = s.ports ∧ (bump f i s).cop = s.cop ∧
    (bump f i s).polls = s.polls ∧ (bump f i s).groups = s.groups ∧ (bump f i s).jobs = s.jobs ∧
    (bump f i s).nextJob = s.nextJob ∧ (bump f i s).releases = s.releases ∧ (bump f i s).canopy = s.canopy ∧
    (bump f i s).tenants = s.tenants ∧ (bump f i s).cards = s.cards ∧ (bump f i s).leave = s.leave ∧
    (bump f i s).guards = s.guards ∧ (bump f i s).lines = s.lines ∧ (bump f i s).lineCtl = s.lineCtl ∧
    (bump f i s).uplinks = s.uplinks ∧ (bump f i s).mdio = s.mdio ∧ (bump f i s).logs = s.logs ∧
    (bump f i s).flash = s.flash ∧ (bump f i s).svc = s.svc ∧ (bump f i s).cfg = s.cfg ∧ (bump f i s).free = s.free ∧
    (bump f i s).pending = s.pending := by repeat' constructor

@[simp] theorem putCtr_fields (f : Fld) (i v : Nat) (s : State) :
    (putCtr f i v s).variant = s.variant ∧ (putCtr f i v s).cyc = s.cyc ∧ (putCtr f i v s).now = s.now ∧
    (putCtr f i v s).ring = s.ring ∧ (putCtr f i v s).clk = s.clk ∧ (putCtr f i v s).sys = s.sys ∧
    (putCtr f i v s).mp = s.mp ∧ (putCtr f i v s).queues = s.queues ∧ (putCtr f i v s).store = s.store ∧
    (putCtr f i v s).ports = s.ports ∧ (putCtr f i v s).cop = s.cop ∧ (putCtr f i v s).polls = s.polls ∧
    (putCtr f i v s).groups = s.groups ∧ (putCtr f i v s).jobs = s.jobs ∧ (putCtr f i v s).nextJob = s.nextJob ∧
    (putCtr f i v s).releases = s.releases ∧ (putCtr f i v s).canopy = s.canopy ∧
    (putCtr f i v s).tenants = s.tenants ∧ (putCtr f i v s).cards = s.cards ∧ (putCtr f i v s).leave = s.leave ∧
    (putCtr f i v s).guards = s.guards ∧ (putCtr f i v s).lines = s.lines ∧ (putCtr f i v s).lineCtl = s.lineCtl ∧
    (putCtr f i v s).uplinks = s.uplinks ∧ (putCtr f i v s).mdio = s.mdio ∧ (putCtr f i v s).logs = s.logs ∧
    (putCtr f i v s).flash = s.flash ∧ (putCtr f i v s).svc = s.svc ∧ (putCtr f i v s).cfg = s.cfg ∧
    (putCtr f i v s).free = s.free ∧ (putCtr f i v s).pending = s.pending := by repeat' constructor

@[simp] theorem setBits_fields (f : Fld) (i m : Nat) (s : State) :
    (setBits f i m s).variant = s.variant ∧ (setBits f i m s).now = s.now ∧ (setBits f i m s).ring = s.ring ∧
    (setBits f i m s).clk = s.clk ∧ (setBits f i m s).sys = s.sys ∧ (setBits f i m s).mp = s.mp ∧
    (setBits f i m s).queues = s.queues ∧ (setBits f i m s).store = s.store ∧ (setBits f i m s).ports = s.ports ∧
    (setBits f i m s).cop = s.cop ∧ (setBits f i m s).polls = s.polls ∧ (setBits f i m s).groups = s.groups ∧
    (setBits f i m s).jobs = s.jobs ∧ (setBits f i m s).nextJob = s.nextJob ∧
    (setBits f i m s).releases = s.releases ∧ (setBits f i m s).canopy = s.canopy ∧
    (setBits f i m s).tenants = s.tenants ∧ (setBits f i m s).cards = s.cards ∧ (setBits f i m s).leave = s.leave ∧
    (setBits f i m s).guards = s.guards ∧ (setBits f i m s).lines = s.lines ∧ (setBits f i m s).lineCtl = s.lineCtl ∧
    (setBits f i m s).uplinks = s.uplinks ∧ (setBits f i m s).mdio = s.mdio ∧ (setBits f i m s).logs = s.logs ∧
    (setBits f i m s).flash = s.flash ∧ (setBits f i m s).svc = s.svc ∧ (setBits f i m s).cfg = s.cfg ∧
    (setBits f i m s).free = s.free ∧ (setBits f i m s).pending = s.pending := by repeat' constructor

@[simp] theorem clearBits_fields (f : Fld) (i m : Nat) (s : State) :
    (clearBits f i m s).variant = s.variant ∧ (clearBits f i m s).cyc = s.cyc ∧ (clearBits f i m s).now = s.now ∧
    (clearBits f i m s).ring = s.ring ∧ (clearBits f i m s).clk = s.clk ∧ (clearBits f i m s).sys = s.sys ∧
    (clearBits f i m s).mp = s.mp ∧ (clearBits f i m s).queues = s.queues ∧ (clearBits f i m s).store = s.store ∧
    (clearBits f i m s).ports = s.ports ∧ (clearBits f i m s).cop = s.cop ∧ (clearBits f i m s).polls = s.polls ∧
    (clearBits f i m s).groups = s.groups ∧ (clearBits f i m s).jobs = s.jobs ∧
    (clearBits f i m s).nextJob = s.nextJob ∧ (clearBits f i m s).releases = s.releases ∧
    (clearBits f i m s).canopy = s.canopy ∧ (clearBits f i m s).tenants = s.tenants ∧
    (clearBits f i m s).cards = s.cards ∧ (clearBits f i m s).leave = s.leave ∧
    (clearBits f i m s).guards = s.guards ∧ (clearBits f i m s).lines = s.lines ∧
    (clearBits f i m s).lineCtl = s.lineCtl ∧ (clearBits f i m s).uplinks = s.uplinks ∧
    (clearBits f i m s).mdio = s.mdio ∧ (clearBits f i m s).logs = s.logs ∧ (clearBits f i m s).flash = s.flash ∧
    (clearBits f i m s).svc = s.svc ∧ (clearBits f i m s).cfg = s.cfg ∧ (clearBits f i m s).free = s.free ∧
    (clearBits f i m s).pending = s.pending := by repeat' constructor

@[simp] theorem raise_fields (q f : Fld) (i : Nat) (s : State) :
    (raise q f i s).variant = s.variant ∧ (raise q f i s).now = s.now ∧ (raise q f i s).ring = s.ring ∧
    (raise q f i s).clk = s.clk ∧ (raise q f i s).sys = s.sys ∧ (raise q f i s).mp = s.mp ∧
    (raise q f i s).queues = s.queues ∧ (raise q f i s).store = s.store ∧ (raise q f i s).ports = s.ports ∧
    (raise q f i s).cop = s.cop ∧ (raise q f i s).polls = s.polls ∧ (raise q f i s).groups = s.groups ∧
    (raise q f i s).jobs = s.jobs ∧ (raise q f i s).nextJob = s.nextJob ∧ (raise q f i s).releases = s.releases ∧
    (raise q f i s).canopy = s.canopy ∧ (raise q f i s).tenants = s.tenants ∧ (raise q f i s).cards = s.cards ∧
    (raise q f i s).leave = s.leave ∧ (raise q f i s).guards = s.guards ∧ (raise q f i s).lines = s.lines ∧
    (raise q f i s).lineCtl = s.lineCtl ∧ (raise q f i s).uplinks = s.uplinks ∧ (raise q f i s).mdio = s.mdio ∧
    (raise q f i s).logs = s.logs ∧ (raise q f i s).flash = s.flash ∧ (raise q f i s).svc = s.svc ∧
    (raise q f i s).cfg = s.cfg ∧ (raise q f i s).free = s.free ∧ (raise q f i s).pending = s.pending := by repeat' constructor

@[simp] theorem irq_fields (f : Fld) (s : State) :
    (irq f s).variant = s.variant ∧ (irq f s).now = s.now ∧ (irq f s).ring = s.ring ∧ (irq f s).clk = s.clk ∧
    (irq f s).sys = s.sys ∧ (irq f s).mp = s.mp ∧ (irq f s).queues = s.queues ∧ (irq f s).store = s.store ∧
    (irq f s).ports = s.ports ∧ (irq f s).cop = s.cop ∧ (irq f s).polls = s.polls ∧ (irq f s).groups = s.groups ∧
    (irq f s).jobs = s.jobs ∧ (irq f s).nextJob = s.nextJob ∧ (irq f s).releases = s.releases ∧
    (irq f s).canopy = s.canopy ∧ (irq f s).tenants = s.tenants ∧ (irq f s).cards = s.cards ∧
    (irq f s).leave = s.leave ∧ (irq f s).guards = s.guards ∧ (irq f s).lines = s.lines ∧
    (irq f s).lineCtl = s.lineCtl ∧ (irq f s).uplinks = s.uplinks ∧ (irq f s).mdio = s.mdio ∧
    (irq f s).logs = s.logs ∧ (irq f s).flash = s.flash ∧ (irq f s).svc = s.svc ∧ (irq f s).cfg = s.cfg ∧
    (irq f s).free = s.free ∧ (irq f s).pending = s.pending := by repeat' constructor

@[simp] theorem reseg_fields (s : State) :
    (reseg s).variant = s.variant ∧ (reseg s).regs = s.regs ∧ (reseg s).cyc = s.cyc ∧ (reseg s).now = s.now ∧
    (reseg s).ring = s.ring ∧ (reseg s).sys = s.sys ∧ (reseg s).mp = s.mp ∧ (reseg s).queues = s.queues ∧
    (reseg s).store = s.store ∧ (reseg s).ports = s.ports ∧ (reseg s).cop = s.cop ∧ (reseg s).polls = s.polls ∧
    (reseg s).groups = s.groups ∧ (reseg s).jobs = s.jobs ∧ (reseg s).nextJob = s.nextJob ∧
    (reseg s).releases = s.releases ∧ (reseg s).canopy = s.canopy ∧ (reseg s).tenants = s.tenants ∧
    (reseg s).cards = s.cards ∧ (reseg s).leave = s.leave ∧ (reseg s).guards = s.guards ∧ (reseg s).lines = s.lines ∧
    (reseg s).lineCtl = s.lineCtl ∧ (reseg s).uplinks = s.uplinks ∧ (reseg s).mdio = s.mdio ∧
    (reseg s).logs = s.logs ∧ (reseg s).flash = s.flash ∧ (reseg s).svc = s.svc ∧ (reseg s).cfg = s.cfg ∧
    (reseg s).free = s.free ∧ (reseg s).pending = s.pending := by
  unfold reseg; and_intros <;> rfl

@[simp] theorem qSet_fields (q : Nat) (c : Queue) (s : State) :
    (qSet q c s).variant = s.variant ∧ (qSet q c s).regs = s.regs ∧ (qSet q c s).cyc = s.cyc ∧
    (qSet q c s).now = s.now ∧ (qSet q c s).ring = s.ring ∧ (qSet q c s).clk = s.clk ∧ (qSet q c s).sys = s.sys ∧
    (qSet q c s).mp = s.mp ∧ (qSet q c s).store = s.store ∧ (qSet q c s).ports = s.ports ∧ (qSet q c s).cop = s.cop ∧
    (qSet q c s).polls = s.polls ∧ (qSet q c s).groups = s.groups ∧ (qSet q c s).jobs = s.jobs ∧
    (qSet q c s).nextJob = s.nextJob ∧ (qSet q c s).releases = s.releases ∧ (qSet q c s).canopy = s.canopy ∧
    (qSet q c s).tenants = s.tenants ∧ (qSet q c s).cards = s.cards ∧ (qSet q c s).leave = s.leave ∧
    (qSet q c s).guards = s.guards ∧ (qSet q c s).lines = s.lines ∧ (qSet q c s).lineCtl = s.lineCtl ∧
    (qSet q c s).uplinks = s.uplinks ∧ (qSet q c s).mdio = s.mdio ∧ (qSet q c s).logs = s.logs ∧
    (qSet q c s).flash = s.flash ∧ (qSet q c s).svc = s.svc ∧ (qSet q c s).cfg = s.cfg ∧ (qSet q c s).free = s.free ∧
    (qSet q c s).pending = s.pending := by repeat' constructor

@[simp] theorem qMap_fields (q : Nat) (f : Queue → Queue) (s : State) :
    (qMap q f s).variant = s.variant ∧ (qMap q f s).regs = s.regs ∧ (qMap q f s).cyc = s.cyc ∧
    (qMap q f s).now = s.now ∧ (qMap q f s).ring = s.ring ∧ (qMap q f s).clk = s.clk ∧ (qMap q f s).sys = s.sys ∧
    (qMap q f s).mp = s.mp ∧ (qMap q f s).store = s.store ∧ (qMap q f s).ports = s.ports ∧ (qMap q f s).cop = s.cop ∧
    (qMap q f s).polls = s.polls ∧ (qMap q f s).groups = s.groups ∧ (qMap q f s).jobs = s.jobs ∧
    (qMap q f s).nextJob = s.nextJob ∧ (qMap q f s).releases = s.releases ∧ (qMap q f s).canopy = s.canopy ∧
    (qMap q f s).tenants = s.tenants ∧ (qMap q f s).cards = s.cards ∧ (qMap q f s).leave = s.leave ∧
    (qMap q f s).guards = s.guards ∧ (qMap q f s).lines = s.lines ∧ (qMap q f s).lineCtl = s.lineCtl ∧
    (qMap q f s).uplinks = s.uplinks ∧ (qMap q f s).mdio = s.mdio ∧ (qMap q f s).logs = s.logs ∧
    (qMap q f s).flash = s.flash ∧ (qMap q f s).svc = s.svc ∧ (qMap q f s).cfg = s.cfg ∧ (qMap q f s).free = s.free ∧
    (qMap q f s).pending = s.pending := by repeat' constructor

@[simp] theorem pSet_fields (p : Nat) (c : Port) (s : State) :
    (pSet p c s).variant = s.variant ∧ (pSet p c s).regs = s.regs ∧ (pSet p c s).cyc = s.cyc ∧
    (pSet p c s).now = s.now ∧ (pSet p c s).ring = s.ring ∧ (pSet p c s).clk = s.clk ∧ (pSet p c s).sys = s.sys ∧
    (pSet p c s).mp = s.mp ∧ (pSet p c s).queues = s.queues ∧ (pSet p c s).store = s.store ∧
    (pSet p c s).cop = s.cop ∧ (pSet p c s).polls = s.polls ∧ (pSet p c s).groups = s.groups ∧
    (pSet p c s).jobs = s.jobs ∧ (pSet p c s).nextJob = s.nextJob ∧ (pSet p c s).releases = s.releases ∧
    (pSet p c s).canopy = s.canopy ∧ (pSet p c s).tenants = s.tenants ∧ (pSet p c s).cards = s.cards ∧
    (pSet p c s).leave = s.leave ∧ (pSet p c s).guards = s.guards ∧ (pSet p c s).lines = s.lines ∧
    (pSet p c s).lineCtl = s.lineCtl ∧ (pSet p c s).uplinks = s.uplinks ∧ (pSet p c s).mdio = s.mdio ∧
    (pSet p c s).logs = s.logs ∧ (pSet p c s).flash = s.flash ∧ (pSet p c s).svc = s.svc ∧ (pSet p c s).cfg = s.cfg ∧
    (pSet p c s).free = s.free ∧ (pSet p c s).pending = s.pending := by repeat' constructor

@[simp] theorem pMap_fields (p : Nat) (f : Port → Port) (s : State) :
    (pMap p f s).variant = s.variant ∧ (pMap p f s).regs = s.regs ∧ (pMap p f s).cyc = s.cyc ∧
    (pMap p f s).now = s.now ∧ (pMap p f s).ring = s.ring ∧ (pMap p f s).clk = s.clk ∧ (pMap p f s).sys = s.sys ∧
    (pMap p f s).mp = s.mp ∧ (pMap p f s).queues = s.queues ∧ (pMap p f s).store = s.store ∧
    (pMap p f s).cop = s.cop ∧ (pMap p f s).polls = s.polls ∧ (pMap p f s).groups = s.groups ∧
    (pMap p f s).jobs = s.jobs ∧ (pMap p f s).nextJob = s.nextJob ∧ (pMap p f s).releases = s.releases ∧
    (pMap p f s).canopy = s.canopy ∧ (pMap p f s).tenants = s.tenants ∧ (pMap p f s).cards = s.cards ∧
    (pMap p f s).leave = s.leave ∧ (pMap p f s).guards = s.guards ∧ (pMap p f s).lines = s.lines ∧
    (pMap p f s).lineCtl = s.lineCtl ∧ (pMap p f s).uplinks = s.uplinks ∧ (pMap p f s).mdio = s.mdio ∧
    (pMap p f s).logs = s.logs ∧ (pMap p f s).flash = s.flash ∧ (pMap p f s).svc = s.svc ∧ (pMap p f s).cfg = s.cfg ∧
    (pMap p f s).free = s.free ∧ (pMap p f s).pending = s.pending := by repeat' constructor

@[simp] theorem txMap_fields (p : Nat) (f : Tx → Tx) (s : State) :
    (txMap p f s).variant = s.variant ∧ (txMap p f s).regs = s.regs ∧ (txMap p f s).cyc = s.cyc ∧
    (txMap p f s).now = s.now ∧ (txMap p f s).ring = s.ring ∧ (txMap p f s).clk = s.clk ∧ (txMap p f s).sys = s.sys ∧
    (txMap p f s).mp = s.mp ∧ (txMap p f s).queues = s.queues ∧ (txMap p f s).store = s.store ∧
    (txMap p f s).cop = s.cop ∧ (txMap p f s).polls = s.polls ∧ (txMap p f s).groups = s.groups ∧
    (txMap p f s).jobs = s.jobs ∧ (txMap p f s).nextJob = s.nextJob ∧ (txMap p f s).releases = s.releases ∧
    (txMap p f s).canopy = s.canopy ∧ (txMap p f s).tenants = s.tenants ∧ (txMap p f s).cards = s.cards ∧
    (txMap p f s).leave = s.leave ∧ (txMap p f s).guards = s.guards ∧ (txMap p f s).lines = s.lines ∧
    (txMap p f s).lineCtl = s.lineCtl ∧ (txMap p f s).uplinks = s.uplinks ∧ (txMap p f s).mdio = s.mdio ∧
    (txMap p f s).logs = s.logs ∧ (txMap p f s).flash = s.flash ∧ (txMap p f s).svc = s.svc ∧
    (txMap p f s).cfg = s.cfg ∧ (txMap p f s).free = s.free ∧ (txMap p f s).pending = s.pending := by repeat' constructor

@[simp] theorem copMap_fields (p : Nat) (f : CopPort → CopPort) (s : State) :
    (copMap p f s).variant = s.variant ∧ (copMap p f s).regs = s.regs ∧ (copMap p f s).cyc = s.cyc ∧
    (copMap p f s).now = s.now ∧ (copMap p f s).ring = s.ring ∧ (copMap p f s).clk = s.clk ∧
    (copMap p f s).sys = s.sys ∧ (copMap p f s).mp = s.mp ∧ (copMap p f s).queues = s.queues ∧
    (copMap p f s).store = s.store ∧ (copMap p f s).ports = s.ports ∧ (copMap p f s).polls = s.polls ∧
    (copMap p f s).groups = s.groups ∧ (copMap p f s).jobs = s.jobs ∧ (copMap p f s).nextJob = s.nextJob ∧
    (copMap p f s).releases = s.releases ∧ (copMap p f s).canopy = s.canopy ∧ (copMap p f s).tenants = s.tenants ∧
    (copMap p f s).cards = s.cards ∧ (copMap p f s).leave = s.leave ∧ (copMap p f s).guards = s.guards ∧
    (copMap p f s).lines = s.lines ∧ (copMap p f s).lineCtl = s.lineCtl ∧ (copMap p f s).uplinks = s.uplinks ∧
    (copMap p f s).mdio = s.mdio ∧ (copMap p f s).logs = s.logs ∧ (copMap p f s).flash = s.flash ∧
    (copMap p f s).svc = s.svc ∧ (copMap p f s).cfg = s.cfg ∧ (copMap p f s).free = s.free ∧
    (copMap p f s).pending = s.pending := by repeat' constructor

@[simp] theorem plMap_fields (i : Nat) (f : PollRun → PollRun) (s : State) :
    (plMap i f s).variant = s.variant ∧ (plMap i f s).regs = s.regs ∧ (plMap i f s).cyc = s.cyc ∧
    (plMap i f s).now = s.now ∧ (plMap i f s).ring = s.ring ∧ (plMap i f s).clk = s.clk ∧ (plMap i f s).sys = s.sys ∧
    (plMap i f s).mp = s.mp ∧ (plMap i f s).queues = s.queues ∧ (plMap i f s).store = s.store ∧
    (plMap i f s).ports = s.ports ∧ (plMap i f s).cop = s.cop ∧ (plMap i f s).groups = s.groups ∧
    (plMap i f s).jobs = s.jobs ∧ (plMap i f s).nextJob = s.nextJob ∧ (plMap i f s).releases = s.releases ∧
    (plMap i f s).canopy = s.canopy ∧ (plMap i f s).tenants = s.tenants ∧ (plMap i f s).cards = s.cards ∧
    (plMap i f s).leave = s.leave ∧ (plMap i f s).guards = s.guards ∧ (plMap i f s).lines = s.lines ∧
    (plMap i f s).lineCtl = s.lineCtl ∧ (plMap i f s).uplinks = s.uplinks ∧ (plMap i f s).mdio = s.mdio ∧
    (plMap i f s).logs = s.logs ∧ (plMap i f s).flash = s.flash ∧ (plMap i f s).svc = s.svc ∧
    (plMap i f s).cfg = s.cfg ∧ (plMap i f s).free = s.free ∧ (plMap i f s).pending = s.pending := by repeat' constructor

@[simp] theorem groupMap_fields (g : Nat) (f : GroupRun → GroupRun) (s : State) :
    (groupMap g f s).variant = s.variant ∧ (groupMap g f s).regs = s.regs ∧ (groupMap g f s).cyc = s.cyc ∧
    (groupMap g f s).now = s.now ∧ (groupMap g f s).ring = s.ring ∧ (groupMap g f s).clk = s.clk ∧
    (groupMap g f s).sys = s.sys ∧ (groupMap g f s).mp = s.mp ∧ (groupMap g f s).queues = s.queues ∧
    (groupMap g f s).store = s.store ∧ (groupMap g f s).ports = s.ports ∧ (groupMap g f s).cop = s.cop ∧
    (groupMap g f s).polls = s.polls ∧ (groupMap g f s).jobs = s.jobs ∧ (groupMap g f s).nextJob = s.nextJob ∧
    (groupMap g f s).releases = s.releases ∧ (groupMap g f s).canopy = s.canopy ∧
    (groupMap g f s).tenants = s.tenants ∧ (groupMap g f s).cards = s.cards ∧ (groupMap g f s).leave = s.leave ∧
    (groupMap g f s).guards = s.guards ∧ (groupMap g f s).lines = s.lines ∧ (groupMap g f s).lineCtl = s.lineCtl ∧
    (groupMap g f s).uplinks = s.uplinks ∧ (groupMap g f s).mdio = s.mdio ∧ (groupMap g f s).logs = s.logs ∧
    (groupMap g f s).flash = s.flash ∧ (groupMap g f s).svc = s.svc ∧ (groupMap g f s).cfg = s.cfg ∧
    (groupMap g f s).free = s.free ∧ (groupMap g f s).pending = s.pending := by repeat' constructor

@[simp] theorem jobMap_fields (j : Nat) (f : Job → Job) (s : State) :
    (jobMap j f s).variant = s.variant ∧ (jobMap j f s).regs = s.regs ∧ (jobMap j f s).cyc = s.cyc ∧
    (jobMap j f s).now = s.now ∧ (jobMap j f s).ring = s.ring ∧ (jobMap j f s).clk = s.clk ∧
    (jobMap j f s).sys = s.sys ∧ (jobMap j f s).mp = s.mp ∧ (jobMap j f s).queues = s.queues ∧
    (jobMap j f s).store = s.store ∧ (jobMap j f s).ports = s.ports ∧ (jobMap j f s).cop = s.cop ∧
    (jobMap j f s).polls = s.polls ∧ (jobMap j f s).groups = s.groups ∧ (jobMap j f s).nextJob = s.nextJob ∧
    (jobMap j f s).releases = s.releases ∧ (jobMap j f s).canopy = s.canopy ∧ (jobMap j f s).tenants = s.tenants ∧
    (jobMap j f s).cards = s.cards ∧ (jobMap j f s).leave = s.leave ∧ (jobMap j f s).guards = s.guards ∧
    (jobMap j f s).lines = s.lines ∧ (jobMap j f s).lineCtl = s.lineCtl ∧ (jobMap j f s).uplinks = s.uplinks ∧
    (jobMap j f s).mdio = s.mdio ∧ (jobMap j f s).logs = s.logs ∧ (jobMap j f s).flash = s.flash ∧
    (jobMap j f s).svc = s.svc ∧ (jobMap j f s).cfg = s.cfg ∧ (jobMap j f s).free = s.free ∧
    (jobMap j f s).pending = s.pending := by repeat' constructor

@[simp] theorem releaseMap_fields (x : Nat) (f : Release → Release) (s : State) :
    (releaseMap x f s).variant = s.variant ∧ (releaseMap x f s).regs = s.regs ∧ (releaseMap x f s).cyc = s.cyc ∧
    (releaseMap x f s).now = s.now ∧ (releaseMap x f s).ring = s.ring ∧ (releaseMap x f s).clk = s.clk ∧
    (releaseMap x f s).sys = s.sys ∧ (releaseMap x f s).mp = s.mp ∧ (releaseMap x f s).queues = s.queues ∧
    (releaseMap x f s).store = s.store ∧ (releaseMap x f s).ports = s.ports ∧ (releaseMap x f s).cop = s.cop ∧
    (releaseMap x f s).polls = s.polls ∧ (releaseMap x f s).groups = s.groups ∧ (releaseMap x f s).jobs = s.jobs ∧
    (releaseMap x f s).nextJob = s.nextJob ∧ (releaseMap x f s).canopy = s.canopy ∧
    (releaseMap x f s).tenants = s.tenants ∧ (releaseMap x f s).cards = s.cards ∧ (releaseMap x f s).leave = s.leave ∧
    (releaseMap x f s).guards = s.guards ∧ (releaseMap x f s).lines = s.lines ∧
    (releaseMap x f s).lineCtl = s.lineCtl ∧ (releaseMap x f s).uplinks = s.uplinks ∧
    (releaseMap x f s).mdio = s.mdio ∧ (releaseMap x f s).logs = s.logs ∧ (releaseMap x f s).flash = s.flash ∧
    (releaseMap x f s).svc = s.svc ∧ (releaseMap x f s).cfg = s.cfg ∧ (releaseMap x f s).free = s.free ∧
    (releaseMap x f s).pending = s.pending := by repeat' constructor

@[simp] theorem tMap_fields (t : Nat) (f : Tenant → Tenant) (s : State) :
    (tMap t f s).variant = s.variant ∧ (tMap t f s).regs = s.regs ∧ (tMap t f s).cyc = s.cyc ∧
    (tMap t f s).now = s.now ∧ (tMap t f s).ring = s.ring ∧ (tMap t f s).clk = s.clk ∧ (tMap t f s).sys = s.sys ∧
    (tMap t f s).mp = s.mp ∧ (tMap t f s).queues = s.queues ∧ (tMap t f s).store = s.store ∧
    (tMap t f s).ports = s.ports ∧ (tMap t f s).cop = s.cop ∧ (tMap t f s).polls = s.polls ∧
    (tMap t f s).groups = s.groups ∧ (tMap t f s).jobs = s.jobs ∧ (tMap t f s).nextJob = s.nextJob ∧
    (tMap t f s).releases = s.releases ∧ (tMap t f s).canopy = s.canopy ∧ (tMap t f s).cards = s.cards ∧
    (tMap t f s).leave = s.leave ∧ (tMap t f s).guards = s.guards ∧ (tMap t f s).lines = s.lines ∧
    (tMap t f s).lineCtl = s.lineCtl ∧ (tMap t f s).uplinks = s.uplinks ∧ (tMap t f s).mdio = s.mdio ∧
    (tMap t f s).logs = s.logs ∧ (tMap t f s).flash = s.flash ∧ (tMap t f s).svc = s.svc ∧ (tMap t f s).cfg = s.cfg ∧
    (tMap t f s).free = s.free ∧ (tMap t f s).pending = s.pending := by repeat' constructor

@[simp] theorem cMap_fields (n : Nat) (f : Card → Card) (s : State) :
    (cMap n f s).variant = s.variant ∧ (cMap n f s).regs = s.regs ∧ (cMap n f s).cyc = s.cyc ∧
    (cMap n f s).now = s.now ∧ (cMap n f s).ring = s.ring ∧ (cMap n f s).clk = s.clk ∧ (cMap n f s).sys = s.sys ∧
    (cMap n f s).mp = s.mp ∧ (cMap n f s).queues = s.queues ∧ (cMap n f s).store = s.store ∧
    (cMap n f s).ports = s.ports ∧ (cMap n f s).cop = s.cop ∧ (cMap n f s).polls = s.polls ∧
    (cMap n f s).groups = s.groups ∧ (cMap n f s).jobs = s.jobs ∧ (cMap n f s).nextJob = s.nextJob ∧
    (cMap n f s).releases = s.releases ∧ (cMap n f s).canopy = s.canopy ∧ (cMap n f s).tenants = s.tenants ∧
    (cMap n f s).leave = s.leave ∧ (cMap n f s).guards = s.guards ∧ (cMap n f s).lines = s.lines ∧
    (cMap n f s).lineCtl = s.lineCtl ∧ (cMap n f s).uplinks = s.uplinks ∧ (cMap n f s).mdio = s.mdio ∧
    (cMap n f s).logs = s.logs ∧ (cMap n f s).flash = s.flash ∧ (cMap n f s).svc = s.svc ∧ (cMap n f s).cfg = s.cfg ∧
    (cMap n f s).free = s.free ∧ (cMap n f s).pending = s.pending := by repeat' constructor

@[simp] theorem gMap_fields (k : Nat) (f : Guard → Guard) (s : State) :
    (gMap k f s).variant = s.variant ∧ (gMap k f s).regs = s.regs ∧ (gMap k f s).cyc = s.cyc ∧
    (gMap k f s).now = s.now ∧ (gMap k f s).ring = s.ring ∧ (gMap k f s).clk = s.clk ∧ (gMap k f s).sys = s.sys ∧
    (gMap k f s).mp = s.mp ∧ (gMap k f s).queues = s.queues ∧ (gMap k f s).store = s.store ∧
    (gMap k f s).ports = s.ports ∧ (gMap k f s).cop = s.cop ∧ (gMap k f s).polls = s.polls ∧
    (gMap k f s).groups = s.groups ∧ (gMap k f s).jobs = s.jobs ∧ (gMap k f s).nextJob = s.nextJob ∧
    (gMap k f s).releases = s.releases ∧ (gMap k f s).canopy = s.canopy ∧ (gMap k f s).tenants = s.tenants ∧
    (gMap k f s).cards = s.cards ∧ (gMap k f s).leave = s.leave ∧ (gMap k f s).lines = s.lines ∧
    (gMap k f s).lineCtl = s.lineCtl ∧ (gMap k f s).uplinks = s.uplinks ∧ (gMap k f s).mdio = s.mdio ∧
    (gMap k f s).logs = s.logs ∧ (gMap k f s).flash = s.flash ∧ (gMap k f s).svc = s.svc ∧ (gMap k f s).cfg = s.cfg ∧
    (gMap k f s).free = s.free ∧ (gMap k f s).pending = s.pending := by repeat' constructor

@[simp] theorem lnMap_fields (p : Nat) (f : GLine → GLine) (s : State) :
    (lnMap p f s).variant = s.variant ∧ (lnMap p f s).regs = s.regs ∧ (lnMap p f s).cyc = s.cyc ∧
    (lnMap p f s).now = s.now ∧ (lnMap p f s).ring = s.ring ∧ (lnMap p f s).clk = s.clk ∧ (lnMap p f s).sys = s.sys ∧
    (lnMap p f s).mp = s.mp ∧ (lnMap p f s).queues = s.queues ∧ (lnMap p f s).store = s.store ∧
    (lnMap p f s).ports = s.ports ∧ (lnMap p f s).cop = s.cop ∧ (lnMap p f s).polls = s.polls ∧
    (lnMap p f s).groups = s.groups ∧ (lnMap p f s).jobs = s.jobs ∧ (lnMap p f s).nextJob = s.nextJob ∧
    (lnMap p f s).releases = s.releases ∧ (lnMap p f s).canopy = s.canopy ∧ (lnMap p f s).tenants = s.tenants ∧
    (lnMap p f s).cards = s.cards ∧ (lnMap p f s).leave = s.leave ∧ (lnMap p f s).guards = s.guards ∧
    (lnMap p f s).lineCtl = s.lineCtl ∧ (lnMap p f s).uplinks = s.uplinks ∧ (lnMap p f s).mdio = s.mdio ∧
    (lnMap p f s).logs = s.logs ∧ (lnMap p f s).flash = s.flash ∧ (lnMap p f s).svc = s.svc ∧
    (lnMap p f s).cfg = s.cfg ∧ (lnMap p f s).free = s.free ∧ (lnMap p f s).pending = s.pending := by repeat' constructor

@[simp] theorem lcMap_fields (p : Nat) (f : LineCtl → LineCtl) (s : State) :
    (lcMap p f s).variant = s.variant ∧ (lcMap p f s).regs = s.regs ∧ (lcMap p f s).cyc = s.cyc ∧
    (lcMap p f s).now = s.now ∧ (lcMap p f s).ring = s.ring ∧ (lcMap p f s).clk = s.clk ∧ (lcMap p f s).sys = s.sys ∧
    (lcMap p f s).mp = s.mp ∧ (lcMap p f s).queues = s.queues ∧ (lcMap p f s).store = s.store ∧
    (lcMap p f s).ports = s.ports ∧ (lcMap p f s).cop = s.cop ∧ (lcMap p f s).polls = s.polls ∧
    (lcMap p f s).groups = s.groups ∧ (lcMap p f s).jobs = s.jobs ∧ (lcMap p f s).nextJob = s.nextJob ∧
    (lcMap p f s).releases = s.releases ∧ (lcMap p f s).canopy = s.canopy ∧ (lcMap p f s).tenants = s.tenants ∧
    (lcMap p f s).cards = s.cards ∧ (lcMap p f s).leave = s.leave ∧ (lcMap p f s).guards = s.guards ∧
    (lcMap p f s).lines = s.lines ∧ (lcMap p f s).uplinks = s.uplinks ∧ (lcMap p f s).mdio = s.mdio ∧
    (lcMap p f s).logs = s.logs ∧ (lcMap p f s).flash = s.flash ∧ (lcMap p f s).svc = s.svc ∧
    (lcMap p f s).cfg = s.cfg ∧ (lcMap p f s).free = s.free ∧ (lcMap p f s).pending = s.pending := by repeat' constructor

@[simp] theorem uMap_fields (u : Nat) (f : Uplink → Uplink) (s : State) :
    (uMap u f s).variant = s.variant ∧ (uMap u f s).regs = s.regs ∧ (uMap u f s).cyc = s.cyc ∧
    (uMap u f s).now = s.now ∧ (uMap u f s).ring = s.ring ∧ (uMap u f s).clk = s.clk ∧ (uMap u f s).sys = s.sys ∧
    (uMap u f s).mp = s.mp ∧ (uMap u f s).queues = s.queues ∧ (uMap u f s).store = s.store ∧
    (uMap u f s).ports = s.ports ∧ (uMap u f s).cop = s.cop ∧ (uMap u f s).polls = s.polls ∧
    (uMap u f s).groups = s.groups ∧ (uMap u f s).jobs = s.jobs ∧ (uMap u f s).nextJob = s.nextJob ∧
    (uMap u f s).releases = s.releases ∧ (uMap u f s).canopy = s.canopy ∧ (uMap u f s).tenants = s.tenants ∧
    (uMap u f s).cards = s.cards ∧ (uMap u f s).leave = s.leave ∧ (uMap u f s).guards = s.guards ∧
    (uMap u f s).lines = s.lines ∧ (uMap u f s).lineCtl = s.lineCtl ∧ (uMap u f s).mdio = s.mdio ∧
    (uMap u f s).logs = s.logs ∧ (uMap u f s).flash = s.flash ∧ (uMap u f s).svc = s.svc ∧ (uMap u f s).cfg = s.cfg ∧
    (uMap u f s).free = s.free ∧ (uMap u f s).pending = s.pending := by repeat' constructor

@[simp] theorem mpMap_fields (f : Mp → Mp) (s : State) :
    (mpMap f s).variant = s.variant ∧ (mpMap f s).regs = s.regs ∧ (mpMap f s).cyc = s.cyc ∧ (mpMap f s).now = s.now ∧
    (mpMap f s).ring = s.ring ∧ (mpMap f s).clk = s.clk ∧ (mpMap f s).sys = s.sys ∧ (mpMap f s).queues = s.queues ∧
    (mpMap f s).store = s.store ∧ (mpMap f s).ports = s.ports ∧ (mpMap f s).cop = s.cop ∧
    (mpMap f s).polls = s.polls ∧ (mpMap f s).groups = s.groups ∧ (mpMap f s).jobs = s.jobs ∧
    (mpMap f s).nextJob = s.nextJob ∧ (mpMap f s).releases = s.releases ∧ (mpMap f s).canopy = s.canopy ∧
    (mpMap f s).tenants = s.tenants ∧ (mpMap f s).cards = s.cards ∧ (mpMap f s).leave = s.leave ∧
    (mpMap f s).guards = s.guards ∧ (mpMap f s).lines = s.lines ∧ (mpMap f s).lineCtl = s.lineCtl ∧
    (mpMap f s).uplinks = s.uplinks ∧ (mpMap f s).mdio = s.mdio ∧ (mpMap f s).logs = s.logs ∧
    (mpMap f s).flash = s.flash ∧ (mpMap f s).svc = s.svc ∧ (mpMap f s).cfg = s.cfg ∧ (mpMap f s).free = s.free ∧
    (mpMap f s).pending = s.pending := by repeat' constructor

@[simp] theorem svMap_fields (f : Svc → Svc) (s : State) :
    (svMap f s).variant = s.variant ∧ (svMap f s).regs = s.regs ∧ (svMap f s).cyc = s.cyc ∧ (svMap f s).now = s.now ∧
    (svMap f s).ring = s.ring ∧ (svMap f s).clk = s.clk ∧ (svMap f s).sys = s.sys ∧ (svMap f s).mp = s.mp ∧
    (svMap f s).queues = s.queues ∧ (svMap f s).store = s.store ∧ (svMap f s).ports = s.ports ∧
    (svMap f s).cop = s.cop ∧ (svMap f s).polls = s.polls ∧ (svMap f s).groups = s.groups ∧
    (svMap f s).jobs = s.jobs ∧ (svMap f s).nextJob = s.nextJob ∧ (svMap f s).releases = s.releases ∧
    (svMap f s).canopy = s.canopy ∧ (svMap f s).tenants = s.tenants ∧ (svMap f s).cards = s.cards ∧
    (svMap f s).leave = s.leave ∧ (svMap f s).guards = s.guards ∧ (svMap f s).lines = s.lines ∧
    (svMap f s).lineCtl = s.lineCtl ∧ (svMap f s).uplinks = s.uplinks ∧ (svMap f s).mdio = s.mdio ∧
    (svMap f s).logs = s.logs ∧ (svMap f s).flash = s.flash ∧ (svMap f s).cfg = s.cfg ∧ (svMap f s).free = s.free ∧
    (svMap f s).pending = s.pending := by repeat' constructor

@[simp] theorem drawNat_snd_fields (s : State) :
    ((drawNat s).2).variant = s.variant ∧ ((drawNat s).2).regs = s.regs ∧ ((drawNat s).2).cyc = s.cyc ∧
    ((drawNat s).2).now = s.now ∧ ((drawNat s).2).ring = s.ring ∧ ((drawNat s).2).clk = s.clk ∧
    ((drawNat s).2).sys = s.sys ∧ ((drawNat s).2).mp = s.mp ∧ ((drawNat s).2).queues = s.queues ∧
    ((drawNat s).2).store = s.store ∧ ((drawNat s).2).ports = s.ports ∧ ((drawNat s).2).cop = s.cop ∧
    ((drawNat s).2).polls = s.polls ∧ ((drawNat s).2).groups = s.groups ∧ ((drawNat s).2).jobs = s.jobs ∧
    ((drawNat s).2).nextJob = s.nextJob ∧ ((drawNat s).2).releases = s.releases ∧ ((drawNat s).2).canopy = s.canopy ∧
    ((drawNat s).2).tenants = s.tenants ∧ ((drawNat s).2).cards = s.cards ∧ ((drawNat s).2).leave = s.leave ∧
    ((drawNat s).2).guards = s.guards ∧ ((drawNat s).2).lines = s.lines ∧ ((drawNat s).2).lineCtl = s.lineCtl ∧
    ((drawNat s).2).uplinks = s.uplinks ∧ ((drawNat s).2).mdio = s.mdio ∧ ((drawNat s).2).logs = s.logs ∧
    ((drawNat s).2).flash = s.flash ∧ ((drawNat s).2).svc = s.svc ∧ ((drawNat s).2).cfg = s.cfg ∧
    ((drawNat s).2).pending = s.pending := by repeat' constructor

@[simp] theorem drawBit_snd_fields (s : State) :
    ((drawBit s).2).variant = s.variant ∧ ((drawBit s).2).regs = s.regs ∧ ((drawBit s).2).cyc = s.cyc ∧
    ((drawBit s).2).now = s.now ∧ ((drawBit s).2).ring = s.ring ∧ ((drawBit s).2).clk = s.clk ∧
    ((drawBit s).2).sys = s.sys ∧ ((drawBit s).2).mp = s.mp ∧ ((drawBit s).2).queues = s.queues ∧
    ((drawBit s).2).store = s.store ∧ ((drawBit s).2).ports = s.ports ∧ ((drawBit s).2).cop = s.cop ∧
    ((drawBit s).2).polls = s.polls ∧ ((drawBit s).2).groups = s.groups ∧ ((drawBit s).2).jobs = s.jobs ∧
    ((drawBit s).2).nextJob = s.nextJob ∧ ((drawBit s).2).releases = s.releases ∧ ((drawBit s).2).canopy = s.canopy ∧
    ((drawBit s).2).tenants = s.tenants ∧ ((drawBit s).2).cards = s.cards ∧ ((drawBit s).2).leave = s.leave ∧
    ((drawBit s).2).guards = s.guards ∧ ((drawBit s).2).lines = s.lines ∧ ((drawBit s).2).lineCtl = s.lineCtl ∧
    ((drawBit s).2).uplinks = s.uplinks ∧ ((drawBit s).2).mdio = s.mdio ∧ ((drawBit s).2).logs = s.logs ∧
    ((drawBit s).2).flash = s.flash ∧ ((drawBit s).2).svc = s.svc ∧ ((drawBit s).2).cfg = s.cfg ∧
    ((drawBit s).2).pending = s.pending := by repeat' constructor

end Sys2Proof.Machine
end

