-- ==== Sys2Proof/Laws/Tables.lean ====
section
/-! SUPPORT. Read after write: sparse tables, register fields, and every indexed unit of State. -/

namespace Sys2Proof.Machine

/-! ### Sparse tables -/

@[simp] theorem find_insert_same {α : Type} (k : Nat) (v : α) (t : Tbl α) : find k (insert k v t) = some v := by
  induction t with
  | nil => simp [insert, find]
  | cons e r ih =>
    obtain ⟨j, w⟩ := e
    simp only [insert]
    split
    · simp [find]
    · split
      · simp [find]
      · rename_i h; simp [find, h, ih]

theorem find_insert_ne {α : Type} {k j : Nat} (h : j ≠ k) (v : α) (t : Tbl α) : find j (insert k v t) = find j t := by
  induction t with
  | nil => simp [insert, find, h.symm]
  | cons e r ih =>
    obtain ⟨i, w⟩ := e
    simp only [insert]
    split
    · simp [find, h.symm]
    · split
      · rename_i e; subst e; simp [find, h.symm]
      · simp only [find, ih]

@[simp] theorem find_erase_same {α : Type} (k : Nat) (t : Tbl α) : find k (erase k t) = none := by
  induction t with
  | nil => rfl
  | cons e r ih =>
    obtain ⟨j, w⟩ := e
    simp only [erase]
    split
    · exact ih
    · rename_i h; simp [find, h, ih]

theorem find_erase_ne {α : Type} {k j : Nat} (h : j ≠ k) (t : Tbl α) : find j (erase k t) = find j t := by
  induction t with
  | nil => rfl
  | cons e r ih =>
    obtain ⟨i, w⟩ := e
    simp only [erase]
    split
    · rename_i e; subst e; simp [find, h.symm, ih]
    · simp only [find, ih]

@[simp] theorem lookup_store_same {α : Type} [DecidableEq α] (d : α) (k : Nat) (v : α) (t : Tbl α) :
    lookup d k (store d k v t) = v := by
  unfold lookup store; split
  · rename_i h; simp [h]
  · simp

theorem lookup_store_ne {α : Type} [DecidableEq α] (d e : α) {k j : Nat} (h : j ≠ k) (v : α) (t : Tbl α) :
    lookup e j (store d k v t) = lookup e j t := by
  unfold lookup store; split
  · rw [find_erase_ne h]
  · rw [find_insert_ne h]

/-! ### Register fields -/

@[simp] theorem rstOf_put (g : Fld) (j : Nat) (f : Fld) (i v : Nat) (s : State) : rstOf g j (put f i v s) = rstOf g j s := rfl

/-- A field holds what is put into it, cut to its width. -/
@[simp] theorem get_put_same (f : Fld) (i v : Nat) (s : State) : get f i (put f i v s) = v % 2 ^ f.width := by
  unfold get; rw [rstOf_put]; simp [put]

/-- A value fits its field. -/
theorem get_lt (f : Fld) (i : Nat) (s : State) : get f i s < 2 ^ f.width := Nat.mod_lt _ (by positivity)

/-- Another field keeps its value. -/
theorem get_put_ne {f g : Fld} {i j : Nat} (h : g.key j ≠ f.key i) (v : Nat) (s : State) :
    get g j (put f i v s) = get g j s := by
  unfold get; rw [rstOf_put]; simp only [put]; rw [lookup_store_ne _ _ h]

theorem get_congr (g : Fld) (j : Nat) {s t : State} (h : t.regs = s.regs) (hv : t.variant = s.variant) (hb : t.flash = s.flash) :
    get g j t = get g j s := by unfold get rstOf; rw [h, hv, hb]

theorem get_putSw_ne {f g : Fld} {i j : Nat} (h : g.key j ≠ f.key i) (v : Nat) (s : State) :
    get g j (putSw f i v s) = get g j s := get_put_ne h v s

@[simp] theorem get_putSw_same (f : Fld) (i v : Nat) (s : State) : get f i (putSw f i v s) = v % 2 ^ f.width :=
  get_put_same f i v s

theorem get_putHw_ne {f g : Fld} {i j : Nat} (h : g.key j ≠ f.key i) (v : Nat) (s : State) :
    get g j (putHw f i v s) = get g j s := by
  unfold putHw; split
  · rfl
  · exact get_put_ne h v s

/-- A hardware update stands unless software wrote the field in this CORE cycle. -/
theorem get_putHw_same {f : Fld} {i : Nat} {s : State} (h : s.cyc.sw.contains (f.key i) = false) (v : Nat) :
    get f i (putHw f i v s) = v % 2 ^ f.width := by unfold putHw; simp only [h]; exact get_put_same f i v s

theorem get_bumpBy_ne {f g : Fld} {i j : Nat} (h : g.key j ≠ f.key i) (n : Nat) (s : State) :
    get g j (bumpBy f i n s) = get g j s := get_put_ne h _ s

theorem get_bump_ne {f g : Fld} {i j : Nat} (h : g.key j ≠ f.key i) (s : State) : get g j (bump f i s) = get g j s :=
  get_put_ne h _ s

/-- A counter counts by its own rule. -/
theorem get_bumpBy_same (f : Fld) (i n : Nat) (s : State) :
    get f i (bumpBy f i n s) = f.count (get f i s) n % 2 ^ f.width := get_put_same f i _ s

theorem get_putCtr_ne {f g : Fld} {i j : Nat} (h : g.key j ≠ f.key i) (v : Nat) (s : State) :
    get g j (putCtr f i v s) = get g j s := get_put_ne h _ s

theorem get_setBits_ne {f g : Fld} {i j : Nat} (h : g.key j ≠ f.key i) (m : Nat) (s : State) :
    get g j (setBits f i m s) = get g j s := get_put_ne h _ s

@[simp] theorem get_setBits_same (f : Fld) (i m : Nat) (s : State) :
    get f i (setBits f i m s) = (get f i s ||| m) % 2 ^ f.width := get_put_same f i _ s

theorem get_clearBits_ne {f g : Fld} {i j : Nat} (h : g.key j ≠ f.key i) (m : Nat) (s : State) :
    get g j (clearBits f i m s) = get g j s := get_put_ne h _ s

theorem get_irq_ne {f g : Fld} {j : Nat} (h : g.key j ≠ f.key 0) (s : State) : get g j (irq f s) = get g j s :=
  get_put_ne h _ s

theorem get_raise_ne {q f g : Fld} {i j : Nat} (hq : g.key j ≠ q.key 0) (hf : g.key j ≠ f.key i) (s : State) :
    get g j (raise q f i s) = get g j s := (get_setBits_ne hq _ _).trans (get_setBits_ne hf _ s)

/-! ### Indexed units -/

@[simp] theorem qGet_qMap_same (q : Nat) (f : Queue → Queue) (s : State) : qGet q (qMap q f s) = f (qGet q s) :=
  lookup_store_same _ _ _ _
@[simp] theorem qGet_qSet_same (q : Nat) (c : Queue) (s : State) : qGet q (qSet q c s) = c := lookup_store_same _ _ _ _
theorem qGet_qSet_ne {q r : Nat} (h : r ≠ q) (c : Queue) (s : State) : qGet r (qSet q c s) = qGet r s := lookup_store_ne _ _ h _ _
@[simp] theorem pGet_pMap_same (p : Nat) (f : Port → Port) (s : State) : pGet p (pMap p f s) = f (pGet p s) :=
  lookup_store_same _ _ _ _
@[simp] theorem pGet_pSet_same (p : Nat) (c : Port) (s : State) : pGet p (pSet p c s) = c := lookup_store_same _ _ _ _
theorem pGet_pSet_ne {p r : Nat} (h : r ≠ p) (c : Port) (s : State) : pGet r (pSet p c s) = pGet r s := lookup_store_ne _ _ h _ _
@[simp] theorem pGet_txMap_same (p : Nat) (f : Tx → Tx) (s : State) :
    pGet p (txMap p f s) = { pGet p s with tx := f (pGet p s).tx } := lookup_store_same _ _ _ _
@[simp] theorem copGet_copMap_same (p : Nat) (f : CopPort → CopPort) (s : State) : copGet p (copMap p f s) = f (copGet p s) :=
  lookup_store_same _ _ _ _
@[simp] theorem plGet_plMap_same (i : Nat) (f : PollRun → PollRun) (s : State) : plGet i (plMap i f s) = f (plGet i s) :=
  lookup_store_same _ _ _ _
@[simp] theorem tGet_tMap_same (t : Nat) (f : Tenant → Tenant) (s : State) : tGet t (tMap t f s) = f (tGet t s) :=
  lookup_store_same _ _ _ _
@[simp] theorem cGet_cMap_same (n : Nat) (f : Card → Card) (s : State) : cGet n (cMap n f s) = f (cGet n s) :=
  lookup_store_same _ _ _ _
@[simp] theorem gGet_gMap_same (k : Nat) (f : Guard → Guard) (s : State) : gGet k (gMap k f s) = f (gGet k s) :=
  lookup_store_same _ _ _ _
@[simp] theorem lnGet_lnMap_same (p : Nat) (f : GLine → GLine) (s : State) : lnGet p (lnMap p f s) = f (lnGet p s) :=
  lookup_store_same _ _ _ _
@[simp] theorem lcGet_lcMap_same (p : Nat) (f : LineCtl → LineCtl) (s : State) : lcGet p (lcMap p f s) = f (lcGet p s) :=
  lookup_store_same _ _ _ _
@[simp] theorem uGet_uMap_same (u : Nat) (f : Uplink → Uplink) (s : State) : uGet u (uMap u f s) = f (uGet u s) :=
  lookup_store_same _ _ _ _

end Sys2Proof.Machine
end

