-- ==== Sys2Proof/Laws/Memory.lean ====
section
/-! SUPPORT. The flash contents: read after write, what a program and an erase do to each byte, and the canonical form,
which every operation and every meaning keeps. -/

namespace Sys2Proof.Machine

/-! ### The canonical form -/

theorem wf_iff (m : List Host.Cell) :
    Memory.wf m = true ↔ m.Pairwise (fun c d => c.1 < d.1) ∧ ∀ c ∈ m, c.2 ≠ 255#8 := by
  induction m with
  | nil => simp [Memory.wf]
  | cons c m ih =>
    cases m with
    | nil => simp [Memory.wf]
    | cons d r =>
      simp only [Memory.wf, Bool.and_eq_true, ih, bne_iff_ne, decide_eq_true_eq, List.pairwise_cons, List.mem_cons]
      constructor
      · rintro ⟨⟨hc, hlt⟩, ⟨hd, hr⟩, hm⟩
        refine ⟨⟨?_, hd, hr⟩, ?_⟩
        · rintro x (rfl | hx)
          · exact hlt
          · exact lt_trans hlt (hd x hx)
        · rintro x (rfl | hx)
          · exact hc
          · exact hm x hx
      · rintro ⟨⟨hx, hd, hr⟩, hm⟩
        exact ⟨⟨hm c (Or.inl rfl), hx d (Or.inl rfl)⟩, ⟨hd, hr⟩, fun x hx => hm x (Or.inr hx)⟩

theorem mem_insert_sub {α : Type} (k : Nat) (v : α) (t : Tbl α) : ∀ e ∈ insert k v t, e = (k, v) ∨ e ∈ t := by
  induction t with
  | nil => simp [insert]
  | cons x r ih =>
    obtain ⟨j, w⟩ := x
    intro e he
    simp only [insert] at he
    split at he
    · simpa using he
    · split at he
      · rcases List.mem_cons.mp he with h | h
        · exact Or.inl h
        · exact Or.inr (List.mem_cons_of_mem _ h)
      · rcases List.mem_cons.mp he with h | h
        · exact Or.inr (h ▸ List.mem_cons_self ..)
        · rcases ih e h with h | h
          · exact Or.inl h
          · exact Or.inr (List.mem_cons_of_mem _ h)

theorem insert_sorted {α : Type} (k : Nat) (v : α) (t : Tbl α) (h : t.Pairwise (fun c d => c.1 < d.1)) :
    (insert k v t).Pairwise (fun c d => c.1 < d.1) := by
  induction t with
  | nil => simp [insert]
  | cons x r ih =>
    obtain ⟨j, w⟩ := x
    rw [List.pairwise_cons] at h
    simp only [insert]
    split
    · rename_i hk
      rw [List.pairwise_cons, List.pairwise_cons]
      refine ⟨?_, h⟩
      intro e he
      rcases List.mem_cons.mp he with he | he
      · subst he; exact hk
      · exact lt_trans hk (h.1 e he)
    · split
      · rename_i hk
        subst hk
        exact List.pairwise_cons.mpr h
      · rename_i h1 h2
        rw [List.pairwise_cons]
        refine ⟨?_, ih h.2⟩
        intro e he
        rcases mem_insert_sub k v r e he with he | he
        · subst he; dsimp only; omega
        · exact h.1 e he

theorem erase_eq_filter {α : Type} (k : Nat) (t : Tbl α) : erase k t = t.filter (fun e => e.1 != k) := by
  induction t with
  | nil => rfl
  | cons x r ih =>
    obtain ⟨j, w⟩ := x
    simp only [erase]
    split
    · rename_i h; simp [h, ih]
    · rename_i h; simp [h, ih]

theorem filter_wf (p : Host.Cell → Bool) (m : List Host.Cell) (h : Memory.wf m = true) : Memory.wf (m.filter p) = true := by
  rw [wf_iff] at *
  exact ⟨h.1.sublist List.filter_sublist, fun c hc => h.2 c (List.mem_filter.mp hc).1⟩

theorem fSet_wf (a : Nat) (b : Byte) (m : List Host.Cell) (h : Memory.wf m = true) : Memory.wf (fSet a b m) = true := by
  unfold fSet store
  split
  · rw [erase_eq_filter]; exact filter_wf _ m h
  · rename_i hb
    rw [wf_iff] at *
    refine ⟨insert_sorted a b m h.1, fun c hc => ?_⟩
    rcases mem_insert_sub a b m c hc with hc | hc
    · subst hc; exact hb
    · exact h.2 c hc

theorem fProgram_wf (a : Nat) (bs : List Byte) (m : List Host.Cell) (h : Memory.wf m = true) :
    Memory.wf (fProgram a bs m) = true := by
  induction bs generalizing a m with
  | nil => exact h
  | cons b r ih => exact ih (a + 1) _ (fSet_wf _ _ m h)

theorem fErase_wf (a : Nat) (m : List Host.Cell) (h : Memory.wf m = true) : Memory.wf (fErase a m) = true :=
  filter_wf _ m h

theorem foldl_wf {α : Type} (l : List α) (f : List Host.Cell → α → List Host.Cell) (m : List Host.Cell)
    (hf : ∀ m x, Memory.wf m = true → Memory.wf (f m x) = true) (h : Memory.wf m = true) :
    Memory.wf (l.foldl f m) = true := by
  induction l generalizing m with
  | nil => exact h
  | cons x l ih => exact ih (f m x) (hf m x h)

/-! ### Read after write -/

@[simp] theorem fByte_fSet_same (a : Nat) (b : Byte) (m : List Host.Cell) : fByte a (fSet a b m) = b :=
  lookup_store_same _ _ _ _

theorem fByte_fSet_ne {a x : Nat} (h : x ≠ a) (b : Byte) (m : List Host.Cell) : fByte x (fSet a b m) = fByte x m :=
  lookup_store_ne _ _ h _ _

theorem fByte_fProgram_out (a x : Nat) (bs : List Byte) (m : List Host.Cell) (h : x < a ∨ a + bs.length ≤ x) :
    fByte x (fProgram a bs m) = fByte x m := by
  induction bs generalizing a m with
  | nil => rfl
  | cons b r ih =>
    simp only [List.length_cons] at h
    simp only [fProgram]
    rw [ih (a + 1) _ (by omega), fByte_fSet_ne (by omega)]

theorem fByte_fProgram_in (a i : Nat) (bs : List Byte) (m : List Host.Cell) (h : i < bs.length) :
    fByte (a + i) (fProgram a bs m) = fByte (a + i) m &&& bs[i] := by
  induction bs generalizing a i m with
  | nil => simp at h
  | cons b r ih =>
    simp only [fProgram]
    cases i with
    | zero => rw [Nat.add_zero, fByte_fProgram_out _ _ _ _ (by omega)]; simp
    | succ i =>
      have h' : i < r.length := by simpa using h
      have e : a + (i + 1) = a + 1 + i := by omega
      rw [e, ih (a + 1) i _ h', fByte_fSet_ne (by omega)]
      simp

theorem find_filter {α : Type} (p : Nat → Bool) (x : Nat) (t : Tbl α) :
    find x (t.filter fun e => p e.1) = if p x then find x t else none := by
  induction t with
  | nil => simp [find]
  | cons e r ih =>
    obtain ⟨j, w⟩ := e
    by_cases hp : p j = true
    · rw [List.filter_cons_of_pos (by simpa using hp)]
      simp only [find]
      split
      · rename_i hj; subst hj; simp [hp]
      · exact ih
    · rw [List.filter_cons_of_neg (by simpa using hp), ih]
      by_cases hj : j = x
      · subst hj; simp [hp]
      · simp [find, hj]

theorem fByte_fErase (a x : Nat) (m : List Host.Cell) :
    fByte x (fErase a m) = if x / 4096 = a / 4096 then 255#8 else fByte x m := by
  have h := find_filter (fun k => k / 4096 != a / 4096) x m
  unfold fByte fErase lookup
  rw [h]
  by_cases hx : x / 4096 = a / 4096 <;> simp [hx]

/-! ### The operations that write the flash -/

theorem settleFlash_wf (powerLoss : Bool) (s : State) (h : Memory.wf s.flash.mem = true) :
    Memory.wf (settleFlash powerLoss s).flash.mem = true := by
  unfold settleFlash
  extract_lets cut a
  have hc : ∀ x n e t, (cut x n e t).flash.mem = t.flash.mem := by
    intro x n e t
    simp only [cut]
    split <;> rfl
  show Memory.wf a.flash.mem = true
  simp only [a]
  split
  · exact h
  · split
    · exact h
    · rw [hc]; exact fProgram_wf _ _ _ h
    · rw [hc]; exact fErase_wf _ _ h

theorem resetUnits_mem (cold : Bool) (s : State) : (resetUnits cold s).flash.mem = s.flash.mem := by
  unfold resetUnits
  dsimp only
  split
  · rfl
  · split
    · simp
    · rfl

theorem beginReset_wf (c : Cause) (s : State) (h : Memory.wf s.flash.mem = true) :
    Memory.wf (beginReset c s).flash.mem = true := by
  unfold beginReset
  extract_lets inReset old wasCold code a x b
  have ha : Memory.wf a.flash.mem = true := by
    simp only [a]
    split
    · exact h
    · rw [resetUnits_mem]; exact settleFlash_wf _ _ h
  clear_value a
  simpa [b] using ha

theorem resetN_wf (lowNs : Nat) (s : State) (h : Memory.wf s.flash.mem = true) :
    Memory.wf (resetN lowNs s).flash.mem = true := by
  unfold resetN
  split
  · exact beginReset_wf _ s h
  · split
    · exact h
    · dsimp only
      split
      · exact beginReset_wf _ _ (by simpa using h)
      · simpa using h

theorem pllLoss_wf (s : State) (h : Memory.wf s.flash.mem = true) : Memory.wf (pllLoss s).flash.mem = true := by
  unfold pllLoss
  split
  · exact beginReset_wf _ s h
  · exact h

theorem watchdogExpiry_wf (s : State) (h : Memory.wf s.flash.mem = true) :
    Memory.wf (watchdogExpiry s).flash.mem = true := by
  unfold watchdogExpiry
  split
  · exact beginReset_wf _ _ h
  · split
    · exact beginReset_wf _ s h
    · exact h

theorem softwareResetStart_wf (wait : Nat) (s : State) (h : Memory.wf s.flash.mem = true) :
    Memory.wf (softwareResetStart wait s).flash.mem = true := by
  unfold softwareResetStart
  split
  · exact h
  · apply beginReset_wf
    rw [(runTo_kept _ s).1]
    exact h

theorem rejectSlot_wf (s : State) (h : Memory.wf s.flash.mem = true) : Memory.wf (rejectSlot s).flash.mem = true := by
  unfold rejectSlot
  split
  · exact fProgram_wf _ _ _ h
  · exact h

theorem flashReady_wf (s : State) (h : Memory.wf s.flash.mem = true) : Memory.wf (flashReady s).flash.mem = true := by
  unfold flashReady
  split
  · exact h
  · extract_lets _ _ a b
    have hb : Memory.wf b.flash.mem = true := rejectSlot_wf _ h
    clear_value b
    split
    · simpa using hb
    · split
      · simpa using hb
      · exact hb

theorem settlePage_wf (top : Option Nat) (s : State) (h : Memory.wf s.flash.mem = true) :
    Memory.wf (settlePage top s).flash.mem = true := by
  unfold settlePage
  split
  · exact fProgram_wf _ _ _ h
  · exact h

theorem settleCommit_wf (b : Nat) (l : List JRec) (s : State) (h : Memory.wf s.flash.mem = true) :
    Memory.wf (settleCommit b l s).flash.mem = true := by
  unfold settleCommit
  split
  · exact fProgram_wf _ _ _ h
  · exact h

theorem ringRecovery_wf (s : State) (h : Memory.wf s.flash.mem = true) :
    Memory.wf (ringRecovery s).flash.mem = true := by
  unfold ringRecovery
  extract_lets top a from_ free next x b held y p0 p1 p n c
  have ha : Memory.wf a.flash.mem = true := settlePage_wf top s h
  have hb : b.flash.mem = a.flash.mem := rfl
  have hc : c.flash.mem = b.flash.mem := rfl
  clear_value c
  split
  · simp [hb, ha]
  · simp [hc, hb, ha]

theorem journalWalk_wf (s : State) (h : Memory.wf s.flash.mem = true) : Memory.wf (journalWalk s).flash.mem = true := by
  unfold journalWalk
  dsimp only
  split
  · exact h
  · exact settleCommit_wf _ _ s h

theorem cfStart_wf (failing again : List Nat) (s : State) (h : Memory.wf s.flash.mem = true) :
    Memory.wf (cfStart failing again s).flash.mem = true := by
  unfold cfStart
  split
  · exact h
  · split
    · simpa using h
    · extract_lets a x b c d e
      have hb : Memory.wf b.flash.mem = true := by
        have : b.flash.mem = s.flash.mem := by simp [b, a]
        rw [this]; exact h
      clear_value b
      have hc : Memory.wf c.flash.mem = true := ringRecovery_wf _ (journalWalk_wf _ hb)
      clear_value c
      have hd : Memory.wf d.flash.mem = true := by
        have : d.flash.mem = c.flash.mem := by simp [d]
        rw [this]; exact hc
      clear_value d
      split <;> simpa using hd

theorem flashProgramDone_wf (bad : Option (List Byte)) (s : State) (h : Memory.wf s.flash.mem = true) :
    Memory.wf (flashProgramDone bad s).flash.mem = true := by
  unfold flashProgramDone
  split
  · split
    · exact h
    · extract_lets got x good why a b
      have ha : Memory.wf a.flash.mem = true := by simpa [a, x] using fProgram_wf _ _ _ h
      clear_value a good why
      have hb : b.flash.mem = a.flash.mem := by simp only [b]; split <;> simp
      clear_value b
      have h1 := flashNextOp_kept b
      have h2 := flashDrop_kept a
      (repeat' split) <;> simp_all
  · exact h

theorem notBlank_wf (a : Nat) (bad : Option (Nat × Byte)) (s : State) (h : Memory.wf s.flash.mem = true) :
    Memory.wf (notBlank a bad s).flash.mem = true := by
  unfold notBlank
  split
  · exact fSet_wf _ _ _ h
  · exact h

theorem flashEraseDone_wf (bad : Option (Nat × Byte)) (s : State) (h : Memory.wf s.flash.mem = true) :
    Memory.wf (flashEraseDone bad s).flash.mem = true := by
  unfold flashEraseDone
  split
  · split
    · exact h
    · extract_lets a good b c d
      have ha : Memory.wf a.flash.mem = true := by simpa [a] using notBlank_wf _ _ _ (fErase_wf _ _ h)
      clear_value a good
      have hb : b.flash.mem = a.flash.mem := by simp [b]
      clear_value b
      have hc : c.flash.mem = a.flash.mem := by simp only [c]; split <;> simp [hb]
      clear_value c
      have hd : d.flash.mem = a.flash.mem := by simp only [d]; split <;> simp [hc]
      clear_value d
      have h1 := flashNextOp_kept d
      have h2 := flashDrop_kept d
      (repeat' split) <;> simp_all
  · exact h

end Sys2Proof.Machine
end

