-- ==== Sys2Proof/Laws/Time.lean ====
section
/-! SUPPORT. What a word entering a queue, a log entry and the passing of time leave as they were. -/

namespace Sys2Proof.Machine

@[simp] theorem qMarks_fields (q : Nat) (s : State) :
    (qMarks q s).variant = s.variant ∧ (qMarks q s).cyc = s.cyc ∧ (qMarks q s).now = s.now ∧
    (qMarks q s).ring = s.ring ∧ (qMarks q s).clk = s.clk ∧ (qMarks q s).sys = s.sys ∧ (qMarks q s).mp = s.mp ∧
    (qMarks q s).queues = s.queues ∧ (qMarks q s).store = s.store ∧ (qMarks q s).ports = s.ports ∧
    (qMarks q s).cop = s.cop ∧ (qMarks q s).polls = s.polls ∧ (qMarks q s).groups = s.groups ∧
    (qMarks q s).jobs = s.jobs ∧ (qMarks q s).nextJob = s.nextJob ∧ (qMarks q s).releases = s.releases ∧
    (qMarks q s).canopy = s.canopy ∧ (qMarks q s).tenants = s.tenants ∧ (qMarks q s).cards = s.cards ∧
    (qMarks q s).leave = s.leave ∧ (qMarks q s).guards = s.guards ∧ (qMarks q s).lines = s.lines ∧
    (qMarks q s).lineCtl = s.lineCtl ∧ (qMarks q s).uplinks = s.uplinks ∧ (qMarks q s).mdio = s.mdio ∧
    (qMarks q s).logs = s.logs ∧ (qMarks q s).flash = s.flash ∧ (qMarks q s).svc = s.svc ∧ (qMarks q s).cfg = s.cfg ∧
    (qMarks q s).free = s.free ∧ (qMarks q s).pending = s.pending := by
  unfold qMarks; dsimp only; (repeat' split) <;> simp

@[simp] theorem entered_fields (q : Nat) (t : Tag) (s : State) :
    (entered q t s).variant = s.variant ∧ (entered q t s).now = s.now ∧ (entered q t s).ring = s.ring ∧
    (entered q t s).clk = s.clk ∧ (entered q t s).sys = s.sys ∧ (entered q t s).mp = s.mp ∧
    (entered q t s).queues = s.queues ∧ (entered q t s).store = s.store ∧ (entered q t s).ports = s.ports ∧
    (entered q t s).cop = s.cop ∧ (entered q t s).polls = s.polls ∧ (entered q t s).groups = s.groups ∧
    (entered q t s).jobs = s.jobs ∧ (entered q t s).nextJob = s.nextJob ∧ (entered q t s).releases = s.releases ∧
    (entered q t s).canopy = s.canopy ∧ (entered q t s).tenants = s.tenants ∧ (entered q t s).cards = s.cards ∧
    (entered q t s).leave = s.leave ∧ (entered q t s).guards = s.guards ∧ (entered q t s).lines = s.lines ∧
    (entered q t s).lineCtl = s.lineCtl ∧ (entered q t s).uplinks = s.uplinks ∧ (entered q t s).mdio = s.mdio ∧
    (entered q t s).logs = s.logs ∧ (entered q t s).flash = s.flash ∧ (entered q t s).svc = s.svc ∧
    (entered q t s).cfg = s.cfg ∧ (entered q t s).free = s.free ∧ (entered q t s).pending = s.pending := by
  unfold entered; dsimp only; (repeat' split) <;> simp

@[simp] theorem enter_fields (q : Nat) (p : Producer) (w : QWord) (s : State) :
    (enter q p w s).variant = s.variant ∧ (enter q p w s).now = s.now ∧ (enter q p w s).ring = s.ring ∧
    (enter q p w s).clk = s.clk ∧ (enter q p w s).sys = s.sys ∧ (enter q p w s).store = s.store ∧
    (enter q p w s).ports = s.ports ∧ (enter q p w s).cop = s.cop ∧ (enter q p w s).polls = s.polls ∧
    (enter q p w s).groups = s.groups ∧ (enter q p w s).jobs = s.jobs ∧ (enter q p w s).nextJob = s.nextJob ∧
    (enter q p w s).releases = s.releases ∧ (enter q p w s).canopy = s.canopy ∧ (enter q p w s).tenants = s.tenants ∧
    (enter q p w s).cards = s.cards ∧ (enter q p w s).leave = s.leave ∧ (enter q p w s).guards = s.guards ∧
    (enter q p w s).lines = s.lines ∧ (enter q p w s).lineCtl = s.lineCtl ∧ (enter q p w s).uplinks = s.uplinks ∧
    (enter q p w s).mdio = s.mdio ∧ (enter q p w s).logs = s.logs ∧ (enter q p w s).flash = s.flash ∧
    (enter q p w s).svc = s.svc ∧ (enter q p w s).cfg = s.cfg ∧ (enter q p w s).free = s.free ∧
    (enter q p w s).pending = s.pending := by
  unfold enter; extract_lets; rename_i c i a _ _ _ _ _ _
  have ha : a = s ∨ a = { s with mp := { s.mp with stamp := stampNow s } } := by
    simp only [a]; split
    · exact .inr rfl
    · exact .inl rfl
  clear_value a
  rcases ha with rfl | rfl <;> simp

@[simp] theorem gapWrite_fields (q : Nat) (s : State) :
    (gapWrite q s).variant = s.variant ∧ (gapWrite q s).now = s.now ∧ (gapWrite q s).ring = s.ring ∧
    (gapWrite q s).clk = s.clk ∧ (gapWrite q s).sys = s.sys ∧ (gapWrite q s).store = s.store ∧
    (gapWrite q s).ports = s.ports ∧ (gapWrite q s).cop = s.cop ∧ (gapWrite q s).polls = s.polls ∧
    (gapWrite q s).groups = s.groups ∧ (gapWrite q s).jobs = s.jobs ∧ (gapWrite q s).nextJob = s.nextJob ∧
    (gapWrite q s).releases = s.releases ∧ (gapWrite q s).canopy = s.canopy ∧ (gapWrite q s).tenants = s.tenants ∧
    (gapWrite q s).cards = s.cards ∧ (gapWrite q s).leave = s.leave ∧ (gapWrite q s).guards = s.guards ∧
    (gapWrite q s).lines = s.lines ∧ (gapWrite q s).lineCtl = s.lineCtl ∧ (gapWrite q s).uplinks = s.uplinks ∧
    (gapWrite q s).mdio = s.mdio ∧ (gapWrite q s).logs = s.logs ∧ (gapWrite q s).flash = s.flash ∧
    (gapWrite q s).svc = s.svc ∧ (gapWrite q s).cfg = s.cfg ∧ (gapWrite q s).free = s.free ∧
    (gapWrite q s).pending = s.pending := by
  unfold gapWrite
  generalize (qGet q s).gap.words = l
  induction l generalizing s with
  | nil => repeat' constructor
  | cons a l ih =>
    simp only [List.foldl_cons]
    split
    · simpa using ih (qMap q _ (enter q .gapReg ⟨.gap, a.2⟩ s))
    · exact ih s

@[simp] theorem writeWord_fields (q : Nat) (p : Producer) (w : QWord) (s : State) :
    (writeWord q p w s).variant = s.variant ∧ (writeWord q p w s).now = s.now ∧ (writeWord q p w s).ring = s.ring ∧
    (writeWord q p w s).clk = s.clk ∧ (writeWord q p w s).sys = s.sys ∧ (writeWord q p w s).store = s.store ∧
    (writeWord q p w s).ports = s.ports ∧ (writeWord q p w s).cop = s.cop ∧ (writeWord q p w s).polls = s.polls ∧
    (writeWord q p w s).groups = s.groups ∧ (writeWord q p w s).jobs = s.jobs ∧
    (writeWord q p w s).nextJob = s.nextJob ∧ (writeWord q p w s).releases = s.releases ∧
    (writeWord q p w s).canopy = s.canopy ∧ (writeWord q p w s).tenants = s.tenants ∧
    (writeWord q p w s).cards = s.cards ∧ (writeWord q p w s).leave = s.leave ∧
    (writeWord q p w s).guards = s.guards ∧ (writeWord q p w s).lines = s.lines ∧
    (writeWord q p w s).lineCtl = s.lineCtl ∧ (writeWord q p w s).uplinks = s.uplinks ∧
    (writeWord q p w s).mdio = s.mdio ∧ (writeWord q p w s).logs = s.logs ∧ (writeWord q p w s).flash = s.flash ∧
    (writeWord q p w s).svc = s.svc ∧ (writeWord q p w s).cfg = s.cfg ∧ (writeWord q p w s).free = s.free ∧
    (writeWord q p w s).pending = s.pending := by
  unfold writeWord; (repeat' split) <;> simp

@[simp] theorem stall_fields (q : Nat) (s : State) :
    (stall q s).variant = s.variant ∧ (stall q s).now = s.now ∧ (stall q s).ring = s.ring ∧ (stall q s).clk = s.clk ∧
    (stall q s).sys = s.sys ∧ (stall q s).store = s.store ∧ (stall q s).ports = s.ports ∧ (stall q s).cop = s.cop ∧
    (stall q s).polls = s.polls ∧ (stall q s).groups = s.groups ∧ (stall q s).jobs = s.jobs ∧
    (stall q s).nextJob = s.nextJob ∧ (stall q s).releases = s.releases ∧ (stall q s).canopy = s.canopy ∧
    (stall q s).tenants = s.tenants ∧ (stall q s).cards = s.cards ∧ (stall q s).leave = s.leave ∧
    (stall q s).guards = s.guards ∧ (stall q s).lines = s.lines ∧ (stall q s).lineCtl = s.lineCtl ∧
    (stall q s).uplinks = s.uplinks ∧ (stall q s).mdio = s.mdio ∧ (stall q s).logs = s.logs ∧
    (stall q s).flash = s.flash ∧ (stall q s).svc = s.svc ∧ (stall q s).cfg = s.cfg ∧ (stall q s).free = s.free ∧
    (stall q s).pending = s.pending := by
  unfold stall; (repeat' split) <;> simp

@[simp] theorem writeFor_fields (q : Nat) (p : Producer) (s : State) :
    (writeFor q p s).variant = s.variant ∧ (writeFor q p s).now = s.now ∧ (writeFor q p s).ring = s.ring ∧
    (writeFor q p s).clk = s.clk ∧ (writeFor q p s).sys = s.sys ∧ (writeFor q p s).store = s.store ∧
    (writeFor q p s).ports = s.ports ∧ (writeFor q p s).cop = s.cop ∧ (writeFor q p s).polls = s.polls ∧
    (writeFor q p s).groups = s.groups ∧ (writeFor q p s).jobs = s.jobs ∧ (writeFor q p s).nextJob = s.nextJob ∧
    (writeFor q p s).releases = s.releases ∧ (writeFor q p s).canopy = s.canopy ∧
    (writeFor q p s).tenants = s.tenants ∧ (writeFor q p s).cards = s.cards ∧ (writeFor q p s).leave = s.leave ∧
    (writeFor q p s).guards = s.guards ∧ (writeFor q p s).lines = s.lines ∧ (writeFor q p s).lineCtl = s.lineCtl ∧
    (writeFor q p s).uplinks = s.uplinks ∧ (writeFor q p s).mdio = s.mdio ∧ (writeFor q p s).logs = s.logs ∧
    (writeFor q p s).flash = s.flash ∧ (writeFor q p s).svc = s.svc ∧ (writeFor q p s).cfg = s.cfg ∧
    (writeFor q p s).free = s.free ∧ (writeFor q p s).pending = s.pending := by
  unfold writeFor; dsimp only; (repeat' split) <;> simp

@[simp] theorem writeNext_fields (q : Nat) (s : State) :
    (writeNext q s).variant = s.variant ∧ (writeNext q s).now = s.now ∧ (writeNext q s).ring = s.ring ∧
    (writeNext q s).clk = s.clk ∧ (writeNext q s).sys = s.sys ∧ (writeNext q s).store = s.store ∧
    (writeNext q s).ports = s.ports ∧ (writeNext q s).cop = s.cop ∧ (writeNext q s).polls = s.polls ∧
    (writeNext q s).groups = s.groups ∧ (writeNext q s).jobs = s.jobs ∧ (writeNext q s).nextJob = s.nextJob ∧
    (writeNext q s).releases = s.releases ∧ (writeNext q s).canopy = s.canopy ∧ (writeNext q s).tenants = s.tenants ∧
    (writeNext q s).cards = s.cards ∧ (writeNext q s).leave = s.leave ∧ (writeNext q s).guards = s.guards ∧
    (writeNext q s).lines = s.lines ∧ (writeNext q s).lineCtl = s.lineCtl ∧ (writeNext q s).uplinks = s.uplinks ∧
    (writeNext q s).mdio = s.mdio ∧ (writeNext q s).logs = s.logs ∧ (writeNext q s).flash = s.flash ∧
    (writeNext q s).svc = s.svc ∧ (writeNext q s).cfg = s.cfg ∧ (writeNext q s).free = s.free ∧
    (writeNext q s).pending = s.pending := by
  unfold writeNext; split <;> simp

@[simp] theorem writeMany_fields (q n : Nat) (s : State) :
    (writeMany q n s).variant = s.variant ∧ (writeMany q n s).now = s.now ∧ (writeMany q n s).ring = s.ring ∧
    (writeMany q n s).clk = s.clk ∧ (writeMany q n s).sys = s.sys ∧ (writeMany q n s).store = s.store ∧
    (writeMany q n s).ports = s.ports ∧ (writeMany q n s).cop = s.cop ∧ (writeMany q n s).polls = s.polls ∧
    (writeMany q n s).groups = s.groups ∧ (writeMany q n s).jobs = s.jobs ∧ (writeMany q n s).nextJob = s.nextJob ∧
    (writeMany q n s).releases = s.releases ∧ (writeMany q n s).canopy = s.canopy ∧
    (writeMany q n s).tenants = s.tenants ∧ (writeMany q n s).cards = s.cards ∧ (writeMany q n s).leave = s.leave ∧
    (writeMany q n s).guards = s.guards ∧ (writeMany q n s).lines = s.lines ∧ (writeMany q n s).lineCtl = s.lineCtl ∧
    (writeMany q n s).uplinks = s.uplinks ∧ (writeMany q n s).mdio = s.mdio ∧ (writeMany q n s).logs = s.logs ∧
    (writeMany q n s).flash = s.flash ∧ (writeMany q n s).svc = s.svc ∧ (writeMany q n s).cfg = s.cfg ∧
    (writeMany q n s).free = s.free ∧ (writeMany q n s).pending = s.pending := by
  induction n generalizing s with
  | zero => repeat' constructor
  | succ n ih =>
    simp only [writeMany]
    split
    · simpa using ih (writeNext q s)
    · simp

@[simp] theorem offer_fields (q : Nat) (p : Producer) (ws : List QWord) (s : State) :
    (offer q p ws s).variant = s.variant ∧ (offer q p ws s).now = s.now ∧ (offer q p ws s).ring = s.ring ∧
    (offer q p ws s).clk = s.clk ∧ (offer q p ws s).sys = s.sys ∧ (offer q p ws s).store = s.store ∧
    (offer q p ws s).ports = s.ports ∧ (offer q p ws s).cop = s.cop ∧ (offer q p ws s).polls = s.polls ∧
    (offer q p ws s).groups = s.groups ∧ (offer q p ws s).jobs = s.jobs ∧ (offer q p ws s).nextJob = s.nextJob ∧
    (offer q p ws s).releases = s.releases ∧ (offer q p ws s).canopy = s.canopy ∧
    (offer q p ws s).tenants = s.tenants ∧ (offer q p ws s).cards = s.cards ∧ (offer q p ws s).leave = s.leave ∧
    (offer q p ws s).guards = s.guards ∧ (offer q p ws s).lines = s.lines ∧ (offer q p ws s).lineCtl = s.lineCtl ∧
    (offer q p ws s).uplinks = s.uplinks ∧ (offer q p ws s).mdio = s.mdio ∧ (offer q p ws s).logs = s.logs ∧
    (offer q p ws s).flash = s.flash ∧ (offer q p ws s).svc = s.svc ∧ (offer q p ws s).cfg = s.cfg ∧
    (offer q p ws s).free = s.free ∧ (offer q p ws s).pending = s.pending := by
  unfold offer; simp

@[simp] theorem notice_fields (n : Nat) (s : State) :
    (notice n s).variant = s.variant ∧ (notice n s).now = s.now ∧ (notice n s).ring = s.ring ∧
    (notice n s).clk = s.clk ∧ (notice n s).sys = s.sys ∧ (notice n s).store = s.store ∧
    (notice n s).ports = s.ports ∧ (notice n s).cop = s.cop ∧ (notice n s).polls = s.polls ∧
    (notice n s).groups = s.groups ∧ (notice n s).jobs = s.jobs ∧ (notice n s).nextJob = s.nextJob ∧
    (notice n s).releases = s.releases ∧ (notice n s).canopy = s.canopy ∧ (notice n s).tenants = s.tenants ∧
    (notice n s).cards = s.cards ∧ (notice n s).leave = s.leave ∧ (notice n s).guards = s.guards ∧
    (notice n s).lines = s.lines ∧ (notice n s).lineCtl = s.lineCtl ∧ (notice n s).uplinks = s.uplinks ∧
    (notice n s).mdio = s.mdio ∧ (notice n s).logs = s.logs ∧ (notice n s).flash = s.flash ∧
    (notice n s).svc = s.svc ∧ (notice n s).cfg = s.cfg ∧ (notice n s).free = s.free ∧
    (notice n s).pending = s.pending := by
  unfold notice; split <;> simp

@[simp] theorem loseOld_fields (n : Nat) (s : State) :
    (loseOld n s).variant = s.variant ∧ (loseOld n s).now = s.now ∧ (loseOld n s).ring = s.ring ∧
    (loseOld n s).clk = s.clk ∧ (loseOld n s).sys = s.sys ∧ (loseOld n s).mp = s.mp ∧
    (loseOld n s).queues = s.queues ∧ (loseOld n s).store = s.store ∧ (loseOld n s).ports = s.ports ∧
    (loseOld n s).cop = s.cop ∧ (loseOld n s).polls = s.polls ∧ (loseOld n s).groups = s.groups ∧
    (loseOld n s).jobs = s.jobs ∧ (loseOld n s).nextJob = s.nextJob ∧ (loseOld n s).releases = s.releases ∧
    (loseOld n s).canopy = s.canopy ∧ (loseOld n s).tenants = s.tenants ∧ (loseOld n s).cards = s.cards ∧
    (loseOld n s).leave = s.leave ∧ (loseOld n s).guards = s.guards ∧ (loseOld n s).lines = s.lines ∧
    (loseOld n s).lineCtl = s.lineCtl ∧ (loseOld n s).uplinks = s.uplinks ∧ (loseOld n s).mdio = s.mdio ∧
    (loseOld n s).flash = s.flash ∧ (loseOld n s).svc = s.svc ∧ (loseOld n s).cfg = s.cfg ∧
    (loseOld n s).free = s.free ∧ (loseOld n s).pending = s.pending := by
  unfold loseOld; split
  · dsimp only; split <;> simp
  · simp

@[simp] theorem keepFlashNext_fields (s : State) :
    (keepFlashNext s).variant = s.variant ∧ (keepFlashNext s).cyc = s.cyc ∧ (keepFlashNext s).now = s.now ∧
    (keepFlashNext s).ring = s.ring ∧ (keepFlashNext s).clk = s.clk ∧ (keepFlashNext s).sys = s.sys ∧
    (keepFlashNext s).mp = s.mp ∧ (keepFlashNext s).queues = s.queues ∧ (keepFlashNext s).store = s.store ∧
    (keepFlashNext s).ports = s.ports ∧ (keepFlashNext s).cop = s.cop ∧ (keepFlashNext s).polls = s.polls ∧
    (keepFlashNext s).groups = s.groups ∧ (keepFlashNext s).jobs = s.jobs ∧ (keepFlashNext s).nextJob = s.nextJob ∧
    (keepFlashNext s).releases = s.releases ∧ (keepFlashNext s).canopy = s.canopy ∧
    (keepFlashNext s).tenants = s.tenants ∧ (keepFlashNext s).cards = s.cards ∧ (keepFlashNext s).leave = s.leave ∧
    (keepFlashNext s).guards = s.guards ∧ (keepFlashNext s).lines = s.lines ∧ (keepFlashNext s).lineCtl = s.lineCtl ∧
    (keepFlashNext s).uplinks = s.uplinks ∧ (keepFlashNext s).mdio = s.mdio ∧ (keepFlashNext s).logs = s.logs ∧
    (keepFlashNext s).flash = s.flash ∧ (keepFlashNext s).svc = s.svc ∧ (keepFlashNext s).cfg = s.cfg ∧
    (keepFlashNext s).free = s.free ∧ (keepFlashNext s).pending = s.pending := by
  unfold keepFlashNext; simp

@[simp] theorem logPos_fields (code sub idx : Nat) (d : List Nat) (s : State) :
    (logPos code sub idx d s).variant = s.variant ∧ (logPos code sub idx d s).now = s.now ∧
    (logPos code sub idx d s).ring = s.ring ∧ (logPos code sub idx d s).clk = s.clk ∧
    (logPos code sub idx d s).sys = s.sys ∧ (logPos code sub idx d s).mp = s.mp ∧
    (logPos code sub idx d s).queues = s.queues ∧ (logPos code sub idx d s).store = s.store ∧
    (logPos code sub idx d s).ports = s.ports ∧ (logPos code sub idx d s).cop = s.cop ∧
    (logPos code sub idx d s).polls = s.polls ∧ (logPos code sub idx d s).groups = s.groups ∧
    (logPos code sub idx d s).jobs = s.jobs ∧ (logPos code sub idx d s).nextJob = s.nextJob ∧
    (logPos code sub idx d s).releases = s.releases ∧ (logPos code sub idx d s).canopy = s.canopy ∧
    (logPos code sub idx d s).tenants = s.tenants ∧ (logPos code sub idx d s).cards = s.cards ∧
    (logPos code sub idx d s).leave = s.leave ∧ (logPos code sub idx d s).guards = s.guards ∧
    (logPos code sub idx d s).lines = s.lines ∧ (logPos code sub idx d s).lineCtl = s.lineCtl ∧
    (logPos code sub idx d s).uplinks = s.uplinks ∧ (logPos code sub idx d s).mdio = s.mdio ∧
    (logPos code sub idx d s).flash = s.flash ∧ (logPos code sub idx d s).svc = s.svc ∧
    (logPos code sub idx d s).cfg = s.cfg ∧ (logPos code sub idx d s).free = s.free ∧
    (logPos code sub idx d s).pending = s.pending := by
  unfold logPos; simp

@[simp] theorem logEvent_fields (code sub idx : Nat) (d : List Nat) (s : State) :
    (logEvent code sub idx d s).variant = s.variant ∧ (logEvent code sub idx d s).now = s.now ∧
    (logEvent code sub idx d s).ring = s.ring ∧ (logEvent code sub idx d s).clk = s.clk ∧
    (logEvent code sub idx d s).sys = s.sys ∧ (logEvent code sub idx d s).store = s.store ∧
    (logEvent code sub idx d s).ports = s.ports ∧ (logEvent code sub idx d s).cop = s.cop ∧
    (logEvent code sub idx d s).polls = s.polls ∧ (logEvent code sub idx d s).groups = s.groups ∧
    (logEvent code sub idx d s).jobs = s.jobs ∧ (logEvent code sub idx d s).nextJob = s.nextJob ∧
    (logEvent code sub idx d s).releases = s.releases ∧ (logEvent code sub idx d s).canopy = s.canopy ∧
    (logEvent code sub idx d s).tenants = s.tenants ∧ (logEvent code sub idx d s).cards = s.cards ∧
    (logEvent code sub idx d s).leave = s.leave ∧ (logEvent code sub idx d s).guards = s.guards ∧
    (logEvent code sub idx d s).lines = s.lines ∧ (logEvent code sub idx d s).lineCtl = s.lineCtl ∧
    (logEvent code sub idx d s).uplinks = s.uplinks ∧ (logEvent code sub idx d s).mdio = s.mdio ∧
    (logEvent code sub idx d s).flash = s.flash ∧ (logEvent code sub idx d s).svc = s.svc ∧
    (logEvent code sub idx d s).cfg = s.cfg ∧ (logEvent code sub idx d s).free = s.free ∧
    (logEvent code sub idx d s).pending = s.pending := by
  unfold logEvent; split <;> simp

@[simp] theorem logMirror_fields (rule : Nat) (hdr : List Nat) (len : Nat) (data : List Nat) (s : State) :
    (logMirror rule hdr len data s).variant = s.variant ∧ (logMirror rule hdr len data s).now = s.now ∧
    (logMirror rule hdr len data s).ring = s.ring ∧ (logMirror rule hdr len data s).clk = s.clk ∧
    (logMirror rule hdr len data s).sys = s.sys ∧ (logMirror rule hdr len data s).store = s.store ∧
    (logMirror rule hdr len data s).ports = s.ports ∧ (logMirror rule hdr len data s).cop = s.cop ∧
    (logMirror rule hdr len data s).polls = s.polls ∧ (logMirror rule hdr len data s).groups = s.groups ∧
    (logMirror rule hdr len data s).jobs = s.jobs ∧ (logMirror rule hdr len data s).nextJob = s.nextJob ∧
    (logMirror rule hdr len data s).releases = s.releases ∧ (logMirror rule hdr len data s).canopy = s.canopy ∧
    (logMirror rule hdr len data s).tenants = s.tenants ∧ (logMirror rule hdr len data s).cards = s.cards ∧
    (logMirror rule hdr len data s).leave = s.leave ∧ (logMirror rule hdr len data s).guards = s.guards ∧
    (logMirror rule hdr len data s).lines = s.lines ∧ (logMirror rule hdr len data s).lineCtl = s.lineCtl ∧
    (logMirror rule hdr len data s).uplinks = s.uplinks ∧ (logMirror rule hdr len data s).mdio = s.mdio ∧
    (logMirror rule hdr len data s).flash = s.flash ∧ (logMirror rule hdr len data s).svc = s.svc ∧
    (logMirror rule hdr len data s).cfg = s.cfg ∧ (logMirror rule hdr len data s).free = s.free ∧
    (logMirror rule hdr len data s).pending = s.pending := by
  unfold logMirror; split <;> simp

@[simp] theorem holdGroups_fields (s : State) :
    (holdGroups s).variant = s.variant ∧ (holdGroups s).regs = s.regs ∧ (holdGroups s).cyc = s.cyc ∧
    (holdGroups s).now = s.now ∧ (holdGroups s).ring = s.ring ∧ (holdGroups s).clk = s.clk ∧
    (holdGroups s).sys = s.sys ∧ (holdGroups s).mp = s.mp ∧ (holdGroups s).queues = s.queues ∧
    (holdGroups s).store = s.store ∧ (holdGroups s).ports = s.ports ∧ (holdGroups s).cop = s.cop ∧
    (holdGroups s).polls = s.polls ∧ (holdGroups s).jobs = s.jobs ∧ (holdGroups s).nextJob = s.nextJob ∧
    (holdGroups s).releases = s.releases ∧ (holdGroups s).canopy = s.canopy ∧ (holdGroups s).tenants = s.tenants ∧
    (holdGroups s).cards = s.cards ∧ (holdGroups s).leave = s.leave ∧ (holdGroups s).guards = s.guards ∧
    (holdGroups s).lines = s.lines ∧ (holdGroups s).lineCtl = s.lineCtl ∧ (holdGroups s).uplinks = s.uplinks ∧
    (holdGroups s).mdio = s.mdio ∧ (holdGroups s).logs = s.logs ∧ (holdGroups s).flash = s.flash ∧
    (holdGroups s).svc = s.svc ∧ (holdGroups s).cfg = s.cfg ∧ (holdGroups s).free = s.free ∧
    (holdGroups s).pending = s.pending := by repeat' constructor

@[simp] theorem groupsAlign_fields (s : State) :
    (groupsAlign s).variant = s.variant ∧ (groupsAlign s).regs = s.regs ∧ (groupsAlign s).cyc = s.cyc ∧
    (groupsAlign s).now = s.now ∧ (groupsAlign s).ring = s.ring ∧ (groupsAlign s).clk = s.clk ∧
    (groupsAlign s).sys = s.sys ∧ (groupsAlign s).mp = s.mp ∧ (groupsAlign s).queues = s.queues ∧
    (groupsAlign s).store = s.store ∧ (groupsAlign s).ports = s.ports ∧ (groupsAlign s).cop = s.cop ∧
    (groupsAlign s).polls = s.polls ∧ (groupsAlign s).jobs = s.jobs ∧ (groupsAlign s).nextJob = s.nextJob ∧
    (groupsAlign s).releases = s.releases ∧ (groupsAlign s).canopy = s.canopy ∧ (groupsAlign s).tenants = s.tenants ∧
    (groupsAlign s).cards = s.cards ∧ (groupsAlign s).leave = s.leave ∧ (groupsAlign s).guards = s.guards ∧
    (groupsAlign s).lines = s.lines ∧ (groupsAlign s).lineCtl = s.lineCtl ∧ (groupsAlign s).uplinks = s.uplinks ∧
    (groupsAlign s).mdio = s.mdio ∧ (groupsAlign s).logs = s.logs ∧ (groupsAlign s).flash = s.flash ∧
    (groupsAlign s).svc = s.svc ∧ (groupsAlign s).cfg = s.cfg ∧ (groupsAlign s).free = s.free ∧
    (groupsAlign s).pending = s.pending := by repeat' constructor

@[simp] theorem groupsUnalign_fields (s : State) :
    (groupsUnalign s).variant = s.variant ∧ (groupsUnalign s).regs = s.regs ∧ (groupsUnalign s).cyc = s.cyc ∧
    (groupsUnalign s).now = s.now ∧ (groupsUnalign s).ring = s.ring ∧ (groupsUnalign s).clk = s.clk ∧
    (groupsUnalign s).sys = s.sys ∧ (groupsUnalign s).mp = s.mp ∧ (groupsUnalign s).queues = s.queues ∧
    (groupsUnalign s).store = s.store ∧ (groupsUnalign s).ports = s.ports ∧ (groupsUnalign s).cop = s.cop ∧
    (groupsUnalign s).polls = s.polls ∧ (groupsUnalign s).jobs = s.jobs ∧ (groupsUnalign s).nextJob = s.nextJob ∧
    (groupsUnalign s).releases = s.releases ∧ (groupsUnalign s).canopy = s.canopy ∧
    (groupsUnalign s).tenants = s.tenants ∧ (groupsUnalign s).cards = s.cards ∧ (groupsUnalign s).leave = s.leave ∧
    (groupsUnalign s).guards = s.guards ∧ (groupsUnalign s).lines = s.lines ∧ (groupsUnalign s).lineCtl = s.lineCtl ∧
    (groupsUnalign s).uplinks = s.uplinks ∧ (groupsUnalign s).mdio = s.mdio ∧ (groupsUnalign s).logs = s.logs ∧
    (groupsUnalign s).flash = s.flash ∧ (groupsUnalign s).svc = s.svc ∧ (groupsUnalign s).cfg = s.cfg ∧
    (groupsUnalign s).free = s.free ∧ (groupsUnalign s).pending = s.pending := by repeat' constructor

@[simp] theorem setQuality_fields (q : Nat) (s : State) :
    (setQuality q s).variant = s.variant ∧ (setQuality q s).now = s.now ∧ (setQuality q s).ring = s.ring ∧
    (setQuality q s).sys = s.sys ∧ (setQuality q s).store = s.store ∧ (setQuality q s).ports = s.ports ∧
    (setQuality q s).cop = s.cop ∧ (setQuality q s).polls = s.polls ∧ (setQuality q s).jobs = s.jobs ∧
    (setQuality q s).nextJob = s.nextJob ∧ (setQuality q s).releases = s.releases ∧
    (setQuality q s).canopy = s.canopy ∧ (setQuality q s).tenants = s.tenants ∧ (setQuality q s).cards = s.cards ∧
    (setQuality q s).leave = s.leave ∧ (setQuality q s).guards = s.guards ∧ (setQuality q s).lines = s.lines ∧
    (setQuality q s).lineCtl = s.lineCtl ∧ (setQuality q s).uplinks = s.uplinks ∧ (setQuality q s).mdio = s.mdio ∧
    (setQuality q s).flash = s.flash ∧ (setQuality q s).svc = s.svc ∧ (setQuality q s).cfg = s.cfg ∧
    (setQuality q s).free = s.free ∧ (setQuality q s).pending = s.pending := by
  unfold setQuality; dsimp only; (repeat' split) <;> simp

@[simp] theorem logRtChange_fields (sub : Nat) (before : Stamp) (s : State) :
    (logRtChange sub before s).variant = s.variant ∧ (logRtChange sub before s).now = s.now ∧
    (logRtChange sub before s).ring = s.ring ∧ (logRtChange sub before s).clk = s.clk ∧
    (logRtChange sub before s).sys = s.sys ∧ (logRtChange sub before s).store = s.store ∧
    (logRtChange sub before s).ports = s.ports ∧ (logRtChange sub before s).cop = s.cop ∧
    (logRtChange sub before s).polls = s.polls ∧ (logRtChange sub before s).groups = s.groups ∧
    (logRtChange sub before s).jobs = s.jobs ∧ (logRtChange sub before s).nextJob = s.nextJob ∧
    (logRtChange sub before s).releases = s.releases ∧ (logRtChange sub before s).canopy = s.canopy ∧
    (logRtChange sub before s).tenants = s.tenants ∧ (logRtChange sub before s).cards = s.cards ∧
    (logRtChange sub before s).leave = s.leave ∧ (logRtChange sub before s).guards = s.guards ∧
    (logRtChange sub before s).lines = s.lines ∧ (logRtChange sub before s).lineCtl = s.lineCtl ∧
    (logRtChange sub before s).uplinks = s.uplinks ∧ (logRtChange sub before s).mdio = s.mdio ∧
    (logRtChange sub before s).flash = s.flash ∧ (logRtChange sub before s).svc = s.svc ∧
    (logRtChange sub before s).cfg = s.cfg ∧ (logRtChange sub before s).free = s.free ∧
    (logRtChange sub before s).pending = s.pending := by
  unfold logRtChange; simp

@[simp] theorem pulseDone_fields (s : State) :
    (pulseDone s).variant = s.variant ∧ (pulseDone s).regs = s.regs ∧ (pulseDone s).cyc = s.cyc ∧
    (pulseDone s).now = s.now ∧ (pulseDone s).ring = s.ring ∧ (pulseDone s).sys = s.sys ∧
    (pulseDone s).mp = s.mp ∧ (pulseDone s).queues = s.queues ∧ (pulseDone s).store = s.store ∧
    (pulseDone s).ports = s.ports ∧ (pulseDone s).cop = s.cop ∧ (pulseDone s).polls = s.polls ∧
    (pulseDone s).groups = s.groups ∧ (pulseDone s).jobs = s.jobs ∧ (pulseDone s).nextJob = s.nextJob ∧
    (pulseDone s).releases = s.releases ∧ (pulseDone s).canopy = s.canopy ∧ (pulseDone s).tenants = s.tenants ∧
    (pulseDone s).cards = s.cards ∧ (pulseDone s).leave = s.leave ∧ (pulseDone s).guards = s.guards ∧
    (pulseDone s).lines = s.lines ∧ (pulseDone s).lineCtl = s.lineCtl ∧ (pulseDone s).uplinks = s.uplinks ∧
    (pulseDone s).mdio = s.mdio ∧ (pulseDone s).logs = s.logs ∧ (pulseDone s).flash = s.flash ∧
    (pulseDone s).svc = s.svc ∧ (pulseDone s).cfg = s.cfg ∧ (pulseDone s).free = s.free ∧
    (pulseDone s).pending = s.pending := by
  unfold pulseDone; (repeat' split) <;> simp

@[simp] theorem w9Release_fields (s : State) :
    (w9Release s).variant = s.variant ∧ (w9Release s).regs = s.regs ∧ (w9Release s).cyc = s.cyc ∧
    (w9Release s).now = s.now ∧ (w9Release s).ring = s.ring ∧ (w9Release s).sys = s.sys ∧
    (w9Release s).mp = s.mp ∧ (w9Release s).queues = s.queues ∧ (w9Release s).store = s.store ∧
    (w9Release s).ports = s.ports ∧ (w9Release s).cop = s.cop ∧ (w9Release s).polls = s.polls ∧
    (w9Release s).groups = s.groups ∧ (w9Release s).jobs = s.jobs ∧ (w9Release s).nextJob = s.nextJob ∧
    (w9Release s).releases = s.releases ∧ (w9Release s).canopy = s.canopy ∧ (w9Release s).tenants = s.tenants ∧
    (w9Release s).cards = s.cards ∧ (w9Release s).leave = s.leave ∧ (w9Release s).guards = s.guards ∧
    (w9Release s).lines = s.lines ∧ (w9Release s).lineCtl = s.lineCtl ∧ (w9Release s).uplinks = s.uplinks ∧
    (w9Release s).mdio = s.mdio ∧ (w9Release s).logs = s.logs ∧ (w9Release s).flash = s.flash ∧
    (w9Release s).svc = s.svc ∧ (w9Release s).cfg = s.cfg ∧ (w9Release s).free = s.free ∧
    (w9Release s).pending = s.pending := by
  unfold w9Release; (repeat' split) <;> simp

@[simp] theorem pulseCheck_fields (s : State) :
    (pulseCheck s).variant = s.variant ∧ (pulseCheck s).regs = s.regs ∧ (pulseCheck s).cyc = s.cyc ∧
    (pulseCheck s).now = s.now ∧ (pulseCheck s).ring = s.ring ∧ (pulseCheck s).sys = s.sys ∧
    (pulseCheck s).mp = s.mp ∧ (pulseCheck s).queues = s.queues ∧ (pulseCheck s).store = s.store ∧
    (pulseCheck s).ports = s.ports ∧ (pulseCheck s).cop = s.cop ∧ (pulseCheck s).polls = s.polls ∧
    (pulseCheck s).groups = s.groups ∧ (pulseCheck s).jobs = s.jobs ∧ (pulseCheck s).nextJob = s.nextJob ∧
    (pulseCheck s).releases = s.releases ∧ (pulseCheck s).canopy = s.canopy ∧ (pulseCheck s).tenants = s.tenants ∧
    (pulseCheck s).cards = s.cards ∧ (pulseCheck s).leave = s.leave ∧ (pulseCheck s).guards = s.guards ∧
    (pulseCheck s).lines = s.lines ∧ (pulseCheck s).lineCtl = s.lineCtl ∧ (pulseCheck s).uplinks = s.uplinks ∧
    (pulseCheck s).mdio = s.mdio ∧ (pulseCheck s).logs = s.logs ∧ (pulseCheck s).flash = s.flash ∧
    (pulseCheck s).svc = s.svc ∧ (pulseCheck s).cfg = s.cfg ∧ (pulseCheck s).free = s.free ∧
    (pulseCheck s).pending = s.pending := by
  unfold pulseCheck; simp

@[simp] theorem pulseStart_fields (s : State) :
    (pulseStart s).variant = s.variant ∧ (pulseStart s).regs = s.regs ∧ (pulseStart s).cyc = s.cyc ∧
    (pulseStart s).now = s.now ∧ (pulseStart s).ring = s.ring ∧ (pulseStart s).sys = s.sys ∧
    (pulseStart s).mp = s.mp ∧ (pulseStart s).queues = s.queues ∧ (pulseStart s).store = s.store ∧
    (pulseStart s).ports = s.ports ∧ (pulseStart s).cop = s.cop ∧ (pulseStart s).polls = s.polls ∧
    (pulseStart s).groups = s.groups ∧ (pulseStart s).jobs = s.jobs ∧ (pulseStart s).nextJob = s.nextJob ∧
    (pulseStart s).releases = s.releases ∧ (pulseStart s).canopy = s.canopy ∧ (pulseStart s).tenants = s.tenants ∧
    (pulseStart s).cards = s.cards ∧ (pulseStart s).leave = s.leave ∧ (pulseStart s).guards = s.guards ∧
    (pulseStart s).lines = s.lines ∧ (pulseStart s).lineCtl = s.lineCtl ∧ (pulseStart s).uplinks = s.uplinks ∧
    (pulseStart s).mdio = s.mdio ∧ (pulseStart s).logs = s.logs ∧ (pulseStart s).flash = s.flash ∧
    (pulseStart s).svc = s.svc ∧ (pulseStart s).cfg = s.cfg ∧ (pulseStart s).free = s.free ∧
    (pulseStart s).pending = s.pending := by
  unfold pulseStart; split <;> simp

@[simp] theorem carry_fields (s : State) :
    (carry s).variant = s.variant ∧ (carry s).now = s.now ∧ (carry s).sys = s.sys ∧ (carry s).store = s.store ∧
    (carry s).ports = s.ports ∧ (carry s).cop = s.cop ∧ (carry s).polls = s.polls ∧ (carry s).groups = s.groups ∧
    (carry s).jobs = s.jobs ∧ (carry s).nextJob = s.nextJob ∧ (carry s).releases = s.releases ∧
    (carry s).canopy = s.canopy ∧ (carry s).tenants = s.tenants ∧ (carry s).cards = s.cards ∧
    (carry s).leave = s.leave ∧ (carry s).guards = s.guards ∧ (carry s).lines = s.lines ∧
    (carry s).lineCtl = s.lineCtl ∧ (carry s).uplinks = s.uplinks ∧ (carry s).mdio = s.mdio ∧
    (carry s).flash = s.flash ∧ (carry s).svc = s.svc ∧ (carry s).cfg = s.cfg ∧ (carry s).free = s.free ∧
    (carry s).pending = s.pending := by
  unfold carry; dsimp only; split <;> simp

@[simp] theorem advance_fields (target : Nat) (s : State) :
    (advance target s).variant = s.variant ∧ (advance target s).regs = s.regs ∧ (advance target s).clk = s.clk ∧
    (advance target s).sys = s.sys ∧ (advance target s).mp = s.mp ∧ (advance target s).queues = s.queues ∧
    (advance target s).store = s.store ∧ (advance target s).ports = s.ports ∧ (advance target s).cop = s.cop ∧
    (advance target s).polls = s.polls ∧ (advance target s).groups = s.groups ∧ (advance target s).jobs = s.jobs ∧
    (advance target s).nextJob = s.nextJob ∧ (advance target s).releases = s.releases ∧
    (advance target s).canopy = s.canopy ∧ (advance target s).tenants = s.tenants ∧
    (advance target s).cards = s.cards ∧ (advance target s).leave = s.leave ∧ (advance target s).guards = s.guards ∧
    (advance target s).lines = s.lines ∧ (advance target s).lineCtl = s.lineCtl ∧
    (advance target s).uplinks = s.uplinks ∧ (advance target s).mdio = s.mdio ∧ (advance target s).logs = s.logs ∧
    (advance target s).flash = s.flash ∧ (advance target s).svc = s.svc ∧ (advance target s).cfg = s.cfg ∧
    (advance target s).free = s.free ∧ (advance target s).pending = s.pending := by
  unfold advance; split <;> simp

@[simp] theorem passTo_fields (target n : Nat) (s : State) :
    (passTo target n s).variant = s.variant ∧ (passTo target n s).sys = s.sys ∧ (passTo target n s).store = s.store ∧
    (passTo target n s).ports = s.ports ∧ (passTo target n s).cop = s.cop ∧ (passTo target n s).polls = s.polls ∧
    (passTo target n s).groups = s.groups ∧ (passTo target n s).jobs = s.jobs ∧
    (passTo target n s).nextJob = s.nextJob ∧ (passTo target n s).releases = s.releases ∧
    (passTo target n s).canopy = s.canopy ∧ (passTo target n s).tenants = s.tenants ∧
    (passTo target n s).cards = s.cards ∧ (passTo target n s).leave = s.leave ∧
    (passTo target n s).guards = s.guards ∧ (passTo target n s).lines = s.lines ∧
    (passTo target n s).lineCtl = s.lineCtl ∧ (passTo target n s).uplinks = s.uplinks ∧
    (passTo target n s).mdio = s.mdio ∧ (passTo target n s).flash = s.flash ∧ (passTo target n s).svc = s.svc ∧
    (passTo target n s).cfg = s.cfg ∧ (passTo target n s).free = s.free ∧ (passTo target n s).pending = s.pending := by
  induction n generalizing s with
  | zero => simp [passTo]
  | succ n ih =>
    simp only [passTo]
    split
    · simpa using ih (carry (pulseCheck (advance (s.now + cyclesToCarry s) s)))
    · simp

@[simp] theorem elapseTo_fields (target : Nat) (s : State) :
    (elapseTo target s).variant = s.variant ∧ (elapseTo target s).sys = s.sys ∧ (elapseTo target s).store = s.store ∧
    (elapseTo target s).ports = s.ports ∧ (elapseTo target s).cop = s.cop ∧ (elapseTo target s).polls = s.polls ∧
    (elapseTo target s).groups = s.groups ∧ (elapseTo target s).jobs = s.jobs ∧
    (elapseTo target s).nextJob = s.nextJob ∧ (elapseTo target s).releases = s.releases ∧
    (elapseTo target s).canopy = s.canopy ∧ (elapseTo target s).tenants = s.tenants ∧
    (elapseTo target s).cards = s.cards ∧ (elapseTo target s).leave = s.leave ∧
    (elapseTo target s).guards = s.guards ∧ (elapseTo target s).lines = s.lines ∧
    (elapseTo target s).lineCtl = s.lineCtl ∧ (elapseTo target s).uplinks = s.uplinks ∧
    (elapseTo target s).mdio = s.mdio ∧ (elapseTo target s).flash = s.flash ∧ (elapseTo target s).svc = s.svc ∧
    (elapseTo target s).cfg = s.cfg ∧ (elapseTo target s).free = s.free ∧ (elapseTo target s).pending = s.pending := by
  unfold elapseTo; split <;> simp

@[simp] theorem elapse_fields (dt : Nat) (s : State) :
    (elapse dt s).variant = s.variant ∧ (elapse dt s).sys = s.sys ∧ (elapse dt s).store = s.store ∧
    (elapse dt s).ports = s.ports ∧ (elapse dt s).cop = s.cop ∧ (elapse dt s).polls = s.polls ∧
    (elapse dt s).groups = s.groups ∧ (elapse dt s).jobs = s.jobs ∧ (elapse dt s).nextJob = s.nextJob ∧
    (elapse dt s).releases = s.releases ∧ (elapse dt s).canopy = s.canopy ∧ (elapse dt s).tenants = s.tenants ∧
    (elapse dt s).cards = s.cards ∧ (elapse dt s).leave = s.leave ∧ (elapse dt s).guards = s.guards ∧
    (elapse dt s).lines = s.lines ∧ (elapse dt s).lineCtl = s.lineCtl ∧ (elapse dt s).uplinks = s.uplinks ∧
    (elapse dt s).mdio = s.mdio ∧ (elapse dt s).flash = s.flash ∧ (elapse dt s).svc = s.svc ∧
    (elapse dt s).cfg = s.cfg ∧ (elapse dt s).free = s.free ∧ (elapse dt s).pending = s.pending := by
  unfold elapse; simp

@[simp] theorem runTo_fields (due : Nat) (s : State) :
    (runTo due s).variant = s.variant ∧ (runTo due s).sys = s.sys ∧ (runTo due s).store = s.store ∧
    (runTo due s).ports = s.ports ∧ (runTo due s).cop = s.cop ∧ (runTo due s).polls = s.polls ∧
    (runTo due s).groups = s.groups ∧ (runTo due s).jobs = s.jobs ∧ (runTo due s).nextJob = s.nextJob ∧
    (runTo due s).releases = s.releases ∧ (runTo due s).canopy = s.canopy ∧ (runTo due s).tenants = s.tenants ∧
    (runTo due s).cards = s.cards ∧ (runTo due s).leave = s.leave ∧ (runTo due s).guards = s.guards ∧
    (runTo due s).lines = s.lines ∧ (runTo due s).lineCtl = s.lineCtl ∧ (runTo due s).uplinks = s.uplinks ∧
    (runTo due s).mdio = s.mdio ∧ (runTo due s).flash = s.flash ∧ (runTo due s).svc = s.svc ∧
    (runTo due s).cfg = s.cfg ∧ (runTo due s).free = s.free ∧ (runTo due s).pending = s.pending := by
  unfold runTo; simp

/-! ### The clock -/

/-- Passing time to a CORE cycle that is not behind ends in that cycle. -/
theorem passTo_now (target n : Nat) (s : State) (h : s.now ≤ target) : (passTo target n s).now = target := by
  have key : ∀ (x : Nat) (a : State), a.now ≤ x → (pulseCheck (advance x a)).now = x := by
    intro x a ha
    simp only [pulseCheck_fields, advance]
    split
    · rfl
    · omega
  induction n generalizing s with
  | zero => exact key _ _ h
  | succ n ih =>
    simp only [passTo]
    split
    · rename_i c
      simp only [Bool.and_eq_true, decide_eq_true_eq] at c
      refine ih _ ?_
      rw [(carry_fields _).2.1, key _ _ (Nat.le_add_right _ _)]
      exact c.2
    · exact key _ _ h

@[simp] theorem elapseTo_now (target : Nat) (s : State) : (elapseTo target s).now = max s.now target := by
  unfold elapseTo
  split
  · omega
  · rw [passTo_now _ _ _ (by omega)]; omega

@[simp] theorem elapse_now (dt : Nat) (s : State) : (elapse dt s).now = s.now + dt := by
  unfold elapse; rw [elapseTo_now]; omega

@[simp] theorem runTo_now (due : Nat) (s : State) : (runTo due s).now = max s.now due := elapseTo_now due s

/-- No CORE cycle passes: nothing changes. -/
@[simp] theorem elapse_zero (s : State) : elapse 0 s = s := by
  unfold elapse elapseTo; rw [if_pos (by omega)]

/-- Passing time leaves the lock of the PLL, the loop's last mark and estimate, and the stretches of Ring time. -/
def ClkKept (s t : State) : Prop :=
  t.clk.locked = s.clk.locked ∧ t.clk.lastMark = s.clk.lastMark ∧ t.clk.f = s.clk.f ∧ t.clk.segs = s.clk.segs

theorem pulseCheck_clk (s : State) : ClkKept s (pulseCheck s) := by
  unfold ClkKept pulseCheck w9Release pulseDone; dsimp only; (repeat' split) <;> simp

theorem carry_clk (s : State) : ClkKept s (carry s) := by
  unfold ClkKept carry pulseStart; dsimp only; (repeat' split) <;> simp

theorem passTo_clk (target n : Nat) (s : State) : ClkKept s (passTo target n s) := by
  have adv : ∀ (x : Nat) (a : State), (advance x a).clk = a.clk := fun x a => by simp
  induction n generalizing s with
  | zero => have := pulseCheck_clk (advance target s); simpa [ClkKept, passTo, adv] using this
  | succ n ih =>
    simp only [passTo]
    split
    · have a := pulseCheck_clk (advance (s.now + cyclesToCarry s) s)
      have b := carry_clk (pulseCheck (advance (s.now + cyclesToCarry s) s))
      have c := ih (carry (pulseCheck (advance (s.now + cyclesToCarry s) s)))
      unfold ClkKept at *
      rw [adv] at a
      exact ⟨c.1.trans (b.1.trans a.1), c.2.1.trans (b.2.1.trans a.2.1), c.2.2.1.trans (b.2.2.1.trans a.2.2.1),
        c.2.2.2.trans (b.2.2.2.trans a.2.2.2)⟩
    · have := pulseCheck_clk (advance target s); simpa [ClkKept, adv] using this

theorem elapseTo_clk (target : Nat) (s : State) : ClkKept s (elapseTo target s) := by
  unfold elapseTo
  split
  · exact ⟨rfl, rfl, rfl, rfl⟩
  · exact passTo_clk _ _ s

@[simp] theorem elapse_clk (dt : Nat) (s : State) :
    (elapse dt s).clk.locked = s.clk.locked ∧ (elapse dt s).clk.lastMark = s.clk.lastMark ∧
    (elapse dt s).clk.f = s.clk.f ∧ (elapse dt s).clk.segs = s.clk.segs := elapseTo_clk _ s

@[simp] theorem runTo_clk (due : Nat) (s : State) :
    (runTo due s).clk.locked = s.clk.locked ∧ (runTo due s).clk.lastMark = s.clk.lastMark ∧
    (runTo due s).clk.f = s.clk.f ∧ (runTo due s).clk.segs = s.clk.segs := elapseTo_clk _ s

end Sys2Proof.Machine
end

