-- ==== Sys2Proof/Laws/Regs.lean ====
section
/-! SUPPORT. Which register fields a word that enters a queue, a log entry and the passing of time can change: every
other field reads as before. -/

namespace Sys2Proof.Machine

/-- Where the fields are that a word on its way into queue `q` can change. -/
def queueKeys (q : Nat) : List Nat :=
  [RG.IRQ_EVENT.key 0, RG.IRQ_QUEUE.key 0, QU.FULL.key q, CN.RECORDS_IN.key q, CN.GAP_CNT.key q, CN.WORDS_IN.key q,
   CN.FULL_CNT.key q, CN.WORDS_HWM.key q, CN.USED_HWM.key q]

/-- Where the fields are that an event log entry, and so the passing of time, can change. -/
def timeKeys : List Nat := queueKeys 225 ++ [EL.NEXT_SEQ.key 0, EL.FLASH_NEXT.key 0, RG.EVENT_LOST_CNT.key 0]

/-- The keys of timeKeys lie in the direct map and in the spaces of queues, counters and the event log. -/
theorem not_timeKeys {k : Nat}
    (h : (33554432 ≤ k ∧ k < 234881024) ∨ (268435456 ≤ k ∧ k < 301989888) ∨ 436207616 ≤ k) : k ∉ timeKeys := by
  have hall : ∀ x ∈ timeKeys, x < 33554432 ∨ (234881024 ≤ x ∧ x < 268435456) ∨ (301989888 ≤ x ∧ x < 436207616) := by decide
  intro hm
  have := hall k hm
  omega

theorem get_qMarks {g : Fld} {j q : Nat} (h : g.key j ∉ queueKeys q) (s : State) : get g j (qMarks q s) = get g j s := by
  simp only [queueKeys, List.mem_cons, List.not_mem_nil, or_false, not_or] at h
  obtain ⟨hIrqEvent, hIrqQueue, hFull, hIn, hGap, hWords, hFullCnt, hHwm, hUsed⟩ := h
  unfold qMarks
  dsimp only
  have h1 (x : State) (v : Nat) : get g j (putHw CN.WORDS_HWM q v x) = get g j x := get_putHw_ne hHwm ..
  have h2 (x : State) (v : Nat) : get g j (putHw CN.USED_HWM q v x) = get g j x := get_putHw_ne hUsed ..
  (repeat' split) <;> simp [h1, h2]

theorem get_entered {g : Fld} {j q : Nat} (h : g.key j ∉ queueKeys q) (t : Tag) (s : State) :
    get g j (entered q t s) = get g j s := by
  unfold entered
  extract_lets a b c
  rw [get_qMarks h]
  simp only [queueKeys, List.mem_cons, List.not_mem_nil, or_false, not_or] at h
  obtain ⟨hIrqEvent, hIrqQueue, hFull, hIn, hGap, hWords, hFullCnt, hHwm, hUsed⟩ := h
  rw [get_bump_ne hWords]
  have ha : get g j a = get g j s := by
    simp only [a]; split
    · exact get_bump_ne hIn ..
    · rfl
  have hb : get g j b = get g j a := by
    simp only [b]; split
    · exact get_bump_ne hGap ..
    · rfl
  have hc : get g j c = get g j b := by
    simp only [c]; split
    · exact get_irq_ne hIrqEvent ..
    · rfl
  rw [hc, hb, ha]

theorem get_qSet (g : Fld) (j q : Nat) (c : Queue) (s : State) : get g j (qSet q c s) = get g j s := rfl
theorem get_qMap (g : Fld) (j q : Nat) (f : Queue → Queue) (s : State) : get g j (qMap q f s) = get g j s := rfl

theorem get_enter {g : Fld} {j q : Nat} (h : g.key j ∉ queueKeys q) (p : Producer) (w : QWord) (s : State) :
    get g j (enter q p w s) = get g j s := by
  unfold enter
  extract_lets
  rename_i c0 idx m a w0 w1 c1 c2 c3 c4
  rw [get_entered h, get_qSet]
  simp only [a]
  split <;> rfl

theorem get_gapWrite {g : Fld} {j q : Nat} (h : g.key j ∉ queueKeys q) (s : State) :
    get g j (gapWrite q s) = get g j s := by
  unfold gapWrite
  generalize (qGet q s).gap.words = l
  induction l generalizing s with
  | nil => rfl
  | cons x l ih =>
    rw [List.foldl_cons, ih]
    obtain ⟨i, d⟩ := x
    dsimp only
    split
    · rw [get_qMap, get_enter h]
    · rfl

theorem get_writeWord {g : Fld} {j q : Nat} (h : g.key j ∉ queueKeys q) (p : Producer) (w : QWord) (s : State) :
    get g j (writeWord q p w s) = get g j s := by
  unfold writeWord
  split
  · split <;> rfl
  · exact get_enter h ..

theorem get_stall {g : Fld} {j q : Nat} (h : g.key j ∉ queueKeys q) (s : State) : get g j (stall q s) = get g j s := by
  simp only [queueKeys, List.mem_cons, List.not_mem_nil, or_false, not_or] at h
  obtain ⟨hIrqEvent, hIrqQueue, hFull, hIn, hGap, hWords, hFullCnt, hHwm, hUsed⟩ := h
  unfold stall
  split
  · rfl
  · rw [get_qMap, get_raise_ne hIrqQueue hFull, get_bump_ne hFullCnt]

theorem get_writeFor {g : Fld} {j q : Nat} (h : g.key j ∉ queueKeys q) (p : Producer) (s : State) :
    get g j (writeFor q p s) = get g j s := by
  unfold writeFor
  dsimp only
  split
  · exact get_gapWrite h s
  · split
    · rw [get_writeWord h, get_qMap, get_gapWrite h]
    · rw [get_stall h, get_gapWrite h]

theorem get_writeNext {g : Fld} {j q : Nat} (h : g.key j ∉ queueKeys q) (s : State) :
    get g j (writeNext q s) = get g j s := by
  unfold writeNext
  split
  · rfl
  · exact get_writeFor h ..

theorem get_writeMany {g : Fld} {j q : Nat} (h : g.key j ∉ queueKeys q) (n : Nat) (s : State) :
    get g j (writeMany q n s) = get g j s := by
  induction n generalizing s with
  | zero => rfl
  | succ n ih =>
    simp only [writeMany]
    split
    · rw [ih, get_writeNext h]
    · exact get_writeNext h s

/-- A word offered to queue `q` leaves every field but those of the queue. -/
theorem get_offer {g : Fld} {j q : Nat} (h : g.key j ∉ queueKeys q) (p : Producer) (ws : List QWord) (s : State) :
    get g j (offer q p ws s) = get g j s := by
  unfold offer
  dsimp only
  rw [get_writeMany h, get_qMap]

theorem get_loseOld {g : Fld} {j : Nat} (h : g.key j ∉ timeKeys) (n : Nat) (s : State) :
    get g j (loseOld n s) = get g j s := by
  unfold loseOld
  simp only [timeKeys, List.mem_append, List.mem_cons, List.not_mem_nil, or_false, not_or] at h
  split
  · dsimp only
    split
    · rw [get_bump_ne h.2.2.2]; rfl
    · rfl
  · rfl

theorem get_logPos {g : Fld} {j : Nat} (h : g.key j ∉ timeKeys) (code sub idx : Nat) (d : List Nat) (s : State) :
    get g j (logPos code sub idx d s) = get g j s := by
  have h' := h
  simp only [timeKeys, List.mem_append, List.mem_cons, List.not_mem_nil, or_false, not_or] at h'
  unfold logPos keepFlashNext
  dsimp only
  rw [get_put_ne h'.2.2.1, get_put_ne h'.2.1]
  exact get_loseOld h _ s

/-- An event log entry leaves every field but those of the log and of the event queue. -/
theorem get_logEvent {g : Fld} {j : Nat} (h : g.key j ∉ timeKeys) (code sub idx : Nat) (d : List Nat) (s : State) :
    get g j (logEvent code sub idx d s) = get g j s := by
  unfold logEvent notice
  split
  · split
    · rw [get_offer (fun hm => h (List.mem_append_left _ hm)), get_logPos h]
    · rw [get_offer (fun hm => h (List.mem_append_left _ hm)), get_logPos h]
    · rw [get_logPos h]
  · rfl

theorem get_pulseCheck (g : Fld) (j : Nat) (s : State) : get g j (pulseCheck s) = get g j s := by
  unfold pulseCheck pulseDone w9Release; (repeat' split) <;> rfl

theorem get_advance (g : Fld) (j target : Nat) (s : State) : get g j (advance target s) = get g j s := by
  unfold advance; split <;> rfl

theorem get_carry {g : Fld} {j : Nat} (h : g.key j ∉ timeKeys) (s : State) : get g j (carry s) = get g j s := by
  unfold carry
  extract_lets sec a b
  have hb : get g j b = get g j s := by
    simp only [b]
    split
    · rw [get_logEvent h]; rfl
    · rfl
  unfold pulseStart
  split
  · exact hb
  · exact hb

theorem get_passTo {g : Fld} {j : Nat} (h : g.key j ∉ timeKeys) (target n : Nat) (s : State) :
    get g j (passTo target n s) = get g j s := by
  induction n generalizing s with
  | zero => simp only [passTo]; rw [get_pulseCheck, get_advance]
  | succ n ih =>
    simp only [passTo]
    split
    · rw [ih, get_carry h, get_pulseCheck, get_advance]
    · rw [get_pulseCheck, get_advance]

/-- The passing of time leaves every field but those of the event log and of the event queue. -/
theorem get_runTo {g : Fld} {j : Nat} (h : g.key j ∉ timeKeys) (due : Nat) (s : State) :
    get g j (runTo due s) = get g j s := by
  unfold runTo elapseTo
  split
  · rfl
  · exact get_passTo h ..

theorem get_elapse {g : Fld} {j : Nat} (h : g.key j ∉ timeKeys) (dt : Nat) (s : State) :
    get g j (elapse dt s) = get g j s := get_runTo h _ s

end Sys2Proof.Machine
end

