-- ==== Sys2Proof/Laws/Write.lean ====
section
/-! SUPPORT. Writes of words: the fields of a packed word, what a word leaves in each field, and what an accepted write
of one word comes to. -/

open Sys2Proof.Safety

namespace Sys2Proof.Machine

/-! ### Packed fields -/

/-- Two bit ranges that do not meet. -/
theorem split_at (S lo w : Nat) (h : bits S lo w = 0) : S = S / 2 ^ (lo + w) * 2 ^ (lo + w) + S % 2 ^ lo := by
  unfold bits at h
  have h1 := Nat.div_add_mod S (2 ^ lo)
  have h2 := Nat.div_add_mod (S / 2 ^ lo) (2 ^ w)
  rw [h, Nat.add_zero, Nat.div_div_eq_div_mul, ← Nat.pow_add] at h2
  rw [← h2] at h1
  have : 2 ^ lo * (2 ^ w * (S / 2 ^ (lo + w))) = S / 2 ^ (lo + w) * 2 ^ (lo + w) := by rw [Nat.pow_add]; ring
  omega

theorem bits_add_same (S lo w v : Nat) (h : bits S lo w = 0) (hv : v < 2 ^ w) : bits (S + v * 2 ^ lo) lo w = v := by
  unfold bits at *
  rw [Nat.add_mul_div_right _ _ (by positivity), Nat.add_mod, h, Nat.zero_add, Nat.mod_mod, Nat.mod_eq_of_lt hv]

theorem bits_add_other (S lo w v lo' w' : Nat) (h : bits S lo w = 0) (hv : v < 2 ^ w)
    (hd : lo + w ≤ lo' ∨ lo' + w' ≤ lo) : bits (S + v * 2 ^ lo) lo' w' = bits S lo' w' := by
  rcases hd with hd | hd
  · have e : ∀ x, bits x lo' w' = x / 2 ^ (lo + w) / 2 ^ (lo' - (lo + w)) % 2 ^ w' := by
      intro x
      unfold bits
      rw [Nat.div_div_eq_div_mul, ← Nat.pow_add]
      congr 3; omega
    rw [e, e]
    congr 2
    have hs := split_at S lo w h
    have hl : S % 2 ^ lo < 2 ^ lo := Nat.mod_lt _ (by positivity)
    have hb : S % 2 ^ lo + v * 2 ^ lo < 2 ^ (lo + w) := by
      rw [Nat.pow_add]
      have : (v + 1) * 2 ^ lo ≤ 2 ^ w * 2 ^ lo := Nat.mul_le_mul_right _ hv
      nlinarith
    generalize hH : S / 2 ^ (lo + w) = H at *
    rw [hs, Nat.add_assoc, Nat.add_comm, Nat.add_mul_div_right _ _ (by positivity), Nat.div_eq_of_lt hb, Nat.zero_add]
  · have e : ∀ x, bits x lo' w' = x % 2 ^ lo / 2 ^ lo' % 2 ^ w' := by
      intro x
      unfold bits
      have hp : 2 ^ lo = 2 ^ lo' * 2 ^ (lo - lo') := by rw [← Nat.pow_add]; congr 1; omega
      rw [hp, Nat.mod_mul_right_div_self, Nat.mod_mod_of_dvd]
      exact Nat.pow_dvd_pow 2 (by omega)
    rw [e, e, Nat.add_mul_mod_self_right]

/-- Fields packed into one number, each as its range and its value. -/
def packed (l : List (Nat × Nat × Nat)) : Nat := l.foldl (fun a x => a + x.2.2 * 2 ^ x.1) 0

/-- The ranges of packed fields do not meet. -/
def apart (x y : Nat × Nat × Nat) : Prop := x.1 + x.2.1 ≤ y.1 ∨ y.1 + y.2.1 ≤ x.1

theorem packed_bits (l : List (Nat × Nat × Nat)) (S : Nat) (hp : l.Pairwise apart)
    (hv : ∀ x ∈ l, x.2.2 < 2 ^ x.2.1) (hz : ∀ x ∈ l, bits S x.1 x.2.1 = 0) :
    (∀ x ∈ l, bits (l.foldl (fun a x => a + x.2.2 * 2 ^ x.1) S) x.1 x.2.1 = x.2.2) ∧
    ∀ lo w, (∀ x ∈ l, x.1 + x.2.1 ≤ lo ∨ lo + w ≤ x.1) →
      bits (l.foldl (fun a x => a + x.2.2 * 2 ^ x.1) S) lo w = bits S lo w := by
  induction l generalizing S with
  | nil => exact ⟨by simp, fun _ _ _ => rfl⟩
  | cons y l ih =>
    rw [List.pairwise_cons] at hp
    have hy := hv y (by simp)
    have hy0 := hz y (by simp)
    have ih' := ih (S + y.2.2 * 2 ^ y.1) hp.2 (fun x hx => hv x (by simp [hx])) (fun x hx => by
      rw [bits_add_other _ _ _ _ _ _ hy0 hy (hp.1 x hx)]
      exact hz x (by simp [hx]))
    rw [List.foldl_cons]
    constructor
    · intro x hx
      rcases List.mem_cons.mp hx with hx | hx
      · subst hx
        rw [ih'.2 x.1 x.2.1 (fun z hz' => (hp.1 z hz').symm), bits_add_same _ _ _ _ hy0 hy]
      · exact ih'.1 x hx
    · intro lo w hd
      rw [ih'.2 lo w (fun x hx => hd x (by simp [hx])), bits_add_other _ _ _ _ _ _ hy0 hy (hd y (by simp))]

theorem bits_zero (lo w : Nat) : bits 0 lo w = 0 := by simp [bits]

theorem bits_word (n lo w : Nat) (h : lo + w ≤ 32) : bits (word n).toNat lo w = bits n lo w := by
  unfold bits word
  rw [BitVec.toNat_ofNat]
  have hp : 2 ^ 32 = 2 ^ lo * 2 ^ (32 - lo) := by rw [← Nat.pow_add]; congr 1; omega
  rw [hp, Nat.mod_mul_right_div_self, Nat.mod_mod_of_dvd]
  exact Nat.pow_dvd_pow 2 (by omega)

/-! ### What a word leaves in each field -/

/-- What a word's bits `b` make of a field. -/
def fieldTakes (two : Bool) (f : Fld) (i b : Nat) (s : State) : Nat :=
  match f.acc with
  | .rw => match f.clash with
    | .a => if keepsCtr two f b then get f i s else f.count b (lookup 0 (f.key i) s.cyc.inc) % 2 ^ f.width
    | _ => b % 2 ^ f.width
  | .w1c => (get f i s - (get f i s &&& (b - (b &&& lookup 0 (f.key i) s.cyc.set)))) % 2 ^ f.width
  | .ro | .wo | .sc => get f i s

theorem get_writeField_same (two : Bool) (v : Nat) (s : State) (f : Fld) (i : Nat) :
    get f i (writeField two v s (f, i)) = fieldTakes two f i (bits v f.lo f.width) s := by
  unfold writeField fieldTakes
  dsimp only
  cases f.acc
  case rw =>
    cases f.clash
    case s => exact get_putSw_same ..
    case a =>
      dsimp only
      split
      · rfl
      · exact get_put_same ..
    all_goals exact get_put_same ..
  case w1c => exact get_put_same ..
  all_goals rfl

theorem get_writeField_ne (two : Bool) (v : Nat) (s : State) (x : Fld × Nat) (g : Fld) (j : Nat)
    (h : g.key j ≠ x.1.key x.2) : get g j (writeField two v s x) = get g j s := by
  unfold writeField
  obtain ⟨f, i⟩ := x
  dsimp only at *
  cases f.acc
  case rw =>
    cases f.clash
    case s => exact get_putSw_ne h ..
    case a =>
      dsimp only
      split
      · rfl
      · exact get_putCtr_ne h ..
    all_goals exact get_put_ne h ..
  case w1c => exact get_clearBits_ne h ..
  all_goals rfl

theorem writeField_units (two : Bool) (v : Nat) (s : State) (x : Fld × Nat) : sameUnits s (writeField two v s x) := by
  obtain ⟨f, i⟩ := x
  unfold sameUnits writeField
  dsimp only
  cases f.acc
  case rw =>
    cases f.clash
    case a => dsimp only; split <;> rfl
    all_goals rfl
  all_goals rfl

theorem sameUnits_trans {s t u : State} (h : sameUnits s t) (h' : sameUnits t u) : sameUnits s u := by
  unfold sameUnits at *
  rw [h', h]

/-- The counters that rise in this CORE cycle and the bits set in it are the same in two states. -/
def sameMarks (s t : State) : Prop := t.cyc.inc = s.cyc.inc ∧ t.cyc.set = s.cyc.set

theorem writeField_marks (two : Bool) (v : Nat) (s : State) (x : Fld × Nat) : sameMarks s (writeField two v s x) := by
  obtain ⟨f, i⟩ := x
  unfold sameMarks writeField
  dsimp only
  cases f.acc
  case rw =>
    cases f.clash
    case a => dsimp only; split <;> exact ⟨rfl, rfl⟩
    all_goals exact ⟨rfl, rfl⟩
  all_goals exact ⟨rfl, rfl⟩

theorem fieldTakes_congr {two : Bool} {f : Fld} {i b : Nat} {s t : State} (hg : get f i t = get f i s)
    (hm : sameMarks s t) : fieldTakes two f i b t = fieldTakes two f i b s := by
  unfold fieldTakes
  rw [hg, hm.1, hm.2]

theorem foldl_writeField (two : Bool) (v : Nat) (l : List (Fld × Nat)) (s : State)
    (hk : l.Pairwise fun x y => x.1.key x.2 ≠ y.1.key y.2) :
    sameUnits s (l.foldl (writeField two v) s) ∧ sameMarks s (l.foldl (writeField two v) s) ∧
    (∀ x ∈ l, get x.1 x.2 (l.foldl (writeField two v) s) = fieldTakes two x.1 x.2 (bits v x.1.lo x.1.width) s) ∧
    ∀ g j, (∀ x ∈ l, g.key j ≠ x.1.key x.2) → get g j (l.foldl (writeField two v) s) = get g j s := by
  induction l generalizing s with
  | nil => exact ⟨rfl, ⟨rfl, rfl⟩, by simp, fun _ _ _ => rfl⟩
  | cons y l ih =>
    rw [List.pairwise_cons] at hk
    obtain ⟨h1, h2, h3, h4⟩ := ih (writeField two v s y) hk.2
    have hm := writeField_marks two v s y
    rw [List.foldl_cons]
    refine ⟨sameUnits_trans (writeField_units two v s y) h1, ⟨h2.1.trans hm.1, h2.2.trans hm.2⟩, ?_, ?_⟩
    · intro x hx
      rcases List.mem_cons.mp hx with hx | hx
      · subst hx
        rw [h4 x.1 x.2 (fun z hz => hk.1 z hz)]
        exact get_writeField_same ..
      · rw [h3 x hx]
        exact fieldTakes_congr (get_writeField_ne _ _ _ _ _ _ (fun e => hk.1 x hx e.symm)) hm
    · intro g j hg
      rw [h4 g j (fun x hx => hg x (by simp [hx])), get_writeField_ne _ _ _ _ _ _ (hg y (by simp))]

/-- The field instances of a word stand at places of their own. -/
def keysApart (space a : Nat) : Prop := (wordFields space a).Pairwise fun x y => x.1.key x.2 ≠ y.1.key y.2

/-- What a word leaves: each of its fields takes what the word's bits make of it, every other field and every unit
stands. -/
theorem writeFields_spec (space a v : Nat) (s : State) (hk : keysApart space a) :
    sameUnits s (writeFields space a v s) ∧
    (∀ x ∈ wordFields space a, get x.1 x.2 (writeFields space a v s) =
      fieldTakes (decide (2 ≤ ctrFields (wordFields space a))) x.1 x.2 (bits v x.1.lo x.1.width) s) ∧
    ∀ g j, (∀ x ∈ wordFields space a, g.key j ≠ x.1.key x.2) → get g j (writeFields space a v s) = get g j s := by
  have h := foldl_writeField (decide (2 ≤ ctrFields (wordFields space a))) v (wordFields space a) s hk
  exact ⟨h.1, h.2.2.1, h.2.2.2⟩

/-! ### The word of a read-modify-write -/

/-- The ranges of a word's fields. -/
def rangesApart (l : List (Fld × Nat)) : Prop :=
  l.Pairwise fun x y => x.1.lo + x.1.width ≤ y.1.lo ∨ y.1.lo + y.1.width ≤ x.1.lo

theorem foldl_add {α : Type} (l : List α) (g : α → Nat) (a b : Nat) :
    l.foldl (fun v x => v + g x) (a + b) = a + l.foldl (fun v x => v + g x) b := by
  induction l generalizing b with
  | nil => rfl
  | cons x l ih => simp only [List.foldl_cons]; rw [Nat.add_assoc, ih]

/-- The fields that a read-modify-write sends as they stand. -/
def kept (space a : Nat) (fs : List (Fld × Nat)) : List (Fld × Nat) :=
  (wordFields space a).filter fun x => x.1.acc == .rw && !(fs.map Prod.fst).contains x.1

/-- The parts of the word that a read-modify-write sends. -/
def parts (space a : Nat) (fs : List (Fld × Nat)) (s : State) : List (Nat × Nat × Nat) :=
  (kept space a fs).map (fun x => (x.1.lo, x.1.width, get x.1 x.2 s)) ++
  fs.map (fun y => (y.1.lo, y.1.width, y.2 % 2 ^ y.1.width))

theorem modified_eq (space a : Nat) (fs : List (Fld × Nat)) (s : State) :
    modified space a fs s = word ((parts space a fs s).foldl (fun a x => a + x.2.2 * 2 ^ x.1) 0) := by
  unfold modified parts
  dsimp only
  rw [List.foldl_append, List.foldl_map, List.foldl_map]
  congr 1
  have h := foldl_add fs (fun y => y.2 % 2 ^ y.1.width * 2 ^ y.1.lo) (fieldsValue (kept space a fs) s) 0
  rw [Nat.add_zero] at h
  exact h.symm

/-- The bits of a read-modify-write: the given fields hold what is given, the other RW fields what they hold, all else 0. -/
theorem modified_bits (space a i : Nat) (fs : List (Fld × Nat)) (s : State) (hr : rangesApart (wordFields space a))
    (h32 : ∀ x ∈ wordFields space a, x.1.lo + x.1.width ≤ 32)
    (hfs : ∀ y ∈ fs, (y.1, i) ∈ wordFields space a)
    (hd : fs.Pairwise fun x y => x.1.lo + x.1.width ≤ y.1.lo ∨ y.1.lo + y.1.width ≤ x.1.lo) :
    (∀ y ∈ fs, bits (modified space a fs s).toNat y.1.lo y.1.width = y.2 % 2 ^ y.1.width) ∧
    ∀ x ∈ wordFields space a, x.1 ∉ fs.map Prod.fst →
      bits (modified space a fs s).toNat x.1.lo x.1.width = if x.1.acc = .rw then get x.1 x.2 s else 0 := by
  have hmem {x y : Fld × Nat} (hx : x ∈ wordFields space a) (hy : y ∈ wordFields space a) (hne : x.1 ≠ y.1) :
      x.1.lo + x.1.width ≤ y.1.lo ∨ y.1.lo + y.1.width ≤ x.1.lo := by
    by_contra hc
    exact hne (congrArg Prod.fst (by
      by_contra hxy
      exact hc (List.Pairwise.forall_of_forall_of_flip (l := wordFields space a)
        (R := fun x y => x = y ∨ (x.1.lo + x.1.width ≤ y.1.lo ∨ y.1.lo + y.1.width ≤ x.1.lo))
        (fun _ _ => Or.inl rfl) (hr.imp (fun h => Or.inr h)) (hr.imp (fun h => Or.inr h.symm)) hx hy |>.resolve_left hxy)))
  have hp : (parts space a fs s).Pairwise apart := by
    unfold parts
    rw [List.pairwise_append, List.pairwise_map, List.pairwise_map]
    refine ⟨(hr.sublist List.filter_sublist), hd, ?_⟩
    intro x hx y hy
    obtain ⟨x, hx1, rfl⟩ := List.mem_map.mp hx
    obtain ⟨y, hy1, rfl⟩ := List.mem_map.mp hy
    obtain ⟨hx, hx'⟩ := List.mem_filter.mp hx1
    have hne : x.1 ≠ y.1 := by
      intro e
      simp only [Bool.and_eq_true, Bool.not_eq_true', List.contains_eq_mem, decide_eq_false_iff_not] at hx'
      exact hx'.2 (e ▸ List.mem_map_of_mem hy1)
    exact hmem (y := (y.1, i)) hx (hfs y hy1) hne
  have hv : ∀ x ∈ parts space a fs s, x.2.2 < 2 ^ x.2.1 := by
    intro x hx
    rcases List.mem_append.mp hx with hx | hx
    · obtain ⟨x, _, rfl⟩ := List.mem_map.mp hx
      exact get_lt ..
    · obtain ⟨x, _, rfl⟩ := List.mem_map.mp hx
      exact Nat.mod_lt _ (by positivity)
  obtain ⟨h1, h2⟩ := packed_bits (parts space a fs s) 0 hp hv (fun x _ => bits_zero ..)
  rw [modified_eq]
  constructor
  · intro y hy
    rw [bits_word _ _ _ (h32 _ (hfs y hy))]
    exact h1 (y.1.lo, y.1.width, y.2 % 2 ^ y.1.width) (List.mem_append_right _ (List.mem_map.mpr ⟨y, hy, rfl⟩))
  · intro x hx hxf
    rw [bits_word _ _ _ (h32 x hx)]
    split
    · rename_i hacc
      refine h1 (x.1.lo, x.1.width, get x.1 x.2 s) (List.mem_append_left _ (List.mem_map.mpr ⟨x, ?_, rfl⟩))
      exact List.mem_filter.mpr ⟨hx, by simpa [hacc] using hxf⟩
    · rename_i hacc
      rw [h2 x.1.lo x.1.width, bits_zero]
      intro z hz
      rcases List.mem_append.mp hz with hz | hz
      · obtain ⟨z, hz1, rfl⟩ := List.mem_map.mp hz
        obtain ⟨hz2, hz'⟩ := List.mem_filter.mp hz1
        refine hmem hz2 hx (fun e => hacc ?_)
        simp only [Bool.and_eq_true, beq_iff_eq] at hz'
        rw [← e]; exact hz'.1
      · obtain ⟨z, hz1, rfl⟩ := List.mem_map.mp hz
        refine hmem (x := (z.1, i)) (hfs z hz1) hx (fun e => hxf ?_)
        rw [← e]
        exact List.mem_map.mpr ⟨z, hz1, rfl⟩

/-! ### One word, accepted -/

/-- A frame of one word that its checks pass: what it leaves. -/
theorem regWrite_ok (space a : Nat) (v : Word) (s : State) (hs : mpServes s = true)
    (hp : place space a s ≠ .absent) (ha : addrRefused space a false s = false) (h3 : space ≠ 3)
    (hw : windowOf a = none ∨ space ≠ 0) (ho : ownAddress space a = (space, a))
    (hc : firstFail (wordChecks space a v.toNat s (writeFields space a v.toNat s)) = none) :
    let x := wordActs space a v.toNat s (writeFields space a v.toNat s)
    regWrite space a v s = mpMap (fun m => { m with answer := 0 })
      (owe [(space, a, v.toNat, false)] (x.2.foldl (fun a f => f a) x.1)) := by
  have hr : writeReg space a v.toNat s = .ok (wordActs space a v.toNat s (writeFields space a v.toNat s)).1
      (wordActs space a v.toNat s (writeFields space a v.toNat s)).2 := by
    unfold writeReg
    rw [ho]
    dsimp only
    rw [hc]
  have hb : writeBurst [(space, a, v.toNat, false)] s = (0, owe [(space, a, v.toNat, false)]
      ((wordActs space a v.toNat s (writeFields space a v.toNat s)).2.foldl (fun a f => f a)
        (wordActs space a v.toNat s (writeFields space a v.toNat s)).1)) := by
    unfold writeBurst
    have : (([(space, a, v.toNat, false)] : List FrameWord).any fun (sp, a, _) => place sp a s == .absent) = false := by
      simpa using hp
    rw [this]
    simp only [writeWords, ha, hr, List.nil_append]
    rfl
  have h1 : writeOne space a v s = writeBurst [(space, a, v.toNat, false)] s := by
    unfold writeOne
    split
    · rename_i h0
      subst h0
      have hwn : windowOf a = none := hw.resolve_right (fun h => h rfl)
      have e9 : (if a = 9 then 9 else a + 0) = a := by split <;> omega
      unfold writeFrame burstAddrs windowAdvance
      rw [hwn]
      simp only [List.length_singleton, List.range_one, List.map_cons, List.map_nil, e9, keyBurst, ite_self]
      rfl
    · rfl
  have ho' : outOfReset s = true := by
    unfold mpServes at hs
    unfold outOfReset
    cases hph : s.sys.phase <;> simp_all
  intro x
  unfold regWrite answered
  simp only [h3, false_and, if_false, ho', hs, Bool.not_true, Bool.false_eq_true, h1, hb]
  rfl

/-- A frame of one word that one of its checks refuses: the answer, and what that refusal leaves. -/
theorem regWrite_no (space a : Nat) (v : Word) (s : State) (r : Reject) (hs : mpServes s = true)
    (hp : place space a s ≠ .absent) (ha : addrRefused space a false s = false) (h3 : space ≠ 3)
    (hw : windowOf a = none ∨ space ≠ 0) (ho : ownAddress space a = (space, a))
    (hc : firstFail (wordChecks space a v.toNat s (writeFields space a v.toNat s)) = some r) :
    regWrite space a v s =
      mpMap (fun m => { m with answer := (rejectFrame r space a s).1 }) (rejectFrame r space a s).2 := by
  have hr : writeReg space a v.toNat s = .no r := by
    unfold writeReg
    rw [ho]
    dsimp only
    rw [hc]
  have hb : writeBurst [(space, a, v.toNat, false)] s = rejectFrame r space a s := by
    unfold writeBurst
    have : (([(space, a, v.toNat, false)] : List FrameWord).any fun (sp, a, _) => place sp a s == .absent) = false := by
      simpa using hp
    rw [this]
    simp only [writeWords, ha, hr]
    rfl
  have h1 : writeOne space a v s = rejectFrame r space a s := by
    unfold writeOne
    split
    · rename_i h0
      subst h0
      have hwn : windowOf a = none := hw.resolve_right (fun h => h rfl)
      have e9 : (if a = 9 then 9 else a + 0) = a := by split <;> omega
      unfold writeFrame burstAddrs windowAdvance
      rw [hwn]
      simp only [List.length_singleton, List.range_one, List.map_cons, List.map_nil, e9, keyBurst, ite_self]
      exact hb
    · exact hb
  have ho' : outOfReset s = true := by
    unfold mpServes at hs
    unfold outOfReset
    cases hph : s.sys.phase <;> simp_all
  unfold regWrite answered
  simp only [h3, false_and, if_false, ho', hs, Bool.not_true, Bool.false_eq_true, h1]

/-- What a word of a table has to be for a read-modify-write of it: each field at a place of its own, within the word,
and no counter among the fields that software writes. -/
structure PlainWord (space a : Nat) : Prop where
  keys : keysApart space a
  ranges : rangesApart (wordFields space a)
  fits : ∀ x ∈ wordFields space a, x.1.lo + x.1.width ≤ 32
  plain : ∀ x ∈ wordFields space a, x.1.acc = .rw → x.1.clash ≠ .a
  own : ownAddress space a = (space, a)

/-- The fields of one table at one word offset are plain. -/
def plainFields (l : List Fld) : Bool :=
  decide (l.Pairwise fun x y => x.lo + x.width ≤ y.lo ∨ y.lo + y.width ≤ x.lo) &&
  l.all fun x => decide (x.lo + x.width ≤ 32) && decide (0 < x.width) && !(x.acc == .rw && x.clash == .a) &&
    l.all fun y => x.space == y.space && x.stride == y.stride && x.word == y.word

theorem plainWord_of {space a off i : Nat} {l : List Fld} (h : wordFields space a = fieldsIn l off i)
    (ho : ownAddress space a = (space, a)) (hl : plainFields (l.filter fun f => f.word == off) = true) :
    PlainWord space a := by
  unfold plainFields at hl
  simp only [Bool.and_eq_true, decide_eq_true_eq, List.all_eq_true, Bool.not_eq_true', beq_iff_eq] at hl
  obtain ⟨hp, hf⟩ := hl
  have hm {x : Fld × Nat} (hx : x ∈ wordFields space a) : x.1 ∈ l.filter (fun f => f.word == off) ∧ x.2 = i := by
    rw [h] at hx
    obtain ⟨f, hf, rfl⟩ := List.mem_map.mp hx
    exact ⟨hf, rfl⟩
  have hr : rangesApart (wordFields space a) := by
    unfold rangesApart
    rw [h]
    unfold fieldsIn
    rw [List.pairwise_map]
    exact hp
  refine ⟨?_, hr, ?_, ?_, ho⟩
  · unfold keysApart
    refine List.Pairwise.imp_of_mem ?_ hr
    intro x y hx hy hxy e
    have h1 := hf x.1 (hm hx).1
    have h2 := h1.2 y.1 (hm hy).1
    have h3 := hf y.1 (hm hy).1
    unfold Fld.key at e
    rw [(hm hx).2, (hm hy).2, h2.1.1, h2.1.2, h2.2] at e
    omega
  · intro x hx
    exact (hf x.1 (hm hx).1).1.1.1
  · intro x hx hacc hcl
    have h1 := (hf x.1 (hm hx).1).1.2
    rw [hacc, hcl] at h1
    exact absurd h1 (by decide)

/-- What holds of the word `M` that a write of fields sends and of the state `w` that its fields leave. -/
structure WriteFacts (i : Nat) (f : Fld) (fs : List (Fld × Nat)) (s : State) (M : Nat) (w : State) : Prop where
  /-- The given fields hold what is given. -/
  sent : ∀ y ∈ fs, bits M y.1.lo y.1.width = y.2 % 2 ^ y.1.width
  /-- The other RW fields are sent as they stand, all other bits as 0. -/
  kept : ∀ x ∈ wordFields f.space (wordOf f i), x.1 ∉ fs.map Prod.fst →
    bits M x.1.lo x.1.width = if x.1.acc = .rw then get x.1 x.2 s else 0
  units : sameUnits s w
  given : ∀ y ∈ fs, y.1.acc = .rw → get y.1 i w = y.2 % 2 ^ y.1.width
  rest : ∀ x ∈ wordFields f.space (wordOf f i), x.1 ∉ fs.map Prod.fst ∨ x.1.acc ≠ .rw → get x.1 x.2 w = get x.1 x.2 s
  other : ∀ g j, (∀ x ∈ wordFields f.space (wordOf f i), g.key j ≠ x.1.key x.2) → get g j w = get g j s

theorem writeFacts (i : Nat) (f : Fld) (fs : List (Fld × Nat)) (s : State) (hplain : PlainWord f.space (wordOf f i))
    (hfs : ∀ y ∈ fs, (y.1, i) ∈ wordFields f.space (wordOf f i) ∧ y.1.acc ≠ .w1c)
    (hd : fs.Pairwise fun x y => x.1.lo + x.1.width ≤ y.1.lo ∨ y.1.lo + y.1.width ≤ x.1.lo) :
    WriteFacts i f fs s (modified f.space (wordOf f i) fs s).toNat
      (writeFields f.space (wordOf f i) (modified f.space (wordOf f i) fs s).toNat s) := by
  have hfs1 : ∀ y ∈ fs, (y.1, i) ∈ wordFields f.space (wordOf f i) := fun y hy => (hfs y hy).1
  obtain ⟨hb1, hb2⟩ := modified_bits f.space (wordOf f i) i fs s hplain.ranges hplain.fits hfs1 hd
  obtain ⟨hu, hg1, hg2⟩ := writeFields_spec f.space (wordOf f i) (modified f.space (wordOf f i) fs s).toNat s hplain.keys
  generalize modified f.space (wordOf f i) fs s = M at *
  have htakes (x : Fld × Nat) (hx : x ∈ wordFields f.space (wordOf f i)) (hacc : x.1.acc = .rw) :
      get x.1 x.2 (writeFields f.space (wordOf f i) M.toNat s) = bits M.toNat x.1.lo x.1.width % 2 ^ x.1.width := by
    have h := hg1 x hx
    have hnc := hplain.plain x hx hacc
    rw [h]
    unfold fieldTakes
    rw [hacc]
    dsimp only
    cases hcl : x.1.clash
    case a => exact absurd hcl hnc
    all_goals rfl
  refine ⟨hb1, hb2, hu, ?_, ?_, hg2⟩
  · intro y hy hacc
    rw [htakes (y.1, i) (hfs1 y hy) hacc, hb1 y hy, Nat.mod_mod]
  · intro x hx hor
    by_cases hacc : x.1.acc = .rw
    · rw [htakes x hx hacc, hb2 x hx (hor.resolve_right (fun h => h hacc)), if_pos hacc, Nat.mod_eq_of_lt (get_lt ..)]
    · rw [hg1 x hx]
      unfold fieldTakes
      cases hc : x.1.acc
      case rw => exact absurd hc hacc
      case w1c =>
        dsimp only
        have hnf : x.1 ∉ fs.map Prod.fst := by
          intro hm
          obtain ⟨y, hy, he⟩ := List.mem_map.mp hm
          exact (hfs y hy).2 (he ▸ hc)
        rw [hb2 x hx hnf, if_neg hacc]
        simp [Nat.mod_eq_of_lt (get_lt x.1 x.2 s)]
      all_goals rfl

/-- A write of fields is taken when the port serves it, its word is present, and its checks pass on what it sends. -/
theorem taken_of {i : Nat} {f : Fld} {fs : List (Fld × Nat)} {s : State} (hs : mpServes s = true)
    (hp : place f.space (wordOf f i) s = .present) (hplain : PlainWord f.space (wordOf f i))
    (hfs : ∀ y ∈ fs, (y.1, i) ∈ wordFields f.space (wordOf f i) ∧ y.1.acc ≠ .w1c)
    (hd : fs.Pairwise fun x y => x.1.lo + x.1.width ≤ y.1.lo ∨ y.1.lo + y.1.width ≤ x.1.lo)
    (hc : ∀ M w, WriteFacts i f fs s M w → firstFail (wordChecks f.space (wordOf f i) M s w) = none) :
    taken i f fs s := ⟨hs, hp, hc _ _ (writeFacts i f fs s hplain hfs hd)⟩

/-- A write of fields that is taken: the word's other fields stand, and what the word starts follows. -/
theorem setFields_wrote (i : Nat) (f : Fld) (v : Nat) (r : List (Fld × Nat)) (s : State) (act : State → State)
    (ht : taken i f ((f, v) :: r) s) (hplain : PlainWord f.space (wordOf f i))
    (ha : addrRefused f.space (wordOf f i) false s = false) (h3 : f.space ≠ 3)
    (hw : windowOf (wordOf f i) = none ∨ f.space ≠ 0)
    (hfs : ∀ y ∈ (f, v) :: r, (y.1, i) ∈ wordFields f.space (wordOf f i) ∧ y.1.acc ≠ .w1c)
    (hd : ((f, v) :: r).Pairwise fun x y => x.1.lo + x.1.width ≤ y.1.lo ∨ y.1.lo + y.1.width ≤ x.1.lo)
    (hact : ∀ M w, WriteFacts i f ((f, v) :: r) s M w →
      (wordActs f.space (wordOf f i) M s w).2.foldl (fun a f => f a) (wordActs f.space (wordOf f i) M s w).1 = act w) :
    wrote i f ((f, v) :: r) act s (setFields i ((f, v) :: r) s) := by
  obtain ⟨hserve, hplace, hcheck⟩ := ht
  have hset : setFields i ((f, v) :: r) s =
      regWrite f.space (wordOf f i) (modified f.space (wordOf f i) ((f, v) :: r) s) s := rfl
  have hf := writeFacts i f ((f, v) :: r) s hplain hfs hd
  have hact' := hact _ _ hf
  have hok := regWrite_ok f.space (wordOf f i) (modified f.space (wordOf f i) ((f, v) :: r) s) s hserve
    (by rw [hplace]; decide) ha h3 hw hplain.own hcheck
  rw [hset]
  generalize modified f.space (wordOf f i) ((f, v) :: r) s = M at *
  rw [hok, hact']
  refine ⟨_, (if ([(f.space, wordOf f i, M.toNat, false)] : List FrameWord).filterMap
      (fun x => keptWord x.1 x.2.1 x.2.2.1) = [] then []
    else [([(f.space, wordOf f i, M.toNat, false)] : List FrameWord).filterMap (fun x => keptWord x.1 x.2.1 x.2.2.1)]),
    hf.units, hf.given, hf.rest, hf.other, ?_⟩
  unfold mpMap owe
  dsimp only
  split
  · rename_i h
    rw [if_pos (by simpa using h)]
    simp
  · rename_i h
    rw [if_neg (by simpa using h)]

end Sys2Proof.Machine
end

