-- ==== Sys2Proof/Tests/Slice0.lean ====
section
/-! SUPPORT. Tests. Small states to test on; an ill-formed command for each check of WellFormed; values that the spec or a
published standard gives; and, for each statement with hypotheses, states and operands that meet the hypotheses of each of
its clauses together. -/

namespace Sys2Proof.Tests

set_option Elab.async false

open Sys2Proof Sys2Proof.Machine Sys2Proof.Safety

/-! ### Small states -/

/-- A concentrator in service, one second after its PLL locked, with Ring time running. -/
def rdy : State := { State.reset with
  now := 1
  sys := { State.reset.sys with phase := .ready }
  clk := { State.reset.clk with locked := true, segs := [⟨0, 0, 0, 4 * 2 ^ 32, 0⟩] } }
def rst : State := { rdy with sys := { rdy.sys with phase := .reset } }
def inPhase (x : Phase) (s : State) : State := { s with sys := { s.sys with phase := x } }
/-- A flash with a valid slot. -/
def withSlot (i : Nat) (s : State) : State :=
  { s with flash := { s.flash with mem := fProgram (slotBase i + 0x100) (beBytes 4 0xA55AC33C) s.flash.mem } }
/-- Guard `k` runs. -/
def gd (k run : Nat) (s : State) : State := gMap k (fun g => { g with run := run }) s
/-- Port `p` is enabled. -/
def on (p : Nat) (s : State) : State := put PT.EN p 1 s
/-- A character in reception since LINE cycle 100. -/
def rxc : RxChar := ⟨⟨0, 0, 0⟩, 100, 824634, false, (pGet 47 rdy).rxF⟩
/-- An open record with one payload byte. -/
def rec1 : OpenRec := ⟨[0x41#8], ⟨0, 0, 0⟩, 0, none, false, false, ⟨0, 0, 0, 1⟩, 0, 1, false⟩
/-- Its staged character. -/
def st1 : SChar := ⟨0x41#8, true⟩
/-- Change port 47. -/
def p47 (f : Port → Port) : State := pMap 47 f rdy
/-- Change the transmitter of port 47. -/
def tx47 (f : Tx → Tx) : State := p47 fun c => { c with tx := f c.tx }
/-- A queue whose head register holds some words, entered long ago. -/
def held (q : Nat) (ws : List QWord) (s : State) : State := qMap q (fun c => { c with head := ws.map fun w => (w, 0) }) { s with now := s.now + 1 }
/-- A record of two payload bytes for a line. -/
def txr : List QWord := buildRecord 0 47 0xFFF ⟨0, 0, 0⟩ 0 [0x41#8, 0x42#8]
/-- Card port 1 on with its card in some state. -/
def card1 (st : Nat) (f : Card → Card) : State :=
  put RG.CP1_EN 0 1 (put CD.STATE 1 st (cMap 1 (fun c => f { c with det := some (flag CD.DET_POL 1 rdy), inserted := true }) rdy))
/-- Nine samples: a byte with the right parity for the direct convention, and one without. -/
def good9 : List Bool := [true, false, true, false, false, false, false, false, false]
def bad9 : List Bool := [true, false, true, false, false, false, false, false, true]
/-- An exchange of a card script that went through. -/
def okReply (d : List Byte) : ScriptReply := ⟨5, d, some 0x90#8, some 0#8, .ok⟩
/-- The header of a site card with one key, and that key. -/
def headCard : List Byte := [0x53#8, 0x54#8, 0x53#8, 0x43#8, 1#8, 1#8] ++ beBytes 4 2 ++ beBytes 4 3 ++ [0#8, 0#8]
def keyCard : List Byte := let d := [127#8, 0#8] ++ List.replicate 16 7#8 ++ [0#8, 0#8]; d ++ beBytes 4 (crc32 d)
/-- A talker and a poll entry on port 0. -/
def polled0 (st : PollState) : State :=
  plMap 4095 (fun r => { r with st := st }) (put PL.EN 4095 1 (put RG.COP_EN 0 1 (put PL.REQ_LEN 4095 6 rdy)))
/-- A forward job for tenant 127. -/
def fwd127 : Job := ⟨9, .fwd, 500, 0, 127, 5, none, false, false, none⟩
/-- A classified record of source 47. -/
def rel47 : Release := ⟨47, txr, 5000000, 2, [127, 3], [], 0⟩
/-- A complete record at the head of the receive queue of port 47. -/
def src47 : State := put RG.CANOPY_EN 0 1 (held 47 txr rdy)
/-- A classification of source 47 that matched. -/
def res47 : ClassRes := ⟨3, 2, [127], 0, none, none, none, false, false⟩
/-- Eight words: what the tail register holds when it is full. -/
def w8 : List QWord := [⟨.body, 1#32⟩, ⟨.body, 2#32⟩, ⟨.body, 3#32⟩, ⟨.body, 4#32⟩, ⟨.body, 5#32⟩, ⟨.body, 6#32⟩, ⟨.body, 7#32⟩, ⟨.body, 8#32⟩]
/-- Queue 225 with a full tail: beside a half-written block, with a head register that is full, and with no block to its name. -/
def half225 : State := qMap 225 (fun c => { c with tail := w8, mid := [⟨[], 8⟩] }) rdy
def spill225 : State := put QU.GUAR 225 2 (held 225 w8 (qMap 225 (fun c => { c with tail := w8 }) rdy))
def poor225 : State := put QU.GUAR 225 0 (put QU.BORROW_MAX 225 0 (held 225 w8 (qMap 225 (fun c => { c with tail := w8 }) rdy)))
/-- Queue 225 with room in its head register and words in the middle. -/
def refill225 : State := held 225 (w8.take 4) (qMap 225 (fun c => { c with mid := [⟨w8, 8⟩, ⟨w8.take 2, 16⟩] }) rdy)
/-- Queue 224 in a verify pass. -/
def verify224 : State := qMap 224 (fun c => { c with verifying := true }) (held 224 w8 rdy)
/-- A record that the management port may inject. -/
def injected : List QWord := buildRecord 7 63 0xFFF ⟨0, 0, 0⟩ 0 [0x41#8]
/-- Its words as a QWRITE frame carries them. -/
def inj : List (Nat × Word) := injected.map fun w => ((if w.tag = .start then 2 else if w.tag = .end_ then 3 else 1), w.data)
/-- An address of a peer. -/
def peerA : Peer := ⟨[2#8, 0#8, 0#8, 0#8, 0#8, 9#8], 0x0A000009, 4000⟩
/-- Both uplinks up at 10 Mb/s. -/
def ups : State :=
  [0, 1].foldl (fun s u => put UL.EN u 1 (put UL.LINK_UP u 1 (put UL.SPEED u 0 (put UL.IP_ADDR u (0x0A000001 + u) (put UL.MAC_LO u (7 + u) s))))) (put RG.UDP_PORT 0 7777 rdy)
/-- Tenant 127 on uplink 1, with a key of zeros and a peer. -/
def ten : State :=
  tMap 127 (fun c => { c with key := List.replicate 16 0#8 })
    (put TN.EN 127 1 (put TN.CONSUMER 127 2 (put TN.KEY_SET 127 1 (put TN.PEER1_IP 127 0x0A000009 ups))))
/-- A request of tenant 127. -/
def req (typ : Nat) (body : List Byte) : Arrival :=
  let h := [0x1E#8, 0x7E#8, 1#8, byte typ] ++ beBytes 2 127 ++ beBytes 2 body.length ++ beBytes 4 5 ++ body
  ⟨.request, 100, ⟨0, 0, 0⟩, peerA, h ++ tagOf (List.replicate 16 0#8) h⟩
/-- It waits on uplink 1. -/
def asked (a : Arrival) : State := uMap 1 (fun c => { c with inbox := [a] }) ten
/-- An Ethernet frame with its padding and FCS. -/
def ethOf (f : List Byte) : List Byte := let b := f ++ List.replicate (60 - f.length) 0#8; b ++ fcs b
/-- An ARP request for uplink 1. -/
def arpIn : List Byte := ethOf (List.replicate 6 0xFF#8 ++ peerA.mac ++ [8#8, 6#8] ++ [0#8, 1#8, 8#8, 0#8, 6#8, 4#8, 0#8, 1#8] ++
  peerA.mac ++ beBytes 4 peerA.ip ++ List.replicate 6 0#8 ++ beBytes 4 0x0A000002)
/-- A request to uplink 1 as UDP in IPv4. -/
def udpIn : List Byte :=
  let d := (req 5 []).bytes
  let udp := beBytes 2 4000 ++ beBytes 2 7777 ++ beBytes 2 (8 + d.length) ++ [0#8, 0#8] ++ d
  let ip (ck : Nat) := [0x45#8, 0#8] ++ beBytes 2 (20 + udp.length) ++ [0#8, 0#8, 0#8, 0#8, 64#8, 17#8] ++ beBytes 2 ck ++ beBytes 4 peerA.ip ++ beBytes 4 0x0A000002
  ethOf (macAddr 1 ups ++ peerA.mac ++ [8#8, 0#8] ++ ip (inetSum (ip 0)) ++ udp)
/-- A datagram of tenant 127. -/
def dg (w : Bool) : Dgram := ⟨127, 0x85, [1#8], none, w, 9, [], false, [(1, peerA)]⟩
/-- A batch of tenant 127 with one gap indication. -/
def batch1 : Batch := ⟨[.gap 1 2 3], 5000000, some 9, [2], false⟩
/-- Tenant 127 consumes on listener port 47. -/
def lst : State :=
  put PT.LST_EN 47 1 (put PT.EN 47 1 (put TN.EN 127 1 (put TN.CONSUMER 127 3 (put TN.LISTEN_PORT 127 47 rdy))))
/-- A record with a deadline waits in a queue. -/
def queued (q dl : Nat) (ws : List QWord) (s : State) : State := qMap q (fun c => { c with deadlines := [dl] }) (held q ws s)
/-- Guard 5 runs with a generation that the CF takes, and line 47 is reconciled. -/
def g5 : State := lcMap 47 (fun c => { c with reconciled := true }) (gd 5 2 (put RG.GF_GEN_MAX 0 255 rdy))
/-- Line 47 as its guard holds it. -/
def ln47 (f : GLine → GLine) : State := lnMap 47 f g5
/-- What the concentrator keeps for line 47. -/
def lc47 (f : LineCtl → LineCtl) : State := lcMap 47 f g5
/-- Line 47 measures its leakage, with leave for a slice. -/
def leak47 : State :=
  let s := lc47 fun c => { c with measuring := true }
  { s with leave := { s.leave with fieldGr := [⟨.slice 47, 8, 0⟩] } }
/-- A leave request. -/
def ask (k : LeaveKind) (n : Nat) : LeaveReq := ⟨k, n, 0, 900, false, false⟩
/-- The bytes between the flags of a Stump frame. -/
def rawOf (cmd fsn : Nat) (pl : List Byte) : List Byte :=
  let b := [byte cmd, byte fsn] ++ beBytes 2 pl.length ++ pl
  stuff (b ++ beBytes 2 (crcStump b))
/-- A byte as a sender with exact timing puts it on SVC_RX at 115,200 baud: the LINE cycles in which the level changes. -/
def svcWave (b : Byte) : SvcChar :=
  let l := false :: (List.range 8).map (fun i => b.getLsbD i) ++ [true]
  ((List.range 9).filter fun i => l.getD i false != l.getD (i + 1) false).map fun i => halfBitsLine (2 * (i + 1)) (svcInc 115200)
/-- The characters of a frame at that rate. -/
def frameOf (cmd fsn : Nat) (pl : List Byte) : List SvcChar := (rawOf cmd fsn pl).map svcWave
/-- A manifest that carries the slot part, the GF part, or both. -/
def manif (parts : Nat) : List Byte :=
  let a := parts % 2
  let g := parts / 2
  beBytes 4 0x53544D46 ++ [1#8, byte parts, 0#8, 15#8] ++ beBytes 4 9 ++ beBytes 4 a ++ beBytes 4 a ++ beBytes 4 g ++
  beBytes 4 (300 * a) ++ beBytes 4 (300 * a) ++ beBytes 4 (300 * g) ++ [0#8, byte (255 * a), 0#8, byte (255 * a)] ++ List.replicate 224 0#8
/-- The update stands in a state, with a manifest. -/
def upd (st parts : Nat) (f : Svc → Svc) : State := { rdy with svc := f { rdy.svc with st := st, manifest := manif parts } }
/-- The header page of a GF image of version 0x107. -/
def page : List Byte := List.replicate 8 0#8 ++ beBytes 4 0x107 ++ List.replicate 244 0#8
/-- The stream of it, as guard 5 has received it: the page and its CRC. -/
def stream : List Byte := page ++ beBytes 4 (crc32 page)
/-- Guard 5 with a download of a GF copy. -/
def down (f : Guard → Guard) (r : FwRun) : State := gMap 5 (fun c => f { c with fw := some r }) g5
/-- The flash holds GF copy 1. -/
def copy1 (s : State) : State :=
  { s with flash := { s.flash with mem := fProgram (copyBase 1 + 0x100) (beBytes 4 0xA55AC33C) (fProgram (copyBase 1 + 4) (beBytes 4 3 ++ beBytes 4 0x107 ++ beBytes 4 0 ++ beBytes 4 60) s.flash.mem) } }
/-- A flash operation runs. -/
def runs (o : FlashOp) : State := { rdy with flash := { rdy.flash with busy := true, jobs := [⟨.ring, false, [o]⟩] } }

/-! ### Ill-formed commands: one for each check -/

theorem test_ill_line : (Instr.rxTimeout 12).wellFormed .sx4812 = false ∧ (Instr.rxTimeout 11).wellFormed .sx4812 = true := by decide
theorem test_ill_card : (Instr.cardInsert 2).wellFormed .sx4848 = false ∧ (Instr.cardInsert 1).wellFormed .sx4848 = true := by decide
theorem test_ill_guard : (Instr.gfRestoreRetry 6).wellFormed .sx4848 = false ∧ (Instr.gfRestoreRetry 5).wellFormed .sx4848 = true := by decide
theorem test_ill_group : (Instr.periodBoundary 64).wellFormed .sx4848 = false ∧ (Instr.periodBoundary 63).wellFormed .sx4848 = true := by decide
theorem test_ill_poll : (Instr.measurementWaitEnd 3072).wellFormed .sx4848 = false ∧ (Instr.measurementWaitEnd 3071).wellFormed .sx4848 = true := by decide
theorem test_ill_tenant : (Instr.batchClose 0 128).wellFormed .sx4848 = false ∧ (Instr.batchClose 0 127).wellFormed .sx4848 = true := by decide
theorem test_ill_queue : (Instr.clear 0 226).wellFormed .sx4848 = false ∧ (Instr.clear 0 225).wellFormed .sx4848 = true := by decide
theorem test_ill_uplink : (Instr.arpRequest 0 2).wellFormed .sx4848 = false ∧ (Instr.arpRequest 0 1).wellFormed .sx4848 = true := by decide
theorem test_ill_source : (Instr.waitingRecordSettle 51).wellFormed .sx4848 = false ∧ (Instr.waitingRecordSettle 50).wellFormed .sx4848 = true := by decide
theorem test_ill_space : (Instr.registerWrite 0 14 0 0#32).wellFormed .sx4848 = false ∧ (Instr.registerWrite 0 13 0 0#32).wellFormed .sx4848 = true := by decide
theorem test_ill_address : (Instr.registerWrite 0 13 1048576 0#32).wellFormed .sx4848 = false := by decide
theorem test_ill_window : (Instr.windowSpaceWrite 0 4 0#32).wellFormed .sx4848 = false ∧ (Instr.windowSpaceWrite 0 3 0#32).wellFormed .sx4848 = true := by decide
theorem test_ill_dir : (Instr.cxGo 0 0 4).wellFormed .sx4848 = false ∧ (Instr.cxGo 0 0 3).wellFormed .sx4848 = true := by decide
theorem test_ill_byte : (Instr.unknownOpcode 0 256 0 0 0).wellFormed .sx4848 = false ∧ (Instr.unknownOpcode 0 255 0 0 0).wellFormed .sx4848 = true := by decide
theorem test_ill_half : (Instr.mdioFrameEnd 65536).wellFormed .sx4848 = false ∧ (Instr.mdioFrameEnd 65535).wellFormed .sx4848 = true := by decide
theorem test_ill_word : (Instr.sliceEnd 0 4294967296).wellFormed .sx4848 = false ∧ (Instr.guardBoot 0 0 4294967296 .running).wellFormed .sx4848 = false := by decide
theorem test_ill_units : (Instr.budgetWrite 0 true 8192).wellFormed .sx4848 = false ∧ (Instr.budgetWrite 0 true 8191).wellFormed .sx4848 = true := by decide
theorem test_ill_tag : (Instr.qwrite 0 224 [(256, 0#32)] 0).wellFormed .sx4848 = false ∧ (Instr.qwrite 0 224 [(2, 0#32)] 0).wellFormed .sx4848 = true := by decide
theorem test_ill_cause : (Instr.pwrFault 0 0 16).wellFormed .sx4848 = false ∧ (Instr.pwrFault 0 0 15).wellFormed .sx4848 = true := by decide
theorem test_ill_span : (Instr.gread 0 (.line 0 false) 15 2 .ok).wellFormed .sx4848 = false ∧ (Instr.gread 0 (.guard 5) 15 1 .ok).wellFormed .sx4848 = true := by decide
theorem test_ill_link : (Instr.trimStart 0 0 ⟨3, 0, .ok⟩).wellFormed .sx4848 = false ∧ (Instr.trimStart 0 0 ⟨2, 33, .ok⟩).wellFormed .sx4848 = false ∧
    (Instr.trimStart 0 0 ⟨2, 32, .ok⟩).wellFormed .sx4848 = true := by decide
theorem test_ill_script : (Instr.badgeScript 0 ⟨0, [], some 0x90#8, none, .ok⟩).wellFormed .sx4848 = false ∧
    (Instr.badgeScript 0 ⟨0, [], some 0x90#8, some 0#8, .ok⟩).wellFormed .sx4848 = true := by decide
theorem test_ill_lines : (Instr.pmSelfTestEnd 0 true [48]).wellFormed .sx4848 = false ∧ (Instr.pmSelfTestEnd 0 true [47]).wellFormed .sx4848 = true := by decide
theorem test_ill_groups : (Instr.cfStart 0 [6] []).wellFormed .sx4848 = false ∧ (Instr.cfStart 0 [5] [5]).wellFormed .sx4848 = true := by decide
theorem test_ill_samples : (Instr.cardCharacterReceived 0 0 bad9.tail).wellFormed .sx4848 = false ∧ (Instr.cardCharacterReceived 0 0 bad9).wellFormed .sx4848 = true := by decide

/-! ### Values that the spec or a published standard gives -/

/-- The request CRC of section 11.3, and the steps the spec shows: FD, 1C, 45, 5A. -/
theorem test_crc8_request : [1, 2, 3, 4].map (fun n => crc8 ([0xA1#8, 0#8, 0#8, 1#8].take n)) = [0xFD, 0x1C, 0x45, 0x5A] := by decide
/-- Table 11-4: READ of DEV_ID on an SX-4848. -/
theorem test_read_dev_id : (match exec (.read 0 0 1 0x5A 0) rdy with | .next t => t.mp.reply | _ => []) =
    [0#8, 0#8, 0#8, 0x48#8, 0x48#8, 0x12#8] := by decide +kernel
/-- Table 11-5: the two-byte replies. -/
theorem test_two_byte_replies : [0, 1, 2, 3, 4, 6, 7].map (fun n => crc8 [byte n]) = [0x42, 0x6D, 0x1C, 0x33, 0xFE, 0xA0, 0x8F] := by decide
/-- A WRITE with a bad CRC is answered 0x03 0x33 (Table 11-5). -/
theorem test_write_crc_bad : (match exec (.write 0 0 [0#32] 0) rdy with | .next t => t.mp.reply | _ => []) = [3#8, 0x33#8] := by decide +kernel
/-- Modbus over Serial Line: the CRC of 02 07 is 0x1241, sent 41 12. -/
theorem test_crc16 : crc16 [2#8, 7#8] = 0x1241 := by decide
/-- The SDI-12 specification, section 4.4.12: the response 0+3.14 carries the CRC characters OqZ. -/
theorem test_crc_sdi : sdiCrcChars (crcSdi [0x30#8, 0x2B#8, 0x33#8, 0x2E#8, 0x31#8, 0x34#8]) = [0x4F#8, 0x71#8, 0x5A#8] := by decide +kernel
/-- The usual check value of CRC-32: the digits 1 to 9. -/
theorem test_crc32 : crc32 [0x31#8, 0x32#8, 0x33#8, 0x34#8, 0x35#8, 0x36#8, 0x37#8, 0x38#8, 0x39#8] = 0xCBF43926 := by decide +kernel
/-- The check value of polynomial 0x1021 from 0xFFFF. -/
theorem test_crc_stump : crcStump [0x31#8, 0x32#8, 0x33#8, 0x34#8, 0x35#8, 0x36#8, 0x37#8, 0x38#8, 0x39#8] = 0x29B1 := by decide +kernel
/-- RFC 4493, example 1: the AES-CMAC of the empty message. -/
theorem test_cmac : Crypto.cmac [0x2B#8, 0x7E#8, 0x15#8, 0x16#8, 0x28#8, 0xAE#8, 0xD2#8, 0xA6#8, 0xAB#8, 0xF7#8, 0x15#8, 0x88#8, 0x09#8, 0xCF#8, 0x4F#8, 0x3C#8] [] =
    [0xBB#8, 0x1D#8, 0x69#8, 0x29#8, 0xE9#8, 0x59#8, 0x37#8, 0x28#8, 0x7F#8, 0xA3#8, 0x7D#8, 0x12#8, 0x9B#8, 0x75#8, 0x67#8, 0x46#8] := by
  decide +kernel
/-- Table 3-1: the nominal rates that three settings stand for. -/
theorem test_baud : [9449, 824634, 257698038].map nominalBaud = [110, 9600, 3000000] := by decide
/-- Table 18-2: with a budget of 900, one governor cycle grants ports 0 to 6 and 32 to 45, and 36 units stay free. -/
theorem test_first_switch_on :
    (match exec (.leaveGrant 1) (put RG.FIELD_BUDGET 0 900 { rdy with leave := { rdy.leave with field :=
      ((List.range 4).map fun p => ask (.switchOn p) 40) ++ ((List.range 3).map fun p => ask (.switchOn (4 + p)) 48) ++
      ((List.range 16).map fun p => ask (.switchOn (32 + p)) 40) } }) with
    | .next t => (granted .field t, freeUnits .field t, t.leave.field.map LeaveReq.kind)
    | _ => (0, 0, [])) = (864, 36, [.switchOn 46, .switchOn 47]) := by decide +kernel
/-- Ring time in the last of its seconds carries into second 0 of the next count (R88). -/
theorem test_carry : (match exec (.set 0) (put RG.RT_SET_SEC 0 7 (put RG.RT_SET_NS 0 999999999 rdy)) with
    | .next t => (t.ring.sec, (match exec .secondsCarry t with | .next u => (u.ring.sec, u.ring.acc / 2 ^ 32) | _ => (0, 9)))
    | _ => (0, 0, 9)) = (7, 8, 3) := by decide +kernel
/-- A command at the front of the queue is taken, and the others stay behind it. -/
theorem test_step_front : (match step { rdy with pending := [.status 0 0 0 (crc8 [0xA5#8, 0#8, 0#8, 0#8]), .leaveTimeout] } with
    | .next t => (t.pending, t.mp.reply.length)
    | _ => ([], 0)) = ([.leaveTimeout], 14) := by decide +kernel
/-- After reset every register that the spec gives a value reads it: five of different words (Tables 12-9 to 12-16). -/
theorem test_reset_values : [get RG.DEV_ID 0 State.reset, get RG.POLL_RESERVE 0 State.reset, get TN.EN 0 State.reset,
    get TN.EN 1 State.reset, get GL.LEAK_AGE_S 47 State.reset] = [0x4848, 48, 1, 0, 65535] := by decide

/-! ### Lemmas on frames and streams -/

/-- Unstuffing undoes stuffing (R855). -/
theorem unstuff_stuff (bs : List Byte) : unstuff (stuff bs) = some bs := by
  induction bs with
  | nil => rfl
  | cons b r ih =>
    have hs : stuff (b :: r) = (if b = 0x7E#8 then [0x7D#8, 0x5E#8] else if b = 0x7D#8 then [0x7D#8, 0x5D#8] else [b]) ++ stuff r := by
      simp [stuff]
    rw [hs]
    split
    · next h => subst h; simp [unstuff, ih]
    · split
      · next h => subst h; simp [unstuff, ih]
      · next h1 h2 => rw [List.singleton_append]; unfold unstuff; simp [h2, ih]
/-- A frame built by the rules of Stump is parsed as what it carries (R856, R857). -/
theorem stumpParse_rawOf (cmd fsn : Nat) (pl : List Byte) (hc : stumpCmds.contains cmd = true) (hb : cmd < 256) (hf : fsn < 256)
    (hl : pl.length ≤ 1032) : stumpParse (rawOf cmd fsn pl) = some (cmd, fsn, pl) := by
  have hn : ([byte cmd, byte fsn] ++ beBytes 2 pl.length ++ pl).length = pl.length + 4 := by simp [beBytes]
  have hx (x : Nat) : (beBytes 2 x).length = 2 := by simp [beBytes]
  have hv : beValue (beBytes 2 pl.length) = pl.length := by
    simp [beBytes, beValue, BitVec.toNat_ofNat]; omega
  unfold stumpParse rawOf
  simp only [unstuff_stuff, List.length_append, hn, hx]
  have e : pl.length + 4 + 2 - 2 = pl.length + 4 := by omega
  simp only [e]
  have ht : ([byte cmd, byte fsn] ++ beBytes 2 pl.length ++ pl ++ beBytes 2 (crcStump ([byte cmd, byte fsn] ++ beBytes 2 pl.length ++ pl))).take (pl.length + 4)
      = [byte cmd, byte fsn] ++ beBytes 2 pl.length ++ pl := List.take_left' hn
  have hd : ([byte cmd, byte fsn] ++ beBytes 2 pl.length ++ pl ++ beBytes 2 (crcStump ([byte cmd, byte fsn] ++ beBytes 2 pl.length ++ pl))).drop (pl.length + 4)
      = beBytes 2 (crcStump ([byte cmd, byte fsn] ++ beBytes 2 pl.length ++ pl)) := List.drop_left' hn
  rw [ht, hd]
  have h2 (r : List Byte) : (List.drop 2 ([byte cmd, byte fsn] ++ beBytes 2 pl.length ++ pl ++ r)).take 2 = beBytes 2 pl.length := by
    simp [beBytes]
  have h4 (r : List Byte) : (List.drop 4 ([byte cmd, byte fsn] ++ beBytes 2 pl.length ++ pl ++ r)).take (pl.length + 4 + 2 - 6) = pl := by
    have : pl.length + 4 + 2 - 6 = pl.length := by omega
    rw [this]; simp [beBytes]
  have h0 (r : List Byte) : (([byte cmd, byte fsn] ++ beBytes 2 pl.length ++ pl ++ r).getD 0 0#8).toNat = cmd := by
    simp [byte]; omega
  have h1 (r : List Byte) : (([byte cmd, byte fsn] ++ beBytes 2 pl.length ++ pl ++ r).getD 1 0#8).toNat = fsn := by
    simp [byte]; omega
  have e6 : pl.length + 4 + 2 - 6 = pl.length := by omega
  rw [h2, h4, h0, h1, hv, hc, e6, if_neg (by simp; omega)]
/-- A character sampled in the middle of its bits is the byte that was sent (R84). -/
theorem svcByte_svcWave : ∀ b : Byte, svcByte 115200 (svcWave b) = some b := by decide +kernel
theorem svcBytes_svcWave (bs : List Byte) : svcBytes 115200 (bs.map svcWave) = bs := by
  unfold svcBytes
  induction bs with
  | nil => rfl
  | cons b r ih => rw [List.map_cons, List.filterMap_cons, svcByte_svcWave]; simp [ih]
/-- A frame is a new command where the service port is free. -/
theorem fresh_frameOf (cmd fsn : Nat) (pl : List Byte) (s : State) (hc : stumpCmds.contains cmd = true) (hb : cmd < 256) (hf : fsn < 256)
    (hl : pl.length ≤ 1032) (hs : svServed s = true) (hp : s.sys.phase ≠ .paused) (hr : s.svc.running = none)
    (hn : s.svc.last ≠ some (cmd, fsn, pl)) (hd : s.svc.baud = 115200) : fresh cmd fsn pl (frameOf cmd fsn pl) s :=
  ⟨hs, hp, hr, hn, by rw [hd, frameOf, svcBytes_svcWave]; exact stumpParse_rawOf cmd fsn pl hc hb hf hl⟩
/-- A site card with one key is judged loaded (Table 6-7). -/
theorem siteVerdict_loads (s : State) (ht : tenantOk s 127 = true) (he : get RG.SITE_EXPECT 0 s = 0) :
    siteVerdict [okReply [], okReply headCard, okReply keyCard] s = some (1, 2, 3, 1, [(127, List.replicate 16 7#8)]) := by
  have hh : gotHeader [okReply [], okReply headCard, okReply keyCard] = some (1, 2, 3) := by decide +kernel
  have hk : ([okReply keyCard].filterMap fun r => (scriptData 24 r).bind siteKey) = [(127, List.replicate 16 7#8)] := by decide +kernel
  unfold siteVerdict
  simp only [hh, hk]
  simp [ht, he, distinct]
/-- A field of an image stands where bytes follow the image. -/
theorem imgField_append (b r : List Byte) (i n : Nat) (h : i + n ≤ b.length) : imgField (b ++ r) i n = imgField b i n := by
  unfold imgField
  rw [List.drop_append_of_le_length (by omega), List.take_append_of_le_length (by rw [List.length_drop]; omega)]
/-- A stream of a header page and its CRC is received as the header's version (Table 15-9). -/
theorem gfReceived_page (g : Guard) (b : List Byte) (h : g.blocks = [(0, b ++ beBytes 4 (crc32 b))]) (hb : b.length = 256)
    (h12 : imgField b 12 4 = 0) : gfReceived g = some (imgField b 8 4) := by
  have h4 (x : Nat) : (beBytes 4 x).length = 4 := by simp [beBytes]
  have hf : (g.blocks.map fun (_, b) => b).flatten = b ++ beBytes 4 (crc32 b) := by rw [h]; simp
  have e12 := imgField_append b (beBytes 4 (crc32 b)) 12 4 (by omega)
  have e8 := imgField_append b (beBytes 4 (crc32 b)) 8 4 (by omega)
  unfold gfReceived
  simp only [hf, e12, e8, h12, Nat.add_zero, List.take_left' hb, List.drop_left' hb, List.length_append, hb, h4]
  rw [List.take_of_length_le (by rw [h4])]
  simp
/-- Guard 5 as `down` leaves it. -/
theorem gGet_down (f : Guard → Guard) (r : FwRun) : gGet 5 (down f r) = f { gGet 5 g5 with fw := some r } :=
  lookup_store_same _ _ _ _

/-! ### The hypotheses of the statements are met -/

/-- The hypotheses of each clause of EmptyQueuePassesOneCycle are met. -/
theorem test_met_EmptyQueuePassesOneCycle :
    (∃ (s : State), s.pending = []) :=
  ⟨rdy, by decide +kernel⟩

/-- The hypotheses of each clause of ResetsBegin are met. -/
theorem test_met_ResetsBegin :
    (∃ (low : Nat) (s : State), 1000 ≤ low ∧ s.sys.phase ≠ .reset) ∧
    (∃ (low : Nat), low < 100) ∧
    (∃ (s : State), s.sys.phase ≠ .reset ∧ s.clk.locked = true) ∧
    (∃ (s : State), outOfReset s = true) :=
  ⟨⟨1000, rdy, by decide +kernel⟩,
   ⟨99, by decide +kernel⟩,
   ⟨rdy, by decide +kernel⟩,
   ⟨rdy, by decide +kernel⟩⟩

/-- The hypotheses of each clause of SoftwareResetRuns are met. -/
theorem test_met_SoftwareResetRuns :
    (∃ (s : State), outOfReset s = true) ∧
    (∃ (t0 : Nat) (s : State), s.sys.swReset = some t0 ∧ s.sys.phase ≠ .reset) :=
  ⟨⟨rdy, by decide +kernel⟩,
   ⟨0, { rdy with sys := { rdy.sys with swReset := some 0 } }, by decide +kernel⟩⟩

/-- The hypotheses of each clause of BootReachesFirmware are met. -/
theorem test_met_BootReachesFirmware :
    (∃ (s : State), s.sys.phase = .reset ∧ s.clk.locked = false) ∧
    (∃ (s : State), s.sys.phase = .released) ∧
    (∃ (dt : Nat) (s : State), s.sys.phase = .locked ∧ s.sys.warm = false ∧ s.sys.bootFails ≠ 3 ∧ get RG.RESET_CAUSE 0
    (elapse dt s) ≠ 2) ∧
    (∃ (s : State), s.sys.phase = .loading) :=
  ⟨⟨{ rst with clk := State.reset.clk }, by decide +kernel⟩,
   ⟨{ rdy with sys := { rdy.sys with phase := .released, recoveryN := true } }, by decide +kernel⟩,
   ⟨0, { inPhase .locked rdy with sys := { rdy.sys with phase := .locked, warm := false } }, by decide +kernel⟩,
   ⟨inPhase .loading rdy, by decide +kernel⟩⟩

/-- The hypotheses of each clause of ServiceBeginsOrLinesGoOff are met. -/
theorem test_met_ServiceBeginsOrLinesGoOff :
    (∃ (s : State), s.sys.phase = .guardWait) ∧
    (∃ (s : State), s.sys.phase = .recovery) ∧
    (∃ (k : Nat) (s : State), guardOk s k = true) ∧
    (∃ (k : Nat) (s : State), guardOk s k = true) ∧
    (∃ (k : Nat) (s : State), guardOk s k = true) :=
  ⟨⟨inPhase .guardWait rdy, by decide +kernel⟩,
   ⟨gd 0 2 (inPhase .recovery rdy), by decide +kernel⟩,
   ⟨5, rdy, by decide +kernel⟩,
   ⟨5, rdy, by decide +kernel⟩,
   ⟨5, rdy, by decide +kernel⟩⟩

/-- The hypotheses of each clause of GuardedWritesAreRefused are met. -/
theorem test_met_GuardedWritesAreRefused :
    (∃ (p : Nat) (v : Word) (s : State), mpServes s = true ∧ portOk s p = true ∧ get GL.PWR_EN p s = 1 ∧ bits v.toNat
    5 1 ≠ get GL.PWR_V p s) ∧
    (∃ (p : Nat) (v : Word) (s : State), mpServes s = true ∧ portOk s p = true ∧ get GL.PWR_EN p s = 1 ∧ bits v.toNat
    0 5 ≠ get GL.ILIM p s) ∧
    (∃ (p : Nat) (v : Word) (s : State), mpServes s = true ∧ portOk s p = true ∧ get GL.EN p s = 1 ∧ bits v.toNat 1 1
    ≠ get GL.MODE p s) ∧
    (∃ (p : Nat) (v : Word) (s : State), mpServes s = true ∧ portOk s p = true ∧ bits v.toNat 1 1 = 1 ∧ bits v.toNat 2
    1 = 1) ∧
    (∃ (p : Nat) (v : Word) (s : State), mpServes s = true ∧ portOk s p = true ∧ get PT.EN p s = 1 ∧ bits v.toNat 0 3
    ≠ get PT.GRAMMAR p s) ∧
    (∃ (p : Nat) (v : Word) (s : State), mpServes s = true ∧ portOk s p = true ∧ 8 ≤ p ∧ bits v.toNat 0 3 = 4) ∧
    (∃ (v : Word) (s : State), mpServes s = true ∧ 999999999 < bits v.toNat 0 30) ∧
    (∃ (v : Word) (s : State), mpServes s = true ∧ (bits v.toNat 4 10 = 0 ∨ 999 < bits v.toNat 4 10)) :=
  ⟨⟨47, 32#32, put GL.PWR_EN 47 1 rdy, by decide +kernel⟩,
   ⟨47, 11#32, put GL.PWR_EN 47 1 rdy, by decide +kernel⟩,
   ⟨47, 2#32, put GL.EN 47 1 rdy, by decide +kernel⟩,
   ⟨47, 6#32, rdy, by decide +kernel⟩,
   ⟨47, 1#32, put PT.EN 47 1 rdy, by decide +kernel⟩,
   ⟨8, 4#32, rdy, by decide +kernel⟩,
   ⟨1000000000#32, rdy, by decide +kernel⟩,
   ⟨16000#32, rdy, by decide +kernel⟩⟩

/-- The hypotheses of each clause of InterruptIsReleasedByResets are met. -/
theorem test_met_InterruptIsReleasedByResets :
    (∃ (low : Nat) (s : State), 1000 ≤ low ∧ s.sys.phase ≠ .reset) ∧
    (∃ (s : State), s.sys.phase ≠ .reset ∧ s.clk.locked = true) ∧
    (∃ (s : State), outOfReset s = true) ∧
    (∃ (x : Nat) (s : State), s.sys.swReset = some x ∧ s.sys.phase ≠ .reset) ∧
    (∃ (s : State), s.sys.phase = .reset ∧ get RG.IRQ_MASK 0 s = 0) :=
  ⟨⟨1000, rdy, by decide +kernel⟩,
   ⟨rdy, by decide +kernel⟩,
   ⟨rdy, by decide +kernel⟩,
   ⟨0, { rdy with sys := { rdy.sys with swReset := some 0 } }, by decide +kernel⟩,
   ⟨rst, by decide +kernel⟩⟩

/-- The hypotheses of each clause of RingTimeCarries are met. -/
theorem test_met_RingTimeCarries :
    (∃ (n : Nat) (s : State), s.clk.locked = true ∧ (rtRate s).natAbs ≤ 3435973 ∧ s.ring.acc < ringSecond ∧ (∀ m, m <
    n → s.ring.acc + m * ringPerCycle s < ringSecond) ∧ ringSecond ≤ s.ring.acc + n * ringPerCycle s) ∧
    (∃ (s : State), s.clk.locked = false) :=
  ⟨⟨3, { rdy with ring := { sec := 4294967295, acc := 4294967244460392453 } }, by decide +kernel, by decide +kernel, by decide +kernel, by decide +kernel, by decide +kernel⟩,
   ⟨{ rdy with clk := { rdy.clk with locked := false } }, by decide +kernel⟩⟩

/-- The hypotheses of each clause of TmOutClaimsAndReleasesW9 are met. -/
theorem test_met_TmOutClaimsAndReleasesW9 :
    (∃ (s : State), mpServes s = true ∧ get RG.TM_OUT_EN 0 s = 0 ∧ s.clk.w9 = .none ∧ s.clk.pulseEnd = none ∧
    s.clk.w9Free = none ∧ 1 ≤ get RG.WIDTH_MS 0 s ∧ get RG.WIDTH_MS 0 s ≤ 999) ∧
    (∃ (s : State), mpServes s = true ∧ get RG.TM_OUT_EN 0 s = 0 ∧ s.clk.w9 = .cp1 ∧ 1 ≤ get RG.WIDTH_MS 0 s ∧ get
    RG.WIDTH_MS 0 s ≤ 999) ∧
    (∃ (s : State), mpServes s = true ∧ get RG.TM_OUT_EN 0 s = 1 ∧ 1 ≤ get RG.WIDTH_MS 0 s ∧ get RG.WIDTH_MS 0 s ≤
    999) ∧
    (∃ (e : Nat) (s : State), s.clk.pulseEnd = some e ∧ get RG.TM_OUT_EN 0 s = 1 ∧ 1 ≤ get RG.WIDTH_MS 0 s ∧ get
    RG.WIDTH_MS 0 s ≤ 999 ∧ s.clk.w9Free = none) ∧
    (∃ (e : Nat) (s : State), s.clk.pulseEnd = some e ∧ get RG.TM_OUT_EN 0 s = 0 ∧ s.clk.w9 = .tmOut ∧ s.clk.w9Free =
    none) ∧
    (∃ (s : State), s.clk.pulseEnd = none ∧ s.clk.w9Free = none) :=
  ⟨⟨rdy, by decide +kernel⟩,
   ⟨{ rdy with clk := { rdy.clk with w9 := .cp1 } }, by decide +kernel⟩,
   ⟨put RG.TM_OUT_EN 0 1 { rdy with clk := { rdy.clk with w9 := .tmOut } }, by decide +kernel⟩,
   ⟨5000, put RG.TM_OUT_EN 0 1 { rdy with clk := { rdy.clk with w9 := .tmOut, pulseEnd := some 5000 } }, by decide +kernel⟩,
   ⟨5000, { rdy with clk := { rdy.clk with w9 := .tmOut, pulseEnd := some 5000 } }, by decide +kernel⟩,
   ⟨rdy, by decide +kernel⟩⟩

/-- The hypotheses of each clause of SetLoadsSecondsOnlyWhileLocked are met. -/
theorem test_met_SetLoadsSecondsOnlyWhileLocked :
    (∃ (s : State), mpServes s = true ∧ get RG.LOCK_EN 0 s = 1) :=
  ⟨put RG.LOCK_EN 0 1 rdy, by decide +kernel⟩

/-- The hypotheses of each clause of SetAndStepMoveRingTime are met. -/
theorem test_met_SetAndStepMoveRingTime :
    (∃ (s : State), mpServes s = true ∧ get RG.LOCK_EN 0 s = 0) ∧
    (∃ (s : State), mpServes s = true ∧ get RG.LOCK_EN 0 s = 0) ∧
    (∃ (s : State), mpServes s = true ∧ get RG.LOCK_EN 0 s = 1) :=
  ⟨⟨put RG.RT_SET_NS 0 5 rdy, by decide +kernel⟩,
   ⟨put RG.RT_SET_NS 0 5 rdy, by decide +kernel⟩,
   ⟨put RG.LOCK_EN 0 1 rdy, by decide +kernel⟩⟩

/-- The hypotheses of each clause of LockLoopFollowsMarks are met. -/
theorem test_met_LockLoopFollowsMarks :
    (∃ (s : State), mpServes s = true ∧ get RG.LOCK_EN 0 s = 0) ∧
    (∃ (s : State), mpServes s = true ∧ get RG.LOCK_EN 0 s = 1) ∧
    (∃ (fall : Bool) (w : Nat) (s : State), (w ≤ 40 ∨ s.clk.tmLevel = !fall)) ∧
    (∃ (fall : Bool) (w : Nat) (s : State), 60 ≤ w ∧ s.clk.locked = true ∧ s.clk.tmLevel = fall ∧ (get RG.LOCK_EN 0 s
    = 0 ∨ get RG.TM_EDGE 0 s ≠ b2n fall)) ∧
    (∃ (fall : Bool) (w : Nat) (s : State), 60 ≤ w ∧ s.clk.tmLevel = fall ∧ get RG.LOCK_EN 0 s = 1 ∧ get RG.TM_EDGE 0
    s = b2n fall ∧ s.clk.locked = true ∧ s.clk.lastMark = none) ∧
    (∃ (dt : Nat) (fall : Bool) (w last : Nat) (s : State), 60 ≤ w ∧ s.clk.tmLevel = fall ∧ get RG.LOCK_EN 0 s = 1 ∧
    get RG.TM_EDGE 0 s = b2n fall ∧ s.clk.locked = true ∧ s.clk.lastMark = some last ∧ consistent last (s.now + dt) =
    false) ∧
    (∃ (last : Nat) (s : State), s.clk.lastMark = some last ∧ s.now < last + cyclesMs 1500) ∧
    (∃ (s : State), s.clk.lastMark = none) :=
  ⟨⟨rdy, by decide +kernel⟩,
   ⟨put RG.LOCK_EN 0 1 rdy, by decide +kernel⟩,
   ⟨false, 40, rdy, by decide +kernel⟩,
   ⟨false, 60, rdy, by decide +kernel⟩,
   ⟨false, 60, put RG.LOCK_EN 0 1 rdy, by decide +kernel⟩,
   ⟨0, false, 60, 0, put RG.LOCK_EN 0 1 { rdy with now := 1000, clk := { rdy.clk with lastMark := some 0 } }, by decide +kernel⟩,
   ⟨0, { rdy with clk := { rdy.clk with lastMark := some 0 } }, by decide +kernel⟩,
   ⟨rdy, by decide +kernel⟩⟩

/-- The hypotheses of each clause of ReadsCaptureSnapshots are met. -/
theorem test_met_ReadsCaptureSnapshots :
    (∃ (s : State), mpServes s = true) ∧
    (∃ (s : State), mpServes s = true) ∧
    (∃ (s : State), mpServes s = true) ∧
    (∃ (s : State), mpServes s = true) ∧
    (∃ (s : State), mpServes s = true) ∧
    (∃ (p : Nat) (s : State), mpServes s = true ∧ p < Config.ports s.variant) :=
  ⟨⟨rdy, by decide +kernel⟩,
   ⟨rdy, by decide +kernel⟩,
   ⟨rdy, by decide +kernel⟩,
   ⟨rdy, by decide +kernel⟩,
   ⟨rdy, by decide +kernel⟩,
   ⟨47, rdy, by decide +kernel⟩⟩

/-- The hypotheses of each clause of StartBitsAreSampled are met. -/
theorem test_met_StartBitsAreSampled :
    (∃ (dt p : Nat) (s : State), hunting p s = true ∧ edgeSeen p (elapse dt s) = true ∧ canStart p (elapse dt s) =
    true) ∧
    (∃ (dt p : Nat) (s : State), hunting p s = true ∧ edgeSeen p (elapse dt s) = true ∧ canIdle p (elapse dt s) =
    true) ∧
    (∃ (dt p : Nat) (s : State), (hunting p s = false ∨ edgeSeen p (elapse dt s) = false)) :=
  ⟨⟨0, 47, on 47 rdy, by decide +kernel⟩,
   ⟨0, 47, on 47 rdy, by decide +kernel⟩,
   ⟨0, 47, rdy, by decide +kernel⟩⟩

/-- The hypotheses of each clause of CharactersEndAtTheirStopSample are met. -/
theorem test_met_CharactersEndAtTheirStopSample :
    (∃ (p : Nat) (sm : List Bool) (x : RxChar) (s : State), (pGet p s).rx = some x ∧ quiet p s ∧ allStart x (sampled p
    x sm s) = true) ∧
    (∃ (p : Nat) (sm : List Bool) (x : RxChar) (s : State), (pGet p s).rx = some x ∧ allStart x (sampled p x sm s) =
    false) ∧
    (∃ (p : Nat) (s : State), (pGet p s).rx = none ∧ quiet p s) ∧
    (∃ (dt p : Nat) (x : RxChar) (l : LeanSum) (s : State), p < 48 ∧ (pGet p s).held = some (x, l) ∧ (s.now + dt) / 5
    < x.c0 + breakLine p s ∧ canIdle p (elapse dt s) = true) ∧
    (∃ (dt p : Nat) (s : State), quiet p s ∧ ((pGet p s).held = none ∨ (∃ x l, (pGet p s).held = some (x, l) ∧ x.c0 +
    breakLine p s ≤ (s.now + dt) / 5))) ∧
    (∃ (p : Nat) (x : RxChar) (l : LeanSum) (s : State), p < 48 ∧ (pGet p s).held = some (x, l) ∧ (pGet p s).open_ =
    none ∧ quiet p s ∧ grammar p s ≠ 4 ∧ canStart p (runTo (cyclesLine (x.c0 + breakLine p s)) s) = true) ∧
    (∃ (dt p : Nat) (s : State), (pGet p s).afterBreak = true ∧ canIdle p (elapse dt s) = true) ∧
    (∃ (p : Nat) (s : State), (pGet p s).afterBreak = false) :=
  ⟨⟨47, List.replicate 10 false, rxc, p47 fun c => { c with rx := some rxc }, by decide +kernel⟩,
   ⟨47, List.replicate 9 true, rxc, p47 fun c => { c with rx := some rxc }, by decide +kernel⟩,
   ⟨47, rdy, by decide +kernel⟩,
   ⟨0, 47, rxc, (⟨0, 0, 0, 1⟩ : LeanSum), p47 fun c => { c with held := some (rxc, ⟨0, 0, 0, 1⟩) }, by decide +kernel⟩,
   ⟨0, 47, rdy, by decide +kernel, Or.inl (by decide +kernel)⟩,
   ⟨47, rxc, (⟨0, 0, 0, 1⟩ : LeanSum), p47 fun c => { c with held := some (rxc, ⟨0, 0, 0, 1⟩) }, by decide +kernel⟩,
   ⟨0, 47, p47 fun c => { c with afterBreak := true }, by decide +kernel⟩,
   ⟨47, rdy, by decide +kernel⟩⟩

/-- The hypotheses of each clause of SentencesEndByTheirTimers are met. -/
theorem test_met_SentencesEndByTheirTimers :
    (∃ (p l : Nat) (r : OpenRec) (s : State), p < 48 ∧ (pGet p s).lastRx = some l ∧ startedBefore p (rxDue p l s) s =
    false ∧ grammar p s = 0 ∧ (pGet p s).open_ = some r) ∧
    (∃ (p l : Nat) (s : State), p < 48 ∧ (pGet p s).lastRx = some l ∧ startedBefore p (rxDue p l s) s = false ∧ (pGet
    p s).open_ = none ∧ quiet p s) ∧
    (∃ (p l : Nat) (s : State), (pGet p s).lastRx = some l ∧ startedBefore p (rxDue p l s) s = true ∧ quiet p s) ∧
    (∃ (p e : Nat) (r : OpenRec) (s : State), p < 48 ∧ (pGet p s).idleFrom = some e ∧ edgeBefore p (t35Due p e s) s =
    false ∧ grammar p s = 2 ∧ (pGet p s).open_ = some r) ∧
    (∃ (p e : Nat) (s : State), (pGet p s).idleFrom = some e ∧ edgeBefore p (t35Due p e s) s = true ∧ quiet p s) ∧
    (∃ (p l : Nat) (r : OpenRec) (s : State), p < 48 ∧ (pGet p s).lastRx = some l ∧ (grammar p s = 1 ∨ grammar p s =
    3) ∧ (pGet p s).open_ = some r ∧ get PT.SENT_TIMEOUT_MS p s ≠ 0 ∧ completesBefore p (sentDue p l s) s = false ∧
    breakBy p (sentDue p l s) s = false) ∧
    (∃ (p l : Nat) (s : State), (pGet p s).lastRx = some l ∧ completesBefore p (sentDue p l s) s = true ∧ quiet p s) ∧
    (∃ (p l : Nat) (r : OpenRec) (s : State), p < 48 ∧ (pGet p s).lastRx = some l ∧ grammar p s = 4 ∧ (pGet p s).open_
    = some r ∧ completesBefore p (markDue p l s) s = false) :=
  ⟨⟨47, 7, rec1, p47 fun c => { c with lastRx := some 7, open_ := some rec1, stage := [st1], rxChars := 1 }, by decide +kernel⟩,
   ⟨47, 7, p47 fun c => { c with lastRx := some 7, stage := [st1] }, by decide +kernel⟩,
   ⟨47, 7, p47 fun c => { c with lastRx := some 7, rx := some rxc }, by decide +kernel⟩,
   ⟨47, 7, rec1, put PT.GRAMMAR 47 2 (p47 fun c => { c with idleFrom := some 7, open_ := some rec1 }), by decide +kernel⟩,
   ⟨47, 7, put PT.GRAMMAR 47 2 (p47 fun c => { c with idleFrom := some 7, open_ := some rec1, rx := some rxc }), by decide +kernel⟩,
   ⟨47, 7, rec1, put PT.GRAMMAR 47 1 (put PT.SENT_TIMEOUT_MS 47 5 (p47 fun c => { c with lastRx := some 7, open_ := some rec1 })), by decide +kernel⟩,
   ⟨47, 7, put PT.SENT_TIMEOUT_MS 47 5 (p47 fun c => { c with lastRx := some 7, open_ := some rec1, rx := some rxc }), by decide +kernel⟩,
   ⟨7, 9, rec1, put PT.GRAMMAR 7 4 (pMap 7 (fun c => { c with lastRx := some 9, open_ := some rec1 }) rdy), by decide +kernel⟩⟩

/-- The hypotheses of each clause of StagedBytesMove are met. -/
theorem test_met_StagedBytesMove :
    (∃ (dt p : Nat) (s : State), p < 48 ∧ (pGet p s).moveReq = true ∧ ((pGet p s).moving = true ∨ moveAccepted p
    (elapse dt s) = true) ∧ quiet p s ∧ (pGet p s).closed = []) ∧
    (∃ (dt p : Nat) (c : Closed) (s : State), p < 48 ∧ (pGet p s).moveReq = true ∧ ((pGet p s).moving = true ∨
    moveAccepted p (elapse dt s) = true) ∧ quiet p s ∧ (pGet p s).closed = [c] ∧ c.isReply = false ∧ (pGet p s).open_
    = none) ∧
    (∃ (dt p : Nat) (s : State), ((pGet p s).moveReq = false ∨ ((pGet p s).moving = false ∧ moveAccepted p (elapse dt
    s) = false)) ∧ quiet p s) :=
  ⟨⟨0, 47, p47 fun c => { c with moveReq := true, stage := [st1], open_ := some { rec1 with moved := 0 } }, by decide +kernel⟩,
   ⟨0, 47, (⟨[0x41#8], [0#32, 0#32, 0#32, 0#32], 0, false, 1, false⟩ : Closed), p47 fun c => { c with moveReq := true, stage := [st1], closed := [⟨[0x41#8], [0#32, 0#32, 0#32, 0#32], 0, false, 1, false⟩] }, by decide +kernel⟩,
   ⟨0, 47, rdy, by decide +kernel⟩⟩

/-- The hypotheses of each clause of LineSettingsTakeEffect are met. -/
theorem test_met_LineSettingsTakeEffect :
    (∃ (p : Nat) (v : Word) (s : State), mpServes s = true ∧ p < Config.ports s.variant ∧ get PT.EN p s = 0 ∧ 9449 ≤
    v.toNat ∧ v.toNat ≤ 257698038) ∧
    (∃ (p : Nat) (v : Word) (s : State), mpServes s = true ∧ p < Config.ports s.variant ∧ (v.toNat < 9449 ∨ 257698038
    < v.toNat)) ∧
    (∃ (dt p : Nat) (s : State), p < 48 ∧ taken p PT.TX_BREAK [(PT.TX_BREAK, 1)] (elapse dt s) ∧ get PT.EN p s = 1 ∧
    get PT.TX_BREAK p s = 0 ∧ (txOf p s).phase = .idle ∧ (pGet p s).inTrim = false) ∧
    (∃ (dt p : Nat) (s : State), p < 48 ∧ taken p PT.EN [(PT.EN, 0)] (elapse dt s) ∧ get PT.EN p s = 1) :=
  ⟨⟨47, 9449#32, rdy, by decide +kernel⟩,
   ⟨47, 9448#32, rdy, by decide +kernel⟩,
   ⟨0, 47, on 47 rdy, by decide +kernel⟩,
   ⟨0, 47, on 47 rdy, by decide +kernel⟩⟩

/-- The hypotheses of each clause of RecordsAreTransmitted are met. -/
theorem test_met_RecordsAreTransmitted :
    (∃ (dt p : Nat) (ws : List QWord) (s : State), portOk s p = true ∧ get PT.EN p s = 1 ∧ (txOf p s).phase = .idle ∧
    txReady p (clearTxHead p (elapse dt s)) = some ws ∧ (pGet p (clearTxHead p (elapse dt s))).brkWanted = false ∧
    (txOf p (clearTxHead p (elapse dt s))).phase = .idle ∧ (pGet p (clearTxHead p (elapse dt s))).inTrim = false ∧ has
    (hdrFlags (recWord ws 3)) fBREAK = false) ∧
    (∃ (dt p : Nat) (ws : List QWord) (s : State), portOk s p = true ∧ get PT.EN p s = 1 ∧ (txOf p s).phase = .idle ∧
    txReady p (clearTxHead p (elapse dt s)) = some ws ∧ (pGet p (clearTxHead p (elapse dt s))).brkWanted = false ∧
    (txOf p (clearTxHead p (elapse dt s))).phase = .idle ∧ (pGet p (clearTxHead p (elapse dt s))).inTrim = true) ∧
    (∃ (p : Nat) (b : Byte) (r : List Byte) (s : State), (txOf p s).phase = .lead ∧ (txOf p s).bytes = b :: r ∧ (txOf
    p s).cut = false) ∧
    (∃ (p : Nat) (b : Byte) (r : List Byte) (s : State), (txOf p s).phase = .chars ∧ (txOf p s).bytes = b :: r ∧ (txOf
    p s).cut = false) ∧
    (∃ (p : Nat) (s : State), p < 48 ∧ (txOf p s).phase = .chars ∧ ((txOf p s).bytes = [] ∨ (txOf p s).cut = true)) ∧
    (∃ (p : Nat) (s : State), p < 48 ∧ (txOf p s).phase = .tail ∧ (pGet p s).brkWanted = false ∧ (txOf p s).owner =
    none) ∧
    (∃ (p i : Nat) (s : State), p < 48 ∧ i < 4096 ∧ (txOf p s).phase = .tail ∧ (pGet p s).brkWanted = false ∧ (txOf p
    s).owner = some (.poll i) ∧ (txOf p s).cut = false ∧ (copGet p s).txn = .poll i ∧ get PL.NO_REPLY i s = 0 ∧
    (copGet p s).ending = none) :=
  ⟨⟨0, 47, txr, on 47 (held 95 txr rdy), by decide +kernel⟩,
   ⟨0, 47, txr, on 47 (held 95 txr (p47 fun c => { c with inTrim := true })), by decide +kernel⟩,
   ⟨47, 0x41#8, ([] : List Byte), tx47 fun t => { t with phase := .lead, due := 9, bytes := [0x41#8] }, by decide +kernel⟩,
   ⟨47, 0x41#8, ([] : List Byte), tx47 fun t => { t with phase := .chars, due := 9, bytes := [0x41#8] }, by decide +kernel⟩,
   ⟨47, tx47 fun t => { t with phase := .chars, due := 9 }, by decide +kernel⟩,
   ⟨47, tx47 fun t => { t with phase := .tail, due := 9 }, by decide +kernel⟩,
   ⟨47, 4095, copMap 47 (fun c => { c with txn := .poll 4095 }) (tx47 fun t => { t with phase := .tail, due := 9, owner := some (.poll 4095) }), by decide +kernel⟩⟩

/-- The hypotheses of each clause of BreaksAreSent are met. -/
theorem test_met_BreaksAreSent :
    (∃ (dt p : Nat) (s : State), p < 48 ∧ (txOf p s).phase = .leaveWait ∧ mayStart (.brk p) (elapse dt s) = true ∧
    (pGet p s).inTrim = false ∧ (txOf p s).directive = false) ∧
    (∃ (dt p : Nat) (ws : List QWord) (s : State), p < 48 ∧ (txOf p s).phase = .leaveWait ∧ mayStart (.brk p) (elapse
    dt s) = true ∧ (pGet p s).inTrim = false ∧ (txOf p s).directive = true ∧ txReady p (elapse dt s) = some ws) ∧
    (∃ (dt p : Nat) (s : State), p < 48 ∧ (txOf p s).phase = .leaveWait ∧ mayStart (.brk p) (elapse dt s) = true ∧
    (pGet p s).inTrim = true ∧ (txOf p s).directive = false) ∧
    (∃ (dt p : Nat) (s : State), ((txOf p s).phase ≠ .leaveWait ∨ mayStart (.brk p) (elapse dt s) = false)) ∧
    (∃ (p : Nat) (s : State), p < 48 ∧ (txOf p s).phase = .brk ∧ (txOf p s).cut = false) ∧
    (∃ (p : Nat) (s : State), p < 48 ∧ (txOf p s).phase = .brk ∧ (txOf p s).cut = true) ∧
    (∃ (p : Nat) (s : State), p < 48 ∧ (txOf p s).phase = .mark ∧ (txOf p s).directive = false ∧ s.now < (txOf p
    s).due) :=
  ⟨⟨0, 47, setGrants .field [⟨.brk 47, 1, 0⟩] (tx47 fun t => { t with phase := .leaveWait }), by decide +kernel⟩,
   ⟨0, 47, txr, setGrants .field [⟨.brk 47, 1, 0⟩] (held 95 txr (tx47 fun t => { t with phase := .leaveWait, directive := true })), by decide +kernel⟩,
   ⟨0, 47, setGrants .field [⟨.brk 47, 1, 0⟩] (p47 fun c => { c with inTrim := true, tx := { c.tx with phase := .leaveWait } }), by decide +kernel⟩,
   ⟨0, 47, rdy, by decide +kernel⟩,
   ⟨47, tx47 fun t => { t with phase := .brk, due := 9 }, by decide +kernel⟩,
   ⟨47, tx47 fun t => { t with phase := .brk, due := 9, cut := true }, by decide +kernel⟩,
   ⟨47, tx47 fun t => { t with phase := .mark, due := 9 }, by decide +kernel⟩⟩

/-- The hypotheses of each clause of CardsActivateStepByStep are met. -/
theorem test_met_CardsActivateStepByStep :
    (∃ (n : Nat) (s : State), cardOk s n = true ∧ cardPresent n s = false) ∧
    (∃ (n : Nat) (s : State), cardPresent n s = true) ∧
    (∃ (n d : Nat) (s : State), n < 2 ∧ (cGet n s).debounceEnd = some d ∧ cardEn n s = true ∧ cardState n s ≠ 7) ∧
    (∃ (n d : Nat) (s : State), n < 2 ∧ (cGet n s).debounceEnd = some d ∧ cardEn n s = false) ∧
    (∃ (n : Nat) (s : State), n < 2 ∧ cardState n s = 2 ∧ (cGet n s).actStep = 0) ∧
    (∃ (n : Nat) (s : State), n < 2 ∧ cardState n s = 2 ∧ (cGet n s).actStep = 1) ∧
    (∃ (n : Nat) (s : State), n < 2 ∧ cardState n s = 2 ∧ (cGet n s).actStep = 2) ∧
    (∃ (n : Nat) (s : State), n < 2 ∧ cardState n s = 2 ∧ ((cGet n s).actStep = 3 ∨ (cGet n s).actStep = 4) ∧ (cGet n
    s).script = .none) ∧
    (∃ (n : Nat) (s : State), cardOk s n = true ∧ cardPresent n s = true ∧ (cGet n s).script = .none ∧ cardState n s ≠
    5) ∧
    (∃ (n : Nat) (s : State), cardOk s n = true ∧ cardPresent n s = true ∧ (cGet n s).script = .none ∧ cardState n s =
    5) ∧
    (∃ (n : Nat) (s : State), cardPresent n s = false) :=
  ⟨⟨1, rdy, by decide +kernel⟩,
   ⟨1, card1 4 id, by decide +kernel⟩,
   ⟨1, 9, card1 1 fun c => { c with inserted := false, debounceEnd := some 9 }, by decide +kernel⟩,
   ⟨1, 9, put RG.CP1_EN 0 0 (card1 1 fun c => { c with inserted := false, debounceEnd := some 9 }), by decide +kernel⟩,
   ⟨1, card1 2 fun c => { c with due := 9 }, by decide +kernel⟩,
   ⟨1, card1 2 fun c => { c with due := 9, actStep := 1 }, by decide +kernel⟩,
   ⟨1, card1 2 fun c => { c with due := 9, actStep := 2 }, by decide +kernel⟩,
   ⟨1, card1 2 fun c => { c with due := 9, actStep := 3 }, by decide +kernel⟩,
   ⟨1, card1 4 id, by decide +kernel⟩,
   ⟨1, card1 5 id, by decide +kernel⟩,
   ⟨1, rdy, by decide +kernel⟩⟩

/-- The hypotheses of each clause of CardCharactersFollowTheirRules are met. -/
theorem test_met_CardCharactersFollowTheirRules :
    (∃ (n : Nat) (s : State), cardListens n s = false) ∧
    (∃ (n : Nat) (sm : List Bool) (s : State), cardOk s n = true ∧ cardState n s = 2 ∧ (cGet n s).actStep = 3 ∧ (cGet
    n s).script = .none ∧ (cardDecode false sm).1.toNat ≠ 0x3B ∧ (cardDecode true sm).1.toNat ≠ 0x3F) ∧
    (∃ (n : Nat) (sm : List Bool) (s : State), cardListens n s = true ∧ (cardState n s ≠ 2 ∨ (cGet n s).actStep = 4) ∧
    (cardDecode (flag CD.CONV n s) sm).2 = false ∧ (cGet n s).repeats < get CD.CX_RETRY n s) ∧
    (∃ (n : Nat) (sm : List Bool) (s : State), cardOk s n = true ∧ cardState n s = 5 ∧ (cardDecode (flag CD.CONV n s)
    sm).2 = true ∧ (cGet n s).txBytes = [] ∧ (cGet n s).sw1 = none ∧ 0 < (cGet n s).burst ∧ ((cGet n s).repeats < get
    CD.CX_RETRY n s ∨ get CD.CX_RETRY n s = 0)) ∧
    (∃ (n a z : Nat) (b : Byte) (r : List Byte) (s : State), cardOk s n = true ∧ (cardState n s = 3 ∨ cardState n s =
    5) ∧ (cGet n s).txBytes = b :: r ∧ errorSignalled n a z s = false) ∧
    (∃ (n a z : Nat) (b : Byte) (r : List Byte) (s : State), cardOk s n = true ∧ (cardState n s = 3 ∨ cardState n s =
    5) ∧ (cGet n s).txBytes = b :: r ∧ errorSignalled n a z s = true ∧ (cGet n s).repeats < get CD.CX_RETRY n s) ∧
    (∃ (n a z : Nat) (b : Byte) (r : List Byte) (s : State), cardOk s n = true ∧ cardState n s = 5 ∧ (cGet n
    s).txBytes = b :: r ∧ (cGet n s).script = .none ∧ errorSignalled n a z s = true ∧ get CD.CX_RETRY n s ≤ (cGet n
    s).repeats) ∧
    (∃ (n : Nat) (s : State), cardOk s n = true ∧ cardState n s = 5 ∧ ((cGet n s).heard = true ∨ (cGet n s).txBytes =
    []) ∧ (cGet n s).script = .none) :=
  ⟨⟨1, card1 4 id, by decide +kernel⟩,
   ⟨1, good9, card1 2 fun c => { c with actStep := 3 }, by decide +kernel⟩,
   ⟨1, bad9, card1 5 id, by decide +kernel⟩,
   ⟨1, good9, card1 5 fun c => { c with burst := 3, toRecv := 3, hdr := [0#8, 1#8, 2#8, 3#8, 3#8] }, by decide +kernel⟩,
   ⟨1, 409201, 900000, 7#8, ([] : List Byte), card1 5 fun c => { c with txBytes := [7#8] }, by decide +kernel⟩,
   ⟨1, 409200, 409201, 7#8, ([] : List Byte), card1 5 fun c => { c with txBytes := [7#8] }, by decide +kernel⟩,
   ⟨1, 409200, 409201, 7#8, ([] : List Byte), card1 5 fun c => { c with txBytes := [7#8], repeats := 15 }, by decide +kernel⟩,
   ⟨1, card1 5 fun c => { c with job := some 3 }, by decide +kernel⟩⟩

/-- The hypotheses of each clause of CardCommandsActOnTheCard are met. -/
theorem test_met_CardCommandsActOnTheCard :
    (∃ (dt n dir : Nat) (s : State), n < 2 ∧ dir < 4 ∧ taken n CD.GO [(CD.GO, 1), (CD.DIR, dir)] (elapse dt s)) ∧
    (∃ (dt n : Nat) (s : State), n < 2 ∧ taken n CD.RESET [(CD.RESET, 1)] (elapse dt s) ∧ (cGet n s).inserted = true ∧
    cardEn n s = true ∧ cardState n s = 4 ∧ (cGet n s).script = .none) ∧
    (∃ (dt n : Nat) (s : State), n < 2 ∧ taken n CD.DEACT [(CD.DEACT, 1)] (elapse dt s) ∧ cardState n s = 4 ∧ (cGet n
    s).script = .none) ∧
    (∃ (n : Nat) (s : State), n < 2 ∧ cardState n s = 7 ∧ (cGet n s).endState < 16 ∧ s.now < (cGet n s).due) ∧
    (∃ (s : State), mpServes s = true ∧ s.variant = .sx4848 ∧ get RG.CP1_EN 0 s = 0 ∧ s.clk.w9 = .none) ∧
    (∃ (s : State), mpServes s = true ∧ s.variant = .sx4848 ∧ get RG.CP1_EN 0 s = 0 ∧ s.clk.w9 = .tmOut ∧ s.clk.w9Free
    = none ∧ get RG.TM_OUT_EN 0 s = 1) ∧
    (∃ (n : Nat) (s : State), n < 2 ∧ mpServes s = true ∧ s.variant = .sx4848 ∧ cardEn n s = true ∧ cardState n s = 4
    ∧ (cGet n s).script = .none) :=
  ⟨⟨0, 1, 2, card1 4 id, by decide +kernel⟩,
   ⟨0, 1, card1 4 id, by decide +kernel⟩,
   ⟨0, 1, card1 4 id, by decide +kernel⟩,
   ⟨1, card1 7 fun c => { c with due := 9, endState := 9 }, by decide +kernel⟩,
   ⟨rdy, by decide +kernel⟩,
   ⟨put RG.TM_OUT_EN 0 1 { rdy with clk := { rdy.clk with w9 := .tmOut } }, by decide +kernel⟩,
   ⟨1, card1 4 id, by decide +kernel⟩⟩

/-- The hypotheses of each clause of CardScriptsLoadKeysAndBadges are met. -/
theorem test_met_CardScriptsLoadKeysAndBadges :
    (∃ (s : State), (cGet 0 s).script ≠ .keyload) ∧
    (∃ (s : State), (cGet 1 s).script ≠ .badge) ∧
    (∃ (r : ScriptReply) (s : State), (cGet 0 s).script = .keyload ∧ siteVerdict ((cGet 0 s).got ++ [r]) s = none) ∧
    (∃ (r : ScriptReply) (code site serial k : Nat) (ks : List (Nat × List Byte)) (s : State), (cGet 0 s).script =
    .keyload ∧ cardState 0 s = 6 ∧ siteVerdict ((cGet 0 s).got ++ [r]) s = some (code, site, serial, k, ks)) ∧
    (∃ (r : ScriptReply) (s : State), (cGet 1 s).script = .badge ∧ (cGet 1 s).got = [] ∧ (scriptData 0 r).isSome =
    true) ∧
    (∃ (r : ScriptReply) (s : State), (cGet 1 s).script = .badge ∧ cardState 1 s = 6 ∧ ((cGet 1 s).got ≠ [] ∨
    scriptData 0 r = none)) :=
  ⟨⟨rdy, by decide +kernel⟩,
   ⟨rdy, by decide +kernel⟩,
   ⟨okReply [], cMap 0 (fun c => { c with script := .keyload }) rdy, by decide +kernel⟩,
   ⟨okReply keyCard, 1, 2, 3, 1, [(127, List.replicate 16 7#8)], put CD.STATE 0 6 (cMap 0 (fun c => { c with script := .keyload, got := [okReply [], okReply headCard] }) rdy), by decide +kernel, by decide +kernel, siteVerdict_loads _ (by decide +kernel) (by decide +kernel)⟩,
   ⟨okReply [], cMap 1 (fun c => { c with script := .badge }) rdy, by decide +kernel⟩,
   ⟨okReply [], card1 6 fun c => { c with script := .badge, got := [okReply []] }, by decide +kernel⟩⟩

/-- The hypotheses of each clause of ScanGroupsOpenPeriods are met. -/
theorem test_met_ScanGroupsOpenPeriods :
    (∃ (g : Nat) (r : GroupRun) (s : State), g < 64 ∧ find g s.groups = some r) ∧
    (∃ (g : Nat) (s : State), find g s.groups = none) ∧
    (∃ (dt g : Nat) (s : State), g < 64 ∧ taken g GP.EN [(GP.EN, 1)] (elapse dt s) ∧ get GP.EN g s = 0 ∧ get RG.COP_EN
    0 s = 1 ∧ get RG.QUALITY 0 s ≠ 2 ∧ find g s.groups = none) ∧
    (∃ (dt g : Nat) (s : State), g < 64 ∧ taken g GP.EN [(GP.EN, 1)] (elapse dt s) ∧ get RG.COP_EN 0 s = 0) ∧
    (∃ (dt g : Nat) (s : State), g < 64 ∧ taken g GP.EN [(GP.EN, 0)] (elapse dt s) ∧ get GP.EN g s = 1) ∧
    (∃ (dt : Nat) (s : State), taken 0 RG.COP_EN [(RG.COP_EN, 0)] (elapse dt s) ∧ get RG.COP_EN 0 s = 1) :=
  ⟨⟨63, (⟨500, none, 0, none, false, false⟩ : GroupRun), { rdy with groups := [(63, ⟨500, none, 0, none, false, false⟩)] }, by decide +kernel⟩,
   ⟨63, rdy, by decide +kernel⟩,
   ⟨0, 63, put RG.COP_EN 0 1 rdy, by decide +kernel⟩,
   ⟨0, 63, rdy, by decide +kernel⟩,
   ⟨0, 63, put GP.RUNNING 63 1 (put GP.EN 63 1 { rdy with groups := [(63, ⟨500, none, 0, none, false, false⟩)] }), by decide +kernel⟩,
   ⟨0, put GP.RUNNING 63 1 (put GP.EN 63 1 (put RG.COP_EN 0 1 { rdy with groups := [(63, ⟨500, none, 0, none, false, false⟩)] })), by decide +kernel⟩⟩

/-- The hypotheses of each clause of TransactionsHoldThePort are met. -/
theorem test_met_TransactionsHoldThePort :
    (∃ (dt p : Nat) (s : State), portFree p (elapse dt s) = false) ∧
    (∃ (dt p : Nat) (s : State), owedPoll p (elapse dt s) = none ∧ (copGet p s).cmds = [] ∧ duePoll p (elapse dt s) =
    none) ∧
    (∃ (dt p i : Nat) (s : State), portFree p (elapse dt s) = true ∧ owedPoll p (elapse dt s) = some i) ∧
    (∃ (dt p : Nat) (c : Cmd) (s : State), portFree p (elapse dt s) = true ∧ owedPoll p (elapse dt s) = none ∧ nextCmd
    (copGet p s).cmds = some c ∧ (duePoll p (elapse dt s) = none ∨ (copGet p s).burst < get RG.CMD_BURST 0 s)) ∧
    (∃ (dt p i : Nat) (s : State), portFree p (elapse dt s) = true ∧ owedPoll p (elapse dt s) = none ∧ (copGet p
    s).cmds = [] ∧ duePoll p (elapse dt s) = some i ∧ owes i s = false ∧ anySlot s = true) ∧
    (∃ (dt p i : Nat) (s : State), portFree p (elapse dt s) = true ∧ owedPoll p (elapse dt s) = none ∧ (copGet p
    s).cmds = [] ∧ duePoll p (elapse dt s) = some i ∧ owes i s = true) ∧
    (∃ (p : Nat) (s : State), (pGet p s).win = none) ∧
    (∃ (p i : Nat) (w : Window) (c : Nat) (s : State), i < 4096 ∧ (pGet p s).win = some w ∧ w.closeAt = some c ∧
    w.started = false ∧ (pGet p s).open_ = none ∧ (pGet p s).closed = [] ∧ (copGet p s).txn = .poll i ∧ pollPort i s =
    p ∧ (plGet i s).st = .active ∧ get PL.RETRIES i s = 0) ∧
    (∃ (i u : Nat) (h : Bool) (s : State), (plGet i s).st = .measuring u h) ∧
    (∃ (i u : Nat) (s : State), (plGet i s).st = .holding u) ∧
    (∃ (i : Nat) (s : State), (∀ u h, (plGet i s).st ≠ .measuring u h) ∧ (∀ u, (plGet i s).st ≠ .holding u)) :=
  ⟨⟨0, 47, rdy, by decide +kernel⟩,
   ⟨0, 0, rdy, by decide +kernel⟩,
   ⟨0, 0, 4095, copMap 0 (fun c => { c with lastPoll := some 4095 }) (polled0 .retry), by decide +kernel⟩,
   ⟨0, 0, (⟨5, 3, 7, 0, false, [0x41#8], 900⟩ : Cmd), copMap 0 (fun c => { c with cmds := [⟨5, 3, 7, 0, false, [0x41#8], 900⟩] }) (put RG.COP_EN 0 1 rdy), by decide +kernel⟩,
   ⟨0, 0, 4095, polled0 .due, by decide +kernel⟩,
   ⟨0, 0, 4095, polled0 .retry, by decide +kernel⟩,
   ⟨47, rdy, by decide +kernel⟩,
   ⟨0, 4095, (⟨0, some 9, false, false⟩ : Window), 9, pMap 0 (fun c => { c with win := some ⟨0, some 9, false, false⟩ }) (copMap 0 (fun c => { c with txn := .poll 4095 }) (put PL.RETRIES 4095 0 (polled0 .active))), by decide +kernel⟩,
   ⟨4095, 9, true, polled0 (.measuring 9 true), by decide +kernel⟩,
   ⟨4095, 9, polled0 (.holding 9), by decide +kernel⟩,
   ⟨4095, rdy, (by intro u h e; cases (show PollState.none = .measuring u h from e)), by intro u e; cases (show PollState.none = .holding u from e)⟩⟩

/-- The hypotheses of each clause of JobsTakeAndFreeSlots are met. -/
theorem test_met_JobsTakeAndFreeSlots :
    (∃ (dt : Nat) (s : State), pollsWaiting (elapse dt s) = [] ∧ slotBeyondReserve s = false) ∧
    (∃ (dt : Nat) (r : Release) (d : Nat) (rest : List Nat) (rem : Nat) (s : State), pollsWaiting (elapse dt s) = [] ∧
    slotBeyondReserve s = true ∧ s.releases = [r] ∧ s.uplinks = [] ∧ r.todo = d :: rest ∧ remaining r.deadline (elapse
    dt s) = some rem) ∧
    (∃ (s : State), nextExpiry s = none) ∧
    (∃ (j : Job) (s : State), j.tenant < 128 ∧ nextExpiry s = some j ∧ j.kind = .fwd) ∧
    (∃ (src : Nat) (s : State), releaseOf src s = none) ∧
    (∃ (src : Nat) (r : Release) (s : State), releaseOf src s = some r ∧ r.todo ≠ [] ∧ r.jobs ≠ []) ∧
    (∃ (s : State), nextIdle s = none) ∧
    (∃ (x : Nat) (s : State), nextIdle s = some x) ∧
    (∃ (src d : Nat) (s : State), forwardJob src d s = none) ∧
    (∃ (src d : Nat) (j : Job) (s : State), d < 128 ∧ forwardJob src d s = some j) :=
  ⟨⟨0, put RG.POLL_RESERVE 0 127 { rdy with variant := .sx4812, jobs := [fwd127] }, by decide +kernel⟩,
   ⟨0, rel47, 127, [3], 5000000, { rdy with releases := [rel47] }, by decide +kernel⟩,
   ⟨rdy, by decide +kernel⟩,
   ⟨fwd127, { rdy with jobs := [fwd127] }, by decide +kernel⟩,
   ⟨0, rdy, by decide +kernel⟩,
   ⟨47, { rel47 with jobs := [9] }, { rdy with releases := [{ rel47 with jobs := [9] }] }, by decide +kernel⟩,
   ⟨rdy, by decide +kernel⟩,
   ⟨9, { rdy with jobs := [{ fwd127 with idleAt := some 9 }, { fwd127 with id := 10 }] }, by decide +kernel⟩,
   ⟨0, 0, rdy, by decide +kernel⟩,
   ⟨5, 127, fwd127, { rdy with jobs := [fwd127], releases := [{ rel47 with src := 5, todo := [], jobs := [9] }] }, by decide +kernel⟩⟩

/-- The hypotheses of each clause of RecordsAreClassified are met. -/
theorem test_met_RecordsAreClassified :
    (∃ (dt : Nat) (s : State), canopyFree (elapse dt s) = false) ∧
    (∃ (dt src : Nat) (s : State), canopyFree (elapse dt s) = true ∧ nextVisit (elapse dt s) = some src ∧
    (sourceRecord src (elapse dt s)).isSome = true) ∧
    (∃ (dt src : Nat) (s : State), src < 48 ∧ canopyFree (elapse dt s) = true ∧ nextVisit (elapse dt s) = some src ∧
    sourceGap src (elapse dt s) = true ∧ blocksKept src s) ∧
    (∃ (s : State), s.canopy.run = none) ∧
    (∃ (src c : Nat) (r : ClassRes) (s : State), s.canopy.run = some (src, c, r) ∧ r.noMatch = true ∧ r.logRule =
    none) ∧
    (∃ (src c : Nat) (r : ClassRes) (ws : List QWord) (s : State), src < 48 ∧ s.canopy.run = some (src, c, r) ∧
    r.noMatch = false ∧ r.drop = false ∧ r.deliver ≠ [] ∧ r.logRule = none ∧ sourceRecord src s = some ws ∧ (remaining
    ((hdrStamp (recWord (resultWords r ws) 1) (recWord (resultWords r ws) 2)).total + (r.deadlineMs.getD
    (classDefaultMs r.cls)) * 1000000) (runTo (c + 47) s)).isSome = true) ∧
    (∃ (s : State), (s.canopy.waitWrite = none ∨ s.canopy.run ≠ none)) ∧
    (∃ (ws : List (Nat × Nat × Word)) (s : State), s.canopy.waitWrite = some (none, ws) ∧ s.canopy.run = none) ∧
    (∃ (s : State), mpServes s = true) ∧
    (∃ (s : State), mpServes s = true) :=
  ⟨⟨0, put RG.CANOPY_EN 0 0 rdy, by decide +kernel⟩,
   ⟨0, 47, src47, by decide +kernel⟩,
   ⟨0, 47, put RG.CANOPY_EN 0 1 (held 47 [⟨.gap, 0x40000001#32⟩] rdy), by decide +kernel⟩,
   ⟨rdy, by decide +kernel⟩,
   ⟨47, 5, { res47 with noMatch := true, deliver := [] }, { src47 with canopy := { src47.canopy with run := some (47, 5, { res47 with noMatch := true, deliver := [] }) } }, by decide +kernel⟩,
   ⟨47, 5, res47, txr, { src47 with canopy := { src47.canopy with run := some (47, 5, res47) } }, by decide +kernel⟩,
   ⟨rdy, by decide +kernel⟩,
   ⟨[(3, 0, 5#32)], { src47 with canopy := { src47.canopy with waitWrite := some (none, [(3, 0, 5#32)]) } }, by decide +kernel⟩,
   ⟨rdy, by decide +kernel⟩,
   ⟨rdy, by decide +kernel⟩⟩

/-- The hypotheses of each clause of TenantsAndKeysAreWritten are met. -/
theorem test_met_TenantsAndKeysAreWritten :
    (∃ (dt x : Nat) (s : State), x < 128 ∧ taken x TN.EN [(TN.EN, 1)] (elapse dt s)) ∧
    (∃ (dt x : Nat) (s : State), x < 128 ∧ taken x TN.EN [(TN.EN, 0)] (elapse dt s)) ∧
    (∃ (s : State), mpServes s = true ∧ get TN.CONSUMER 0 s = 0 ∧ get TN.LISTEN_PORT 0 s = 0) ∧
    (∃ (x : Nat) (s : State), mpServes s = true ∧ x < Config.tenants s.variant) ∧
    (∃ (x : Nat) (s : State), mpServes s = true ∧ Config.tenants s.variant ≤ x) :=
  ⟨⟨0, 127, rdy, by decide +kernel⟩,
   ⟨0, 127, put TN.EN 127 1 rdy, by decide +kernel⟩,
   ⟨rdy, by decide +kernel⟩,
   ⟨127, rdy, by decide +kernel⟩,
   ⟨128, rdy, by decide +kernel⟩⟩

/-- The hypotheses of each clause of QueueWordsEnterAndAdvance are met. -/
theorem test_met_QueueWordsEnterAndAdvance :
    (∃ (dt q : Nat) (p : Producer) (w : QWord) (rest : List (Producer × QWord)) (s : State), q < 226 ∧ queueOk s q =
    true ∧ quiet q s ∧ (pGet q s).moving = false ∧ (qGet q (elapse dt s)).openBy = some p ∧ (qGet q (elapse dt
    s)).openCleared = false ∧ (qGet q (elapse dt s)).gap = ⟨0, 0, 0, 0, 0⟩ ∧ takeWaiting p (qGet q (elapse dt s)).wait
    = some (w, rest) ∧ accepts q p w (elapse dt s) = true) ∧
    (∃ (dt q : Nat) (p : Producer) (w : QWord) (rest : List (Producer × QWord)) (s : State), q < 226 ∧ queueOk s q =
    true ∧ quiet q s ∧ (pGet q s).moving = false ∧ (qGet q (elapse dt s)).openBy = some p ∧ takeWaiting p (qGet q
    (elapse dt s)).wait = some (w, rest) ∧ accepts q p w (elapse dt s) = false ∧ (qGet q (elapse dt s)).counted =
    false) ∧
    (∃ (dt q k : Nat) (p : Producer) (w : QWord) (rest : List (Producer × QWord)) (s : State), q < 226 ∧ queueOk s q =
    true ∧ quiet q s ∧ (pGet q s).moving = false ∧ (waitingProducers q (elapse dt s))[k]? = some p ∧ (qGet q (elapse
    dt s)).openBy = none ∧ (qGet q (elapse dt s)).gap = ⟨0, 0, 0, 0, 0⟩ ∧ (qGet q (elapse dt s)).room = true ∧
    takeWaiting p (qGet q (elapse dt s)).wait = some (w, rest) ∧ w.tag = .start ∧ (qGet q (elapse dt s)).openCleared =
    false) ∧
    (∃ (dt q k : Nat) (s : State), (waitingProducers q (elapse dt s))[k]? = none) ∧
    (∃ (dt q : Nat) (w : QWord) (r : List QWord) (s : State), queueOk s q = true ∧ (qGet q (elapse dt s)).mid = [] ∧
    (qGet q (elapse dt s)).head.length < 8 ∧ (qGet q (elapse dt s)).tail = w :: r) ∧
    (∃ (dt q : Nat) (s : State), ((qGet q (elapse dt s)).mid ≠ [] ∨ (qGet q (elapse dt s)).tail = [] ∨ 8 ≤ (qGet q
    (elapse dt s)).head.length)) ∧
    (∃ (dt q n : Nat) (s : State), q < 226 ∧ queueOk s q = true ∧ 0 < n ∧ (qGet q (elapse dt s)).gap = ⟨0, n, 0, 0, 0⟩
    ∧ (qGet q (elapse dt s)).openBy = none ∧ (qGet q (elapse dt s)).room = true) ∧
    (∃ (dt q : Nat) (s : State), (qGet q (elapse dt s)).openBy ≠ none) :=
  ⟨⟨0, 224, .mp, (⟨.body, 7#32⟩ : QWord), ([] : List (Producer × QWord)), qMap 224 (fun c => { c with openBy := some .mp, openWords := 1, openLen := 5, wait := [(.mp, ⟨.body, 7#32⟩)] }) rdy, by decide +kernel⟩,
   ⟨0, 224, .mp, (⟨.start, 7#32⟩ : QWord), ([] : List (Producer × QWord)), qMap 224 (fun c => { c with openBy := some .mp, openWords := 1, openLen := 5, wait := [(.mp, ⟨.start, 7#32⟩)] }) rdy, by decide +kernel⟩,
   ⟨0, 224, 0, .mp, (⟨.start, 7#32⟩ : QWord), ([] : List (Producer × QWord)), qMap 224 (fun c => { c with wait := [(.mp, ⟨.start, 7#32⟩)] }) rdy, by decide +kernel⟩,
   ⟨0, 224, 0, rdy, by decide +kernel⟩,
   ⟨0, 224, (⟨.start, 7#32⟩ : QWord), ([] : List QWord), qMap 224 (fun c => { c with tail := [⟨.start, 7#32⟩] }) rdy, by decide +kernel⟩,
   ⟨0, 224, rdy, by decide +kernel⟩,
   ⟨0, 223, 65535, qMap 223 (fun c => { c with gap := ⟨0, 65535, 0, 0, 0⟩ }) rdy, by decide +kernel⟩,
   ⟨0, 223, qMap 223 (fun c => { c with openBy := some .mp }) rdy, by decide +kernel⟩⟩

/-- The hypotheses of each clause of BlocksSpillAndRefill are met. -/
theorem test_met_BlocksSpillAndRefill :
    (∃ (dt q : Nat) (s : State), wantsSpill (qGet q (elapse dt s)) = false) ∧
    (∃ (dt q : Nat) (b : Block) (e s : State), e = portServesReq (.spill q) (elapse dt s) ∧ wantsSpill (qGet q e) =
    true ∧ holdsPartial q e = false ∧ newest (qGet q e).mid = some b ∧ b.written < 16) ∧
    (∃ (dt q : Nat) (e s : State), e = portServesReq (.spill q) (elapse dt s) ∧ q < 226 ∧ wantsSpill (qGet q e) = true
    ∧ holdsPartial q e = false ∧ (∀ b, newest (qGet q e).mid = some b → 16 ≤ b.written) ∧ mayAllocate q e = true ∧
    e.store.lanes.length < 8) ∧
    (∃ (dt q : Nat) (e s : State), e = portServesReq (.spill q) (elapse dt s) ∧ (∀ b, newest (qGet q e).mid = some b →
    16 ≤ b.written) ∧ mayAllocate q e = false) ∧
    (∃ (q : Nat) (l : Lane) (rest : List Lane) (s : State), dropLane q true s.store.lanes = some (l, rest) ∧
    l.clearing = false ∧ s.store.allocWait = [] ∧ s.store.releases = []) ∧
    (∃ (q : Nat) (l : Lane) (rest : List Lane) (s : State), dropLane q false s.store.lanes = some (l, rest) ∧
    l.clearing = false ∧ s.store.allocWait = [] ∧ s.store.releases = []) ∧
    (∃ (q : Nat) (s : State), dropLane q true s.store.lanes = none) ∧
    (∃ (q : Nat) (s : State), dropLane q false s.store.lanes = none) ∧
    (∃ (dt q : Nat) (e s : State), e = portServesReq (.refill q) (elapse dt s) ∧ (qGet q e).head.length ≤ 4 ∧ (qGet q
    e).mid ≠ [] ∧ blocksKept q e) ∧
    (∃ (dt q : Nat) (s : State), (4 < (qGet q (elapse dt s)).head.length ∨ (qGet q (elapse dt s)).mid = [])) :=
  ⟨⟨0, 47, rdy, by decide +kernel⟩,
   ⟨0, 225, (⟨[], 8⟩ : Block), portServesReq (.spill 225) (elapse 0 half225), half225, rfl, by decide +kernel⟩,
   ⟨0, 225, portServesReq (.spill 225) (elapse 0 spill225), spill225, rfl, by decide +kernel, by decide +kernel, by decide +kernel, (by intro b h; cases (show (none : Option Block) = some b from h)), by decide +kernel⟩,
   ⟨0, 225, portServesReq (.spill 225) (elapse 0 poor225), poor225, rfl, (by intro b h; cases (show (none : Option Block) = some b from h)), by decide +kernel⟩,
   ⟨47, (⟨47, true, false⟩ : Lane), ([] : List Lane), { rdy with store := { rdy.store with lanes := [⟨47, true, false⟩] } }, by decide +kernel⟩,
   ⟨47, (⟨47, false, false⟩ : Lane), ([] : List Lane), { rdy with store := { rdy.store with lanes := [⟨47, false, false⟩], held := 1 } }, by decide +kernel⟩,
   ⟨47, rdy, by decide +kernel⟩,
   ⟨225, rdy, by decide +kernel⟩,
   ⟨0, 225, portServesReq (.refill 225) (elapse 0 refill225), refill225, rfl, by decide +kernel⟩,
   ⟨0, 0, rdy, by decide +kernel⟩⟩

/-- The hypotheses of each clause of RecordsAreVerified are met. -/
theorem test_met_RecordsAreVerified :
    (∃ (dt q n : Nat) (w : QWord × Nat) (r : List (QWord × Nat)) (s : State), queueOk s q = true ∧ verifiedQueue q =
    true ∧ (qGet q (elapse dt s)).verified = false ∧ (qGet q (elapse dt s)).verifying = false ∧ (qGet q (elapse dt
    s)).headExtent = some n ∧ (qGet q (elapse dt s)).head = w :: r ∧ w.1.tag = .start ∧ (qGet q (elapse dt
    s)).head.length < n ∧ (qGet q (elapse dt s)).mid ≠ []) ∧
    (∃ (dt q : Nat) (s : State), (verifiedQueue q = false ∨ (qGet q (elapse dt s)).verified = true ∨ (qGet q (elapse
    dt s)).verifying = true ∨ (qGet q (elapse dt s)).headExtent = none)) ∧
    (∃ (dt q : Nat) (e s : State), e = passServed q [] (elapse dt s) ∧ (qGet q (elapse dt s)).verifying = true ∧ (∀ w
    ∈ (qGet q e).words, w.tag ≠ .poison)) ∧
    (∃ (dt q : Nat) (s : State), (qGet q (elapse dt s)).verifying = false) :=
  ⟨⟨0, 224, 5, ((txr.headD ⟨.body, 0#32⟩, 0) : QWord × Nat), ([] : List (QWord × Nat)), held 224 (txr.take 1) (qMap 224 (fun c => { c with mid := [⟨txr.drop 1, 8⟩] }) rdy), by decide +kernel⟩,
   ⟨0, 95, rdy, by decide +kernel⟩,
   ⟨0, 224, passServed 224 [] (elapse 0 verify224), verify224, rfl, by decide +kernel⟩,
   ⟨0, 0, rdy, by decide +kernel⟩⟩

/-- The hypotheses of each clause of ClearingEmptiesAQueue are met. -/
theorem test_met_ClearingEmptiesAQueue :
    (∃ (dt q : Nat) (s : State), q < 226 ∧ taken q QU.CLEAR [(QU.CLEAR, 1)] (elapse dt s) ∧ get QU.CLEAR q s = 0) ∧
    (∃ (dt q : Nat) (s : State), q < 226 ∧ (48 ≤ q → q < 96 → (pGet (q - 48) s).txq = []) ∧ (qGet q (elapse dt
    s)).clearWanted = true ∧ (qGet q (elapse dt s)).inside = false) ∧
    (∃ (dt q : Nat) (s : State), ((qGet q (elapse dt s)).clearWanted = false ∨ (qGet q (elapse dt s)).inside = true))
    ∧
    (∃ (dt q : Nat) (s : State), get QU.CLEAR q (elapse dt s) = 1 ∧ (qGet q (elapse dt s)).clearWanted = false ∧ (qGet
    q (elapse dt s)).detached = 0 ∧ (elapse dt s).cyc.sw.contains (QU.CLEAR.key q) = false) ∧
    (∃ (dt q : Nat) (s : State), get QU.CLEAR q (elapse dt s) = 1 ∧ (qGet q (elapse dt s)).clearWanted = false ∧ (qGet
    q (elapse dt s)).detached = 0 ∧ (elapse dt s).cyc.sw.contains (QU.CLEAR.key q) = true) ∧
    (∃ (dt q : Nat) (s : State), (get QU.CLEAR q (elapse dt s) ≠ 1 ∨ (qGet q (elapse dt s)).detached ≠ 0)) :=
  ⟨⟨0, 225, rdy, by decide +kernel⟩,
   ⟨0, 47, qMap 47 (fun c => { c with clearWanted := true, mid := [⟨w8, 8⟩], tail := w8 }) rdy, by decide +kernel⟩,
   ⟨0, 0, rdy, by decide +kernel⟩,
   ⟨0, 47, put QU.CLEAR 47 1 rdy, by decide +kernel⟩,
   ⟨0, 47, put QU.CLEAR 47 1 { rdy with cyc := { rdy.cyc with sw := [QU.CLEAR.key 47] } }, by decide +kernel⟩,
   ⟨0, 0, rdy, by decide +kernel⟩⟩

/-- The hypotheses of each clause of FramesAreAnsweredByTheirChecks are met. -/
theorem test_met_FramesAreAnsweredByTheirChecks :
    (∃ (a n crc : Nat) (s : State), outOfReset s = true ∧ crc8 ([byte 0xA1] ++ beBytes 2 a ++ [byte n]) ≠ crc) ∧
    (∃ (a : Nat) (s : State), mpServes s = true ∧ a < 256 ∧ windowOf a = none ∧ place 0 a s = .absent) ∧
    (∃ (a : Nat) (s : State), mpServes s = true ∧ a < 256 ∧ windowOf a = none ∧ a ≠ 9 ∧ place 0 a s ≠ .absent ∧
    writeOnly 0 a = false) ∧
    (∃ (a : Nat) (v : Word) (crc : Nat) (s : State), outOfReset s = true ∧ crc8 ([byte 0xA2] ++ beBytes 2 a ++ [byte
    1] ++ wordBytes v) ≠ crc) ∧
    (∃ (a : Nat) (s : State), mpServes s = true ∧ windowOf a = none) ∧
    (∃ (a : Nat) (s : State), mpServes s = false ∧ outOfReset s = true ∧ a ≠ 5) ∧
    (∃ (s : State), outOfReset s = true) ∧
    (∃ (op : Nat) (s : State), mpServes s = true ∧ (op < 0xA1 ∨ 0xA5 < op)) ∧
    (∃ (s : State), outOfReset s = true) :=
  ⟨⟨65535, 255, 0, rdy, by decide +kernel⟩,
   ⟨105, { rdy with variant := .sx4824 }, by decide +kernel⟩,
   ⟨0, rdy, by decide +kernel⟩,
   ⟨5, 0#32, 0, rdy, by decide +kernel⟩,
   ⟨21, rdy, by decide +kernel⟩,
   ⟨4, inPhase .recovery rdy, by decide +kernel⟩,
   ⟨rdy, by decide +kernel⟩,
   ⟨0, rdy, by decide +kernel⟩,
   ⟨rdy, by decide +kernel⟩⟩

/-- The hypotheses of each clause of QueueReadsTakeWords are met. -/
theorem test_met_QueueReadsTakeWords :
    (∃ (dt q n : Nat) (s : State), mpServes s = true ∧ q < 226 ∧ 1 ≤ n ∧ n ≤ 64 ∧ queueOk s q = true ∧ qreadOk q
    (elapse dt s) = true ∧ (get QU.MP_MODE q s = 0 ∨ takeableWords q n (elapse dt s) ≠ [])) ∧
    (∃ (dt q n : Nat) (s : State), mpServes s = true ∧ q < 226 ∧ 1 ≤ n ∧ n ≤ 64 ∧ queueOk s q = true ∧ qreadOk q
    (elapse dt s) = true ∧ get QU.MP_MODE q s = 1 ∧ takeableWords q n (elapse dt s) = []) ∧
    (∃ (dt q n : Nat) (s : State), mpServes s = true ∧ q < 226 ∧ 1 ≤ n ∧ n ≤ 64 ∧ queueOk s q = true ∧ qreadOk q
    (elapse dt s) = false) ∧
    (∃ (dt q n : Nat) (sl : List QWord) (s : State), mpServes s = true ∧ q < 226 ∧ 1 ≤ n ∧ n ≤ 64 ∧ queueOk s q = true
    ∧ qreadOk q (elapse dt s) = true ∧ s.mp.retained = some (q, n, sl)) ∧
    (∃ (dt q n b : Nat) (s : State), s.mp.qread = some (q, n, b) ∧ (qGet q (elapse dt s)).head = []) ∧
    (∃ (s : State), s.mp.qread = none) ∧
    (∃ (x : Nat × Nat × Nat) (s : State), s.mp.qread = some x) :=
  ⟨⟨0, 225, 1, rdy, by decide +kernel⟩,
   ⟨0, 225, 64, put QU.MP_MODE 225 1 rdy, by decide +kernel⟩,
   ⟨0, 224, 1, rdy, by decide +kernel⟩,
   ⟨0, 225, 64, txr, { rdy with mp := { rdy.mp with retained := some (225, 64, txr) } }, by decide +kernel⟩,
   ⟨0, 225, 64, 900, { rdy with mp := { rdy.mp with qread := some (225, 64, 900) } }, by decide +kernel⟩,
   ⟨rdy, by decide +kernel⟩,
   ⟨(225, 64, 900), { rdy with mp := { rdy.mp with qread := some (225, 64, 900) } }, by decide +kernel⟩⟩

/-- The hypotheses of each clause of QueueWritesInject are met. -/
theorem test_met_QueueWritesInject :
    (∃ (dt : Nat) (ws : List (Nat × Word)) (s : State), mpServes s = true ∧ 1 ≤ ws.length ∧ ws.length ≤ 64 ∧ (qGet 224
    s).openBy = none ∧ qwCheck (elapse dt s) false false (qGet 224 s).openWords (qGet 224 s).openLen ws = .ok) ∧
    (∃ (dt : Nat) (ws : List (Nat × Word)) (s : State), mpServes s = true ∧ 1 ≤ ws.length ∧ ws.length ≤ 64 ∧ (qGet 224
    s).openBy = none ∧ qwCheck (elapse dt s) false false (qGet 224 s).openWords (qGet 224 s).openLen ws = .bad) ∧
    (∃ (n b : Nat) (s : State), s.mp.qwrite = some (n, b) ∧ qwOutside s = 0) ∧
    (∃ (n b : Nat) (s : State), s.mp.qwrite = some (n, b) ∧ 0 < qwOutside s) ∧
    (∃ (n b : Nat) (s : State), s.mp.qwrite = some (n, b)) ∧
    (∃ (s : State), s.mp.qwrite = none) :=
  ⟨⟨0, [(2, (injected.headD ⟨.body, 0#32⟩).data)], rdy, by decide +kernel⟩,
   ⟨0, [(1, 7#32)], rdy, by decide +kernel⟩,
   ⟨1, 900, { rdy with mp := { rdy.mp with qwrite := some (1, 900) } }, by decide +kernel⟩,
   ⟨1, 900, qMap 224 (fun c => { c with wait := [(.mp, ⟨.start, 0x10000010#32⟩)] }) { rdy with mp := { rdy.mp with qwrite := some (1, 900) } }, by decide +kernel⟩,
   ⟨1, 900, qMap 224 (fun c => { c with wait := [(.mp, ⟨.start, 0x10000010#32⟩)] }) { rdy with mp := { rdy.mp with qwrite := some (1, 900) } }, by decide +kernel⟩,
   ⟨rdy, by decide +kernel⟩⟩

/-- The hypotheses of each clause of RegisterWritesAreJudged are met. -/
theorem test_met_RegisterWritesAreJudged :
    (∃ (s : State), outOfReset s = true ∧ mpServes s = false) ∧
    (∃ (space a : Nat) (s : State), mpServes s = true ∧ 1 ≤ space ∧ space ≠ 3 ∧ place space a s = .absent) ∧
    (∃ (a : Nat) (s : State), mpServes s = true ∧ a < 256 ∧ windowOf a = none ∧ place 0 a s = .reserved) ∧
    (∃ (s : State), mpServes s = true) ∧
    (∃ (w : Nat) (v : Word) (s : State), mpServes s = true ∧ w < 4 ∧ bits v.toNat 0 8 ≤ 12) ∧
    (∃ (w : Nat) (v : Word) (s : State), mpServes s = true ∧ w < 4 ∧ 14 ≤ bits v.toNat 0 8) ∧
    (∃ (s : State), mpServes s = true ∧ s.mp.body.length ≤ 36) ∧
    (∃ (s : State), mpServes s = true ∧ 36 < s.mp.body.length) ∧
    (∃ (dt : Nat) (s : State), taken 0 RG.BODY_CLR [(RG.BODY_CLR, 1)] (elapse dt s)) ∧
    (∃ (dt : Nat) (s : State), taken 0 RG.HCMD_GO [(RG.HCMD_GO, 1)] (elapse dt s)) ∧
    (∃ (dt r : Nat) (s : State), mpServes s = true ∧ (get RG.HCMD_KIND 0 s = 0 ∨ get RG.HCMD_KIND 0 s = 1 ∨ get
    RG.HCMD_KIND 0 s = 3) ∧ houseReason (elapse dt s) = some r) :=
  ⟨⟨inPhase .recovery rdy, by decide +kernel⟩,
   ⟨1, 9999, rdy, by decide +kernel⟩,
   ⟨255, rdy, by decide +kernel⟩,
   ⟨rdy, by decide +kernel⟩,
   ⟨3, 12#32, rdy, by decide +kernel⟩,
   ⟨3, 14#32, rdy, by decide +kernel⟩,
   ⟨rdy, by decide +kernel⟩,
   ⟨{ rdy with mp := { rdy.mp with body := List.replicate 37 0#8 } }, by decide +kernel⟩,
   ⟨0, rdy, by decide +kernel⟩,
   ⟨0, put PT.EN 47 1 (put PT.GRAMMAR 47 0 (put TK.PORT 3071 47 (put TK.VALID 3071 1 (put RG.HCMD_TALKER 0 3071 (put RG.HCMD_KIND 0 3 (put RG.HCMD_N 0 4 (put RG.COP_EN 0 1 { rdy with mp := { rdy.mp with body := [1#8,2#8,3#8,4#8] } }))))))), by decide +kernel⟩,
   ⟨0, 9, rdy, by decide +kernel⟩⟩

/-- The hypotheses of each clause of UplinkFramesAreReceived are met. -/
theorem test_met_UplinkFramesAreReceived :
    (∃ (u : Nat) (s : State), (uplinkOk s u = false ∨ get UL.EN u s = 0)) ∧
    (∃ (u : Nat) (f : List Byte) (x : Bool) (s : State), uplinkOk s u = true ∧ get UL.EN u s = 1 ∧ frameBad f x =
    true) ∧
    (∃ (u : Nat) (f : List Byte) (x : Bool) (s : State), uplinkOk s u = true ∧ get UL.EN u s = 1 ∧ frameBad f x =
    false ∧ ((splitFrame f).dst ≠ macAddr u s ∧ (splitFrame f).dst ≠ List.replicate 6 0xFF#8 ∨ vlanOk u (splitFrame f)
    s = false)) ∧
    (∃ (u : Nat) (f : List Byte) (x : Bool) (s : State), uplinkOk s u = true ∧ get UL.EN u s = 1 ∧ frameBad f x =
    false ∧ ((splitFrame f).dst = macAddr u s ∨ (splitFrame f).dst = List.replicate 6 0xFF#8) ∧ vlanOk u (splitFrame
    f) s = true ∧ (splitFrame f).etherType = 0x0806 ∧ isArpRequest u (splitFrame f).payload s = true) ∧
    (∃ (u : Nat) (f : List Byte) (x : Bool) (src : Nat) (p : List Byte) (port : Nat) (d : List Byte) (s : State),
    uplinkOk s u = true ∧ get UL.EN u s = 1 ∧ frameBad f x = false ∧ ((splitFrame f).dst = macAddr u s ∨ (splitFrame
    f).dst = List.replicate 6 0xFF#8) ∧ vlanOk u (splitFrame f) s = true ∧ (splitFrame f).etherType = 0x0800 ∧
    ipAccept u (splitFrame f).payload s = some (17, src, p) ∧ udpAccept src u p s = some (port, d) ∧ isRequest d =
    true) ∧
    (∃ (u : Nat) (a : Arrival) (r : List Arrival) (s : State), linkUp u s = true ∧ takeArrival (fun x => x.kind ==
    .arp) (uGet u s).inbox = some (a, r)) ∧
    (∃ (u : Nat) (a : Arrival) (r : List Arrival) (s : State), linkUp u s = true ∧ takeArrival (fun x => x.kind ==
    .echo) (uGet u s).inbox = some (a, r)) ∧
    (∃ (u : Nat) (s : State), takeArrival (fun x => x.kind == .arp) (uGet u s).inbox = none) ∧
    (∃ (u : Nat) (s : State), takeArrival (fun x => x.kind == .echo) (uGet u s).inbox = none) ∧
    (∃ (u : Nat) (s : State), (uGet u s).refuse = []) ∧
    (∃ (u : Nat) (r : Refuse) (l : List Refuse) (s : State), linkUp u s = true ∧ (uGet u s).refuse = r :: l) ∧
    (∃ (u : Nat) (r : Refuse) (l : List Refuse) (s : State), u < 2 ∧ linkUp u s = false ∧ (uGet u s).refuse = r :: l) :=
  ⟨⟨2, rdy, by decide +kernel⟩,
   ⟨1, arpIn, true, ups, by decide +kernel⟩,
   ⟨1, ethOf [1#8], false, ups, by decide +kernel⟩,
   ⟨1, arpIn, false, ups, by decide +kernel⟩,
   ⟨1, udpIn, false, peerA.ip, ((ipAccept 1 (splitFrame udpIn).payload ups).getD (0, 0, [])).2.2, 4000, (req 5 []).bytes, ups, by decide +kernel⟩,
   ⟨1, (⟨.arp, 100, ⟨0, 0, 0⟩, ⟨peerA.mac, peerA.ip, 0⟩, peerA.mac⟩ : Arrival), ([] : List Arrival), uMap 1 (fun c => { c with inbox := [⟨.arp, 100, ⟨0, 0, 0⟩, ⟨peerA.mac, peerA.ip, 0⟩, peerA.mac⟩] }) ups, by decide +kernel⟩,
   ⟨1, (⟨.echo, 100, ⟨0, 0, 0⟩, ⟨peerA.mac, peerA.ip, 0⟩, [8#8,0#8,0#8,0#8,1#8,2#8]⟩ : Arrival), ([req 5 []] : List Arrival), uMap 1 (fun c => { c with ipId := 65535, inbox := [req 5 [], ⟨.echo, 100, ⟨0, 0, 0⟩, ⟨peerA.mac, peerA.ip, 0⟩, [8#8,0#8,0#8,0#8,1#8,2#8]⟩] }) ups, by decide +kernel⟩,
   ⟨1, rdy, by decide +kernel⟩,
   ⟨1, asked (req 5 []), by decide +kernel⟩,
   ⟨1, rdy, by decide +kernel⟩,
   ⟨1, (⟨900, [1#8]⟩ : Refuse), ([] : List Refuse), uMap 1 (fun c => { c with refuse := [⟨900, [1#8]⟩] }) ups, by decide +kernel⟩,
   ⟨1, (⟨900, [1#8]⟩ : Refuse), ([⟨9, []⟩] : List Refuse), uMap 1 (fun c => { c with refuse := [⟨900, [1#8]⟩, ⟨9, []⟩] }) rdy, by decide +kernel⟩⟩

/-- The hypotheses of each clause of TenantRequestsAreJudged are met. -/
theorem test_met_TenantRequestsAreJudged :
    (∃ (u : Nat) (s : State), takeArrival (ofType 1) (uGet u s).inbox = none) ∧
    (∃ (u : Nat) (s : State), takeArrival (ofType 2) (uGet u s).inbox = none) ∧
    (∃ (u : Nat) (s : State), takeArrival (ofType 3) (uGet u s).inbox = none) ∧
    (∃ (u : Nat) (s : State), takeArrival (ofType 4) (uGet u s).inbox = none) ∧
    (∃ (u : Nat) (s : State), takeArrival (ofType 5) (uGet u s).inbox = none) ∧
    (∃ (dt u : Nat) (a : Arrival) (r : List Arrival) (s : State), admitted u 1 a r (elapse dt s) ∧ 0 < dt ∧
    a.src.mac.length = 6 ∧ a.src.ip < 2 ^ 32 ∧ a.src.port < 2 ^ 16) ∧
    (∃ (dt u : Nat) (a : Arrival) (r : List Arrival) (s : State), admitted u 2 a r (elapse dt s)) ∧
    (∃ (dt u : Nat) (a : Arrival) (r : List Arrival) (s : State), admitted u 2 a r (elapse dt s) ∧ slotBeyondReserve
    (elapse dt s) = false) ∧
    (∃ (dt u : Nat) (a : Arrival) (r : List Arrival) (s : State), admitted u 3 a r (elapse dt s)) ∧
    (∃ (dt u : Nat) (a : Arrival) (r : List Arrival) (s : State), admitted u 4 a r (elapse dt s)) ∧
    (∃ (dt u : Nat) (a : Arrival) (r : List Arrival) (s : State), admitted u 5 a r (elapse dt s)) ∧
    (∃ (dt u : Nat) (a : Arrival) (r : List Arrival) (k : Nat) (s : State), takeArrival (ofType 5) (uGet u s).inbox =
    some (a, r) ∧ checkFront u a (takenUp u r (elapse dt s)) = some k ∧ k ≠ 0 ∧ u < 2) ∧
    (∃ (dt u : Nat) (a : Arrival) (r : List Arrival) (s : State), takeArrival (ofType 1) (uGet u s).inbox = some (a,
    r) ∧ checkFront u a (takenUp u r (elapse dt s)) = none ∧ u < 2 ∧ mirrorCopy a (takenUp u r (elapse dt s)) = false
    ∧ reqField a.bytes 8 4 ≤ get TN.RX_CTR (reqField a.bytes 4 2) s) :=
  ⟨⟨1, rdy, by decide +kernel⟩,
   ⟨1, rdy, by decide +kernel⟩,
   ⟨1, rdy, by decide +kernel⟩,
   ⟨1, rdy, by decide +kernel⟩,
   ⟨1, rdy, by decide +kernel⟩,
   ⟨5, 1, req 1 [1#8,0#8,0#8,0#8], ([] : List Arrival), asked (req 1 [1#8,0#8,0#8,0#8]), by decide +kernel⟩,
   ⟨5, 1, req 2 [4#8,0#8,0#8,0#8], ([] : List Arrival), asked (req 2 [4#8,0#8,0#8,0#8]), by decide +kernel⟩,
   ⟨5, 1, req 2 [4#8,0#8,0#8,0#8], ([] : List Arrival), put RG.POLL_RESERVE 0 127 { asked (req 2 [4#8,0#8,0#8,0#8]) with jobs := List.replicate 512 fwd127 }, by decide +kernel⟩,
   ⟨5, 1, req 3 [0x0B#8,0xFF#8,3#8,0#8,1#8,0x41#8], ([] : List Arrival), put PT.EN 47 1 (put PT.GRAMMAR 47 0 (put TK.PORT 3071 47 (put TK.OWNER 3071 127 (put TK.VALID 3071 1 (put RG.COP_EN 0 1 (asked (req 3 [0x0B#8,0xFF#8,3#8,0#8,1#8,0x41#8]))))))), by decide +kernel⟩,
   ⟨5, 1, req 4 [0x0B#8,0xFF#8,0#8,1#8], ([] : List Arrival), put TK.OWNER 3071 127 (put TK.VALID 3071 1 (asked (req 4 [0x0B#8,0xFF#8,0#8,1#8]))), by decide +kernel⟩,
   ⟨5, 1, req 5 [], ([] : List Arrival), asked (req 5 []), by decide +kernel⟩,
   ⟨0, 1, req 5 [], ([] : List Arrival), 2, put TN.EN 127 0 (asked (req 5 [])), by decide +kernel⟩,
   ⟨0, 1, req 1 [], ([] : List Arrival), put TN.RX_CTR 127 5 (asked (req 1 [])), by decide +kernel⟩⟩

/-- The hypotheses of each clause of BatchesAndDatagramsGoOut are met. -/
theorem test_met_BatchesAndDatagramsGoOut :
    (∃ (dt u tn : Nat) (s : State), builderTakes (builderOf u s) tn (elapse dt s) = false) ∧
    (∃ (dt u tn : Nat) (ws : List QWord) (rem : Nat) (s : State), builderTakes (builderOf u s) tn (elapse dt s) = true
    ∧ takeable (96 + tn) (elapse dt s) = .record ws ∧ remaining (headDeadline (96 + tn) (elapse dt s)) (elapse dt s) =
    some rem ∧ (tGet tn s).batch = none ∧ fits (builderOf u s) (Batch.new 0) (.record ws) s = true ∧ blocksKept (96 +
    tn) s) ∧
    (∃ (tn : Nat) (s : State), (tGet tn s).batch = none) ∧
    (∃ (dt tn : Nat) (x : Batch) (s : State), (tGet tn s).batch = some x ∧ mustClose (builderOfTenant tn s) tn x
    (elapse dt s) = false ∧ slotBeyondReserve (runTo x.due (elapse dt s)) = false) ∧
    (∃ (dt u : Nat) (d : Dgram) (s : State), (uGet (builderOf u s) s).build = none ∧ (burstUnits (builderOf u s) s = 0
    ∨ mayStart (.burst (builderOf u s)) (elapse dt s) = true) ∧ nextDgram (builderOf u s) s = some d ∧ d.tenant < 128)
    ∧
    (∃ (dt u : Nat) (s : State), ((uGet (builderOf u s) s).build ≠ none ∨ nextDgram (builderOf u s) s = none ∨
    burstUnits (builderOf u s) s ≠ 0 ∧ mayStart (.burst (builderOf u s)) (elapse dt s) = false)) ∧
    (∃ (u : Nat) (s : State), (uGet (builderOf u s) s).build = none) ∧
    (∃ (u : Nat) (d : Dgram) (p : List Byte) (m : Nat) (q : Peer) (s : State), mirror s = false ∧ (uGet u s).build =
    some (d, p) ∧ destOf u d s = [(m, q)] ∧ linkUp m s = true ∧ (uGet m s).refuse = []) ∧
    (∃ (u : Nat) (s : State), (uGet u s).retryAt = none) ∧
    (∃ (u x : Nat) (s : State), (uGet u s).retryAt = some x) ∧
    (∃ (u : Nat) (s : State), (uGet u s).releaseAt = none) ∧
    (∃ (u x : Nat) (s : State), (uGet u s).releaseAt = some x) :=
  ⟨⟨0, 1, 127, rdy, by decide +kernel⟩,
   ⟨0, 1, 127, txr, 1000000, put TN.PUSH 127 1 (queued 223 1000000 txr ten), by decide +kernel⟩,
   ⟨127, rdy, by decide +kernel⟩,
   ⟨0, 127, batch1, put RG.POLL_RESERVE 0 127 (tMap 127 (fun c => { c with batch := some batch1 }) { ten with jobs := List.replicate 512 fwd127 }), by decide +kernel⟩,
   ⟨0, 1, dg false, uMap 1 (fun c => { c with queue := [dg true, dg false] }) ten, by decide +kernel⟩,
   ⟨0, 1, rdy, by decide +kernel⟩,
   ⟨1, rdy, by decide +kernel⟩,
   ⟨1, dg false, [1#8,2#8], 1, peerA, uMap 1 (fun c => { c with build := some (dg false, [1#8,2#8]), ipId := 65535, busyUntil := 900 }) ten, by decide +kernel⟩,
   ⟨1, rdy, by decide +kernel⟩,
   ⟨1, 900, put UL.SPEED 1 1 (uMap 1 (fun c => { c with queue := [dg false], retryAt := some 900 }) ten), by decide +kernel⟩,
   ⟨0, rdy, by decide +kernel⟩,
   ⟨1, 900, uMap 1 (fun c => { c with releaseAt := some 900 }) { ten with leave := { ten.leave with dieGr := [⟨.burst 1, 2, 0⟩] } }, by decide +kernel⟩⟩

/-- The hypotheses of each clause of PhyIsReadAndWritten are met. -/
theorem test_met_PhyIsReadAndWritten :
    (∃ (v : Word) (s : State), mpServes s = true ∧ bits v.toNat 27 1 = 1 ∧ get RG.MDIO_BUSY 0 s = 0) ∧
    (∃ (v : Word) (s : State), mpServes s = true ∧ bits v.toNat 27 1 = 1 ∧ get RG.MDIO_BUSY 0 s = 1) ∧
    (∃ (s : State), s.mdio = none) ∧
    (∃ (rd : Nat) (x : MdioFrame) (s : State), rd < 65536 ∧ s.mdio = some x) ∧
    (∃ (u : Nat) (s : State), (uplinkOk s u = false ∨ get UL.AUTOPOLL u s = 0)) ∧
    (∃ (u v : Nat) (s : State), uplinkOk s u = true ∧ get UL.AUTOPOLL u s = 1 ∧ bitOf v 2 = flag UL.LINK_UP u s) ∧
    (∃ (u v : Nat) (s : State), uplinkOk s u = true ∧ get UL.AUTOPOLL u s = 1 ∧ bitOf v 2 = true ∧ get UL.LINK_UP u s
    = 0) ∧
    (∃ (u v : Nat) (s : State), uplinkOk s u = true ∧ get UL.AUTOPOLL u s = 1 ∧ bitOf v 2 = false ∧ get UL.LINK_UP u s
    = 1) :=
  ⟨⟨0xFFFFFFFF#32, rdy, by decide +kernel⟩,
   ⟨0x0A000000#32, put RG.MDIO_BUSY 0 1 rdy, by decide +kernel⟩,
   ⟨rdy, by decide +kernel⟩,
   ⟨65535, ⟨900, 31, 1, false, 0⟩, { rdy with mdio := some ⟨900, 31, 1, false, 0⟩ }, by decide +kernel⟩,
   ⟨2, rdy, by decide +kernel⟩,
   ⟨1, 4, put UL.AUTOPOLL 1 1 ups, by decide +kernel⟩,
   ⟨1, 4, put UL.LINK_UP 1 0 (put UL.AUTOPOLL 1 1 ups), by decide +kernel⟩,
   ⟨1, 0, put UL.AUTOPOLL 1 1 ups, by decide +kernel⟩⟩

/-- The hypotheses of each clause of ListenersRenderTheirTenant are met. -/
theorem test_met_ListenersRenderTheirTenant :
    (∃ (dt p : Nat) (s : State), (boundTenant p s = none ∨ listenerFree p (elapse dt s) = false)) ∧
    (∃ (dt p tn : Nat) (ws : List QWord) (rem : Nat) (s : State), boundTenant p s = some tn ∧ listenerFree p (elapse
    dt s) = true ∧ takeable (96 + tn) s = .record ws ∧ remaining (headDeadline (96 + tn) s) (elapse dt s) = some rem ∧
    renderSkips p ws s = false ∧ slotBeyondReserve (elapse dt s) = true ∧ blocksKept (96 + tn) s) ∧
    (∃ (dt p tn : Nat) (ws : List QWord) (rem : Nat) (s : State), boundTenant p s = some tn ∧ listenerFree p (elapse
    dt s) = true ∧ takeable (96 + tn) s = .record ws ∧ remaining (headDeadline (96 + tn) s) (elapse dt s) = some rem ∧
    renderSkips p ws s = false ∧ slotBeyondReserve (elapse dt s) = false) ∧
    (∃ (dt p tn : Nat) (ws : List QWord) (s : State), boundTenant p s = some tn ∧ listenerFree p (elapse dt s) = true
    ∧ takeable (96 + tn) s = .record ws ∧ remaining (headDeadline (96 + tn) s) (elapse dt s) = none ∧ get PT.GAP_EMIT
    p s = 0 ∧ blocksKept (96 + tn) s) ∧
    (∃ (dt p tn : Nat) (ws : List QWord) (rem : Nat) (s : State), boundTenant p s = some tn ∧ listenerFree p (elapse
    dt s) = true ∧ takeable (96 + tn) s = .record ws ∧ remaining (headDeadline (96 + tn) s) (elapse dt s) = some rem ∧
    renderSkips p ws s = true ∧ blocksKept (96 + tn) s) ∧
    (∃ (p : Nat) (s : State), (pGet p s).render = none) ∧
    (∃ (p : Nat) (r : Render) (s : State), p < 48 ∧ (pGet p s).render = some r ∧ r.begun = true ∧ (qGet (48 + p)
    s).wait = []) ∧
    (∃ (p : Nat) (r : Render) (s : State), p < 48 ∧ (pGet p s).render = some r ∧ r.begun = false) :=
  ⟨⟨0, 48, rdy, by decide +kernel⟩,
   ⟨0, 47, 127, txr, 1000000, queued 223 1000000 txr lst, by decide +kernel⟩,
   ⟨0, 47, 127, txr, 1000000, put RG.POLL_RESERVE 0 127 (queued 223 1000000 txr { lst with jobs := List.replicate 512 fwd127 }), by decide +kernel⟩,
   ⟨0, 47, 127, txr, queued 223 1000000 txr { lst with ring := { sec := 5, acc := 0 } }, by decide +kernel⟩,
   ⟨0, 47, 127, buildRecord 0 47 0xFFF ⟨0, 0, 0⟩ 0xFFFF [0x41#8], 1000000, queued 223 1000000 (buildRecord 0 47 0xFFF ⟨0, 0, 0⟩ 0xFFFF [0x41#8]) lst, by decide +kernel⟩,
   ⟨47, rdy, by decide +kernel⟩,
   ⟨47, (⟨9, [], true, true⟩ : Render), pMap 47 (fun c => { c with render := some ⟨9, [], true, true⟩ }) { lst with jobs := [{ fwd127 with kind := .listen }] }, by decide +kernel⟩,
   ⟨47, (⟨9, [0x41#8], true, false⟩ : Render), pMap 47 (fun c => { c with render := some ⟨9, [0x41#8], true, false⟩ }) lst, by decide +kernel⟩⟩

/-- The hypotheses of each clause of GuardLinkForwardsAndReports are met. -/
theorem test_met_GuardLinkForwardsAndReports :
    (∃ (p n : Nat) (s : State), (linkFree (p / 8) s = false ∨ n = 0 ∨ 16 < n)) ∧
    (∃ (k n : Nat) (s : State), (linkFree k s = false ∨ n = 0 ∨ 16 < n)) ∧
    (∃ (p n : Nat) (o : GlOutcome) (s : State), linkFree (p / 8) s = true ∧ 1 ≤ n ∧ n ≤ 16 ∧ o.isOk = true) ∧
    (∃ (k reg n : Nat) (o : GlOutcome) (s : State), linkFree k s = true ∧ 1 ≤ n ∧ n ≤ 16 ∧ o.isOk = true ∧ reg ≤ 4 + k
    ∧ 4 + k < reg + n) ∧
    (∃ (p n : Nat) (s : State), linkFree (p / 8) s = true ∧ 1 ≤ n ∧ n ≤ 16 ∧ (gGet (p / 8) s).fails ≤ 1) ∧
    (∃ (p n : Nat) (s : State), linkFree (p / 8) s = true ∧ 1 ≤ n ∧ n ≤ 16 ∧ (gGet (p / 8) s).fails = 2) ∧
    (∃ (p : Nat) (w : Fwd) (r : List Fwd) (o : GlOutcome) (s : State), linkFree (p / 8) s = true ∧ (gGet (p / 8)
    s).run = 2 ∧ (lcGet p s).reconciled = true ∧ (lcGet p s).forward = w :: r ∧ o.isOk = true) ∧
    (∃ (p : Nat) (w : Fwd) (r : List Fwd) (s : State), linkFree (p / 8) s = true ∧ (gGet (p / 8) s).run = 2 ∧ (lcGet p
    s).reconciled = true ∧ (lcGet p s).forward = w :: r) ∧
    (∃ (p : Nat) (w : Fwd) (r : List Fwd) (s : State), linkFree (p / 8) s = true ∧ (gGet (p / 8) s).run = 2 ∧ (lcGet p
    s).reconciled = true ∧ (lcGet p s).forward = w :: r) ∧
    (∃ (p : Nat) (s : State), (linkFree (p / 8) s = false ∨ (gGet (p / 8) s).run ≠ 2 ∨ (lcGet p s).reconciled = false
    ∨ (lcGet p s).forward = [])) ∧
    (∃ (k : Nat) (o : GlOutcome) (s : State), linkFree k s = true ∧ (gGet k s).run = 2 ∧ (gGet k s).owedWindow = true
    ∧ o.isOk = true) ∧
    (∃ (k : Nat) (s : State), (linkFree k s = false ∨ (gGet k s).run ≠ 2)) ∧
    (∃ (k : Nat) (m : List LineReading) (o : GlOutcome) (s : State), linkFree k s = true ∧ (gGet k s).run = 2 ∧
    m.length = 8 ∧ o.isOk = true) :=
  ⟨⟨47, 5, rdy, by decide +kernel⟩,
   ⟨47, 5, rdy, by decide +kernel⟩,
   ⟨47, 16, .ok, ln47 fun c => { c with since := 5, events := 7, cnt := [(0, 9)], inc := [(0, 1)] }, by decide +kernel⟩,
   ⟨5, 0, 16, .ok, g5, by decide +kernel⟩,
   ⟨47, 1, gMap 5 (fun c => { c with fails := 1 }) g5, by decide +kernel⟩,
   ⟨47, 1, gMap 5 (fun c => { c with fails := 2 }) g5, by decide +kernel⟩,
   ⟨47, (⟨.config, 1, 7, 0⟩ : Fwd), ([⟨.clear, 4, 1, 1⟩] : List Fwd), .ok, lc47 fun c => { c with forward := [⟨.config, 1, 7, 0⟩, ⟨.clear, 4, 1, 1⟩] }, by decide +kernel⟩,
   ⟨47, (⟨.config, 1, 7, 0⟩ : Fwd), ([⟨.clear, 4, 1, 1⟩] : List Fwd), lc47 fun c => { c with forward := [⟨.config, 1, 7, 0⟩, ⟨.clear, 4, 1, 1⟩] }, by decide +kernel⟩,
   ⟨47, (⟨.config, 1, 7, 0⟩ : Fwd), ([⟨.clear, 4, 1, 1⟩] : List Fwd), lc47 fun c => { c with forward := [⟨.config, 1, 7, 0⟩, ⟨.clear, 4, 1, 1⟩] }, by decide +kernel⟩,
   ⟨47, g5, by decide +kernel⟩,
   ⟨5, .ok, put RG.LEAK_WINDOW_S 0 9 (gMap 5 (fun c => { c with owedWindow := true }) g5), by decide +kernel⟩,
   ⟨6, rdy, by decide +kernel⟩,
   ⟨5, (List.range 8).map (fun i => ⟨1 + i, 65529 + i, i % 2 == 0⟩), .ok, g5, by decide +kernel⟩⟩

/-- The hypotheses of each clause of GuardsAlertAndIdentify are met. -/
theorem test_met_GuardsAlertAndIdentify :
    (∃ (k : Nat) (s : State), linkUsable k s = false) ∧
    (∃ (k : Nat) (o : GlOutcome) (s : State), linkUsable k s = true ∧ o.isOk = true) ∧
    (∃ (k : Nat) (s : State), linkUsable k s = true ∧ (gGet k s).fails ≤ 1) ∧
    (∃ (k : Nat) (o : GlOutcome) (s : State), guardOk s k = true ∧ (gGet k s).run ≠ 0 ∧ (gGet k s).run ≠ 1 ∧ (gGet k
    s).run ≠ 5 ∧ fetchOwed s = false ∧ s.sys.phase = .guardWait ∧ o.isOk = true) ∧
    (∃ (k : Nat) (o : GlOutcome) (s : State), guardOk s k = true ∧ (gGet k s).run = 1 ∧ fetchOwed s = false ∧
    s.sys.phase = .guardWait ∧ o.isOk = true) ∧
    (∃ (k : Nat) (s : State), (guardOk s k = false ∨ (gGet k s).run = 0 ∨ (gGet k s).run = 5 ∨ fetchOwed s = true) ∧
    s.sys.phase ≠ .ready) ∧
    (∃ (p : Nat) (s : State), portOk s p = true ∧ (gGet (p / 8) s).run = 2 ∧ cfgField p 0 1 1 s = 0 ∧ (lnGet p
    s).cmFault = false) ∧
    (∃ (p : Nat) (s : State), ((gGet (p / 8) s).run ≠ 2 ∨ cfgField p 0 1 1 s ≠ 0 ∨ (lnGet p s).cmFault = true)) ∧
    (∃ (k : Nat) (x : Int) (s : State), guardOk s k = true ∧ (gGet k s).run ≠ 0 ∧ 140 ≤ x ∧ x < 150) ∧
    (∃ (p : Nat) (x : Int) (s : State), guardOk s (p / 8) = true ∧ (gGet (p / 8) s).run ≠ 0 ∧ 150 ≤ x ∧ powered p s =
    true) ∧
    (∃ (k : Nat) (s : State), (guardOk s k = false ∨ (gGet k s).run = 0)) :=
  ⟨⟨5, rdy, by decide +kernel⟩,
   ⟨5, .ok, gMap 5 (fun c => { c with alertG := 7, fetch := true }) g5, by decide +kernel⟩,
   ⟨5, gMap 5 (fun c => { c with alertG := 7, fails := 1 }) g5, by decide +kernel⟩,
   ⟨5, .ok, inPhase .guardWait (gMap 5 (fun c => { c with gfVer := 77 }) g5), by decide +kernel⟩,
   ⟨5, .ok, inPhase .guardWait (gd 5 1 g5), by decide +kernel⟩,
   ⟨6, inPhase .guardWait rdy, by decide +kernel⟩,
   ⟨47, ln47 fun c => c, by decide +kernel⟩,
   ⟨47, rdy, by decide +kernel⟩,
   ⟨5, (140 : Int), g5, by decide +kernel⟩,
   ⟨47, (150 : Int), ln47 fun c => { c with pwr := 3 }, by decide +kernel⟩,
   ⟨5, rdy, by decide +kernel⟩⟩

/-- The hypotheses of each clause of BusPowerRunsBehindItsLeave are met. -/
theorem test_met_BusPowerRunsBehindItsLeave :
    (∃ (dt p : Nat) (s : State), taken p GL.PWR_EN [(GL.PWR_EN, 1)] (elapse dt s) ∧ get GL.PWR_EN p s = 0 ∧ (lcGet p
    s).reconciled = true ∧ (gGet (p / 8) s).heldOut = false) ∧
    (∃ (dt p : Nat) (s : State), taken p GL.PWR_EN [(GL.PWR_EN, 1)] (elapse dt s) ∧ get GL.PWR_EN p s = 0 ∧ (lcGet p
    s).reconciled = false ∧ (gGet (p / 8) s).heldOut = false ∧ s.sys.phase = .ready) ∧
    (∃ (dt p : Nat) (s : State), taken p GL.PWR_EN [(GL.PWR_EN, 1)] (elapse dt s) ∧ (lcGet p s).reconciled = false ∧
    (s.sys.phase ≠ .ready ∧ s.sys.phase ≠ .paused ∨ (gGet (p / 8) s).heldOut = true ∨ get GL.PWR_EN p s = 1)) ∧
    (∃ (dt p : Nat) (s : State), taken p GL.PWR_EN [(GL.PWR_EN, 0)] (elapse dt s) ∧ (lcGet p s).reconciled = true ∧
    (lnGet p s).pwr = 1) ∧
    (∃ (dt p : Nat) (s : State), taken p GL.PWR_EN [(GL.PWR_EN, 0)] (elapse dt s) ∧ (lcGet p s).reconciled = true ∧
    ((lnGet p s).pwr = 4 ∨ (lnGet p s).pwr = 5)) ∧
    (∃ (dt p : Nat) (s : State), taken p GL.PWR_EN [(GL.PWR_EN, 0)] (elapse dt s) ∧ (lcGet p s).reconciled = true ∧
    (lnGet p s).pwr = 3) ∧
    (∃ (dt p v : Nat) (o : GlOutcome) (s : State), linkFree (p / 8) s = true ∧ (gGet (p / 8) s).act = none ∧ (gGet (p
    / 8) s).run ≠ 5 ∧ (lcGet p s).reconciled = true ∧ (lnGet p s).pwr = 1 ∧ mayStart (.switchOn p) (elapse dt s) =
    true ∧ (cfgField p 0 5 1 s = 0 ∨ 14000 ≤ v) ∧ o.isOk = true) ∧
    (∃ (dt p v : Nat) (o : GlOutcome) (s : State), linkFree (p / 8) s = true ∧ (gGet (p / 8) s).act = none ∧ (gGet (p
    / 8) s).run ≠ 5 ∧ (lcGet p s).reconciled = true ∧ (lnGet p s).pwr = 1 ∧ mayStart (.switchOn p) (elapse dt s) =
    true ∧ cfgField p 0 5 1 s = 1 ∧ v < 14000 ∧ o.isOk = true) ∧
    (∃ (p : Nat) (o : GlOutcome) (s : State), linkFree (p / 8) s = true ∧ (gGet (p / 8) s).act = none ∧ (gGet (p / 8)
    s).run ≠ 5 ∧ (lcGet p s).offWanted = true ∧ (lnGet p s).pwr = 3 ∧ o.isOk = true) ∧
    (∃ (dt p : Nat) (s : State), ((lnGet p s).pwr ≠ 1 ∨ (lcGet p s).reconciled = false ∨ mayStart (.switchOn p)
    (elapse dt s) = false)) ∧
    (∃ (p : Nat) (s : State), ((gGet (p / 8) s).act ≠ none ∨ (gGet (p / 8) s).run = 5)) ∧
    (∃ (p : Nat) (s : State), (lnGet p s).inrushEnd = none) ∧
    (∃ (p x : Nat) (s : State), (lnGet p s).inrushEnd = some x) ∧
    (∃ (p x : Nat) (s : State), (lnGet p s).inrushEnd = some x) ∧
    (∃ (p : Nat) (s : State), portOk s p = true ∧ (gGet (p / 8) s).run ≠ 0 ∧ (lnGet p s).pwr = 3) ∧
    (∃ (p : Nat) (s : State), portOk s p = true ∧ (gGet (p / 8) s).run ≠ 0 ∧ (lnGet p s).pwr = 3) ∧
    (∃ (p c : Nat) (s : State), (c = 1 ∨ c = 2) ∧ (lnGet p s).pwr = 2) ∧
    (∃ (p q c : Nat) (s : State), portOk s p = true ∧ (gGet (p / 8) s).run ≠ 0 ∧ (c = 5 ∨ c = 6) ∧ q / 8 = p / 8 ∧
    powered q s = true) ∧
    (∃ (p : Nat) (s : State), (lcGet p s).retryAt = none) ∧
    (∃ (p x : Nat) (s : State), (lcGet p s).retryAt = some x ∧ (lnGet p s).pwr = 4 ∧ (lcGet p s).reconciled = true) :=
  ⟨⟨0, 47, g5, by decide +kernel⟩,
   ⟨0, 47, rdy, by decide +kernel⟩,
   ⟨0, 47, put GL.PWR_EN 47 1 rdy, by decide +kernel⟩,
   ⟨0, 47, put GL.PWR_EN 47 1 (let s := ln47 fun c => { c with pwr := 1 }; { s with leave := { s.leave with field := [ask (.switchOn 47) 16] } }), by decide +kernel⟩,
   ⟨0, 47, put GL.PWR_EN 47 1 (ln47 fun c => { c with pwr := 5 }), by decide +kernel⟩,
   ⟨0, 47, put GL.PWR_EN 47 1 (ln47 fun c => { c with pwr := 3 }), by decide +kernel⟩,
   ⟨0, 47, 14000, .ok, let s := lnMap 47 (fun c => { c with pwr := 1, cfg := [(0, 40)] }) g5; { s with leave := { s.leave with fieldGr := [⟨.switchOn 47, 16, 0⟩] } }, by decide +kernel⟩,
   ⟨0, 47, 13999, .ok, let s := lnMap 47 (fun c => { c with pwr := 1, cfg := [(0, 40)] }) g5; { s with leave := { s.leave with fieldGr := [⟨.switchOn 47, 16, 0⟩] } }, by decide +kernel⟩,
   ⟨47, .ok, lnMap 47 (fun c => { c with pwr := 3 }) (lc47 fun c => { c with offWanted := true }), by decide +kernel⟩,
   ⟨0, 47, g5, by decide +kernel⟩,
   ⟨47, gd 5 5 g5, by decide +kernel⟩,
   ⟨47, rdy, by decide +kernel⟩,
   ⟨47, 900, ln47 fun c => { c with pwr := 2, inrushEnd := some 900 }, by decide +kernel⟩,
   ⟨47, 900, ln47 fun c => { c with pwr := 2, inrushEnd := some 900 }, by decide +kernel⟩,
   ⟨47, ln47 fun c => { c with pwr := 3 }, by decide +kernel⟩,
   ⟨47, ln47 fun c => { c with pwr := 3 }, by decide +kernel⟩,
   ⟨47, 1, ln47 fun c => { c with pwr := 2 }, by decide +kernel⟩,
   ⟨47, 40, 5, lnMap 40 (fun c => { c with pwr := 2 }) g5, by decide +kernel⟩,
   ⟨47, rdy, by decide +kernel⟩,
   ⟨47, 900, lcMap 47 (fun c => { c with retryAt := some 900, retries := 2 }) (ln47 fun c => { c with pwr := 4 }), by decide +kernel⟩⟩

/-- The hypotheses of each clause of LinesAreTrimmed are met. -/
theorem test_met_LinesAreTrimmed :
    (∃ (dt p : Nat) (s : State), taken p GL.TRIM_REQ [(GL.TRIM_REQ, 1)] (elapse dt s) ∧ (lcGet p s).needTrim = none) ∧
    (∃ (dt p : Nat) (x : Nat × Nat) (s : State), taken p GL.TRIM_REQ [(GL.TRIM_REQ, 1)] (elapse dt s) ∧ (lcGet p
    s).needTrim = some x) ∧
    (∃ (dt p : Nat) (s : State), taken p GL.EN [(GL.EN, 1)] (elapse dt s) ∧ get GL.EN p s = 0 ∧ (lcGet p s).reconciled
    = true) ∧
    (∃ (p : Nat) (x : Int) (s : State), portOk s p = true ∧ (gGet (p / 8) s).run = 2 ∧ 10 ≤ (x - (lnGet p
    s).trimTemp).natAbs ∧ (lnGet p s).inTrim = false) ∧
    (∃ (p : Nat) (x : Int) (s : State), portOk s p = true ∧ (gGet (p / 8) s).run = 2 ∧ (x - (lnGet p
    s).trimTemp).natAbs < 10) ∧
    (∃ (p x c : Nat) (s : State), (lcGet p s).needTrim = some (x, c) ∧ c ≠ 0) ∧
    (∃ (p : Nat) (s : State), (∀ x c, (lcGet p s).needTrim = some (x, c) → c = 0)) ∧
    (∃ (dt p : Nat) (s : State), (linkFree (p / 8) s = false ∨ nextTrim (p / 8) (elapse dt s) ≠ some p)) ∧
    (∃ (dt p : Nat) (o : GlOutcome) (s : State), linkFree (p / 8) s = true ∧ nextTrim (p / 8) (elapse dt s) = some p ∧
    (o.isOk = true ∨ o.last = .replyCrc)) ∧
    (∃ (dt p : Nat) (s : State), linkFree (p / 8) s = true ∧ nextTrim (p / 8) (elapse dt s) = some p) ∧
    (∃ (p : Nat) (s : State), (lnGet p s).inTrim = false) ∧
    (∃ (p : Nat) (s : State), (lnGet p s).inTrim = true) ∧
    (∃ (p : Nat) (s : State), (lnGet p s).inTrim = true) :=
  ⟨⟨0, 47, g5, by decide +kernel⟩,
   ⟨0, 47, (7, 0), lc47 fun c => { c with needTrim := some (7, 0) }, by decide +kernel⟩,
   ⟨0, 47, g5, by decide +kernel⟩,
   ⟨47, (10 : Int), g5, by decide +kernel⟩,
   ⟨47, (9 : Int), g5, by decide +kernel⟩,
   ⟨47, 900, 2, lc47 fun c => { c with needTrim := some (900, 2) }, by decide +kernel⟩,
   ⟨47, rdy, fun _ _ h => nomatch (show (none : Option (Nat × Nat)) = _ from h)⟩,
   ⟨0, 47, rdy, by decide +kernel⟩,
   ⟨0, 47, .ok, lc47 fun c => { c with needTrim := some (0, 0) }, by decide +kernel⟩,
   ⟨0, 47, lc47 fun c => { c with needTrim := some (0, 0) }, by decide +kernel⟩,
   ⟨47, rdy, by decide +kernel⟩,
   ⟨47, ln47 fun c => { c with inTrim := true }, by decide +kernel⟩,
   ⟨47, ln47 fun c => { c with inTrim := true }, by decide +kernel⟩⟩

/-- The hypotheses of each clause of LeakageIsMeasuredInSlices are met. -/
theorem test_met_LeakageIsMeasuredInSlices :
    (∃ (p : Nat) (s : State), portOk s p = true ∧ get GL.LEAK_EN p s = 1 ∧ (lcGet p s).leakFrom = none) ∧
    (∃ (p x : Nat) (s : State), portOk s p = true ∧ get GL.LEAK_EN p s = 1 ∧ (lcGet p s).leakFrom = some x) ∧
    (∃ (p : Nat) (s : State), (portOk s p = false ∨ get GL.LEAK_EN p s = 0)) ∧
    (∃ (dt p : Nat) (o : GlOutcome) (s : State), linkFree (p / 8) s = true ∧ guardServes p s = true ∧ (lcGet p
    s).measuring = true ∧ mayStart (.slice p) (elapse dt s) = true ∧ (lnGet p s).slice = none ∧ (lcGet p s).trimAt =
    none ∧ trimStarts p (elapse dt s) = false ∧ sliceSpaced p (elapse dt s) = true ∧ gapFits p (sliceGap s) (elapse dt
    s) = true ∧ o.isOk = true) ∧
    (∃ (dt p : Nat) (s : State), (linkFree (p / 8) s = false ∨ (lcGet p s).measuring = false ∨ mayStart (.slice p)
    (elapse dt s) = false ∨ (lnGet p s).slice ≠ none ∨ trimStarts p (elapse dt s) = true)) ∧
    (∃ (dt p : Nat) (s : State), (lcGet p s).measuring = true ∧ isGranted (.slice p) s = false ∧ (lnGet p s).slice =
    none ∧ sliceSpaced p (elapse dt s) = true ∧ gapFits p (sliceGap s) (elapse dt s) = true ∧ isWaiting (.slice p) s =
    true) ∧
    (∃ (p : Nat) (s : State), ((lcGet p s).measuring = false ∨ isGranted (.slice p) s = true)) ∧
    (∃ (p : Nat) (s : State), ((lnGet p s).slice = none ∨ ldeHigh p s = true ∨ (lnGet p s).inTrim = true)) ∧
    (∃ (p x : Nat) (s : State), (lnGet p s).slice = some x ∧ ldeHigh p s = false ∧ (lnGet p s).inTrim = false ∧ (lnGet
    p s).slicesDone < 24 ∧ max s.now (x + cyclesMs 2) ≤ (lnGet p s).firstSlice.getD x + cyclesS (gGet (p / 8)
    s).leakWindow) ∧
    (∃ (p x : Nat) (s : State), (lnGet p s).slice = some x ∧ ldeHigh p s = false ∧ (lnGet p s).inTrim = false ∧ (lnGet
    p s).slicesDone = 24 ∧ max s.now (x + cyclesMs 2) ≤ (lnGet p s).firstSlice.getD x + cyclesS (gGet (p / 8)
    s).leakWindow) ∧
    (∃ (p x : Nat) (s : State), (lnGet p s).slice = some x ∧ ldeHigh p s = false ∧ (lnGet p s).inTrim = false ∧ (lnGet
    p s).firstSlice.getD x + cyclesS (gGet (p / 8) s).leakWindow < max s.now (x + cyclesMs 2)) ∧
    (∃ (p x : Nat) (s : State), (ldeHigh p s = true ∨ (lnGet p s).inTrim = true) ∧ (lnGet p s).slice = some x) ∧
    (∃ (p : Nat) (s : State), ldeHigh p s = false ∧ (lnGet p s).inTrim = false) ∧
    (∃ (p x : Nat) (s : State), (lnGet p s).firstSlice = some x ∧ (lcGet p s).measuring = true) ∧
    (∃ (p : Nat) (s : State), ((lnGet p s).firstSlice = none ∨ (lcGet p s).measuring = false)) :=
  ⟨⟨47, put GL.LEAK_EN 47 1 g5, by decide +kernel⟩,
   ⟨47, 900, put GL.LEAK_EN 47 1 (lc47 fun c => { c with leakFrom := some 900 }), by decide +kernel⟩,
   ⟨47, rdy, by decide +kernel⟩,
   ⟨0, 47, .ok, leak47, by decide +kernel⟩,
   ⟨0, 47, rdy, by decide +kernel⟩,
   ⟨0, 47, let s := lc47 fun c => { c with measuring := true }; { s with leave := { s.leave with field := [ask (.slice 47) 8] } }, by decide +kernel⟩,
   ⟨47, rdy, by decide +kernel⟩,
   ⟨47, rdy, by decide +kernel⟩,
   ⟨47, 900, lnMap 47 (fun c => { c with slice := some 900, slicesDone := 23 }) leak47, by decide +kernel⟩,
   ⟨47, 900, lnMap 47 (fun c => { c with slice := some 900, slicesDone := 24 }) leak47, by decide +kernel⟩,
   ⟨47, 900, gMap 5 (fun c => { c with leakWindow := 0 }) (lnMap 47 (fun c => { c with slice := some 900, firstSlice := some 0, slicesDone := 24 }) leak47), by decide +kernel⟩,
   ⟨47, 900, lnMap 47 (fun c => { c with slice := some 900, inTrim := true }) leak47, by decide +kernel⟩,
   ⟨47, rdy, by decide +kernel⟩,
   ⟨47, 900, lnMap 47 (fun c => { c with firstSlice := some 900, slicesDone := 9 }) leak47, by decide +kernel⟩,
   ⟨47, rdy, by decide +kernel⟩⟩

/-- The hypotheses of each clause of LeaveIsGrantedOrTimesOut are met. -/
theorem test_met_LeaveIsGrantedOrTimesOut :
    (∃ (s : State), s.leave.die = [] ∧ s.leave.field = [] ∧ get RG.DIE_CHANGE 0 s = 0 ∧ get RG.FIELD_CHANGE 0 s = 0) ∧
    (∃ (dt : Nat) (r : LeaveReq) (l : List LeaveReq) (s : State), s.leave.die = r :: l ∧ eligible r s = true ∧ 0 <
    r.units ∧ r.units ≤ freeUnits .die s ∧ r.at_ < s.now + dt ∧ oversize .die (elapse dt s) = [] ∧ oversize .field
    (elapse dt s) = []) ∧
    (∃ (s : State), s.leave.die = [] ∧ s.leave.field = []) ∧
    (∃ (u : Nat) (r : LeaveReq) (s : State), u < 2 ∧ s.leave.die = [r] ∧ s.leave.field = [] ∧ r.kind = .burst u ∧
    eligible r s = false ∧ r.units ≤ get RG.DIE_BUDGET 0 s ∧ get RG.DIE_CHANGE 0 s = 0) ∧
    (∃ (p : Nat) (r : LeaveReq) (s : State), p < 48 ∧ s.leave.field = [r] ∧ s.leave.die = [] ∧ r.kind = .switchOn p ∧
    eligible r s = false ∧ r.units ≤ get RG.FIELD_BUDGET 0 s ∧ get RG.FIELD_CHANGE 0 s = 0) ∧
    (∃ (dt n : Nat) (s : State), taken 0 RG.FIELD_BUDGET [(RG.FIELD_BUDGET, n)] (elapse dt s)) ∧
    (∃ (dt n : Nat) (s : State), taken 0 RG.DIE_BUDGET [(RG.DIE_BUDGET, n)] (elapse dt s)) :=
  ⟨⟨rdy, by decide +kernel⟩,
   ⟨0, ask (.burst 1) 2, ([] : List LeaveReq), { rdy with leave := { rdy.leave with die := [ask (.burst 1) 2] } }, by decide +kernel⟩,
   ⟨rdy, by decide +kernel⟩,
   ⟨1, ask (.burst 1) 2, { rdy with leave := { rdy.leave with hot := true, die := [ask (.burst 1) 2] } }, by decide +kernel⟩,
   ⟨47, ask (.switchOn 47) 2, put RG.FIELD_BUDGET 0 2 { g5 with leave := { g5.leave with hotGuards := [5], field := [ask (.switchOn 47) 2] } }, by decide +kernel⟩,
   ⟨0, 40, rdy, by decide +kernel⟩,
   ⟨0, 40, rdy, by decide +kernel⟩⟩

/-- The hypotheses of each clause of StumpFramesAreAnswered are met. -/
theorem test_met_StumpFramesAreAnswered :
    (∃ (raw : List SvcChar) (s : State), svServed s = true ∧ stumpParse (svcBytes s.svc.baud raw) = none) ∧
    (∃ (raw : List SvcChar) (x : Nat × Nat × List Byte) (s : State), svServed s = true ∧ s.sys.phase ≠ .paused ∧
    s.svc.running = none ∧ stumpParse (svcBytes s.svc.baud raw) = some x ∧ s.svc.last = some x) ∧
    (∃ (n : Nat) (raw : List SvcChar) (s : State), fresh 0x01 n [] raw s) ∧
    (∃ (n : Nat) (pl : List Byte) (raw : List SvcChar) (s : State), fresh 0x01 n pl raw s ∧ pl ≠ []) ∧
    (∃ (n : Nat) (raw : List SvcChar) (s : State), fresh 0x02 n [] raw s) ∧
    (∃ (n : Nat) (pl : List Byte) (raw : List SvcChar) (s : State), fresh 0x03 n pl raw s ∧ pl.length = 4 ∧ 9600 ≤
    beValue pl ∧ beValue pl ≤ 1000000) ∧
    (∃ (n : Nat) (pl : List Byte) (raw : List SvcChar) (s : State), fresh 0x03 n pl raw s ∧ (pl.length ≠ 4 ∨ beValue
    pl < 9600 ∨ 1000000 < beValue pl)) ∧
    (∃ (s : State), s.svc.fallbackAt = none) ∧
    (∃ (x : Nat) (s : State), s.svc.fallbackAt = some x) ∧
    (∃ (n : Nat) (raw : List SvcChar) (s : State), fresh 0x15 n [] raw s) ∧
    (∃ (n : Nat) (raw : List SvcChar) (s : State), fresh 0x14 n [] raw s ∧ (s.svc.st = 1 ∨ s.svc.st = 2)) ∧
    (∃ (n : Nat) (raw : List SvcChar) (s : State), fresh 0x14 n [] raw s ∧ s.svc.st ≠ 1 ∧ s.svc.st ≠ 2) ∧
    (∃ (n : Nat) (pl : List Byte) (raw : List SvcChar) (s : State), fresh 0x14 n pl raw s) ∧
    (∃ (n : Nat) (raw : List SvcChar) (s : State), fresh 0x20 n [] raw s) ∧
    (∃ (n : Nat) (pl : List Byte) (raw : List SvcChar) (s : State), fresh 0x20 n pl raw s) :=
  ⟨⟨[], rdy, by decide +kernel⟩,
   ⟨frameOf 1 5 [], (1, 5, []), { rdy with svc := { rdy.svc with last := some (1, 5, []), reply := [1#8] } }, by decide +kernel⟩,
   ⟨255, frameOf 1 255 [], rdy, by decide +kernel⟩,
   ⟨5, [1#8], frameOf 1 5 [1#8], rdy, by decide +kernel⟩,
   ⟨255, frameOf 2 255 [], rdy, by decide +kernel⟩,
   ⟨5, beBytes 4 9600, frameOf 3 5 (beBytes 4 9600), rdy, by decide +kernel⟩,
   ⟨5, beBytes 4 9599, frameOf 3 5 (beBytes 4 9599), rdy, by decide +kernel⟩,
   ⟨rdy, by decide +kernel⟩,
   ⟨900, { rdy with svc := { rdy.svc with fallbackAt := some 900, baud := 9600 } }, by decide +kernel⟩,
   ⟨5, frameOf 0x15 5 [], rdy, by decide +kernel⟩,
   ⟨5, frameOf 0x14 5 [], upd 1 1 id, by decide +kernel⟩,
   ⟨5, frameOf 0x14 5 [], upd 3 1 id, by decide +kernel⟩,
   ⟨5, [1#8], frameOf 0x14 5 [1#8], upd 1 1 id, by decide +kernel⟩,
   ⟨5, frameOf 0x20 5 [], rdy, by decide +kernel⟩,
   ⟨5, [], frameOf 0x20 5 [], rdy, by decide +kernel⟩⟩

/-- The hypotheses of each clause of BundlesAreWrittenAndActivated are met. -/
theorem test_met_BundlesAreWrittenAndActivated :
    (∃ (n : Nat) (m : List Byte) (raw : List SvcChar) (s : State), fresh 0x10 n m raw s ∧ s.svc.st ≠ 0 ∧ s.svc.st ≠ 6
    ∧ s.svc.st ≠ 7) ∧
    (∃ (n : Nat) (m : List Byte) (raw : List SvcChar) (s : State), fresh 0x10 n m raw s ∧ s.sys.phase = .ready ∧
    (s.svc.st = 0 ∨ s.svc.st = 6 ∨ s.svc.st = 7) ∧ get RG.CONFIRMED 0 s = 1 ∧ gfActivating s = false ∧ mfForm false m
    = false) ∧
    (∃ (n : Nat) (m : List Byte) (raw : List SvcChar) (s : State), fresh 0x10 n m raw s ∧ s.sys.phase = .ready ∧
    (s.svc.st = 0 ∨ s.svc.st = 6 ∨ s.svc.st = 7) ∧ get RG.CONFIRMED 0 s = 1 ∧ gfActivating s = false ∧ mfForm false m
    = true ∧ mfTarget s.variant m = true ∧ orderCheck m s = none) ∧
    (∃ (n : Nat) (pl : List Byte) (raw : List SvcChar) (s : State), fresh 0x11 n pl raw s ∧ s.svc.st ≠ 1) ∧
    (∃ (n : Nat) (pl : List Byte) (raw : List SvcChar) (s : State), fresh 0x11 n pl raw s ∧ s.svc.st = 1 ∧ 8 ≤
    pl.length ∧ mf pl 1 3 = 0 ∧ partCarried (mf pl 0 1) s = true ∧ mf pl 4 4 ≠ partNext (mf pl 0 1) s) ∧
    (∃ (n : Nat) (pl : List Byte) (raw : List SvcChar) (s : State), fresh 0x11 n pl raw s ∧ s.svc.st = 1 ∧ 8 ≤
    pl.length ∧ mf pl 1 3 = 0 ∧ partCarried (mf pl 0 1) s = true ∧ mf pl 4 4 = partNext (mf pl 0 1) s ∧ pl.length - 8
    = 256 ∧ 256 ≤ (partArea (mf pl 0 1) s).2 - partNext (mf pl 0 1) s ∧ ((partArea (mf pl 0 1) s).1 + mf pl 4 4) %
    4096 ≠ 0) ∧
    (∃ (n : Nat) (raw : List SvcChar) (s : State), fresh 0x12 n [] raw s ∧ (s.svc.st ≠ 1 ∨ mfGf s.svc.manifest = true
    ∧ s.svc.nextGf ≠ mf s.svc.manifest 32 4)) ∧
    (∃ (n : Nat) (raw : List SvcChar) (s : State), fresh 0x12 n [] raw s ∧ s.svc.st = 1 ∧ mfSlot s.svc.manifest =
    false ∧ mfGf s.svc.manifest = true ∧ s.svc.nextGf = mf s.svc.manifest 32 4) ∧
    (∃ (n : Nat) (raw : List SvcChar) (s : State), fresh 0x13 n [1#8] raw s ∧ s.svc.st ≠ 2) ∧
    (∃ (n : Nat) (raw : List SvcChar) (s : State), fresh 0x13 n [1#8] raw s ∧ s.sys.phase = .ready ∧ s.svc.st = 2 ∧
    mfGf s.svc.manifest = true) ∧
    (∃ (n : Nat) (raw : List SvcChar) (s : State), fresh 0x13 n [2#8] raw s ∧ s.svc.st ≠ 4) ∧
    (∃ (n : Nat) (raw : List SvcChar) (s : State), fresh 0x13 n [2#8] raw s ∧ s.sys.phase = .ready ∧ s.svc.st = 4 ∧
    mfSlot s.svc.manifest = true) :=
  ⟨⟨5, manif 1, frameOf 0x10 5 (manif 1), upd 1 1 id, fresh_frameOf _ _ _ _ (by decide) (by decide) (by decide) (by decide +kernel) (by decide +kernel) (by decide +kernel) (by decide +kernel) (by decide +kernel) (by decide +kernel), by decide +kernel, by decide +kernel, by decide +kernel⟩,
   ⟨5, [], frameOf 0x10 5 [], put RG.CONFIRMED 0 1 rdy, by decide +kernel⟩,
   ⟨5, manif 1, frameOf 0x10 5 (manif 1), put RG.PM_GEN_MAX 0 255 (put RG.GF_GEN_MAX 0 255 (put RG.CONFIRMED 0 1 rdy)), fresh_frameOf _ _ _ _ (by decide) (by decide) (by decide) (by decide +kernel) (by decide +kernel) (by decide +kernel) (by decide +kernel) (by decide +kernel) (by decide +kernel), by decide +kernel, by decide +kernel, by decide +kernel, by decide +kernel, by decide +kernel, by decide +kernel, by decide +kernel⟩,
   ⟨5, [], frameOf 0x11 5 [], upd 2 1 id, by decide +kernel⟩,
   ⟨5, [1#8, 0#8, 0#8, 0#8, 0#8, 0#8, 1#8, 0#8], frameOf 0x11 5 [1#8, 0#8, 0#8, 0#8, 0#8, 0#8, 1#8, 0#8], upd 1 1 id, by decide +kernel⟩,
   ⟨5, [1#8, 0#8, 0#8, 0#8, 0#8, 0#8, 1#8, 0#8] ++ List.replicate 256 7#8, frameOf 0x11 5 ([1#8, 0#8, 0#8, 0#8, 0#8, 0#8, 1#8, 0#8] ++ List.replicate 256 7#8), upd 1 1 (fun c => { c with nextCf := 256, manifest := (manif 1).take 24 ++ beBytes 4 512 ++ (manif 1).drop 28 }), fresh_frameOf _ _ _ _ (by decide) (by decide) (by decide) (by decide +kernel) (by decide +kernel) (by decide +kernel) (by decide +kernel) (by decide +kernel) (by decide +kernel), by decide +kernel, by decide +kernel, by decide +kernel, by decide +kernel, by decide +kernel, by decide +kernel, by decide +kernel, by decide +kernel⟩,
   ⟨5, frameOf 0x12 5 [], rdy, by decide +kernel⟩,
   ⟨5, frameOf 0x12 5 [], upd 1 2 (fun c => { c with nextGf := 300 }), by decide +kernel⟩,
   ⟨5, frameOf 0x13 5 [1#8], rdy, by decide +kernel⟩,
   ⟨5, frameOf 0x13 5 [1#8], upd 2 2 id, by decide +kernel⟩,
   ⟨5, frameOf 0x13 5 [2#8], rdy, by decide +kernel⟩,
   ⟨5, frameOf 0x13 5 [2#8], upd 4 1 (fun c => { c with slot := 1 }), by decide +kernel⟩⟩

/-- The hypotheses of each clause of GuardFirmwareIsDownloadedAndActivated are met. -/
theorem test_met_GuardFirmwareIsDownloadedAndActivated :
    (∃ (k : Nat) (s : State), (gGet k s).fw = none) ∧
    (∃ (dt k : Nat) (r : FwRun) (x : Nat) (s : State), (gGet k s).fw = some r ∧ r.lastAt = some x ∧ s.now + dt < x +
    cyclesUs 500) ∧
    (∃ (dt k : Nat) (r : FwRun) (o : GlOutcome) (s : State), linkFree k s = true ∧ (gGet k s).fw = some r ∧ (∀ x,
    r.lastAt = some x → x + cyclesUs 500 ≤ s.now + dt) ∧ (gGet k s).act = none ∧ r.next < gfBlocks r.copy (elapse dt
    s) ∧ o.isOk = true) ∧
    (∃ (dt k : Nat) (r : FwRun) (o : GlOutcome) (s : State), linkFree k s = true ∧ (gGet k s).fw = some r ∧ mayStart
    (.gfActivate k) (elapse dt s) = true ∧ gfActivating s = false ∧ o.isOk = true) ∧
    (∃ (dt k : Nat) (r : FwRun) (s : State), (gGet k s).fw = some r ∧ (mayStart (.gfActivate k) (elapse dt s) = false
    ∨ gfActivating s = true)) ∧
    (∃ (k : Nat) (s : State), (gGet k s).act = none) ∧
    (∃ (dt k : Nat) (r : FwRun) (v x : Nat) (o : GlOutcome) (s : State), k < 6 ∧ (gGet k s).act = some (v, x) ∧ (gGet
    k s).fw = some r ∧ s.now + dt ≤ x ∧ gfReceived (gGet k s) = some v ∧ r.update = false ∧ genIn (v % 256) (get
    RG.GF_GEN_MIN 0 s) (get RG.GF_GEN_MAX 0 s) = true ∧ fetchOwed s = false ∧ o.isOk = true) ∧
    (∃ (dt k : Nat) (r : FwRun) (v x : Nat) (o : GlOutcome) (s : State), (gGet k s).act = some (v, x) ∧ (gGet k s).fw
    = some r ∧ s.now + dt ≤ x ∧ gfReceived (gGet k s) ≠ some v ∧ r.other = true ∧ r.update = false ∧ fetchOwed s =
    false ∧ o.isOk = true) ∧
    (∃ (k : Nat) (s : State), (gGet k s).act = none) ∧
    (∃ (k : Nat) (r : FwRun) (v x : Nat) (s : State), k < 6 ∧ (gGet k s).act = some (v, x) ∧ (gGet k s).fw = some r ∧
    r.other = true ∧ r.update = false) ∧
    (∃ (k : Nat) (s : State), (gGet k s).restoreAt = none) ∧
    (∃ (k x c : Nat) (s : State), (gGet k s).restoreAt = some x ∧ gfRestoring s = false ∧ s.svc.st ≠ 3 ∧ currentCopy
    (runTo x s) = some c ∧ needsGf k (runTo x s) = true) ∧
    (∃ (k x : Nat) (s : State), (gGet k s).restoreAt = some x ∧ gfRestoring s = false ∧ s.svc.st ≠ 3 ∧ currentCopy
    (runTo x s) = none) :=
  ⟨⟨5, rdy, by decide +kernel⟩,
   ⟨0, 5, (⟨1, 0, some 900, false, false⟩ : FwRun), 900, down id ⟨1, 0, some 900, false, false⟩, by decide +kernel⟩,
   ⟨0, 5, (⟨1, 0, none, false, false⟩ : FwRun), .ok, copy1 (down id ⟨1, 0, none, false, false⟩), by decide +kernel, by decide +kernel, (by intro x h; cases (show (none : Option Nat) = some x from h)), by decide +kernel⟩,
   ⟨0, 5, (⟨1, 5, none, false, false⟩ : FwRun), .ok, let s := copy1 (down id ⟨1, 5, none, false, false⟩); { s with leave := { s.leave with dieGr := [⟨.gfActivate 5, 3, 0⟩] } }, by decide +kernel⟩,
   ⟨0, 5, (⟨1, 5, none, false, false⟩ : FwRun), down id ⟨1, 5, none, false, false⟩, by decide +kernel⟩,
   ⟨5, rdy, by decide +kernel⟩,
   ⟨0, 5, (⟨1, 5, none, false, false⟩ : FwRun), 0x107, 9000, .ok, down (fun c => { c with run := 5, act := some (0x107, 9000), blocks := [(0, stream)] }) ⟨1, 5, none, false, false⟩, by decide +kernel, by decide +kernel, by decide +kernel, by decide +kernel, gfReceived_page _ page (by rw [gGet_down]; rfl) (by decide +kernel) (by decide +kernel), by decide +kernel⟩,
   ⟨0, 5, (⟨1, 5, none, true, false⟩ : FwRun), 0x107, 9000, .ok, down (fun c => { c with run := 5, act := some (0x107, 9000), blocks := [] }) ⟨1, 5, none, true, false⟩, by decide +kernel⟩,
   ⟨5, rdy, by decide +kernel⟩,
   ⟨5, (⟨1, 5, none, true, false⟩ : FwRun), 0x107, 9000, down (fun c => { c with run := 5, act := some (0x107, 9000) }) ⟨1, 5, none, true, false⟩, by decide +kernel⟩,
   ⟨5, rdy, by decide +kernel⟩,
   ⟨5, 900, 1, put RG.GUARD_PRESENT 0 32 (put RG.GF_GEN_MAX 0 255 (copy1 (gMap 5 (fun c => { c with run := 3, restoreAt := some 900 }) rdy))), by decide +kernel⟩,
   ⟨5, 900, put RG.GUARD_PRESENT 0 32 (gMap 5 (fun c => { c with run := 3, restoreAt := some 900 }) rdy), by decide +kernel⟩⟩

/-- The hypotheses of each clause of PmAndCfAreActivatedAndConfirmed are met. -/
theorem test_met_PmAndCfAreActivatedAndConfirmed :
    (∃ (s : State), (s.svc.steps = [] ∨ s.svc.st ≠ 3 ∨ s.svc.pm ≠ none)) ∧
    (∃ (g : Nat) (l : List Nat) (s : State), s.svc.steps = (0x10 + g) :: l ∧ s.svc.st = 3 ∧ s.svc.pm = none) ∧
    (∃ (s : State), s.svc.pm = none) ∧
    (∃ (g x : Nat) (s : State), g < 6 ∧ s.svc.pm = some (g, x, false)) ∧
    (∃ (g x : Nat) (s : State), s.svc.pm = some (g, x, false)) ∧
    (∃ (g x : Nat) (s : State), g < 6 ∧ s.svc.pm = some (g, x, true)) ∧
    (∃ (s : State), s.svc.pause = none) ∧
    (∃ (x : Nat) (s : State), s.svc.pause = some (x, false)) ∧
    (∃ (x : Nat) (s : State), s.svc.pause = some (x, true)) ∧
    (∃ (dt x w : Nat) (s : State), s.sys.confirmFrom = some x ∧ s.sys.wellFrom = some w ∧ healthy s = true ∧ w +
    cyclesS 10 ≤ s.now + dt ∧ confirmLeft (elapse dt s) ≠ 0) ∧
    (∃ (dt : Nat) (s : State), (s.sys.confirmFrom = none ∨ s.sys.wellFrom = none ∨ healthy s = false ∨ confirmLeft
    (elapse dt s) = 0 ∨ (∃ w, s.sys.wellFrom = some w ∧ s.now + dt < w + cyclesS 10))) ∧
    (∃ (s : State), (s.sys.confirmFrom = none ∨ s.sys.phase ≠ .ready ∨ ∃ x, s.sys.confirmFrom = some x ∧ windowHolds x
    s = true)) ∧
    (∃ (x : Nat) (s : State), s.sys.confirmFrom = some x ∧ s.sys.phase = .ready ∧ windowHolds x s = false) ∧
    (∃ (s : State), s.svc.markRetry = none) ∧
    (∃ (x i : Nat) (s : State), s.svc.markRetry = some (x, i)) :=
  ⟨⟨rdy, by decide +kernel⟩,
   ⟨5, ([] : List Nat), upd 3 1 (fun c => { c with steps := [0x15] }), by decide +kernel⟩,
   ⟨rdy, by decide +kernel⟩,
   ⟨5, 9, upd 3 1 (fun c => { c with steps := [0x15], pm := some (5, 9, false) }), by decide +kernel⟩,
   ⟨5, 9, upd 3 1 (fun c => { c with steps := [0x15], pm := some (5, 9, false) }), by decide +kernel⟩,
   ⟨5, 9, upd 3 1 (fun c => { c with steps := [0x15], pm := some (5, 9, true) }), by decide +kernel⟩,
   ⟨rdy, by decide +kernel⟩,
   ⟨9, let s := upd 5 1 (fun c => { c with slot := 1, pause := some (9, false) }); { s with sys := { s.sys with phase := .paused } }, by decide +kernel⟩,
   ⟨9, let s := put RG.SLOT 0 1 (upd 6 1 (fun c => { c with oldSlot := some 0, pause := some (9, true) })); { s with sys := { s.sys with phase := .paused } }, by decide +kernel⟩,
   ⟨2500000009, 9, 9, put RG.CFG_RESTORED 0 1 (let s := put RG.SLOT 0 1 rdy; { s with sys := { s.sys with confirmFrom := some 9, wellFrom := some 9 } }), by decide +kernel⟩,
   ⟨0, rdy, by decide +kernel⟩,
   ⟨rdy, by decide +kernel⟩,
   ⟨9, put RG.SLOT 0 1 { rdy with sys := { rdy.sys with confirmFrom := some 9 } }, by decide +kernel⟩,
   ⟨rdy, by decide +kernel⟩,
   ⟨9, 1, { rdy with svc := { rdy.svc with markRetry := some (9, 1) } }, by decide +kernel⟩⟩

/-- The hypotheses of each clause of FlashOperationsChangeTheirBytes are met. -/
theorem test_met_FlashOperationsChangeTheirBytes :
    (∃ (s : State), (s.flash.busy = false ∨ flashOp s = none)) ∧
    (∃ (s : State), (s.flash.busy = false ∨ flashOp s = none)) ∧
    (∃ (a : Nat) (d : List Byte) (s : State), s.flash.busy = true ∧ flashOp s = some (.program a d)) ∧
    (∃ (a : Nat) (s : State), s.flash.busy = true ∧ flashOp s = some (.erase a)) ∧
    (∃ (a : Nat) (d b : Byte) (s : State), s.flash.busy = true ∧ flashOp s = some (.program a [d]) ∧ fByte a
    s.flash.mem = 255#8 ∧ b ≠ d ∧ get RG.PROG_FAIL 0 s = 0) ∧
    (∃ (a o : Nat) (b : BitVec 8) (s : State), s.flash.busy = true ∧ flashOp s = some (.erase a) ∧ o < 4096 ∧ b ≠
    255#8) :=
  ⟨⟨rdy, by decide +kernel⟩,
   ⟨rdy, by decide +kernel⟩,
   ⟨900, [1#8, 0xF0#8, 3#8], runs (.program 900 [1#8, 0xF0#8, 3#8]), by decide +kernel⟩,
   ⟨4100, (let s := runs (.erase 4100); { s with flash := { s.flash with mem := [⟨4095, 7#8⟩, ⟨4096, 7#8⟩, ⟨8191, 7#8⟩, ⟨8192, 7#8⟩] } }), by decide +kernel⟩,
   ⟨900, 3#8, 7#8, runs (.program 900 [3#8]), by decide +kernel⟩,
   ⟨4100, 4095, 7#8, (let s := runs (.erase 4100); { s with flash := { s.flash with mem := [⟨4095, 7#8⟩, ⟨4096, 7#8⟩, ⟨8191, 7#8⟩, ⟨8192, 7#8⟩] } }), by decide +kernel⟩⟩

/-- The hypotheses of each clause of LogAndJournalReachTheFlash are met. -/
theorem test_met_LogAndJournalReachTheFlash :
    (∃ (s : State), s.logs.flashWait = []) ∧
    (∃ (n x : Nat) (l : List (Nat × Nat)) (s : State), s.logs.flashWait = (n, x) :: l ∧ s.logs.retryAt = none ∧
    s.leave.warm = false ∧ logging s = true ∧ flashHas .ring s = false) ∧
    (∃ (n x : Nat) (l : List (Nat × Nat)) (s : State), s.logs.flashWait = (n, x) :: l ∧ s.logs.retryAt = none ∧
    (s.leave.warm = true ∨ logging s = false ∨ flashHas .ring s = true) ∧ 6 ≤ l.length) ∧
    (∃ (n x : Nat) (l : List (Nat × Nat)) (y : Nat) (s : State), s.logs.flashWait = (n, x) :: l ∧ s.logs.retryAt =
    some y ∧ x + cyclesS 70 ≤ y ∧ (∀ e, l[5]? = some e → e.2 + cyclesS 10 ≤ y)) ∧
    (∃ (n x : Nat) (l : List (Nat × Nat)) (y : Nat) (s : State), s.logs.flashWait = (n, x) :: l ∧ s.logs.retryAt =
    some y ∧ y < x + cyclesS 70 ∧ l.length < 6 ∧ s.leave.warm = false ∧ logging s = true ∧ flashHas .ring s = false) ∧
    (∃ (s : State), s.logs.retryAt = none) ∧
    (∃ (x : Nat) (s : State), s.logs.retryAt = some x ∧ s.logs.flashWait ≠ [] ∧ s.leave.warm = false ∧ logging s =
    true ∧ flashHas .ring s = false) ∧
    (∃ (s : State), (s.cfg.owed = [] ∨ s.leave.warm = true ∨ flashHas .journal s = true)) ∧
    (∃ (w : Nat × Word) (b : Nat) (s : State), s.cfg.owed = [[w]] ∧ s.leave.warm = false ∧ flashHas .journal s = false
    ∧ s.cfg.damaged = false ∧ s.cfg.bank = some b ∧ s.cfg.next + 28 ≤ 65536) ∧
    (∃ (dt : Nat) (w : QWord) (r : List (Producer × QWord)) (s : State), takeWaiting .events (qGet 225 (gapWrite 225
    (elapse dt s))).wait = some (w, r) ∧ accepts 225 .events w (gapWrite 225 (elapse dt s)) = true) ∧
    (∃ (dt : Nat) (s : State), (qGet 225 (elapse dt s)).wait = [] ∧ (qGet 225 (elapse dt s)).gap = ⟨0, 0, 0, 0, 0⟩) :=
  ⟨⟨rdy, by decide +kernel⟩,
   ⟨5, 900, ([] : List (Nat × Nat)), { rdy with logs := { rdy.logs with flashWait := [(5, 900)] } }, by decide +kernel⟩,
   ⟨5, 900, ((List.range 6).map fun i => (6 + i, 900)), { rdy with leave := { rdy.leave with warm := true }, logs := { rdy.logs with flashWait := (List.range 7).map fun i => (5 + i, 900) } }, by decide +kernel⟩,
   ⟨5, 900, List.replicate 6 (6, 950), cyclesS 70 + 900, { rdy with logs := { rdy.logs with flashWait := (5, 900) :: List.replicate 6 (6, 950), retryAt := some (cyclesS 70 + 900) } }, by decide +kernel, by decide +kernel, by decide +kernel, by simp [cyclesS]⟩,
   ⟨5, 900, ([] : List (Nat × Nat)), cyclesS 70 + 899, { rdy with logs := { rdy.logs with flashWait := [(5, 900)], retryAt := some (cyclesS 70 + 899) } }, by decide +kernel⟩,
   ⟨rdy, by decide +kernel⟩,
   ⟨900, { rdy with logs := { rdy.logs with retryAt := some 900, flashWait := [(5, 900)] } }, by decide +kernel⟩,
   ⟨rdy, by decide +kernel⟩,
   ⟨(5, 6#32), 1, { rdy with cfg := { rdy.cfg with owed := [[(5, 6#32)]], bank := some 1, next := 65508 } }, by decide +kernel⟩,
   ⟨0, (⟨.single, 7#32⟩ : QWord), ([] : List (Producer × QWord)), qMap 225 (fun c => { c with wait := [(.events, ⟨.single, 7#32⟩)] }) rdy, by decide +kernel⟩,
   ⟨0, rdy, by decide +kernel⟩⟩

/-- The hypotheses of each clause of FlashKeepsItsCanonicalForm are met. -/
theorem test_met_FlashKeepsItsCanonicalForm :
    (∃ (s t : State), Memory.wf s.flash.mem = true ∧ step s = .next t) :=
  ⟨{ runs (.erase 4100) with flash := { (runs (.erase 4100)).flash with mem := [⟨4096, 7#8⟩] }, pending := [.flashEraseDone 0 none] }, _, by decide +kernel, rfl⟩

end Sys2Proof.Tests
end

section

/-! ### The front of the queue, and what every command leaves alone -/

namespace Sys2Proof.Machine

/-- With a command at the front of the queue, a step runs it on the machine with the rest of the queue. -/
theorem step_of_pending {c : Instr} {rest : List Instr} {s : State} (h : s.pending = c :: rest) :
    step s = exec c { s with pending := rest } := by
  unfold step
  rw [h]

/-- The commands that may change flash contents: the resets, which may cut an operation, what settles marks and commits at
boot, and the ends of flash operations (R763, R848, R892, R920). -/
def mayChangeFlash : Instr → Bool
  | .powerOnReset _ | .resetN _ _ | .pllLoss _ | .watchdogExpiry _ | .softwareResetStart _ => true
  | .flashReady _ | .cfStart _ _ _ => true
  | .flashProgramDone _ _ | .flashEraseDone _ _ => true
  | _ => false

/-- What running a command comes to, whatever the state: a next state with the variant and the waiting commands as they
were, and, but for the commands that may change them, with the flash bytes as they were. -/
def ExecKeeps (c : Instr) (s : State) : Prop :=
  ∃ t, exec c s = .next t ∧ (mayChangeFlash c = false → t.flash.mem = s.flash.mem) ∧ t.variant = s.variant ∧
    t.pending = s.pending

/-- A meaning that leaves the flash bytes too. -/
theorem ExecKeeps.kept {c : Instr} {s : State} (h : ∃ t, exec c s = .next t ∧ t.flash.mem = s.flash.mem ∧
    t.variant = s.variant ∧ t.pending = s.pending) : ExecKeeps c s := by
  obtain ⟨t, hexec, hmem, hrest⟩ := h
  exact ⟨t, hexec, fun _ => hmem, hrest⟩

/-- A meaning of one of the commands that may change flash contents. -/
theorem ExecKeeps.excepted {c : Instr} {s : State} (hc : mayChangeFlash c = true)
    (h : ∃ t, exec c s = .next t ∧ t.variant = s.variant ∧ t.pending = s.pending) : ExecKeeps c s := by
  obtain ⟨t, hexec, hrest⟩ := h
  exact ⟨t, hexec, fun hn => absurd (hc.symm.trans hn) (by decide), hrest⟩

/-- Every command keeps what its meaning keeps: one arm of `exec` each, with the lemma about its meaning. -/
theorem exec_keeps : ∀ (c : Instr) (s : State), ExecKeeps c s
  -- Start-up
  | .powerOnReset dt, s => .excepted rfl (execPowerOnReset_kept dt s)
  | .resetN dt lowNs, s => .excepted rfl (execResetN_kept dt lowNs s)
  | .pllLoss dt, s => .excepted rfl (execPllLoss_kept dt s)
  | .watchdogExpiry dt, s => .excepted rfl (execWatchdogExpiry_kept dt s)
  | .softwareReset dt value, s => .kept (execSoftwareReset_kept dt value s)
  | .softwareResetStart wait, s => .excepted rfl (execSoftwareResetStart_kept wait s)
  | .resetRelease dt recoveryN, s => .kept (execResetRelease_kept dt recoveryN s)
  | .pllLock dt, s => .kept (execPllLock_kept dt s)
  | .flashReady dt, s => .excepted rfl (execFlashReady_kept dt s)
  | .cfStart dt failing again, s => .excepted rfl (execCfStart_kept dt failing again s)
  | .guardWaitEnd dt, s => .kept (execGuardWaitEnd_kept dt s)
  | .recoveryPowerOff dt, s => .kept (execRecoveryPowerOff_kept dt s)
  | .guardBoot dt k ver b, s => .kept (execGuardBoot_kept dt k ver b s)
  | .guardVddioLow dt k, s => .kept (execGuardVddioLow_kept dt k s)
  -- Clock
  | .secondsCarry, s => .kept (execSecondsCarry_kept s)
  | .tmOutPulseEnd, s => .kept (execTmOutPulseEnd_kept s)
  | .tmOutEnable dt, s => .kept (execTmOutEnable_kept dt s)
  | .tmOutDisable dt, s => .kept (execTmOutDisable_kept dt s)
  | .set dt, s => .kept (execSet_kept dt s)
  | .step dt, s => .kept (execStep_kept dt s)
  | .lockEnable dt, s => .kept (execLockEnable_kept dt s)
  | .lockDisable dt, s => .kept (execLockDisable_kept dt s)
  | .tmInMark dt falling widthNs, s => .kept (execTmInMark_kept dt falling widthNs s)
  | .markTimeout, s => .kept (execMarkTimeout_kept s)
  | .rtNowSecRead dt, s => .kept (execRtNowSecRead_kept dt s)
  -- Line ports
  | .characterReceived p samples edges, s => .kept (execCharacterReceived_kept p samples edges s)
  | .startGlitch dt p, s => .kept (execStartGlitch_kept dt p s)
  | .lineFormatWrite dt p ctrl value, s => .kept (execLineFormatWrite_kept dt p ctrl value s)
  | .stagingMoveDone dt p, s => .kept (execStagingMoveDone_kept dt p s)
  | .breakDetected p, s => .kept (execBreakDetected_kept p s)
  | .rxTimeout p, s => .kept (execRxTimeout_kept p s)
  | .txRecordStart dt p, s => .kept (execTxRecordStart_kept dt p s)
  | .leadEnd p, s => .kept (execLeadEnd_kept p s)
  | .txCharacterDone p, s => .kept (execTxCharacterDone_kept p s)
  | .txTailEnd p, s => .kept (execTxTailEnd_kept p s)
  | .txBreak dt p, s => .kept (execTxBreak_kept dt p s)
  | .breakStart dt p, s => .kept (execBreakStart_kept dt p s)
  | .breakEnd p, s => .kept (execBreakEnd_kept p s)
  | .markingEnd p, s => .kept (execMarkingEnd_kept p s)
  | .portDisable dt p, s => .kept (execPortDisable_kept dt p s)
  | .rxCharsRead dt p, s => .kept (execRxCharsRead_kept dt p s)
  | .t35Expiry p, s => .kept (execT35Expiry_kept p s)
  | .sentenceTimeout p, s => .kept (execSentenceTimeout_kept p s)
  | .markAbandon p, s => .kept (execMarkAbandon_kept p s)
  -- Card ports
  | .cardInsert n, s => .kept (execCardInsert_kept n s)
  | .cardRemove dt n, s => .kept (execCardRemove_kept dt n s)
  | .cardClockStart n, s => .kept (execCardClockStart_kept n s)
  | .cardResetRelease n, s => .kept (execCardResetRelease_kept n s)
  | .tsHuntStart n, s => .kept (execTsHuntStart_kept n s)
  | .atrFail n, s => .kept (execAtrFail_kept n s)
  | .cardCharacterReceived dt n samples, s => .kept (execCardCharacterReceived_kept dt n samples s)
  | .cardCharacterSent n lowFrom lowTo, s => .kept (execCardCharacterSent_kept n lowFrom lowTo s)
  | .wtExpired n, s => .kept (execWtExpired_kept n s)
  | .cxGo dt n dir, s => .kept (execCxGo_kept dt n dir s)
  | .cardReset dt n, s => .kept (execCardReset_kept dt n s)
  | .deact dt n, s => .kept (execDeact_kept dt n s)
  | .cardDeactivationEnd n, s => .kept (execCardDeactivationEnd_kept n s)
  | .cp1Enable dt, s => .kept (execCp1Enable_kept dt s)
  | .cardPortDisable dt n, s => .kept (execCardPortDisable_kept dt n s)
  | .keyloadScript wait r, s => .kept (execKeyloadScript_kept wait r s)
  | .badgeScript wait r, s => .kept (execBadgeScript_kept wait r s)
  -- Scheduler and jobs
  | .periodBoundary g, s => .kept (execPeriodBoundary_kept g s)
  | .transactionStart dt p, s => .kept (execTransactionStart_kept dt p s)
  | .responseWindowClose dt p, s => .kept (execResponseWindowClose_kept dt p s)
  | .measurementWaitEnd e, s => .kept (execMeasurementWaitEnd_kept e s)
  | .groupEnable dt g, s => .kept (execGroupEnable_kept dt g s)
  | .groupDisable dt g, s => .kept (execGroupDisable_kept dt g s)
  | .schedulerDisable dt, s => .kept (execSchedulerDisable_kept dt s)
  | .jobSpawn dt, s => .kept (execJobSpawn_kept dt s)
  | .jobDeadlineExpiry, s => .kept (execJobDeadlineExpiry_kept s)
  | .waitingRecordSettle src, s => .kept (execWaitingRecordSettle_kept src s)
  | .slotIdle, s => .kept (execSlotIdle_kept s)
  | .forwardCopyDone dt src tenant, s => .kept (execForwardCopyDone_kept dt src tenant s)
  | .jobLedgerRead dt, s => .kept (execJobLedgerRead_kept dt s)
  -- Canopy and tenants
  | .classificationStart dt, s => .kept (execClassificationStart_kept dt s)
  | .classificationEnd, s => .kept (execClassificationEnd_kept s)
  | .canopyWriteEffect dt, s => .kept (execCanopyWriteEffect_kept dt s)
  | .canopyHold dt, s => .kept (execCanopyHold_kept dt s)
  | .canopyResume dt, s => .kept (execCanopyResume_kept dt s)
  | .sourceGapRemove dt, s => .kept (execSourceGapRemove_kept dt s)
  | .tenantEnable dt t, s => .kept (execTenantEnable_kept dt t s)
  | .tenantDisable dt t, s => .kept (execTenantDisable_kept dt t s)
  | .keyWrite dt t k0 k1 k2 k3, s => .kept (execKeyWrite_kept dt t k0 k1 k2 k3 s)
  -- Queues and the store
  | .producerAdmit dt q place, s => .kept (execProducerAdmit_kept dt q place s)
  | .queueWordWrite dt q, s => .kept (execQueueWordWrite_kept dt q s)
  | .headMove dt q, s => .kept (execHeadMove_kept dt q s)
  | .spill dt q, s => .kept (execSpill_kept dt q s)
  | .allocationEnd dt q, s => .kept (execAllocationEnd_kept dt q s)
  | .releaseEnd dt q, s => .kept (execReleaseEnd_kept dt q s)
  | .refill dt q bad, s => .kept (execRefill_kept dt q bad s)
  | .verifyPass dt q, s => .kept (execVerifyPass_kept dt q s)
  | .verifyPassEnd dt q bad, s => .kept (execVerifyPassEnd_kept dt q bad s)
  | .gapWordWrite dt q, s => .kept (execGapWordWrite_kept dt q s)
  | .clear dt q, s => .kept (execClear_kept dt q s)
  | .clearingEffect dt q, s => .kept (execClearingEffect_kept dt q s)
  | .clearingEnd dt q, s => .kept (execClearingEnd_kept dt q s)
  | .blkFreeRead dt, s => .kept (execBlkFreeRead_kept dt s)
  | .crGuarUsedRead dt, s => .kept (execCrGuarUsedRead_kept dt s)
  -- Management port
  | .read dt arg cnt crc rest, s => .kept (execRead_kept dt arg cnt crc rest s)
  | .write dt arg data crc, s => .kept (execWrite_kept dt arg data crc s)
  | .qread dt arg n crc, s => .kept (execQread_kept dt arg n crc s)
  | .qreadRepeat dt q n crc, s => .kept (execQreadRepeat_kept dt q n crc s)
  | .qreadWaitEnd dt, s => .kept (execQreadWaitEnd_kept dt s)
  | .qreadAbandon dt, s => .kept (execQreadAbandon_kept dt s)
  | .qwrite dt arg words crc, s => .kept (execQwrite_kept dt arg words crc s)
  | .qwriteDone dt, s => .kept (execQwriteDone_kept dt s)
  | .qwriteCsRise dt, s => .kept (execQwriteCsRise_kept dt s)
  | .status dt arg cnt crc, s => .kept (execStatus_kept dt arg cnt crc s)
  | .unknownOpcode dt op arg cnt crc, s => .kept (execUnknownOpcode_kept dt op arg cnt crc s)
  | .frameAbort dt, s => .kept (execFrameAbort_kept dt s)
  | .windowSpaceWrite dt w value, s => .kept (execWindowSpaceWrite_kept dt w value s)
  | .hcmdGo dt, s => .kept (execHcmdGo_kept dt s)
  | .bodyClr dt, s => .kept (execBodyClr_kept dt s)
  | .hcmdBodyWrite dt value, s => .kept (execHcmdBodyWrite_kept dt value s)
  | .registerWrite dt space addr value, s => .kept (execRegisterWrite_kept dt space addr value s)
  -- Uplinks and listeners
  | .ethFrameReceived dt u frame rxer, s => .kept (execEthFrameReceived_kept dt u frame rxer s)
  | .arpRequest dt u, s => .kept (execArpRequest_kept dt u s)
  | .echoRequest dt u, s => .kept (execEchoRequest_kept dt u s)
  | .subscribe dt u, s => .kept (execSubscribe_kept dt u s)
  | .pull dt u bad, s => .kept (execPull_kept dt u bad s)
  | .command dt u, s => .kept (execCommand_kept dt u s)
  | .talkerStatus dt u, s => .kept (execTalkerStatus_kept dt u s)
  | .tenantStatus dt u, s => .kept (execTenantStatus_kept dt u s)
  | .refusalSend u, s => .kept (execRefusalSend_kept u s)
  | .mdioFrame dt value, s => .kept (execMdioFrame_kept dt value s)
  | .mdioFrameEnd rdata, s => .kept (execMdioFrameEnd_kept rdata s)
  | .autopollRead dt u reg1, s => .kept (execAutopollRead_kept dt u reg1 s)
  | .uplinkRecordTake dt u t bad, s => .kept (execUplinkRecordTake_kept dt u t bad s)
  | .batchClose dt t, s => .kept (execBatchClose_kept dt t s)
  | .datagramBuild dt u, s => .kept (execDatagramBuild_kept dt u s)
  | .datagramHandoff dt u, s => .kept (execDatagramHandoff_kept dt u s)
  | .uplinkLeaveRetry u, s => .kept (execUplinkLeaveRetry_kept u s)
  | .uplinkLeaveRelease u, s => .kept (execUplinkLeaveRelease_kept u s)
  | .listenerRender dt p bad, s => .kept (execListenerRender_kept dt p bad s)
  | .listenerRenderDone dt p, s => .kept (execListenerRenderDone_kept dt p s)
  -- Guards
  | .gread dt who reg count o, s => .kept (execGread_kept dt who reg count o s)
  | .gwrite dt wide j o, s => .kept (execGwrite_kept dt wide j o s)
  | .trimStart dt p o, s => .kept (execTrimStart_kept dt p o s)
  | .sliceStart dt p o, s => .kept (execSliceStart_kept dt p o s)
  | .pwrSwitch dt p on vfield o, s => .kept (execPwrSwitch_kept dt p on vfield o s)
  | .alertFetch dt k startLines o, s => .kept (execAlertFetch_kept dt k startLines o s)
  | .ident dt k o, s => .kept (execIdent_kept dt k o s)
  | .fwBlock dt k o, s => .kept (execFwBlock_kept dt k o s)
  | .fwActivate dt k o, s => .kept (execFwActivate_kept dt k o s)
  | .glAlertN dt, s => .kept (execGlAlertN_kept dt s)
  | .shadowRefresh dt k vfield temp meas o, s => .kept (execShadowRefresh_kept dt k vfield temp meas o s)
  | .cmFault dt p, s => .kept (execCmFault_kept dt p s)
  | .pwrEnSet dt p, s => .kept (execPwrEnSet_kept dt p s)
  | .pwrEnClear dt p, s => .kept (execPwrEnClear_kept dt p s)
  | .inrushTimerExpiry p reached, s => .kept (execInrushTimerExpiry_kept p reached s)
  | .pwrFault dt p cause, s => .kept (execPwrFault_kept dt p cause s)
  | .retryWaitExpiry p, s => .kept (execRetryWaitExpiry_kept p s)
  | .trimReq dt p, s => .kept (execTrimReq_kept dt p s)
  | .trimWanted dt p temp, s => .kept (execTrimWanted_kept dt p temp s)
  | .guardLineEnable dt p, s => .kept (execGuardLineEnable_kept dt p s)
  | .trimDeferTimeout p, s => .kept (execTrimDeferTimeout_kept p s)
  | .trimEnd dt p codes, s => .kept (execTrimEnd_kept dt p codes s)
  | .leakMeasurementStart p, s => .kept (execLeakMeasurementStart_kept p s)
  | .sliceSkip dt p, s => .kept (execSliceSkip_kept dt p s)
  | .sliceEnd p kohm, s => .kept (execSliceEnd_kept p kohm s)
  | .slicePreempt dt p, s => .kept (execSlicePreempt_kept dt p s)
  | .leakWindowExpiry p, s => .kept (execLeakWindowExpiry_kept p s)
  | .guardDieHot dt k temp, s => .kept (execGuardDieHot_kept dt k temp s)
  -- Leave
  | .leaveGrant dt, s => .kept (execLeaveGrant_kept dt s)
  | .leaveTimeout, s => .kept (execLeaveTimeout_kept s)
  | .budgetWrite dt field units, s => .kept (execBudgetWrite_kept dt field units s)
  | .budgetChangeEffect dt, s => .kept (execBudgetChangeEffect_kept dt s)
  | .lvLedgerRead dt, s => .kept (execLvLedgerRead_kept dt s)
  | .dieTempUpdate dt temp, s => .kept (execDieTempUpdate_kept dt temp s)
  -- Field update, flash and logs
  | .ping dt svcEn raw, s => .kept (execPing_kept dt svcEn raw s)
  | .info dt svcEn raw, s => .kept (execInfo_kept dt svcEn raw s)
  | .setBaud dt svcEn raw, s => .kept (execSetBaud_kept dt svcEn raw s)
  | .svcBaudFallback, s => .kept (execSvcBaudFallback_kept s)
  | .begin_ dt svcEn raw, s => .kept (execBegin_kept dt svcEn raw s)
  | .block dt svcEn raw, s => .kept (execBlock_kept dt svcEn raw s)
  | .end_ dt svcEn raw, s => .kept (execEnd_kept dt svcEn raw s)
  | .activateParts dt svcEn raw, s => .kept (execActivateParts_kept dt svcEn raw s)
  | .activateCore dt svcEn raw, s => .kept (execActivateCore_kept dt svcEn raw s)
  | .abort dt svcEn raw, s => .kept (execAbort_kept dt svcEn raw s)
  | .svcStatus dt svcEn raw, s => .kept (execSvcStatus_kept dt svcEn raw s)
  | .restart dt svcEn raw, s => .kept (execRestart_kept dt svcEn raw s)
  | .gfActivationEnd dt k startLines o, s => .kept (execGfActivationEnd_kept dt k startLines o s)
  | .gfActivationTimeout k, s => .kept (execGfActivationTimeout_kept k s)
  | .gfRestoreRetry k, s => .kept (execGfRestoreRetry_kept k s)
  | .pmActivation dt, s => .kept (execPmActivation_kept dt s)
  | .pmSelfTestEnd dt pass startLines, s => .kept (execPmSelfTestEnd_kept dt pass startLines s)
  | .serviceResumed dt, s => .kept (execServiceResumed_kept dt s)
  | .cfConfirm dt, s => .kept (execCfConfirm_kept dt s)
  | .cfRevert, s => .kept (execCfRevert_kept s)
  | .rejectionMarkRetry, s => .kept (execRejectionMarkRetry_kept s)
  | .journalCommit dt, s => .kept (execJournalCommit_kept dt s)
  | .flashProgramDone dt bad, s => .excepted rfl (execFlashProgramDone_kept dt bad s)
  | .flashEraseDone dt bad, s => .excepted rfl (execFlashEraseDone_kept dt bad s)
  | .eventNotice dt, s => .kept (execEventNotice_kept dt s)
  | .ringPageWrite dt, s => .kept (execRingPageWrite_kept dt s)
  | .ringPageRetry, s => .kept (execRingPageRetry_kept s)
  -- Rows at the end of the table
  | .startBitValidated dt p, s => .kept (execStartBitValidated_kept dt p s)
  | .possibleBreakIdle dt p, s => .kept (execPossibleBreakIdle_kept dt p s)
  | .huntResumeAfterBreak dt p, s => .kept (execHuntResumeAfterBreak_kept dt p s)
  | .cmFaultEnd dt p, s => .kept (execCmFaultEnd_kept dt p s)
  | .guardVddioReturn dt k, s => .kept (execGuardVddioReturn_kept dt k s)
  | .cardDebounceStart dt n, s => .kept (execCardDebounceStart_kept dt n s)

end Sys2Proof.Machine

section

open Sys2Proof Sys2Proof.Machine

/-- Settles O1: a state whose queue has `c` before `s.pending` is `s` again without that `c`. -/
theorem stepTakesFront : Obligations.StepTakesFront := by
  intro c s
  exact step_of_pending rfl

/-- Settles O57, from what each command's meaning keeps. -/
theorem everyCommandKeepsTheQueueAndTheVariant : Obligations.EveryCommandKeepsTheQueueAndTheVariant := by
  intro c s
  obtain ⟨t, hexec, -, hvariant, hpending⟩ := exec_keeps c s
  exact ⟨t, hexec, hpending, hvariant⟩

end

end

section

/-! ### What the register operations and the queue operations touch -/

open Sys2Proof.Safety

namespace Sys2Proof.Machine

theorem qGet_congr {s t : State} (h : t.queues = s.queues) (q : Nat) : qGet q t = qGet q s := by
  unfold qGet; rw [h]

/-- A change of state that leaves every queue, and every field but those at the listed places. -/
def TouchesOnly (ks : List Nat) (s t : State) : Prop :=
  t.queues = s.queues ∧ ∀ g j, g.key j ∉ ks → get g j t = get g j s

theorem TouchesOnly.trans {ks : List Nat} {s t u : State} (h : TouchesOnly ks s t) (h' : TouchesOnly ks t u) :
    TouchesOnly ks s u :=
  ⟨h'.1.trans h.1, fun g j hk => (h'.2 g j hk).trans (h.2 g j hk)⟩

/-- A change of other units than the queues and the register file. -/
theorem TouchesOnly.of_fields {ks : List Nat} {s t : State} (hq : t.queues = s.queues) (hr : t.regs = s.regs)
    (hv : t.variant = s.variant) (hf : t.flash = s.flash) : TouchesOnly ks s t :=
  ⟨hq, fun g j _ => get_congr g j hr hv hf⟩

theorem touchesOnly_refl (ks : List Nat) (s : State) : TouchesOnly ks s s := .of_fields rfl rfl rfl rfl

theorem touchesOnly_put {ks : List Nat} {f : Fld} {i : Nat} (h : f.key i ∈ ks) (v : Nat) (s : State) :
    TouchesOnly ks s (put f i v s) :=
  ⟨rfl, fun _ _ hk => get_put_ne (ne_of_mem_of_not_mem h hk).symm v s⟩

theorem touchesOnly_putHw {ks : List Nat} {f : Fld} {i : Nat} (h : f.key i ∈ ks) (v : Nat) (s : State) :
    TouchesOnly ks s (putHw f i v s) := by
  unfold putHw
  split
  · exact touchesOnly_refl ks s
  · exact touchesOnly_put h v s

theorem touchesOnly_bump {ks : List Nat} {f : Fld} {i : Nat} (h : f.key i ∈ ks) (s : State) :
    TouchesOnly ks s (bump f i s) :=
  ⟨rfl, fun _ _ hk => get_bump_ne (ne_of_mem_of_not_mem h hk).symm s⟩

theorem touchesOnly_raise {ks : List Nat} {f g : Fld} {i : Nat} (hf : f.key 0 ∈ ks) (hg : g.key i ∈ ks) (s : State) :
    TouchesOnly ks s (raise f g i s) :=
  ⟨rfl, fun _ _ hk => get_raise_ne (ne_of_mem_of_not_mem hf hk).symm (ne_of_mem_of_not_mem hg hk).symm s⟩

theorem touchesOnly_pMap (ks : List Nat) (p : Nat) (f : Port → Port) (s : State) : TouchesOnly ks s (pMap p f s) :=
  .of_fields rfl rfl rfl rfl

/-- The high-water marks of a queue are all that `qMarks` touches. -/
theorem touchesOnly_qMarks (q : Nat) (s : State) :
    TouchesOnly [CN.WORDS_HWM.key q, CN.USED_HWM.key q] s (qMarks q s) := by
  unfold qMarks
  dsimp only
  have hwords (v : Nat) : TouchesOnly [CN.WORDS_HWM.key q, CN.USED_HWM.key q] s (putHw CN.WORDS_HWM q v s) :=
    touchesOnly_putHw (by simp) v s
  have hused (v : Nat) (t : State) : TouchesOnly [CN.WORDS_HWM.key q, CN.USED_HWM.key q] t (putHw CN.USED_HWM q v t) :=
    touchesOnly_putHw (by simp) v t
  split <;> split
  · exact (hwords _).trans (hused _ _)
  · exact hwords _
  · exact hused _ _
  · exact touchesOnly_refl _ s

/-- A counter never counts past its width. -/
theorem count_lt (f : Fld) (a n : Nat) : f.count a n < 2 ^ f.width := by
  have hpos : 0 < 2 ^ f.width := by positivity
  unfold Fld.count
  split
  · omega
  · exact Nat.mod_lt _ hpos

/-- A counter that counts once holds its old value, counted. -/
theorem get_bump_same (f : Fld) (i : Nat) (s : State) : get f i (bump f i s) = f.count (get f i s) 1 :=
  (get_bumpBy_same f i 1 s).trans (Nat.mod_eq_of_lt (count_lt f _ 1))

/-- A one-bit field that hardware sets reads 1. -/
theorem get_setBits_one {f : Fld} (h : f.width = 1) (i : Nat) (s : State) : get f i (setBits f i 1 s) = 1 := by
  have hlt := get_lt f i s
  rw [h] at hlt
  rw [get_setBits_same, h]
  generalize get f i s = v at *
  interval_cases v <;> rfl

/-- An event shows in its source bit and in its bit of IRQ_STATUS. -/
theorem get_raise_one {f g : Fld} {i : Nat} (hf : f.width = 1) (hg : g.width = 1) (hk : g.key i ≠ f.key 0) (s : State) :
    get g i (raise f g i s) = 1 ∧ get f 0 (raise f g i s) = 1 :=
  ⟨(get_setBits_ne hk 1 _).trans (get_setBits_one hg i s), get_setBits_one hf 0 _⟩

/-! ### CLEAR: the request -/

/-- What a taken write of CLEAR 1 leaves, where CLEAR read 0 (R567). -/
theorem requestClear_of_zero {q : Nat} {s : State} (h : get QU.CLEAR q s = 0) :
    requestClear q s = qMap q (fun c => { c with clearWanted := true }) (put QU.CLEAR q 1 s) := by
  unfold requestClear
  rw [if_neg (by omega)]

/-- Q_CTRL of a queue is a plain word: CLEAR alone. -/
theorem plainWord_qCtrl (q : Nat) : PlainWord QU.CLEAR.space (wordOf QU.CLEAR q) := by
  refine plainWord_of (off := 0) (i := q) (l := fldsQU) ?_ rfl (by decide)
  show fieldsIn fldsQU ((8 * q + 0) % 8) ((8 * q + 0) / 8) = fieldsIn fldsQU 0 q
  congr 1 <;> omega

theorem clear_mem_qCtrl (q : Nat) : (QU.CLEAR, q) ∈ wordFields QU.CLEAR.space (wordOf QU.CLEAR q) := by
  show (QU.CLEAR, q) ∈ fieldsIn fldsQU ((8 * q + 0) % 8) ((8 * q + 0) / 8)
  rw [show (8 * q + 0) % 8 = 0 by omega, show (8 * q + 0) / 8 = q by omega]
  exact List.mem_map_of_mem (by decide)

/-- A taken write of CLEAR 1 asks for a Clearing. -/
theorem setFields_clear {q : Nat} {s : State} (h : taken q QU.CLEAR [(QU.CLEAR, 1)] s) :
    wrote q QU.CLEAR [(QU.CLEAR, 1)] (requestClear q) s (setFields q [(QU.CLEAR, 1)] s) := by
  have hfs : ∀ y ∈ [(QU.CLEAR, 1)], (y.1, q) ∈ wordFields QU.CLEAR.space (wordOf QU.CLEAR q) ∧ y.1.acc ≠ .w1c := by
    intro y hy
    rw [List.mem_singleton.mp hy]
    exact ⟨clear_mem_qCtrl q, by decide⟩
  refine setFields_wrote q QU.CLEAR 1 [] s (requestClear q) h (plainWord_qCtrl q) rfl (by decide) (.inr (by decide)) hfs
    (List.pairwise_singleton ..) ?_
  intro M w hw
  have hsent : bits M 0 1 = 1 := hw.sent (QU.CLEAR, 1) (by simp)
  have hasks : asks QU.CLEAR M = true := by simpa [asks, bitOf, bits, QU.CLEAR] using hsent
  have hword : wordOf QU.CLEAR q % 8 = 0 ∧ wordOf QU.CLEAR q / 8 = q := by
    simp only [wordOf, QU.CLEAR]; omega
  show (wordActs 7 (wordOf QU.CLEAR q) M s w).2.foldl (fun a f => f a) (wordActs 7 (wordOf QU.CLEAR q) M s w).1 = _
  simp only [wordActs, hword, hasks, and_self, if_true, List.foldl_cons, List.foldl_nil]

/-- CLEAR of a queue is no field that passing time can change. -/
theorem get_clear_elapse {q : Nat} (hq : q < 226) (dt : Nat) (s : State) :
    get QU.CLEAR q (elapse dt s) = get QU.CLEAR q s := by
  refine get_elapse ?_ dt s
  simp only [timeKeys, queueKeys, Fld.key, QU.CLEAR, QU.FULL, RG.IRQ_EVENT, RG.IRQ_QUEUE, RG.EVENT_LOST_CNT, CN.RECORDS_IN,
    CN.GAP_CNT, CN.WORDS_IN, CN.FULL_CNT, CN.WORDS_HWM, CN.USED_HWM, EL.NEXT_SEQ, EL.FLASH_NEXT, List.mem_append,
    List.mem_cons, List.not_mem_nil, or_false]
  omega

/-- What a Clearing makes of queue `q` between two states: no word but at most one in the head, the gap register with the
late drops of this CORE cycle alone, the blocks detached, and no Clearing asked for (R569, R572). -/
structure Emptied (q : Nat) (s t : State) : Prop where
  mid : (qGet q t).mid = []
  tail : (qGet q t).tail = []
  head : (qGet q t).head.length ≤ 1
  gap : (qGet q t).gap = (s.cyc.late.filter fun e => e.1 == q).foldl (fun g e => g.late e.2) ⟨0, 0, 0, 0, 0⟩
  asked : (qGet q t).clearWanted = false
  detached : (qGet q t).detached = (qGet q s).used

/-- What a Clearing shows in the registers: CLEARED with its bit of IRQ_STATUS, and one more in CLEAR_CNT. -/
structure ClearingShown (q : Nat) (s t : State) : Prop where
  cleared : get QU.CLEARED q t = 1
  irq : get RG.IRQ_QUEUE 0 t = 1
  count : get CN.CLEAR_CNT q t = CN.CLEAR_CNT.count (get CN.CLEAR_CNT q s) 1

theorem Emptied.congr {q : Nat} {s t u : State} (h : Emptied q s t) (hq : u.queues = t.queues) : Emptied q s u := by
  obtain ⟨hmid, htail, hhead, hgap, hasked, hdetached⟩ := h
  rw [← qGet_congr hq q] at hmid htail hhead hgap hasked hdetached
  exact ⟨hmid, htail, hhead, hgap, hasked, hdetached⟩

/-- The fields in which a Clearing shows. -/
def clearingKeys (q : Nat) : List Nat := [QU.CLEARED.key q, RG.IRQ_QUEUE.key 0, CN.CLEAR_CNT.key q]

/-- A change elsewhere in the registers leaves what the Clearing of `q` came to. -/
theorem ClearingShown.touched {q : Nat} {s t u : State} {ks : List Nat} (h : ClearingShown q s t)
    (hu : TouchesOnly ks t u) (hk : ∀ k ∈ clearingKeys q, k ∉ ks) : ClearingShown q s u := by
  have hcleared := hu.2 QU.CLEARED q (hk _ (by simp [clearingKeys]))
  have hirq := hu.2 RG.IRQ_QUEUE 0 (hk _ (by simp [clearingKeys]))
  have hcount := hu.2 CN.CLEAR_CNT q (hk _ (by simp [clearingKeys]))
  exact ⟨hcleared.trans h.cleared, hirq.trans h.irq, hcount.trans h.count⟩

/-- The last part of a Clearing: its event, its count and the marks. -/
theorem clearingShown_of {q : Nat} (hq : q < 226) {s x : State} (hx : get CN.CLEAR_CNT q x = get CN.CLEAR_CNT q s) :
    ClearingShown q s (qMarks q (raise RG.IRQ_QUEUE QU.CLEARED q (bump CN.CLEAR_CNT q x))) := by
  have hmarks : ∀ k ∈ clearingKeys q, k ∉ [CN.WORDS_HWM.key q, CN.USED_HWM.key q] := by
    simp only [clearingKeys, Fld.key, QU.CLEARED, RG.IRQ_QUEUE, CN.CLEAR_CNT, CN.WORDS_HWM, CN.USED_HWM, List.mem_cons,
      List.not_mem_nil, or_false]
    omega
  have hevent := get_raise_one (f := RG.IRQ_QUEUE) (g := QU.CLEARED) (i := q) rfl rfl
    (by simp only [Fld.key, QU.CLEARED, RG.IRQ_QUEUE]; omega) (bump CN.CLEAR_CNT q x)
  have hcount : get CN.CLEAR_CNT q (raise RG.IRQ_QUEUE QU.CLEARED q (bump CN.CLEAR_CNT q x)) =
      CN.CLEAR_CNT.count (get CN.CLEAR_CNT q s) 1 := by
    rw [get_raise_ne (by simp only [Fld.key, CN.CLEAR_CNT, RG.IRQ_QUEUE]; omega)
      (by simp only [Fld.key, CN.CLEAR_CNT, QU.CLEARED]; omega), get_bump_same, hx]
  exact ClearingShown.touched ⟨hevent.1, hevent.2, hcount⟩ (touchesOnly_qMarks q _) hmarks

/-- A Clearing counts its own GAP word, where it leaves one. -/
theorem touchesOnly_gapCounted (q : Nat) (noGap : Prop) [Decidable noGap] (s : State) :
    TouchesOnly [CN.WORDS_IN.key q, CN.GAP_CNT.key q] s
      (if noGap then s else bump CN.WORDS_IN q (bump CN.GAP_CNT q s)) := by
  split
  · exact touchesOnly_refl ..
  · exact (touchesOnly_bump (by simp) s).trans (touchesOnly_bump (by simp) _)

/-- A Clearing empties its queue first, and then shows; it leaves the ports (R569, R570, R572). -/
theorem clearingEffect_form (q : Nat) (s : State) :
    ∃ x, clearingEffect q s = qMarks q (raise RG.IRQ_QUEUE QU.CLEARED q (bump CN.CLEAR_CNT q x)) ∧ Emptied q s x ∧
      get CN.CLEAR_CNT q x = get CN.CLEAR_CNT q s ∧ (clearingEffect q s).ports = s.ports := by
  unfold clearingEffect
  extract_lets c starts opening n inLane m w c' emptied store laned released counted
  have htouched : TouchesOnly [CN.WORDS_IN.key q, CN.GAP_CNT.key q] released counted :=
    touchesOnly_gapCounted q (n = 0) released
  have hhead : w.length ≤ 1 := by
    simp only [w]
    split <;> simp
  have hfirst : Emptied q s emptied := by
    constructor <;> rw [show qGet q emptied = c' from qGet_qSet_same q c' s]
    exact hhead
  have hcount : get CN.CLEAR_CNT q counted = get CN.CLEAR_CNT q released :=
    htouched.2 CN.CLEAR_CNT q (by
      simp only [Fld.key, CN.CLEAR_CNT, CN.WORDS_IN, CN.GAP_CNT, List.mem_cons, List.not_mem_nil, or_false]
      omega)
  have hports : counted.ports = s.ports := by
    simp only [counted]
    split
    · rfl
    · simp only [bump_fields]; rfl
  exact ⟨counted, rfl, hfirst.congr htouched.1, hcount, by simpa using hports⟩

/-- The Clearing of a queue (R569, R570, R572). -/
theorem clearingEffect_spec {q : Nat} (hq : q < 226) (s : State) :
    Emptied q s (clearingEffect q s) ∧ ClearingShown q s (clearingEffect q s) ∧ (clearingEffect q s).ports = s.ports := by
  obtain ⟨x, hform, hempty, hcount, hports⟩ := clearingEffect_form q s
  refine ⟨?_, ?_, hports⟩ <;> rw [hform]
  · exact hempty.congr (by simp)
  · exact clearingShown_of hq hcount

/-! ### What a Clearing does outside its queue -/

/-- The fields that the transmitter of port `p` may change when its queue is cleared: a break gives its leave back, or one that
waits is held by trim (R188, R734). -/
def txClearedKeys (p : Nat) : List Nat :=
  [RG.FIELD_CHANGE.key 0, RG.IRQ_LINE.key 0, PT.EV_TX_HELD.key p, PT.TX_HELD.key p]

theorem touchesOnly_withdrawBreak (ks : List Nat) (p : Nat) (s : State) :
    TouchesOnly ks s (withdrawLeave (.brk p) s) := .of_fields rfl rfl rfl rfl

theorem touchesOnly_releaseBreak (p : Nat) (s : State) :
    TouchesOnly (txClearedKeys p) s (releaseLeave (.brk p) s) := by
  unfold releaseLeave checkBudget
  split
  · refine TouchesOnly.trans ?_ (touchesOnly_put (by simp [txClearedKeys, changeF, LeaveKind.pool]) ..)
    exact .of_fields rfl rfl rfl rfl
  · exact .of_fields rfl rfl rfl rfl

theorem touchesOnly_holdBreak (p : Nat) (s : State) : TouchesOnly (txClearedKeys p) s (holdBreak p false s) := by
  unfold holdBreak countHeld
  rw [if_neg (by decide)]
  split
  · exact touchesOnly_refl ..
  · exact ((touchesOnly_bump (by simp [txClearedKeys]) s).trans
      (touchesOnly_raise (by simp [txClearedKeys]) (by simp [txClearedKeys]) _)).trans (touchesOnly_pMap ..)

theorem touchesOnly_askBreak (ks : List Nat) (p : Nat) (directive : Bool) (s : State) :
    TouchesOnly ks s (askBreak p directive s) := by
  have hrequest (units limit : Nat) (t : State) : TouchesOnly ks t (requestLeave (.brk p) units limit false t) :=
    .of_fields rfl rfl rfl rfl
  unfold askBreak
  exact (touchesOnly_pMap ks p _ s).trans (hrequest ..)

theorem touchesOnly_servePendingBreak (p : Nat) (s : State) :
    TouchesOnly (txClearedKeys p) s (servePendingBreak p s) := by
  unfold servePendingBreak
  split
  · split
    · exact touchesOnly_holdBreak p s
    · exact (touchesOnly_pMap ..).trans (touchesOnly_askBreak ..)
  · exact touchesOnly_refl ..

/-- With no request in its transmit queue, a port whose queue is cleared ends at most a break. -/
theorem touchesOnly_txCleared {p : Nat} {s : State} (h : (pGet p s).txq = []) :
    TouchesOnly (txClearedKeys p) s (txCleared p s) := by
  unfold txCleared
  rw [h]
  dsimp only [List.foldl_nil]
  refine TouchesOnly.trans ?_ (touchesOnly_servePendingBreak p _)
  refine TouchesOnly.trans ?_ (touchesOnly_pMap ..)
  split
  · exact ((touchesOnly_withdrawBreak _ p s).trans (touchesOnly_releaseBreak p _)).trans (touchesOnly_pMap ..)
  · split
    · exact touchesOnly_pMap ..
    · exact touchesOnly_refl ..

/-- Outside its queue, a Clearing changes no queue and none of the fields in which it shows. -/
theorem touchesOnly_clearingOutside {q : Nat} {s : State} (h : 48 ≤ q → q < 96 → (pGet (q - 48) s).txq = []) :
    TouchesOnly (txClearedKeys (q - 48)) s (clearingOutside q s) := by
  unfold clearingOutside
  extract_lets cleared
  have hcleared : TouchesOnly (txClearedKeys (q - 48)) s cleared := by
    simp only [cleared]
    split
    · next hp => exact touchesOnly_txCleared (h hp.1 hp.2)
    · exact touchesOnly_refl ..
  refine hcleared.trans ?_
  split
  · split
    · exact .of_fields rfl rfl rfl rfl
    · exact touchesOnly_refl ..
  · exact touchesOnly_refl ..

theorem clearingKeys_not_mem_txClearedKeys {q : Nat} (hq : q < 226) :
    ∀ k ∈ clearingKeys q, k ∉ txClearedKeys (q - 48) := by
  simp only [clearingKeys, txClearedKeys, Fld.key, QU.CLEARED, RG.IRQ_QUEUE, CN.CLEAR_CNT, RG.FIELD_CHANGE, RG.IRQ_LINE,
    PT.EV_TX_HELD, PT.TX_HELD, List.mem_cons, List.not_mem_nil, or_false]
  omega

/-! ### The rows of a Clearing -/

/-- CLEAR 1, taken while CLEAR reads 0 (R567). -/
theorem execClear_asks {dt q : Nat} {s : State} (hq : q < 226) (ht : taken q QU.CLEAR [(QU.CLEAR, 1)] (elapse dt s))
    (h0 : get QU.CLEAR q s = 0) :
    ∃ t, execClear dt q s = .next t ∧ t.mp.answer = 0 ∧ get QU.CLEAR q t = 1 ∧ (qGet q t).clearWanted = true ∧
      (qGet q t).words = (qGet q (elapse dt s)).words := by
  obtain ⟨w, l, hunits, -, hrest, -, ht'⟩ := setFields_clear ht
  have hw0 : get QU.CLEAR q w = 0 := by
    rw [hrest _ (clear_mem_qCtrl q) (.inr (show QU.CLEAR.acc ≠ .rw by decide)), get_clear_elapse hq, h0]
  have hqueues : w.queues = (elapse dt s).queues := by rw [hunits]
  rw [requestClear_of_zero hw0] at ht'
  refine ⟨_, rfl, ?_⟩
  rw [ht']
  have hput : qGet q (put QU.CLEAR q 1 w) = qGet q (elapse dt s) := qGet_congr hqueues q
  refine ⟨rfl, get_put_same QU.CLEAR q 1 w, ?_, ?_⟩
  · exact congrArg Queue.clearWanted (qGet_qMap_same q (fun c => { c with clearWanted := true }) (put QU.CLEAR q 1 w))
  · have h := congrArg Queue.words (qGet_qMap_same q (fun c => { c with clearWanted := true }) (put QU.CLEAR q 1 w))
    rw [hput] at h
    exact h

/-- The Clearing itself, once the consumer is outside a record (R568, R569). -/
theorem execClearingEffect_clears {dt q : Nat} {s : State} (hq : q < 226)
    (htx : 48 ≤ q → q < 96 → (pGet (q - 48) s).txq = []) (hwanted : (qGet q (elapse dt s)).clearWanted = true)
    (hinside : (qGet q (elapse dt s)).inside = false) :
    ∃ t, execClearingEffect dt q s = .next t ∧ Emptied q (elapse dt s) t ∧ ClearingShown q (elapse dt s) t := by
  obtain ⟨hempty, hshown, hports⟩ := clearingEffect_spec hq (elapse dt s)
  have houtside : TouchesOnly (txClearedKeys (q - 48)) (clearingEffect q (elapse dt s))
      (clearingOutside q (clearingEffect q (elapse dt s))) :=
    touchesOnly_clearingOutside (fun hlo hhi => by simpa [pGet, hports] using htx hlo hhi)
  refine ⟨clearingOutside q (clearingEffect q (elapse dt s)), ?_, hempty.congr houtside.1,
    hshown.touched houtside (clearingKeys_not_mem_txClearedKeys hq)⟩
  simp [execClearingEffect, insideRecord, hwanted, hinside]

/-- No Clearing takes place that is not asked for, or while the consumer is inside a record (R568). -/
theorem execClearingEffect_idle {dt q : Nat} {s : State}
    (h : (qGet q (elapse dt s)).clearWanted = false ∨ (qGet q (elapse dt s)).inside = true) :
    execClearingEffect dt q s = .next (elapse dt s) := by
  simp only [execClearingEffect, insideRecord]
  rcases h with h | h <;> simp [h]

/-- The end of a Clearing, none of whose blocks is left (R571). -/
theorem clearingEnd_of_done {q : Nat} {s : State} (hclear : get QU.CLEAR q s = 1)
    (hwanted : (qGet q s).clearWanted = false) (hdetached : (qGet q s).detached = 0) :
    clearingEnd q s = if s.cyc.sw.contains (QU.CLEAR.key q) then qMap q (fun c => { c with clearWanted := true }) s
      else put QU.CLEAR q 0 s := by
  unfold clearingEnd
  rw [if_pos (by simp [hclear, hwanted, hdetached])]

/-- A Clearing with blocks left, or none at all, does not end. -/
theorem clearingEnd_of_not_done {q : Nat} {s : State} (h : get QU.CLEAR q s ≠ 1 ∨ (qGet q s).detached ≠ 0) :
    clearingEnd q s = s := by
  unfold clearingEnd
  rw [if_neg (by rcases h with h | h <;> simp [h])]

end Sys2Proof.Machine

section

open Sys2Proof Sys2Proof.Machine

/-- Settles O34, clause by clause: the request, the Clearing, no Clearing, its end, its end in the cycle of a software write,
no end. -/
theorem clearingEmptiesAQueue : Obligations.ClearingEmptiesAQueue := by
  refine ⟨fun dt q s => execClear_asks, ?clears, fun dt q s => execClearingEffect_idle, ?ends, ?again, ?stays⟩
  case clears =>
    intro dt q s hq htx hwanted hinside
    obtain ⟨t, hexec, hempty, hshown⟩ := execClearingEffect_clears hq htx hwanted hinside
    exact ⟨t, hexec, hempty.mid, hempty.tail, hempty.head, hempty.gap, hempty.asked, hempty.detached, hshown.cleared,
      hshown.irq, hshown.count⟩
  case ends =>
    intro dt q s hclear hwanted hdetached hsw
    have hend := clearingEnd_of_done hclear hwanted hdetached
    rw [hsw, if_neg Bool.false_ne_true] at hend
    exact ⟨_, congrArg Host.Outcome.next hend, get_put_same QU.CLEAR q 0 _, rfl⟩
  case again =>
    intro dt q s hclear hwanted hdetached hsw
    have hend := clearingEnd_of_done hclear hwanted hdetached
    rw [hsw, if_pos rfl] at hend
    exact ⟨_, congrArg Host.Outcome.next hend, hclear, congrArg Queue.clearWanted (qGet_qMap_same q _ _), rfl⟩
  case stays =>
    intro dt q s h
    exact congrArg Host.Outcome.next (clearingEnd_of_not_done h)

end

end

section

/-! ### Verify passes and spills: the words of a queue -/

namespace Sys2Proof.Machine

/-! #### Changing the words of a queue by their place -/

/-- A change of words that changes none of them leaves the middle. -/
theorem mapMid_id (base : Nat) (m : List Block) : mapMid (fun _ w => w) base m = m := by
  induction m generalizing base with
  | nil => rfl
  | cons b r ih => simp [mapMid, ih]

theorem mapWords_id (c : Queue) : c.mapWords (fun _ w => w) = c := by
  simp [Queue.mapWords, mapMid_id]

/-- Where no word failed, the store delivers each word as it is (R544). -/
theorem deliver_nil : deliver [] = fun _ w => w := rfl

theorem storeFaults_nil (lo n : Nat) : storeFaults lo n [] = [] := by
  simp [storeFaults]

theorem passFaults_nil (q : Nat) (s : State) : passFaults q [] s = [] := by
  simp [passFaults, storeFaults_nil]

/-! #### Verify passes (R546) -/

/-- A complete record at the head of a verified queue, its first word in the head and a word in the store. -/
theorem verifyPass_begins {q n : Nat} {w : QWord × Nat} {r : List (QWord × Nat)} {s : State} (hok : queueOk s q = true)
    (hqueue : verifiedQueue q = true) (hverified : (qGet q s).verified = false) (hverifying : (qGet q s).verifying = false)
    (hextent : (qGet q s).headExtent = some n) (hhead : (qGet q s).head = w :: r) (htag : w.1.tag = .start)
    (hlen : (qGet q s).head.length < n) (hmid : (qGet q s).mid ≠ []) :
    verifyPass q s = qMap q (fun c => { c with verifying := true }) s := by
  have hfirst : (qGet q s).words.head? = some w.1 := by simp [Queue.words, hhead]
  have hhead' : (qGet q s).head ≠ [] := by simp [hhead]
  unfold verifyPass
  simp [hok, hqueue, hverified, hverifying, hextent, hfirst, htag, hlen, hmid, hhead']

theorem verifyPass_idle {q : Nat} {s : State} (h : verifiedQueue q = false ∨ (qGet q s).verified = true ∨
    (qGet q s).verifying = true ∨ (qGet q s).headExtent = none) : verifyPass q s = s := by
  unfold verifyPass
  dsimp only
  rcases h with h | h | h | h <;> simp [h]

/-- No word of queue `q` is POISON. -/
def NoPoison (q : Nat) (s : State) : Prop := ∀ w ∈ (qGet q s).words, w.tag ≠ .poison

theorem NoPoison.take {q : Nat} {s : State} (h : NoPoison q s) (n : Nat) :
    ((qGet q s).words.take n).any (fun w => w.tag == .poison) = false := by
  simp only [List.any_eq_false, beq_iff_eq]
  exact fun w hw => h w (List.mem_of_mem_take hw)

theorem NoPoison.head {q : Nat} {s : State} (h : NoPoison q s) : ((qGet q s).words.head?.map QWord.tag) ≠ some .poison := by
  intro htag
  obtain ⟨w, hw, htag⟩ := Option.map_eq_some_iff.mp htag
  exact h w (List.mem_of_head? hw) htag

/-- The end of a pass that finds every word sound marks the record verified (R544, R546). -/
theorem verifyWords_sound {q : Nat} {s : State} (h : NoPoison q s) :
    verifyWords q [] s = qSet q { qGet q s with verified := true, verifying := false } s := by
  unfold verifyWords
  dsimp only
  rw [passFaults_nil, deliver_nil, mapWords_id, h.take]
  rfl

/-- A source's record whose word 0 stands is not discarded (R548). -/
theorem sourceDiscard_sound {q : Nat} {s : State} (h : NoPoison q s) : sourceDiscard q s = s := by
  unfold sourceDiscard
  rw [if_neg (by simp [h.head])]

/-- A transmit record without POISON is not discarded (R549). -/
theorem txDiscard_sound {p : Nat} {s : State} (h : NoPoison (48 + p) s) : txDiscard p s = s := by
  unfold txDiscard
  split
  · next ws hrec =>
    have hsome : ∃ n, ws = (qGet (48 + p) s).words.take n := by
      unfold headRecord at hrec
      dsimp only at hrec
      split at hrec
      · cases hrec
      · split at hrec
        · cases hrec
        · split at hrec
          · cases hrec
          · exact ⟨_, (Option.some.inj hrec).symm⟩
    obtain ⟨n, rfl⟩ := hsome
    rw [h.take, if_neg Bool.false_ne_true]
  · rfl

/-- VERIFY_PASS_END of a pass that finds every word sound. -/
theorem execVerifyPassEnd_sound {dt q : Nat} {s : State} (hverifying : (qGet q (elapse dt s)).verifying = true)
    (h : NoPoison q (passServed q [] (elapse dt s))) :
    execVerifyPassEnd dt q [] s = .next (qSet q
      { qGet q (passServed q [] (elapse dt s)) with verified := true, verifying := false } (passServed q [] (elapse dt s))) := by
  unfold execVerifyPassEnd
  dsimp only
  rw [hverifying, Bool.not_true, if_neg Bool.false_ne_true, verifyWords_sound h]
  generalize passServed q [] (elapse dt s) = e at *
  have hsame : NoPoison q (qSet q { qGet q e with verified := true, verifying := false } e) := by
    simpa [NoPoison, Queue.words, Queue.midWords] using h
  rw [sourceDiscard_sound hsame]
  split
  · next hq => rw [txDiscard_sound (by rwa [Nat.add_sub_cancel' hq.1])]
  · rfl

theorem execVerifyPassEnd_idle {dt q : Nat} {bad : List (Nat × BitVec 36)} {s : State}
    (h : (qGet q (elapse dt s)).verifying = false) : execVerifyPassEnd dt q bad s = .next (elapse dt s) := by
  simp [execVerifyPassEnd, h]

end Sys2Proof.Machine

section

open Sys2Proof Sys2Proof.Machine

/-- Settles O33, clause by clause: a pass begins, none is due, a pass ends with every word sound, none runs. -/
theorem recordsAreVerified : Obligations.RecordsAreVerified := by
  refine ⟨?begins, ?notDue, ?ends, fun dt q bad s => execVerifyPassEnd_idle⟩
  case begins =>
    intro dt q n w r s hok hqueue hverified hverifying hextent hhead htag hlen hmid
    have hok' : queueOk (elapse dt s) q = true := by simpa [queueOk] using hok
    exact ⟨_, congrArg Host.Outcome.next (verifyPass_begins hok' hqueue hverified hverifying hextent hhead htag hlen hmid),
      qGet_qMap_same q _ _, rfl⟩
  case notDue =>
    intro dt q s h
    exact congrArg Host.Outcome.next (verifyPass_idle h)
  case ends =>
    intro dt q e s he hverifying hsound
    have hpass := execVerifyPassEnd_sound hverifying (he ▸ hsound)
    rw [← he] at hpass
    refine ⟨_, hpass, ?_⟩
    rw [qGet_qSet_same]
    exact ⟨rfl, rfl, rfl, rfl⟩

end

end

section

/-! ### Spills, lanes and refills: the blocks of a queue -/

open Sys2Proof.Safety

namespace Sys2Proof.Machine

/-! #### The words of a middle -/

/-- A spill appends its words to the middle's (R531). -/
theorem flatMap_spillInto (ws : List QWord) {m : List Block} (h : m ≠ []) :
    (spillInto ws m).flatMap Block.words = m.flatMap Block.words ++ ws := by
  induction m with
  | nil => exact absurd rfl h
  | cons b r ih =>
    cases r with
    | nil => simp [spillInto]
    | cons c r =>
      have hrest := ih (List.cons_ne_nil c r)
      rw [spillInto, List.flatMap_cons, hrest, ← List.append_assoc, ← List.flatMap_cons]
      simp

theorem length_spillInto (ws : List QWord) (m : List Block) : (spillInto ws m).length = m.length := by
  induction m with
  | nil => rfl
  | cons b r ih =>
    cases r with
    | nil => rfl
    | cons c r => simpa [spillInto] using ih

/-- Blocks leave a middle with their words, and a block that has none written holds none (R533): of the words, just the first
`n` go. -/
theorem flatMap_dropMid (n : Nat) {m : List Block} (hwords : ∀ b ∈ m, b.words.length ≤ b.written)
    (hwritten : ∀ b ∈ m.dropLast, 0 < b.written) :
    (dropMid n m).1.flatMap Block.words = (m.flatMap Block.words).drop n := by
  induction m generalizing n with
  | nil => simp [dropMid]
  | cons b r ih =>
    have hrest : ∀ c ∈ r.dropLast, 0 < c.written := fun c hc => by
      cases r with
      | nil => simp at hc
      | cons d r => exact hwritten c (List.mem_cons_of_mem b hc)
    rw [dropMid, List.flatMap_cons, List.drop_append]
    split
    · next hgone =>
      simp only [Bool.and_eq_true, decide_eq_true_eq] at hgone
      rw [List.drop_eq_nil_of_le hgone.1, List.nil_append]
      exact ih _ (fun c hc => hwords c (List.mem_cons_of_mem b hc)) hrest
    · next hstays =>
      simp only [Bool.and_eq_true, decide_eq_true_eq, not_and, not_lt] at hstays
      rw [List.flatMap_cons]
      by_cases hlen : b.words.length ≤ n
      · have hlast : r = [] := by
          cases r with
          | nil => rfl
          | cons c r => exact absurd (hwritten b (by simp)) (by have := hstays hlen; omega)
        simp [hlast]
      · rw [Nat.sub_eq_zero_of_le (by omega), List.drop_zero]

theorem length_markPoison (k len : Nat) (seen : Bool) (ws : List QWord) : (markPoison k len seen ws).length = ws.length := by
  induction ws generalizing k len seen with
  | nil => rfl
  | cons w r ih => simp [markPoison, ih]

/-- Marking changes no number of words (R550). -/
@[simp] theorem marked_lengths (c : Queue) : c.marked.head.length = c.head.length ∧ c.marked.mid = c.mid ∧ c.marked.tail = c.tail := by
  simp [Queue.marked, length_markPoison]

/-! #### Spills (R531) -/

/-- The spill of queue `q` puts its tail behind the words of the middle. -/
theorem spillTail_spec (q : Nat) {s : State} (h : (qGet q s).mid ≠ []) :
    (qGet q (spillTail q s)).tail = [] ∧ (qGet q (spillTail q s)).used = (qGet q s).used ∧
    (qGet q (spillTail q s)).words = (qGet q s).words := by
  simp [spillTail, Queue.used, Queue.words, Queue.midWords, length_spillInto, flatMap_spillInto _ h]

theorem spill_idle {q : Nat} {s : State} (h : wantsSpill (qGet q s) = false) : spill q s = s := by
  simp [spill, h]

/-- A half-written newest block takes the spill. -/
theorem spill_second {q : Nat} {b : Block} {s : State} (hwants : wantsSpill (qGet q s) = true) (hpartial : holdsPartial q s = false)
    (hnewest : newest (qGet q s).mid = some b) (hwritten : b.written < 16) : spill q s = spillTail q s := by
  simp [spill, hwants, hpartial, hnewest, hwritten]

/-- With no half-written block, a spill that may be written allocates first. -/
theorem spill_first {q : Nat} {s : State} (hwants : wantsSpill (qGet q s) = true) (hpartial : holdsPartial q s = false)
    (hfull : ∀ b, newest (qGet q s).mid = some b → 16 ≤ b.written) : spill q s = spill.alloc q s := by
  unfold spill
  rw [if_neg (by simp [hwants, hpartial])]
  split
  · next b hb => rw [if_neg (Nat.not_lt.mpr (hfull b hb))]
  · rfl

/-- Where no block may be allocated, the spill waits (R537). -/
theorem spill_waits {q : Nat} {s : State} (hfull : ∀ b, newest (qGet q s).mid = some b → 16 ≤ b.written)
    (hmay : mayAllocate q s = false) : spill q s = s := by
  by_cases h : wantsSpill (qGet q s) = true ∧ holdsPartial q s = false
  · rw [spill_first h.1 h.2 hfull]
    simp [spill.alloc, hmay]
  · unfold spill
    rw [if_pos (by cases hw : wantsSpill (qGet q s) <;> simp_all)]

/-- An allocation takes a lane and a free block, which joins the middle (R536). -/
theorem beginAllocation_spec (q : Nat) (s : State) :
    qGet q (beginAllocation q s) = { qGet q s with mid := (qGet q s).mid ++ [⟨[], 0⟩] } ∧
    (beginAllocation q s).store.free = s.store.free - 1 ∧
    (beginAllocation q s).store.lanes = s.store.lanes ++ [⟨q, true, false⟩] ∧ (beginAllocation q s).now = s.now := by
  unfold beginAllocation
  rw [qGet_congr (qMarks_fields q _).2.2.2.2.2.2.2.1, qGet_qMap_same]
  simp only [qMarks_fields, qMap_fields]
  exact ⟨rfl, trivial, trivial, trivial⟩

/-! #### What the data port serves (R62) -/

/-- A request that does not stand takes no STORE cycle. -/
theorem portServesReq_none {c : StoreClient} {s : State} (h : ∀ r ∈ storeReqs s, r.client ≠ c) : portServesReq c s = s := by
  unfold portServesReq
  rw [List.find?_eq_none.mpr (fun r hr => by simpa using h r hr)]

/-- The requests of a queue's own clients, and when they stand. -/
theorem client_of_mem_queueReqs {q : Nat} {r : StoreReq} {s : State} (h : r ∈ queueReqs q s) :
    (r.client = .spill q ∧ spillReady q s = true) ∨
    (r.client = .refill q ∧ (qGet q s).head.length ≤ 4 ∧ (qGet q s).mid ≠ []) ∨ r.client = .verify q := by
  unfold queueReqs at h
  dsimp only at h
  simp only [List.mem_append] at h
  rcases h with (h | h) | h
  · split at h
    · next hready => exact .inl ⟨by rw [List.mem_singleton.mp h], hready⟩
    · simp at h
  · split at h
    · next hrefill =>
      simp only [Bool.and_eq_true, decide_eq_true_eq, Bool.not_eq_true', List.isEmpty_eq_false_iff] at hrefill
      exact .inr (.inl ⟨by rw [List.mem_singleton.mp h], hrefill⟩)
    · simp at h
  · split at h
    · exact .inr (.inr (by rw [List.mem_singleton.mp h]))
    · simp at h

theorem client_of_mem_copyReqs {r : StoreReq} {s : State} (h : r ∈ copyReqs s) : ∃ q j, r.client = .copy q j := by
  obtain ⟨j, -, hj⟩ := List.mem_filterMap.mp h
  split at hj
  · obtain rfl := Option.some.inj hj
    exact ⟨_, _, rfl⟩
  · cases hj

/-- A request that stands is one of a queue's own clients or a copy's. -/
theorem client_of_mem_storeReqs {r : StoreReq} {s : State} (h : r ∈ storeReqs s) :
    (∃ q, r ∈ queueReqs q s) ∨ ∃ q j, r.client = .copy q j := by
  rcases List.mem_append.mp h with h | h
  · obtain ⟨q, -, hq⟩ := List.mem_flatMap.mp h
    exact .inl ⟨q, hq⟩
  · exact .inr (client_of_mem_copyReqs h)

/-- With nothing to spill the data port is not asked. -/
theorem portServesReq_spill_idle {q : Nat} {s : State} (h : wantsSpill (qGet q s) = false) : portServesReq (.spill q) s = s := by
  refine portServesReq_none fun r hr hclient => ?_
  rcases client_of_mem_storeReqs hr with ⟨q', hq'⟩ | ⟨q', j, hcopy⟩
  · rcases client_of_mem_queueReqs hq' with ⟨hspill, hready⟩ | ⟨hrefill, -⟩ | hverify
    · obtain rfl : q' = q := by simpa [hclient, eq_comm] using hspill
      simp [spillReady, h] at hready
    · simp [hclient] at hrefill
    · simp [hclient] at hverify
  · simp [hclient] at hcopy

/-- With no words in the middle or more than 4 in the head, the data port is not asked for a refill. -/
theorem portServesReq_refill_idle {q : Nat} {s : State} (h : 4 < (qGet q s).head.length ∨ (qGet q s).mid = []) :
    portServesReq (.refill q) s = s := by
  refine portServesReq_none fun r hr hclient => ?_
  rcases client_of_mem_storeReqs hr with ⟨q', hq'⟩ | ⟨q', j, hcopy⟩
  · rcases client_of_mem_queueReqs hq' with ⟨hspill, -⟩ | ⟨hrefill, hhead, hmid⟩ | hverify
    · simp [hclient] at hspill
    · obtain rfl : q' = q := by simpa [hclient, eq_comm] using hrefill
      exact h.elim (by omega) hmid
    · simp [hclient] at hverify
  · simp [hclient] at hcopy

/-! #### Lanes (R542) -/

/-- With no allocation and no release waiting, a free lane changes nothing. -/
theorem serveLanes_idle {s : State} (halloc : s.store.allocWait = []) (hreleases : s.store.releases = []) : serveLanes s = s := by
  have hbegin : beginReleases s.store = s.store := by
    unfold beginReleases
    simp only [hreleases, List.length_nil, Nat.min_zero, Nat.zero_min, List.take_nil, List.drop_nil, List.append_nil, Nat.sub_zero]
    rw [← hreleases]
  simp [serveLanes, halloc, roundRobin, hbegin]

theorem allocationEnd_spec {q : Nat} {l : Lane} {rest : List Lane} {s : State} (hlane : dropLane q true s.store.lanes = some (l, rest))
    (hclearing : l.clearing = false) (halloc : s.store.allocWait = []) (hreleases : s.store.releases = []) :
    allocationEnd q s = { s with store := { s.store with lanes := rest, held := s.store.held + 1 } } := by
  unfold allocationEnd
  rw [hlane]
  dsimp only
  rw [hclearing, if_neg Bool.false_ne_true]
  exact serveLanes_idle halloc hreleases

theorem releaseEnd_spec {q : Nat} {l : Lane} {rest : List Lane} {s : State} (hlane : dropLane q false s.store.lanes = some (l, rest))
    (hclearing : l.clearing = false) (halloc : s.store.allocWait = []) (hreleases : s.store.releases = []) :
    releaseEnd q s = { s with store := { s.store with lanes := rest, free := s.store.free + 1 } } := by
  unfold releaseEnd
  rw [hlane]
  dsimp only
  rw [hclearing, if_neg Bool.false_ne_true]
  exact serveLanes_idle halloc hreleases

theorem allocationEnd_idle {q : Nat} {s : State} (h : dropLane q true s.store.lanes = none) : allocationEnd q s = s := by
  simp [allocationEnd, h]

theorem releaseEnd_idle {q : Nat} {s : State} (h : dropLane q false s.store.lanes = none) : releaseEnd q s = s := by
  simp [releaseEnd, h]

/-! #### Refills (R532, R533) -/

theorem refill_idle {q : Nat} {bad : List (Nat × BitVec 36)} {s : State} (h : 4 < (qGet q s).head.length ∨ (qGet q s).mid = []) :
    refill q bad s = s := by
  unfold refill
  rw [if_pos (by rcases h with h | h <;> simp [h])]

/-- Blocks that are given back are no matter of the queues. -/
@[simp] theorem qGet_releaseBlocks (r q n : Nat) (clearing : Bool) (s : State) : qGet r (releaseBlocks q n clearing s) = qGet r s := rfl

/-- A refill of sound words fills the head from the middle, as far as it goes, and loses none. -/
theorem refill_sound {q : Nat} {s : State} (hhead : (qGet q s).head.length ≤ 4) (hmid : (qGet q s).mid ≠ []) (hkept : blocksKept q s) :
    (qGet q (refill q [] s)).head.length = min 8 ((qGet q s).head.length + (qGet q s).midWords.length) ∧
    (qGet q (refill q [] s)).count = (qGet q s).count ∧ (qGet q (refill q [] s)).tail = (qGet q s).tail ∧
    (refill q [] s).now = s.now := by
  obtain ⟨hwords, hwritten⟩ := hkept
  have hleft := congrArg List.length
    (flatMap_dropMid (min (8 - (qGet q s).head.length) ((qGet q s).mid.flatMap Block.words).length) hwords hwritten)
  rw [List.length_drop] at hleft
  unfold refill
  rw [if_neg (by simp [hmid]; omega)]
  simp only [storeFaults_nil, List.foldl_nil, qGet_releaseBlocks, qGet_qSet_same, Queue.count, marked_lengths, Queue.midWords,
    List.length_append, List.length_map, List.length_zipIdx, List.length_take]
  exact ⟨by omega, by omega, trivial, rfl⟩

end Sys2Proof.Machine

section

open Sys2Proof Sys2Proof.Machine

/-- Settles O32, clause by clause: nothing to spill, the second half of a block, a new block, no block to be had, the ends of an
allocation and of a release, no lane, a refill, none due. -/
theorem blocksSpillAndRefill : Obligations.BlocksSpillAndRefill := by
  refine ⟨?nothing, ?second, ?first, ?waits, ?allocated, ?released, ?noAlloc, ?noRelease, ?refills, ?full⟩
  case nothing =>
    intro dt q s h
    exact congrArg Host.Outcome.next ((congrArg (spill q) (portServesReq_spill_idle h)).trans (spill_idle h))
  case second =>
    intro dt q b e s he hwants hpartial hnewest hwritten
    have hspill : spill q (portServesReq (.spill q) (elapse dt s)) = spillTail q e := by
      rw [← he, spill_second hwants hpartial hnewest hwritten]
    have hmid : (qGet q e).mid ≠ [] := fun hnil => by simp [newest, hnil] at hnewest
    obtain ⟨htail, hused, hwords⟩ := spillTail_spec q hmid
    exact ⟨_, congrArg Host.Outcome.next hspill, htail, hused, hwords, rfl⟩
  case first =>
    intro dt q e s he hq hwants hpartial hfull hmay hlanes
    have hspill : spill q (portServesReq (.spill q) (elapse dt s)) = spillTail q (beginAllocation q e) := by
      rw [← he, spill_first hwants hpartial hfull, spill.alloc, if_neg (by simp [hmay]), if_pos hlanes]
    obtain ⟨hqueue, hfree, hlane, hnow⟩ := beginAllocation_spec q e
    obtain ⟨htail, hused, hwords⟩ := spillTail_spec q (s := beginAllocation q e) (by simp [hqueue])
    refine ⟨_, congrArg Host.Outcome.next hspill, htail, ?_, ?_, hfree, hnow, hlane⟩
    · rw [hused, hqueue]
      exact List.length_append
    · rw [hwords, hqueue]
      simp [Queue.words, Queue.midWords]
  case waits =>
    intro dt q e s he hfull hmay
    exact congrArg Host.Outcome.next ((congrArg (spill q) he.symm).trans (spill_waits hfull hmay))
  case allocated =>
    intro dt q l rest s hlane hclearing halloc hreleases
    have hstore : (elapse dt s).store = s.store := (elapse_fields dt s).2.2.1
    have hend := allocationEnd_spec (s := elapse dt s) (by rwa [hstore]) hclearing (by rwa [hstore]) (by rwa [hstore])
    rw [hstore] at hend
    exact ⟨_, congrArg Host.Outcome.next hend, rfl, rfl, rfl, rfl⟩
  case released =>
    intro dt q l rest s hlane hclearing halloc hreleases
    have hstore : (elapse dt s).store = s.store := (elapse_fields dt s).2.2.1
    have hend := releaseEnd_spec (s := elapse dt s) (by rwa [hstore]) hclearing (by rwa [hstore]) (by rwa [hstore])
    rw [hstore] at hend
    exact ⟨_, congrArg Host.Outcome.next hend, rfl, rfl, rfl, rfl⟩
  case noAlloc =>
    intro dt q s h
    exact congrArg Host.Outcome.next (allocationEnd_idle (by simpa using h))
  case noRelease =>
    intro dt q s h
    exact congrArg Host.Outcome.next (releaseEnd_idle (by simpa using h))
  case refills =>
    intro dt q e s he hhead hmid hkept
    obtain ⟨hlength, hcount, htail, hnow⟩ := refill_sound hhead hmid hkept
    exact ⟨_, congrArg (fun x => Host.Outcome.next (refill q [] x)) he.symm, hcount, hlength, htail, hnow⟩
  case full =>
    intro dt q bad s h
    exact congrArg Host.Outcome.next ((congrArg (refill q bad) (portServesReq_refill_idle h)).trans (refill_idle h))

end

end

section

/-! ### TM_OUT: the ball W9 and the pulses -/

open Sys2Proof.Safety

namespace Sys2Proof.Machine

/-! #### What holds while time passes -/

/-- What each part of the passing of time keeps, the passing of time keeps. -/
theorem passTo_invariant {P : State → Prop} (hadvance : ∀ x a, P a → P (advance x a)) (hcheck : ∀ a, P a → P (pulseCheck a))
    (hcarry : ∀ a, P a → P (carry a)) (target n : Nat) {s : State} (h : P s) : P (passTo target n s) := by
  induction n generalizing s with
  | zero => exact hcheck _ (hadvance _ _ h)
  | succ n ih =>
    rw [passTo]
    split
    · exact ih (hcarry _ (hcheck _ (hadvance _ _ h)))
    · exact hcheck _ (hadvance _ _ h)

theorem runTo_invariant {P : State → Prop} (hadvance : ∀ x a, P a → P (advance x a)) (hcheck : ∀ a, P a → P (pulseCheck a))
    (hcarry : ∀ a, P a → P (carry a)) (due : Nat) {s : State} (h : P s) : P (runTo due s) := by
  unfold runTo elapseTo
  split
  · exact h
  · exact passTo_invariant hadvance hcheck hcarry _ _ h

theorem le_advance_now (target : Nat) (s : State) : s.now ≤ (advance target s).now := by
  unfold advance
  split
  · next h => exact Nat.le_of_lt h
  · exact Nat.le_refl _

/-- The fields of TM_OUT_CFG are none of those that passing time can change. -/
theorem tmOut_not_timeKeys : RG.TM_OUT_EN.key 0 ∉ timeKeys ∧ RG.TM_OUT_POL.key 0 ∉ timeKeys ∧ RG.WIDTH_MS.key 0 ∉ timeKeys := by
  decide

/-- What a second boundary does to TM_OUT: nothing, or it starts a pulse of an enabled TM_OUT (R119). -/
def PulseStarted (s t : State) : Prop :=
  t.clk = s.clk ∨ (get RG.TM_OUT_EN 0 s = 1 ∧ t.clk.pulseEnd ≠ none ∧ t.clk.w9 = s.clk.w9 ∧ t.clk.w9Free = s.clk.w9Free)

theorem pulseStart_clk (s : State) : PulseStarted s (pulseStart s) := by
  unfold pulseStart
  split
  · next h =>
    simp only [Bool.and_eq_true, decide_eq_true_eq] at h
    exact .inr ⟨h.1.1.1, by simp, rfl, rfl⟩
  · exact .inl rfl

theorem carry_clk_eq (s : State) : PulseStarted s (carry s) := by
  unfold carry
  extract_lets sec a b
  have hsame : b.clk = s.clk ∧ get RG.TM_OUT_EN 0 b = get RG.TM_OUT_EN 0 s := by
    simp only [b]
    split
    · simp only [logEvent_fields, get_logEvent tmOut_not_timeKeys.1]; exact ⟨rfl, rfl⟩
    · exact ⟨rfl, rfl⟩
  have hstart := pulseStart_clk b
  unfold PulseStarted at hstart ⊢
  rwa [hsame.1, hsame.2] at hstart

theorem carry_clk_of_disabled {s : State} (h : get RG.TM_OUT_EN 0 s = 0) : (carry s).clk = s.clk :=
  (carry_clk_eq s).resolve_right fun hstart => by omega

/-! #### W9 without a pulse -/

/-- TM_OUT is off, with neither a pulse nor a release of W9 to come, and W9 has the claim `c`. -/
def TmOutIdle (c : W9) (s : State) : Prop :=
  get RG.TM_OUT_EN 0 s = 0 ∧ s.clk.pulseEnd = none ∧ s.clk.w9Free = none ∧ s.clk.w9 = c

theorem pulseCheck_idle {s : State} (hpulse : s.clk.pulseEnd = none) (hfree : s.clk.w9Free = none) : pulseCheck s = s := by
  have hdone : pulseDone s = s := by simp [pulseDone, hpulse]
  simp [pulseCheck, hdone, w9Release, hfree]

theorem elapse_tmOutIdle {c : W9} {s : State} (h : TmOutIdle c s) (dt : Nat) : TmOutIdle c (elapse dt s) := by
  refine runTo_invariant (P := TmOutIdle c) ?_ ?_ ?_ _ h
  · intro x a ha
    simpa [TmOutIdle, get_advance] using ha
  · intro a ha
    obtain ⟨-, hpulse, hfree, -⟩ := id ha
    rwa [pulseCheck_idle hpulse hfree]
  · intro a ha
    unfold TmOutIdle at ha ⊢
    rwa [get_carry tmOut_not_timeKeys.1, carry_clk_of_disabled ha.1]

/-- CP1 keeps W9 while time passes. -/
theorem elapse_w9_cp1 {s : State} (h : s.clk.w9 = .cp1) (dt : Nat) : (elapse dt s).clk.w9 = .cp1 := by
  refine runTo_invariant (P := fun a => a.clk.w9 = .cp1) ?_ ?_ ?_ _ h
  · intro x a ha
    simpa using ha
  · intro a ha
    have hdone : (pulseDone a).clk.w9 = .cp1 := by unfold pulseDone; (repeat' split) <;> exact ha
    unfold pulseCheck w9Release
    split
    · split
      · simp [hdone]
      · exact hdone
    · exact hdone
  · intro a ha
    rcases carry_clk_eq a with hsame | ⟨-, -, hw9, -⟩
    · rw [hsame, ha]
    · rw [hw9, ha]

/-! #### A write of EN (R58, R59, R118) -/

theorem plainWord_tmOutCfg : PlainWord RG.TM_OUT_EN.space (wordOf RG.TM_OUT_EN 0) :=
  plainWord_of (off := 0x1C) (i := 0) (l := fldsRG) rfl rfl (by decide)

/-- A write of EN to TM_OUT_CFG leaves POL and WIDTH_MS. -/
theorem tmOutCfg_rest {v M : Nat} {s w : State} (h : WriteFacts 0 RG.TM_OUT_EN [(RG.TM_OUT_EN, v)] s M w) :
    get RG.TM_OUT_EN 0 w = v % 2 ∧ get RG.TM_OUT_POL 0 w = get RG.TM_OUT_POL 0 s ∧ get RG.WIDTH_MS 0 w = get RG.WIDTH_MS 0 s :=
  ⟨h.given (RG.TM_OUT_EN, v) (by simp) rfl, h.rest (RG.TM_OUT_POL, 0) (by decide) (.inl (by simp [RG.TM_OUT_POL, RG.TM_OUT_EN])),
    h.rest (RG.WIDTH_MS, 0) (by decide) (.inl (by simp [RG.WIDTH_MS, RG.TM_OUT_EN]))⟩

/-- A write of EN passes the checks of TM_OUT_CFG unless it takes W9 from CP1. -/
theorem firstFail_tmOutCfg {v M : Nat} {s w : State} (h : WriteFacts 0 RG.TM_OUT_EN [(RG.TM_OUT_EN, v)] s M w)
    (hlow : 1 ≤ get RG.WIDTH_MS 0 s) (hhigh : get RG.WIDTH_MS 0 s ≤ 999) :
    firstFail (wordChecks 0 0x1C M s w) =
      if rises RG.TM_OUT_EN 0 s w = true ∧ s.clk.w9 = .cp1 then some (.conflict 1) else none := by
  obtain ⟨-, hpol, hwidth⟩ := tmOutCfg_rest h
  have hchecks : wordChecks 0 0x1C M s w = [(!within RG.WIDTH_MS 0 1 999 w, refused),
      (flag RG.TM_OUT_EN 0 s && changes [RG.TM_OUT_POL] 0 s w, refused),
      (rises RG.TM_OUT_EN 0 s w && s.clk.w9 == .cp1, .conflict 1)] := rfl
  simp [hchecks, firstFail, within, changes, hpol, hwidth, hlow, hhigh]

theorem rises_iff {f : Fld} {i : Nat} {b t : State} : rises f i b t = true ↔ get f i b ≠ 1 ∧ get f i t = 1 := by
  simp [rises, flag]

theorem falls_iff {f : Fld} {i : Nat} {b t : State} : falls f i b t = true ↔ get f i b = 1 ∧ get f i t ≠ 1 := by
  simp [falls, flag]

theorem tmOutEn_mem (v : Nat) : ∀ y ∈ [(RG.TM_OUT_EN, v)],
    (y.1, 0) ∈ wordFields RG.TM_OUT_EN.space (wordOf RG.TM_OUT_EN 0) ∧ y.1.acc ≠ .w1c := by
  intro y hy
  rw [List.mem_singleton.mp hy]
  exact ⟨show (RG.TM_OUT_EN, 0) ∈ wordFields 0 0x1C by decide, show RG.TM_OUT_EN.acc ≠ .w1c by decide⟩

/-- TM_OUT_CFG is present on every variant. -/
theorem place_tmOutCfg (s : State) : place RG.TM_OUT_EN.space (wordOf RG.TM_OUT_EN 0) s = .present := by
  show place 0 0x1C s = .present
  cases h : s.variant <;> simp [place, directAbsent, directReserved, h]

/-- A write of EN that does not take W9 from CP1 is taken, and `act` is what it starts. -/
theorem setFields_tmOutEn {v : Nat} {s : State} {act : State → State} (hserves : mpServes s = true) (hlow : 1 ≤ get RG.WIDTH_MS 0 s)
    (hhigh : get RG.WIDTH_MS 0 s ≤ 999) (hfree : v % 2 = 1 → s.clk.w9 ≠ .cp1)
    (hact : ∀ w, get RG.TM_OUT_EN 0 w = v % 2 → (if rises RG.TM_OUT_EN 0 s w then tmOutClaim w
      else if falls RG.TM_OUT_EN 0 s w then tmOutDrop w else w) = act w) :
    wrote 0 RG.TM_OUT_EN [(RG.TM_OUT_EN, v)] act s (setFields 0 [(RG.TM_OUT_EN, v)] s) := by
  have htaken : taken 0 RG.TM_OUT_EN [(RG.TM_OUT_EN, v)] s := by
    refine taken_of hserves (place_tmOutCfg s) plainWord_tmOutCfg (tmOutEn_mem v) (List.pairwise_singleton ..) fun M w h => ?_
    refine (firstFail_tmOutCfg h hlow hhigh).trans (if_neg fun hconflict => ?_)
    obtain ⟨hen, -, -⟩ := tmOutCfg_rest h
    exact hfree (hen.symm.trans (rises_iff.mp hconflict.1).2) hconflict.2
  exact setFields_wrote 0 RG.TM_OUT_EN v [] s act htaken plainWord_tmOutCfg rfl (by decide) (.inl rfl) (tmOutEn_mem v)
    (List.pairwise_singleton ..) fun M w h => hact w (tmOutCfg_rest h).1

/-- A write of EN 1 while CP1 holds W9 is refused as a CONFLICT over W9 (R58). -/
theorem setFields_tmOutEn_conflict {s : State} (hserves : mpServes s = true) (hen : get RG.TM_OUT_EN 0 s = 0)
    (hcp1 : s.clk.w9 = .cp1) (hlow : 1 ≤ get RG.WIDTH_MS 0 s) (hhigh : get RG.WIDTH_MS 0 s ≤ 999) :
    setFields 0 [(RG.TM_OUT_EN, 1)] s =
      mpMap (fun m => { m with answer := 6 }) (irq RG.IRQ_CONFLICT (logEvent 2 1 0x1C [0, 0x1C] s)) := by
  have h := writeFacts 0 RG.TM_OUT_EN [(RG.TM_OUT_EN, 1)] s plainWord_tmOutCfg (tmOutEn_mem 1) (List.pairwise_singleton ..)
  have hrises := rises_iff.mpr ⟨show get RG.TM_OUT_EN 0 s ≠ 1 by omega, (tmOutCfg_rest h).1⟩
  have hplace : place 0 0x1C s ≠ .absent := fun habsent => Place.noConfusion ((place_tmOutCfg s).symm.trans habsent)
  exact regWrite_no 0 0x1C _ s (.conflict 1) hserves hplace rfl (by decide) (.inl rfl) rfl
    ((firstFail_tmOutCfg h hlow hhigh).trans (if_pos ⟨hrises, hcp1⟩))

/-! #### The end of a pulse (R120) -/

/-- While TM_OUT is enabled and nothing releases W9: outside a pulse the ball is at the inactive level. -/
structure TmOutOn (c : W9) (s : State) : Prop where
  en : get RG.TM_OUT_EN 0 s = 1
  w9 : s.clk.w9 = c
  notFree : s.clk.w9Free = none
  level : s.clk.pulseEnd = none → s.clk.tmOutHigh = !tmActive s

theorem TmOutOn.advance {c : W9} {s : State} (h : TmOutOn c s) (x : Nat) : TmOutOn c (advance x s) := by
  constructor <;> simp only [get_advance, advance_fields, tmActive]
  exacts [h.en, h.w9, h.notFree, h.level]

/-- What is due of a pulse has happened: a pulse left ends later than now. -/
theorem TmOutOn.pulseCheck {c : W9} {s : State} (h : TmOutOn c s) :
    TmOutOn c (pulseCheck s) ∧ ∀ x, (pulseCheck s).clk.pulseEnd = some x → (pulseCheck s).now < x := by
  have hdone : TmOutOn c (pulseDone s) ∧ ∀ x, (pulseDone s).clk.pulseEnd = some x → (pulseDone s).now < x := by
    unfold pulseDone
    split
    · next e he =>
      split
      · exact ⟨⟨h.en, h.w9, by simp [h.en], fun _ => rfl⟩, by simp⟩
      · next hlater => exact ⟨h, fun x hx => by rw [he] at hx; cases hx; omega⟩
    · next hnone => exact ⟨h, fun x hx => by simp [hnone] at hx⟩
  have hrelease : Machine.pulseCheck s = pulseDone s := by simp [Machine.pulseCheck, w9Release, hdone.1.notFree]
  rwa [hrelease]

theorem TmOutOn.carry {c : W9} {s : State} (h : TmOutOn c s) : TmOutOn c (carry s) := by
  obtain ⟨hen, hpol, -⟩ := tmOut_not_timeKeys
  have hlevel : tmActive (Machine.carry s) = tmActive s := by rw [tmActive, tmActive, get_carry hpol]
  rcases carry_clk_eq s with hsame | ⟨-, hpulse, hw9, hfree⟩
  · constructor <;> simp only [get_carry hen, hlevel, hsame]
    exacts [h.en, h.w9, h.notFree, h.level]
  · exact ⟨(get_carry hen s).trans h.en, hw9.trans h.w9, hfree.trans h.notFree, fun hnone => absurd hnone hpulse⟩

theorem TmOutOn.runTo {c : W9} {s : State} (h : TmOutOn c s) (due : Nat) : TmOutOn c (runTo due s) :=
  runTo_invariant (P := TmOutOn c) (fun x _ ha => ha.advance x) (fun _ ha => ha.pulseCheck.1) (fun _ ha => ha.carry) due h

/-- TM_OUT_PULSE_END with EN 1. -/
theorem tmOutPulseEnd_on {c : W9} {e : Nat} {s : State} (h : TmOutOn c s) (he : s.clk.pulseEnd = some e) :
    TmOutOn c (tmOutPulseEnd s) ∧ (tmOutPulseEnd s).now = max s.now e ∧
    ∀ x, (tmOutPulseEnd s).clk.pulseEnd = some x → (tmOutPulseEnd s).now < x := by
  obtain ⟨hon, hlater⟩ := (h.runTo e).pulseCheck
  have hend : tmOutPulseEnd s = pulseCheck (runTo e s) := by simp [tmOutPulseEnd, he, toW9Release, hon.notFree]
  rw [hend]
  exact ⟨hon, by simp, hlater⟩

/-- TM_OUT is off, its pulse has ended at `e`, and W9 is released in the next LINE cycle. -/
structure TmOutEnded (e : Nat) (s : State) : Prop where
  off : get RG.TM_OUT_EN 0 s = 0
  noPulse : s.clk.pulseEnd = none
  level : s.clk.tmOutHigh = !tmActive s
  w9 : (s.clk.w9Free = some (nextLine e) ∧ s.clk.w9 = .tmOut) ∨ (s.clk.w9Free = none ∧ s.clk.w9 = .none ∧ nextLine e ≤ s.now)

/-- TM_OUT is off during a pulse that ends at `e`. -/
structure TmOutEnding (e : Nat) (s : State) : Prop where
  off : get RG.TM_OUT_EN 0 s = 0
  pulse : s.clk.pulseEnd = some e
  notFree : s.clk.w9Free = none
  w9 : s.clk.w9 = .tmOut

theorem TmOutEnded.advance {e : Nat} {s : State} (h : TmOutEnded e s) (x : Nat) : TmOutEnded e (advance x s) := by
  constructor <;> simp only [get_advance, advance_fields, tmActive]
  exacts [h.off, h.noPulse, h.level, h.w9.imp id fun ⟨hfree, hnone, hnow⟩ => ⟨hfree, hnone, hnow.trans (le_advance_now x s)⟩]

theorem TmOutEnding.advance {e : Nat} {s : State} (h : TmOutEnding e s) (x : Nat) : TmOutEnding e (advance x s) := by
  constructor <;> simp only [get_advance, advance_fields]
  exacts [h.off, h.pulse, h.notFree, h.w9]

theorem TmOutEnded.carry {e : Nat} {s : State} (h : TmOutEnded e s) : TmOutEnded e (carry s) := by
  obtain ⟨hen, hpol, -⟩ := tmOut_not_timeKeys
  constructor <;> simp only [carry_clk_of_disabled h.off, carry_fields, get_carry hen, tmActive, get_carry hpol]
  exacts [h.off, h.noPulse, h.level, h.w9]

theorem TmOutEnding.carry {e : Nat} {s : State} (h : TmOutEnding e s) : TmOutEnding e (carry s) := by
  constructor <;> simp only [carry_clk_of_disabled h.off, get_carry tmOut_not_timeKeys.1]
  exacts [h.off, h.pulse, h.notFree, h.w9]

/-- W9 is released once its LINE cycle has come. -/
theorem TmOutEnded.w9Release {e : Nat} {s : State} (h : TmOutEnded e s) :
    TmOutEnded e (w9Release s) ∧ (nextLine e ≤ s.now → (w9Release s).clk.w9 = .none) := by
  rcases h.w9 with ⟨hfree, hout⟩ | ⟨hfree, hnone, hnow⟩
  · unfold Machine.w9Release
    rw [hfree]
    dsimp only
    split
    · next hdue => exact ⟨⟨h.off, h.noPulse, h.level, .inr ⟨rfl, rfl, hdue⟩⟩, fun _ => rfl⟩
    · next hdue => exact ⟨h, fun hnow => absurd hnow hdue⟩
  · have hsame : Machine.w9Release s = s := by simp [Machine.w9Release, hfree]
    rw [hsame]
    exact ⟨h, fun _ => hnone⟩

theorem TmOutEnded.pulseCheck {e : Nat} {s : State} (h : TmOutEnded e s) : TmOutEnded e (pulseCheck s) := by
  have hdone : pulseDone s = s := by simp [pulseDone, h.noPulse]
  rw [Machine.pulseCheck, hdone]
  exact h.w9Release.1

/-- The pulse ends at `e` and not before. -/
theorem TmOutEnding.pulseCheck {e : Nat} {s : State} (h : TmOutEnding e s) :
    if e ≤ s.now then TmOutEnded e (pulseCheck s) else TmOutEnding e (pulseCheck s) := by
  split
  · next hdue =>
    rw [Machine.pulseCheck]
    refine (TmOutEnded.w9Release (e := e) ?_).1
    simp only [pulseDone, h.pulse, if_pos hdue]
    exact ⟨h.off, rfl, rfl, .inl ⟨by simp [h.off, h.w9], h.w9⟩⟩
  · next hdue =>
    have hdone : pulseDone s = s := by simp [pulseDone, h.pulse, hdue]
    have hrelease : Machine.pulseCheck s = s := by simp [Machine.pulseCheck, hdone, w9Release, h.notFree]
    rwa [hrelease]

theorem TmOutEnding.runTo {e : Nat} {s : State} (h : TmOutEnding e s) (due : Nat) :
    TmOutEnding e (runTo due s) ∨ TmOutEnded e (runTo due s) := by
  refine runTo_invariant (P := fun a => TmOutEnding e a ∨ TmOutEnded e a) (fun x a ha => ?_) (fun a ha => ?_) (fun a ha => ?_) due
    (.inl h)
  · exact ha.imp (·.advance x) (·.advance x)
  · rcases ha with ha | ha
    · have hcheck := ha.pulseCheck
      split at hcheck
      · exact .inr hcheck
      · exact .inl hcheck
    · exact .inr ha.pulseCheck
  · exact ha.imp (·.carry) (·.carry)

theorem TmOutEnded.runTo {e : Nat} {s : State} (h : TmOutEnded e s) (due : Nat) : TmOutEnded e (runTo due s) :=
  runTo_invariant (P := TmOutEnded e) (fun x _ ha => ha.advance x) (fun _ ha => ha.pulseCheck) (fun _ ha => ha.carry) due h

/-- TM_OUT_PULSE_END with EN 0: the pulse ends, and W9 is released in the next LINE cycle. -/
theorem tmOutPulseEnd_off {e : Nat} {s : State} (h : TmOutEnding e s) :
    TmOutEnded e (tmOutPulseEnd s) ∧ (tmOutPulseEnd s).clk.w9 = .none ∧ (tmOutPulseEnd s).now = max s.now (nextLine e) := by
  have hnext : e < nextLine e := by unfold nextLine; omega
  have hended : TmOutEnded e (pulseCheck (runTo e s)) := by
    rcases h.runTo e with hrun | hrun
    · have hcheck := hrun.pulseCheck
      rwa [if_pos (by simp)] at hcheck
    · exact hrun.pulseCheck
  have hnow : (pulseCheck (runTo e s)).now = max s.now e := by simp
  rw [tmOutPulseEnd, h.pulse]
  dsimp only
  rcases hended.w9 with ⟨hfree, -⟩ | ⟨hfree, hnone, hline⟩
  · obtain ⟨hreleased, hw9⟩ := (hended.runTo (nextLine e)).w9Release
    simp only [toW9Release, hfree]
    exact ⟨hreleased, hw9 (by simp), by simp; omega⟩
  · simp only [toW9Release, hfree]
    exact ⟨hended, hnone, by omega⟩

theorem get_tmOutPulseEnd {g : Fld} {j : Nat} (h : g.key j ∉ timeKeys) (s : State) : get g j (tmOutPulseEnd s) = get g j s := by
  have hrelease (a : State) : get g j (toW9Release a) = get g j a := by
    unfold toW9Release
    split
    · next r _ =>
      have hsame : get g j (w9Release (runTo r a)) = get g j (runTo r a) := get_congr g j (by simp) (by simp) (by simp)
      rw [hsame, get_runTo h]
    · rfl
  unfold tmOutPulseEnd
  split
  · rw [hrelease, get_pulseCheck, get_runTo h]
  · exact hrelease s

/-- The inactive level of TM_OUT is POL (R119). -/
theorem not_tmActive (s : State) : (!tmActive s) = (get RG.TM_OUT_POL 0 s == 1) := by
  have hbit : get RG.TM_OUT_POL 0 s < 2 := get_lt RG.TM_OUT_POL 0 s
  rcases (show get RG.TM_OUT_POL 0 s = 0 ∨ get RG.TM_OUT_POL 0 s = 1 by omega) with h | h <;> simp [tmActive, h]

end Sys2Proof.Machine

section

open Sys2Proof Sys2Proof.Machine

/-- Settles O10, clause by clause: a claim, a conflict, a release, the end of a pulse with EN 1 and with EN 0, neither pulse nor
release. -/
theorem tmOutClaimsAndReleasesW9 : Obligations.TmOutClaimsAndReleasesW9 := by
  refine ⟨?claim, ?conflict, ?drop, ?endsOn, ?endsOff, ?idle⟩
  case claim =>
    intro dt s hserves hoff hw9 hpulse hfree hlow hhigh
    obtain ⟨hoff', hpulse', -, hw9'⟩ := elapse_tmOutIdle (c := .none) ⟨hoff, hpulse, hfree, hw9⟩ dt
    have hwidth := get_elapse tmOut_not_timeKeys.2.2 dt s
    obtain ⟨w, l, hunits, hgiven, hrest, -, ht⟩ := setFields_tmOutEn (v := 1) (s := elapse dt s) (act := tmOutClaim)
      (by simpa [mpServes] using hserves) (by omega) (by omega) (fun _ => by simp [hw9'])
      (fun w hw => if_pos (rises_iff.mpr ⟨by omega, hw⟩))
    have hen : get RG.TM_OUT_EN 0 w = 1 := hgiven (RG.TM_OUT_EN, 1) (by simp) rfl
    have hpol : get RG.TM_OUT_POL 0 w = get RG.TM_OUT_POL 0 s :=
      (hrest (RG.TM_OUT_POL, 0) (by decide) (.inl (by decide))).trans (get_elapse tmOut_not_timeKeys.2.1 dt s)
    have hclk : w.clk = (elapse dt s).clk := by rw [hunits]
    have hlevel : (tmOutClaim w).clk.tmOutHigh = (get RG.TM_OUT_POL 0 s == 1) := by
      simp [tmOutClaim, hclk, hpulse', not_tmActive, hpol]
    refine ⟨_, congrArg Host.Outcome.next ht, rfl, hen, rfl, hlevel, ?_⟩
    rw [hunits]
    simp [tmOutClaim]
  case conflict =>
    intro dt s hserves hoff hcp1 hlow hhigh
    have hwidth := get_elapse tmOut_not_timeKeys.2.2 dt s
    have hoff' := (get_elapse tmOut_not_timeKeys.1 dt s).trans hoff
    have hset := setFields_tmOutEn_conflict (s := elapse dt s) (by simpa [mpServes] using hserves) hoff'
      (elapse_w9_cp1 hcp1 dt) (by omega) (by omega)
    refine ⟨_, congrArg Host.Outcome.next hset, rfl, ?_, ?_, get_setBits_one rfl .., ?_⟩
    · exact (get_irq_ne (by decide) _).trans ((get_logEvent tmOut_not_timeKeys.1 ..).trans hoff')
    · simp
    · simp
  case drop =>
    intro dt s hserves hon hlow hhigh
    have hwidth := get_elapse tmOut_not_timeKeys.2.2 dt s
    have hon' := (get_elapse tmOut_not_timeKeys.1 dt s).trans hon
    obtain ⟨w, l, hunits, hgiven, -, -, ht⟩ := setFields_tmOutEn (v := 0) (s := elapse dt s) (act := tmOutDrop)
      (by simpa [mpServes] using hserves) (by omega) (by omega) (fun h => by omega)
      (fun w hw => by rw [if_neg (by simp [rises_iff, hon']), if_pos (falls_iff.mpr ⟨hon', by omega⟩)])
    have hen : get RG.TM_OUT_EN 0 w = 0 := hgiven (RG.TM_OUT_EN, 0) (by simp) rfl
    have hclk : w.clk = (elapse dt s).clk := by rw [hunits]
    rw [← hclk]
    refine ⟨_, congrArg Host.Outcome.next ht, rfl, ?_⟩
    dsimp only
    unfold tmOutDrop
    split
    · next h => exact ⟨hen, rfl, by simp_all⟩
    · next h => exact ⟨hen, rfl, by simp_all⟩
  case endsOn =>
    intro e s he hon hlow hhigh hfree
    obtain ⟨hend, hnow, hlater⟩ := tmOutPulseEnd_on (c := s.clk.w9) ⟨hon, rfl, hfree, fun hnone => by simp [he] at hnone⟩ he
    refine ⟨_, rfl, hnow, hend.w9, hlater, fun hnone => (hend.level hnone).trans ?_⟩
    rw [not_tmActive, get_tmOutPulseEnd tmOut_not_timeKeys.2.1]
  case endsOff =>
    intro e s he hoff hw9 hfree
    obtain ⟨hend, hnone, hnow⟩ := tmOutPulseEnd_off ⟨hoff, he, hfree, hw9⟩
    refine ⟨_, rfl, hnow, hnone, hend.noPulse, hend.level.trans ?_⟩
    rw [not_tmActive, get_tmOutPulseEnd tmOut_not_timeKeys.2.1]
  case idle =>
    intro s hpulse hfree
    exact congrArg Host.Outcome.next (by simp [tmOutPulseEnd, hpulse, toW9Release, hfree])

end

end

section

/-! ### Job slots: spawning, expiry, settling, retiring, and forward-copies -/

namespace Sys2Proof.Machine

/-! #### What the job operations leave -/

@[simp] theorem endJob_fields (id : Nat) (s : State) :
    (endJob id s).regs = s.regs ∧ (endJob id s).variant = s.variant ∧ (endJob id s).flash = s.flash ∧ (endJob id s).now = s.now ∧
    (endJob id s).queues = s.queues ∧ (endJob id s).releases = s.releases ∧ (endJob id s).canopy = s.canopy := by
  simp [endJob]

@[simp] theorem countLate_fields (tenant cls : Nat) (s : State) :
    (countLate tenant cls s).now = s.now ∧ (countLate tenant cls s).jobs = s.jobs ∧
    (countLate tenant cls s).releases = s.releases ∧ (countLate tenant cls s).canopy = s.canopy := by
  simp [countLate]

@[simp] theorem lateDrop_fields (tenant cls : Nat) (s : State) :
    (lateDrop tenant cls s).now = s.now ∧ (lateDrop tenant cls s).jobs = s.jobs ∧
    (lateDrop tenant cls s).releases = s.releases ∧ (lateDrop tenant cls s).canopy = s.canopy := by
  simp [lateDrop, countGap]

theorem foldl_lateDrop_fields (cls : Nat) (l : List Nat) (s : State) :
    (l.foldl (fun a d => lateDrop d cls a) s).now = s.now ∧ (l.foldl (fun a d => lateDrop d cls a) s).releases = s.releases := by
  induction l generalizing s with
  | nil => exact ⟨rfl, rfl⟩
  | cons d l ih => simpa using ih (lateDrop d cls s)

@[simp] theorem dropWords_fields (q n : Nat) (s : State) :
    (dropWords q n s).now = s.now ∧ (dropWords q n s).jobs = s.jobs ∧ (dropWords q n s).regs = s.regs ∧
    (dropWords q n s).releases = s.releases ∧ (dropWords q n s).canopy = s.canopy := by
  unfold dropWords
  dsimp only
  exact ⟨rfl, rfl, rfl, rfl, rfl⟩

@[simp] theorem releaseSource_fields (src n : Nat) (s : State) :
    (releaseSource src n s).now = s.now ∧ (releaseSource src n s).jobs = s.jobs ∧
    (releaseSource src n s).releases = s.releases ∧ (releaseSource src n s).canopy = s.canopy := by
  unfold releaseSource
  split
  · simp
  · dsimp only
    split <;> simp

@[simp] theorem releaseDone_fields (src : Nat) (s : State) :
    (releaseDone src s).now = s.now ∧ (releaseDone src s).jobs = s.jobs := by
  unfold releaseDone
  split
  · split <;> simp
  · exact ⟨rfl, rfl⟩

/-! #### The waiting record of a source -/

/-- Changing the waiting record of a source changes just that. -/
theorem releaseOf_releaseMap {src : Nat} {r : Release} {f : Release → Release} {s : State} (h : releaseOf src s = some r)
    (hsrc : ∀ x, (f x).src = x.src) : releaseOf src (releaseMap src f s) = some (f r) := by
  have hr : r.src = src := by simpa using List.find?_some h
  unfold releaseOf releaseMap at *
  rw [List.find?_map]
  have hsame : ((fun x : Release => x.src == src) ∘ fun x => if x.src = src then f x else x) = fun x => x.src == src := by
    funext x
    dsimp only [Function.comp_apply]
    split <;> simp [hsrc]
  rw [hsame, h]
  simp [hr]

/-- A record with a job left is not released yet (R33). -/
theorem releaseDone_waits {src : Nat} {r : Release} {s : State} (h : releaseOf src s = some r) (hjobs : r.jobs ≠ []) :
    releaseDone src s = s := by
  simp [releaseDone, h, hjobs]

/-- Settling a record with jobs leaves it without destinations, all of them settled (R51). -/
theorem settleRecord_spec {src : Nat} {r : Release} {s : State} (h : releaseOf src s = some r) (hjobs : r.jobs ≠ []) :
    (settleRecord src s).now = s.now ∧
    releaseOf src (settleRecord src s) = some { r with settled := r.settled + r.todo.length, todo := [] } := by
  unfold settleRecord
  rw [h]
  dsimp only
  have hdrops := foldl_lateDrop_fields r.cls r.todo s
  generalize r.todo.foldl (fun a d => lateDrop d r.cls a) s = a at hdrops ⊢
  have hsame : releaseOf src a = some r := by rw [← h, releaseOf, releaseOf, hdrops.2]
  have hmap := releaseOf_releaseMap (f := fun x => { x with settled := x.settled + x.todo.length, todo := [] }) hsame fun _ => rfl
  rw [releaseDone_waits hmap hjobs]
  exact ⟨hdrops.1, hmap⟩

/-! #### Spawning (R452) -/

theorem slotBeyondReserve_elapse (dt : Nat) (s : State) : slotBeyondReserve (elapse dt s) = slotBeyondReserve s := by
  have hreserve : get RG.POLL_RESERVE 0 (elapse dt s) = get RG.POLL_RESERVE 0 s := get_elapse (by decide) dt s
  rw [slotBeyondReserve, slotBeyondReserve, idleSlots, idleSlots, hreserve, (elapse_fields dt s).1]
  simp only [elapse_fields]

theorem foldl_grantWant_full {s : State} (h : slotBeyondReserve s = false) (l : List Want) :
    l.foldl (fun a w => grantWant w a) s = s := by
  induction l with
  | nil => rfl
  | cons w l ih =>
    have hnone : grantWant w s = s := by simp [grantWant, h]
    rw [List.foldl_cons, hnone, ih]

theorem jobSpawn_of_none {s : State} (h : pollsWaiting s = []) : jobSpawn s = (wants s).foldl (fun a w => grantWant w a) s := by
  unfold jobSpawn
  rw [h]
  rfl

/-- With no due poll waiting, and no slot beyond the reserve, no job starts (R451). -/
theorem jobSpawn_full {s : State} (hpolls : pollsWaiting s = []) (h : slotBeyondReserve s = false) : jobSpawn s = s := by
  rw [jobSpawn_of_none hpolls, foldl_grantWant_full h]

/-- The only record that waits is the only one to want a slot. -/
theorem wants_single {r : Release} {s : State} (hreleases : s.releases = [r]) (huplinks : s.uplinks = []) (htodo : r.todo ≠ []) :
    wants s = [⟨r.cls, r.deadline, 0, r.src⟩] := by
  simp [wants, hreleases, huplinks, htodo, Want.insert]

theorem spawnJob_spec (kind : JobKind) (rem cls tenant src : Nat) (poll : Option Nat) (s : State) :
    (spawnJob kind rem cls tenant src poll s).jobs =
      s.jobs ++ [⟨s.nextJob, kind, s.now + ceilDiv rem 4, cls, tenant, src, poll, false, false, none⟩] ∧
    (spawnJob kind rem cls tenant src poll s).nextJob = s.nextJob + 1 ∧
    (spawnJob kind rem cls tenant src poll s).releases = s.releases := by
  unfold spawnJob
  dsimp only
  split <;> simp

/-- A record that wants a slot gets one while a slot is idle beyond the reserve. -/
theorem grantWant_record {cls deadline src : Nat} {s : State} (h : slotBeyondReserve s = true) :
    grantWant ⟨cls, deadline, 0, src⟩ s = spawnForward src s := by
  unfold grantWant
  rw [h, Bool.not_true, if_neg Bool.false_ne_true, if_pos rfl]

/-- A record before its deadline gets a job for its next destination (R41). -/
theorem spawnForward_next {src d rem : Nat} {r : Release} {rest : List Nat} {s : State} (h : releaseOf src s = some r)
    (hrem : remaining r.deadline s = some rem) (htodo : r.todo = d :: rest) :
    spawnForward src s = releaseMap src (fun x => { x with todo := rest, jobs := x.jobs ++ [s.nextJob] })
      (spawnJob .fwd rem r.cls d src none s) := by
  unfold spawnForward
  rw [h]
  dsimp only
  rw [hrem, htodo]
  rfl

/-- The record that alone waits gets a job for its next destination. -/
theorem jobSpawn_forward {r : Release} {d rem : Nat} {rest : List Nat} {s : State} (hpolls : pollsWaiting s = [])
    (hslot : slotBeyondReserve s = true) (hreleases : s.releases = [r]) (huplinks : s.uplinks = []) (htodo : r.todo = d :: rest)
    (hrem : remaining r.deadline s = some rem) :
    jobSpawn s = releaseMap r.src (fun x => { x with todo := rest, jobs := x.jobs ++ [s.nextJob] })
      (spawnJob .fwd rem r.cls d r.src none s) := by
  have hrelease : releaseOf r.src s = some r := by simp [releaseOf, hreleases]
  rw [jobSpawn_of_none hpolls, wants_single hreleases huplinks (by simp [htodo]), List.foldl_cons, List.foldl_nil,
    grantWant_record hslot, spawnForward_next hrelease hrem htodo]

/-! #### Expiry (R50) -/

/-- No job of the number is ACTIVE once it has ended (R449). -/
theorem activeJob_endJob (id : Nat) (s : State) : activeJob id (endJob id s) = none := by
  simp only [activeJob, endJob, jobMap, List.find?_eq_none, List.mem_map]
  rintro _ ⟨j, -, rfl⟩
  split <;> simp_all

/-- The late drop counters of a tenant lie in words 6 to 9 of its entry. -/
theorem lateDropF_key (cls tenant : Nat) : ∃ k, 6 ≤ k ∧ k ≤ 9 ∧ (lateDropF cls).key tenant = 134217728 + (k + 32 * tenant) * 32 := by
  match cls with
  | 0 => exact ⟨6, by omega, by omega, rfl⟩
  | 1 => exact ⟨7, by omega, by omega, rfl⟩
  | 2 => exact ⟨8, by omega, by omega, rfl⟩
  | _ + 3 => exact ⟨9, by omega, by omega, show TN.LATE_DROP_BULK.key tenant = _ from rfl⟩

/-- The late drop counters of the machine are direct registers. -/
theorem lateSumF_key (cls : Nat) : (lateSumF cls).key 0 < 33554432 := by
  match cls with
  | 0 | 1 | 2 => decide
  | _ + 3 => exact show RG.LATE_SUM_BULK.key 0 < 33554432 by decide

/-- A late drop counts for its tenant and class and raises LATE_DROP and its interrupt. -/
theorem countLate_spec (tenant cls : Nat) (s : State) :
    get (lateDropF cls) tenant (countLate tenant cls s) = (lateDropF cls).count (get (lateDropF cls) tenant s) 1 ∧
    get TN.LATE_DROP tenant (countLate tenant cls s) = 1 ∧ get RG.IRQ_LATE 0 (countLate tenant cls s) = 1 := by
  obtain ⟨k, hlow, hhigh, hkey⟩ := lateDropF_key cls tenant
  have hsum := lateSumF_key cls
  have hirq : RG.IRQ_LATE.key 0 < 33554432 := by decide
  have hflag : TN.LATE_DROP.key tenant = 134217728 + (12 + 32 * tenant) * 32 := rfl
  unfold countLate
  refine ⟨?_, get_raise_one rfl rfl (by omega) _⟩
  rw [get_raise_ne (by omega) (by omega), get_bump_ne (by omega), get_bump_same]

/-- JOB_DEADLINE_EXPIRY of a forward-copy (R50). -/
theorem forwardExpired_spec (j : Job) (s : State) :
    (forwardExpired j s).now = s.now ∧ activeJob j.id (forwardExpired j s) = none ∧
    get (lateDropF j.cls) j.tenant (forwardExpired j s) = (lateDropF j.cls).count (get (lateDropF j.cls) j.tenant s) 1 ∧
    get TN.LATE_DROP j.tenant (forwardExpired j s) = 1 ∧ get RG.IRQ_LATE 0 (forwardExpired j s) = 1 := by
  have hget (f : Fld) (i : Nat) : get f i (forwardExpired j s) =
      get f i (countLate j.tenant j.cls (dropProducer (96 + j.tenant) (.job j.id) s)) := get_congr f i rfl rfl rfl
  obtain ⟨hcount, hflag, hirq⟩ := countLate_spec j.tenant j.cls (dropProducer (96 + j.tenant) (.job j.id) s)
  refine ⟨?_, activeJob_endJob .., (hget ..).trans (hcount.trans ?_), (hget ..).trans hflag, (hget ..).trans hirq⟩
  · simp [forwardExpired, dropProducer]
  · rfl

/-! #### Retiring slots (R449) -/

theorem jobRetired_fields (id : Nat) (s : State) :
    (jobRetired id s).now = s.now ∧ (jobRetired id s).jobs = s.jobs.filter fun j => j.id != id := by
  unfold jobRetired
  dsimp only
  split <;> simp

/-- Of the jobs that a list of numbers does not name, all stay. -/
theorem foldl_jobRetired_fields (l : List Nat) (s : State) :
    (l.foldl (fun a id => jobRetired id a) s).now = s.now ∧
    ∀ j ∈ (l.foldl (fun a id => jobRetired id a) s).jobs, j ∈ s.jobs ∧ j.id ∉ l := by
  induction l generalizing s with
  | nil => exact ⟨rfl, fun j hj => ⟨hj, List.not_mem_nil⟩⟩
  | cons id l ih =>
    obtain ⟨hnow, hjobs⟩ := jobRetired_fields id s
    obtain ⟨hnow', hjobs'⟩ := ih (jobRetired id s)
    refine ⟨hnow'.trans hnow, fun j hj => ?_⟩
    obtain ⟨hmem, hout⟩ := hjobs' j hj
    rw [hjobs, List.mem_filter, bne_iff_ne] at hmem
    exact ⟨hmem.1, by simp [hmem.2, hout]⟩

/-- SLOT_IDLE leaves no slot retiring past its time. -/
theorem slotIdle_spec {x : Nat} {s : State} (h : nextIdle s = some x) :
    (slotIdle s).now = max s.now x ∧ ∀ j ∈ (slotIdle s).jobs, j ∈ s.jobs ∧ ∀ y, j.idleAt = some y → (slotIdle s).now < y := by
  obtain ⟨done, hdone, hidle⟩ : ∃ done : List Nat, (∀ j ∈ (runTo x s).jobs, j.id ∉ done → ∀ y, j.idleAt = some y → (runTo x s).now < y) ∧
      slotIdle s = done.foldl (fun a id => jobRetired id a) (runTo x s) := by
    unfold slotIdle
    rw [h]
    refine ⟨_, fun j hj hout y hy => ?_, rfl⟩
    by_contra hpast
    exact hout (List.mem_map_of_mem (List.mem_filter.mpr ⟨hj, by simpa [hy] using Nat.le_of_not_lt hpast⟩))
  obtain ⟨hnow, hjobs⟩ := foldl_jobRetired_fields done (runTo x s)
  rw [hidle]
  refine ⟨hnow.trans (runTo_now x s), fun j hj => ?_⟩
  obtain ⟨hmem, hout⟩ := hjobs j hj
  exact ⟨by simpa using hmem, fun y hy => hnow ▸ hdone j hmem hout y hy⟩

/-! #### Forward-copies (R49, R62) -/

/-- The data port changes the store, and otherwise time passes. -/
theorem portServesReq_eq (c : StoreClient) (s : State) :
    ∃ dt st, portServesReq c s = { elapse dt s with store := st } := by
  unfold portServesReq
  split
  · exact ⟨_, _, rfl⟩
  · exact ⟨0, s.store, by rw [elapse_zero]⟩

@[simp] theorem portServesReq_fields (c : StoreClient) (s : State) :
    (portServesReq c s).jobs = s.jobs ∧ (portServesReq c s).releases = s.releases := by
  obtain ⟨dt, st, h⟩ := portServesReq_eq c s
  simp [h]

theorem get_portServesReq {g : Fld} {j : Nat} (h : g.key j ∉ timeKeys) (c : StoreClient) (s : State) :
    get g j (portServesReq c s) = get g j s := by
  obtain ⟨dt, st, hserved⟩ := portServesReq_eq c s
  rw [hserved, ← get_elapse h dt s]
  exact get_congr g j rfl rfl rfl

@[simp] theorem copyServed_fields (src tenant : Nat) (s : State) :
    (copyServed src tenant s).jobs = s.jobs ∧ (copyServed src tenant s).releases = s.releases := by
  unfold copyServed
  split
  · simp
  · exact ⟨rfl, rfl⟩

theorem get_copyServed {g : Fld} {j : Nat} (h : g.key j ∉ timeKeys) (src tenant : Nat) (s : State) :
    get g j (copyServed src tenant s) = get g j s := by
  unfold copyServed
  split
  · exact get_portServesReq h ..
  · rfl

theorem forwardJob_congr {src d : Nat} {s t : State} (h : t.jobs = s.jobs) : forwardJob src d t = forwardJob src d s := by
  rw [forwardJob, forwardJob, h]

/-- What a forward-copy has written of its record at a visit, before it is judged. -/
def copied (src d : Nat) (j : Job) (s : State) : State :=
  if j.begun then writeMany (96 + d) (qGet (96 + d) s).wait.length s
  else offer (96 + d) (.job j.id) (match releaseOf src s with
    | some r => copyWords r.words
    | none => []) (jobMap j.id (fun x => { x with begun := true }) s)

theorem forwardCopyDone_eq {src d : Nat} {j : Job} {s : State} (h : forwardJob src d s = some j) :
    forwardCopyDone src d s = if outside (96 + d) (.job j.id) (copied src d j s) = 0 then forwardMet j (copied src d j s)
      else copied src d j s := by
  unfold forwardCopyDone
  rw [h]
  rfl

/-- A copy that is not at its end keeps its slot. -/
theorem activeJob_copied {src d : Nat} {j : Job} {s : State} (h : forwardJob src d s = some j) :
    (activeJob j.id (copied src d j s)).isSome = true := by
  have hidle : j.idleAt = none := by
    have hj := List.find?_some h
    simp only [Bool.and_eq_true, Option.isNone_iff_eq_none] at hj
    exact hj.2
  have hmem : j ∈ s.jobs := List.mem_of_find?_eq_some h
  unfold copied activeJob
  rw [List.find?_isSome]
  split
  · exact ⟨j, by simpa using hmem, by simp [hidle]⟩
  · refine ⟨{ j with begun := true }, ?_, by simp [hidle]⟩
    simp only [offer_fields, jobMap, List.mem_map]
    exact ⟨j, hmem, if_pos rfl⟩

theorem get_copied {g : Fld} {i src d : Nat} {j : Job} (h : g.key i ∉ queueKeys (96 + d)) (s : State) :
    get g i (copied src d j s) = get g i s := by
  unfold copied
  split
  · exact get_writeMany h ..
  · exact (get_offer h ..).trans (get_congr g i rfl rfl rfl)

/-- DELIVERED of a tenant is in no queue's entry, and no field that passing time can change. -/
theorem delivered_keys {d : Nat} (hd : d < 128) :
    TN.DELIVERED.key d ∉ queueKeys (96 + d) ∧ TN.DELIVERED.key d ∉ timeKeys := by
  have hkey : TN.DELIVERED.key d = 134217728 + (5 + 32 * d) * 32 := rfl
  refine ⟨?_, not_timeKeys (.inl (by omega))⟩
  simp only [queueKeys, Fld.key, TN.DELIVERED, RG.IRQ_EVENT, RG.IRQ_QUEUE, QU.FULL, CN.RECORDS_IN, CN.GAP_CNT, CN.WORDS_IN,
    CN.FULL_CNT, CN.WORDS_HWM, CN.USED_HWM, List.mem_cons, List.not_mem_nil, or_false]
  omega

/-- A copy whose words are all written ends, delivered (R49). -/
theorem forwardMet_spec {j : Job} {d : Nat} (hd : d < 128) (hj : j.tenant = d) (s : State) :
    activeJob j.id (forwardMet j s) = none ∧ get TN.DELIVERED d (forwardMet j s) = TN.DELIVERED.count (get TN.DELIVERED d s) 1 ∧
    (forwardMet j s).queues = s.queues := by
  subst hj
  have hkey : TN.DELIVERED.key j.tenant = 134217728 + (5 + 32 * j.tenant) * 32 := rfl
  have hclass : 301989888 ≤ CN.TENANT_CLASS.key (4 * j.tenant + j.cls) := by
    simp only [Fld.key, CN.TENANT_CLASS]; omega
  have hget : get TN.DELIVERED j.tenant (forwardMet j s) = get TN.DELIVERED j.tenant
      (bump CN.TENANT_CLASS (4 * j.tenant + j.cls) (bump TN.DELIVERED j.tenant s)) := get_congr _ _ rfl rfl rfl
  refine ⟨activeJob_endJob .., hget.trans ?_, by simp [forwardMet, meetJob]⟩
  rw [get_bump_ne (by omega), get_bump_same]

end Sys2Proof.Machine

section

open Sys2Proof Sys2Proof.Machine

/-- Settles O28, clause by clause: no slot, one waiting record, no expiry, an expiry, no record, a record settled, no slot
retiring, a slot idle, no copy, a copy at its end or not. -/
theorem jobsTakeAndFreeSlots : Obligations.JobsTakeAndFreeSlots := by
  refine ⟨?full, ?spawns, ?noExpiry, ?expires, ?noRecord, ?settles, ?noIdle, ?retires, ?noCopy, ?copies⟩
  case full =>
    intro dt s hpolls hslot
    exact congrArg Host.Outcome.next (jobSpawn_full hpolls ((slotBeyondReserve_elapse dt s).trans hslot))
  case spawns =>
    intro dt r d rest rem s hpolls hslot hreleases huplinks htodo hrem
    have hspawn := jobSpawn_forward (s := elapse dt s) hpolls ((slotBeyondReserve_elapse dt s).trans hslot) (by simpa using hreleases)
      (by simpa using huplinks) htodo hrem
    obtain ⟨hjobs, hnext, hkept⟩ := spawnJob_spec .fwd rem r.cls d r.src none (elapse dt s)
    refine ⟨_, congrArg Host.Outcome.next hspawn, ?_, ?_, ?_⟩
    · simp [releaseMap, hkept, hreleases]
    · simpa using hjobs
    · simpa using hnext
  case noExpiry =>
    intro s h
    exact congrArg Host.Outcome.next (by simp [jobDeadlineExpiry, h])
  case expires =>
    intro j s htenant hnext hkind
    have hexpiry : jobDeadlineExpiry s = forwardExpired j (runTo j.due s) := by simp [jobDeadlineExpiry, hnext, jobExpired, hkind]
    obtain ⟨hnow, hended, hcount, hflag, hirq⟩ := forwardExpired_spec j (runTo j.due s)
    obtain ⟨k, hlow, hhigh, hkey⟩ := lateDropF_key j.cls j.tenant
    rw [get_runTo (not_timeKeys (.inl (by omega)))] at hcount
    exact ⟨_, congrArg Host.Outcome.next hexpiry, hnow.trans (runTo_now ..), hended, hcount, hflag, hirq⟩
  case noRecord =>
    intro src s h
    exact congrArg Host.Outcome.next (by simp [waitingRecordSettle, h])
  case settles =>
    intro src r s h htodo hjobs
    have hsettle : waitingRecordSettle src s = settleRecord src (runTo (cycleOfNs r.deadline s) s) := by
      simp [waitingRecordSettle, h, htodo]
    have hsame : releaseOf src (runTo (cycleOfNs r.deadline s) s) = some r := by simpa [releaseOf] using h
    obtain ⟨hnow, hsettled⟩ := settleRecord_spec hsame hjobs
    exact ⟨_, congrArg Host.Outcome.next hsettle, hnow.trans (runTo_now ..), hsettled⟩
  case noIdle =>
    intro s h
    exact congrArg Host.Outcome.next (by simp [slotIdle, h])
  case retires =>
    intro x s h
    obtain ⟨hnow, hjobs⟩ := slotIdle_spec h
    exact ⟨_, rfl, hnow, hjobs⟩
  case noCopy =>
    intro dt src d s h
    have hnone : forwardJob src d (elapse dt s) = none := (forwardJob_congr (by simp)).trans h
    exact congrArg Host.Outcome.next (by simp [copyServed, hnone, forwardCopyDone])
  case copies =>
    intro dt src d j s hd h
    obtain ⟨hqueue, htime⟩ := delivered_keys hd
    have hjob : forwardJob src d (copyServed src d (elapse dt s)) = some j := (forwardJob_congr (by simp)).trans h
    have htenant : j.tenant = d := by
      have hj := List.find?_some h
      simp only [Bool.and_eq_true, beq_iff_eq] at hj
      exact hj.1.2
    have hdone := forwardCopyDone_eq hjob
    have hactive := activeJob_copied hjob
    have hget : get TN.DELIVERED d (copied src d j (copyServed src d (elapse dt s))) = get TN.DELIVERED d s := by
      rw [get_copied hqueue, get_copyServed htime, get_elapse htime]
    generalize copied src d j (copyServed src d (elapse dt s)) = e at hdone hactive hget
    refine ⟨_, congrArg Host.Outcome.next hdone, ?_⟩
    by_cases hall : outside (96 + d) (.job j.id) e = 0
    · obtain ⟨hended, hcount, hqueues⟩ := forwardMet_spec hd htenant e
      have hout : outside (96 + d) (.job j.id) (forwardMet j e) = 0 := by rw [outside, qGet_congr hqueues, ← outside, hall]
      rw [if_pos hall, if_pos hout, ← hget]
      exact ⟨hended, hcount⟩
    · rw [if_neg hall, if_neg hall]
      exact ⟨hactive, hget⟩

end

end

section

/-! ### Leakage slices -/

namespace Sys2Proof.Machine

/-! #### A line at its guard and at the concentrator -/

theorem lnGet_congr {s t : State} (h : t.lines = s.lines) (p : Nat) : lnGet p t = lnGet p s := by
  unfold lnGet; rw [h]

theorem lcGet_congr {s t : State} (h : t.lineCtl = s.lineCtl) (p : Nat) : lcGet p t = lcGet p s := by
  unfold lcGet; rw [h]

theorem gGet_congr {s t : State} (h : t.guards = s.guards) (k : Nat) : gGet k t = gGet k s := by
  unfold gGet; rw [h]

theorem isWaiting_congr {s t : State} (h : t.leave = s.leave) (k : LeaveKind) : isWaiting k t = isWaiting k s := by
  unfold isWaiting waiting; rw [h]

theorem isGranted_congr {s t : State} (h : t.leave = s.leave) (k : LeaveKind) : isGranted k t = isGranted k s := by
  unfold isGranted grants; rw [h]

/-! Passing time changes no line, no guard and no leave, and each table changes by itself. -/

@[simp] theorem lnGet_elapse (p : Nat) (dt : Nat) (s : State) : lnGet p (elapse dt s) = lnGet p s := lnGet_congr (by simp) p
@[simp] theorem lcGet_elapse (p : Nat) (dt : Nat) (s : State) : lcGet p (elapse dt s) = lcGet p s := lcGet_congr (by simp) p
@[simp] theorem gGet_elapse (k : Nat) (dt : Nat) (s : State) : gGet k (elapse dt s) = gGet k s := gGet_congr (by simp) k
@[simp] theorem isWaiting_elapse (k : LeaveKind) (dt : Nat) (s : State) : isWaiting k (elapse dt s) = isWaiting k s := isWaiting_congr (by simp) k
@[simp] theorem isGranted_elapse (k : LeaveKind) (dt : Nat) (s : State) : isGranted k (elapse dt s) = isGranted k s := isGranted_congr (by simp) k
@[simp] theorem lnGet_runTo (p : Nat) (due : Nat) (s : State) : lnGet p (runTo due s) = lnGet p s := lnGet_congr (by simp) p
@[simp] theorem lcGet_runTo (p : Nat) (due : Nat) (s : State) : lcGet p (runTo due s) = lcGet p s := lcGet_congr (by simp) p
@[simp] theorem gGet_runTo (k : Nat) (due : Nat) (s : State) : gGet k (runTo due s) = gGet k s := gGet_congr (by simp) k
@[simp] theorem lcGet_lnMap (p : Nat) (q : Nat) (f : GLine → GLine) (s : State) : lcGet p (lnMap q f s) = lcGet p s := rfl
@[simp] theorem lnGet_lcMap (p : Nat) (q : Nat) (f : LineCtl → LineCtl) (s : State) : lnGet p (lcMap q f s) = lnGet p s := rfl
@[simp] theorem lnGet_copMap (p : Nat) (q : Nat) (f : CopPort → CopPort) (s : State) : lnGet p (copMap q f s) = lnGet p s := rfl
@[simp] theorem lcGet_copMap (p : Nat) (q : Nat) (f : CopPort → CopPort) (s : State) : lcGet p (copMap q f s) = lcGet p s := rfl
@[simp] theorem gGet_copMap (k : Nat) (q : Nat) (f : CopPort → CopPort) (s : State) : gGet k (copMap q f s) = gGet k s := rfl
@[simp] theorem isGranted_copMap (k : LeaveKind) (q : Nat) (f : CopPort → CopPort) (s : State) : isGranted k (copMap q f s) = isGranted k s := rfl

/-! #### Leave for a slice (R247, R773, R774) -/

@[simp] theorem checkBudget_fields (p : Pool) (s : State) :
    (checkBudget p s).now = s.now ∧ (checkBudget p s).leave = s.leave ∧ (checkBudget p s).lines = s.lines ∧
    (checkBudget p s).lineCtl = s.lineCtl ∧ (checkBudget p s).guards = s.guards ∧ (checkBudget p s).canopy = s.canopy := by
  unfold checkBudget
  split <;> simp

@[simp] theorem releaseLeave_fields (k : LeaveKind) (s : State) :
    (releaseLeave k s).now = s.now ∧ (releaseLeave k s).lines = s.lines ∧ (releaseLeave k s).lineCtl = s.lineCtl ∧
    (releaseLeave k s).guards = s.guards ∧ (releaseLeave k s).canopy = s.canopy := by
  simp only [releaseLeave, checkBudget_fields]
  cases k.pool <;> exact ⟨rfl, rfl, rfl, rfl, rfl⟩

/-- A holder that releases its units holds no grant (R774). -/
theorem isGranted_releaseLeave (k : LeaveKind) (s : State) : isGranted k (releaseLeave k s) = false := by
  rw [releaseLeave, isGranted_congr (checkBudget_fields _ _).2.1]
  unfold isGranted grants setGrants
  cases k.pool <;> simp

@[simp] theorem withdrawLeave_fields (k : LeaveKind) (s : State) :
    (withdrawLeave k s).now = s.now ∧ (withdrawLeave k s).lines = s.lines ∧ (withdrawLeave k s).lineCtl = s.lineCtl ∧
    (withdrawLeave k s).guards = s.guards ∧ (withdrawLeave k s).canopy = s.canopy := by
  unfold withdrawLeave setWaiting
  cases k.pool <;> exact ⟨rfl, rfl, rfl, rfl, rfl⟩

theorem isGranted_withdrawLeave (k r : LeaveKind) (s : State) : isGranted r (withdrawLeave k s) = isGranted r s := by
  unfold isGranted grants withdrawLeave setWaiting
  cases k.pool <;> rfl

theorem mem_enqueue {r x : LeaveReq} {l : List LeaveReq} : x ∈ enqueue r l ↔ x = r ∨ x ∈ l := by
  induction l with
  | nil => simp [enqueue]
  | cons y l ih =>
    unfold enqueue
    split
    · simp
    · simp only [List.mem_cons, ih]
      tauto

/-- A request that is made waits. -/
theorem isWaiting_requestLeave (k : LeaveKind) (units limit : Nat) (urgent : Bool) (s : State) :
    isWaiting k (requestLeave k units limit urgent s) = true := by
  have hqueued (l : List LeaveReq) : (enqueue ⟨k, units, s.now, s.now + limit, urgent, false⟩ l).any (fun r => r.kind == k) = true :=
    List.any_eq_true.mpr ⟨_, mem_enqueue.mpr (.inl rfl), by simp⟩
  unfold isWaiting requestLeave setWaiting waiting
  cases k.pool <;> exact hqueued _

theorem isGranted_requestLeave (k r : LeaveKind) (units limit : Nat) (urgent : Bool) (s : State) :
    isGranted r (requestLeave k units limit urgent s) = isGranted r s := by
  unfold isGranted grants requestLeave setWaiting
  cases k.pool <;> rfl

@[simp] theorem requestLeave_fields (k : LeaveKind) (units limit : Nat) (urgent : Bool) (s : State) :
    (requestLeave k units limit urgent s).now = s.now ∧ (requestLeave k units limit urgent s).lines = s.lines ∧
    (requestLeave k units limit urgent s).lineCtl = s.lineCtl ∧ (requestLeave k units limit urgent s).canopy = s.canopy := by
  unfold requestLeave setWaiting
  cases k.pool <;> exact ⟨rfl, rfl, rfl, rfl⟩

@[simp] theorem sliceAsk_fields (p : Nat) (s : State) :
    (sliceAsk p s).now = s.now ∧ (sliceAsk p s).lines = s.lines ∧ (sliceAsk p s).lineCtl = s.lineCtl ∧
    isGranted (.slice p) (sliceAsk p s) = isGranted (.slice p) s := by
  unfold sliceAsk
  split
  · simp [isGranted_requestLeave]
  · exact ⟨rfl, rfl, rfl, rfl⟩

/-- While a measurement runs, its next slice has its leave or waits for it. -/
theorem sliceAsk_asks {p : Nat} {s : State} (h : (lcGet p s).measuring = true) :
    isWaiting (.slice p) (sliceAsk p s) || isGranted (.slice p) (sliceAsk p s) := by
  unfold sliceAsk
  split
  · simp [isWaiting_requestLeave]
  · next hnot =>
    by_contra hneither
    simp only [Bool.or_eq_true, not_or, Bool.not_eq_true] at hneither
    exact hnot ⟨h, by simp [hneither.1], by simp [hneither.2]⟩

/-! #### Counts and events at the guard (R714, R715) -/

/-- One count at the guard: the counter counts, and of the rest only what the clears and forwards on their way carry changes. -/
theorem lnCount_spec (p i : Nat) (s : State) :
    (∃ inc, lnGet p (lnCount p i s) =
      { lnGet p s with cnt := store 0 i ((glCounter i).count (lookup 0 i (lnGet p s).cnt) 1) (lnGet p s).cnt, inc := inc }) ∧
    (∃ l, lcGet p (lnCount p i s) = { lcGet p s with forward := l }) ∧ (lnCount p i s).now = s.now ∧
    (lnCount p i s).leave = s.leave ∧ (lnCount p i s).guards = s.guards := by
  unfold lnCount
  dsimp only
  rw [lcGet_lcMap_same, lnGet_lcMap, lnGet_lnMap_same]
  exact ⟨⟨_, rfl⟩, ⟨_, rfl⟩, rfl, rfl, rfl⟩

/-- The counter that is counted. -/
theorem lookup_lnCount (p i : Nat) (s : State) :
    lookup 0 i (lnGet p (lnCount p i s)).cnt = (glCounter i).count (lookup 0 i (lnGet p s).cnt) 1 := by
  obtain ⟨⟨inc, hline⟩, -⟩ := lnCount_spec p i s
  rw [hline]
  exact lookup_store_same _ _ _ _

/-- An event bit at the guard. -/
theorem lnEvent_spec (p bit : Nat) (s : State) :
    (∃ since, lnGet p (lnEvent p bit s) = { lnGet p s with events := (lnGet p s).events ||| 2 ^ bit, since := since }) ∧
    (∃ l, lcGet p (lnEvent p bit s) = { lcGet p s with forward := l }) ∧ (lnEvent p bit s).now = s.now ∧
    (lnEvent p bit s).leave = s.leave := by
  unfold lnEvent
  dsimp only
  rw [lcGet_lcMap_same, lnGet_lcMap, lnGet_lnMap_same]
  exact ⟨⟨_, rfl⟩, ⟨_, rfl⟩, rfl, rfl⟩

/-- A bit that is set reads as set. -/
theorem bitOf_or (v i : Nat) : bitOf (v ||| 2 ^ i) i = true := by
  have h : (v ||| 2 ^ i).testBit i = true := by simp [Nat.testBit_or, Nat.testBit_two_pow_self]
  rw [Nat.testBit_eq_decide_div_mod_eq] at h
  simpa [bitOf] using h

/-! #### Transactions on the guard link (4.2) -/

@[simp] theorem maskBit_fields (f : Fld) (k : Nat) (v : Bool) (s : State) :
    (maskBit f k v s).lines = s.lines ∧ (maskBit f k v s).lineCtl = s.lineCtl := ⟨rfl, rfl⟩

@[simp] theorem logGuard_fields (sub k : Nat) (s : State) :
    (logGuard sub k s).lines = s.lines ∧ (logGuard sub k s).lineCtl = s.lineCtl := by
  simp [logGuard]

@[simp] theorem linkGood_fields (k : Nat) (s : State) : (linkGood k s).lines = s.lines ∧ (linkGood k s).lineCtl = s.lineCtl := by
  unfold linkGood
  dsimp only
  split <;> simp

@[simp] theorem linkBad_fields (k : Nat) (s : State) : (linkBad k s).lines = s.lines ∧ (linkBad k s).lineCtl = s.lineCtl := by
  unfold linkBad
  dsimp only
  split <;> simp [guardAlert]

@[simp] theorem linkTry_fields (k : Nat) (e : GlEnd) (s : State) :
    (linkTry k e s).lines = s.lines ∧ (linkTry k e s).lineCtl = s.lineCtl := by
  cases e <;> simp [linkTry]

/-- What holds of a state and is kept by a step, `each` keeps. -/
theorem each_invariant {P : State → Prop} {f : Nat → State → State} (h : ∀ i a, P a → P (f i a)) (l : List Nat) {s : State}
    (hs : P s) : P (each l f s) := by
  unfold each
  induction l generalizing s with
  | nil => exact hs
  | cons i l ih => exact ih (h i s hs)

/-- A transaction of the link changes no line. -/
@[simp] theorem transact_fields (k : Nat) (req data : List Byte) (o : GlOutcome) (s : State) :
    (transact k req data o s).lines = s.lines ∧ (transact k req data o s).lineCtl = s.lineCtl := by
  have htries := each_invariant (P := fun a => a.lines = s.lines ∧ a.lineCtl = s.lineCtl) (f := fun _ a => linkTry k .replyCrc a)
    (fun i a ha => by simpa using ha) (List.range (min o.badReplies 2)) (s := gMap k (fun g => { g with link := ⟨req, glReply o data⟩ }) s)
    ⟨rfl, rfl⟩
  simpa [transact, watchHealth, linkResult] using htries

/-- Where the fields are that a transaction with guard `k` can change. -/
def linkKeys (k : Nat) : List Nat :=
  timeKeys ++ [RG.GUARD_LINK_OK.key 0, RG.MON_STATE.key k, RG.GA_LINK_FAULT.key 0, RG.IRQ_GUARD.key 0, RG.GL_ERR_CNT.key 0,
    RG.GL_HOLD_TO_CNT.key 0]

section

variable {g : Fld} {j k : Nat} (h : g.key j ∉ linkKeys k)
include h

theorem ne_linkKey {f : Fld} {i : Nat} (hmem : f.key i ∈ linkKeys k) : g.key j ≠ f.key i :=
  (ne_of_mem_of_not_mem hmem h).symm

theorem get_logGuard (sub : Nat) (s : State) : get g j (logGuard sub k s) = get g j s :=
  get_logEvent (fun hmem => h (List.mem_append_left _ hmem)) ..

theorem get_linkGood (s : State) : get g j (linkGood k s) = get g j s := by
  have hmask : get g j (maskBit RG.GUARD_LINK_OK k true (gMap k (fun x => { x with fails := 0, faulted := false }) s)) = get g j s :=
    get_put_ne (ne_linkKey h (by simp [linkKeys])) ..
  unfold linkGood
  dsimp only
  split
  · rw [get_logGuard h, get_put_ne (ne_linkKey h (by simp [linkKeys])), hmask]
  · exact hmask

theorem get_linkBad (s : State) : get g j (linkBad k s) = get g j s := by
  unfold linkBad
  dsimp only
  split
  · rw [get_logGuard h, guardAlert, get_irq_ne (ne_linkKey h (by simp [linkKeys])), get_setBits_ne (ne_linkKey h (by simp [linkKeys])),
      get_put_ne (ne_linkKey h (by simp [linkKeys])), maskBit, get_put_ne (ne_linkKey h (by simp [linkKeys]))]
    rfl
  · rfl

theorem get_linkTry (e : GlEnd) (s : State) : get g j (linkTry k e s) = get g j s := by
  cases e with
  | ok | refused => exact get_linkGood h s
  | requestCrc | busy => exact get_linkBad h s
  | replyCrc => exact (get_linkBad h _).trans (get_bump_ne (ne_linkKey h (by simp [linkKeys])) s)
  | holdOff a => exact (get_linkBad h _).trans (get_bump_ne (ne_linkKey h (by simp [linkKeys])) s)

/-- A transaction changes no field but those of the link, of the event log and of the event queue. -/
theorem get_transact (req data : List Byte) (o : GlOutcome) (s : State) : get g j (transact k req data o s) = get g j s := by
  have htries := each_invariant (P := fun a => get g j a = get g j s) (f := fun _ a => linkTry k .replyCrc a)
    (fun i a ha => (get_linkTry h _ a).trans ha) (List.range (min o.badReplies 2))
    (s := gMap k (fun x => { x with link := ⟨req, glReply o data⟩ }) s) rfl
  have hresult : get g j (linkResult k o (gMap k (fun x => { x with link := ⟨req, glReply o data⟩ }) s)) = get g j s :=
    (get_linkTry h ..).trans htries
  exact (get_congr g j rfl rfl rfl).trans hresult

end

/-! #### A measurement (R246 to R252) -/

/-- A measurement begins now, with no slice counted yet, and its first slice has its leave or waits for it. -/
theorem measureStart_spec (p : Nat) (s : State) :
    (measureStart p s).now = s.now ∧
    lnGet p (measureStart p s) = { lnGet p s with slicesDone := 0, firstSlice := none } ∧
    lcGet p (measureStart p s) = { lcGet p s with leakFrom := some s.now, measuring := true } ∧
    (isWaiting (.slice p) (measureStart p s) || isGranted (.slice p) (measureStart p s)) = true := by
  unfold measureStart
  dsimp only
  refine ⟨by simp, ?_, ?_, sliceAsk_asks (by rw [lcGet_lcMap_same])⟩
  · rw [lnGet_congr (sliceAsk_fields p _).2.1, lnGet_lcMap, lnGet_lnMap_same]
  · rw [lcGet_congr (sliceAsk_fields p _).2.2.1, lcGet_lcMap_same]
    rfl

/-- A slice in progress is given up, and nothing else of its line. -/
theorem discardSlice_spec (p : Nat) (s : State) :
    (discardSlice p s).now = s.now ∧ lnGet p (discardSlice p s) = { lnGet p s with slice := none } ∧
    lcGet p (discardSlice p s) = lcGet p s := by
  unfold discardSlice
  split
  · refine ⟨by simp, ?_, ?_⟩
    · rw [lnGet_congr (releaseLeave_fields _ _).2.1]
      exact lnGet_lnMap_same p _ s
    · rw [lcGet_congr (releaseLeave_fields _ _).2.2.1]
      rfl
  · next hnone =>
    have hslice : (lnGet p s).slice = none := by simpa using hnone
    exact ⟨rfl, by rw [← hslice], rfl⟩

/-- A window that passes discards the slices, sets LEAK_STALE and begins a new measurement (R250). -/
theorem windowExpired_spec (p : Nat) (s : State) :
    (windowExpired p s).now = s.now ∧ (lnGet p (windowExpired p s)).slicesDone = 0 ∧
    (lnGet p (windowExpired p s)).firstSlice = none ∧ (lnGet p (windowExpired p s)).slice = none ∧
    (lcGet p (windowExpired p s)).leakFrom = some s.now ∧ bitOf (lnGet p (windowExpired p s)).events 9 = true ∧
    (lnGet p (windowExpired p s)).leakResult = (lnGet p s).leakResult := by
  obtain ⟨hnow, hline, -⟩ := discardSlice_spec p s
  obtain ⟨⟨since, hevent⟩, -, hnow', -⟩ := lnEvent_spec p 9 (discardSlice p s)
  obtain ⟨hnow'', hline', hctl, -⟩ := measureStart_spec p (lnEvent p 9 (discardSlice p s))
  unfold windowExpired
  rw [hline', hctl, hevent, hline, hnow'', hnow', hnow]
  exact ⟨rfl, rfl, rfl, rfl, rfl, bitOf_or _ 9, rfl⟩

/-- The measurement of line `p` has ended in CORE cycle `n` with LEAK_RESULT `r`. -/
structure LeakDone (p r n : Nat) (s : State) : Prop where
  valid : (lnGet p s).leakValid = true
  result : (lnGet p s).leakResult = r
  at_ : (lnGet p s).leakAt = n
  ended : (lcGet p s).measuring = false

section

variable {p r n : Nat} {s : State} (h : LeakDone p r n s)
include h

theorem LeakDone.lnEvent (bit : Nat) : LeakDone p r n (lnEvent p bit s) := by
  obtain ⟨⟨since, hline⟩, ⟨l, hctl⟩, -⟩ := lnEvent_spec p bit s
  constructor <;> simp only [hline, hctl]
  exacts [h.valid, h.result, h.at_, h.ended]

theorem LeakDone.lnCount (i : Nat) : LeakDone p r n (lnCount p i s) := by
  obtain ⟨⟨inc, hline⟩, ⟨l, hctl⟩, -⟩ := lnCount_spec p i s
  constructor <;> simp only [hline, hctl]
  exacts [h.valid, h.result, h.at_, h.ended]

theorem LeakDone.alertLine : LeakDone p r n (alertLine p s) := ⟨h.valid, h.result, h.at_, h.ended⟩

theorem LeakDone.low (low : Bool) : LeakDone p r n (lnMap p (fun x => { x with leakLow := low }) s) := by
  constructor <;> simp only [lnGet_lnMap_same, lcGet_lnMap]
  exacts [h.valid, h.result, h.at_, h.ended]

theorem LeakDone.switchedOff (at_ : Nat) :
    LeakDone p r n (lnMap p (fun x => { x with pwr := 5, cause := 8, inrushEnd := none, faultAt := at_ }) s) := by
  constructor <;> simp only [lnGet_lnMap_same, lcGet_lnMap]
  exacts [h.valid, h.result, h.at_, h.ended]

end

/-- A result stands, whatever it makes of LEAK_LOW and of bus power (R250 to R252). -/
theorem leakResult_spec (p kohm : Nat) (s : State) : LeakDone p (leakCode kohm) s.now (leakResult p kohm s) := by
  unfold leakResult
  extract_lets r th a b c
  have hset : LeakDone p r s.now b := by
    constructor <;> simp only [b, a, lnGet_lcMap, lnGet_lnMap_same, lcGet_lcMap_same]
  have hlow : LeakDone p r s.now c := ((hset.low true).lnEvent 8).alertLine
  clear_value b c
  split
  · split
    · exact ((hlow.switchedOff _).lnCount 5).alertLine
    · exact hlow
  · split
    · exact hset.low false
    · exact hset

/-! #### One slice (R246 to R250) -/

/-- A slice begins SLICE_MARGIN_US into its gap, which counts as granted. -/
theorem sliceStart_spec {p : Nat} {o : GlOutcome} {s : State} (hfree : linkFree (p / 8) s = true) (hserves : guardServes p s = true)
    (hmeasuring : (lcGet p s).measuring = true) (hmay : mayStart (.slice p) s = true) (hslice : (lnGet p s).slice = none)
    (htrim : (lcGet p s).trimAt = none) (htrims : trimStarts p s = false) (hspaced : sliceSpaced p s = true)
    (hfits : gapFits p (sliceGap s) s = true) (hok : o.isOk = true) :
    (lnGet p (sliceStart p o s)).slice = some (s.now + cyclesUs (get RG.SLICE_MARGIN_US 0 s)) ∧
    (lcGet p (sliceStart p o s)).lastSlice = some (s.now + cyclesUs (get RG.SLICE_MARGIN_US 0 s)) ∧
    get RG.GAP_GRANT_CNT 0 (sliceStart p o s) = RG.GAP_GRANT_CNT.count (get RG.GAP_GRANT_CNT 0 s) 1 := by
  have hacted : glActed o = true := by
    have hlast : o.last = .ok := by simpa [GlOutcome.isOk] using hok
    simp [glActed, hlast]
  have hkey : RG.GAP_GRANT_CNT.key 0 ∉ linkKeys (p / 8) := by
    have hguard : p / 8 < 6 := by
      have hpresent : guardOk s (p / 8) = true := by
        simp only [linkFree, linkUsable, Bool.and_eq_true] at hfree
        exact hfree.1.1
      have hlt : p / 8 < Config.guards s.variant := by simpa [guardOk] using hpresent
      have hmost : Config.guards s.variant ≤ 6 := by cases s.variant <;> decide
      omega
    have hall : ∀ k < 6, RG.GAP_GRANT_CNT.key 0 ∉ linkKeys k := by decide
    exact hall _ hguard
  have hgrant : get RG.GAP_GRANT_CNT 0 (grantGap p s) = RG.GAP_GRANT_CNT.count (get RG.GAP_GRANT_CNT 0 s) 1 :=
    get_bump_same RG.GAP_GRANT_CNT 0 _
  have hmargin : get RG.SLICE_MARGIN_US 0 (grantGap p s) = get RG.SLICE_MARGIN_US 0 s := get_bump_ne (by decide) _
  have hnow : (grantGap p s).now = s.now := rfl
  unfold sliceStart
  rw [if_neg (by simp [hfree, hserves, hmeasuring, hmay, hslice, htrim, htrims, hspaced, hfits])]
  dsimp only
  rw [if_pos hacted, lnGet_congr (transact_fields ..).1, lcGet_congr (transact_fields ..).2, get_transact hkey, lnGet_lcMap,
    lnGet_lnMap_same, lcGet_lcMap_same, hmargin, hnow, ← hgrant]
  exact ⟨rfl, rfl, get_congr _ _ rfl rfl rfl⟩

/-- A slice that is given up counts, gives its units back, and the next one is asked for. -/
theorem dropSlice_spec {p counter x : Nat} {s : State} (h : (lnGet p s).slice = some x) :
    (lnGet p (dropSlice p counter s)).slice = none ∧ isGranted (.slice p) (dropSlice p counter s) = false ∧
    lookup 0 counter (lnGet p (dropSlice p counter s)).cnt = (glCounter counter).count (lookup 0 counter (lnGet p s).cnt) 1 := by
  have hcount := lookup_lnCount p counter (lnMap p (fun x => { x with slice := none }) s)
  obtain ⟨⟨inc, hline⟩, -⟩ := lnCount_spec p counter (lnMap p (fun x => { x with slice := none }) s)
  unfold dropSlice
  rw [if_pos (by simp [h]), lnGet_congr (sliceAsk_fields p _).2.1, (sliceAsk_fields p _).2.2.2, isGranted_releaseLeave,
    lnGet_congr (releaseLeave_fields ..).2.1]
  rw [lnGet_lnMap_same] at hcount hline
  exact ⟨by rw [hline], rfl, hcount⟩

/-- A gap that starts without the slice's grant: the slice counts as SKIPPED and asks anew (R247). -/
theorem sliceSkip_spec {p : Nat} {s : State} (hmeasuring : (lcGet p s).measuring = true) (hgranted : isGranted (.slice p) s = false)
    (hslice : (lnGet p s).slice = none) (hspaced : sliceSpaced p s = true) (hfits : gapFits p (sliceGap s) s = true)
    (hwaiting : isWaiting (.slice p) s = true) :
    isWaiting (.slice p) (sliceSkip p s) = true ∧
    lookup 0 4 (lnGet p (sliceSkip p s)).cnt = GL.SKIPPED.count (lookup 0 4 (lnGet p s).cnt) 1 := by
  obtain ⟨-, ⟨l, hctl⟩, -, hleave, -⟩ := lnCount_spec p 4 (withdrawLeave (.slice p) s)
  have hcount := lookup_lnCount p 4 (withdrawLeave (.slice p) s)
  rw [lnGet_congr (withdrawLeave_fields ..).2.1] at hcount
  have hasks := sliceAsk_asks (p := p) (s := lnCount p 4 (withdrawLeave (.slice p) s))
    (by rw [hctl, lcGet_congr (withdrawLeave_fields ..).2.2.1]; exact hmeasuring)
  rw [(sliceAsk_fields p _).2.2.2, isGranted_congr hleave, isGranted_withdrawLeave, hgranted, Bool.or_false] at hasks
  unfold sliceSkip
  rw [if_neg (by simp [hmeasuring, hgranted, hslice, hspaced, hfits]), if_pos hwaiting]
  exact ⟨hasks, by rw [lnGet_congr (sliceAsk_fields p _).2.1]; exact hcount⟩

/-- Line `p` when its slice has ended and is counted, and its units are given back; the first slice of the measurement began at
`first`. -/
def sliceCounted (p first : Nat) (s : State) : State :=
  copMap p (fun c => { c with gap := none }) (releaseLeave (.slice p) (lnCount p 2 (lnMap p (fun x => { x with
    slice := none, slicesDone := x.slicesDone + 1, firstSlice := some first }) s)))

/-- What the end of a slice comes to: its window has passed, the measurement is complete, or the next slice is asked for. -/
def sliceNext (p kohm first : Nat) (s : State) : State :=
  if first + cyclesS (gGet (p / 8) s).leakWindow < s.now then windowExpired p s
  else if 25 ≤ (lnGet p s).slicesDone then leakResult p kohm s else sliceAsk p s

theorem sliceEnd_eq {p kohm x : Nat} {s : State} (hslice : (lnGet p s).slice = some x) (hline : ldeHigh p s = false)
    (htrim : (lnGet p s).inTrim = false) :
    sliceEnd p kohm s = sliceNext p kohm ((lnGet p s).firstSlice.getD x)
      (sliceCounted p ((lnGet p s).firstSlice.getD x) (runTo (x + cyclesMs 2) s)) := by
  unfold sliceEnd
  rw [hslice]
  dsimp only
  rw [if_neg (by simp [hline, htrim]), lnGet_runTo]
  rfl

theorem sliceCounted_spec (p first : Nat) (s : State) :
    (sliceCounted p first s).now = s.now ∧ gGet (p / 8) (sliceCounted p first s) = gGet (p / 8) s ∧
    (∃ inc, lnGet p (sliceCounted p first s) = { lnGet p s with
      slice := none, slicesDone := (lnGet p s).slicesDone + 1, firstSlice := some first
      cnt := store 0 2 (GL.SLICE_CNT.count (lookup 0 2 (lnGet p s).cnt) 1) (lnGet p s).cnt, inc := inc }) ∧
    (lcGet p (sliceCounted p first s)).measuring = (lcGet p s).measuring ∧
    isGranted (.slice p) (sliceCounted p first s) = false := by
  unfold sliceCounted
  generalize hmapped : lnMap p (fun x => { x with slice := none, slicesDone := x.slicesDone + 1, firstSlice := some first }) s = a
  have hmap : lnGet p a = { lnGet p s with slice := none, slicesDone := (lnGet p s).slicesDone + 1, firstSlice := some first } := by
    rw [← hmapped, lnGet_lnMap_same]
  have hrest : lcGet p a = lcGet p s ∧ a.now = s.now ∧ a.guards = s.guards := by simp [← hmapped]
  obtain ⟨⟨inc, hline⟩, ⟨l, hctl⟩, hnow, -, hguards⟩ := lnCount_spec p 2 a
  rw [lnGet_copMap, lcGet_copMap, gGet_copMap, isGranted_copMap, isGranted_releaseLeave, lnGet_congr (releaseLeave_fields ..).2.1,
    lcGet_congr (releaseLeave_fields ..).2.2.1, gGet_congr (releaseLeave_fields ..).2.2.2.1, gGet_congr (hguards.trans hrest.2.2),
    hline, hmap, hctl, hrest.1]
  exact ⟨by simp [hnow, hrest.2.1], rfl, ⟨inc, rfl⟩, rfl, rfl⟩

/-- SLICE_END of a slice that nothing took the line from: it counts, 2 ms after it began. -/
theorem sliceEnd_spec {p x : Nat} {s : State} (kohm : Nat) (hslice : (lnGet p s).slice = some x) (hline : ldeHigh p s = false)
    (htrim : (lnGet p s).inTrim = false) :
    ∃ t, sliceEnd p kohm s = sliceNext p kohm ((lnGet p s).firstSlice.getD x) t ∧ t.now = max s.now (x + cyclesMs 2) ∧
      gGet (p / 8) t = gGet (p / 8) s ∧
      (∃ inc, lnGet p t = { lnGet p s with
        slice := none, slicesDone := (lnGet p s).slicesDone + 1, firstSlice := some ((lnGet p s).firstSlice.getD x)
        cnt := store 0 2 (GL.SLICE_CNT.count (lookup 0 2 (lnGet p s).cnt) 1) (lnGet p s).cnt, inc := inc }) ∧
      (lcGet p t).measuring = (lcGet p s).measuring ∧ isGranted (.slice p) t = false := by
  have hcounted := sliceCounted_spec p ((lnGet p s).firstSlice.getD x) (runTo (x + cyclesMs 2) s)
  rw [runTo_now, gGet_runTo, lnGet_runTo, lcGet_runTo] at hcounted
  exact ⟨_, sliceEnd_eq hslice hline htrim, hcounted⟩

end Sys2Proof.Machine

section

open Sys2Proof Sys2Proof.Machine

/-- Settles O48, clause by clause: a measurement's start, first and later, and none; a slice's start and none; a slice skipped and
none; no end, a slice's end, the last one's, one after the window; a preemption and none; the window's end and none. -/
theorem leakageIsMeasuredInSlices : Obligations.LeakageIsMeasuredInSlices := by
  refine ⟨?first, ?later, ?off, ?starts, ?noStart, ?skips, ?noSkip, ?noEnd, ?ends, ?last, ?late, ?preempts, ?noPreempt, ?expires,
    ?noExpiry⟩
  case first =>
    intro p s hport hen hfrom
    have hstart : leakMeasurementStart p s = measureStart p s := by simp [leakMeasurementStart, hport, flag, hen, hfrom]
    obtain ⟨hnow, hline, hctl, hasks⟩ := measureStart_spec p s
    exact ⟨_, congrArg Host.Outcome.next hstart, hnow, by rw [hctl], by rw [hctl], by rw [hline], by rw [hline], hasks⟩
  case later =>
    intro p x s hport hen hfrom
    have hstart : leakMeasurementStart p s =
        measureStart p (discardSlice p (runTo (x + cyclesS (get GL.LEAK_PERIOD_S p s)) s)) := by
      simp [leakMeasurementStart, hport, flag, hen, hfrom]
    obtain ⟨hnow, hline, -⟩ := discardSlice_spec p (runTo (x + cyclesS (get GL.LEAK_PERIOD_S p s)) s)
    obtain ⟨hnow', hline', hctl, -⟩ := measureStart_spec p (discardSlice p (runTo (x + cyclesS (get GL.LEAK_PERIOD_S p s)) s))
    refine ⟨_, congrArg Host.Outcome.next hstart, ?_, by rw [hctl], by rw [hctl, hnow'], by rw [hline'], by rw [hline', hline]⟩
    rw [hnow', hnow, runTo_now]
  case off =>
    intro p s h
    exact congrArg Host.Outcome.next (if_pos (by rcases h with h | h <;> simp [flag, h]))
  case starts =>
    intro dt p o s hfree hserves hmeasuring hmay hslice htrim htrims hspaced hfits hok
    have hunits : linkFree (p / 8) (elapse dt s) = true ∧ guardServes p (elapse dt s) = true := by
      simpa [linkFree, linkUsable, fetchOwed, guardServes, guardOk] using And.intro hfree hserves
    have hmargin : get RG.SLICE_MARGIN_US 0 (elapse dt s) = get RG.SLICE_MARGIN_US 0 s := get_elapse (by decide) dt s
    have hcnt : get RG.GAP_GRANT_CNT 0 (elapse dt s) = get RG.GAP_GRANT_CNT 0 s := get_elapse (by decide) dt s
    have hgap : sliceGap (elapse dt s) = sliceGap s := by rw [sliceGap, sliceGap, hmargin]
    obtain ⟨hline, hctl, hgrant⟩ := sliceStart_spec (o := o) hunits.1 hunits.2 (by simpa using hmeasuring) hmay (by simpa using hslice)
      (by simpa using htrim) htrims hspaced (by rw [hgap]; exact hfits) hok
    rw [hmargin, elapse_now] at hline hctl
    exact ⟨_, rfl, hline, hctl.trans hline.symm, by rw [hgrant, hcnt]⟩
  case noStart =>
    intro dt p o s h
    have hfree : linkFree (p / 8) (elapse dt s) = linkFree (p / 8) s := by simp [linkFree, linkUsable, fetchOwed, guardOk]
    refine congrArg Host.Outcome.next (if_pos ?_)
    simp only [hfree, lcGet_elapse, lnGet_elapse]
    rcases h with h | h | h | h | h <;> simp [h, Option.isSome_iff_ne_none]
  case skips =>
    intro dt p s hmeasuring hgranted hslice hspaced hfits hwaiting
    have hmargin : get RG.SLICE_MARGIN_US 0 (elapse dt s) = get RG.SLICE_MARGIN_US 0 s := get_elapse (by decide) dt s
    have hgap : sliceGap (elapse dt s) = sliceGap s := by rw [sliceGap, sliceGap, hmargin]
    obtain ⟨hasks, hcount⟩ := sliceSkip_spec (p := p) (s := elapse dt s) (by simpa using hmeasuring) (by simpa using hgranted)
      (by simpa using hslice) hspaced (by rw [hgap]; exact hfits) (by simpa using hwaiting)
    exact ⟨_, rfl, hasks, by rw [hcount, lnGet_elapse]⟩
  case noSkip =>
    intro dt p s h
    exact congrArg Host.Outcome.next (if_pos (by rcases h with h | h <;> simp [h]))
  case noEnd =>
    intro p r s h
    refine congrArg Host.Outcome.next ?_
    unfold sliceEnd
    split
    · rfl
    · next x hslice => exact if_pos (by simpa [hslice] using h)
  case ends =>
    intro p r x s hslice hline htrim hdone hwindow
    obtain ⟨t, hend, hnow, hguard, ⟨inc, hcounted⟩, hmeasuring, hreleased⟩ := sliceEnd_spec r hslice hline htrim
    have hasks : sliceEnd p r s = sliceAsk p t := by
      rw [hend, sliceNext, hguard, hnow, if_neg (by omega), hcounted, if_neg (by simp only; omega)]
    obtain ⟨hnow', hlines, hctl, hgranted⟩ := sliceAsk_fields p t
    refine ⟨_, congrArg Host.Outcome.next hasks, hnow'.trans hnow, ?_⟩
    rw [lnGet_congr hlines, hcounted, hgranted, hreleased]
    refine ⟨rfl, rfl, rfl, rfl, lookup_store_same .., fun h => ?_⟩
    simpa [hgranted, hreleased] using sliceAsk_asks (hmeasuring.trans h)
  case last =>
    intro p r x s hslice hline htrim hdone hwindow
    obtain ⟨t, hend, hnow, hguard, ⟨inc, hcounted⟩, -⟩ := sliceEnd_spec r hslice hline htrim
    have hresult : sliceEnd p r s = leakResult p r t := by
      rw [hend, sliceNext, hguard, hnow, if_neg (by omega), hcounted, if_pos (by simp only; omega)]
    have hleak := leakResult_spec p r t
    exact ⟨_, congrArg Host.Outcome.next hresult, hleak.valid, hleak.ended, hleak.result, hleak.at_.trans hnow⟩
  case late =>
    intro p r x s hslice hline htrim hwindow
    obtain ⟨t, hend, hnow, hguard, ⟨inc, hcounted⟩, -⟩ := sliceEnd_spec r hslice hline htrim
    have hexpired : sliceEnd p r s = windowExpired p t := by
      rw [hend, sliceNext, hguard, hnow, if_pos hwindow]
    obtain ⟨-, hdone, -, hnone, hfrom, hstale, hkept⟩ := windowExpired_spec p t
    exact ⟨_, congrArg Host.Outcome.next hexpired, hnone, hdone, by rw [hfrom, hnow], hstale, by rw [hkept, hcounted]⟩
  case preempts =>
    intro dt p x s htaken hslice
    have htaken' : ldeHigh p (elapse dt s) = true ∨ (lnGet p (elapse dt s)).inTrim = true := by
      simpa [ldeHigh, pGet] using htaken
    obtain ⟨hnone, hreleased, hcount⟩ := dropSlice_spec (counter := 3) (s := elapse dt s) (by simpa using hslice)
    rw [lnGet_elapse] at hcount
    exact ⟨_, congrArg Host.Outcome.next (if_pos htaken'), hnone, hreleased, hcount⟩
  case noPreempt =>
    intro dt p s hline htrim
    have hfree : ¬(ldeHigh p (elapse dt s) = true ∨ (lnGet p (elapse dt s)).inTrim = true) := by
      simpa [ldeHigh, pGet, htrim] using hline
    exact congrArg Host.Outcome.next (if_neg hfree)
  case expires =>
    intro p x s hfirst hmeasuring
    have hexpiry : leakWindowExpiry p s = windowExpired p (runTo (x + cyclesS (gGet (p / 8) s).leakWindow) s) := by
      simp [leakWindowExpiry, hfirst, hmeasuring]
    obtain ⟨hnow, hdone, hnone, hslice, hfrom, hstale, -⟩ := windowExpired_spec p (runTo (x + cyclesS (gGet (p / 8) s).leakWindow) s)
    exact ⟨_, congrArg Host.Outcome.next hexpiry, hnow.trans (runTo_now ..), hdone, hnone, hslice, by rw [hfrom, hnow], hstale⟩
  case noExpiry =>
    intro p s h
    refine congrArg Host.Outcome.next ?_
    unfold leakWindowExpiry
    split
    · rfl
    · next x hfirst => exact if_pos (by simpa [hfirst] using h)

end

end

section

/-! ### What a register write leaves: the CORE cycle and the Canopy -/

namespace Sys2Proof.Machine

@[simp] theorem foldl_still {α : Type} (l : List α) (f : State → α → State) (s : State)
    (h : ∀ t a, (f t a).now = t.now ∧ (f t a).canopy = t.canopy) :
    (l.foldl f s).now = s.now ∧ (l.foldl f s).canopy = s.canopy := by
  induction l generalizing s with
  | nil => exact ⟨rfl, rfl⟩
  | cons a l ih => simpa [h] using ih (f s a)

@[simp] theorem each_still (l : List Nat) (f : Nat → State → State) (s : State)
    (h : ∀ k t, (f k t).now = t.now ∧ (f k t).canopy = t.canopy) :
    (each l f s).now = s.now ∧ (each l f s).canopy = s.canopy :=
  foldl_still l _ s fun t k => h k t

@[simp] theorem dropProducer_still (q : Nat) (p : Producer) (s : State) :
    (dropProducer q p s).now = s.now ∧ (dropProducer q p s).canopy = s.canopy := by
  unfold dropProducer; simp

@[simp] theorem discardOpen_still (q : Nat) (p : Producer) (s : State) :
    (discardOpen q p s).now = s.now ∧ (discardOpen q p s).canopy = s.canopy := by
  unfold discardOpen; dsimp only; split <;> simp

@[simp] theorem requestClear_still (q : Nat) (s : State) :
    (requestClear q s).now = s.now ∧ (requestClear q s).canopy = s.canopy := by
  unfold requestClear; simp [apply_ite State.now, apply_ite State.canopy]

@[simp] theorem addRing_still (d : Int) (s : State) :
    (addRing d s).now = s.now ∧ (addRing d s).canopy = s.canopy := by
  unfold addRing; simp

@[simp] theorem rtSet_setAfter_still (locked : Bool) (before : Stamp) (s : State) :
    (rtSet.setAfter locked before s).now = s.now ∧ (rtSet.setAfter locked before s).canopy = s.canopy := by
  unfold rtSet.setAfter
  dsimp only
  (repeat' split) <;> simp

@[simp] theorem rtSet_still (locked : Bool) (s : State) :
    (rtSet locked s).now = s.now ∧ (rtSet locked s).canopy = s.canopy := by
  unfold rtSet
  dsimp only
  (repeat' split) <;> simp

@[simp] theorem rtStep_still (s : State) :
    (rtStep s).now = s.now ∧ (rtStep s).canopy = s.canopy := by
  unfold rtStep; dsimp only; split <;> simp

@[simp] theorem dropReference_still (s : State) :
    (dropReference s).now = s.now ∧ (dropReference s).canopy = s.canopy := by
  unfold dropReference; simp

@[simp] theorem lockStart_still (host : Bool) (s : State) :
    (lockStart host s).now = s.now ∧ (lockStart host s).canopy = s.canopy := by
  unfold lockStart; simp [apply_ite State.now, apply_ite State.canopy]

@[simp] theorem lockStop_still (s : State) :
    (lockStop s).now = s.now ∧ (lockStop s).canopy = s.canopy := by
  unfold lockStop; dsimp only; split <;> simp

@[simp] theorem tmOutClaim_still (s : State) :
    (tmOutClaim s).now = s.now ∧ (tmOutClaim s).canopy = s.canopy := by
  unfold tmOutClaim; simp

@[simp] theorem tmOutDrop_still (s : State) :
    (tmOutDrop s).now = s.now ∧ (tmOutDrop s).canopy = s.canopy := by
  unfold tmOutDrop; simp [apply_ite State.now, apply_ite State.canopy]

@[simp] theorem budgetWritten_still (p : Pool) (s : State) :
    (budgetWritten p s).now = s.now ∧ (budgetWritten p s).canopy = s.canopy := by
  unfold budgetWritten; simp

@[simp] theorem rxTakeUp_still (p : Nat) (s : State) :
    (rxTakeUp p s).now = s.now ∧ (rxTakeUp p s).canopy = s.canopy := by
  unfold rxTakeUp; simp [apply_ite State.now, apply_ite State.canopy]

@[simp] theorem txTakeUp_still (p : Nat) (s : State) :
    (txTakeUp p s).now = s.now ∧ (txTakeUp p s).canopy = s.canopy := by
  unfold txTakeUp; simp [apply_ite State.now, apply_ite State.canopy]

@[simp] theorem formatWritten_still (p : Nat) (s : State) :
    (formatWritten p s).now = s.now ∧ (formatWritten p s).canopy = s.canopy := by
  unfold formatWritten; simp [apply_ite State.now, apply_ite State.canopy]

@[simp] theorem creditLean_still (p t : Nat) (m : Int) (s : State) :
    (creditLean p t m s).now = s.now ∧ (creditLean p t m s).canopy = s.canopy := by
  unfold creditLean; simp [apply_ite State.now, apply_ite State.canopy]

@[simp] theorem measureLean_still (p : Nat) (r : OpenRec) (flags talker : Nat) (s : State) :
    (measureLean p r flags talker s).now = s.now ∧ (measureLean p r flags talker s).canopy = s.canopy := by
  unfold measureLean; simp [apply_ite State.now, apply_ite State.canopy]; (repeat' split) <;> simp

@[simp] theorem patchRecord_still (q : Nat) (pr : Producer) (ws : List QWord) (final : Bool) (s : State) :
    (patchRecord q pr ws final s).now = s.now ∧ (patchRecord q pr ws final s).canopy = s.canopy := by
  unfold patchRecord; simp

@[simp] theorem placeWords_still (p k : Nat) (ws : List QWord) (final : Bool) (s : State) :
    (placeWords p k ws final s).now = s.now ∧ (placeWords p k ws final s).canopy = s.canopy := by
  unfold placeWords; simp

@[simp] theorem blockEmptied_still (p : Nat) (s : State) :
    (blockEmptied p s).now = s.now ∧ (blockEmptied p s).canopy = s.canopy := by
  unfold blockEmptied; simp

@[simp] theorem moveOpen_still (p : Nat) (s : State) :
    (moveOpen p s).now = s.now ∧ (moveOpen p s).canopy = s.canopy := by
  unfold moveOpen; simp [apply_ite State.now, apply_ite State.canopy]; (repeat' split) <;> simp

@[simp] theorem finishClosed_still (p : Nat) (c : Closed) (s : State) :
    (finishClosed p c s).now = s.now ∧ (finishClosed p c s).canopy = s.canopy := by
  unfold finishClosed; simp

@[simp] theorem moveOn_still (p : Nat) (l : List Closed) (s : State) :
    (moveOn p l s).now = s.now ∧ (moveOn p l s).canopy = s.canopy := by
  induction l generalizing s with
  | nil => simp [moveOn]
  | cons c r ih => unfold moveOn; dsimp only; split <;> simp [ih]

@[simp] theorem closeRecord_still (p extra : Nat) (markEdge : Option Stamp) (s : State) :
    (closeRecord p extra markEdge s).now = s.now ∧ (closeRecord p extra markEdge s).canopy = s.canopy := by
  unfold closeRecord
  split
  · exact ⟨rfl, rfl⟩
  · extract_lets
    rename_i r _ g pre late ck flags key talker stamp0 stamp hdr a b c d e f h n cl j
    have hb : b.now = s.now ∧ b.canopy = s.canopy := by simp [b, a]
    clear_value b
    have hc : c.now = s.now ∧ c.canopy = s.canopy := by simp only [c]; split <;> simp [hb]
    clear_value c
    have hd : d.now = s.now ∧ d.canopy = s.canopy := by simp only [d]; split <;> simp [hc]
    clear_value d
    have he : e.now = s.now ∧ e.canopy = s.canopy := by simp only [e]; split <;> simp [hd]
    clear_value e
    have hf : f.now = s.now ∧ f.canopy = s.canopy := by simp only [f]; split <;> simp [he]
    clear_value f
    have hh : h.now = s.now ∧ h.canopy = s.canopy := by simp only [h]; split <;> simp [hf]
    clear_value h
    have hj : j.now = s.now ∧ j.canopy = s.canopy := by simp [j, hh]
    clear_value j
    split <;> simp [hj]

@[simp] theorem abandonMark_still (p : Nat) (s : State) :
    (abandonMark p s).now = s.now ∧ (abandonMark p s).canopy = s.canopy := by
  unfold abandonMark; (repeat' split) <;> simp

@[simp] theorem closeLate_still (p extra : Nat) (ended : Bool) (s : State) :
    (closeLate p extra ended s).now = s.now ∧ (closeLate p extra ended s).canopy = s.canopy := by
  unfold closeLate; (repeat' split) <;> simp

@[simp] theorem rxDisable_still (p : Nat) (s : State) :
    (rxDisable p s).now = s.now ∧ (rxDisable p s).canopy = s.canopy := by
  unfold rxDisable; simp [apply_ite State.now, apply_ite State.canopy]

@[simp] theorem askBreak_still (p : Nat) (directive : Bool) (s : State) :
    (askBreak p directive s).now = s.now ∧ (askBreak p directive s).canopy = s.canopy := by
  unfold askBreak; simp

@[simp] theorem countHeld_still (p : Nat) (s : State) :
    (countHeld p s).now = s.now ∧ (countHeld p s).canopy = s.canopy := by
  unfold countHeld; simp

@[simp] theorem holdBreak_still (p : Nat) (directive : Bool) (s : State) :
    (holdBreak p directive s).now = s.now ∧ (holdBreak p directive s).canopy = s.canopy := by
  unfold holdBreak; (repeat' split) <;> simp

@[simp] theorem servePendingBreak_still (p : Nat) (s : State) :
    (servePendingBreak p s).now = s.now ∧ (servePendingBreak p s).canopy = s.canopy := by
  unfold servePendingBreak; simp [apply_ite State.now, apply_ite State.canopy]

@[simp] theorem txBreakWritten_still (p : Nat) (s : State) :
    (txBreakWritten p s).now = s.now ∧ (txBreakWritten p s).canopy = s.canopy := by
  unfold txBreakWritten; simp [apply_ite State.now, apply_ite State.canopy]

@[simp] theorem dropTxGaps_still (p : Nat) (s : State) :
    (dropTxGaps p s).now = s.now ∧ (dropTxGaps p s).canopy = s.canopy := by
  unfold dropTxGaps; dsimp only; split <;> simp

@[simp] theorem discardTxHead_still (p : Nat) (s : State) :
    (discardTxHead p s).now = s.now ∧ (discardTxHead p s).canopy = s.canopy := by
  unfold discardTxHead; simp; (repeat' split) <;> simp

@[simp] theorem removeRequest_still (p : Nat) (s : State) :
    (removeRequest p s).now = s.now ∧ (removeRequest p s).canopy = s.canopy := by
  unfold removeRequest; simp [apply_ite State.now, apply_ite State.canopy]

@[simp] theorem cutTx_still (p : Nat) (s : State) :
    (cutTx p s).now = s.now ∧ (cutTx p s).canopy = s.canopy := by
  unfold cutTx; simp; (repeat' split) <;> simp

@[simp] theorem spawnJob_still (kind : JobKind) (rem cls tenant src : Nat) (poll : Option Nat) (s : State) :
    (spawnJob kind rem cls tenant src poll s).now = s.now ∧ (spawnJob kind rem cls tenant src poll s).canopy = s.canopy := by
  unfold spawnJob; dsimp only; split <;> simp

@[simp] theorem meetJob_still (id : Nat) (s : State) :
    (meetJob id s).now = s.now ∧ (meetJob id s).canopy = s.canopy := by
  unfold meetJob; simp

@[simp] theorem endTxn_still (p : Nat) (s : State) :
    (endTxn p s).now = s.now ∧ (endTxn p s).canopy = s.canopy := by
  unfold endTxn; simp

@[simp] theorem endJob?_still (j : Option Nat) (s : State) :
    (endJob? j s).now = s.now ∧ (endJob? j s).canopy = s.canopy := by
  unfold endJob?; (repeat' split) <;> simp

@[simp] theorem countOutcome_still (i : Nat) (o : Outcome7) (s : State) :
    (countOutcome i o s).now = s.now ∧ (countOutcome i o s).canopy = s.canopy := by
  unfold countOutcome; simp; (repeat' split) <;> simp

@[simp] theorem endPoll_still (i : Nat) (o : Outcome7) (seen : Option Nat) (s : State) :
    (endPoll i o seen s).now = s.now ∧ (endPoll i o seen s).canopy = s.canopy := by
  unfold endPoll
  extract_lets
  rename_i r a b c d
  have hb : b.now = s.now ∧ b.canopy = s.canopy := by simp [b, a]
  clear_value b
  have hc : c.now = s.now ∧ c.canopy = s.canopy := by simp only [c]; split <;> simp [hb]
  clear_value c
  have hd : d.now = s.now ∧ d.canopy = s.canopy := by simp [d, hc]
  clear_value d
  by_cases h : o = .late <;> simp [h, hd]

@[simp] theorem tryFailed_still (i : Nat) (o : Outcome7) (s : State) :
    (tryFailed i o s).now = s.now ∧ (tryFailed i o s).canopy = s.canopy := by
  unfold tryFailed; dsimp only; split <;> simp

@[simp] theorem tryOk_still (i : Nat) (seen : Option Nat) (payload : List Byte) (s : State) :
    (tryOk i seen payload s).now = s.now ∧ (tryOk i seen payload s).canopy = s.canopy := by
  unfold tryOk; simp [apply_ite State.now, apply_ite State.canopy]; (repeat' split) <;> simp

@[simp] theorem judgeTry_still (i : Nat) (r : Reply) (s : State) :
    (judgeTry i r s).now = s.now ∧ (judgeTry i r s).canopy = s.canopy := by
  unfold judgeTry; simp [apply_ite State.now, apply_ite State.canopy]

@[simp] theorem serviceRequest_still (i : Nat) (payload : List Byte) (s : State) :
    (serviceRequest i payload s).now = s.now ∧ (serviceRequest i payload s).canopy = s.canopy := by
  unfold serviceRequest; extract_lets; (repeat' split) <;> simp [*]

@[simp] theorem retireEnding_still (p : Nat) (s : State) :
    (retireEnding p s).now = s.now ∧ (retireEnding p s).canopy = s.canopy := by
  unfold retireEnding; (repeat' split) <;> simp

@[simp] theorem judgeReply_still (p : Nat) (s : State) :
    (judgeReply p s).now = s.now ∧ (judgeReply p s).canopy = s.canopy := by
  unfold judgeReply; simp; (repeat' split) <;> simp

@[simp] theorem judge_still (p : Nat) (s : State) :
    (judge p s).now = s.now ∧ (judge p s).canopy = s.canopy := by
  unfold judge; simp

@[simp] theorem ownerLost_still (p : Nat) (o : Option TxOwner) (s : State) :
    (ownerLost p o s).now = s.now ∧ (ownerLost p o s).canopy = s.canopy := by
  unfold ownerLost; (repeat' split) <;> simp

@[simp] theorem abortReply_still (p : Nat) (s : State) :
    (abortReply p s).2.now = s.now ∧ (abortReply p s).2.canopy = s.canopy := by
  unfold abortReply; extract_lets; (repeat' split) <;> simp [*]

@[simp] theorem abortLine_still (p i : Nat) (s : State) :
    (abortLine p i s).2.now = s.now ∧ (abortLine p i s).2.canopy = s.canopy := by
  unfold abortLine; simp; (repeat' split) <;> simp

@[simp] theorem abortPoll_still (i : Nat) (s : State) :
    (abortPoll i s).now = s.now ∧ (abortPoll i s).canopy = s.canopy := by
  unfold abortPoll
  extract_lets
  rename_i r p holds a b
  have ha : a.now = s.now ∧ a.canopy = s.canopy := by simp [a]
  clear_value a
  have hb : b.now = s.now ∧ b.canopy = s.canopy := by simp [b, ha]
  clear_value b
  have h1 := abortLine_still p i b
  have h2 := abortReply_still p b
  (repeat' split) <;> simp_all

@[simp] theorem releaseHold_still (i : Nat) (s : State) :
    (releaseHold i s).now = s.now ∧ (releaseHold i s).canopy = s.canopy := by
  unfold releaseHold; simp

@[simp] theorem abortGroup_still (g : Nat) (s : State) :
    (abortGroup g s).now = s.now ∧ (abortGroup g s).canopy = s.canopy := by
  unfold abortGroup; simp

@[simp] theorem pollDue_still (g i : Nat) (s : State) :
    (pollDue g i s).now = s.now ∧ (pollDue g i s).canopy = s.canopy := by
  unfold pollDue; (repeat' split) <;> simp

@[simp] theorem fixNext_still (g : Nat) (s : State) :
    (fixNext g s).now = s.now ∧ (fixNext g s).canopy = s.canopy := by
  unfold fixNext; (repeat' split) <;> simp

@[simp] theorem slack_still (g : Nat) (s : State) :
    (slack g s).now = s.now ∧ (slack g s).canopy = s.canopy := by
  unfold slack; (repeat' split) <;> simp

@[simp] theorem boundaryMarks_still (g : Nat) (s : State) :
    (boundaryMarks g s).now = s.now ∧ (boundaryMarks g s).canopy = s.canopy := by
  unfold boundaryMarks; simp

@[simp] theorem boundary_still (g : Nat) (s : State) :
    (boundary g s).now = s.now ∧ (boundary g s).canopy = s.canopy := by
  unfold boundary; simp

@[simp] theorem groupStart_still (g : Nat) (s : State) :
    (groupStart g s).now = s.now ∧ (groupStart g s).canopy = s.canopy := by
  unfold groupStart; simp [apply_ite State.now, apply_ite State.canopy]

@[simp] theorem groupStop_still (g : Nat) (s : State) :
    (groupStop g s).now = s.now ∧ (groupStop g s).canopy = s.canopy := by
  unfold groupStop; (repeat' split) <;> simp

@[simp] theorem acceptCommand_still (tenant talker kind : Nat) (noReply : Bool) (body : List Byte) (s : State) :
    (acceptCommand tenant talker kind noReply body s).now = s.now ∧
    (acceptCommand tenant talker kind noReply body s).canopy = s.canopy := by
  unfold acceptCommand; dsimp only; split <;> simp

@[simp] theorem dropCommand_still (p : Nat) (j : Job) (s : State) :
    (dropCommand p j s).now = s.now ∧ (dropCommand p j s).canopy = s.canopy := by
  unfold dropCommand; simp; (repeat' split) <;> simp

@[simp] theorem txDisable_still (p : Nat) (s : State) :
    (txDisable p s).now = s.now ∧ (txDisable p s).canopy = s.canopy := by
  unfold txDisable; simp; (repeat' split) <;> simp

@[simp] theorem schedulerStop_still (s : State) :
    (schedulerStop s).now = s.now ∧ (schedulerStop s).canopy = s.canopy := by
  unfold schedulerStop; simp

@[simp] theorem schedulerStart_still (s : State) :
    (schedulerStart s).now = s.now ∧ (schedulerStart s).canopy = s.canopy := by
  unfold schedulerStart; simp

@[simp] theorem setPeer_still (u t : Nat) (p : Peer) (s : State) :
    (setPeer u t p s).now = s.now ∧ (setPeer u t p s).canopy = s.canopy := by
  unfold setPeer; (repeat' split) <;> simp

@[simp] theorem uplinkAsk_still (b : Nat) (s : State) :
    (uplinkAsk b s).now = s.now ∧ (uplinkAsk b s).canopy = s.canopy := by
  unfold uplinkAsk; (repeat' split) <;> simp

@[simp] theorem batchDropped_still (d : Dgram) (s : State) :
    (batchDropped d s).now = s.now ∧ (batchDropped d s).canopy = s.canopy := by
  unfold batchDropped; simp

@[simp] theorem askWith_still (b : Nat) (d : Dgram) (rem : Option Nat) (s : State) :
    (askWith b d rem s).now = s.now ∧ (askWith b d rem s).canopy = s.canopy := by
  unfold askWith; (repeat' split) <;> simp

@[simp] theorem spawnUplink_still (b : Nat) (s : State) :
    (spawnUplink b s).now = s.now ∧ (spawnUplink b s).canopy = s.canopy := by
  unfold spawnUplink; (repeat' split) <;> simp

@[simp] theorem closeBatch_still (b t : Nat) (dest : List (Nat × Peer)) (s : State) :
    (closeBatch b t dest s).now = s.now ∧ (closeBatch b t dest s).canopy = s.canopy := by
  unfold closeBatch; simp; (repeat' split) <;> simp

@[simp] theorem tenantStop_still (t : Nat) (s : State) :
    (tenantStop t s).now = s.now ∧ (tenantStop t s).canopy = s.canopy := by
  unfold tenantStop; dsimp only; split <;> simp

@[simp] theorem mdioStart_still (s : State) :
    (mdioStart s).now = s.now ∧ (mdioStart s).canopy = s.canopy := by
  unfold mdioStart; simp

@[simp] theorem startSend_still (n : Nat) (bs : List Byte) (s : State) :
    (startSend n bs s).now = s.now ∧ (startSend n bs s).canopy = s.canopy := by
  unfold startSend; simp

@[simp] theorem activate_still (n : Nat) (s : State) :
    (activate n s).now = s.now ∧ (activate n s).canopy = s.canopy := by
  unfold activate; simp

@[simp] theorem keyLoadEnd_still (result siteId serial k : Nat) (s : State) :
    (keyLoadEnd result siteId serial k s).now = s.now ∧ (keyLoadEnd result siteId serial k s).canopy = s.canopy := by
  unfold keyLoadEnd; simp

@[simp] theorem abortScript_still (n : Nat) (s : State) :
    (abortScript n s).now = s.now ∧ (abortScript n s).canopy = s.canopy := by
  unfold abortScript; dsimp only; split <;> simp

@[simp] theorem cardRecord_still (n : Nat) (t : Stamp) (flags : Nat) (sw1 : Byte) (payload : List Byte) (s : State) :
    (cardRecord n t flags sw1 payload s).now = s.now ∧ (cardRecord n t flags sw1 payload s).canopy = s.canopy := by
  unfold cardRecord; simp

@[simp] theorem exchangeRecord_still (n : Nat) (r : CxResult) (s : State) :
    (exchangeRecord n r s).now = s.now ∧ (exchangeRecord n r s).canopy = s.canopy := by
  unfold exchangeRecord; simp

@[simp] theorem exchangeResult_still (n : Nat) (r : CxResult) (s : State) :
    (exchangeResult n r s).now = s.now ∧ (exchangeResult n r s).canopy = s.canopy := by
  unfold exchangeResult; simp

@[simp] theorem exchangeDone_still (n : Nat) (r : CxResult) (s : State) :
    (exchangeDone n r s).now = s.now ∧ (exchangeDone n r s).canopy = s.canopy := by
  unfold exchangeDone; dsimp only; split <;> simp

@[simp] theorem deactivate_still (n endState : Nat) (again : Bool) (s : State) :
    (deactivate n endState again s).now = s.now ∧ (deactivate n endState again s).canopy = s.canopy := by
  unfold deactivate; simp [apply_ite State.now, apply_ite State.canopy]

@[simp] theorem endExchange_still (n : Nat) (r : CxResult) (endState : Nat) (again : Bool) (s : State) :
    (endExchange n r endState again s).now = s.now ∧ (endExchange n r endState again s).canopy = s.canopy := by
  unfold endExchange; (repeat' split) <;> simp

@[simp] theorem stopCard_still (n : Nat) (r : CxResult) (endState : Nat) (again : Bool) (s : State) :
    (stopCard n r endState again s).now = s.now ∧ (stopCard n r endState again s).canopy = s.canopy := by
  unfold stopCard; (repeat' split) <;> simp

@[simp] theorem detPresent_still (n : Nat) (s : State) :
    (detPresent n s).now = s.now ∧ (detPresent n s).canopy = s.canopy := by
  unfold detPresent; dsimp only; split <;> simp

@[simp] theorem detAbsent_still (n : Nat) (s : State) :
    (detAbsent n s).now = s.now ∧ (detAbsent n s).canopy = s.canopy := by
  unfold detAbsent; simp [apply_ite State.now, apply_ite State.canopy]; (repeat' split) <;> simp

@[simp] theorem detPolWritten_still (n : Nat) (s : State) :
    (detPolWritten n s).now = s.now ∧ (detPolWritten n s).canopy = s.canopy := by
  unfold detPolWritten; (repeat' split) <;> simp

@[simp] theorem cardEnabled_still (n : Nat) (s : State) :
    (cardEnabled n s).now = s.now ∧ (cardEnabled n s).canopy = s.canopy := by
  unfold cardEnabled; simp [apply_ite State.now, apply_ite State.canopy]

@[simp] theorem cardDisabled_still (n : Nat) (s : State) :
    (cardDisabled n s).now = s.now ∧ (cardDisabled n s).canopy = s.canopy := by
  unfold cardDisabled; dsimp only; split <;> simp [apply_ite State.now, apply_ite State.canopy]

@[simp] theorem cardReset_still (n : Nat) (s : State) :
    (cardReset n s).now = s.now ∧ (cardReset n s).canopy = s.canopy := by
  unfold cardReset; simp [apply_ite State.now, apply_ite State.canopy]

@[simp] theorem cardDeact_still (n : Nat) (s : State) :
    (cardDeact n s).now = s.now ∧ (cardDeact n s).canopy = s.canopy := by
  unfold cardDeact; (repeat' split) <;> simp

@[simp] theorem exchangeStart_still (n : Nat) (s : State) :
    (exchangeStart n s).now = s.now ∧ (exchangeStart n s).canopy = s.canopy := by
  unfold exchangeStart; simp

theorem enableEach_still (l : List Nat) (s : State) :
 
      (l.foldl (fun a t => if tenantStartRefused t a then logEvent 0x12 1 t [4, 32 * t, 1] a else put TN.EN t 1 a) s).now = s.now ∧ (l.foldl (fun a t => if tenantStartRefused t a then logEvent 0x12 1 t [4, 32 * t, 1] a else put TN.EN t 1 a) s).canopy = s.canopy := by
  induction l generalizing s with
  | nil => exact ⟨rfl, rfl⟩
  | cons t l ih =>
    rw [List.foldl_cons]
    split <;> simp [ih]

@[simp] theorem enableDeferred_still (s : State) :
    (enableDeferred s).now = s.now ∧ (enableDeferred s).canopy = s.canopy := by
  unfold enableDeferred
  simp [enableEach_still]

@[simp] theorem setPwr_still (p st cause : Nat) (s : State) :
    (setPwr p st cause s).now = s.now ∧ (setPwr p st cause s).canopy = s.canopy := by
  unfold setPwr; (repeat' split) <;> simp

@[simp] theorem askSwitchOn_still (p : Nat) (s : State) :
    (askSwitchOn p s).now = s.now ∧ (askSwitchOn p s).canopy = s.canopy := by
  unfold askSwitchOn; simp

@[simp] theorem forwardConfig_still (p w : Nat) (s : State) :
    (forwardConfig p w s).now = s.now ∧ (forwardConfig p w s).canopy = s.canopy := by
  unfold forwardConfig; simp

@[simp] theorem forwardClear_still (p mask : Nat) (s : State) :
    (forwardClear p mask s).now = s.now ∧ (forwardClear p mask s).canopy = s.canopy := by
  unfold forwardClear; (repeat' split) <;> simp

@[simp] theorem forwardCounter_still (p i v : Nat) (s : State) :
    (forwardCounter p i v s).now = s.now ∧ (forwardCounter p i v s).canopy = s.canopy := by
  unfold forwardCounter; simp

@[simp] theorem leakStop_still (p : Nat) (s : State) :
    (leakStop p s).now = s.now ∧ (leakStop p s).canopy = s.canopy := by
  unfold leakStop; dsimp only; split <;> simp

@[simp] theorem needTrim_still (p cause : Nat) (s : State) :
    (needTrim p cause s).now = s.now ∧ (needTrim p cause s).canopy = s.canopy := by
  unfold needTrim; (repeat' split) <;> simp

@[simp] theorem trimReq_still (p : Nat) (s : State) :
    (trimReq p s).now = s.now ∧ (trimReq p s).canopy = s.canopy := by
  unfold trimReq; simp

@[simp] theorem pwrEnSet_still (p : Nat) (s : State) :
    (pwrEnSet p s).now = s.now ∧ (pwrEnSet p s).canopy = s.canopy := by
  unfold pwrEnSet; dsimp only; split <;> simp

@[simp] theorem pwrEnClear_still (p : Nat) (s : State) :
    (pwrEnClear p s).now = s.now ∧ (pwrEnClear p s).canopy = s.canopy := by
  unfold pwrEnClear; simp [apply_ite State.now, apply_ite State.canopy]; (repeat' split) <;> simp

@[simp] theorem guardLineEnable_still (p : Nat) (s : State) :
    (guardLineEnable p s).now = s.now ∧ (guardLineEnable p s).canopy = s.canopy := by
  unfold guardLineEnable; simp

@[simp] theorem writeField_still (two : Bool) (v : Nat) (s : State) (x : Fld × Nat) :
    (writeField two v s x).now = s.now ∧ (writeField two v s x).canopy = s.canopy := by
  unfold writeField; simp; (repeat' split) <;> simp

@[simp] theorem writeFields_still (space a v : Nat) (s : State) :
    (writeFields space a v s).now = s.now ∧ (writeFields space a v s).canopy = s.canopy := by
  unfold writeFields; simp

theorem rtCtrlActs_still (v : Nat) (b t : State) :
    ∀ f ∈ rtCtrlActs v b t, ∀ u, (f u).now = u.now ∧ (f u).canopy = u.canopy := by
  unfold rtCtrlActs
  extract_lets
  (repeat' split) <;> simp

@[simp] theorem houseAccept_still (s : State) :
    (houseAccept s).now = s.now ∧ (houseAccept s).canopy = s.canopy := by
  unfold houseAccept; simp

@[simp] theorem cardSwitch_still (n : Nat) (f : Fld) (b t s : State) :
    (cardSwitch n f b t s).now = s.now ∧ (cardSwitch n f b t s).canopy = s.canopy := by
  unfold cardSwitch; (repeat' split) <;> simp

theorem directActs_still (a v : Nat) (b t : State) :
    ((directActs a v b t).1.now = t.now ∧ (directActs a v b t).1.canopy = t.canopy) ∧
    ∀ f ∈ (directActs a v b t).2, ∀ u, (f u).now = u.now ∧ (f u).canopy = u.canopy := by
  unfold directActs
  split
  · exact ⟨⟨rfl, rfl⟩, by simp⟩
  · refine ⟨?_, by simp⟩; dsimp only; (repeat' split) <;> simp
  · exact ⟨⟨rfl, rfl⟩, by simp⟩
  · exact ⟨⟨rfl, rfl⟩, rtCtrlActs_still v b t⟩
  · exact ⟨by simp, by simp⟩
  · refine ⟨?_, by simp⟩; dsimp only; (repeat' split) <;> simp
  · exact ⟨budgetWritten_still .die t, by simp⟩
  · exact ⟨budgetWritten_still .field t, by simp⟩
  · refine ⟨?_, by simp⟩; dsimp only; (repeat' split) <;> simp
  · dsimp only; split <;> simp
  · refine ⟨?_, by simp⟩; dsimp only; (repeat' split) <;> simp
  · refine ⟨?_, by simp⟩; dsimp only; simp
  · split
    · exact ⟨by simp, by simp⟩
    · split
      · refine ⟨?_, by simp⟩; dsimp only; split <;> simp
      · exact ⟨⟨rfl, rfl⟩, by simp⟩

theorem portActs_still (p o v : Nat) (b t : State) :
    ((portActs p o v b t).1.now = t.now ∧ (portActs p o v b t).1.canopy = t.canopy) ∧
    ∀ f ∈ (portActs p o v b t).2, ∀ u, (f u).now = u.now ∧ (f u).canopy = u.canopy := by
  unfold portActs; dsimp only; (repeat' split) <;> simp

@[simp] theorem lineCounters_still (p o v : Nat) (s : State) :
    (lineCounters p o v s).now = s.now ∧ (lineCounters p o v s).canopy = s.canopy := by
  unfold lineCounters
  extract_lets
  apply each_still
  intro i t
  dsimp only
  split <;> simp

theorem lineActs_still (p o v : Nat) (b t : State) :
    (lineActs p o v b t).now = t.now ∧ (lineActs p o v b t).canopy = t.canopy := by
  unfold lineActs; simp; (repeat' split) <;> simp

theorem cardCommand_still (f : Fld) (n : Nat) (act : Nat → State → State) (s : State)
    (h : ∀ n t, (act n t).now = t.now ∧ (act n t).canopy = t.canopy) :
    (cardCommand f n act s).now = s.now ∧ (cardCommand f n act s).canopy = s.canopy := by
  unfold cardCommand
  dsimp only
  split <;> simp [h]

theorem cardActs_still (n o v : Nat) (b t : State) :
    ∀ f ∈ cardActs n o v b t, ∀ u, (f u).now = u.now ∧ (f u).canopy = u.canopy := by
  unfold cardActs
  split
  · (repeat' split) <;> simp [cardCommand_still]
  · (repeat' split) <;> simp
  · simp

@[simp] theorem owe_still (ws : List FrameWord) (s : State) :
    (owe ws s).now = s.now ∧ (owe ws s).canopy = s.canopy := by
  unfold owe; simp [apply_ite State.now, apply_ite State.canopy]

@[simp] theorem rejectFrame_still (r : Reject) (space a : Nat) (s : State) :
    (rejectFrame r space a s).2.now = s.now ∧ (rejectFrame r space a s).2.canopy = s.canopy := by
  unfold rejectFrame; (repeat' split) <;> simp

/-! A word of the Canopy's space forgets a DECIMATION counter; the words that wait for the Canopy stay (R485). -/

/-- Neither the CORE cycle nor the words that wait for the Canopy change between two states. -/
abbrev WaitKept (s t : State) : Prop := t.now = s.now ∧ t.canopy.waitWrite = s.canopy.waitWrite

theorem WaitKept.trans {s t u : State} (h : WaitKept s t) (h' : WaitKept t u) : WaitKept s u :=
  ⟨h'.1.trans h.1, h'.2.trans h.2⟩

theorem WaitKept.of_still {s t : State} (h : t.now = s.now ∧ t.canopy = s.canopy) : WaitKept s t := ⟨h.1, by rw [h.2]⟩

/-- What a word does at once, and what it starts when its frame stands. -/
theorem wordActs_waitKept (space a v : Nat) (b t : State) :
    WaitKept t (wordActs space a v b t).1 ∧ ∀ f ∈ (wordActs space a v b t).2, ∀ u, WaitKept u (f u) := by
  unfold wordActs
  split
  · obtain ⟨hnow, hlater⟩ := directActs_still a v b t
    exact ⟨.of_still hnow, fun f hf u => .of_still (hlater f hf u)⟩
  · obtain ⟨hnow, hlater⟩ := portActs_still (a / 32) (a % 32) v b t
    exact ⟨.of_still hnow, fun f hf u => .of_still (hlater f hf u)⟩
  · exact ⟨⟨rfl, rfl⟩, by simp⟩
  · refine ⟨?_, by simp⟩; dsimp only; split <;> simp [WaitKept]
  · refine ⟨?_, by simp⟩; dsimp only; (repeat' split) <;> simp [WaitKept]
  · refine ⟨⟨rfl, rfl⟩, ?_⟩; dsimp only; split <;> simp [WaitKept]
  · exact ⟨.of_still (lineActs_still ..), by simp⟩
  · exact ⟨⟨rfl, rfl⟩, fun f hf u => .of_still (cardActs_still _ _ _ _ _ f hf u)⟩
  · exact ⟨⟨rfl, rfl⟩, by simp⟩

theorem writeReg_waitKept {space a v : Nat} {s t : State} {l : List (State → State)} (h : writeReg space a v s = .ok t l) :
    WaitKept s t ∧ ∀ f ∈ l, ∀ u, WaitKept u (f u) := by
  unfold writeReg at h
  split at h
  next sp ad _ =>
  dsimp only at h
  split at h
  · cases h
  · obtain ⟨hacts, hlater⟩ := wordActs_waitKept sp ad v s (writeFields sp ad v s)
    cases h
    exact ⟨(WaitKept.of_still (writeFields_still sp ad v s)).trans hacts, hlater⟩

theorem foldl_waitKept {l : List (State → State)} (h : ∀ f ∈ l, ∀ u, WaitKept u (f u)) (s : State) :
    WaitKept s (l.foldl (fun a f => f a) s) := by
  induction l generalizing s with
  | nil => exact ⟨rfl, rfl⟩
  | cons f l ih =>
    exact (h f List.mem_cons_self s).trans (ih (fun g hg => h g (List.mem_cons_of_mem f hg)) (f s))

theorem writeWords_waitKept {ws : List FrameWord} {s t : State} {later : List (State → State)}
    (hlater : ∀ f ∈ later, ∀ u, WaitKept u (f u)) (h : writeWords ws s later = .inr t) : WaitKept s t := by
  induction ws generalizing s later with
  | nil =>
    cases h
    exact foldl_waitKept hlater s
  | cons w ws ih =>
    obtain ⟨space, a, v, b⟩ := w
    unfold writeWords at h
    split at h
    · cases h
    · split at h
      · cases h
      · next l hreg =>
        obtain ⟨hword, hstarts⟩ := writeReg_waitKept hreg
        exact hword.trans (ih (fun f hf => (List.mem_append.mp hf).elim (hlater f) (hstarts f)) h)

/-- A burst of words, taken or refused, lets no CORE cycle pass and leaves the words that wait for the Canopy. -/
theorem writeBurst_waitKept (ws : List FrameWord) (s : State) : WaitKept s (writeBurst ws s).2 := by
  unfold writeBurst
  split
  · exact ⟨rfl, rfl⟩
  · split
    · exact .of_still (rejectFrame_still ..)
    · next t hwords =>
      exact (writeWords_waitKept (by simp) hwords).trans (.of_still (owe_still ..))

end Sys2Proof.Machine

end

section

/-! ### The Canopy: visits, classifications, and words that wait for it -/

open Sys2Proof.Safety

namespace Sys2Proof.Machine

/-! #### Words entering one queue, and time passing, leave the other queues -/

section
variable {q r : Nat} (h : r ≠ q)
include h

theorem qGet_qMap_ne (f : Queue → Queue) (s : State) : qGet r (qMap q f s) = qGet r s := qGet_qSet_ne h ..

theorem qGet_enter_ne (p : Producer) (w : QWord) (s : State) : qGet r (enter q p w s) = qGet r s := by
  unfold enter
  extract_lets _ _ _ a
  rw [qGet_congr (entered_fields q ..).2.2.2.2.2.2.1, qGet_qSet_ne h]
  simp only [a]
  split <;> rfl

theorem qGet_gapWrite_ne (s : State) : qGet r (gapWrite q s) = qGet r s := by
  unfold gapWrite
  generalize (qGet q s).gap.words = l
  induction l generalizing s with
  | nil => rfl
  | cons x l ih =>
    rw [List.foldl_cons, ih]
    dsimp only
    split
    · rw [qGet_qMap_ne h, qGet_enter_ne h]
    · rfl

theorem qGet_writeWord_ne (p : Producer) (w : QWord) (s : State) : qGet r (writeWord q p w s) = qGet r s := by
  unfold writeWord
  split
  · split <;> exact qGet_qMap_ne h ..
  · exact qGet_enter_ne h ..

theorem qGet_stall_ne (s : State) : qGet r (stall q s) = qGet r s := by
  unfold stall
  split
  · rfl
  · rw [qGet_qMap_ne h]
    rfl

theorem qGet_writeFor_ne (p : Producer) (s : State) : qGet r (writeFor q p s) = qGet r s := by
  unfold writeFor
  dsimp only
  split
  · exact qGet_gapWrite_ne h s
  · split
    · rw [qGet_writeWord_ne h, qGet_qMap_ne h, qGet_gapWrite_ne h]
    · rw [qGet_stall_ne h, qGet_gapWrite_ne h]

theorem qGet_writeMany_ne (n : Nat) (s : State) : qGet r (writeMany q n s) = qGet r s := by
  induction n generalizing s with
  | zero => rfl
  | succ n ih =>
    have hnext : qGet r (writeNext q s) = qGet r s := by
      unfold writeNext
      split
      · rfl
      · exact qGet_writeFor_ne h ..
    rw [writeMany]
    split
    · rw [ih, hnext]
    · exact hnext

theorem qGet_offer_ne (p : Producer) (ws : List QWord) (s : State) : qGet r (offer q p ws s) = qGet r s := by
  rw [offer, qGet_writeMany_ne h, qGet_qMap_ne h]

end

/-- An event log entry puts its notice into the event queue alone (R913). -/
theorem qGet_logEvent_ne {r : Nat} (h : r ≠ 225) (code sub idx : Nat) (d : List Nat) (s : State) :
    qGet r (logEvent code sub idx d s) = qGet r s := by
  have hpos : qGet r (logPos code sub idx d s) = qGet r s := qGet_congr (by simp) r
  unfold logEvent notice
  split
  · split
    · rw [qGet_offer_ne h, hpos]
    · rw [qGet_offer_ne h, hpos]
    · exact hpos
  · rfl

theorem qGet_carry_ne {r : Nat} (h : r ≠ 225) (s : State) : qGet r (carry s) = qGet r s := by
  unfold carry
  extract_lets sec a b
  rw [qGet_congr (pulseStart_fields b).2.2.2.2.2.2.2.1]
  simp only [b]
  split
  · rw [qGet_logEvent_ne h]
    rfl
  · rfl

/-- The passing of time leaves every queue but the event queue. -/
theorem qGet_runTo {r : Nat} (h : r ≠ 225) (due : Nat) (s : State) : qGet r (runTo due s) = qGet r s :=
  runTo_invariant (P := fun a => qGet r a = qGet r s) (fun x a ha => (qGet_congr (by simp) r).trans ha)
    (fun a ha => (qGet_congr (by simp) r).trans ha) (fun a ha => (qGet_carry_ne h a).trans ha) due rfl

theorem qGet_elapse {r : Nat} (h : r ≠ 225) (dt : Nat) (s : State) : qGet r (elapse dt s) = qGet r s := qGet_runTo h _ s

/-! #### The source that is visited next (R32, R33, R987) -/

/-- A port source offers what stands in its queue. -/
theorem sourceRecord_congr {src : Nat} {s t : State} (hsrc : src < 48) (h : qGet src t = qGet src s) :
    sourceRecord src t = sourceRecord src s := by
  simp only [sourceRecord, sourceQueue, if_pos hsrc, headRecord, h]

theorem canopy_idle {s : State} (h : canopyFree s = false) : classificationStart s = s ∧ sourceGapRemove s = s := by
  simp [classificationStart, sourceGapRemove, h]

theorem foldl_matchCounts_fields (l : List Nat) (s : State) :
    (l.foldl (fun a i => bump CN.MATCH_CNT i a) s).now = s.now ∧ (l.foldl (fun a i => bump CN.MATCH_CNT i a) s).releases = s.releases ∧
    (l.foldl (fun a i => bump CN.MATCH_CNT i a) s).jobs = s.jobs := by
  induction l generalizing s with
  | nil => exact ⟨rfl, rfl, rfl⟩
  | cons i l ih => simpa using ih (bump CN.MATCH_CNT i s)

/-- CLASSIFICATION_START runs on the record of the source that is visited next (R483, R484). -/
theorem classificationStart_spec {src : Nat} {s : State} (hfree : canopyFree s = true) (hvisit : nextVisit s = some src)
    (hrecord : (sourceRecord src s).isSome = true) :
    (classificationStart s).canopy.last = src ∧
    (classificationStart s).canopy.run = some (src, s.now, combine (evaluate ((sourceRecord src s).getD []) s).contrib s) ∧
    (classificationStart s).releases = s.releases ∧ (classificationStart s).jobs = s.jobs := by
  have htaken : (nextVisit s).filter (fun x => (sourceRecord x s).isSome) = some src := by
    rw [hvisit, Option.filter_some, if_pos hrecord]
  unfold classificationStart
  rw [hfree, Bool.not_true, if_neg Bool.false_ne_true, htaken]
  dsimp only
  generalize evaluate ((sourceRecord src s).getD []) s = e
  obtain ⟨hnow, hreleases, hjobs⟩ := foldl_matchCounts_fields e.matched s
  split <;> exact ⟨rfl, congrArg (fun c => some (src, c, combine e.contrib s)) hnow, hreleases, hjobs⟩

/-! #### Words that leave the front of a queue -/

theorem qGet_dropWords_ne {q r : Nat} (h : r ≠ q) (n : Nat) (s : State) : qGet r (dropWords q n s) = qGet r s := by
  unfold dropWords
  dsimp only
  rw [qGet_releaseBlocks, qGet_qSet_ne h]

/-- From a queue whose blocks stand as spills leave them, as many words go as are dropped. -/
theorem count_dropWords {q : Nat} {s : State} (hkept : blocksKept q s) (n : Nat) :
    (qGet q (dropWords q n s)).count = (qGet q s).count - n := by
  obtain ⟨hwords, hwritten⟩ := hkept
  have hleft (b : Nat) : ((if b = 0 then ((qGet q s).mid, 0) else dropMid b (qGet q s).mid).1.flatMap Block.words).length =
      (qGet q s).midWords.length - b := by
    split
    · next hnone => rw [hnone]; rfl
    · rw [flatMap_dropMid b hwords hwritten, List.length_drop]; rfl
  unfold dropWords
  dsimp only
  rw [qGet_releaseBlocks, qGet_qSet_same]
  show (List.drop _ _).length + (List.flatMap Block.words (Prod.fst _)).length + (List.drop _ _).length = _
  rw [hleft, List.length_drop, List.length_drop, Queue.count]
  omega

theorem length_words (c : Queue) : c.words.length = c.count := by
  simp [Queue.words, Queue.count, Nat.add_assoc]

/-- SOURCE_GAP_REMOVE takes the GAP word of the source that is visited next (R987). -/
theorem sourceGapRemove_eq {src : Nat} {s : State} (hsrc : src < 48) (hfree : canopyFree s = true)
    (hvisit : nextVisit s = some src) (hgap : sourceGap src s = true) :
    sourceGapRemove s = dropWords src 1 { s with canopy := { s.canopy with last := src, freeFrom := s.now + 1 } } := by
  have hqueue : sourceQueue src = some src := if_pos hsrc
  have htaken : (nextVisit s).filter (fun x => sourceGap x s) = some src := by
    rw [hvisit, Option.filter_some, if_pos hgap]
  unfold sourceGapRemove
  rw [hfree, Bool.not_true, if_neg Bool.false_ne_true, htaken]
  dsimp only
  rw [hqueue]

/-- A source with a GAP word at its head holds a word. -/
theorem count_pos_of_sourceGap {src : Nat} {s : State} (hsrc : src < 48) (h : sourceGap src s = true) :
    0 < (qGet src s).count := by
  rw [← length_words, List.length_pos_iff]
  intro hnone
  simp [sourceGap, sourceQueue, hsrc, hnone] at h

/-! #### CLASSIFICATION_END (R476 to R481) -/

/-- Cycle 48 of the classification that began in cycle `c` has come, and the Canopy is free from the next one. -/
def classificationDone (c : Nat) (s : State) : State :=
  let s := runTo (c + 47) s
  { s with canopy := { s.canopy with run := none, freeFrom := s.now + 1 } }

/-- A classification counts, and its destinations that are masked (R478). -/
def countClassified (r : ClassRes) (s : State) : State :=
  if r.drop then bump RG.CLASSIFIED_CNT 0 s else bumpBy RG.MASKED_CNT 0 r.masked (bump RG.CLASSIFIED_CNT 0 s)

@[simp] theorem countClassified_fields (r : ClassRes) (s : State) :
    (countClassified r s).now = s.now ∧ (countClassified r s).ring = s.ring ∧ (countClassified r s).releases = s.releases ∧
    (countClassified r s).queues = s.queues ∧ (countClassified r s).canopy = s.canopy := by
  unfold countClassified
  split <;> simp

theorem get_countClassified {g : Fld} {i : Nat} (hclassified : g.key i ≠ RG.CLASSIFIED_CNT.key 0)
    (hmasked : g.key i ≠ RG.MASKED_CNT.key 0) (r : ClassRes) (s : State) : get g i (countClassified r s) = get g i s := by
  unfold countClassified
  split
  · exact get_bump_ne hclassified s
  · rw [get_bumpBy_ne hmasked, get_bump_ne hclassified]

theorem get_countClassified_same (r : ClassRes) (s : State) :
    get RG.CLASSIFIED_CNT 0 (countClassified r s) = RG.CLASSIFIED_CNT.count (get RG.CLASSIFIED_CNT 0 s) 1 := by
  unfold countClassified
  split
  · exact get_bump_same ..
  · rw [get_bumpBy_ne (by decide), get_bump_same]

/-- The end of a classification that no rule matched: it counts, and the record is released (R476). -/
theorem classificationEnd_noMatch {src c : Nat} {r : ClassRes} {s : State} (hrun : s.canopy.run = some (src, c, r))
    (hnone : r.noMatch = true) (hlog : r.logRule = none) :
    ∃ n, classificationEnd s = releaseSource src n (bump RG.NOMATCH_CNT 0 (countClassified r (classificationDone c s))) := by
  refine ⟨((sourceRecord src (classificationDone c s)).getD []).length, ?_⟩
  unfold classificationEnd countClassified
  rw [hrun]
  dsimp only
  rw [hlog, hnone]
  rfl

theorem remaining_congr {s t : State} (h : t.ring = s.ring) (d : Nat) : remaining d t = remaining d s := by
  unfold remaining stampNow ringNs Stamp.total
  rw [h]

/-- The end of a classification whose record has destinations and a deadline ahead: it counts, and the record waits for its
jobs (R480, R481). -/
theorem classificationEnd_delivers {src c : Nat} {r : ClassRes} {ws : List QWord} {s : State}
    (hrun : s.canopy.run = some (src, c, r)) (hmatch : r.noMatch = false) (hkeep : r.drop = false) (hdeliver : r.deliver ≠ [])
    (hlog : r.logRule = none) (hrecord : sourceRecord src (classificationDone c s) = some ws)
    (hahead : (remaining ((hdrStamp (recWord (resultWords r ws) 1) (recWord (resultWords r ws) 2)).total +
      (r.deadlineMs.getD (classDefaultMs r.cls)) * 1000000) (runTo (c + 47) s)).isSome = true) :
    ∃ x d, x = bump (classF r.cls) 0 (bump CN.SOURCE_CLASS (4 * src + r.cls) (countClassified r (classificationDone c s))) ∧
      classificationEnd s = { x with releases := x.releases ++ [⟨src, resultWords r ws, d, r.cls, r.deliver, [], 0⟩] } := by
  refine ⟨_, (hdrStamp (recWord (resultWords r ws) 1) (recWord (resultWords r ws) 2)).total +
      (r.deadlineMs.getD (classDefaultMs r.cls)) * 1000000, rfl, ?_⟩
  have hgone : (r.noMatch || r.drop || r.deliver.isEmpty) = false := by simp [hmatch, hkeep, hdeliver]
  unfold classificationEnd countClassified
  rw [hrun]
  dsimp only
  change sourceRecord src { runTo (c + 47) s with canopy := _ } = _ at hrecord
  rw [hlog, hgone, hkeep, hrecord]
  simp only [Option.getD_some, Bool.false_eq_true, if_false]
  refine if_neg ?_
  rw [Bool.not_eq_true, Option.isNone_eq_false_iff, remaining_congr (t := _) (s := runTo (c + 47) s) (by simp)]
  exact hahead

/-- Releasing a record counts in a counter of its queue, or gives a card its GO back: no direct register is touched. -/
theorem get_releaseSource {g : Fld} {j : Nat} (h : g.key j < 33554432) (src n : Nat) (s : State) :
    get g j (releaseSource src n s) = get g j s := by
  unfold releaseSource
  split
  · next q _ =>
    rw [get_bump_ne (by simp only [Fld.key, CN.RECORDS_OUT] at h ⊢; omega), get_qMap]
    exact get_congr g j (dropWords_fields q n s).2.2.1 rfl rfl
  · have hput (k : Nat) (a : State) : get g j (putHw CD.GO k 0 a) = get g j a :=
      get_putHw_ne (by simp only [Fld.key, CD.GO] at h ⊢; omega) ..
    dsimp only
    split
    · exact (get_congr g j rfl rfl rfl).trans (hput ..)
    · exact get_congr g j rfl rfl rfl

/-- The counts of a classification lie in the direct registers, and passing time changes neither. -/
theorem classified_keys : RG.CLASSIFIED_CNT.key 0 ∉ timeKeys ∧ RG.NOMATCH_CNT.key 0 ∉ timeKeys ∧
    RG.CLASSIFIED_CNT.key 0 < 33554432 ∧ RG.NOMATCH_CNT.key 0 < 33554432 := by
  decide

theorem get_classificationDone {g : Fld} {i : Nat} (h : g.key i ∉ timeKeys) (c : Nat) (s : State) :
    get g i (classificationDone c s) = get g i s :=
  (get_congr g i rfl rfl rfl).trans (get_runTo h (c + 47) s)

theorem classF_key (cls : Nat) : RG.CLASSIFIED_CNT.key 0 ≠ (classF cls).key 0 := by
  match cls with
  | 0 | 1 | 2 => decide
  | _ + 3 => exact show RG.CLASSIFIED_CNT.key 0 ≠ RG.BULK_CNT.key 0 by decide

/-! #### Words that wait for the Canopy (R485) -/

theorem canopyWriteEffect_idle {s : State} (h : s.canopy.waitWrite = none ∨ s.canopy.run ≠ none) : canopyWriteEffect s = s := by
  unfold canopyWriteEffect
  split
  · rfl
  · next hwait =>
    have hrun : s.canopy.run.isSome = true :=
      Option.isSome_iff_ne_none.mpr (h.resolve_left fun hnone => by simp [hwait] at hnone)
    rw [if_pos hrun]

/-- Waiting words of register writes take effect in the next CORE cycle. -/
theorem canopyWriteEffect_spec {ws : List (Nat × Nat × Word)} {s : State} (hwait : s.canopy.waitWrite = some (none, ws))
    (hrun : s.canopy.run = none) :
    (canopyWriteEffect s).now = s.now + 1 ∧ (canopyWriteEffect s).canopy.waitWrite = none := by
  unfold canopyWriteEffect
  rw [hwait, hrun]
  dsimp only
  obtain ⟨hnow, hwaits⟩ := writeBurst_waitKept (ws.map fun (sp, a, v) => (sp, a, v.toNat, false))
    (elapse 1 { s with canopy := { s.canopy with waitWrite := none, freeFrom := s.now + 2 } })
  exact ⟨hnow.trans (by simp), hwaits.trans (by simp)⟩

/-! #### Hold and resume (R486) -/

theorem plainWord_canopyCtrl : PlainWord RG.CANOPY_EN.space (wordOf RG.CANOPY_EN 0) :=
  plainWord_of (off := 0xB0) (i := 0) (l := fldsRG) rfl rfl (by decide)

theorem canopyEn_mem (v : Nat) : ∀ y ∈ [(RG.CANOPY_EN, v)],
    (y.1, 0) ∈ wordFields RG.CANOPY_EN.space (wordOf RG.CANOPY_EN 0) ∧ y.1.acc ≠ .w1c := by
  intro y hy
  rw [List.mem_singleton.mp hy]
  exact ⟨show (RG.CANOPY_EN, 0) ∈ wordFields 0 0xB0 by decide, show RG.CANOPY_EN.acc ≠ .w1c by decide⟩

/-- CANOPY_CTRL is present on every variant. -/
theorem place_canopyCtrl (s : State) : place RG.CANOPY_EN.space (wordOf RG.CANOPY_EN 0) s = .present := by
  show place 0 0xB0 s = .present
  cases h : s.variant <;> simp [place, directAbsent, directReserved, h]

/-- A write of CANOPY_EN is taken wherever the port serves it, and starts nothing. -/
theorem setFields_canopyEn (v : Nat) {s : State} (hserves : mpServes s = true) :
    wrote 0 RG.CANOPY_EN [(RG.CANOPY_EN, v)] id s (setFields 0 [(RG.CANOPY_EN, v)] s) := by
  have htaken : taken 0 RG.CANOPY_EN [(RG.CANOPY_EN, v)] s :=
    taken_of hserves (place_canopyCtrl s) plainWord_canopyCtrl (canopyEn_mem v) (List.pairwise_singleton ..) fun _ _ _ => rfl
  exact setFields_wrote 0 RG.CANOPY_EN v [] s id htaken plainWord_canopyCtrl rfl (by decide) (.inl rfl) (canopyEn_mem v)
    (List.pairwise_singleton ..) fun _ _ _ => rfl

/-- Hold and resume store CANOPY_EN, and nothing else moves. -/
theorem setFields_canopyEn_spec (v : Nat) {s : State} (hserves : mpServes s = true) :
    ∃ t, setFields 0 [(RG.CANOPY_EN, v)] s = t ∧ t.mp.answer = 0 ∧ get RG.CANOPY_EN 0 t = v % 2 ∧
      t = { s with regs := t.regs, cyc := t.cyc, mp := t.mp, cfg := t.cfg } := by
  obtain ⟨w, l, hunits, hgiven, -, -, ht⟩ := setFields_canopyEn v hserves
  refine ⟨_, ht, rfl, hgiven (RG.CANOPY_EN, v) (by simp) rfl, ?_⟩
  rw [hunits]
  rfl

end Sys2Proof.Machine

section

open Sys2Proof Sys2Proof.Machine

/-- Settles O29, clause by clause: no visit, a record taken, a GAP word removed, no classification, its end with no match and with
destinations, waiting words idle and taking effect, hold, resume. -/
theorem recordsAreClassified : Obligations.RecordsAreClassified := by
  refine ⟨?noVisit, ?starts, ?removes, ?noRun, ?noMatch, ?delivers, ?waits, ?takesEffect, ?hold, ?resume⟩
  case noVisit =>
    intro dt s hbusy
    obtain ⟨hstart, hremove⟩ := canopy_idle hbusy
    exact ⟨congrArg Host.Outcome.next hstart, congrArg Host.Outcome.next hremove⟩
  case starts =>
    intro dt src s hfree hvisit hrecord
    obtain ⟨hlast, hrun, hreleases, hjobs⟩ := classificationStart_spec hfree hvisit hrecord
    rw [elapse_now] at hrun
    exact ⟨_, rfl, hlast, hrun, hreleases.trans (by simp), hjobs.trans (by simp)⟩
  case removes =>
    intro dt src s hsrc hfree hvisit hgap hkept
    have hsame : qGet src (elapse dt s) = qGet src s := qGet_elapse (by omega) dt s
    have hpos := count_pos_of_sourceGap hsrc hgap
    have hremove := sourceGapRemove_eq hsrc hfree hvisit hgap
    refine ⟨_, congrArg Host.Outcome.next hremove, by simp, ?_, fun q hq => qGet_dropWords_ne hq ..⟩
    generalize elapse dt s = e at hsame hpos
    have hcount := count_dropWords (q := src)
      (s := { e with canopy := { e.canopy with last := src, freeFrom := e.now + 1 } }) (by rwa [blocksKept, ← hsame] at hkept) 1
    rw [hcount, ← hsame]
    exact Nat.sub_add_cancel hpos
  case noRun =>
    intro s hrun
    exact congrArg Host.Outcome.next (by simp [classificationEnd, hrun])
  case noMatch =>
    intro src c r s hrun hnone hlog
    obtain ⟨n, hend⟩ := classificationEnd_noMatch hrun hnone hlog
    obtain ⟨hclassifiedTime, hnomatchTime, hclassifiedKey, hnomatchKey⟩ := classified_keys
    refine ⟨_, congrArg Host.Outcome.next hend, ?_, ?_, ?_, ?_, ?_⟩
    · simp [classificationDone]
    · simp [classificationDone]
    · simp [classificationDone]
    · rw [get_releaseSource hnomatchKey, get_bump_same, get_countClassified (by decide) (by decide), get_classificationDone hnomatchTime]
    · rw [get_releaseSource hclassifiedKey, get_bump_ne (by decide), get_countClassified_same, get_classificationDone hclassifiedTime]
  case delivers =>
    intro src c r ws s hsrc hrun hmatch hkeep hdeliver hlog hrecord hahead
    have hqueue : qGet src (classificationDone c s) = qGet src s := qGet_runTo (by omega) (c + 47) s
    obtain ⟨x, d, hx, hend⟩ := classificationEnd_delivers hrun hmatch hkeep hdeliver hlog
      ((sourceRecord_congr hsrc hqueue).trans hrecord) hahead
    refine ⟨_, d, congrArg Host.Outcome.next hend, ?_, ?_, ?_, ?_⟩
    · simp [hx, classificationDone]
    · simp [hx, classificationDone]
    · exact (qGet_congr (by simp [hx]) src).trans hqueue
    · have hsource : RG.CLASSIFIED_CNT.key 0 ≠ CN.SOURCE_CLASS.key (4 * src + r.cls) := by
        simp only [Fld.key, RG.CLASSIFIED_CNT, CN.SOURCE_CLASS]; omega
      have hcount : get RG.CLASSIFIED_CNT 0 x = RG.CLASSIFIED_CNT.count (get RG.CLASSIFIED_CNT 0 s) 1 := by
        rw [hx, get_bump_ne (classF_key r.cls), get_bump_ne hsource, get_countClassified_same,
          get_classificationDone classified_keys.1]
      exact (get_congr RG.CLASSIFIED_CNT 0 rfl rfl rfl).trans hcount
  case waits =>
    intro dt s hwaits
    exact congrArg Host.Outcome.next (canopyWriteEffect_idle (by simpa using hwaits))
  case takesEffect =>
    intro dt ws s hwait hrun
    obtain ⟨hnow, hnone⟩ := canopyWriteEffect_spec (s := elapse dt s) (ws := ws) (by simpa using hwait) (by simpa using hrun)
    exact ⟨_, rfl, by rw [hnow, elapse_now], hnone⟩
  case hold =>
    intro dt s hserves
    obtain ⟨t, ht, hrest⟩ := setFields_canopyEn_spec 0 (s := elapse dt s) (by simpa [mpServes] using hserves)
    exact ⟨t, congrArg Host.Outcome.next ht, hrest⟩
  case resume =>
    intro dt s hserves
    obtain ⟨t, ht, hrest⟩ := setFields_canopyEn_spec 1 (s := elapse dt s) (by simpa [mpServes] using hserves)
    exact ⟨t, congrArg Host.Outcome.next ht, hrest⟩

end

end

section

/-! ### Reads that capture a snapshot -/

namespace Sys2Proof.Machine

theorem outOfReset_of_serves {s : State} (h : mpServes s = true) : outOfReset s = true := by
  unfold mpServes at h
  unfold outOfReset
  cases hphase : s.sys.phase <;> simp_all

@[simp] theorem mpServes_elapse (dt : Nat) (s : State) : mpServes (elapse dt s) = mpServes s := by
  simp [mpServes]

/-- The direct words whose READ captures a snapshot (R91, R454, R574, R576, R738). -/
def captureWords : List Nat := [0x13, 0x30, 0x34, 0x38, 0x3B]

/-- Every variant has the capturing words. -/
theorem place_captureWord {a : Nat} (ha : a ∈ captureWords) (s : State) : place 0 a s ≠ .absent := by
  fin_cases ha <;> cases h : s.variant <;> simp [place, directAbsent, directReserved, h]

/-- Two states agree but for their registers. -/
def RegsOnly (s t : State) : Prop := t = { s with regs := t.regs }

theorem RegsOnly.refl (s : State) : RegsOnly s s := rfl

theorem RegsOnly.put {s t : State} (h : RegsOnly s t) (f : Fld) (i v : Nat) : RegsOnly s (put f i v t) := by
  unfold RegsOnly at *
  rw [h]
  rfl

/-- A capture changes the registers alone. -/
theorem captureWord_regsOnly {a : Nat} (ha : a ∈ captureWords) (s : State) : RegsOnly s (captureWord 0 a s) := by
  have hself := RegsOnly.refl s
  fin_cases ha
  · exact (hself.put ..).put ..
  · exact ((hself.put ..).put ..).put ..
  · exact (((((((hself.put ..).put ..).put ..).put ..).put ..).put ..).put ..).put ..
  · exact ((hself.put ..).put ..).put ..
  · exact (((((((hself.put ..).put ..).put ..).put ..).put ..).put ..).put ..).put ..

/-- `t` leaves every unit of `s` but the port, and shows the registers of the capture `c`. -/
def SnapshotOf (s c t : State) : Prop := (∀ f i, get f i t = get f i c) ∧ t = { s with regs := t.regs, mp := t.mp }

/-- The answer to a READ comes on top of its capture. -/
theorem snapshotOf_mpMap {s c : State} (h : RegsOnly s c) (f : Mp → Mp) : SnapshotOf s c (mpMap f c) := by
  refine ⟨fun _ _ => rfl, ?_⟩
  rw [h]
  rfl

/-- A READ of a capturing word leaves its capture (R666). -/
theorem regRead_snapshot {a : Nat} {s : State} (hserves : mpServes s = true) (ha : a ∈ captureWords) :
    SnapshotOf s (captureWord 0 a s) (regRead a s) := by
  obtain ⟨hwindow, hbody, hread⟩ : windowOf a = none ∧ a ≠ 9 ∧ readRefused a 0 a = false :=
    (show ∀ x ∈ captureWords, windowOf x = none ∧ x ≠ 9 ∧ readRefused x 0 x = false by decide) a ha
  have hframe : readFrame a 1 s = (0, [readWord 0 a (captureWord 0 a s)], captureWord 0 a s) := by
    simp [readFrame, burstAddrs, windowAdvance, hwindow, hbody, place_captureWord ha s, hread, readWords]
  unfold regRead
  simp only [outOfReset_of_serves hserves, hserves, hframe, Bool.not_true, Bool.false_eq_true, if_false, Bool.true_or, if_true]
  exact snapshotOf_mpMap (captureWord_regsOnly ha s) _

/-- A READ of RX_CHARS of a present port leaves its capture (R184). -/
theorem windowRead_rxChars {p : Nat} {s : State} (hserves : mpServes s = true) (hp : portOk s p = true) :
    SnapshotOf s (rxCharsRead p s) (windowRead 1 (32 * p + 8) s) := by
  have hport : (32 * p + 8) / 32 = p ∧ (32 * p + 8) % 32 = 8 := by omega
  have hplace : place 1 (32 * p + 8) s = .present := by simp [place, hport, hp]
  have hcapture : captureWord 1 (32 * p + 8) s = rxCharsRead p s := by simp [captureWord, hport]
  have hread : writeOnly 1 (32 * p + 8) = false := rfl
  unfold windowRead
  simp only [outOfReset_of_serves hserves, hserves, hplace, hread, hcapture, Bool.not_true, Bool.false_eq_true, if_false, beq_iff_eq,
    reduceCtorEq, if_true]
  exact snapshotOf_mpMap (((((RegsOnly.refl s).put ..).put ..).put ..).put ..) _

/-! #### What each capture holds -/

theorem rtCapture_spec (s : State) :
    get RG.RT_NOW_SEC 0 (rtCapture s) = s.ring.sec % 2 ^ 32 ∧ get RG.RT_NOW_NS 0 (rtCapture s) = (stampNow s).word2 % 2 ^ 32 :=
  ⟨get_put_same .., (get_put_ne (by decide) ..).trans (get_put_same ..)⟩

theorem jobLedgerRead_spec (s : State) :
    get RG.JOB_IDLE 0 (jobLedgerRead s) = idleSlots s % 2 ^ RG.JOB_IDLE.width ∧
    get RG.JOB_RETIRING 0 (jobLedgerRead s) = retiringSlots s % 2 ^ RG.JOB_RETIRING.width ∧
    get RG.KIND_POLL 0 (jobLedgerRead s) = kindSlots .poll s % 2 ^ RG.KIND_POLL.width := by
  unfold jobLedgerRead
  simp (disch := decide) only [get_put_ne, get_put_same, kindSlots, put_fields, and_self]

theorem blkFreeRead_spec (s : State) :
    get RG.BLK_FREE 0 (blkFreeRead s) = s.store.free % 2 ^ RG.BLK_FREE.width ∧
    get RG.BLK_HELD 0 (blkFreeRead s) = s.store.held % 2 ^ RG.BLK_HELD.width ∧
    get RG.BLK_MOTION 0 (blkFreeRead s) = s.store.lanes.length % 2 ^ RG.BLK_MOTION.width := by
  unfold blkFreeRead
  simp (disch := decide) only [get_put_ne, get_put_same, and_self]

theorem crRead_spec (s : State) :
    get RG.CR_BORROWED 0 (crRead s) = borrowed (get RG.CR_SEL 0 s) s % 2 ^ RG.CR_BORROWED.width ∧
    get RG.CR_GUAR_USED 0 (crRead s) = guarUsed (get RG.CR_SEL 0 s) s % 2 ^ RG.CR_GUAR_USED.width ∧
    get RG.CR_SHARED_USED 0 (crRead s) = sharedUsed s % 2 ^ RG.CR_SHARED_USED.width := by
  unfold crRead
  simp (disch := decide) only [get_put_ne, get_put_same, and_self]

/-- Units granted are no matter of the registers. -/
theorem granted_congr {s t : State} (h : t.leave = s.leave) (p : Pool) : granted p t = granted p s := by
  unfold granted grants; rw [h]

theorem freeUnits_congr {p : Pool} {s t : State} (h : t.leave = s.leave) (hchange : get (changeF p) 0 t = get (changeF p) 0 s)
    (hbudget : get (budgetF p) 0 t = get (budgetF p) 0 s) : freeUnits p t = freeUnits p s := by
  unfold freeUnits; rw [hchange, hbudget, granted_congr h]

theorem ledgerRead_spec (s : State) :
    get RG.LV_DIE_FREE 0 (ledgerRead s) = freeUnits .die s % 2 ^ RG.LV_DIE_FREE.width ∧
    get RG.LV_DIE_GRANTED 0 (ledgerRead s) = granted .die s % 2 ^ RG.LV_DIE_GRANTED.width ∧
    get RG.LV_FIELD_FREE 0 (ledgerRead s) = freeUnits .field s % 2 ^ RG.LV_FIELD_FREE.width ∧
    get RG.LV_FIELD_GRANTED 0 (ledgerRead s) = granted .field s % 2 ^ RG.LV_FIELD_GRANTED.width := by
  have hgranted (f : Fld) (v : Nat) (p : Pool) (t : State) : granted p (put f 0 v t) = granted p t := granted_congr (by simp) p
  have hfree {f : Fld} (h : RG.FIELD_CHANGE.key 0 ≠ f.key 0 ∧ RG.FIELD_BUDGET.key 0 ≠ f.key 0) (v : Nat) (t : State) :
      freeUnits .field (put f 0 v t) = freeUnits .field t :=
    freeUnits_congr (by simp) (get_put_ne h.1 ..) (get_put_ne h.2 ..)
  unfold ledgerRead
  simp (disch := decide) only [get_put_ne, get_put_same, hgranted, hfree, and_self]

theorem rxCharsRead_spec (p : Nat) (s : State) :
    get PT.RX_CHARS p (rxCharsRead p s) = (pGet p s).rxChars % 2 ^ PT.RX_CHARS.width ∧
    get PT.MOVED_CHARS p (rxCharsRead p s) = (pGet p s).movedChars % 2 ^ PT.MOVED_CHARS.width ∧
    get PT.OVR_CHARS p (rxCharsRead p s) = (pGet p s).ovrChars % 2 ^ PT.OVR_CHARS.width ∧
    get PT.STAGE_AUDIT p (rxCharsRead p s) = (pGet p s).stage.length % 2 ^ PT.STAGE_AUDIT.width := by
  unfold rxCharsRead
  simp (disch := (simp only [Fld.key, PT.RX_CHARS, PT.MOVED_CHARS, PT.OVR_CHARS, PT.STAGE_AUDIT]; omega)) only
    [get_put_ne, get_put_same, and_self]

end Sys2Proof.Machine

section

open Sys2Proof Sys2Proof.Machine

/-- Settles O14, register by register: a READ leaves its capture, and what the capture holds. -/
theorem readsCaptureSnapshots : Obligations.ReadsCaptureSnapshots := by
  have hread {a : Nat} {s : State} (hserves : mpServes s = true) (ha : a ∈ captureWords) (dt : Nat) :
      SnapshotOf (elapse dt s) (captureWord 0 a (elapse dt s)) (regRead a (elapse dt s)) :=
    regRead_snapshot ((mpServes_elapse dt s).trans hserves) ha
  refine ⟨?ringTime, ?jobs, ?blocks, ?credit, ?leave, ?staging⟩
  case ringTime =>
    intro dt s hserves
    obtain ⟨hget, hunits⟩ := hread (a := 0x13) hserves (by decide) dt
    obtain ⟨hsec, hns⟩ := rtCapture_spec (elapse dt s)
    exact ⟨_, rfl, (hget ..).trans hsec, (hget ..).trans hns, hunits⟩
  case jobs =>
    intro dt s hserves
    obtain ⟨hget, hunits⟩ := hread (a := 0x34) hserves (by decide) dt
    obtain ⟨hidle, hretiring, hpoll⟩ := jobLedgerRead_spec (elapse dt s)
    simp only [idleSlots, retiringSlots, kindSlots, elapse_fields] at hidle hretiring hpoll
    exact ⟨_, rfl, (hget ..).trans hidle, (hget ..).trans hretiring, (hget ..).trans hpoll, hunits⟩
  case blocks =>
    intro dt s hserves
    obtain ⟨hget, hunits⟩ := hread (a := 0x30) hserves (by decide) dt
    obtain ⟨hfree, hheld, hmotion⟩ := blkFreeRead_spec (elapse dt s)
    exact ⟨_, rfl, (hget ..).trans hfree, (hget ..).trans hheld, (hget ..).trans hmotion, hunits⟩
  case credit =>
    intro dt s hserves
    obtain ⟨hget, hunits⟩ := hread (a := 0x38) hserves (by decide) dt
    obtain ⟨hborrowed, hguar, hshared⟩ := crRead_spec (elapse dt s)
    rw [get_elapse (show RG.CR_SEL.key 0 ∉ timeKeys by decide)] at hborrowed hguar
    exact ⟨_, rfl, (hget ..).trans hborrowed, (hget ..).trans hguar, (hget ..).trans hshared, hunits⟩
  case leave =>
    intro dt s hserves
    obtain ⟨hget, hunits⟩ := hread (a := 0x3B) hserves (by decide) dt
    obtain ⟨hdieFree, hdieGranted, hfieldFree, hfieldGranted⟩ := ledgerRead_spec (elapse dt s)
    have hleave : (elapse dt s).leave = s.leave := by simp
    rw [freeUnits_congr hleave (get_elapse (by decide) dt s) (get_elapse (by decide) dt s)] at hdieFree hfieldFree
    rw [granted_congr hleave] at hdieGranted hfieldGranted
    exact ⟨_, rfl, (hget ..).trans hdieFree, (hget ..).trans hdieGranted, (hget ..).trans hfieldFree,
      (hget ..).trans hfieldGranted, hunits⟩
  case staging =>
    intro dt p s hserves hp
    obtain ⟨hget, hunits⟩ := windowRead_rxChars (p := p) (s := elapse dt s) (by simpa using hserves) (by simpa [portOk] using hp)
    obtain ⟨hrx, hmoved, hovr, hstage⟩ := rxCharsRead_spec p (elapse dt s)
    have hport : pGet p (elapse dt s) = pGet p s := by simp [pGet]
    rw [hport] at hrx hmoved hovr hstage
    exact ⟨_, rfl, (hget ..).trans hrx, (hget ..).trans hmoved, (hget ..).trans hovr, (hget ..).trans hstage, hunits⟩

end

end

section

/-! ### Sample 0 of a start bit -/

namespace Sys2Proof.Machine

/-- A field of a present entry of PORT is none that passing time can change. -/
theorem port_not_timeKeys {f : Fld} {p : Nat} (hspace : f.space = 1) (hstride : f.stride = 32) (hword : f.word < 32)
    (hlo : f.lo < 32) (hp : p < 48) : f.key p ∉ timeKeys := by
  refine not_timeKeys (.inl ?_)
  unfold Fld.key
  rw [hspace, hstride]
  omega

/-- No variant has more than 48 line ports (R7). -/
theorem lt_of_portOk {s : State} {p : Nat} (h : portOk s p = true) : p < 48 := by
  have hports : Config.ports s.variant ≤ 48 := by cases s.variant <;> decide
  have hp : p < Config.ports s.variant := by simpa [portOk] using h
  omega

theorem pGet_congr {s t : State} (h : t.ports = s.ports) (p : Nat) : pGet p t = pGet p s := by
  unfold pGet; rw [h]

@[simp] theorem pGet_elapse (p dt : Nat) (s : State) : pGet p (elapse dt s) = pGet p s := pGet_congr (by simp) p

/-- Whether a receiver may hunt is no matter of the time that passes. -/
theorem hunting_elapse (p dt : Nat) (s : State) : hunting p (elapse dt s) = hunting p s := by
  have hok : portOk (elapse dt s) p = portOk s p := by simp [portOk]
  have hlde : ldeHigh p (elapse dt s) = ldeHigh p s := by simp [ldeHigh]
  unfold hunting
  rw [hok, hlde, pGet_elapse]
  cases hport : portOk s p with
  | false => simp
  | true =>
    have hen : get PT.EN p (elapse dt s) = get PT.EN p s :=
      get_elapse (port_not_timeKeys rfl rfl (by decide) (by decide) (lt_of_portOk hport)) dt s
    rw [flag, hen, flag]

/-- Only a port that the variant has hunts. -/
theorem lt_of_hunting {p : Nat} {s : State} (h : hunting p s = true) : p < 48 := by
  simp only [hunting, Bool.and_eq_true] at h
  obtain ⟨⟨⟨⟨⟨⟨hok, -⟩, -⟩, -⟩, -⟩, -⟩, -⟩ := h
  exact lt_of_portOk hok

/-- START_BIT_VALIDATED of a receiver that hunts: the character that it takes up (R148, R149). -/
theorem startBit_taken {p : Nat} {s : State} (hhunting : hunting p s = true) (hseen : edgeSeen p s = true)
    (hstart : canStart p s = true) :
    startBit p s = pMap p (fun c => { c with
      rx := some ⟨(stampAt (5 * edgeLine (incNow p s) s) s).sub 70, edgeLine (incNow p s) s, incNow p s, (leanFor p s).isSome, c.rxF⟩
      win := c.win.map fun w => { w with started := true } }) s := by
  simp [startBit, hhunting, hseen, hstart]

/-- START_GLITCH of a receiver that hunts (R149). -/
theorem startGlitch_counted {p : Nat} {s : State} (hhunting : hunting p s = true) (hseen : edgeSeen p s = true)
    (hidle : canIdle p s = true) :
    startGlitch p s = bump PT.GLITCH_CNT p (pMap p (fun c => { c with huntFrom := s.now / 5 + 1 }) s) := by
  simp [startGlitch, hhunting, hseen, hidle]

/-- A receiver that does not hunt, or did not at the edge, takes neither a start bit nor a glitch (R151, R154). -/
theorem startBit_idle {p : Nat} {s : State} (h : hunting p s = false ∨ edgeSeen p s = false) :
    startBit p s = s ∧ startGlitch p s = s := by
  rcases h with h | h <;> simp [startBit, startGlitch, h]

end Sys2Proof.Machine

section

open Sys2Proof Sys2Proof.Machine

/-- Settles O15, clause by clause: a start bit, a glitch, a receiver that takes neither. -/
theorem startBitsAreSampled : Obligations.StartBitsAreSampled := by
  refine ⟨?taken, ?glitch, ?neither⟩
  case taken =>
    intro dt p s hhunting hseen hstart
    have hstarted := startBit_taken ((hunting_elapse p dt s).trans hhunting) hseen hstart
    refine ⟨_, _, congrArg Host.Outcome.next hstarted, by rw [pGet_pMap_same], by simp, rfl, by simp [incNow],
      by simp [edgeLine], rfl, fun q hq => ?_, rfl⟩
    exact (pGet_pSet_ne hq ..).trans (pGet_elapse q dt s)
  case glitch =>
    intro dt p s hhunting hseen hidle
    have hkey : PT.GLITCH_CNT.key p ∉ timeKeys := port_not_timeKeys rfl rfl (by decide) (by decide) (lt_of_hunting hhunting)
    have hglitch := startGlitch_counted ((hunting_elapse p dt s).trans hhunting) hseen hidle
    refine ⟨_, congrArg Host.Outcome.next hglitch, ?_, ?_, fun q hq => ?_, rfl⟩
    · have hport (x : State) : pGet p (bump PT.GLITCH_CNT p x) = pGet p x := pGet_congr (by simp) p
      simp [hport]
    · rw [get_bump_same, ← get_elapse hkey dt s]
      rfl
    · exact (pGet_pSet_ne hq ..).trans (pGet_elapse q dt s)
  case neither =>
    intro dt p s h
    obtain ⟨hbit, hglitch⟩ := startBit_idle (p := p) (s := elapse dt s) (h.imp (hunting_elapse p dt s).trans id)
    exact ⟨congrArg Host.Outcome.next hbit, congrArg Host.Outcome.next hglitch⟩

end

end

section

/-! ### Register writes that a running unit forbids -/

namespace Sys2Proof.Machine

/-- A write of one word, not of the Canopy's, that is refused is answered REFUSED and changes nothing else (R664, R985). -/
theorem regWrite_refused {space a : Nat} {v : Word} {s : State} (hserves : mpServes s = true) (hplace : place space a s = .present)
    (haddr : addrRefused space a false s = false) (hcanopy : space ≠ 3) (hwindow : windowOf a = none ∨ space ≠ 0)
    (hown : ownAddress space a = (space, a))
    (hfail : firstFail (wordChecks space a v.toNat s (writeFields space a v.toNat s)) = some refused) :
    regWrite space a v s = mpMap (fun m => { m with answer := 1 }) s :=
  regWrite_no space a v s refused hserves (by rw [hplace]; decide) haddr hcanopy hwindow hown hfail

/-- Checks of which one of REFUSED fails, with none of another answer before it. -/
theorem firstFail_refused {l r : List (Bool × Reject)} (hl : ∀ x ∈ l, x.2 = refused) (h : ∃ x ∈ l, x.1 = true) :
    firstFail (l ++ r) = some refused := by
  induction l with
  | nil => simp at h
  | cons x l ih =>
    obtain ⟨c, e⟩ := x
    obtain rfl : e = refused := hl (c, e) (by simp)
    cases c with
    | true => simp [firstFail]
    | false =>
      obtain ⟨y, hy, hfails⟩ := h
      rcases List.mem_cons.mp hy with rfl | hmem
      · simp at hfails
      · simpa [firstFail] using ih (fun x hx => hl x (by simp [hx])) ⟨y, hmem, hfails⟩

/-- A plain field that software writes holds its bits of the word. -/
theorem get_writeFields_rw {space a v : Nat} {f : Fld} {i : Nat} (h : PlainWord space a) (hmem : (f, i) ∈ wordFields space a)
    (hacc : f.acc = .rw) (s : State) : get f i (writeFields space a v s) = bits v f.lo f.width := by
  obtain ⟨-, htakes, -⟩ := writeFields_spec space a v s h.keys
  have hplain := h.plain (f, i) hmem hacc
  have hlt : bits v f.lo f.width < 2 ^ f.width := Nat.mod_lt _ (by positivity)
  rw [htakes (f, i) hmem, fieldTakes, hacc]
  dsimp only
  cases hclash : f.clash with
  | a => exact absurd hclash hplain
  | _ => exact Nat.mod_eq_of_lt hlt

/-! #### Guard lines (R234, R259) -/

/-- A field of a present entry of GUARD_LINE is none that passing time can change. -/
theorem line_not_timeKeys {f : Fld} {p : Nat} (hspace : f.space = 8) (hstride : f.stride = 16) (hword : f.word < 16)
    (hlo : f.lo < 32) (hp : p < 48) : f.key p ∉ timeKeys := by
  refine not_timeKeys (.inr (.inl ?_))
  unfold Fld.key
  rw [hspace, hstride]
  omega

theorem fieldsIn_line (p o : Nat) (ho : o < 16) : wordFields 8 (16 * p + o) = fieldsIn fldsGL o p := by
  show fieldsIn fldsGL ((16 * p + o) % 16) ((16 * p + o) / 16) = _
  congr 1 <;> omega

/-- What LINE_CTRL (`o` 0) and ILIM (`o` 1) of a guard line hold after a write. -/
theorem get_lineWord {f : Fld} {p o v : Nat} (ho : o < 2) (hmem : f ∈ fldsGL.filter fun f => f.word == o) (hacc : f.acc = .rw)
    (s : State) : get f p (writeFields 8 (16 * p + o) v s) = bits v f.lo f.width := by
  have hfields := fieldsIn_line p o (by omega)
  have hplain : PlainWord 8 (16 * p + o) := by
    interval_cases o <;> exact plainWord_of hfields rfl (by decide)
  exact get_writeFields_rw hplain (hfields ▸ List.mem_map_of_mem hmem) hacc s

/-- A write of LINE_CTRL or ILIM of a present line that fails a check is refused. -/
theorem lineWrite_refused {p o : Nat} {v : Word} {s : State} (ho : o < 2) (hserves : mpServes s = true) (hp : portOk s p = true)
    (h : ∃ x ∈ lineChecks p o s (writeFields 8 (16 * p + o) v.toNat s), x.1 = true) :
    regWrite 8 (16 * p + o) v s = mpMap (fun m => { m with answer := 1 }) s := by
  have hline : (16 * p + o) / 16 = p ∧ (16 * p + o) % 16 = o := by omega
  refine regWrite_refused hserves (by simp [place, hline, hp]) rfl (by decide) (.inr (by decide)) rfl ?_
  have hchecks (b t : State) : wordChecks 8 (16 * p + o) v.toNat b t = lineChecks p o b t ++ [] := by
    simp [wordChecks, hline]
  rw [hchecks]
  refine firstFail_refused (fun x hx => ?_) h
  interval_cases o <;> simp only [lineChecks, List.mem_cons, List.not_mem_nil, or_false] at hx
  · rcases hx with rfl | rfl | rfl <;> rfl
  · rcases hx with rfl | rfl <;> rfl

/-- LINE_CTRL keeps a voltage under power, a mode under EN, and no termination with MODE 1 (R234, R259). -/
theorem lineCtrl_refused {p : Nat} {v : Word} {s : State} (hserves : mpServes s = true) (hp : portOk s p = true)
    (h : (get GL.PWR_EN p s = 1 ∧ bits v.toNat 5 1 ≠ get GL.PWR_V p s) ∨
      (get GL.EN p s = 1 ∧ bits v.toNat 1 1 ≠ get GL.MODE p s) ∨ (bits v.toNat 1 1 = 1 ∧ bits v.toNat 2 1 = 1)) :
    regWrite 8 (16 * p) v s = mpMap (fun m => { m with answer := 1 }) s := by
  have hvoltage : get GL.PWR_V p (writeFields 8 (16 * p + 0) v.toNat s) = bits v.toNat 5 1 :=
    get_lineWord (by decide) (by decide) rfl s
  have hmode : get GL.MODE p (writeFields 8 (16 * p + 0) v.toNat s) = bits v.toNat 1 1 :=
    get_lineWord (by decide) (by decide) rfl s
  have hterm : get GL.TERM_EN p (writeFields 8 (16 * p + 0) v.toNat s) = bits v.toNat 2 1 :=
    get_lineWord (by decide) (by decide) rfl s
  refine lineWrite_refused (o := 0) (by decide) hserves hp ?_
  generalize writeFields 8 (16 * p + 0) v.toNat s = t at hvoltage hmode hterm ⊢
  rcases h with ⟨hpower, hchanged⟩ | ⟨hen, hchanged⟩ | ⟨hmode1, hterm1⟩
  · exact ⟨(flag GL.PWR_EN p s && changes [GL.PWR_V] p s t, refused), by simp [lineChecks],
      by simpa [flag, hpower, changes, hvoltage] using hchanged.symm⟩
  · exact ⟨(flag GL.EN p s && changes [GL.MODE] p s t, refused), by simp [lineChecks],
      by simpa [flag, hen, changes, hmode] using hchanged.symm⟩
  · exact ⟨(flag GL.TERM_EN p t && flag GL.MODE p t, refused), by simp [lineChecks],
      by simpa [flag, hmode, hterm] using ⟨hterm1, hmode1⟩⟩

/-- ILIM stands under power (R259). -/
theorem ilim_refused {p : Nat} {v : Word} {s : State} (hserves : mpServes s = true) (hp : portOk s p = true)
    (hpower : get GL.PWR_EN p s = 1) (hchanged : bits v.toNat 0 5 ≠ get GL.ILIM p s) :
    regWrite 8 (16 * p + 1) v s = mpMap (fun m => { m with answer := 1 }) s := by
  have hlimit : get GL.ILIM p (writeFields 8 (16 * p + 1) v.toNat s) = bits v.toNat 0 5 :=
    get_lineWord (by decide) (by decide) rfl s
  refine lineWrite_refused (o := 1) (by decide) hserves hp ⟨_, List.mem_cons_of_mem _ (List.mem_cons_self ..), ?_⟩
  simpa [flag, hpower, changes, hlimit] using hchanged.symm

/-! #### Grammars (R269, R270) -/

/-- What GRAMMAR holds after a write. -/
theorem get_grammarWord (p v : Nat) (s : State) : get PT.GRAMMAR p (writeFields 1 (32 * p + 0x10) v s) = bits v 0 3 := by
  have hfields : wordFields 1 (32 * p + 0x10) = fieldsIn fldsPT 0x10 p := by
    show fieldsIn fldsPT ((32 * p + 0x10) % 32) ((32 * p + 0x10) / 32) = _
    congr 1 <;> omega
  exact get_writeFields_rw (plainWord_of hfields rfl (by decide))
    (hfields ▸ List.mem_map_of_mem (show PT.GRAMMAR ∈ fldsPT.filter fun f => f.word == 0x10 by decide)) rfl s

/-- A write of a grammar that the port cannot take, or that a port with EN 1 has not, is refused. -/
theorem grammarWrite_refused {p : Nat} {v : Word} {s : State} (hserves : mpServes s = true) (hp : portOk s p = true)
    (h : (8 ≤ p ∧ bits v.toNat 0 3 = 4) ∨ (get PT.EN p s = 1 ∧ bits v.toNat 0 3 ≠ get PT.GRAMMAR p s)) :
    regWrite 1 (32 * p + 0x10) v s = mpMap (fun m => { m with answer := 1 }) s := by
  have hport : (32 * p + 0x10) / 32 = p ∧ (32 * p + 0x10) % 32 = 0x10 := by omega
  have hgrammar := get_grammarWord p v.toNat s
  refine regWrite_refused hserves (by simp [place, hport, hp]) rfl (by decide) (.inr (by decide)) rfl ?_
  generalize writeFields 1 (32 * p + 0x10) v.toNat s = t at hgrammar ⊢
  have hchecks : wordChecks 1 (32 * p + 0x10) v.toNat s t =
      [(decide (4 < grammar p t) || (grammar p t == 4 && decide (8 ≤ p)), refused),
        (flag PT.EN p s && changes [PT.GRAMMAR] p s t, refused),
        (flag PT.LST_EN p t && bankKind (grammar p t) == 1, refused)] ++
      [(changes [PT.GRAMMAR] p s t && bankClash p t, .conflict 2)] := by
    simp [wordChecks, portChecks, hport]
  rw [hchecks]
  refine firstFail_refused (by simp) ?_
  rcases h with ⟨hhigh, hmark⟩ | ⟨hen, hchanged⟩
  · exact ⟨_, List.mem_cons_self .., by simp [grammar, hgrammar, hmark, hhigh]⟩
  · exact ⟨_, List.mem_cons_of_mem _ (List.mem_cons_self ..), by simp [flag, hen, changes, hgrammar, hchanged.symm]⟩

/-! #### Direct words (R98, R122) -/

/-- RT_SET_NS takes no second or more. -/
theorem rtSetNs_refused {v : Word} {s : State} (hserves : mpServes s = true) (h : 999999999 < bits v.toNat 0 30) :
    regWrite 0 0x16 v s = mpMap (fun m => { m with answer := 1 }) s := by
  have hplain : PlainWord 0 0x16 := plainWord_of (off := 0x16) (i := 0) (l := fldsRG) rfl rfl (by decide)
  have hns : get RG.RT_SET_NS 0 (writeFields 0 0x16 v.toNat s) = bits v.toNat 0 30 :=
    get_writeFields_rw hplain (show (RG.RT_SET_NS, 0) ∈ wordFields 0 0x16 by decide) rfl s
  refine regWrite_refused hserves ?_ rfl (by decide) (.inl rfl) rfl ?_
  · cases hvariant : s.variant <;> simp [place, directAbsent, directReserved, hvariant]
  · have hover : decide (999999999 < get RG.RT_SET_NS 0 (writeFields 0 0x16 v.toNat s)) = true := decide_eq_true (hns ▸ h)
    simp [wordChecks, directChecks, firstFail, hover]

/-- WIDTH_MS takes 1 to 999. -/
theorem widthMs_refused {v : Word} {s : State} (hserves : mpServes s = true)
    (h : bits v.toNat 4 10 = 0 ∨ 999 < bits v.toNat 4 10) :
    regWrite 0 0x1C v s = mpMap (fun m => { m with answer := 1 }) s := by
  have hwidth : get RG.WIDTH_MS 0 (writeFields 0 0x1C v.toNat s) = bits v.toNat 4 10 :=
    get_writeFields_rw plainWord_tmOutCfg (show (RG.WIDTH_MS, 0) ∈ wordFields 0 0x1C by decide) rfl s
  refine regWrite_refused hserves (place_tmOutCfg s) rfl (by decide) (.inl rfl) rfl ?_
  have hout : within RG.WIDTH_MS 0 1 999 (writeFields 0 0x1C v.toNat s) = false := by
    simp only [within, hwidth, Bool.and_eq_false_iff, decide_eq_false_iff_not]
    exact h.imp (fun hzero => by simpa using hzero) Nat.not_le_of_lt
  simp [wordChecks, directChecks, firstFail, hout]

end Sys2Proof.Machine

section

open Sys2Proof Sys2Proof.Machine

/-- Settles O7, register by register: the check that fails. -/
theorem guardedWritesAreRefused : Obligations.GuardedWritesAreRefused := by
  have hrefused {dt space a : Nat} {v : Word} {s : State} (hserves : mpServes s = true)
      (h : mpServes (elapse dt s) = true →
        regWrite space a v (elapse dt s) = mpMap (fun m => { m with answer := 1 }) (elapse dt s)) :
      ∃ t, exec (.registerWrite dt space a v) s = .next t ∧ t.mp.answer = 1 ∧ t = { elapse dt s with mp := t.mp } :=
    ⟨_, congrArg Host.Outcome.next (h ((mpServes_elapse dt s).trans hserves)), rfl, rfl⟩
  have hport {p : Nat} {s : State} (h : portOk s p = true) (dt : Nat) : portOk (elapse dt s) p = true := by simpa [portOk] using h
  refine ⟨?voltage, ?limit, ?mode, ?termination, ?grammar, ?mark, ?nanoseconds, ?width⟩
  case voltage =>
    intro dt p v s hserves hp hpower hchanged
    rw [← get_elapse (line_not_timeKeys rfl rfl (by decide) (by decide) (lt_of_portOk hp)) dt] at hpower hchanged
    exact hrefused hserves fun h => lineCtrl_refused h (hport hp dt) (.inl ⟨hpower, hchanged⟩)
  case limit =>
    intro dt p v s hserves hp hpower hchanged
    rw [← get_elapse (line_not_timeKeys rfl rfl (by decide) (by decide) (lt_of_portOk hp)) dt] at hpower hchanged
    exact hrefused hserves fun h => ilim_refused h (hport hp dt) hpower hchanged
  case mode =>
    intro dt p v s hserves hp hen hchanged
    rw [← get_elapse (line_not_timeKeys rfl rfl (by decide) (by decide) (lt_of_portOk hp)) dt] at hen hchanged
    exact hrefused hserves fun h => lineCtrl_refused h (hport hp dt) (.inr (.inl ⟨hen, hchanged⟩))
  case termination =>
    intro dt p v s hserves hp hmode hterm
    exact hrefused hserves fun h => lineCtrl_refused h (hport hp dt) (.inr (.inr ⟨hmode, hterm⟩))
  case grammar =>
    intro dt p v s hserves hp hen hchanged
    rw [← get_elapse (port_not_timeKeys rfl rfl (by decide) (by decide) (lt_of_portOk hp)) dt] at hen hchanged
    exact hrefused hserves fun h => grammarWrite_refused h (hport hp dt) (.inr ⟨hen, hchanged⟩)
  case mark =>
    intro dt p v s hserves hp hhigh hmark
    exact hrefused hserves fun h => grammarWrite_refused h (hport hp dt) (.inl ⟨hhigh, hmark⟩)
  case nanoseconds =>
    intro dt v s hserves hover
    exact hrefused hserves fun h => rtSetNs_refused h hover
  case width =>
    intro dt v s hserves hout
    exact hrefused hserves fun h => widthMs_refused h hout

end

end

section

/-! ### The seconds carry -/

namespace Sys2Proof.Machine

theorem ringPerCycle_congr {s t : State} (h : get RG.RT_RATE 0 t = get RG.RT_RATE 0 s) : ringPerCycle t = ringPerCycle s := by
  unfold ringPerCycle rtRate; rw [h]

/-- Within its limits RT_RATE leaves Ring time counting, by less than a second in each CORE cycle (R87). -/
theorem ringPerCycle_bounds {s : State} (h : (rtRate s).natAbs ≤ 3435973) :
    0 < ringPerCycle s ∧ ringPerCycle s < ringSecond := by
  unfold ringPerCycle ringSecond
  omega

/-- The carry comes in the first CORE cycle in which nanoseconds reach a second. -/
theorem cyclesToCarry_eq {n : Nat} {s : State} (hper : 0 < ringPerCycle s)
    (hbefore : ∀ m, m < n → s.ring.acc + m * ringPerCycle s < ringSecond)
    (hreach : ringSecond ≤ s.ring.acc + n * ringPerCycle s) : cyclesToCarry s = n := by
  unfold cyclesToCarry ceilDiv
  refine Nat.div_eq_of_lt_le ?_ ?_
  · cases n with
    | zero => omega
    | succ n =>
      have hlast := hbefore n (by omega)
      rw [Nat.succ_mul]
      omega
  · rw [Nat.succ_mul]
    omega

/-- With a second not yet reached, a carry lies ahead. -/
theorem cyclesToCarry_pos {s : State} (hper : 0 < ringPerCycle s) (h : s.ring.acc < ringSecond) : 0 < cyclesToCarry s :=
  Nat.div_pos (by omega) hper

/-- A carry takes a second from the nanoseconds and adds one to the seconds (R88). -/
theorem carry_ring (s : State) : (carry s).ring = ⟨(s.ring.sec + 1) % 2 ^ 32, s.ring.acc - ringSecond⟩ := by
  unfold carry
  dsimp only
  split <;> simp

theorem pulseCheck_ring (s : State) : (pulseCheck s).ring = s.ring := by simp

theorem advance_of_le {target : Nat} {s : State} (h : target ≤ s.now) : advance target s = s := if_neg (by omega)

/-- Ring time counts in the CORE cycles of a locked PLL (R87). -/
theorem advance_spec {target : Nat} {s : State} (hlocked : s.clk.locked = true) (h : s.now < target) :
    (advance target s).now = target ∧
    (advance target s).ring = ⟨s.ring.sec, s.ring.acc + (target - s.now) * ringPerCycle s⟩ := by
  unfold advance
  simp [h, hlocked]

/-- Where no carry falls in them, CORE cycles just pass. -/
theorem passTo_noCarry {target : Nat} {s : State} (h : target < s.now + cyclesToCarry s) (n : Nat) :
    passTo target n s = pulseCheck (advance target s) := by
  cases n with
  | zero => rfl
  | succ n => rw [passTo, if_neg (by simp [h])]

/-- Before the carry, Ring time counts and nothing carries. -/
theorem elapse_ring_noCarry {m : Nat} {s : State} (hlocked : s.clk.locked = true) (h : m < cyclesToCarry s) :
    (elapse m s).ring = ⟨s.ring.sec, s.ring.acc + m * ringPerCycle s⟩ := by
  unfold elapse elapseTo
  split
  · next hzero =>
    obtain rfl : m = 0 := by omega
    simp
  · next hahead =>
    obtain ⟨-, hring⟩ := advance_spec hlocked (Nat.lt_of_not_le hahead)
    rw [passTo_noCarry (by omega), pulseCheck_ring, hring, Nat.add_sub_cancel_left]

/-- SECONDS_CARRY: the clock runs on to the carry, and no other falls in that CORE cycle. -/
theorem secondsCarry_spec {n : Nat} {s : State} (hlocked : s.clk.locked = true) (hrate : (rtRate s).natAbs ≤ 3435973)
    (hacc : s.ring.acc < ringSecond) (hn : cyclesToCarry s = n) (hbefore : s.ring.acc + (n - 1) * ringPerCycle s < ringSecond) :
    (secondsCarry s).now = s.now + n ∧
    (secondsCarry s).ring = ⟨(s.ring.sec + 1) % 2 ^ 32, s.ring.acc + n * ringPerCycle s - ringSecond⟩ := by
  obtain ⟨hper, hsmall⟩ := ringPerCycle_bounds hrate
  have hpos : 0 < n := hn ▸ cyclesToCarry_pos hper hacc
  have hrun : secondsCarry s = runTo (s.now + n) s := by rw [secondsCarry, if_pos hlocked, hn]
  refine ⟨by simp [hrun], ?_⟩
  rw [hrun]
  unfold runTo elapseTo
  rw [if_neg (by omega), passTo, hn, if_pos (by simp [hlocked])]
  obtain ⟨hnow, hring⟩ := advance_spec (target := s.now + n) hlocked (by omega)
  have hx : (carry (pulseCheck (advance (s.now + n) s))).ring =
        ⟨(s.ring.sec + 1) % 2 ^ 32, s.ring.acc + n * ringPerCycle s - ringSecond⟩ ∧
      (carry (pulseCheck (advance (s.now + n) s))).now = s.now + n ∧
      ringPerCycle (carry (pulseCheck (advance (s.now + n) s))) = ringPerCycle s := by
    refine ⟨?_, by simp [hnow], ringPerCycle_congr (by rw [get_carry (by decide), get_pulseCheck, get_advance])⟩
    rw [carry_ring, pulseCheck_ring, hring, Nat.add_sub_cancel_left]
  generalize carry (pulseCheck (advance (s.now + n) s)) = x at hx ⊢
  obtain ⟨hxring, hxnow, hxper⟩ := hx
  have hlast : n * ringPerCycle s = (n - 1) * ringPerCycle s + ringPerCycle s := by
    rw [← Nat.succ_mul, Nat.succ_eq_add_one, Nat.sub_add_cancel hpos]
  have hnext : 0 < cyclesToCarry x := cyclesToCarry_pos (by omega) (by rw [hxring]; dsimp only; omega)
  rw [passTo_noCarry (by omega), pulseCheck_ring, advance_of_le (by omega), hxring]

end Sys2Proof.Machine

section

open Sys2Proof Sys2Proof.Machine

/-- Settles O9: the carry with the CORE cycles before it, and stopped clocks. -/
theorem ringTimeCarries : Obligations.RingTimeCarries := by
  refine ⟨?carries, ?stopped⟩
  case carries =>
    intro n s hlocked hrate hacc hbefore hreach
    obtain ⟨hper, -⟩ := ringPerCycle_bounds hrate
    have hn := cyclesToCarry_eq hper hbefore hreach
    have hpos : 0 < n := hn ▸ cyclesToCarry_pos hper hacc
    obtain ⟨hnow, hring⟩ := secondsCarry_spec hlocked hrate hacc hn (hbefore (n - 1) (by omega))
    exact ⟨⟨_, rfl, hnow, by rw [hring], by rw [hring]⟩, fun m hm => elapse_ring_noCarry hlocked (hn ▸ hm)⟩
  case stopped =>
    intro s hlocked
    exact congrArg Host.Outcome.next (by simp [secondsCarry, hlocked])

end

end

section

/-! ### RT_CTRL: SET, STEP and LOCK_EN -/

open Sys2Proof.Safety

namespace Sys2Proof.Machine

/-! #### A write of RT_CTRL (R94 to R97) -/

theorem plainWord_rtCtrl : PlainWord 0 0x11 := plainWord_of (off := 0x11) (i := 0) (l := fldsRG) rfl rfl (by decide)

/-- RT_CTRL is present on every variant. -/
theorem place_rtCtrl (s : State) : place 0 0x11 s = .present := by
  cases h : s.variant <;> simp [place, directAbsent, directReserved, h]

/-- The fields of RT_CTRL that have a row of their own. -/
def rtCtrlRows : List Fld := [RG.RT_SET, RG.RT_STEP_GO, RG.LOCK_EN]

/-- A write of one such field whose word passes the checks is taken, and its acts follow. -/
theorem setFields_rtCtrl {f : Fld} {v : Nat} {s : State} {act : State → State} (hf : f ∈ rtCtrlRows)
    (hserves : mpServes s = true)
    (hcheck : ∀ M w, WriteFacts 0 f [(f, v)] s M w → firstFail (wordChecks 0 0x11 M s w) = none)
    (hact : ∀ M w, WriteFacts 0 f [(f, v)] s M w → (rtCtrlActs M s w).foldl (fun a f => f a) w = act w) :
    wrote 0 f [(f, v)] act s (setFields 0 [(f, v)] s) := by
  have hword : f.space = 0 ∧ wordOf f 0 = 0x11 ∧ (f, 0) ∈ wordFields 0 0x11 ∧ f.acc ≠ .w1c :=
    (show ∀ f ∈ rtCtrlRows, f.space = 0 ∧ wordOf f 0 = 0x11 ∧ (f, 0) ∈ wordFields 0 0x11 ∧ f.acc ≠ .w1c by decide) f hf
  obtain ⟨hspace, haddr, hmem, hacc⟩ := hword
  have hfs : ∀ y ∈ [(f, v)], (y.1, 0) ∈ wordFields f.space (wordOf f 0) ∧ y.1.acc ≠ .w1c := by
    simpa [hspace, haddr] using ⟨hmem, hacc⟩
  have hplain : PlainWord f.space (wordOf f 0) := by rw [hspace, haddr]; exact plainWord_rtCtrl
  refine setFields_wrote 0 f v [] s act ?_ hplain ?_ ?_ ?_ hfs (List.pairwise_singleton ..) ?_
  · refine taken_of hserves ?_ hplain hfs (List.pairwise_singleton ..) ?_
    · rw [hspace, haddr]; exact place_rtCtrl s
    · rw [hspace, haddr]; exact hcheck
  · rw [hspace, haddr]; rfl
  · rw [hspace]; decide
  · rw [haddr]; exact .inl rfl
  · rw [hspace, haddr]; exact hact

/-- A word writes 1 to SET or STEP where it has that bit. -/
theorem asks_rtCtrl (M : Nat) : asks RG.RT_SET M = (bits M 0 1 == 1) ∧ asks RG.RT_STEP_GO M = (bits M 1 1 == 1) := ⟨rfl, rfl⟩

theorem firstFail_rtCtrl (M : Nat) (s w : State) : firstFail (wordChecks 0 0x11 M s w) =
    if asks RG.RT_STEP_GO M = true ∧ (asks RG.RT_SET M = true ∨ get RG.LOCK_EN 0 s = 1) then some refused else none := by
  show firstFail [(asks RG.RT_SET M && asks RG.RT_STEP_GO M, refused), (asks RG.RT_STEP_GO M && flag RG.LOCK_EN 0 s, refused)] = _
  cases asks RG.RT_SET M <;> cases asks RG.RT_STEP_GO M <;> simp [firstFail, flag]

/-- A write that leaves LOCK_EN neither starts nor stops the loop. -/
theorem rtCtrlActs_of_lockEn {M : Nat} {s w : State} (h : get RG.LOCK_EN 0 w = get RG.LOCK_EN 0 s) : rtCtrlActs M s w =
    (if asks RG.RT_SET M then [rtSet (flag RG.LOCK_EN 0 s)] else []) ++ (if asks RG.RT_STEP_GO M then [rtStep] else []) := by
  simp [rtCtrlActs, rises, falls, flag, h]

/-- The word of a write of SET asks for SET alone. -/
theorem rtSet_word {M : Nat} {s w : State} (h : WriteFacts 0 RG.RT_SET [(RG.RT_SET, 1)] s M w) :
    asks RG.RT_SET M = true ∧ asks RG.RT_STEP_GO M = false ∧ get RG.LOCK_EN 0 w = get RG.LOCK_EN 0 s := by
  have hset : bits M 0 1 = 1 := h.sent (RG.RT_SET, 1) (by simp)
  have hstep : bits M 1 1 = 0 := h.kept (RG.RT_STEP_GO, 0) (by decide) (by decide)
  exact ⟨by simp [asks_rtCtrl, hset], by simp [asks_rtCtrl, hstep], h.rest (RG.LOCK_EN, 0) (by decide) (.inl (by decide))⟩

/-- The word of a write of STEP asks for STEP alone. -/
theorem rtStep_word {M : Nat} {s w : State} (h : WriteFacts 0 RG.RT_STEP_GO [(RG.RT_STEP_GO, 1)] s M w) :
    asks RG.RT_SET M = false ∧ asks RG.RT_STEP_GO M = true ∧ get RG.LOCK_EN 0 w = get RG.LOCK_EN 0 s := by
  have hset : bits M 0 1 = 0 := h.kept (RG.RT_SET, 0) (by decide) (by decide)
  have hstep : bits M 1 1 = 1 := h.sent (RG.RT_STEP_GO, 1) (by simp)
  exact ⟨by simp [asks_rtCtrl, hset], by simp [asks_rtCtrl, hstep], h.rest (RG.LOCK_EN, 0) (by decide) (.inl (by decide))⟩

/-- The word of a write of LOCK_EN asks for neither. -/
theorem lockEn_word {v M : Nat} {s w : State} (h : WriteFacts 0 RG.LOCK_EN [(RG.LOCK_EN, v)] s M w) :
    asks RG.RT_SET M = false ∧ asks RG.RT_STEP_GO M = false ∧ get RG.LOCK_EN 0 w = v % 2 := by
  have hset : bits M 0 1 = 0 := h.kept (RG.RT_SET, 0) (by decide) (by simp [RG.RT_SET, RG.LOCK_EN])
  have hstep : bits M 1 1 = 0 := h.kept (RG.RT_STEP_GO, 0) (by decide) (by simp [RG.RT_STEP_GO, RG.LOCK_EN])
  exact ⟨by simp [asks_rtCtrl, hset], by simp [asks_rtCtrl, hstep], h.given (RG.LOCK_EN, v) (by simp) rfl⟩

/-- A write of SET is taken, and Ring time is set. -/
theorem setFields_rtSet {s : State} (hserves : mpServes s = true) :
    wrote 0 RG.RT_SET [(RG.RT_SET, 1)] (rtSet (flag RG.LOCK_EN 0 s)) s (setFields 0 [(RG.RT_SET, 1)] s) := by
  refine setFields_rtCtrl (by decide) hserves (fun M w h => ?_) (fun M w h => ?_)
  · simp [firstFail_rtCtrl, rtSet_word h]
  · obtain ⟨hset, hstep, hlock⟩ := rtSet_word h
    simp [rtCtrlActs_of_lockEn hlock, hset, hstep]

/-- A write of STEP with LOCK_EN 0 is taken, and Ring time steps. -/
theorem setFields_rtStep {s : State} (hserves : mpServes s = true) (hlock : get RG.LOCK_EN 0 s = 0) :
    wrote 0 RG.RT_STEP_GO [(RG.RT_STEP_GO, 1)] rtStep s (setFields 0 [(RG.RT_STEP_GO, 1)] s) := by
  refine setFields_rtCtrl (by decide) hserves (fun M w h => ?_) (fun M w h => ?_)
  · simp [firstFail_rtCtrl, rtStep_word h, hlock]
  · obtain ⟨hset, hstep, hkept⟩ := rtStep_word h
    simp [rtCtrlActs_of_lockEn hkept, hset, hstep]

/-- A write of STEP with LOCK_EN 1 is refused (R97). -/
theorem setFields_rtStep_refused {s : State} (hserves : mpServes s = true) (hlock : get RG.LOCK_EN 0 s = 1) :
    setFields 0 [(RG.RT_STEP_GO, 1)] s = mpMap (fun m => { m with answer := 1 }) s := by
  have h : WriteFacts 0 RG.RT_STEP_GO [(RG.RT_STEP_GO, 1)] s _ _ := writeFacts 0 RG.RT_STEP_GO [(RG.RT_STEP_GO, 1)] s plainWord_rtCtrl
    (fun y hy => List.mem_singleton.mp hy ▸ ⟨show (RG.RT_STEP_GO, 0) ∈ wordFields 0 0x11 by decide, by decide⟩)
    (List.pairwise_singleton ..)
  refine regWrite_refused hserves (place_rtCtrl s) rfl (by decide) (.inl rfl) rfl ?_
  obtain ⟨-, hstep, -⟩ := rtStep_word h
  exact (firstFail_rtCtrl ..).trans (if_pos ⟨hstep, .inr hlock⟩)

/-- A write of LOCK_EN is taken; a change starts or stops the loop (R105, R107). -/
theorem setFields_lockEn {v : Nat} {s : State} {act : State → State} (hserves : mpServes s = true)
    (hact : ∀ w, get RG.LOCK_EN 0 w = v % 2 → (if rises RG.LOCK_EN 0 s w then lockStart true w
      else if falls RG.LOCK_EN 0 s w then lockStop w else w) = act w) :
    wrote 0 RG.LOCK_EN [(RG.LOCK_EN, v)] act s (setFields 0 [(RG.LOCK_EN, v)] s) := by
  refine setFields_rtCtrl (by decide) hserves (fun M w h => ?_) (fun M w h => ?_)
  · simp [firstFail_rtCtrl, lockEn_word h]
  · obtain ⟨hset, hstep, hlock⟩ := lockEn_word h
    rw [← hact w hlock]
    unfold rtCtrlActs
    simp only [hset, hstep, Bool.false_eq_true, if_false, List.nil_append]
    (repeat' split) <;> rfl

/-- Of a bit that falls, what its fall does. -/
theorem ite_of_fall {α : Type} {f : Fld} {i : Nat} {b w : State} (hb : get f i b = 1) (hw : get f i w ≠ 1) (x y z : α) :
    (if rises f i b w then x else if falls f i b w then y else z) = y := by
  rw [if_neg (by simp [rises_iff, hb]), if_pos (falls_iff.mpr ⟨hb, hw⟩)]

/-! #### What SET and STEP do to Ring time -/

/-- A set or a step of Ring time leaves every field but the quality, its IRQ bit and those of an event log entry, and the
ports, cards, uplinks and guard lines. -/
structure RtMoved (s t : State) : Prop where
  kept : ∀ g j, g.key j ∉ timeKeys → g.key j ≠ RG.QUALITY.key 0 → g.key j ≠ RG.IRQ_CLOCK.key 0 → get g j t = get g j s
  ports : t.ports = s.ports
  cards : t.cards = s.cards
  uplinks : t.uplinks = s.uplinks
  lines : t.lines = s.lines

theorem RtMoved.trans {a b c : State} (hab : RtMoved a b) (hbc : RtMoved b c) : RtMoved a c where
  kept g j hlog hq hirq := (hbc.kept g j hlog hq hirq).trans (hab.kept g j hlog hq hirq)
  ports := hbc.ports.trans hab.ports
  cards := hbc.cards.trans hab.cards
  uplinks := hbc.uplinks.trans hab.uplinks
  lines := hbc.lines.trans hab.lines

theorem get_reseg (g : Fld) (j : Nat) (s : State) : get g j (reseg s) = get g j s := get_congr g j (by simp) (by simp) (by simp)

/-- The register file knows nothing of Ring time and of the groups' alignment. -/
theorem get_holdGroups_ring (g : Fld) (j : Nat) (r : Ring) (s : State) : get g j { holdGroups s with ring := r } = get g j s :=
  get_congr g j (by simp) (by simp) (by simp)

theorem rtMoved_holdGroups_ring (r : Ring) (s : State) : RtMoved s { holdGroups s with ring := r } where
  kept g j _ _ _ := get_holdGroups_ring g j r s
  ports := by simp
  cards := by simp
  uplinks := by simp
  lines := by simp

theorem rtMoved_reseg (s : State) : RtMoved s (reseg s) where
  kept g j _ _ _ := get_reseg g j s
  ports := by simp
  cards := by simp
  uplinks := by simp
  lines := by simp

theorem rtMoved_putQuality (q : Nat) (s : State) : RtMoved s (put RG.QUALITY 0 q s) where
  kept _ _ _ hq _ := get_put_ne hq ..
  ports := rfl
  cards := rfl
  uplinks := rfl
  lines := rfl

theorem rtMoved_logEvent (code sub idx : Nat) (d : List Nat) (s : State) : RtMoved s (logEvent code sub idx d s) where
  kept _ _ hlog _ _ := get_logEvent hlog ..
  ports := by simp
  cards := by simp
  uplinks := by simp
  lines := by simp

theorem rtMoved_irq (s : State) : RtMoved s (irq RG.IRQ_CLOCK s) where
  kept _ _ _ _ hirq := get_irq_ne hirq s
  ports := rfl
  cards := rfl
  uplinks := rfl
  lines := rfl

/-- An event of the clock leaves the quality. -/
theorem get_quality_clockEvent (code sub idx : Nat) (d : List Nat) (s : State) :
    get RG.QUALITY 0 (irq RG.IRQ_CLOCK (logEvent code sub idx d s)) = get RG.QUALITY 0 s :=
  (get_irq_ne (by decide) _).trans (get_logEvent (by decide) ..)

/-- The entry of a change of Ring time, and the event of a quality that was another before: both only tell. -/
theorem rtChange_logged {sub : Nat} {before : Stamp} {old : Nat} {s t : State} (ht : t = if old = 1 then logRtChange sub before s
      else irq RG.IRQ_CLOCK (logEvent 4 0 1 [old] (logRtChange sub before s))) :
    RtMoved s t ∧ t.ring = s.ring ∧ get RG.QUALITY 0 t = get RG.QUALITY 0 s := by
  have hlog : RtMoved s (logRtChange sub before s) := rtMoved_logEvent ..
  have hquality : get RG.QUALITY 0 (logRtChange sub before s) = get RG.QUALITY 0 s := get_logEvent (by decide) ..
  rw [ht]
  split
  · exact ⟨hlog, by simp, hquality⟩
  · exact ⟨hlog.trans ((rtMoved_logEvent ..).trans (rtMoved_irq _)), by simp, (get_quality_clockEvent ..).trans hquality⟩

/-- SET with LOCK_EN 1 loads the seconds, and the quality stands (R96). -/
theorem rtSet_locked (s : State) : (rtSet true s).ring = ⟨get RG.RT_SET_SEC 0 s, s.ring.acc⟩ ∧
    get RG.QUALITY 0 (rtSet true s) = get RG.QUALITY 0 s := by
  have hlog (before : Stamp) (t : State) : get RG.QUALITY 0 (logRtChange 0 before (reseg t)) = get RG.QUALITY 0 t :=
    (get_logEvent (by decide) ..).trans (get_reseg ..)
  have hset : rtSet true s = logRtChange 0 (stampNow s)
      (reseg { holdGroups s with ring := ⟨get RG.RT_SET_SEC 0 s, s.ring.acc⟩ }) :=
    if_pos (hlog ..).symm
  rw [hset]
  exact ⟨by simp, (hlog ..).trans (get_holdGroups_ring ..)⟩

/-- SET with LOCK_EN 0 loads Ring time, and the quality is 01 (R94). -/
theorem rtSet_free (s : State) : (rtSet false s).ring = ⟨get RG.RT_SET_SEC 0 s, get RG.RT_SET_NS 0 s * 2 ^ 32⟩ ∧
    get RG.QUALITY 0 (rtSet false s) = 1 ∧ RtMoved s (rtSet false s) := by
  obtain ⟨r, hr⟩ : ∃ r : Ring, r = ⟨get RG.RT_SET_SEC 0 s, get RG.RT_SET_NS 0 s * 2 ^ 32⟩ := ⟨_, rfl⟩
  obtain ⟨x, hx⟩ : ∃ x, x = { holdGroups s with ring := r } := ⟨_, rfl⟩
  obtain ⟨y, hy⟩ : ∃ y, y = logRtChange 0 (stampNow s) (reseg (put RG.QUALITY 0 1 x)) := ⟨_, rfl⟩
  have hone : get RG.QUALITY 0 y = 1 := hy ▸ (get_logEvent (by decide) ..).trans ((get_reseg ..).trans (get_put_same ..))
  have hset : rtSet false s = if get RG.QUALITY 0 x = get RG.QUALITY 0 y then y else
      irq RG.IRQ_CLOCK (logEvent 4 0 1 [get RG.QUALITY 0 x] y) := by
    subst hx hy hr
    rfl
  rw [hone, hy] at hset
  obtain ⟨hmoved, hring, hquality⟩ := rtChange_logged hset
  exact ⟨hring.trans (by simp [hx, hr]), hquality.trans ((get_reseg ..).trans (get_put_same ..)),
    (hx ▸ rtMoved_holdGroups_ring r s).trans ((rtMoved_putQuality 1 x).trans ((rtMoved_reseg _).trans hmoved))⟩

/-- STEP moves Ring time by RT_STEP ns, and the quality is 01 (R95). -/
theorem rtStep_spec (s : State) : (rtStep s).ring = s.ring.plus (signedOf 32 (get RG.RT_STEP 0 s)) ∧
    get RG.QUALITY 0 (rtStep s) = 1 ∧ RtMoved s (rtStep s) := by
  have hmoved : RtMoved s (addRing (signedOf 32 (get RG.RT_STEP 0 s)) (holdGroups s)) :=
    (rtMoved_holdGroups_ring _ s).trans (rtMoved_reseg _)
  obtain ⟨hlogged, hring, hquality⟩ := rtChange_logged (sub := 1) (before := stampNow s) (old := get RG.QUALITY 0 s)
    (s := reseg (put RG.QUALITY 0 1 (addRing (signedOf 32 (get RG.RT_STEP 0 s)) (holdGroups s)))) (t := rtStep s) rfl
  exact ⟨hring.trans (by simp [addRing]), hquality.trans ((get_reseg ..).trans (get_put_same ..)),
    hmoved.trans ((rtMoved_putQuality 1 _).trans ((rtMoved_reseg _).trans hlogged))⟩

/-- A move of Ring time borrows from and carries into the seconds, which wrap (R95). -/
theorem plus_spec (d : Int) (r : Ring) : (((r.plus d).sec * ringSecond + (r.plus d).acc : Nat) : Int) =
    ((r.sec * ringSecond + r.acc : Nat) + d * 2 ^ 32) % (2 ^ 32 * ringSecond : Nat) ∧ (r.plus d).acc < ringSecond := by
  have hpos : 0 < ringSecond := by decide
  refine ⟨?_, Nat.mod_lt _ hpos⟩
  show ((((_ : Int) % _).toNat / ringSecond * ringSecond + ((_ : Int) % _).toNat % ringSecond : Nat) : Int) = _
  rw [Nat.div_add_mod']
  exact Int.toNat_of_nonneg (Int.emod_nonneg _ (by decide))

/-- What a set or a step after some time leaves as it was. -/
theorem rtMoved_elapse {dt : Nat} {s w t : State} (hunits : sameUnits (elapse dt s) w)
    (hlock : get RG.LOCK_EN 0 w = get RG.LOCK_EN 0 (elapse dt s)) (hrate : get RG.RT_RATE 0 w = get RG.RT_RATE 0 (elapse dt s))
    (hmoved : RtMoved w t) : get RG.LOCK_EN 0 t = get RG.LOCK_EN 0 s ∧ get RG.RT_RATE 0 t = get RG.RT_RATE 0 s ∧
      t.ports = s.ports ∧ t.cards = s.cards ∧ t.uplinks = s.uplinks ∧ t.lines = s.lines := by
  refine ⟨(hmoved.kept _ 0 (by decide) (by decide) (by decide)).trans (hlock.trans (get_elapse (by decide) dt s)),
    (hmoved.kept _ 0 (by decide) (by decide) (by decide)).trans (hrate.trans (get_elapse (by decide) dt s)), ?_⟩
  rw [hmoved.ports, hmoved.cards, hmoved.uplinks, hmoved.lines, hunits]
  simp

end Sys2Proof.Machine

section

open Sys2Proof Sys2Proof.Machine

/-- Settles O11, by the write of SET and what it does with LOCK_EN 1. -/
theorem setLoadsSecondsOnlyWhileLocked : Obligations.SetLoadsSecondsOnlyWhileLocked := by
  intro dt s hserves hlock
  have hlock' : get RG.LOCK_EN 0 (elapse dt s) = 1 := (get_elapse (by decide) dt s).trans hlock
  obtain ⟨w, l, hunits, -, -, hother, ht⟩ := setFields_rtSet (s := elapse dt s) (by simpa using hserves)
  obtain ⟨hring, hquality⟩ := rtSet_locked w
  have hsec : get RG.RT_SET_SEC 0 w = get RG.RT_SET_SEC 0 s := (hother _ 0 (by decide)).trans (get_elapse (by decide) dt s)
  have hkept : get RG.QUALITY 0 w = get RG.QUALITY 0 s := (hother _ 0 (by decide)).trans (get_elapse (by decide) dt s)
  have hact : flag RG.LOCK_EN 0 (elapse dt s) = true := by simp [flag, hlock']
  rw [hact] at ht
  refine ⟨_, congrArg Host.Outcome.next ht, rfl, ?_, hquality.trans hkept⟩
  rw [← hsec, hring, hunits]

/-- Settles O12: SET and STEP with LOCK_EN 0, and the refusal of STEP with LOCK_EN 1. -/
theorem setAndStepMoveRingTime : Obligations.SetAndStepMoveRingTime := by
  refine ⟨?set, ?step, ?refused⟩
  case set =>
    intro dt s hserves hlock
    have hlock' : get RG.LOCK_EN 0 (elapse dt s) = 0 := (get_elapse (by decide) dt s).trans hlock
    obtain ⟨w, l, hunits, -, hrest, hother, ht⟩ := setFields_rtSet (s := elapse dt s) (by simpa using hserves)
    have hact : flag RG.LOCK_EN 0 (elapse dt s) = false := by simp [flag, hlock']
    rw [hact] at ht
    have hsec : get RG.RT_SET_SEC 0 w = get RG.RT_SET_SEC 0 s := (hother _ 0 (by decide)).trans (get_elapse (by decide) dt s)
    have hns : get RG.RT_SET_NS 0 w = get RG.RT_SET_NS 0 s := (hother _ 0 (by decide)).trans (get_elapse (by decide) dt s)
    obtain ⟨hring, hquality, hmoved⟩ := rtSet_free w
    rw [hsec, hns] at hring
    obtain ⟨hlocked, hunmoved⟩ := rtMoved_elapse hunits (hrest (RG.LOCK_EN, 0) (by decide) (.inl (by decide)))
      (hother _ 0 (by decide)) hmoved
    exact ⟨_, congrArg Host.Outcome.next ht, rfl, hring, hquality, hlocked.trans hlock, hunmoved⟩
  case step =>
    intro dt s hserves hlock
    have hlock' : get RG.LOCK_EN 0 (elapse dt s) = 0 := (get_elapse (by decide) dt s).trans hlock
    obtain ⟨w, l, hunits, -, hrest, hother, ht⟩ := setFields_rtStep (s := elapse dt s) (by simpa using hserves) hlock'
    have hby : get RG.RT_STEP 0 w = get RG.RT_STEP 0 s := (hother _ 0 (by decide)).trans (get_elapse (by decide) dt s)
    have hbefore : w.ring = (elapse dt s).ring := by rw [hunits]
    obtain ⟨hring, hquality, hmoved⟩ := rtStep_spec w
    obtain ⟨htotal, hcarried⟩ := plus_spec (signedOf 32 (get RG.RT_STEP 0 s)) (elapse dt s).ring
    rw [hby, hbefore] at hring
    rw [← hring] at htotal hcarried
    obtain ⟨hlocked, hunmoved⟩ := rtMoved_elapse hunits (hrest (RG.LOCK_EN, 0) (by decide) (.inl (by decide)))
      (hother _ 0 (by decide)) hmoved
    exact ⟨_, congrArg Host.Outcome.next ht, rfl, htotal, hcarried, hquality, hlocked.trans hlock, hunmoved⟩
  case refused =>
    intro dt s hserves hlock
    have hlock' : get RG.LOCK_EN 0 (elapse dt s) = 1 := (get_elapse (by decide) dt s).trans hlock
    exact ⟨_, congrArg Host.Outcome.next (setFields_rtStep_refused (by simpa using hserves) hlock'), rfl, rfl, rfl⟩

end

end

section

/-! ### The lock loop -/

open Sys2Proof.Safety

namespace Sys2Proof.Machine

/-! #### The accepted level of TM_IN while time passes -/

@[simp] theorem pulseCheck_tmLevel (s : State) : (pulseCheck s).clk.tmLevel = s.clk.tmLevel := by
  unfold pulseCheck w9Release pulseDone
  (repeat' split) <;> rfl

@[simp] theorem pulseStart_tmLevel (s : State) : (pulseStart s).clk.tmLevel = s.clk.tmLevel := by
  unfold pulseStart
  split <;> rfl

@[simp] theorem carry_tmLevel (s : State) : (carry s).clk.tmLevel = s.clk.tmLevel := by
  unfold carry
  dsimp only
  split <;> simp

/-- Passing time leaves the accepted level of TM_IN (R85). -/
@[simp] theorem elapse_tmLevel (dt : Nat) (s : State) : (elapse dt s).clk.tmLevel = s.clk.tmLevel :=
  runTo_invariant (P := fun a => a.clk.tmLevel = s.clk.tmLevel) (fun x a ha => by simpa using ha) (fun a ha => by simpa using ha)
    (fun a ha => by simpa using ha) (s.now + dt) rfl

/-! #### Software writes of the present CORE cycle (R708)

Words that enter a queue and log entries leave the record of them; a CORE cycle that passes clears it. -/

@[simp] theorem qMarks_sw (q : Nat) (s : State) : (qMarks q s).cyc.sw = s.cyc.sw := by
  unfold qMarks
  dsimp only
  (repeat' split) <;> simp

@[simp] theorem entered_sw (q : Nat) (t : Tag) (s : State) : (entered q t s).cyc.sw = s.cyc.sw := by
  unfold entered
  rw [qMarks_sw]
  (repeat' split) <;> rfl

theorem qSet_sw (q : Nat) (c : Queue) (s : State) : (qSet q c s).cyc.sw = s.cyc.sw := rfl

@[simp] theorem enter_sw (q : Nat) (p : Producer) (w : QWord) (s : State) : (enter q p w s).cyc.sw = s.cyc.sw := by
  unfold enter
  extract_lets c idx mp started
  rw [entered_sw, qSet_sw]
  simp only [started]
  split <;> rfl

@[simp] theorem gapWrite_sw (q : Nat) (s : State) : (gapWrite q s).cyc.sw = s.cyc.sw := by
  unfold gapWrite
  generalize (qGet q s).gap.words = l
  induction l generalizing s with
  | nil => rfl
  | cons x l ih =>
    rw [List.foldl_cons, ih]
    obtain ⟨i, d⟩ := x
    dsimp only
    split
    · exact enter_sw ..
    · rfl

@[simp] theorem writeWord_sw (q : Nat) (p : Producer) (w : QWord) (s : State) : (writeWord q p w s).cyc.sw = s.cyc.sw := by
  unfold writeWord
  split
  · split <;> rfl
  · exact enter_sw ..

@[simp] theorem stall_sw (q : Nat) (s : State) : (stall q s).cyc.sw = s.cyc.sw := by
  unfold stall
  split <;> rfl

@[simp] theorem writeFor_sw (q : Nat) (p : Producer) (s : State) : (writeFor q p s).cyc.sw = s.cyc.sw := by
  unfold writeFor
  dsimp only
  split
  · exact gapWrite_sw q s
  · split
    · exact (writeWord_sw ..).trans (gapWrite_sw q s)
    · exact (stall_sw ..).trans (gapWrite_sw q s)

@[simp] theorem writeNext_sw (q : Nat) (s : State) : (writeNext q s).cyc.sw = s.cyc.sw := by
  unfold writeNext
  split
  · rfl
  · exact writeFor_sw ..

@[simp] theorem writeMany_sw (q n : Nat) (s : State) : (writeMany q n s).cyc.sw = s.cyc.sw := by
  induction n generalizing s with
  | zero => rfl
  | succ n ih =>
    simp only [writeMany]
    split
    · rw [ih, writeNext_sw]
    · exact writeNext_sw q s

@[simp] theorem offer_sw (q : Nat) (p : Producer) (ws : List QWord) (s : State) : (offer q p ws s).cyc.sw = s.cyc.sw :=
  writeMany_sw ..

@[simp] theorem notice_sw (n : Nat) (s : State) : (notice n s).cyc.sw = s.cyc.sw := by
  unfold notice
  split
  · exact offer_sw ..
  · exact offer_sw ..
  · rfl

@[simp] theorem loseOld_sw (pos : Nat) (s : State) : (loseOld pos s).cyc.sw = s.cyc.sw := by
  unfold loseOld
  split
  · dsimp only
    split <;> rfl
  · rfl

@[simp] theorem logPos_sw (code sub idx : Nat) (d : List Nat) (s : State) : (logPos code sub idx d s).cyc.sw = s.cyc.sw :=
  loseOld_sw ..

@[simp] theorem logEvent_sw (code sub idx : Nat) (d : List Nat) (s : State) : (logEvent code sub idx d s).cyc.sw = s.cyc.sw := by
  unfold logEvent
  split
  · rw [notice_sw, logPos_sw]
  · rfl

@[simp] theorem pulseCheck_sw (s : State) : (pulseCheck s).cyc.sw = s.cyc.sw := by
  unfold pulseCheck w9Release pulseDone
  (repeat' split) <;> rfl

@[simp] theorem carry_sw (s : State) : (carry s).cyc.sw = s.cyc.sw := by
  unfold carry pulseStart
  dsimp only
  (repeat' split) <;> simp

@[simp] theorem setQuality_sw (q : Nat) (s : State) : (setQuality q s).cyc.sw = s.cyc.sw := by
  unfold setQuality
  dsimp only
  (repeat' split) <;> simp [irq, setBits]

/-- In a later CORE cycle software has written nothing yet. -/
theorem runTo_sw {due : Nat} {s : State} (h : s.now < due) : (runTo due s).cyc.sw = [] := by
  have hlater : s.now < (runTo due s).now → (runTo due s).cyc.sw = [] :=
    runTo_invariant (P := fun a => s.now < a.now → a.cyc.sw = []) (fun x a ha => ?_) (fun a ha => by simpa using ha)
      (fun a ha => by simpa using ha) due fun h => absurd h (Nat.lt_irrefl _)
  · exact hlater (by simpa using h)
  · unfold advance
    split
    · exact fun _ => rfl
    · exact ha

/-! #### The reference and the quality (R105 to R107) -/

/-- The fields of the loop's reference. -/
def referenceKeys : List Nat := [RG.REF_VALID.key 0, RG.STREAK.key 0, RG.LOCK_STATE.key 0]

/-- A dropped reference: no last mark, and its fields back. -/
theorem dropReference_spec (s : State) : (dropReference s).clk = { s.clk with lastMark := none } ∧
    get RG.REF_VALID 0 (dropReference s) = 0 ∧ get RG.STREAK 0 (dropReference s) = 0 ∧
    get RG.LOCK_STATE 0 (dropReference s) = 0 := by
  refine ⟨rfl, get_put_same .., ?_, ?_⟩
  · exact (get_put_ne (by decide) ..).trans (get_put_same ..)
  · exact (get_put_ne (by decide) ..).trans ((get_put_ne (by decide) ..).trans (get_put_same ..))

theorem get_dropReference {g : Fld} {j : Nat} (h : g.key j ∉ referenceKeys) (s : State) :
    get g j (dropReference s) = get g j s := by
  simp only [referenceKeys, List.mem_cons, List.not_mem_nil, or_false, not_or] at h
  obtain ⟨hvalid, hstreak, hstate⟩ := h
  exact (get_put_ne hvalid ..).trans ((get_put_ne hstreak ..).trans ((get_put_ne hstate ..).trans rfl))

@[simp] theorem dropReference_f (s : State) : (dropReference s).clk.f = s.clk.f := rfl
@[simp] theorem dropReference_ring (s : State) : (dropReference s).ring = s.ring := rfl
@[simp] theorem dropReference_sw (s : State) : (dropReference s).cyc.sw = s.cyc.sw := rfl
@[simp] theorem dropReference_now (s : State) : (dropReference s).now = s.now := rfl

theorem get_groupsAlign (g : Fld) (j : Nat) (s : State) : get g j (groupsAlign s) = get g j s :=
  get_congr g j (by simp) (by simp) (by simp)

theorem get_groupsUnalign (g : Fld) (j : Nat) (s : State) : get g j (groupsUnalign s) = get g j s :=
  get_congr g j (by simp) (by simp) (by simp)

/-- The quality takes its new value (R89). -/
theorem get_setQuality_same (q : Nat) (s : State) (hq : q < 4) : get RG.QUALITY 0 (setQuality q s) = q := by
  unfold setQuality
  extract_lets old moved aligned
  have hmoved : get RG.QUALITY 0 moved = q := (get_reseg ..).trans ((get_put_same ..).trans (Nat.mod_eq_of_lt hq))
  have haligned : get RG.QUALITY 0 aligned = get RG.QUALITY 0 moved := by
    simp only [aligned]
    split
    · exact get_groupsAlign ..
    · split
      · exact get_groupsUnalign ..
      · rfl
  split
  · next h => exact h
  · exact (get_quality_clockEvent ..).trans (haligned.trans hmoved)

/-- A change of quality leaves the other fields but those of its log entry and its IRQ bit. -/
theorem get_setQuality {g : Fld} {j : Nat} (hlog : g.key j ∉ timeKeys) (hq : g.key j ≠ RG.QUALITY.key 0)
    (hirq : g.key j ≠ RG.IRQ_CLOCK.key 0) (q : Nat) (s : State) : get g j (setQuality q s) = get g j s := by
  unfold setQuality
  extract_lets old moved aligned
  have hmoved : get g j moved = get g j s := (get_reseg ..).trans (get_put_ne hq ..)
  have haligned : get g j aligned = get g j moved := by
    simp only [aligned]
    split
    · exact get_groupsAlign ..
    · split
      · exact get_groupsUnalign ..
      · rfl
  split
  · rfl
  · rw [get_irq_ne hirq, get_logEvent hlog, haligned, hmoved]

/-- A new stretch changes nothing else of the clock root. -/
theorem reseg_clk (s : State) : (reseg s).clk = { s.clk with segs := (reseg s).clk.segs } := by rw [reseg]

@[simp] theorem reseg_loop (s : State) : (reseg s).clk.lastMark = s.clk.lastMark ∧ (reseg s).clk.f = s.clk.f ∧
    (reseg s).clk.tmLevel = s.clk.tmLevel := by
  rw [reseg_clk]
  exact ⟨rfl, rfl, rfl⟩

/-- A change of quality leaves the loop's last mark and estimate. -/
@[simp] theorem setQuality_loop (q : Nat) (s : State) : (setQuality q s).clk.lastMark = s.clk.lastMark ∧
    (setQuality q s).clk.f = s.clk.f := by
  unfold setQuality
  dsimp only
  (repeat' split) <;> simp

/-- LOCK_EN rises: no reference, and f at 0 (R105). -/
theorem lockStart_spec (s : State) : (lockStart true s).clk.f = 0 ∧ (lockStart true s).clk.lastMark = none ∧
    get RG.STREAK 0 (lockStart true s) = 0 ∧ get RG.REF_VALID 0 (lockStart true s) = 0 ∧
    get RG.LOCK_STATE 0 (lockStart true s) = 0 ∧ (lockStart true s).ring = s.ring ∧
    ∀ g j, g.key j ∉ referenceKeys → get g j (lockStart true s) = get g j s := by
  obtain ⟨hclk, hvalid, hstreak, hstate⟩ := dropReference_spec { s with clk := { s.clk with f := 0 } }
  exact ⟨by rw [lockStart, if_pos rfl, hclk], by rw [lockStart, if_pos rfl, hclk], hstreak, hvalid, hstate, rfl,
    fun g j h => get_dropReference h _⟩

/-- LOCK_EN falls: no reference, and quality 10 becomes 11 (R107). -/
theorem lockStop_spec (s : State) : (lockStop s).clk.lastMark = none ∧ get RG.STREAK 0 (lockStop s) = 0 ∧
    get RG.REF_VALID 0 (lockStop s) = 0 ∧
    get RG.QUALITY 0 (lockStop s) = (if get RG.QUALITY 0 s = 2 then 3 else get RG.QUALITY 0 s) ∧
    (lockStop s).ring = s.ring ∧ get RG.LOCK_EN 0 (lockStop s) = get RG.LOCK_EN 0 s ∧
    get RG.RT_RATE 0 (lockStop s) = get RG.RT_RATE 0 s := by
  obtain ⟨hclk, hvalid, hstreak, -⟩ := dropReference_spec s
  have hquality : get RG.QUALITY 0 (dropReference s) = get RG.QUALITY 0 s := get_dropReference (by decide) s
  have hlock : get RG.LOCK_EN 0 (dropReference s) = get RG.LOCK_EN 0 s := get_dropReference (by decide) s
  have hrate : get RG.RT_RATE 0 (dropReference s) = get RG.RT_RATE 0 s := get_dropReference (by decide) s
  unfold lockStop
  dsimp only
  rw [hquality]
  split
  · have hkept (g : Fld) := get_setQuality (g := g) (j := 0) (q := 3) (s := dropReference s)
    exact ⟨by simp [hclk], (hkept _ (by decide) (by decide) (by decide)).trans hstreak,
      (hkept _ (by decide) (by decide) (by decide)).trans hvalid, get_setQuality_same 3 _ (by decide), by simp,
      (hkept _ (by decide) (by decide) (by decide)).trans hlock, (hkept _ (by decide) (by decide) (by decide)).trans hrate⟩
  · exact ⟨by rw [hclk], hstreak, hvalid, hquality, rfl, hlock, hrate⟩

/-! #### Marks (R85, R102 to R104) -/

theorem fieldOf_lt (w : Nat) (z : Int) : fieldOf w z < 2 ^ w := by
  unfold fieldOf
  have hpos : (0 : Int) < (2 ^ w : Nat) := by exact_mod_cast Nat.two_pow_pos w
  have hlt := Int.emod_lt_of_pos z hpos
  have hnonneg := Int.emod_nonneg z (ne_of_gt hpos)
  omega

/-- An accepted mark is the reference, with its phase error. -/
theorem acceptMark_spec (e : Int) (s : State) : (acceptMark e s).clk = { s.clk with lastMark := some s.now } ∧
    get RG.REF_VALID 0 (acceptMark e s) = 1 ∧ get RG.TM_LAST_ERR 0 (acceptMark e s) = fieldOf 32 e := by
  refine ⟨rfl, get_put_same .., ?_⟩
  exact (get_put_ne (by decide) ..).trans ((get_put_same ..).trans (Nat.mod_eq_of_lt (fieldOf_lt 32 e)))

theorem get_acceptMark {g : Fld} {j : Nat} (hvalid : g.key j ≠ RG.REF_VALID.key 0) (herr : g.key j ≠ RG.TM_LAST_ERR.key 0)
    (hcount : g.key j ≠ RG.TM_ACCEPTED.key 0) (e : Int) (s : State) : get g j (acceptMark e s) = get g j s :=
  (get_put_ne hvalid ..).trans ((get_put_ne herr ..).trans ((get_put_ne hcount ..).trans rfl))

/-- A step of the loop moves Ring time, and leaves the quality, the last mark and the accepted level. -/
theorem loopStep_spec (e : Int) (s : State) : RtMoved s (loopStep e s) ∧ get RG.QUALITY 0 (loopStep e s) = get RG.QUALITY 0 s ∧
    (loopStep e s).clk.lastMark = s.clk.lastMark ∧ (loopStep e s).clk.tmLevel = s.clk.tmLevel := by
  have hmoved : RtMoved s (addRing (-e) (holdGroups s)) := (rtMoved_holdGroups_ring _ s).trans (rtMoved_reseg _)
  have hquality : get RG.QUALITY 0 (addRing (-e) (holdGroups s)) = get RG.QUALITY 0 s :=
    (get_reseg ..).trans (get_holdGroups_ring ..)
  refine ⟨hmoved.trans ((rtMoved_logEvent ..).trans (rtMoved_irq _)), (get_quality_clockEvent ..).trans hquality, ?_, ?_⟩
  · simp [loopStep, addRing]
  · simp [loopStep, addRing]

/-- Ring time steps by a mark's phase error when that is more than 1 µs. -/
theorem loopStep_over {e : Int} {s x : State} (hx : x = if 1000 < e.natAbs then loopStep e s else s) : RtMoved s x ∧
    get RG.QUALITY 0 x = get RG.QUALITY 0 s ∧ x.clk.lastMark = s.clk.lastMark ∧ x.clk.tmLevel = s.clk.tmLevel ∧
    (e.natAbs ≤ 1000 → x.ring = s.ring) := by
  split at hx
  · next hover =>
    obtain ⟨hmoved, hquality, hlast, hlevel⟩ := loopStep_spec e s
    rw [hx]
    exact ⟨hmoved, hquality, hlast, hlevel, fun hclose => by omega⟩
  · rw [hx]
    exact ⟨⟨fun _ _ _ _ _ => rfl, rfl, rfl, rfl, rfl⟩, rfl, rfl, rfl, fun _ => rfl⟩

/-- The first mark becomes the reference, and steps Ring time when it is more than 1 µs off. -/
theorem lockMark_first {s : State} (h : s.clk.lastMark = none) : (lockMark s).clk.lastMark = some s.now ∧
    (lockMark s).clk.tmLevel = s.clk.tmLevel ∧ get RG.REF_VALID 0 (lockMark s) = 1 ∧ get RG.STREAK 0 (lockMark s) = 1 ∧
    get RG.TM_LAST_ERR 0 (lockMark s) = fieldOf 32 (phaseError (markTime s)) ∧
    get RG.RT_RATE 0 (lockMark s) = get RG.RT_RATE 0 s ∧ get RG.QUALITY 0 (lockMark s) = get RG.QUALITY 0 s ∧
    ((phaseError (markTime s)).natAbs ≤ 1000 → (lockMark s).ring = s.ring) := by
  unfold lockMark
  generalize phaseError (markTime s) = e
  dsimp only
  rw [h]
  dsimp only
  obtain ⟨hclk, hvalid, herr⟩ := acceptMark_spec e s
  have haccept (g : Fld) := get_acceptMark (g := g) (j := 0) (e := e) (s := s)
  generalize hx : (if 1000 < e.natAbs then loopStep e (acceptMark e s) else acceptMark e s) = x
  obtain ⟨hmoved, hquality, hlast, hlevel, hring⟩ := loopStep_over hx.symm
  have hkept (g : Fld) (hstreak : g.key 0 ≠ RG.STREAK.key 0) (hlog : g.key 0 ∉ timeKeys) (hq : g.key 0 ≠ RG.QUALITY.key 0)
      (hirq : g.key 0 ≠ RG.IRQ_CLOCK.key 0) : get g 0 (put RG.STREAK 0 1 x) = get g 0 (acceptMark e s) :=
    (get_put_ne hstreak ..).trans (hmoved.kept g 0 hlog hq hirq)
  refine ⟨hlast.trans (by rw [hclk]), hlevel.trans (by rw [hclk]), ?_, get_put_same .., ?_, ?_, ?_, hring⟩
  · exact (hkept _ (by decide) (by decide) (by decide) (by decide)).trans hvalid
  · exact (hkept _ (by decide) (by decide) (by decide) (by decide)).trans herr
  · exact (hkept _ (by decide) (by decide) (by decide) (by decide)).trans (haccept _ (by decide) (by decide) (by decide))
  · exact (get_put_ne (by decide) ..).trans (hquality.trans (haccept _ (by decide) (by decide) (by decide)))

/-- An inconsistent edge is counted (R103). -/
theorem lockMark_inconsistent {last : Nat} {s : State} (h : s.clk.lastMark = some last) (hnot : consistent last s.now = false) :
    lockMark s = put RG.TM_REJECTED 0 (get RG.TM_REJECTED 0 s + 1) s := by
  unfold lockMark
  simp [h, hnot]

/-- A level of 40 ns or less, and the return from one, are no edge. -/
theorem tmInMark_ignored {fall : Bool} {w : Nat} {s : State} (h : w ≤ 40 ∨ s.clk.tmLevel = !fall) : tmInMark fall w s = s := by
  unfold tmInMark
  rcases h with hshort | hsame
  · split
    · rfl
    · simp [levelAccepted, hshort, show ¬60 ≤ w by omega]
  · simp [hsame]

/-- A level of 60 ns or more that is not the accepted one is an edge: it becomes the accepted level, and with LOCK_EN 1 an edge of
the polarity of TM_EDGE is a mark. -/
theorem tmInMark_accepted {fall : Bool} {w : Nat} {s : State} (hw : 60 ≤ w) (hlocked : s.clk.locked = true)
    (hlevel : s.clk.tmLevel = fall) : tmInMark fall w s =
      if get RG.LOCK_EN 0 s = 1 ∧ get RG.TM_EDGE 0 s = b2n fall then lockMark { s with clk := { s.clk with tmLevel := !fall } }
      else { s with clk := { s.clk with tmLevel := !fall } } := by
  have haccept : levelAccepted w s = (true, s) := if_pos hw
  unfold tmInMark
  rw [if_neg (by simp [hlocked, hlevel]), haccept]
  show (if flag RG.LOCK_EN 0 s && (get RG.TM_EDGE 0 s == b2n fall) then _ else _) = _
  simp [flag]

/-! #### The timeout (R106) -/

theorem markTimeout_spec {last : Nat} {s : State} (hlast : s.clk.lastMark = some last) (hahead : s.now < last + cyclesMs 1500) :
    (markTimeout s).now = last + cyclesMs 1500 ∧ (markTimeout s).clk.lastMark = none ∧
    get RG.STREAK 0 (markTimeout s) = 0 ∧ get RG.REF_VALID 0 (markTimeout s) = 0 ∧ get RG.LOCK_STATE 0 (markTimeout s) = 0 ∧
    get RG.QUALITY 0 (markTimeout s) = (if get RG.LOCK_STATE 0 s = 1 then 3 else get RG.QUALITY 0 s) ∧
    get RG.RT_RATE 0 (markTimeout s) =
      (if get RG.LOCK_STATE 0 s = 1 then fieldOf 32 (rateOf s.clk.f) else get RG.RT_RATE 0 s) := by
  unfold markTimeout
  rw [hlast]
  dsimp only
  obtain ⟨x, hx⟩ : ∃ x, x = runTo (last + cyclesMs 1500) s := ⟨_, rfl⟩
  have hget (g : Fld) (hg : g.key 0 ∉ timeKeys) : get g 0 x = get g 0 s := hx ▸ get_runTo hg _ s
  have hnow : x.now = last + cyclesMs 1500 := by
    rw [hx, runTo_now]
    omega
  have hsw : x.cyc.sw = [] := hx ▸ runTo_sw hahead
  have hf : x.clk.f = s.clk.f := by rw [hx]; simp
  rw [← hx, hget RG.LOCK_STATE (by decide)]
  obtain ⟨hclk, hvalid, hstreak, hstate⟩ := dropReference_spec x
  split
  · have hkept (g : Fld) (hlog : g.key 0 ∉ timeKeys) (hq : g.key 0 ≠ RG.QUALITY.key 0) (hirq : g.key 0 ≠ RG.IRQ_CLOCK.key 0)
        (hrate : g.key 0 ≠ RG.RT_RATE.key 0) (v : Nat) :
        get g 0 (reseg (putHw RG.RT_RATE 0 v (setQuality 3 (dropReference x)))) = get g 0 (dropReference x) :=
      (get_reseg ..).trans ((get_putHw_ne hrate ..).trans (get_setQuality hlog hq hirq ..))
    refine ⟨by simp [hnow], by simp [hclk], ?_, ?_, ?_, ?_, ?_⟩
    · exact (hkept _ (by decide) (by decide) (by decide) (by decide) _).trans hstreak
    · exact (hkept _ (by decide) (by decide) (by decide) (by decide) _).trans hvalid
    · exact (hkept _ (by decide) (by decide) (by decide) (by decide) _).trans hstate
    · exact (get_reseg ..).trans ((get_putHw_ne (by decide) ..).trans (get_setQuality_same 3 _ (by decide)))
    · rw [get_reseg, get_putHw_same (by simp [hsw])]
      simp only [dropReference_f, hf]
      exact Nat.mod_eq_of_lt (fieldOf_lt 32 _)
  · exact ⟨hnow, by rw [hclk], hstreak, hvalid, hstate, (get_dropReference (by decide) x).trans (hget _ (by decide)),
      (get_dropReference (by decide) x).trans (hget _ (by decide))⟩

end Sys2Proof.Machine

section

open Sys2Proof Sys2Proof.Machine

/-- Settles O13: LOCK_EN written, levels of TM_IN, the first mark, an inconsistent edge, and the timeout. -/
theorem lockLoopFollowsMarks : Obligations.LockLoopFollowsMarks := by
  refine ⟨?enable, ?disable, ?ignored, ?level, ?firstMark, ?inconsistent, ?timeout, ?idle⟩
  case enable =>
    intro dt s hserves hoff
    have hoff' : get RG.LOCK_EN 0 (elapse dt s) = 0 := (get_elapse (by decide) dt s).trans hoff
    obtain ⟨w, l, hunits, hgiven, -, hother, ht⟩ := setFields_lockEn (v := 1) (s := elapse dt s) (act := lockStart true)
      (by simpa using hserves) (fun w hw => if_pos (rises_iff.mpr ⟨by omega, hw⟩))
    obtain ⟨hf, hlast, hstreak, hvalid, hstate, hring, hkept⟩ := lockStart_spec w
    have hen : get RG.LOCK_EN 0 w = 1 := hgiven (RG.LOCK_EN, 1) (by simp) rfl
    have hquality : get RG.QUALITY 0 w = get RG.QUALITY 0 s := (hother _ 0 (by decide)).trans (get_elapse (by decide) dt s)
    exact ⟨_, congrArg Host.Outcome.next ht, rfl, (hkept _ 0 (by decide)).trans hen, hf, hlast, hstreak, hvalid, hstate,
      (hkept _ 0 (by decide)).trans hquality, hring.trans (by rw [hunits])⟩
  case disable =>
    intro dt s hserves hon
    have hon' : get RG.LOCK_EN 0 (elapse dt s) = 1 := (get_elapse (by decide) dt s).trans hon
    obtain ⟨w, l, hunits, hgiven, -, hother, ht⟩ := setFields_lockEn (v := 0) (s := elapse dt s) (act := lockStop)
      (by simpa using hserves) (fun w hw => ite_of_fall hon' (by omega) ..)
    obtain ⟨hlast, hstreak, hvalid, hquality, hring, hlock, hrate⟩ := lockStop_spec w
    have hen : get RG.LOCK_EN 0 w = 0 := hgiven (RG.LOCK_EN, 0) (by simp) rfl
    have hbefore (g : Fld) (hg : ∀ x ∈ wordFields 0 0x11, g.key 0 ≠ x.1.key x.2) (hlog : g.key 0 ∉ timeKeys) :
        get g 0 w = get g 0 s := (hother g 0 hg).trans (get_elapse hlog dt s)
    rw [hbefore _ (by decide) (by decide)] at hquality
    exact ⟨_, congrArg Host.Outcome.next ht, rfl, hlock.trans hen, hlast, hstreak, hvalid, hquality,
      hrate.trans (hbefore _ (by decide) (by decide)), hring.trans (by rw [hunits])⟩
  case ignored =>
    intro dt fall w s h
    exact congrArg Host.Outcome.next (tmInMark_ignored (by simpa using h))
  case level =>
    intro dt fall w s hw hlocked hlevel hnone
    refine congrArg Host.Outcome.next ((tmInMark_accepted hw (by simpa using hlocked) (by simpa using hlevel)).trans (if_neg ?_))
    rw [get_elapse (by decide), get_elapse (by decide)]
    omega
  case firstMark =>
    intro dt fall w s hw hlevel hon hedge hlocked hnone
    have hmark := tmInMark_accepted (s := elapse dt s) hw (by simpa using hlocked) (by simpa using hlevel)
    rw [get_elapse (by decide), get_elapse (by decide), if_pos ⟨hon, hedge⟩] at hmark
    obtain ⟨hlast, hnew, hvalid, hstreak, herr, hrate, hquality, hring⟩ :=
      lockMark_first (s := { elapse dt s with clk := { (elapse dt s).clk with tmLevel := !fall } }) (by simpa using hnone)
    refine ⟨_, congrArg Host.Outcome.next hmark, hlast.trans (by simp), hnew, hvalid, hstreak, herr, ?_, ?_, hring⟩
    · exact hrate.trans (get_elapse (g := RG.RT_RATE) (by decide) dt s)
    · exact hquality.trans (get_elapse (g := RG.QUALITY) (by decide) dt s)
  case inconsistent =>
    intro dt fall w last s hw hlevel hon hedge hlocked hlast hnot
    have hmark := tmInMark_accepted (s := elapse dt s) hw (by simpa using hlocked) (by simpa using hlevel)
    rw [get_elapse (by decide), get_elapse (by decide), if_pos ⟨hon, hedge⟩,
      lockMark_inconsistent (last := last) (by simpa using hlast) (by simpa using hnot)] at hmark
    refine congrArg Host.Outcome.next (hmark.trans ?_)
    rw [← get_elapse (g := RG.TM_REJECTED) (by decide) dt s]
    rfl
  case timeout =>
    intro last s hlast hahead
    exact ⟨_, rfl, markTimeout_spec hlast hahead⟩
  case idle =>
    intro s hnone
    refine congrArg Host.Outcome.next ?_
    unfold markTimeout
    rw [hnone]

end

end

section

/-! ### Periods of the scan groups -/

open Sys2Proof.Safety

namespace Sys2Proof.Machine

/-! #### What the end of a period leaves

A boundary ends polls, requests and replies. None of that moves the clock, adds or removes a group, or touches the fields
that the boundary itself goes by. -/

/-- Two states agree in time, in which groups run, and in the fields with the keys `ks`. -/
structure Keeps (ks : List Nat) (s t : State) : Prop where
  now : t.now = s.now
  ring : t.ring = s.ring
  groups : t.groups.map Prod.fst = s.groups.map Prod.fst
  kept : ∀ g j, g.key j ∈ ks → get g j t = get g j s

theorem Keeps.refl (ks : List Nat) (s : State) : Keeps ks s s := ⟨rfl, rfl, rfl, fun _ _ _ => rfl⟩

theorem Keeps.trans {ks : List Nat} {s t u : State} (h : Keeps ks s t) (h' : Keeps ks t u) : Keeps ks s u where
  now := h'.now.trans h.now
  ring := h'.ring.trans h.ring
  groups := h'.groups.trans h.groups
  kept g j hk := (h'.kept g j hk).trans (h.kept g j hk)

/-- A change of other units than the register file, the clock and the groups. -/
theorem Keeps.of_units {ks : List Nat} {s t : State} (hregs : t.regs = s.regs := by rfl)
    (hvariant : t.variant = s.variant := by rfl) (hflash : t.flash = s.flash := by rfl) (hnow : t.now = s.now := by rfl)
    (hring : t.ring = s.ring := by rfl) (hgroups : t.groups = s.groups := by rfl) : Keeps ks s t :=
  ⟨hnow, hring, by rw [hgroups], fun g j _ => get_congr g j hregs hvariant hflash⟩

theorem keeps_pMap (ks : List Nat) (p : Nat) (f : Port → Port) (s : State) : Keeps ks s (pMap p f s) := .of_units
theorem keeps_txMap (ks : List Nat) (p : Nat) (f : Tx → Tx) (s : State) : Keeps ks s (txMap p f s) := .of_units
theorem keeps_qMap (ks : List Nat) (q : Nat) (f : Queue → Queue) (s : State) : Keeps ks s (qMap q f s) := .of_units
theorem keeps_copMap (ks : List Nat) (p : Nat) (f : CopPort → CopPort) (s : State) : Keeps ks s (copMap p f s) := .of_units
theorem keeps_plMap (ks : List Nat) (i : Nat) (f : PollRun → PollRun) (s : State) : Keeps ks s (plMap i f s) := .of_units
theorem keeps_endJob (ks : List Nat) (id : Nat) (s : State) : Keeps ks s (endJob id s) := .of_units

theorem keeps_put {ks : List Nat} {f : Fld} {i : Nat} (h : f.key i ∉ ks) (v : Nat) (s : State) : Keeps ks s (put f i v s) :=
  ⟨rfl, rfl, rfl, fun _ _ hk => get_put_ne (ne_of_mem_of_not_mem hk h) v s⟩

theorem keeps_putHw {ks : List Nat} {f : Fld} {i : Nat} (h : f.key i ∉ ks) (v : Nat) (s : State) :
    Keeps ks s (putHw f i v s) := by
  unfold putHw
  split
  · exact .refl ks s
  · exact keeps_put h v s

theorem keeps_bump {ks : List Nat} {f : Fld} {i : Nat} (h : f.key i ∉ ks) (s : State) : Keeps ks s (bump f i s) :=
  ⟨rfl, rfl, rfl, fun _ _ hk => get_bump_ne (ne_of_mem_of_not_mem hk h) s⟩

theorem keeps_setBits {ks : List Nat} {f : Fld} {i : Nat} (h : f.key i ∉ ks) (m : Nat) (s : State) :
    Keeps ks s (setBits f i m s) :=
  ⟨rfl, rfl, rfl, fun _ _ hk => get_setBits_ne (ne_of_mem_of_not_mem hk h) m s⟩

theorem keeps_raise {ks : List Nat} {q f : Fld} {i : Nat} (hq : q.key 0 ∉ ks) (hf : f.key i ∉ ks) (s : State) :
    Keeps ks s (raise q f i s) := (keeps_setBits hf 1 s).trans (keeps_setBits hq 1 _)

theorem keeps_irq {ks : List Nat} {f : Fld} (h : f.key 0 ∉ ks) (s : State) : Keeps ks s (irq f s) := keeps_setBits h 1 s

theorem keeps_ite {ks : List Nat} {c : Prop} [Decidable c] {s t u : State} (ht : c → Keeps ks s t) (hu : Keeps ks s u) :
    Keeps ks s (if c then t else u) := by
  split
  · next h => exact ht h
  · exact hu

theorem keeps_each {ks : List Nat} {f : Nat → State → State} (l : List Nat)
    (h : ∀ i ∈ l, ∀ s, Keeps ks s (f i s)) (s : State) : Keeps ks s (each l f s) := by
  unfold each
  induction l generalizing s with
  | nil => exact .refl ks s
  | cons i l ih => exact (h i (by simp) s).trans (ih (fun j hj => h j (by simp [hj])) _)

/-! #### The transmitter of a port -/

theorem keeps_dropWords (ks : List Nat) (q n : Nat) (s : State) : Keeps ks s (dropWords q n s) := .of_units

theorem keeps_discardOpen (ks : List Nat) (q : Nat) (p : Producer) (s : State) : Keeps ks s (discardOpen q p s) := by
  unfold discardOpen
  dsimp only
  split
  · exact .refl ks s
  · exact .of_units

/-- The record at the head of a transmit queue goes, with no trace in a register. -/
theorem keeps_discardTxHead (ks : List Nat) (p : Nat) (s : State) : Keeps ks s (discardTxHead p s) := by
  unfold discardTxHead
  extract_lets q gapless popped
  have hgapless : Keeps ks s gapless := by
    refine Keeps.trans ?_ (keeps_qMap ..)
    unfold dropTxGaps
    dsimp only
    split
    · exact .refl ks s
    · exact keeps_dropWords ..
  have hpopped : Keeps ks s popped := hgapless.trans (keeps_pMap ..)
  split
  · exact hpopped.trans (keeps_dropWords ..)
  · exact (hpopped.trans (keeps_discardOpen ..)).trans (keeps_qMap ..)

section

variable {ks : List Nat} {p : Nat} (hks : ∀ k ∈ txClearedKeys p, k ∉ ks)

include hks

theorem keeps_releaseBreak (s : State) : Keeps ks s (releaseLeave (.brk p) s) := by
  unfold releaseLeave checkBudget
  split
  · exact Keeps.trans (t := setGrants .field _ s) .of_units (keeps_put (hks _ (by simp [txClearedKeys, changeF, LeaveKind.pool])) ..)
  · exact .of_units

theorem keeps_servePendingBreak (s : State) : Keeps ks s (servePendingBreak p s) := by
  have hheld : Keeps ks s (holdBreak p false s) := by
    have hcount : Keeps ks s (bump PT.TX_HELD p s) := keeps_bump (hks _ (by simp [txClearedKeys])) s
    have hevent : Keeps ks s (countHeld p s) :=
      hcount.trans (keeps_raise (hks _ (by simp [txClearedKeys])) (hks _ (by simp [txClearedKeys])) _)
    unfold holdBreak
    rw [if_neg (by decide)]
    split
    · exact .refl ks s
    · exact hevent.trans (keeps_pMap ..)
  unfold servePendingBreak
  split
  · split
    · exact hheld
    · exact .of_units
  · exact .refl ks s

/-- A request that ends gives back what it had asked for or been granted. -/
theorem keeps_withdrawBreak (s : State) : Keeps ks s (releaseLeave (.brk p) (withdrawLeave (.brk p) s)) :=
  Keeps.trans (t := withdrawLeave (.brk p) s) .of_units (keeps_releaseBreak hks _)

theorem keeps_removeRequest (s : State) : Keeps ks s (removeRequest p s) := by
  unfold removeRequest
  extract_lets tx returned freed
  have hreturned : Keeps ks s returned := by
    simp only [returned]
    split
    · exact keeps_withdrawBreak hks s
    · exact .refl ks s
  have hfreed : Keeps ks returned freed := by
    simp only [freed]
    split
    · exact .of_units
    · exact .refl ks _
  exact ((hreturned.trans hfreed).trans (keeps_discardTxHead ks p _)).trans (keeps_servePendingBreak hks _)

theorem keeps_cutTx (s : State) : Keeps ks s (cutTx p s) := by
  unfold cutTx
  dsimp only
  split
  · exact .of_units
  · exact .of_units
  · split
    · exact (keeps_txMap ..).trans (keeps_releaseBreak hks _)
    · exact .of_units
  · exact (keeps_txMap ..).trans (keeps_releaseBreak hks _)
  · split
    · exact keeps_removeRequest hks s
    · exact (keeps_withdrawBreak hks s).trans (keeps_pMap ..)
  · split
    · exact keeps_removeRequest hks s
    · exact .of_units
  · exact .refl ks s
  · exact .refl ks s

end

/-! #### The fields that a boundary goes by -/

/-- The quality, the scheduler's EN, and of every group EN, the period and the count of periods. -/
def boundaryKeys : List Nat := RG.QUALITY.key 0 :: RG.COP_EN.key 0 ::
  (List.range 64).flatMap fun g => [GP.EN.key g, GP.PERIOD_MS.key g, GP.PERIOD_CNT.key g]

/-- They lie in the direct map and in the space of groups. -/
theorem not_boundaryKeys {k : Nat} (h : (33554432 ≤ k ∧ k < 167772160) ∨ 201326592 ≤ k) : k ∉ boundaryKeys := by
  simp only [boundaryKeys, Fld.key, List.mem_cons, List.mem_flatMap, List.mem_range, List.not_mem_nil, or_false,
    RG.QUALITY, RG.COP_EN, GP.EN, GP.PERIOD_MS, GP.PERIOD_CNT]
  rintro (hk | hk | ⟨g, hg, hk⟩) <;> omega

theorem port_not_boundaryKeys {f : Fld} {p : Nat} (hp : p < 64)
    (hf : f.space = 1 ∧ f.stride = 32 ∧ f.word < 32 ∧ f.lo < 32 := by decide) : f.key p ∉ boundaryKeys := by
  obtain ⟨hspace, hstride, hword, hlo⟩ := hf
  refine not_boundaryKeys (.inl ?_)
  unfold Fld.key
  rw [hspace, hstride]
  omega

theorem talker_not_boundaryKeys {f : Fld} {t : Nat} (ht : t < 4096)
    (hf : f.space = 2 ∧ f.stride = 8 ∧ f.word < 8 ∧ f.lo < 32 := by decide) : f.key t ∉ boundaryKeys := by
  obtain ⟨hspace, hstride, hword, hlo⟩ := hf
  refine not_boundaryKeys (.inl ?_)
  unfold Fld.key
  rw [hspace, hstride]
  omega

/-- Polls, queues and counters stand behind the groups. -/
theorem later_not_boundaryKeys {f : Fld} {i : Nat} (hf : 6 ≤ f.space := by decide) : f.key i ∉ boundaryKeys := by
  refine not_boundaryKeys (.inr ?_)
  unfold Fld.key
  omega

/-- The other fields of a group. -/
theorem group_not_boundaryKeys {f : Fld} {g : Nat} (hf : f.space = 5 ∧ f.stride = 16 ∧ f.word < 16 ∧ f.lo < 32 ∧
    f.word ≠ 0 ∧ f.word ≠ 1 ∧ f.word ≠ 4 := by decide) : f.key g ∉ boundaryKeys := by
  obtain ⟨hspace, hstride, hword, hlo, hen, hperiod, hcount⟩ := hf
  simp only [boundaryKeys, Fld.key, hspace, hstride, List.mem_cons, List.mem_flatMap, List.mem_range, List.not_mem_nil, or_false,
    RG.QUALITY, RG.COP_EN, GP.EN, GP.PERIOD_MS, GP.PERIOD_CNT]
  rintro (h | h | ⟨x, -, h⟩) <;> omega

theorem txClearedKeys_boundaryKeys {p : Nat} (hp : p < 64) : ∀ k ∈ txClearedKeys p, k ∉ boundaryKeys := by
  simp only [txClearedKeys, List.mem_cons, List.not_mem_nil, or_false]
  rintro k (rfl | rfl | rfl | rfl)
  · decide
  · decide
  · exact port_not_boundaryKeys hp
  · exact port_not_boundaryKeys hp

theorem queueKeys_boundaryKeys (q : Nat) : ∀ k ∈ queueKeys q, k ∉ boundaryKeys := by
  simp only [queueKeys, List.mem_cons, List.not_mem_nil, or_false]
  rintro k (rfl | rfl | rfl | rfl | rfl | rfl | rfl | rfl | rfl)
  · decide
  · decide
  all_goals exact later_not_boundaryKeys

/-! #### The receiver of a port -/

theorem keeps_offer (q : Nat) (pr : Producer) (ws : List QWord) (s : State) : Keeps boundaryKeys s (offer q pr ws s) :=
  ⟨by simp, by simp, by simp, fun _ _ hk => get_offer (fun hm => queueKeys_boundaryKeys q _ hm hk) pr ws s⟩

theorem keeps_placeWords (p k : Nat) (ws : List QWord) (final : Bool) (s : State) :
    Keeps boundaryKeys s (placeWords p k ws final s) := by
  unfold placeWords
  exact Keeps.trans (t := patchRecord p (.line p) (if ws.length ≤ k then ws else ws.take k) (final && decide (ws.length ≤ k)) s)
    .of_units (keeps_offer ..)

theorem keeps_moveOpen (p : Nat) (s : State) : Keeps boundaryKeys s (moveOpen p s) := by
  unfold moveOpen
  extract_lets moved
  have hmoved : Keeps boundaryKeys s moved := by
    simp only [moved]
    split
    · exact .refl _ s
    · split
      · exact .refl _ s
      · exact (keeps_placeWords ..).trans (keeps_pMap ..)
  split
  · exact hmoved.trans (keeps_pMap ..)
  · exact hmoved

theorem keeps_moveOn (p : Nat) (l : List Closed) (s : State) : Keeps boundaryKeys s (moveOn p l s) := by
  induction l generalizing s with
  | nil => exact keeps_moveOpen p s
  | cons c l ih =>
    rw [moveOn]
    have hplaced := keeps_placeWords p (offeredWords c.placed c.moved) (lineWords c.hdr c.bytes true) true s
    split
    · exact hplaced.trans ((keeps_pMap _ p _ _).trans (ih (finishClosed p c _)))
    · exact hplaced.trans (keeps_pMap ..)

/-- No variant has more than 3072 talkers. -/
theorem lt_of_talkerOk {s : State} {t : Nat} (h : talkerOk s t = true) : t < 4096 := by
  have htalkers : Config.talkers s.variant ≤ 4096 := by cases s.variant <;> decide
  have ht : t < Config.talkers s.variant := by simpa [talkerOk] using h
  omega

section

variable {p : Nat} (hp : p < 64)

include hp

theorem keeps_creditLean (t : Nat) (m : Int) (s : State) : Keeps boundaryKeys s (creditLean p t m s) := by
  unfold creditLean
  split
  · exact .refl _ s
  · next hvalid =>
    have hok : talkerOk s t = true ∧ flag TK.VALID t s = true := by simpa [talkerValid] using hvalid
    have ht : t < 4096 := lt_of_talkerOk hok.1
    extract_lets l new c clamped
    have hclamped : Keeps boundaryKeys s clamped := by
      simp only [clamped]
      split
      · exact (keeps_bump (f := PT.LEAN_CLAMP_CNT) (port_not_boundaryKeys hp) s).trans
          (keeps_raise (f := PT.EV_LEAN_CLAMP) (by decide) (port_not_boundaryKeys hp) _)
      · exact .refl _ s
    exact (hclamped.trans (keeps_putHw (f := TK.LEAN) (talker_not_boundaryKeys ht) ..)).trans
      (keeps_putHw (f := TK.LEAN_VALID) (talker_not_boundaryKeys ht) ..)

theorem keeps_measureLean (r : OpenRec) (flags talker : Nat) (s : State) :
    Keeps boundaryKeys s (measureLean p r flags talker s) := by
  unfold measureLean
  split
  · dsimp only
    split
    · exact keeps_creditLean hp ..
    · split
      · split
        · exact keeps_creditLean hp ..
        · exact .refl _ s
      · exact keeps_creditLean hp ..
  · exact .refl _ s

/-- A record that closes is measured, counted and moved, with the talker that it names. -/
theorem keeps_closeRecord (extra : Nat) (markEdge : Option Stamp) (s : State) :
    Keeps boundaryKeys s (closeRecord p extra markEdge s) := by
  unfold closeRecord
  split
  · exact .refl _ s
  · next r _ =>
    extract_lets g pre late ck flags key talker stamp stamp' hdr measured recorded checked unterm counted long seen before c closed
    have hmeasured : Keeps boundaryKeys s measured := keeps_measureLean hp ..
    have hrecorded : Keeps boundaryKeys measured recorded := keeps_bump (port_not_boundaryKeys hp) _
    have hchecked : Keeps boundaryKeys recorded checked := keeps_ite (fun _ =>
      (keeps_bump (f := PT.CK_BAD_CNT) (port_not_boundaryKeys hp) _).trans
        (keeps_raise (f := PT.GE_CHECKSUM_BAD) (by decide) (port_not_boundaryKeys hp) _)) (.refl _ _)
    have hunterm : Keeps boundaryKeys checked unterm :=
      keeps_ite (fun _ => keeps_raise (by decide) (port_not_boundaryKeys hp) _) (.refl _ _)
    have hcounted : Keeps boundaryKeys unterm counted := keeps_ite (fun _ => keeps_bump (port_not_boundaryKeys hp) _) (.refl _ _)
    have hlong : Keeps boundaryKeys counted long :=
      keeps_ite (fun _ => keeps_raise (by decide) (port_not_boundaryKeys hp) _) (.refl _ _)
    have hseen : Keeps boundaryKeys long seen := keeps_ite (fun hok =>
      (keeps_put (f := TK.LAST_SEEN_SEC) (talker_not_boundaryKeys (lt_of_talkerOk hok)) _ _).trans
        (keeps_bump (f := TK.RECORD_CNT) (talker_not_boundaryKeys (lt_of_talkerOk hok)) _)) (.refl _ _)
    have hclosed : Keeps boundaryKeys s closed := (hmeasured.trans <| hrecorded.trans <| hchecked.trans <| hunterm.trans <|
      hcounted.trans <| hlong.trans hseen).trans (keeps_pMap ..)
    split
    · exact hclosed.trans (keeps_moveOn ..)
    · exact hclosed.trans (keeps_pMap ..)

theorem keeps_closeLate (extra : Nat) (ended : Bool) (s : State) : Keeps boundaryKeys s (closeLate p extra ended s) := by
  unfold closeLate
  split
  · exact (keeps_closeRecord hp ..).trans (keeps_pMap ..)
  · exact .of_units

/-- The reply of an aborted poll ends in its receiver alone (Table 7-6). -/
theorem keeps_abortReply (s : State) : Keeps boundaryKeys s (abortReply p s).2 := by
  unfold abortReply
  dsimp only
  split
  · exact .refl _ s
  · split
    · exact .of_units
    · exact keeps_closeLate hp ..

theorem keeps_abortLine (i : Nat) (s : State) : Keeps boundaryKeys s (abortLine p i s).2 := by
  have hkeys := txClearedKeys_boundaryKeys hp
  unfold abortLine
  dsimp only
  rw [apply_ite Prod.snd, apply_ite Prod.snd]
  dsimp only
  refine keeps_ite (fun _ => ?_) (keeps_ite (fun _ => ?_) ?_)
  · exact keeps_removeRequest (p := p) (ks := boundaryKeys) hkeys s
  · exact keeps_cutTx (p := p) (ks := boundaryKeys) hkeys s
  · exact keeps_abortReply hp s

end

/-! #### The end of a poll -/

theorem pollPort_lt (i : Nat) (s : State) : pollPort i s < 64 := get_lt TK.PORT _ s
theorem pollTalker_lt (i : Nat) (s : State) : pollTalker i s < 4096 := get_lt PL.TALKER i s

theorem keeps_endJob? (ks : List Nat) (j : Option Nat) (s : State) : Keeps ks s (endJob? j s) := by
  unfold endJob?
  split
  · exact keeps_endJob ..
  · exact .refl ks s

theorem keeps_endTxn (ks : List Nat) (p : Nat) (s : State) : Keeps ks s (endTxn p s) := .of_units

theorem keeps_groupMap (ks : List Nat) (g : Nat) (f : GroupRun → GroupRun) (s : State) : Keeps ks s (groupMap g f s) where
  now := rfl
  ring := rfl
  groups := by
    rw [groupMap, List.map_map]
    refine List.map_congr_left fun e _ => ?_
    simp only [Function.comp]
    split <;> rfl
  kept _ _ _ := rfl

/-- The counters of an outcome: none of them is one that a boundary goes by. -/
theorem keeps_countOutcome (i : Nat) (o : Outcome7) (s : State) : Keeps boundaryKeys s (countOutcome i o s) := by
  have hpoll (f : Fld) (hf : 6 ≤ f.space) (t : State) : Keeps boundaryKeys t (bump f i t) :=
    keeps_bump (later_not_boundaryKeys hf) t
  have hfail (t : State) : Keeps boundaryKeys t (bump GP.POLLS_FAIL (pollGroup i s) t) := keeps_bump group_not_boundaryKeys t
  have htalker (f : Fld) (hf : f.space = 2 ∧ f.stride = 8 ∧ f.word < 8 ∧ f.lo < 32) (t : State) :
      Keeps boundaryKeys t (bump f (pollTalker i s) t) := keeps_bump (talker_not_boundaryKeys (pollTalker_lt i s) hf) t
  unfold countOutcome
  cases o with
  | ok => exact (hpoll PL.OK_CNT (by decide) s).trans (keeps_bump group_not_boundaryKeys _)
  | noReply => exact ((hpoll PL.NOREPLY_CNT (by decide) s).trans (hfail _)).trans (htalker TK.MISS_CNT (by decide) _)
  | bad => exact (hpoll PL.BAD_CNT (by decide) s).trans (hfail _)
  | wrongTalker => exact (hpoll PL.BAD_CNT (by decide) s).trans (hfail _)
  | late =>
    extract_lets g t counted shown
    have hcounted : Keeps boundaryKeys s counted :=
      (((hpoll PL.LATE_CNT (by decide) s).trans (keeps_bump (f := GP.LATE_CNT) group_not_boundaryKeys _)).trans
        (htalker TK.LATE_CNT (by decide) _)).trans (keeps_bump (f := RG.POLL_LATE_CNT) (by decide) _)
    have hshown : Keeps boundaryKeys counted shown := keeps_setBits group_not_boundaryKeys _ _
    refine (hcounted.trans hshown).trans (Keeps.trans (t := if g < 32 then _ else _) ?_ (keeps_irq (by decide) _))
    exact keeps_ite (fun _ => keeps_setBits (by decide) _ _) (keeps_setBits (by decide) _ _)

/-- A poll ends in its own fields, in counters, and in what its group notes of the period. -/
theorem keeps_endPoll (i : Nat) (o : Outcome7) (seen : Option Nat) (s : State) : Keeps boundaryKeys s (endPoll i o seen s) := by
  unfold endPoll
  extract_lets r told counted noted ended
  have htold : Keeps boundaryKeys s told :=
    (keeps_put (f := PL.TRIES_USED) later_not_boundaryKeys _ s).trans (keeps_put (f := PL.OUTCOME) later_not_boundaryKeys _ _)
  have hcounted : Keeps boundaryKeys told counted := keeps_countOutcome ..
  have hnoted : Keeps boundaryKeys counted noted := by
    simp only [noted]
    split
    · exact keeps_put later_not_boundaryKeys _ _
    · exact .refl _ _
  have hended : Keeps boundaryKeys s ended := (htold.trans (hcounted.trans hnoted)).trans (keeps_groupMap ..)
  exact (hended.trans (keeps_ite (fun _ => .refl _ _) (keeps_endJob? ..))).trans (keeps_plMap ..)

theorem keeps_abortPoll (i : Nat) (s : State) : Keeps boundaryKeys s (abortPoll i s) := by
  unfold abortPoll
  extract_lets r p holds ended freed
  have hended : Keeps boundaryKeys s ended := keeps_endPoll ..
  have hfreed : Keeps boundaryKeys s freed := hended.trans (keeps_endTxn ..)
  have hp : p < 64 := pollPort_lt i s
  have hlast (done : Bool) {t : State} (ht : Keeps boundaryKeys freed t) : Keeps boundaryKeys s
      (if done = true then endJob? r.job t else copMap p (fun c => { c with ending := r.job }) t) :=
    (hfreed.trans ht).trans (keeps_ite (fun _ => keeps_endJob? ..) (keeps_copMap ..))
  split
  · exact hended.trans (keeps_endJob? ..)
  · split
    · exact hlast _ (keeps_abortLine hp i freed)
    · exact hlast _ (keeps_abortReply hp freed)
    · exact hfreed.trans (keeps_endJob? ..)

theorem keeps_releaseHold (i : Nat) (s : State) : Keeps boundaryKeys s (releaseHold i s) :=
  ((keeps_abortReply (pollPort_lt i s) s).trans (keeps_endTxn ..)).trans (keeps_plMap ..)

theorem keeps_abortGroup (g : Nat) (s : State) : Keeps boundaryKeys s (abortGroup g s) :=
  (keeps_each _ (fun i _ => keeps_abortPoll i) s).trans (keeps_each _ (fun i _ => keeps_releaseHold i) _)

theorem keeps_slack (g : Nat) (s : State) : Keeps boundaryKeys s (slack g s) := by
  unfold slack
  split
  · split
    · exact .refl _ s
    · split
      · exact keeps_put group_not_boundaryKeys _ s
      · split
        · exact keeps_put group_not_boundaryKeys _ s
        · exact .refl _ s
  · exact .refl _ s

end Sys2Proof.Machine

end

section

/-! ### Boundaries of the scan groups -/

open Sys2Proof.Safety

namespace Sys2Proof.Machine

/-! #### The groups that run -/

theorem find_isSome_iff {α : Type} (k : Nat) (t : Tbl α) : (find k t).isSome = true ↔ k ∈ t.map Prod.fst := by
  induction t with
  | nil => simp [find]
  | cons e t ih =>
    obtain ⟨j, v⟩ := e
    simp only [find, List.map_cons, List.mem_cons]
    split
    · next h => simp [h]
    · next h => simp [ih, Ne.symm h]

/-- Whether a group runs is a matter of the keys. -/
theorem find_isSome_congr {s t : State} (h : t.groups.map Prod.fst = s.groups.map Prod.fst) (g : Nat) :
    (find g t.groups).isSome = (find g s.groups).isSome := by
  rw [Bool.eq_iff_iff, find_isSome_iff, find_isSome_iff, h]

theorem find_groupMap (g : Nat) (f : GroupRun → GroupRun) (s : State) :
    find g (groupMap g f s).groups = (find g s.groups).map f := by
  unfold groupMap
  dsimp only
  generalize s.groups = l
  induction l with
  | nil => rfl
  | cons e l ih =>
    obtain ⟨k, r⟩ := e
    by_cases h : k = g
    · simp [find, h]
    · simp [find, h, ih]

/-! #### What a boundary leaves -/

/-- The state of a group from a boundary to the end of its first poll. -/
structure Opened (s : State) (r : GroupRun) : Prop where
  lastB : r.lastB = s.now
  aborted : r.aborted = false
  lastEnd : r.lastEnd = none

/-- What every boundary of group `g` leaves: time and the groups stand, the group's registers and its run take the boundary. -/
structure BoundaryMarked (g : Nat) (s t : State) : Prop where
  now : t.now = s.now
  ring : t.ring = s.ring
  groups : t.groups.map Prod.fst = s.groups.map Prod.fst
  kept : ∀ f i, f.key i ∈ boundaryKeys → f.key i ≠ GP.PERIOD_CNT.key g → get f i t = get f i s
  count : g < 64 → get GP.PERIOD_CNT g t = GP.PERIOD_CNT.count (get GP.PERIOD_CNT g s) 1
  lastB : get GP.LAST_B_SEC g t = s.ring.sec % 2 ^ 32
  run : ∀ r, find g t.groups = some r → Opened s r

/-- Fields of one group do not share a key. -/
theorem group_key_ne {f f' : Fld} {g : Nat} (hf : f.space = 5 ∧ f.stride = 16 ∧ f.word < 16 ∧ f.lo < 32 := by decide)
    (hf' : f'.space = 5 ∧ f'.stride = 16 ∧ f'.word < 16 ∧ f'.lo < 32 := by decide)
    (hne : f.word ≠ f'.word ∨ f.lo ≠ f'.lo := by decide) : f.key g ≠ f'.key g := by
  obtain ⟨hspace, hstride, hword, hlo⟩ := hf
  obtain ⟨hspace', hstride', hword', hlo'⟩ := hf'
  unfold Fld.key
  rw [hspace, hspace', hstride, hstride']
  omega

theorem boundaryKeys_periodCnt {g : Nat} (hg : g < 64) : GP.PERIOD_CNT.key g ∈ boundaryKeys := by
  simp only [boundaryKeys, List.mem_cons, List.mem_flatMap, List.mem_range]
  exact .inr (.inr ⟨g, hg, by simp⟩)

theorem boundaryMarks_spec (g : Nat) (s : State) : BoundaryMarked g s (boundaryMarks g s) := by
  unfold boundaryMarks
  extract_lets ended marked
  have hended : Keeps boundaryKeys s ended := (keeps_abortGroup g s).trans (keeps_slack g _)
  have hmarked : Keeps boundaryKeys s marked := hended.trans (keeps_groupMap ..)
  have hstamped : Keeps boundaryKeys s
      (put GP.LAST_B_SEC g (stampNow marked).sec (put GP.LAST_B_NS g (stampNow marked).word2 marked)) :=
    (hmarked.trans (keeps_put (f := GP.LAST_B_NS) group_not_boundaryKeys _ _)).trans
      (keeps_put (f := GP.LAST_B_SEC) group_not_boundaryKeys _ _)
  constructor
  · simpa using hmarked.now
  · simpa using hmarked.ring
  · simpa using hmarked.groups
  · exact fun f i hk hne => (get_bump_ne hne _).trans (hstamped.kept f i hk)
  · exact fun hg => (get_bump_same ..).trans (by rw [hstamped.kept _ _ (boundaryKeys_periodCnt hg)])
  · exact (get_bump_ne group_key_ne _).trans ((get_put_same ..).trans (by rw [stampNow, hmarked.ring]; rfl))
  · intro r hr
    have hfind : find g marked.groups = some r := by simpa using hr
    rw [find_groupMap] at hfind
    obtain ⟨x, -, rfl⟩ := Option.map_eq_some_iff.mp hfind
    exact ⟨hended.now, rfl, rfl⟩

/-! #### Polls that become due, and the next boundary -/

/-- The fields that a boundary itself writes, behind those that it goes by. -/
def openedKeys (g : Nat) : List Nat := GP.RUNNING.key g :: GP.LAST_B_SEC.key g :: boundaryKeys

theorem pollDue_groups (g i : Nat) (s : State) : (pollDue g i s).groups = s.groups := by
  unfold pollDue
  (repeat' split) <;> rfl

theorem each_pollDue_groups (g : Nat) (l : List Nat) (s : State) : (each l (pollDue g) s).groups = s.groups := by
  unfold each
  induction l generalizing s with
  | nil => rfl
  | cons i l ih => exact (ih _).trans (pollDue_groups g i s)

/-- A poll that becomes due, or is skipped, leaves the registers of the boundary. -/
theorem keeps_pollDue {g : Nat} (hg : g < 64) (i : Nat) (s : State) : Keeps (openedKeys g) s (pollDue g i s) := by
  have hrunning : GP.RUNNING.key g = 167772257 + 512 * g := by simp only [Fld.key, GP.RUNNING]; omega
  have hlast : GP.LAST_B_SEC.key g = 167772416 + 512 * g := by simp only [Fld.key, GP.LAST_B_SEC]; omega
  have hmem {k : Nat} (hr : k ≠ GP.RUNNING.key g) (hl : k ≠ GP.LAST_B_SEC.key g) (hb : k ∉ boundaryKeys) :
      k ∉ openedKeys g := by
    simp [openedKeys, hr, hl, hb]
  have houtcome : 201326592 ≤ PL.OUTCOME.key i := by simp only [Fld.key, PL.OUTCOME]; omega
  have hirq : RG.IRQ_POLL.key 0 < 33554432 := by decide
  unfold pollDue
  split
  · split
    · exact keeps_plMap ..
    · refine (keeps_put ?_ _ s).trans (keeps_raise ?_ ?_ _)
      · exact hmem (by omega) (by omega) (not_boundaryKeys (.inr houtcome))
      · exact hmem (by omega) (by omega) (by decide)
      · exact hmem group_key_ne group_key_ne group_not_boundaryKeys
  · exact .refl _ s

theorem keeps_fixNext (ks : List Nat) (g : Nat) (s : State) : Keeps ks s (fixNext g s) := by
  unfold fixNext
  split
  · exact keeps_groupMap ..
  · exact keeps_groupMap ..

/-- Fixing the next boundary leaves what the run says of the period that is open. -/
theorem find_fixNext {g : Nat} {r : GroupRun} {s x : State} (h : find g x.groups = some r) (hr : Opened s r) :
    ∃ y, find g (fixNext g x).groups = some y ∧ Opened s y ∧ (get RG.QUALITY 0 x ≠ 2 → y.nextB = x.now + periodC g x) := by
  obtain ⟨hlast, haborted, hend⟩ := hr
  unfold fixNext
  split
  · next hq =>
    exact ⟨_, (find_groupMap g _ x).trans (congrArg (Option.map _) h), ⟨hlast, haborted, hend⟩, fun hne => absurd hq hne⟩
  · exact ⟨_, (find_groupMap g _ x).trans (congrArg (Option.map _) h), ⟨hlast, haborted, hend⟩, fun _ => rfl⟩

/-! #### A boundary -/

/-- What a boundary of a running group opens (R407). -/
structure PeriodOpened (g : Nat) (s t : State) (y : GroupRun) : Prop where
  now : t.now = s.now
  ring : t.ring = s.ring
  running : get GP.RUNNING g t = 1
  run : find g t.groups = some y
  opened : Opened s y
  lastB : get GP.LAST_B_SEC g t = s.ring.sec % 2 ^ 32
  count : get GP.PERIOD_CNT g t = GP.PERIOD_CNT.count (get GP.PERIOD_CNT g s) 1
  kept : ∀ f i, f.key i ∈ boundaryKeys → f.key i ≠ GP.PERIOD_CNT.key g → get f i t = get f i s
  next : get RG.QUALITY 0 s ≠ 2 → y.nextB = s.now + cyclesMs (get GP.PERIOD_MS g s)

theorem boundaryKeys_quality : RG.QUALITY.key 0 ∈ boundaryKeys := by simp [boundaryKeys]
theorem boundaryKeys_copEn : RG.COP_EN.key 0 ∈ boundaryKeys := by simp [boundaryKeys]

theorem boundaryKeys_group {g : Nat} (hg : g < 64) : GP.EN.key g ∈ boundaryKeys ∧ GP.PERIOD_MS.key g ∈ boundaryKeys := by
  simp only [boundaryKeys, List.mem_cons, List.mem_flatMap, List.mem_range]
  exact ⟨.inr (.inr ⟨g, hg, by simp⟩), .inr (.inr ⟨g, hg, by simp⟩)⟩

/-- No field of the direct map is one of an indexed table. -/
theorem direct_ne_indexed {f f' : Fld} {i : Nat} (hf : f.key 0 < 33554432 := by decide) (hf' : 1 ≤ f'.space := by decide) :
    f.key 0 ≠ f'.key i := by
  have hkey : 33554432 ≤ f'.key i := by
    unfold Fld.key
    omega
  omega

theorem boundary_spec {g : Nat} {s : State} (hg : g < 64) (h : (find g s.groups).isSome = true) :
    ∃ y, PeriodOpened g s (boundary g s) y := by
  unfold boundary
  extract_lets running
  obtain ⟨hnow, hring, hgroups, hkept, hcount, hlast, hrun⟩ := boundaryMarks_spec g s
  obtain ⟨r, hr⟩ := Option.isSome_iff_exists.mp ((find_isSome_congr hgroups g).trans h)
  have hunits : running.now = s.now ∧ running.ring = s.ring ∧ running.groups = (boundaryMarks g s).groups := by
    simp [running, hring]
  obtain ⟨hrunNow, hrunRing, hrunGroups⟩ := hunits
  have hdue := keeps_each (List.range (Config.talkers running.variant)) (fun i _ => keeps_pollDue hg i) running
  have hdueGroups := each_pollDue_groups g (List.range (Config.talkers running.variant)) running
  generalize each (List.range (Config.talkers running.variant)) (pollDue g) running = due at hdue hdueGroups ⊢
  have hfound : find g due.groups = some r := by rw [hdueGroups, hrunGroups, hr]
  have hfields : Keeps (openedKeys g) running (fixNext g due) := hdue.trans (keeps_fixNext ..)
  have hbefore (f : Fld) (i : Nat) (hk : f.key i ∈ boundaryKeys) (hne : f.key i ≠ GP.PERIOD_CNT.key g) :
      get f i running = get f i s :=
    (get_put_ne (ne_of_mem_of_not_mem hk group_not_boundaryKeys) ..).trans (hkept f i hk hne)
  obtain ⟨y, hy, hopened, hnext⟩ := find_fixNext hfound (hrun r hr)
  refine ⟨y, ?_⟩
  constructor
  · exact hfields.now.trans hrunNow
  · exact hfields.ring.trans hrunRing
  · exact (hfields.kept _ _ (by simp [openedKeys])).trans (get_put_same ..)
  · exact hy
  · exact hopened
  · exact (hfields.kept _ _ (by simp [openedKeys])).trans ((get_put_ne group_key_ne ..).trans hlast)
  · exact (hfields.kept _ _ (by simp [openedKeys, boundaryKeys_periodCnt hg])).trans
      ((get_put_ne group_key_ne ..).trans (hcount hg))
  · exact fun f i hk hne => (hfields.kept f i (by simp [openedKeys, hk])).trans (hbefore f i hk hne)
  · intro hq
    have hquality : get RG.QUALITY 0 due = get RG.QUALITY 0 s :=
      (hdue.kept _ _ (by simp [openedKeys, boundaryKeys_quality])).trans (hbefore _ _ boundaryKeys_quality direct_ne_indexed)
    have hperiod : get GP.PERIOD_MS g due = get GP.PERIOD_MS g s :=
      (hdue.kept _ _ (by simp [openedKeys, boundaryKeys_group hg])).trans (hbefore _ _ (boundaryKeys_group hg).2 group_key_ne)
    rw [hnext (by omega), periodC, hperiod, hdue.now, hrunNow]

/-! #### Groups that start and stop -/

/-- A group starts with a period that begins now, unless the quality is 10 (R123, R124). -/
theorem groupStart_opens {g : Nat} {s : State} (hg : g < 64) (hnone : find g s.groups = none) (hen : get GP.EN g s = 1)
    (hcop : get RG.COP_EN 0 s = 1) (hquality : get RG.QUALITY 0 s ≠ 2) : ∃ y, PeriodOpened g s (groupStart g s) y := by
  unfold groupStart
  rw [if_neg (by simp [hnone, flag, hen, hcop])]
  extract_lets r started
  have hsame (f : Fld) (i : Nat) : get f i started = get f i s := rfl
  rw [if_neg (by rwa [hsame])]
  obtain ⟨y, hy⟩ := boundary_spec (g := g) (s := started) hg (by simp [started])
  obtain ⟨hlastB, haborted, hend⟩ := hy.opened
  exact ⟨y, hy.now, hy.ring, hy.running, hy.run, ⟨hlastB, haborted, hend⟩, hy.lastB, hy.count, hy.kept, hy.next⟩

/-- Without the scheduler no group starts. -/
theorem groupStart_off {g : Nat} {s : State} (hcop : get RG.COP_EN 0 s = 0) : groupStart g s = s := by
  unfold groupStart
  rw [if_pos (by simp [flag, hcop])]

theorem keys_erase {α : Type} (k : Nat) (t : Tbl α) : (erase k t).map Prod.fst = (t.map Prod.fst).filter (· ≠ k) := by
  induction t with
  | nil => rfl
  | cons e t ih =>
    obtain ⟨j, v⟩ := e
    by_cases h : j = k
    · simpa [erase, h] using ih
    · simpa [erase, h] using ih

/-- A stopped group: gone from those that run, RUNNING 0, and the enables as they stood (R408). -/
structure GroupStopped (g : Nat) (s t : State) : Prop where
  running : get GP.RUNNING g t = 0
  gone : find g t.groups = none
  keys : t.groups.map Prod.fst = (s.groups.map Prod.fst).filter (· ≠ g)
  kept : ∀ f i, f.key i ∈ boundaryKeys → f.key i ≠ GP.PERIOD_CNT.key g → get f i t = get f i s

theorem groupStop_spec (g : Nat) (s : State) : GroupStopped g s (groupStop g s) := by
  unfold groupStop
  extract_lets ended
  have hended : ended.groups.map Prod.fst = s.groups.map Prod.fst ∧
      ∀ f i, f.key i ∈ boundaryKeys → f.key i ≠ GP.PERIOD_CNT.key g → get f i ended = get f i s := by
    simp only [ended]
    split
    · exact ⟨(boundaryMarks_spec g s).groups, (boundaryMarks_spec g s).kept⟩
    · exact ⟨rfl, fun _ _ _ _ => rfl⟩
  obtain ⟨hgroups, hkept⟩ := hended
  constructor
  · exact get_put_same ..
  · exact find_erase_same g ended.groups
  · exact (keys_erase g ended.groups).trans (by rw [hgroups])
  · exact fun f i hk hne => (get_put_ne (ne_of_mem_of_not_mem hk group_not_boundaryKeys) ..).trans (hkept f i hk hne)

/-- Groups that stop one after the other leave those that run without them, and COP_EN. -/
theorem each_groupStop (l : List Nat) (s : State) :
    (each l groupStop s).groups.map Prod.fst = (s.groups.map Prod.fst).filter (· ∉ l) ∧
    get RG.COP_EN 0 (each l groupStop s) = get RG.COP_EN 0 s := by
  unfold each
  induction l generalizing s with
  | nil => simp
  | cons g l ih =>
    obtain ⟨hkeys, hcop⟩ := ih (groupStop g s)
    have hstop := groupStop_spec g s
    rw [List.foldl_cons]
    refine ⟨?_, hcop.trans (hstop.kept _ _ boundaryKeys_copEn direct_ne_indexed)⟩
    rw [hkeys, hstop.keys, List.filter_filter]
    refine List.filter_congr fun k _ => ?_
    simp [Bool.and_comm]

/-! #### Commands that are dropped -/

/-- What the drop of a command has to leave of the registers. -/
def schedulerKeys : List Nat := [RG.COP_EN.key 0]

/-- Every table of indexed fields stands behind the direct map. -/
theorem indexed_not_schedulerKeys {f : Fld} {i : Nat} (hf : 1 ≤ f.space := by decide) : f.key i ∉ schedulerKeys := by
  simpa [schedulerKeys] using (direct_ne_indexed (f := RG.COP_EN) (hf' := hf)).symm

theorem txClearedKeys_schedulerKeys (p : Nat) : ∀ k ∈ txClearedKeys p, k ∉ schedulerKeys := by
  simp only [txClearedKeys, List.mem_cons, List.not_mem_nil, or_false]
  rintro k (rfl | rfl | rfl | rfl)
  · decide
  · decide
  · exact indexed_not_schedulerKeys
  · exact indexed_not_schedulerKeys

theorem keeps_lateDrop (tenant cls : Nat) (s : State) : Keeps schedulerKeys s (lateDrop tenant cls s) := by
  have hclass : Keeps schedulerKeys s (bump (lateDropF cls) tenant s) := by
    refine keeps_bump (indexed_not_schedulerKeys ?_) s
    unfold lateDropF
    split <;> decide
  have hsum (t : State) : Keeps schedulerKeys t (bump (lateSumF cls) 0 t) := by
    refine keeps_bump ?_ t
    unfold lateSumF
    split <;> decide
  have hcounted : Keeps schedulerKeys s (countLate tenant cls s) := (hclass.trans (hsum _)).trans
    (keeps_raise (f := TN.LATE_DROP) (by decide) indexed_not_schedulerKeys _)
  exact hcounted.trans (Keeps.of_units (t := countGap (96 + tenant) cls (countLate tenant cls s)))

theorem keeps_dropCommand (p : Nat) (j : Job) (s : State) : Keeps schedulerKeys s (dropCommand p j s) := by
  have hkeys := txClearedKeys_schedulerKeys p
  unfold dropCommand
  extract_lets ended
  have hended : Keeps schedulerKeys s ended := ((keeps_lateDrop j.tenant 1 s).trans
    (keeps_bump (f := TN.CMD_DROP_CNT) indexed_not_schedulerKeys _)).trans (keeps_endJob ..)
  split
  · exact hended
  · next c _ =>
    extract_lets counted tx freed
    have hcounted : Keeps schedulerKeys s counted := hended.trans (keeps_bump (f := TK.CMD_LATE_CNT) indexed_not_schedulerKeys _)
    refine hcounted.trans (keeps_ite (fun _ => keeps_copMap ..) (keeps_ite (fun _ => ?_) (keeps_ite (fun _ => ?_) (.refl ..))))
    · exact (keeps_endTxn ..).trans (keeps_removeRequest hkeys _)
    · exact (keeps_cutTx hkeys _).trans (keeps_endTxn ..)

/-- With the scheduler disabled no group runs (R457). -/
theorem schedulerStop_spec (s : State) :
    (schedulerStop s).groups = [] ∧ get RG.COP_EN 0 (schedulerStop s) = get RG.COP_EN 0 s := by
  unfold schedulerStop
  extract_lets stopped waiting
  obtain ⟨hkeys, hcop⟩ := each_groupStop (s.groups.map Prod.fst) s
  have hdrop : Keeps schedulerKeys stopped (waiting.foldl (fun a j => dropCommand j.src j a) stopped) := by
    generalize waiting = l
    generalize stopped = x
    induction l generalizing x with
    | nil => exact .refl _ x
    | cons j l ih => exact (keeps_dropCommand j.src j x).trans (ih _)
  refine ⟨?_, (hdrop.kept _ _ (by simp [schedulerKeys])).trans hcop⟩
  have hnone : stopped.groups.map Prod.fst = [] := by
    rw [hkeys, List.filter_eq_nil_iff]
    simp
  exact List.map_eq_nil_iff.mp (hdrop.groups.trans hnone)

/-! #### Writes of EN of a group and of the scheduler -/

theorem wordOf_groupEn (g : Nat) : wordOf GP.EN g % 16 = 0 ∧ wordOf GP.EN g / 16 = g := by
  simp only [wordOf, GP.EN]
  omega

/-- The first word of a group is a plain word: EN alone. -/
theorem plainWord_groupEn (g : Nat) : PlainWord GP.EN.space (wordOf GP.EN g) := by
  refine plainWord_of (off := 0) (i := g) (l := fldsGP) ?_ rfl (by decide)
  obtain ⟨hoff, hindex⟩ := wordOf_groupEn g
  show fieldsIn fldsGP (wordOf GP.EN g % 16) (wordOf GP.EN g / 16) = _
  rw [hoff, hindex]

theorem groupEn_mem (g : Nat) : (GP.EN, g) ∈ wordFields GP.EN.space (wordOf GP.EN g) := by
  obtain ⟨hoff, hindex⟩ := wordOf_groupEn g
  show (GP.EN, g) ∈ fieldsIn fldsGP (wordOf GP.EN g % 16) (wordOf GP.EN g / 16)
  rw [hoff, hindex]
  exact List.mem_map_of_mem (by decide)

/-- Every other field stands in another word. -/
theorem ne_groupEn_word {f : Fld} {i g : Nat} (h : f.key i ≠ GP.EN.key g) :
    ∀ x ∈ wordFields GP.EN.space (wordOf GP.EN g), f.key i ≠ x.1.key x.2 := by
  obtain ⟨hoff, hindex⟩ := wordOf_groupEn g
  have hword : wordFields GP.EN.space (wordOf GP.EN g) = [(GP.EN, g)] := by
    show fieldsIn fldsGP (wordOf GP.EN g % 16) (wordOf GP.EN g / 16) = _
    rw [hoff, hindex]
    rfl
  rw [hword]
  simpa using h

/-- What a write of EN of a group that leaves `w` of `b` starts or stops (R408). -/
def groupEnWritten (g : Nat) (b w : State) : State :=
  if rises GP.EN g b w then groupStart g w else if falls GP.EN g b w then groupStop g w else w

theorem groupEnWritten_rise {g : Nat} {b w : State} (hb : get GP.EN g b = 0) (hw : get GP.EN g w = 1) :
    groupEnWritten g b w = groupStart g w := if_pos (rises_iff.mpr ⟨by omega, hw⟩)

theorem groupEnWritten_fall {g : Nat} {b w : State} (hb : get GP.EN g b = 1) (hw : get GP.EN g w = 0) :
    groupEnWritten g b w = groupStop g w := ite_of_fall hb (by omega) ..

/-- With the scheduler off, EN 1 is only stored. -/
theorem groupEnWritten_off {g : Nat} {b w : State} (hw : get GP.EN g w = 1) (hcop : get RG.COP_EN 0 w = 0) :
    groupEnWritten g b w = w := by
  unfold groupEnWritten
  rw [groupStart_off hcop, if_neg (c := falls GP.EN g b w = true) (by simp [falls_iff, hw]), ite_self]

/-- A taken write of EN of a group. -/
theorem setFields_groupEn {g v : Nat} {s : State} (h : taken g GP.EN [(GP.EN, v)] s) :
    wrote g GP.EN [(GP.EN, v)] (groupEnWritten g s) s (setFields g [(GP.EN, v)] s) := by
  refine setFields_wrote g GP.EN v [] s _ h (plainWord_groupEn g) rfl (by decide) (.inr (by decide)) ?_
    (List.pairwise_singleton ..) ?_
  · intro y hy
    rw [List.mem_singleton.mp hy]
    exact ⟨groupEn_mem g, by simp [GP.EN]⟩
  · intro M w _
    show (wordActs 5 (wordOf GP.EN g) M s w).2.foldl (fun a f => f a) (wordActs 5 (wordOf GP.EN g) M s w).1 = _
    simp only [wordActs, wordOf_groupEn, true_and, List.foldl_nil, groupEnWritten]

/-- A taken write of EN of the scheduler starts or stops it where EN changes (R457). -/
theorem setFields_copEn {v : Nat} {s : State} {act : State → State} (h : taken 0 RG.COP_EN [(RG.COP_EN, v)] s)
    (hact : ∀ w, get RG.COP_EN 0 w = v % 2 → (if rises RG.COP_EN 0 s w then schedulerStart w
      else if falls RG.COP_EN 0 s w then schedulerStop w else w) = act w) :
    wrote 0 RG.COP_EN [(RG.COP_EN, v)] act s (setFields 0 [(RG.COP_EN, v)] s) := by
  have hplain : PlainWord RG.COP_EN.space (wordOf RG.COP_EN 0) :=
    plainWord_of (off := 0xA0) (i := 0) (l := fldsRG) rfl rfl (by decide)
  refine setFields_wrote 0 RG.COP_EN v [] s act h hplain rfl (by decide) (.inl rfl) ?_ (List.pairwise_singleton ..) ?_
  · intro y hy
    rw [List.mem_singleton.mp hy]
    exact ⟨show (RG.COP_EN, 0) ∈ wordFields RG.COP_EN.space (wordOf RG.COP_EN 0) by decide, by simp [RG.COP_EN]⟩
  · exact fun M w hw => hact w (hw.given (RG.COP_EN, v) (by simp) rfl)

/-- The fields of a group are none that passing time can change. -/
theorem group_not_timeKeys {f : Fld} {g : Nat} (hg : g < 64)
    (hf : f.space = 5 ∧ f.stride = 16 ∧ f.word < 16 ∧ f.lo < 32 := by decide) : f.key g ∉ timeKeys := by
  obtain ⟨hspace, hstride, hword, hlo⟩ := hf
  refine not_timeKeys (.inl ?_)
  unfold Fld.key
  rw [hspace, hstride]
  omega

end Sys2Proof.Machine

section

open Sys2Proof Sys2Proof.Machine

/-- Settles O26: a boundary with and without a running group, then EN of a group and of the scheduler written. -/
theorem scanGroupsOpenPeriods : Obligations.ScanGroupsOpenPeriods := by
  refine ⟨?boundary, ?idle, ?enable, ?enableOff, ?disable, ?schedulerOff⟩
  case boundary =>
    intro g r s hg hr
    obtain ⟨x, hx⟩ : ∃ x, x = runTo (boundaryCycle r s) s := ⟨_, rfl⟩
    have hgroups : x.groups = s.groups := by simp [hx]
    have hcount : get GP.PERIOD_CNT g x = get GP.PERIOD_CNT g s := hx ▸ get_runTo (group_not_timeKeys hg) _ s
    obtain ⟨y, hy⟩ := boundary_spec (s := x) hg (by simp [hgroups, hr])
    obtain ⟨hlastB, haborted, hend⟩ := hy.opened
    refine ⟨boundary g x, y, ?_, ?_, hy.running, hy.run, ?_, haborted, hend, ?_, ?_⟩
    · refine congrArg Host.Outcome.next ?_
      unfold periodBoundary
      rw [hr, hx]
    · rw [hy.now, hx, runTo_now]
    · rw [hlastB, hy.now]
    · rw [hy.lastB, hy.ring]
    · rw [hy.count, hcount]
  case idle =>
    intro g s hnone
    refine congrArg Host.Outcome.next ?_
    unfold periodBoundary
    rw [hnone]
  case enable =>
    intro dt g s hg htaken hoff hcop hquality hnone
    have hoff' : get GP.EN g (elapse dt s) = 0 := (get_elapse (group_not_timeKeys hg) dt s).trans hoff
    obtain ⟨w, l, hunits, hgiven, -, hother, ht⟩ := setFields_groupEn htaken
    have hen : get GP.EN g w = 1 := hgiven (GP.EN, 1) (by simp) rfl
    rw [groupEnWritten_rise hoff' hen] at ht
    have hdirect (f : Fld) (hf : f.key 0 < 33554432) (hlog : f.key 0 ∉ timeKeys) : get f 0 w = get f 0 s :=
      (hother f 0 (ne_groupEn_word (direct_ne_indexed hf))).trans (get_elapse hlog dt s)
    have hperiod : get GP.PERIOD_MS g w = get GP.PERIOD_MS g s :=
      (hother _ g (ne_groupEn_word group_key_ne)).trans (get_elapse (group_not_timeKeys hg) dt s)
    have hgroups : find g w.groups = none := by
      rw [hunits]
      simpa using hnone
    have hnow : w.now = s.now + dt := by
      rw [hunits]
      simp
    have hcop' : get RG.COP_EN 0 w = 1 := (hdirect _ (by decide) (by decide)).trans hcop
    have hquality' : get RG.QUALITY 0 w ≠ 2 := by rwa [hdirect _ (by decide) (by decide)]
    obtain ⟨y, hy⟩ := groupStart_opens hg hgroups hen hcop' hquality'
    refine ⟨_, y, congrArg Host.Outcome.next ht, rfl, (hy.kept _ _ (boundaryKeys_group hg).1 group_key_ne).trans hen, hy.running,
      hy.run, hy.opened.lastB.trans hnow, ?_⟩
    rw [hy.next hquality', hnow, hperiod]
  case enableOff =>
    intro dt g s hg htaken hcop
    obtain ⟨w, l, hunits, hgiven, -, hother, ht⟩ := setFields_groupEn htaken
    have hen : get GP.EN g w = 1 := hgiven (GP.EN, 1) (by simp) rfl
    have hcop' : get RG.COP_EN 0 w = 0 :=
      ((hother _ 0 (ne_groupEn_word direct_ne_indexed)).trans (get_elapse (by decide) dt s)).trans hcop
    rw [groupEnWritten_off hen hcop'] at ht
    exact ⟨_, congrArg Host.Outcome.next ht, rfl, hen, by rw [hunits]⟩
  case disable =>
    intro dt g s hg htaken hon
    have hon' : get GP.EN g (elapse dt s) = 1 := (get_elapse (group_not_timeKeys hg) dt s).trans hon
    obtain ⟨w, l, -, hgiven, -, -, ht⟩ := setFields_groupEn htaken
    have hen : get GP.EN g w = 0 := hgiven (GP.EN, 0) (by simp) rfl
    rw [groupEnWritten_fall hon' hen] at ht
    have hstop := groupStop_spec g w
    exact ⟨_, congrArg Host.Outcome.next ht, rfl,
      (hstop.kept _ _ (boundaryKeys_group hg).1 group_key_ne).trans hen, hstop.running, hstop.gone⟩
  case schedulerOff =>
    intro dt s htaken hon
    have hon' : get RG.COP_EN 0 (elapse dt s) = 1 := (get_elapse (by decide) dt s).trans hon
    obtain ⟨w, l, -, hgiven, -, -, ht⟩ := setFields_copEn (act := schedulerStop) htaken
      (fun w hw => ite_of_fall hon' (by omega) ..)
    have hen : get RG.COP_EN 0 w = 0 := hgiven (RG.COP_EN, 0) (by simp) rfl
    obtain ⟨hgroups, hcop⟩ := schedulerStop_spec w
    exact ⟨_, congrArg Host.Outcome.next ht, rfl, hcop.trans hen, hgroups⟩

end

end

section

/-! ### A line port while time passes, and a judgement with nothing to judge -/

open Sys2Proof.Safety

namespace Sys2Proof.Machine

@[simp] theorem pGet_runTo (p due : Nat) (s : State) : pGet p (runTo due s) = pGet p s := pGet_congr (by simp) p

theorem copGet_congr {s t : State} (h : t.cop = s.cop) (p : Nat) : copGet p t = copGet p s := by
  unfold copGet; rw [h]

/-- A field of a port keeps its value while time passes. -/
theorem get_port_runTo {f : Fld} {p : Nat} (hp : p < 48)
    (hf : f.space = 1 ∧ f.stride = 32 ∧ f.word < 32 ∧ f.lo < 32 := by decide) (due : Nat) (s : State) :
    get f p (runTo due s) = get f p s := by
  obtain ⟨hspace, hstride, hword, hlo⟩ := hf
  exact get_runTo (port_not_timeKeys hspace hstride hword hlo hp) due s

theorem get_port_elapse {f : Fld} {p : Nat} (hp : p < 48)
    (hf : f.space = 1 ∧ f.stride = 32 ∧ f.word < 32 ∧ f.lo < 32 := by decide) (dt : Nat) (s : State) :
    get f p (elapse dt s) = get f p s := get_port_runTo hp hf _ s

/-- With no reply and no aborted poll on the port, the scheduler learns nothing (R413, R419). -/
theorem judge_quiet {p : Nat} {s : State} (h : quiet p s) : judge p s = s := by
  obtain ⟨hreply, hending⟩ := h
  have hretire : retireEnding p s = s := by simp [retireEnding, hending]
  rw [judge, hretire, judgeReply, hreply]

theorem quiet_congr {p : Nat} {s t : State} (h : quiet p s) (hreply : (pGet p t).reply = (pGet p s).reply)
    (hcop : t.cop = s.cop) : quiet p t :=
  ⟨hreply.trans h.1, by rw [copGet_congr hcop]; exact h.2⟩

theorem quiet_elapse {p : Nat} {s : State} (h : quiet p s) (dt : Nat) : quiet p (elapse dt s) :=
  quiet_congr h (by simp) (by simp)

end Sys2Proof.Machine

end

section

/-! ### Staged bytes on their way into the receive queue -/

open Sys2Proof.Safety

namespace Sys2Proof.Machine

/-- Words offered to a receive queue leave every port and the scheduler. -/
@[simp] theorem placeWords_fields (p k : Nat) (ws : List QWord) (final : Bool) (s : State) :
    (placeWords p k ws final s).ports = s.ports ∧ (placeWords p k ws final s).cop = s.cop := by
  simp [placeWords, patchRecord]

@[simp] theorem pGet_placeWords (p r k : Nat) (ws : List QWord) (final : Bool) (s : State) :
    pGet r (placeWords p k ws final s) = pGet r s := pGet_congr (by simp) r

/-- How many words wait before a queue is no matter of the ports. -/
@[simp] theorem outside_pMap (q : Nat) (pr : Producer) (p : Nat) (f : Port → Port) (s : State) :
    outside q pr (pMap p f s) = outside q pr s := rfl

/-- What a move leaves of its port: the staging block empty, or as it stood. -/
def Port.moved (empty : Bool) (o : Option OpenRec) (c : Port) : Port :=
  if empty then { c with
    open_ := o, stage := [], moveReq := false, moving := false, movedChars := (c.movedChars + c.stage.length) % 2 ^ 32 }
  else { c with open_ := o }

/-- A change of port `p` alone, which the scheduler does not see. -/
structure PortOnly (p : Nat) (s t : State) : Prop where
  others : ∀ q, q ≠ p → pGet q t = pGet q s
  cop : t.cop = s.cop

theorem PortOnly.refl (p : Nat) (s : State) : PortOnly p s s := ⟨fun _ _ => rfl, rfl⟩

theorem PortOnly.trans {p : Nat} {s t u : State} (h : PortOnly p s t) (h' : PortOnly p t u) : PortOnly p s u :=
  ⟨fun q hq => (h'.others q hq).trans (h.others q hq), h'.cop.trans h.cop⟩

theorem portOnly_pMap (p : Nat) (f : Port → Port) (s : State) : PortOnly p s (pMap p f s) :=
  ⟨fun _ hq => pGet_pSet_ne hq .., rfl⟩

theorem portOnly_placeWords (p k : Nat) (ws : List QWord) (final : Bool) (s : State) :
    PortOnly p s (placeWords p k ws final s) := ⟨fun q _ => by simp, by simp⟩

/-- The staged bytes of the open record move; the block is empty once no word waits before the queue (R176). -/
theorem moveOpen_spec (p : Nat) (s : State) : PortOnly p s (moveOpen p s) ∧
    ∃ o, ((pGet p s).open_ = none → o = none) ∧
      pGet p (moveOpen p s) = (pGet p s).moved (outside p (.line p) (moveOpen p s) == 0) o := by
  unfold moveOpen
  extract_lets placed
  have hplaced : PortOnly p s placed ∧ ∃ o, ((pGet p s).open_ = none → o = none) ∧
      pGet p placed = { pGet p s with open_ := o } := by
    simp only [placed]
    split
    · next hnone => exact ⟨.refl p s, none, fun _ => rfl, by rw [← hnone]⟩
    · next r hsome =>
      split
      · exact ⟨.refl p s, some r, fun hnone => by simp [hsome] at hnone, by rw [← hsome]⟩
      · exact ⟨(portOnly_placeWords ..).trans (portOnly_pMap ..), _, fun hnone => by simp [hsome] at hnone, by
          rw [pGet_pMap_same, pGet_placeWords]⟩
  obtain ⟨honly, o, hnone, hport⟩ := hplaced
  split
  · next hempty =>
    refine ⟨honly.trans (portOnly_pMap ..), o, hnone, ?_⟩
    simp [blockEmptied, hempty, hport, Port.moved]
  · next hwaits => exact ⟨honly, o, hnone, by simp [hwaits, hport, Port.moved]⟩

/-- With no sentence open, only the block is left to be emptied. -/
theorem moveOpen_of_none {p : Nat} {s : State} (h : (pGet p s).open_ = none) :
    moveOpen p s = if outside p (.line p) s = 0 then blockEmptied p s else s := by simp [moveOpen, h]

/-- A requested move that is under way, or that the queue accepts, goes on (R176, R177). -/
theorem stagingMove_begun {p : Nat} {s : State} (hreq : (pGet p s).moveReq = true)
    (h : (pGet p s).moving = true ∨ moveAccepted p s = true) :
    ∃ x, stagingMove p s = moveOn p (pGet p s).closed x ∧ PortOnly p s x ∧ pGet p x = { pGet p s with moving := true } := by
  by_cases hmoving : (pGet p s).moving = true
  · exact ⟨s, by simp [stagingMove, moveStep, hreq, hmoving], .refl p s, by rw [← hmoving]⟩
  · have haccepted : moveAccepted p s = true := h.resolve_left hmoving
    exact ⟨pMap p (fun x => { x with moving := true }) s, by simp [stagingMove, moveStep, hreq, hmoving, haccepted],
      portOnly_pMap .., by simp⟩

/-- No move is requested, or none accepted. -/
theorem stagingMove_idle {p : Nat} {s : State}
    (h : (pGet p s).moveReq = false ∨ ((pGet p s).moving = false ∧ moveAccepted p s = false)) : stagingMove p s = s := by
  rcases h with hreq | ⟨hmoving, haccepted⟩
  · simp [stagingMove, hreq]
  · simp [stagingMove, hmoving, haccepted]

/-- A closed sentence of which no word waits any more is finished, and the open one moves; otherwise it waits (R182). -/
theorem moveOn_closed (p : Nat) (c : Closed) (s : State) :
    ∃ x, PortOnly p s x ∧ pGet p x = pGet p s ∧
      moveOn p [c] s = if outside p (.line p) x = 0 then moveOpen p (finishClosed p c x)
        else pMap p (fun y => { y with closed := [{ c with moved := c.bytes.length, placed := true }] }) x :=
  ⟨_, portOnly_placeWords .., by rw [pGet_placeWords], rfl⟩

end Sys2Proof.Machine

section

open Sys2Proof Sys2Proof.Machine

/-- Settles O18: the open sentence alone, one closed sentence, and no move. -/
theorem stagedBytesMove : Obligations.StagedBytesMove := by
  refine ⟨?opened, ?closed, ?idle⟩
  case opened =>
    intro dt p s _ hreq hmove hquiet hclosed
    obtain ⟨x, hx, honly, hport⟩ := stagingMove_begun (s := elapse dt s) (by simpa using hreq) (by simpa using hmove)
    obtain ⟨hmoved, o, -, hafter⟩ := moveOpen_spec p x
    have hquiet' : quiet p (moveOpen p x) := by
      refine quiet_congr (quiet_elapse hquiet dt) ?_ (hmoved.cop.trans honly.cop)
      rw [hafter, hport]
      unfold Port.moved
      split <;> rfl
    have hexec : judge p (stagingMove p (elapse dt s)) = moveOpen p x := by
      rw [hx, pGet_elapse, hclosed]
      exact judge_quiet hquiet'
    refine ⟨_, congrArg Host.Outcome.next hexec, fun q hq => ?_, ?_⟩
    · rw [hmoved.others q hq, honly.others q hq, pGet_elapse]
    · rw [hafter, hport]
      split
      · next hempty => simp [Port.moved, hempty]
      · next hwaits => simp [Port.moved, hwaits, hreq]
  case closed =>
    intro dt p c s _ hreq hmove hquiet hclosed hreply hopen
    obtain ⟨x, hx, honly, hport⟩ := stagingMove_begun (s := elapse dt s) (by simpa using hreq) (by simpa using hmove)
    obtain ⟨y, honly', hport', hon⟩ := moveOn_closed p c x
    have hbefore : pGet p y = { pGet p s with moving := true } := by rw [hport', hport, pGet_elapse]
    have hcop : y.cop = s.cop := (honly'.cop.trans honly.cop).trans (by simp)
    have hending : (copGet p y).ending = none := by rw [copGet_congr hcop]; exact hquiet.2
    have hnone : (pGet p (finishClosed p c y)).open_ = none := by simp [finishClosed, hbefore, hopen]
    have hexec {t : State} (ht : stagingMove p (elapse dt s) = t) (hquiet' : quiet p t) :
        exec (.stagingMoveDone dt p) s = .next t :=
      congrArg Host.Outcome.next ((congrArg (judge p) ht).trans (judge_quiet hquiet'))
    rw [pGet_elapse, hclosed, hon, moveOpen_of_none hnone] at hx
    by_cases hentered : outside p (.line p) y = 0
    · have hentered' : outside p (.line p) (finishClosed p c y) = 0 := hentered
      rw [if_pos hentered, if_pos hentered'] at hx
      refine ⟨_, hexec hx ⟨?_, hending⟩, ?_⟩
      · simp [blockEmptied, finishClosed, hbefore, hreply, hquiet.1]
      · have hempty : outside p (.line p) (blockEmptied p (finishClosed p c y)) = 0 := hentered
        rw [if_pos hempty]
        simp [blockEmptied, finishClosed, hbefore, hclosed]
    · rw [if_neg hentered] at hx
      refine ⟨_, hexec hx ⟨?_, hending⟩, ?_⟩
      · simp [hbefore, hquiet.1]
      · rw [outside_pMap, if_neg hentered]
        simp [hbefore]
  case idle =>
    intro dt p s h hquiet
    have hidle : stagingMove p (elapse dt s) = elapse dt s := stagingMove_idle (by simpa using h)
    refine congrArg Host.Outcome.next ?_
    rw [hidle]
    exact judge_quiet (quiet_elapse hquiet dt)

end

end

section

/-! ### The transmitter of a line port: its own rules -/

open Sys2Proof.Safety

namespace Sys2Proof.Machine

/-! #### Fields of the PORT space -/

/-- The keys `ks` lie in the PORT space. -/
def InPortSpace (ks : List Nat) : Prop := ∀ k ∈ ks, 33554432 ≤ k ∧ k < 67108864

theorem inPortSpace_nil : InPortSpace [] := by simp [InPortSpace]

theorem inPortSpace_cons {f : Fld} {p : Nat} {ks : List Nat} (hp : p < 48) (h : InPortSpace ks)
    (hf : f.space = 1 ∧ f.stride = 32 ∧ f.word < 32 ∧ f.lo < 32 := by decide) : InPortSpace (f.key p :: ks) := by
  obtain ⟨hspace, hstride, hword, hlo⟩ := hf
  refine List.forall_mem_cons.mpr ⟨?_, h⟩
  unfold Fld.key
  rw [hspace, hstride]
  omega

theorem inPortSpace_one {f : Fld} {p : Nat} (hp : p < 48)
    (hf : f.space = 1 ∧ f.stride = 32 ∧ f.word < 32 ∧ f.lo < 32 := by decide) : InPortSpace [f.key p] :=
  inPortSpace_cons hp inPortSpace_nil hf

/-- The direct map stands before the PORT space. -/
theorem InPortSpace.direct {ks : List Nat} (h : InPortSpace ks) {f : Fld} (hf : f.key 0 < 33554432 := by decide) :
    f.key 0 ∉ ks := fun hk => absurd (h _ hk).1 (by omega)

/-- Every table but PORT stands behind it. -/
theorem InPortSpace.later {ks : List Nat} (h : InPortSpace ks) {f : Fld} {i : Nat} (hf : 2 ≤ f.space := by decide) :
    f.key i ∉ ks := by
  intro hk
  have hlt := (h _ hk).2
  unfold Fld.key at hlt
  omega

/-- Two fields of one port stand at two places. -/
theorem port_key_ne {f f' : Fld} (p : Nat)
    (hf : f.space = f'.space ∧ f.stride = f'.stride ∧ f.word * 32 + f.lo ≠ f'.word * 32 + f'.lo := by decide) :
    f.key p ≠ f'.key p := by
  obtain ⟨hspace, hstride, hplace⟩ := hf
  unfold Fld.key
  rw [hspace, hstride]
  omega

/-- A field of a port is no field of the direct map. -/
theorem port_key_ne_direct {f g : Fld} {p : Nat} (hp : p < 48)
    (hf : f.space = 1 ∧ f.stride = 32 ∧ f.word < 32 ∧ f.lo < 32 := by decide) (hg : g.key 0 < 33554432 := by decide) :
    f.key p ≠ g.key 0 := ne_of_mem_of_not_mem (List.mem_singleton_self _) ((inPortSpace_one hp hf).direct hg)

/-- A one-field reading of `Keeps`. -/
theorem Keeps.get {f : Fld} {i : Nat} {s t : State} (h : Keeps [f.key i] s t) : Machine.get f i t = Machine.get f i s :=
  h.kept f i (List.mem_singleton_self _)

/-! #### The transmitter -/

@[simp] theorem txOf_txMap (p : Nat) (f : Tx → Tx) (s : State) : txOf p (txMap p f s) = f (txOf p s) := by simp [txOf]
theorem txOf_congr {s t : State} (h : t.ports = s.ports) (p : Nat) : txOf p t = txOf p s := by rw [txOf, pGet_congr h, txOf]
@[simp] theorem txOf_put (p : Nat) (f : Fld) (i v : Nat) (s : State) : txOf p (put f i v s) = txOf p s := txOf_congr (by simp) p
@[simp] theorem txOf_elapse (p dt : Nat) (s : State) : txOf p (elapse dt s) = txOf p s := txOf_congr (by simp) p
@[simp] theorem txOf_runTo (p due : Nat) (s : State) : txOf p (runTo due s) = txOf p s := txOf_congr (by simp) p

/-- Taking up a rate or format changes the ports alone, and of its port the transmitter's rate and format (R138). -/
theorem txTakeUp_units (p : Nat) (s : State) : txTakeUp p s = { s with ports := (txTakeUp p s).ports } := by
  unfold txTakeUp
  split <;> rfl

theorem pGet_txTakeUp (p : Nat) (s : State) :
    pGet p (txTakeUp p s) = { pGet p s with txF := (pGet p (txTakeUp p s)).txF, txPend := (pGet p (txTakeUp p s)).txPend } := by
  unfold txTakeUp
  split <;> simp

@[simp] theorem txOf_txTakeUp (p : Nat) (s : State) : txOf p (txTakeUp p s) = txOf p s := by
  unfold txOf
  rw [pGet_txTakeUp]

@[simp] theorem get_txTakeUp (g : Fld) (j p : Nat) (s : State) : get g j (txTakeUp p s) = get g j s :=
  get_congr g j (by rw [txTakeUp_units]) (by simp) (by rw [txTakeUp_units])

@[simp] theorem txTakeUp_leave (p : Nat) (s : State) : (txTakeUp p s).leave = s.leave := by rw [txTakeUp_units]
@[simp] theorem txTakeUp_cyc (p : Nat) (s : State) : (txTakeUp p s).cyc = s.cyc := by rw [txTakeUp_units]

@[simp] theorem get_pMap (g : Fld) (j p : Nat) (f : Port → Port) (s : State) : get g j (pMap p f s) = get g j s := rfl

/-- Leave given back changes no port, and no mark of the CORE cycle. -/
@[simp] theorem releaseLeave_line (k : LeaveKind) (s : State) : (releaseLeave k s).ports = s.ports ∧ (releaseLeave k s).cyc = s.cyc := by
  unfold releaseLeave checkBudget
  split <;> cases k.pool <;> exact ⟨rfl, rfl⟩

@[simp] theorem txOf_releaseLeave (p : Nat) (k : LeaveKind) (s : State) : txOf p (releaseLeave k s) = txOf p s :=
  txOf_congr (releaseLeave_line k s).1 p

theorem get_releaseBreak {f : Fld} {p : Nat} (hp : p < 48)
    (hf : f.space = 1 ∧ f.stride = 32 ∧ f.word < 32 ∧ f.lo < 32 := by decide) (s : State) :
    get f p (releaseLeave (.brk p) s) = get f p s := by
  unfold releaseLeave checkBudget
  split
  · exact get_put_ne (port_key_ne_direct (g := RG.FIELD_CHANGE) hp hf) ..
  · rfl

/-- A transmit held by trim shows and counts (R188). -/
theorem countHeld_spec {p : Nat} (hp : p < 48) (s : State) : get PT.EV_TX_HELD p (countHeld p s) = 1 ∧
    get PT.TX_HELD p (countHeld p s) = PT.TX_HELD.count (get PT.TX_HELD p s) 1 ∧
    (countHeld p s).ports = s.ports ∧ (countHeld p s).leave = s.leave := by
  refine ⟨(get_raise_one rfl rfl (port_key_ne_direct hp) _).1, ?_, by simp [countHeld], by simp [countHeld]⟩
  rw [countHeld, get_raise_ne (port_key_ne_direct hp) (port_key_ne p), get_bump_same]

/-- A command that counts as sent changes two counters, and no port. -/
theorem countSent_keeps {ks : List Nat} (h : InPortSpace ks) (p : Nat) (before : Tx) (s : State) :
    Keeps ks s (countSent p before s) ∧ (countSent p before s).ports = s.ports ∧ (countSent p before s).leave = s.leave := by
  have hsent (talker : Nat) : Keeps ks s (commandSent talker s) ∧ (commandSent talker s).ports = s.ports ∧
      (commandSent talker s).leave = s.leave :=
    ⟨(keeps_bump h.later s).trans (keeps_bump h.direct _), by simp [commandSent], by simp [commandSent]⟩
  unfold countSent
  split
  · split
    · exact hsent _
    · exact ⟨.refl ks s, rfl, rfl⟩
  · exact ⟨.refl ks s, rfl, rfl⟩

@[simp] theorem dropWords_ports (q n : Nat) (s : State) : (dropWords q n s).ports = s.ports := by
  unfold dropWords
  dsimp only
  rfl

/-- The record at the head of the transmit queue is taken (R186, R521). -/
theorem pGet_takeTxRecord (p : Nat) (ws : List QWord) (s : State) : pGet p (takeTxRecord p ws s) = { pGet p s with
    txq := (pGet p s).txq.drop 1, recHeld := false, tx := { Tx.idle with bytes := recPayload ws, owner := (pGet p s).txq.head? } } := by
  have hport (f : Queue → Queue) : pGet p (qMap (48 + p) f (bump CN.RECORDS_OUT (48 + p) (dropWords (48 + p) ws.length s))) = pGet p s :=
    pGet_congr (by simp) p
  unfold takeTxRecord
  dsimp only
  rw [pGet_pMap_same, hport]

theorem keeps_takeTxRecord {ks : List Nat} (h : InPortSpace ks) (p : Nat) (ws : List QWord) (s : State) :
    Keeps ks s (takeTxRecord p ws s) := by
  unfold takeTxRecord
  dsimp only
  exact (((keeps_dropWords ..).trans (keeps_bump (f := CN.RECORDS_OUT) h.later _)).trans (keeps_qMap ..)).trans (keeps_pMap ..)

/-- Time brings no record to a transmit queue. -/
theorem txReady_runTo {p : Nat} (hp : p < 48) (due : Nat) (s : State) : txReady p (runTo due s) = txReady p s := by
  simp only [txReady, headRecord, qGet_runTo (r := 48 + p) (by omega)]

/-- The end of a turnaround gap is no matter of the time that passes (R185). -/
theorem earliestTx_runTo {p : Nat} (hp : p < 48) (due : Nat) (s : State) : earliestTx p (runTo due s) = earliestTx p s := by
  have hkept {f : Fld} (hf : f.space = 1 ∧ f.stride = 32 ∧ f.word < 32 ∧ f.lo < 32) : get f p (runTo due s) = get f p s :=
    get_port_runTo hp hf due s
  unfold earliestTx grammar leadC flag
  rw [pGet_runTo, hkept (f := PT.TURN_US) (by decide), hkept (f := PT.GRAMMAR) (by decide), hkept (f := PT.LEAD_US) (by decide),
    hkept (f := PT.LST_EN) (by decide)]

end Sys2Proof.Machine

end

section

/-! ### Breaks -/

open Sys2Proof.Safety

namespace Sys2Proof.Machine

/-- The break that a transmitter begins in CORE cycle `now` (R172). -/
def Tx.breakFrom (now lead brk : Nat) (directive : Bool) (t : Tx) : Tx :=
  { t with phase := .brk, directive := directive, brkAt := now + lead, due := now + lead + brk }

/-- A granted break of TX_BREAK starts at once (R171, R172). -/
theorem breakStart_software {p : Nat} {s : State} (hphase : (txOf p s).phase = .leaveWait) (hstart : mayStart (.brk p) s = true)
    (htrim : (pGet p s).inTrim = false) (hdirective : (txOf p s).directive = false) :
    breakStart p s = txMap p (Tx.breakFrom s.now (leadC p s) (cyclesMs (get PT.BRK_MS p s)) false)
      (pMap p (fun c => { c with brkHeld := c.brkHeld && false }) s) := by
  unfold breakStart
  simp only [hphase, hstart, hdirective, htrim, decide_true, Bool.and_self, if_true, Bool.false_eq_true, if_false]
  rfl

/-- The granted break of a record starts after the record's turnaround gap (R172, R185). -/
theorem breakStart_directive {p : Nat} {ws : List QWord} {s : State} (hphase : (txOf p s).phase = .leaveWait)
    (hstart : mayStart (.brk p) s = true) (htrim : (pGet p s).inTrim = false) (hdirective : (txOf p s).directive = true)
    (hready : txReady p (runTo (earliestTx p s) s) = some ws) : ∃ x, x = takeTxRecord p ws
        (pMap p (fun c => { c with brkHeld := c.brkHeld && true }) (runTo (earliestTx p s) s)) ∧
      breakStart p s = txMap p (Tx.breakFrom x.now (leadC p x) (cyclesMs (get PT.BRK_MS p x)) true) x := by
  have hready' : txReady p (pMap p (fun c => { c with brkHeld := c.brkHeld && true }) (runTo (earliestTx p s) s)) = some ws := hready
  refine ⟨_, rfl, ?_⟩
  unfold breakStart
  simp only [hphase, hstart, hdirective, pGet_runTo, htrim, decide_true, Bool.and_self, if_true, Bool.false_eq_true, if_false, hready']
  rfl

/-- On a line in trim the break is held (R188). -/
theorem breakStart_held {p : Nat} {s : State} (hphase : (txOf p s).phase = .leaveWait) (hstart : mayStart (.brk p) s = true)
    (htrim : (pGet p s).inTrim = true) (hdirective : (txOf p s).directive = false) :
    breakStart p s = if (pGet p s).brkHeld then s else pMap p (fun c => { c with brkHeld := true }) (countHeld p s) := by
  simp [breakStart, holdBreak, hphase, hstart, hdirective, htrim]

/-- Without a grant of an earlier CORE cycle no break starts (R766). -/
theorem breakStart_idle {p : Nat} {s : State} (h : (txOf p s).phase ≠ .leaveWait ∨ mayStart (.brk p) s = false) :
    breakStart p s = s := by
  rcases h with h | h <;> simp [breakStart, h]

/-- A break that is not cut ends in its marking (R172). -/
theorem breakEnd_marks {p : Nat} {s : State} (hphase : (txOf p s).phase = .brk) (hcut : (txOf p s).cut = false) :
    breakEnd p s = txMap p (fun t => { t with
      phase := .mark, due := max s.now (txOf p s).due + cyclesMs (get PT.MARK_MS p (runTo (txOf p s).due s)) })
        (runTo (txOf p s).due s) := by
  simp [breakEnd, hphase, hcut]

/-- A break that is cut goes to its tail, and gives its unit back (R192). -/
theorem breakEnd_cut {p : Nat} {s : State} (hphase : (txOf p s).phase = .brk) (hcut : (txOf p s).cut = true) :
    breakEnd p s = releaseLeave (.brk p) (txMap p (fun t => { t with
      phase := .tail, due := max s.now (txOf p s).due + tailC p (runTo (txOf p s).due s) }) (runTo (txOf p s).due s)) := by
  simp [breakEnd, hphase, hcut]

/-- The marking of a break of TX_BREAK ends in the tail, with the unit given back; software writes nothing in a CORE cycle
that begins (R171, R172). -/
theorem markingEnd_software {p : Nat} {s : State} (hphase : (txOf p s).phase = .mark) (hdirective : (txOf p s).directive = false)
    (hdue : s.now < (txOf p s).due) : ∃ x, x = txTakeUp p (releaseLeave (.brk p) (runTo (txOf p s).due s)) ∧
      markingEnd p s = put PT.TX_BREAK p 0 (txMap p (fun t => { t with phase := .tail, due := x.now + tailC p x }) x) := by
  refine ⟨_, rfl, ?_⟩
  simp [markingEnd, clearTxBreak, hphase, hdirective, runTo_sw hdue]

end Sys2Proof.Machine

section

open Sys2Proof Sys2Proof.Machine

/-- Settles O21, row by row: the start of a break and its hold, its end, and the end of its marking. -/
theorem breaksAreSent : Obligations.BreaksAreSent := by
  refine ⟨?software, ?directive, ?held, ?idle, ?marked, ?cut, ?marking⟩
  case software =>
    intro dt p s hp hphase hstart htrim hdirective
    have hlead : leadC p (elapse dt s) = cyclesUs (get PT.LEAD_US p s) := congrArg cyclesUs (get_port_elapse hp (by decide) dt s)
    have hbreak := breakStart_software (s := elapse dt s) (by simpa using hphase) hstart (by simpa using htrim)
      (by simpa using hdirective)
    rw [elapse_now, hlead, get_port_elapse hp] at hbreak
    refine ⟨_, congrArg Host.Outcome.next hbreak, ?_, ?_, ?_, rfl⟩
    all_goals rw [txOf_txMap]; rfl
  case directive =>
    intro dt p ws s hp hphase hstart htrim hdirective hready
    obtain ⟨x, hx, hbreak⟩ := breakStart_directive (s := elapse dt s) (by simpa using hphase) hstart (by simpa using htrim)
      (by simpa using hdirective) (by rwa [txReady_runTo hp])
    have hkeeps {f : Fld} (hf : f.space = 1 ∧ f.stride = 32 ∧ f.word < 32 ∧ f.lo < 32) : get f p x = get f p s := by
      rw [hx, (keeps_takeTxRecord (inPortSpace_one hp hf) ..).get, get_pMap, get_port_runTo hp hf, get_port_elapse hp hf]
    have hearliest : earliestTx p (elapse dt s) = earliestTx p s := earliestTx_runTo hp _ s
    have hnow : x.now = max (s.now + dt) (earliestTx p s) := by
      rw [hx, (keeps_takeTxRecord inPortSpace_nil ..).now]
      simp [hearliest]
    have hlead : leadC p x = cyclesUs (get PT.LEAD_US p s) := congrArg cyclesUs (hkeeps (by decide))
    have htx : (txOf p x).bytes = recPayload ws := by rw [hx, txOf, pGet_takeTxRecord]
    rw [hlead, hkeeps (f := PT.BRK_MS) (by decide)] at hbreak
    refine ⟨_, congrArg Host.Outcome.next hbreak, hnow, ?_, ?_, ?_, ?_, ?_⟩
    all_goals rw [txOf_txMap]
    exacts [rfl, rfl, htx, rfl, rfl]
  case held =>
    intro dt p s hp hphase hstart htrim hdirective
    have hheld := breakStart_held (s := elapse dt s) (by simpa using hphase) hstart (by simpa using htrim)
      (by simpa using hdirective)
    obtain ⟨hevent, hcount, hports, hleave⟩ := countHeld_spec hp (elapse dt s)
    rw [pGet_elapse] at hheld
    by_cases hbefore : (pGet p s).brkHeld = true
    · rw [if_pos hbefore] at hheld
      refine ⟨_, congrArg Host.Outcome.next hheld, by simpa using hphase, by simpa using hbefore, by simp, ?_⟩
      rw [if_pos hbefore, get_port_elapse hp]
    · rw [if_neg hbefore] at hheld
      have hport : pGet p (countHeld p (elapse dt s)) = pGet p s := (pGet_congr hports p).trans (pGet_elapse p dt s)
      refine ⟨_, congrArg Host.Outcome.next hheld, ?_, by simp, by simpa using hleave, ?_⟩
      · simpa [txOf, hport] using hphase
      · rw [if_neg hbefore, get_pMap, get_pMap, hevent, hcount, get_port_elapse hp]
        exact ⟨rfl, rfl⟩
  case idle =>
    intro dt p s h
    exact congrArg Host.Outcome.next (breakStart_idle (by simpa using h))
  case marked =>
    intro p s hp hphase hcut
    have hend := breakEnd_marks hphase hcut
    rw [get_port_runTo hp] at hend
    refine ⟨_, congrArg Host.Outcome.next hend, by simp, by simp, by simp, by simp⟩
  case cut =>
    intro p s hp hphase hcut
    have hend := breakEnd_cut hphase hcut
    have htail (due : Nat) : tailC p (runTo due s) = cyclesUs (get PT.TAIL_US p s) :=
      congrArg cyclesUs (get_port_runTo hp (by decide) due s)
    refine ⟨_, congrArg Host.Outcome.next hend, ?_, ?_, isGranted_releaseLeave ..⟩
    · rw [txOf_releaseLeave, txOf_txMap]
    · rw [txOf_releaseLeave, txOf_txMap, htail]
      simp
  case marking =>
    intro p s hp hphase hdirective hdue
    obtain ⟨x, hx, hend⟩ := markingEnd_software hphase hdirective hdue
    obtain ⟨hkeeps, hports, hleave⟩ := countSent_keeps (inPortSpace_one (f := PT.TX_BREAK) hp) p (txOf p s) (markingEnd p s)
    have hnow : x.now = (txOf p s).due := by rw [hx]; simp; omega
    have htail : tailC p x = cyclesUs (get PT.TAIL_US p s) := by
      rw [tailC, hx, get_txTakeUp, get_releaseBreak hp, get_port_runTo hp]
    have htx : txOf p (countSent p (txOf p s) (markingEnd p s)) = { txOf p x with phase := .tail, due := x.now + tailC p x } := by
      rw [txOf_congr hports, hend, txOf_put, txOf_txMap]
    have hnow' : (countSent p (txOf p s) (markingEnd p s)).now = (txOf p s).due := by rw [hkeeps.now, hend]; simpa using hnow
    refine ⟨_, rfl, hnow', by rw [htx], ?_, ?_, ?_⟩
    · rw [htx, htail, hnow, hnow']
    · rw [isGranted_congr hleave, hend, isGranted_congr (s := x) (by simp), hx, isGranted_congr (txTakeUp_leave ..)]
      exact isGranted_releaseLeave ..
    · rw [hkeeps.get, hend, get_put_same, Nat.zero_mod]
end

end

section

/-! ### What the scheduler leaves of the line ports -/

open Sys2Proof.Safety

namespace Sys2Proof.Machine

/-- What a port's receiver holds: the character in reception, the possible break, and the characters counted. -/
def Port.receiver (c : Port) : Option RxChar × Option (RxChar × LeanSum) × Bool × Nat := (c.rx, c.held, c.afterBreak, c.rxChars)

/-- The receiver of a port, and whether what it hears is discarded. -/
def Port.hearing (c : Port) : (Option RxChar × Option (RxChar × LeanSum) × Bool × Nat) × Bool := (c.receiver, c.discard)

/-- What a port listens to: with its receiver, the open sentence. -/
def Port.listening (c : Port) : ((Option RxChar × Option (RxChar × LeanSum) × Bool × Nat) × Bool) × Option OpenRec :=
  (c.hearing, c.open_)

/-- Two states agree in time, in the fields with the keys `ks`, and in the part `π` of every line port. -/
structure LineKeeps {α : Type} (ks : List Nat) (π : Port → α) (s t : State) : Prop where
  fields : Keeps ks s t
  ports : ∀ q, π (pGet q t) = π (pGet q s)

section

variable {α : Type} {ks : List Nat} {π : Port → α} {s t u : State}

theorem LineKeeps.refl (ks : List Nat) (π : Port → α) (s : State) : LineKeeps ks π s s := ⟨.refl ks s, fun _ => rfl⟩

theorem LineKeeps.trans (h : LineKeeps ks π s t) (h' : LineKeeps ks π t u) : LineKeeps ks π s u :=
  ⟨h.fields.trans h'.fields, fun q => (h'.ports q).trans (h.ports q)⟩

/-- A part of the part is kept with it. -/
theorem LineKeeps.map {β : Type} (g : α → β) (h : LineKeeps ks π s t) : LineKeeps ks (fun c => g (π c)) s t :=
  ⟨h.fields, fun q => congrArg g (h.ports q)⟩

theorem LineKeeps.hearing (h : LineKeeps ks Port.listening s t) : LineKeeps ks Port.hearing s t := h.map Prod.fst
theorem LineKeeps.receiver (h : LineKeeps ks Port.hearing s t) : LineKeeps ks Port.receiver s t := h.map Prod.fst

/-- A change of other units than the ports. -/
theorem Keeps.line (h : Keeps ks s t) (hports : t.ports = s.ports) : LineKeeps ks π s t :=
  ⟨h, fun q => by rw [pGet_congr hports]⟩

theorem LineKeeps.ite {c : Prop} [Decidable c] (ht : c → LineKeeps ks π s t) (hu : ¬ c → LineKeeps ks π s u) :
    LineKeeps ks π s (if c then t else u) := by
  split
  · next h => exact ht h
  · next h => exact hu h

/-- A change of port `p` outside the part. -/
theorem lineKeeps_pMap (ks : List Nat) (p : Nat) {f : Port → Port} (s : State)
    (hf : ∀ c, π (f c) = π c := by exact fun _ => rfl) : LineKeeps ks π s (pMap p f s) := by
  refine ⟨keeps_pMap .., fun q => ?_⟩
  by_cases hq : q = p
  · rw [hq, pGet_pMap_same, hf]
  · rw [pMap, pGet_pSet_ne hq]

theorem lineKeeps_bump {f : Fld} {i : Nat} (h : f.key i ∉ ks) (s : State) : LineKeeps ks π s (bump f i s) :=
  (keeps_bump h s).line (by simp)

theorem lineKeeps_put {f : Fld} {i : Nat} (h : f.key i ∉ ks) (v : Nat) (s : State) : LineKeeps ks π s (put f i v s) :=
  (keeps_put h v s).line (by simp)

theorem lineKeeps_setBits {f : Fld} {i : Nat} (h : f.key i ∉ ks) (m : Nat) (s : State) : LineKeeps ks π s (setBits f i m s) :=
  (keeps_setBits h m s).line (by simp)

theorem lineKeeps_raise {q f : Fld} {i : Nat} (hq : q.key 0 ∉ ks) (hf : f.key i ∉ ks) (s : State) :
    LineKeeps ks π s (raise q f i s) := (keeps_raise hq hf s).line (by simp)

end

section

variable {α : Type} {π : Port → α} {ks : List Nat} (h : InPortSpace ks)

theorem lineKeeps_endTxn (ks : List Nat) (p : Nat) (s : State) : LineKeeps ks π s (endTxn p s) := (keeps_endTxn ..).line rfl

theorem lineKeeps_endJob? (ks : List Nat) (j : Option Nat) (s : State) : LineKeeps ks π s (endJob? j s) := by
  refine (keeps_endJob? ..).line ?_
  unfold endJob?
  split <;> rfl

include h

/-- The counters of an outcome stand in the tables of polls, groups and talkers. -/
theorem lineKeeps_countOutcome (i : Nat) (o : Outcome7) (s : State) : LineKeeps ks π s (countOutcome i o s) := by
  have hcount {f : Fld} (hf : 2 ≤ f.space) (j : Nat) (t : State) : LineKeeps ks π t (bump f j t) := lineKeeps_bump (h.later hf) t
  have hpoll (f : Fld) (hf : 2 ≤ f.space) (j : Nat) :
      LineKeeps ks π s (bump GP.POLLS_FAIL j (bump f i s)) := (hcount hf i s).trans (hcount (by decide) ..)
  unfold countOutcome
  cases o with
  | ok => exact (hcount (by decide) ..).trans (hcount (by decide) ..)
  | noReply => exact (hpoll PL.NOREPLY_CNT (by decide) _).trans (hcount (by decide) ..)
  | bad => exact hpoll PL.BAD_CNT (by decide) _
  | wrongTalker => exact hpoll PL.BAD_CNT (by decide) _
  | late =>
    extract_lets g t counted shown
    have hcounted : LineKeeps ks π s counted :=
      (((hcount (f := PL.LATE_CNT) (by decide) ..).trans (hcount (f := GP.LATE_CNT) (by decide) ..)).trans
        (hcount (f := TK.LATE_CNT) (by decide) ..)).trans (lineKeeps_bump (f := RG.POLL_LATE_CNT) h.direct _)
    have hshown : LineKeeps ks π counted shown := lineKeeps_setBits h.later ..
    refine (hcounted.trans hshown).trans (LineKeeps.trans (t := if g < 32 then _ else _) ?_ (lineKeeps_setBits h.direct ..))
    exact .ite (fun _ => lineKeeps_setBits h.direct ..) (fun _ => lineKeeps_setBits h.direct ..)

theorem lineKeeps_endPoll (i : Nat) (o : Outcome7) (seen : Option Nat) (s : State) : LineKeeps ks π s (endPoll i o seen s) := by
  unfold endPoll
  extract_lets r told counted noted ended
  have htold : LineKeeps ks π s told := (lineKeeps_put (f := PL.TRIES_USED) h.later _ s).trans (lineKeeps_put h.later ..)
  have hnoted : LineKeeps ks π counted noted := by
    simp only [noted]
    split
    · exact lineKeeps_put h.later ..
    · exact .refl ..
  have hended : LineKeeps ks π s ended :=
    ((htold.trans (lineKeeps_countOutcome h ..)).trans hnoted).trans ((keeps_groupMap ..).line rfl)
  exact (hended.trans (.ite (fun _ => .refl ..) fun _ => lineKeeps_endJob? ..)).trans ((keeps_plMap ..).line rfl)

theorem lineKeeps_tryFailed (i : Nat) (o : Outcome7) (s : State) : LineKeeps ks π s (tryFailed i o s) :=
  (lineKeeps_endTxn ..).trans (.ite (fun _ => (keeps_plMap ..).line rfl) fun _ => lineKeeps_endPoll h ..)

/-- A request that is lost ends in the scheduler (R192, R549, R771). -/
theorem lineKeeps_ownerLost (p : Nat) (o : Option TxOwner) (s : State) : LineKeeps ks π s (ownerLost p o s) := by
  unfold ownerLost
  split
  · exact .ite (fun _ => lineKeeps_tryFailed h ..) fun _ => .refl ..
  · split
    · exact ((lineKeeps_bump (f := TN.CMD_DROP_CNT) h.later s).trans ((keeps_endJob ..).line rfl)).trans (lineKeeps_endTxn ..)
    · split
      · exact .ite (fun _ => lineKeeps_endTxn ..) fun _ => .refl ..
      · exact .refl ..
  · exact .refl ..

end

/-! A reply that is judged changes its port's reply, and the response windows. -/

section

variable {ks : List Nat} (h : InPortSpace ks)

/-- A response window is no part of what a port listens to. -/
theorem lineKeeps_window (ks : List Nat) (p : Nat) (w : Option Window) (s : State) :
    LineKeeps ks Port.listening s (pMap p (fun c => { c with win := w }) s) := lineKeeps_pMap ks p s

theorem lineKeeps_retireEnding (ks : List Nat) (p : Nat) (s : State) : LineKeeps ks Port.listening s (retireEnding p s) :=
  .ite (fun _ => (lineKeeps_endJob? ..).trans ((keeps_copMap ..).line rfl)) fun _ => .refl ..

/-- A command's job that is met ends, where it is still active. -/
theorem lineKeeps_commandMet (ks : List Nat) (p id : Nat) (s : State) :
    LineKeeps ks Port.listening s (endTxn p (if (activeJob id s).isSome then endJob id (meetJob id s) else s)) :=
  LineKeeps.trans (.ite (fun _ => (Keeps.of_units (t := endJob id (meetJob id s))).line rfl) fun _ => .refl ..) (lineKeeps_endTxn ..)

theorem lineKeeps_serviceRequest (ks : List Nat) (i : Nat) (payload : List Byte) (s : State) :
    LineKeeps ks Port.listening s (serviceRequest i payload s) :=
  .ite (fun _ => (lineKeeps_endTxn ..).trans ((keeps_plMap ..).line rfl)) fun _ => lineKeeps_window ..

include h

theorem lineKeeps_tryOk (i : Nat) (seen : Option Nat) (payload : List Byte) (s : State) :
    LineKeeps ks Port.listening s (tryOk i seen payload s) := by
  have hpoll {t u : State} (f : PollRun → PollRun) (ht : LineKeeps ks Port.listening t u) :
      LineKeeps ks Port.listening t (plMap i f u) := ht.trans ((keeps_plMap ..).line rfl)
  unfold tryOk
  extract_lets p dc ended cmd done
  have hended : LineKeeps ks Port.listening s ended := lineKeeps_endTxn ..
  have hdone : LineKeeps ks Port.listening s done := lineKeeps_endPoll h ..
  refine .ite (fun _ => ?_) fun _ => hended.trans (lineKeeps_endPoll h ..)
  split
  · exact .ite (fun _ => hpoll _ hended) fun _ => hended.trans (lineKeeps_endPoll h ..)
  · split
    · exact lineKeeps_tryFailed h ..
    · refine .ite (fun _ => ?_) fun _ => ?_
      · exact .ite (fun _ => (hpoll _ hdone).trans (lineKeeps_window ..)) fun _ => hdone.trans (lineKeeps_endTxn ..)
      · extract_lets u t
        have ht : LineKeeps ks Port.listening s t := hpoll _ (.refl ..)
        exact .ite (fun _ => ht.trans (lineKeeps_window ..)) fun _ => ht.trans (lineKeeps_endTxn ..)

theorem lineKeeps_judgeTry (i : Nat) (r : Reply) (s : State) : LineKeeps ks Port.listening s (judgeTry i r s) :=
  .ite (fun _ => lineKeeps_tryFailed h ..) fun _ => .ite (fun _ => lineKeeps_tryFailed h ..) fun _ => lineKeeps_tryOk h ..

theorem lineKeeps_judgeReply (p : Nat) (s : State) : LineKeeps ks Port.listening s (judgeReply p s) := by
  unfold judgeReply
  split
  · exact .refl ..
  · extract_lets t
    have ht : LineKeeps ks Port.listening s t := lineKeeps_pMap ks p s
    split
    · exact ht
    · split
      · exact ht.trans (lineKeeps_serviceRequest ..)
      · exact ht.trans (lineKeeps_serviceRequest ..)
      · exact ht.trans (lineKeeps_judgeTry h ..)
    · exact ht.trans (lineKeeps_commandMet ..)

/-- What the scheduler learns leaves what every port listens to (R413, R419). -/
theorem lineKeeps_judge (p : Nat) (s : State) : LineKeeps ks Port.listening s (judge p s) :=
  (lineKeeps_retireEnding ..).trans (lineKeeps_judgeReply h ..)

end

end Sys2Proof.Machine

end

section

/-! ### Records on their way to the line -/

open Sys2Proof.Safety

namespace Sys2Proof.Machine

/-! #### The head of the transmit queue -/

theorem keeps_dropTxAbandoned (ks : List Nat) (p n : Nat) (s : State) : Keeps ks s (dropTxAbandoned p n s) := by
  induction n generalizing s with
  | zero => exact .refl ks s
  | succ n ih =>
    rw [dropTxAbandoned]
    split
    · exact (keeps_dropWords ..).trans (ih _)
    · exact (keeps_dropWords ..).trans (ih _)
    · exact .refl ks s

/-- What never reaches the line leaves the transmit queue, and the port's own fields stand (R549, R559). -/
theorem keeps_clearTxHead {ks : List Nat} (h : InPortSpace ks) (p : Nat) (s : State) : Keeps ks s (clearTxHead p s) := by
  have hdiscard (t : State) : Keeps ks t (txDiscard p t) := by
    unfold txDiscard
    split
    · refine keeps_ite (fun _ => ?_) (.refl ks t)
      have hcounted : Keeps ks t (bump RG.TX_DISC_CNT 0 (discardTxHead p t)) :=
        (keeps_discardTxHead ..).trans (keeps_bump h.direct _)
      exact (hcounted.trans (keeps_raise h.direct h.direct _)).trans (lineKeeps_ownerLost (π := Port.listening) h ..).fields
    · exact .refl ks t
  exact keeps_ite (fun _ => (keeps_dropTxAbandoned ..).trans (hdiscard _)) (.refl ks s)

/-! #### The start of a record -/

/-- Clearing the head of the transmit queue leaves the port enabled. -/
theorem clearTxHead_enabled {p : Nat} {s : State} (hok : portOk s p = true) (hen : get PT.EN p s = 1) (dt : Nat) :
    portOk (clearTxHead p (elapse dt s)) p = true ∧ get PT.EN p (clearTxHead p (elapse dt s)) = 1 := by
  have hp : p < 48 := lt_of_portOk hok
  refine ⟨by simpa [portOk] using hok, ?_⟩
  rw [(keeps_clearTxHead (inPortSpace_one hp) ..).get, get_port_elapse hp, hen]

/-- LDEn is high for LEAD_US before the first character (R186). -/
theorem raiseLde_spec (p : Nat) (s : State) : (pGet p (raiseLde p s)).txq = (pGet p s).txq ∧
    txOf p (raiseLde p s) = { txOf p s with phase := .lead, due := s.now + leadC p s } ∧
    (∀ g j, get g j (raiseLde p s) = get g j s) ∧ (raiseLde p s).now = s.now := by
  refine ⟨?_, ?_, fun _ _ => rfl, rfl⟩
  · rw [raiseLde, txMap, pGet_pMap_same]
  · rw [raiseLde, txOf_txMap]

section

variable {p : Nat} {ws : List QWord} {s : State} (hok : portOk s p = true) (hen : get PT.EN p s = 1)
  (hphase : (txOf p s).phase = .idle) (hready : txReady p s = some ws) (hwanted : (pGet p s).brkWanted = false)

include hok hen hphase hready hwanted

/-- The record is taken at the end of its turnaround gap, and LDEn rises (R185, R186). -/
theorem txRecordStart_lead (htrim : (pGet p s).inTrim = false) (hplain : has (hdrFlags (recWord ws 3)) fBREAK = false) :
    txRecordStart p s = raiseLde p (takeTxRecord p ws (txTakeUp p (runTo (earliestTx p s) s))) := by
  simp [txRecordStart, hok, flag, hen, hphase, hready, hwanted, htrim, hplain]

/-- On a line in trim the record is held (R188). -/
theorem txRecordStart_held (htrim : (pGet p s).inTrim = true) : txRecordStart p s = holdTx p (runTo (earliestTx p s) s) := by
  simp [txRecordStart, hok, flag, hen, hphase, hready, hwanted, htrim]

end

/-- A held record leaves LDEn low, and counts once (R188). -/
theorem holdTx_spec {p : Nat} (hp : p < 48) (s : State) : (txOf p (holdTx p s)).phase = .held ∧
    (pGet p (holdTx p s)).recHeld = true ∧
    (if (pGet p s).recHeld then get PT.TX_HELD p (holdTx p s) = get PT.TX_HELD p s
      else get PT.EV_TX_HELD p (holdTx p s) = 1 ∧ get PT.TX_HELD p (holdTx p s) = PT.TX_HELD.count (get PT.TX_HELD p s) 1) := by
  by_cases hheld : (pGet p s).recHeld = true
  · simp [holdTx, txMap, txOf, hheld]
  · obtain ⟨hevent, hcount, -, -⟩ := countHeld_spec hp s
    simp [holdTx, txMap, txOf, hheld, hevent, hcount]

/-! #### The characters of a record -/

/-- The next character goes on the wire (R140). -/
theorem nextChar_sends {p : Nat} {b : Byte} {r : List Byte} {s : State} (hbytes : (txOf p s).bytes = b :: r)
    (hcut : (txOf p s).cut = false) : nextChar p s = txMap p (fun t => { t with
      phase := .chars, cur := some b, bytes := r, begun := true, due := s.now + cyclesLine (pGet p s).txF.charLine }) s := by
  simp [nextChar, hbytes, hcut]

/-- After the last character, or the cut of the record, the tail begins (R186, R192). -/
theorem nextChar_ends {p : Nat} {s : State} (h : (txOf p s).bytes = [] ∨ (txOf p s).cut = true) :
    nextChar p s = txMap p (fun t => { t with phase := .tail, cur := none, due := s.now + tailC p s }) s := by
  rcases h with h | h <;> simp [nextChar, h]

/-- What is sent next finds the clock at the end of the character, and the line idle from there on (R140). -/
theorem txCharacterDone_chars {p : Nat} {s : State} (hphase : (txOf p s).phase = .chars) : ∃ x,
    txCharacterDone p s = nextChar p x ∧ x.now = max s.now (txOf p s).due ∧ txOf p x = txOf p s ∧
      (pGet p x).lastEnd = some x.now ∧ ∀ g j, get g j x = get g j (runTo (txOf p s).due s) := by
  refine ⟨_, if_pos hphase, ?_, ?_, ?_, fun g j => ?_⟩
  · simp
  · rw [txOf_txTakeUp, txOf, pGet_pMap_same, pGet_runTo, txOf]
  · rw [pGet_txTakeUp]; simp
  · rw [get_txTakeUp, get_pMap]

/-! #### The end of a record -/

theorem retireEnding_ports (p : Nat) (s : State) : (retireEnding p s).ports = s.ports := by
  unfold retireEnding endJob?
  split
  · split <;> rfl
  · rfl

/-- With no TX_BREAK waiting, an idle transmitter stays so (R173). -/
theorem servePendingBreak_idle {p : Nat} {s : State} (h : (pGet p s).brkWanted = false) : servePendingBreak p s = s := by
  simp [servePendingBreak, h]

/-- LDEn falls: the transmitter is idle (R186). -/
theorem lowerLde_spec (p : Nat) (s : State) : (lowerLde p s).now = s.now ∧ (lowerLde p s).cop = s.cop ∧
    txOf p (lowerLde p s) = Tx.idle ∧ (pGet p (lowerLde p s)).brkWanted = (pGet p s).brkWanted ∧
    ∀ g j, get g j (lowerLde p s) = get g j s := by
  have hport (f : Port → Port) (g : Queue → Queue) : pGet p (qMap (48 + p) g (pMap p f s)) = f (pGet p s) :=
    (pGet_congr (by simp) p).trans (pGet_pMap_same ..)
  refine ⟨by simp [lowerLde], by rw [lowerLde, txTakeUp_units]; simp, ?_, ?_, fun g j => ?_⟩
  · rw [lowerLde, txOf_txTakeUp, txOf, hport]
  · rw [lowerLde, pGet_txTakeUp, hport]
  · rw [lowerLde, get_txTakeUp, get_qMap, get_pMap]

/-- At the end of the tail the request that was sent goes to the scheduler, and the next render waits (R186, R413, R590). -/
theorem txTailEnd_tail {p : Nat} {s : State} (hphase : (txOf p s).phase = .tail) : ∃ x,
    txTailEnd p s = servePendingBreak p (requestSent p (txOf p s) (retireEnding p x)) ∧ x.now = max s.now (txOf p s).due ∧
      txOf p x = Tx.idle ∧ (pGet p x).brkWanted = (pGet p s).brkWanted ∧ x.cop = s.cop ∧
      (pGet p x).renderAfter = x.now + cyclesUs (get PT.LST_GAP_US p (runTo (txOf p s).due s)) ∧
      ∀ g j, get g j x = get g j (runTo (txOf p s).due s) := by
  obtain ⟨hnow, hcop, hidle, hwanted, hget⟩ := lowerLde_spec p (runTo (txOf p s).due s)
  generalize hx : lowerLde p (runTo (txOf p s).due s) = x at hnow hcop hidle hwanted hget
  refine ⟨pMap p (fun c => { c with renderAfter := x.now + cyclesUs (get PT.LST_GAP_US p x) }) x, ?_, ?_, ?_, ?_, ?_, ?_, hget⟩
  · simp [txTailEnd, hphase, hx]
  · simp [hnow]
  · rw [txOf, pGet_pMap_same]; exact hidle
  · rw [pGet_pMap_same]; exact hwanted.trans (by simp)
  · simp [hcop]
  · rw [pGet_pMap_same, hget]; rfl

/-- A request that asks for a reply opens its response window (R413). -/
theorem requestSent_opens {p i : Nat} {t : Tx} {s : State} (howner : t.owner = some (.poll i)) (htxn : (copGet p s).txn = .poll i)
    (hcut : t.cut = false) (hreply : get PL.NO_REPLY i s = 0) :
    requestSent p t s = openWindow p (pollTalker i s) (some (s.now + cyclesMs (get PL.RESP_TO_MS i s))) s := by
  simp [requestSent, howner, htxn, hcut, flag, hreply]

end Sys2Proof.Machine

section

open Sys2Proof Sys2Proof.Machine

/-- Settles O20, row by row: the start of a record and its hold, its characters, and its tail. -/
theorem recordsAreTransmitted : Obligations.RecordsAreTransmitted := by
  refine ⟨?start, ?held, ?lead, ?next, ?last, ?tail, ?window⟩
  case start =>
    intro dt p ws s hok hen hphase hready hwanted hidle htrim hplain
    have hnow := (keeps_clearTxHead inPortSpace_nil p (elapse dt s)).now.trans (elapse_now ..)
    obtain ⟨hok', hen'⟩ := clearTxHead_enabled hok hen dt
    refine ⟨_, congrArg Host.Outcome.next (txRecordStart_lead hok' hen' hidle hready hwanted htrim hplain), ?_⟩
    generalize clearTxHead p (elapse dt s) = c at hnow ⊢
    have htaken := keeps_takeTxRecord inPortSpace_nil p ws (txTakeUp p (runTo (earliestTx p c) c))
    have hport := pGet_takeTxRecord p ws (txTakeUp p (runTo (earliestTx p c) c))
    generalize takeTxRecord p ws (txTakeUp p (runTo (earliestTx p c) c)) = x at htaken hport ⊢
    obtain ⟨hraised, htx, hlead, hnow'⟩ := raiseLde_spec p x
    refine ⟨?_, ?_, ?_, ?_, ?_⟩
    · simpa [hnow', hnow] using htaken.now
    · rw [htx]
    · rw [htx, hnow', hlead]; rfl
    · rw [htx, txOf, hport]
    · rw [hraised, hport, pGet_txTakeUp, pGet_runTo]
  case held =>
    intro dt p ws s hok hen hphase hready hwanted hidle htrim
    have hp : p < 48 := lt_of_portOk hok
    obtain ⟨hok', hen'⟩ := clearTxHead_enabled hok hen dt
    have hheld := txRecordStart_held hok' hen' hidle hready hwanted htrim
    obtain ⟨hphase', hrec, hcount⟩ := holdTx_spec hp (runTo (earliestTx p (clearTxHead p (elapse dt s))) (clearTxHead p (elapse dt s)))
    rw [get_port_runTo hp, pGet_runTo] at hcount
    exact ⟨_, congrArg Host.Outcome.next hheld, hphase', hrec, hcount⟩
  case lead =>
    intro p b r s hphase hbytes hcut
    have hsend : leadEnd p s = _ :=
      (if_pos hphase).trans (nextChar_sends (s := runTo (txOf p s).due s) (by simpa using hbytes) (by simpa using hcut))
    obtain ⟨hkeeps, hports, -⟩ := countSent_keeps inPortSpace_nil p (txOf p s) (leadEnd p s)
    have hnow : (leadEnd p s).now = max s.now (txOf p s).due := by rw [hsend]; simp
    refine ⟨_, rfl, hkeeps.now.trans hnow, ?_⟩
    rw [txOf_congr hports, hkeeps.now, hsend, txOf_txMap]
    simp
  case next =>
    intro p b r s hphase hbytes hcut
    obtain ⟨x, hx, hnow, htx, hlast, -⟩ := txCharacterDone_chars hphase
    have hsend := hx.trans (nextChar_sends (by rw [htx, hbytes]) (by rw [htx, hcut]))
    refine ⟨_, congrArg Host.Outcome.next hsend, hnow, ?_, ?_⟩
    · rw [txMap, pGet_pMap_same]; exact hlast
    · rw [txOf_txMap]; exact ⟨rfl, rfl, rfl⟩
  case last =>
    intro p s hp hphase hend
    obtain ⟨x, hx, hnow, htx, -, hget⟩ := txCharacterDone_chars hphase
    have hlast := hx.trans (nextChar_ends (by rwa [htx]))
    rw [tailC, hget, get_port_runTo hp] at hlast
    refine ⟨_, congrArg Host.Outcome.next hlast, hnow, ?_⟩
    rw [txOf_txMap]
    exact ⟨rfl, rfl, rfl⟩
  case tail =>
    intro p s hp hphase hwanted howner
    obtain ⟨x, hx, hnow, htx, hwanted', -, hrender, -⟩ := txTailEnd_tail hphase
    have hports := pGet_congr (retireEnding_ports p x) p
    have hidle : txTailEnd p s = retireEnding p x := by
      rw [hx, requestSent, howner]
      exact servePendingBreak_idle (by rw [hports, hwanted', hwanted])
    rw [get_port_runTo hp] at hrender
    refine ⟨_, congrArg Host.Outcome.next hidle, ?_, ?_, ?_⟩
    · simpa using hnow
    · rw [txOf, hports]; exact htx
    · rw [hports]; simpa using hrender
  case window =>
    intro p i s hp hi hphase hwanted howner hcut htxn hreply hending
    obtain ⟨x, hx, hnow, htx, hwanted', hcop, -, hget⟩ := txTailEnd_tail hphase
    have hretire : retireEnding p x = x := by simp [retireEnding, copGet_congr hcop, hending]
    have hpoll {f : Fld} (hf : f.space = 6 ∧ f.stride = 16 ∧ f.word < 16 ∧ f.lo < 32) :
        get f i x = get f i s := by
      obtain ⟨hspace, hstride, hword, hlo⟩ := hf
      refine (hget f i).trans (get_runTo (not_timeKeys (.inl ?_)) ..)
      unfold Fld.key
      rw [hspace, hstride]
      omega
    have hsent := requestSent_opens howner ((congrArg CopPort.txn (copGet_congr hcop p)).trans htxn) hcut ((hpoll (by decide)).trans hreply)
    rw [pollTalker, hpoll (by decide), hpoll (by decide), ← pollTalker] at hsent
    have hopen : txTailEnd p s = openWindow p (pollTalker i s) (some (x.now + cyclesMs (get PL.RESP_TO_MS i s))) x := by
      rw [hx, hretire, hsent]
      exact servePendingBreak_idle (by rw [openWindow, pGet_pMap_same]; exact hwanted'.trans hwanted)
    refine ⟨_, congrArg Host.Outcome.next hopen, ?_, ?_⟩
    · rw [openWindow, txOf, pGet_pMap_same]; exact htx
    · rw [openWindow, pGet_pMap_same]; rfl

end

end

section

/-! ### What a sentence leaves of its receiver -/

open Sys2Proof.Safety

namespace Sys2Proof.Machine

/-- The fields of a port that change as a record closes, but for its count and GE_UNTERMINATED. -/
def closingFields : List Fld :=
  [PT.LEAN_CLAMP_CNT, PT.EV_LEAN_CLAMP, PT.CK_BAD_CNT, PT.GE_CHECKSUM_BAD, PT.UNTERM_CNT, PT.GE_LONG]

/-- The fields of a port that a character, and the end of its sentence, can change. -/
def grammarFields : List Fld :=
  closingFields ++ [PT.RECORD_CNT, PT.GE_UNTERMINATED, PT.MARK_ABANDON_CNT, PT.GE_MARK_ABANDON, PT.EV_OVERRUN, PT.NOISE_CNT,
    PT.GE_NOISE, PT.TRUNC_CNT, PT.GE_TRUNCATED, PT.T15_CNT, PT.GE_T15]

/-- Two lists of fields of a port that share no place. -/
theorem not_mem_keys {fs gs : List Fld} (p : Nat) (hg : ∀ f ∈ fs, ∀ g ∈ gs,
    f.space = g.space ∧ f.stride = g.stride ∧ f.word * 32 + f.lo ≠ g.word * 32 + g.lo := by decide) :
    ∀ f ∈ fs, f.key p ∉ gs.map (·.key p) := by
  intro f hf hk
  obtain ⟨g, hmem, hkey⟩ := List.mem_map.mp hk
  exact port_key_ne p (hg f hf g hmem) hkey.symm

/-! #### The receive queue -/

section

variable {α : Type} {π : Port → α} {ks : List Nat} (h : InPortSpace ks)

include h

/-- A receive queue writes no field of a port. -/
theorem InPortSpace.queueKeys (q : Nat) : ∀ k ∈ queueKeys q, k ∉ ks := by
  simp only [Machine.queueKeys, List.mem_cons, List.not_mem_nil, or_false]
  rintro k (rfl | rfl | rfl | rfl | rfl | rfl | rfl | rfl | rfl)
  · exact h.direct
  · exact h.direct
  all_goals exact h.later

theorem lineKeeps_placeWords (p k : Nat) (ws : List QWord) (final : Bool) (s : State) :
    LineKeeps ks π s (placeWords p k ws final s) := by
  have hoffer (l : List QWord) (t : State) : Keeps ks t (offer p (.line p) l t) :=
    ⟨by simp, by simp, by simp, fun _ _ hk => get_offer (fun hm => h.queueKeys p _ hm hk) ..⟩
  refine Keeps.line ?_ (by simp)
  exact Keeps.trans (t := patchRecord p (.line p) (if ws.length ≤ k then ws else ws.take k) (final && decide (ws.length ≤ k)) s)
    .of_units (hoffer ..)

/-- A move takes bytes, and leaves what the port hears. -/
theorem lineKeeps_moveOpen (p : Nat) (s : State) : LineKeeps ks Port.hearing s (moveOpen p s) := by
  unfold moveOpen
  extract_lets moved
  have hmoved : LineKeeps ks Port.hearing s moved := by
    simp only [moved]
    split
    · exact .refl ..
    · exact .ite (fun _ => .refl ..) fun _ => (lineKeeps_placeWords h ..).trans (lineKeeps_pMap ..)
  exact .ite (fun _ => hmoved.trans (lineKeeps_pMap ..)) fun _ => hmoved

theorem lineKeeps_moveOn (p : Nat) (l : List Closed) (s : State) : LineKeeps ks Port.hearing s (moveOn p l s) := by
  induction l generalizing s with
  | nil => exact lineKeeps_moveOpen h p s
  | cons c l ih =>
    have hplaced := lineKeeps_placeWords (π := Port.hearing) h p (offeredWords c.placed c.moved) (lineWords c.hdr c.bytes true) true s
    exact .ite (fun _ => (hplaced.trans (lineKeeps_pMap ks p _)).trans (ih (finishClosed p c _))) fun _ =>
      hplaced.trans (lineKeeps_pMap ..)

theorem lineKeeps_stagingMove (p : Nat) (s : State) : LineKeeps ks Port.hearing s (stagingMove p s) := by
  have hstep (t : State) : LineKeeps ks Port.hearing t (moveStep p t) :=
    .ite (fun _ => lineKeeps_moveOn h ..) fun _ => .refl ..
  exact .ite (fun _ => .refl ..) fun _ => .ite (fun _ => hstep _) fun _ =>
    .ite (fun _ => (lineKeeps_pMap ..).trans (hstep _)) fun _ => .refl ..

end

/-- A move opens no sentence. -/
theorem moveOn_open_none (p : Nat) (l : List Closed) {s : State} (hopen : (pGet p s).open_ = none) :
    (pGet p (moveOn p l s)).open_ = none := by
  induction l generalizing s with
  | nil =>
    obtain ⟨-, o, hnone, hport⟩ := moveOpen_spec p s
    rw [moveOn, hport, Port.moved]
    split <;> exact hnone hopen
  | cons c l ih =>
    rw [moveOn]
    split
    · exact ih (by simpa [finishClosed] using hopen)
    · simpa using hopen

/-! #### The end of a sentence -/

/-- A flag that is set stays set with others. -/
theorem has_or_left {a m : Nat} (b : Nat) (h : has a m = true) : has (a ||| b) m = true := by
  obtain ⟨hm, hne⟩ : a &&& m = m ∧ m ≠ 0 := by simpa [has] using h
  have hor : (a ||| b) &&& m = m := by
    rw [Nat.and_or_distrib_right, hm]
    exact Nat.eq_of_testBit_eq fun i => by cases hbit : m.testBit i <;> simp [hbit]
  simpa [has] using ⟨hor, hne⟩

theorem has_or_right {b m : Nat} (a : Nat) (h : has b m = true) : has (a ||| b) m = true := Nat.or_comm b a ▸ has_or_left a h

/-- A sentence closes: its record is measured, counted once, marked, and goes on its way (R278, R283, R288). -/
def Closes (ks : List Nat) (p extra : Nat) (s t : State) : Prop :=
  ∃ flags measured checked, (has extra fUNTERM = true → has flags fUNTERM = true) ∧
    LineKeeps ks Port.hearing s measured ∧ LineKeeps ks Port.hearing (bump PT.RECORD_CNT p measured) checked ∧
    LineKeeps ks Port.hearing (if has flags fUNTERM then raise RG.IRQ_GRAMMAR PT.GE_UNTERMINATED p checked else checked) t

section

variable {ks : List Nat} {p : Nat} (h : InPortSpace ks) (hks : ∀ f ∈ closingFields, f.key p ∉ ks)

include h hks

theorem lineKeeps_creditLean (t : Nat) (m : Int) (s : State) : LineKeeps ks Port.hearing s (creditLean p t m s) := by
  have hput {f : Fld} (hf : 2 ≤ f.space) (v : Nat) (u : State) : LineKeeps ks Port.hearing u (putHw f t v u) := by
    unfold putHw
    exact .ite (fun _ => .refl ..) fun _ => lineKeeps_put (h.later hf) v u
  refine .ite (fun _ => .refl ..) fun _ => ?_
  extract_lets l new c clamped
  have hclamped : LineKeeps ks Port.hearing s clamped := .ite (fun _ =>
    (lineKeeps_bump (f := PT.LEAN_CLAMP_CNT) (hks _ (by decide)) s).trans (lineKeeps_raise h.direct (hks _ (by decide)) _))
      fun _ => .refl ..
  exact (hclamped.trans (hput (by decide) ..)).trans (hput (by decide) ..)

theorem lineKeeps_measureLean (r : OpenRec) (flags talker : Nat) (s : State) :
    LineKeeps ks Port.hearing s (measureLean p r flags talker s) := by
  unfold measureLean
  refine .ite (fun _ => .ite (fun _ => lineKeeps_creditLean h hks ..) fun _ => ?_) fun _ => .refl ..
  split
  · exact .ite (fun _ => lineKeeps_creditLean h hks ..) fun _ => .refl ..
  · exact lineKeeps_creditLean h hks ..

theorem closeRecord_closes {r : OpenRec} {s : State} (hopen : (pGet p s).open_ = some r) (extra : Nat) (markEdge : Option Stamp) :
    Closes ks p extra s (closeRecord p extra markEdge s) := by
  unfold closeRecord
  split
  · next hnone => rw [hopen] at hnone; cases hnone
  · next r' _ =>
    extract_lets g pre late ck flags key talker stamp stamp' hdr measured recorded checked unterm counted long seen before c closed
    have hchecked : LineKeeps ks Port.hearing recorded checked := .ite (fun _ =>
      (lineKeeps_bump (f := PT.CK_BAD_CNT) (hks _ (by decide)) _).trans (lineKeeps_raise h.direct (hks _ (by decide)) _))
        fun _ => .refl ..
    have hcounted : LineKeeps ks Port.hearing unterm counted :=
      .ite (fun _ => lineKeeps_bump (hks _ (by decide)) _) fun _ => .refl ..
    have hlong : LineKeeps ks Port.hearing counted long :=
      .ite (fun _ => lineKeeps_raise h.direct (hks _ (by decide)) _) fun _ => .refl ..
    have hseen : LineKeeps ks Port.hearing long seen :=
      .ite (fun _ => (lineKeeps_put h.later ..).trans (lineKeeps_bump h.later _)) fun _ => .refl ..
    have hclosed : LineKeeps ks Port.hearing unterm closed := ((hcounted.trans hlong).trans hseen).trans (lineKeeps_pMap ..)
    refine ⟨flags, measured, checked, fun hmark => ?_, lineKeeps_measureLean h hks .., hchecked, ?_⟩
    · simp only [flags]
      exact has_or_left _ (has_or_left _ (has_or_left _ (has_or_right _ hmark)))
    · exact .ite (fun _ => hclosed.trans (lineKeeps_moveOn h ..)) fun _ => hclosed.trans (lineKeeps_pMap ..)

end

/-- A sentence that closes is open no longer. -/
theorem closeRecord_open (p extra : Nat) (markEdge : Option Stamp) (s : State) :
    (pGet p (closeRecord p extra markEdge s)).open_ = none := by
  unfold closeRecord
  split
  · next hnone => exact hnone
  · extract_lets g pre late ck flags key talker stamp stamp' hdr measured recorded checked unterm counted long seen before c closed
    have hclosed : (pGet p closed).open_ = none := by rw [pGet_pMap_same]
    split
    · exact moveOn_open_none p _ hclosed
    · rw [pGet_pMap_same]; exact hclosed

theorem closeRecord_of_none {p : Nat} {s : State} (hopen : (pGet p s).open_ = none) (extra : Nat) (markEdge : Option Stamp) :
    closeRecord p extra markEdge s = s := by
  unfold closeRecord
  rw [hopen]

section

variable {ks : List Nat} {p : Nat} (h : InPortSpace ks) (hks : ∀ f ∈ grammarFields, f.key p ∉ ks)

/-- A record that its producer leaves open goes from the queue alone (R678). -/
theorem dropOpen_ports (q : Nat) (pr : Producer) (s : State) : (dropProducer q pr (discardOpen q pr s)).ports = s.ports := by
  unfold dropProducer discardOpen
  dsimp only
  split <;> rfl

/-- An abandoned Mark sentence is counted and shown, and its words leave the receive queue (R321). -/
theorem abandonMark_of_open {r : OpenRec} {s : State} (hopen : (pGet p s).open_ = some r) (hmark : grammar p s = 4) (ks : List Nat) :
    ∃ x, LineKeeps ks Port.hearing s x ∧ (pGet p x).open_ = none ∧
      abandonMark p s = raise RG.IRQ_GRAMMAR PT.GE_MARK_ABANDON p (bump PT.MARK_ABANDON_CNT p x) := by
  have hwords : LineKeeps ks Port.hearing s (if r.placed then dropProducer p (.line p) (discardOpen p (.line p) s) else s) := by
    refine .ite (fun _ => ?_) fun _ => .refl ..
    exact Keeps.line ((keeps_discardOpen ..).trans (keeps_qMap ..)) (dropOpen_ports ..)
  refine ⟨_, hwords.trans (lineKeeps_pMap ks p (f := fun c => { c with
    open_ := none, stage := c.stage.map (fun x => { x with payload := false }), nextFlags := c.nextFlags ||| r.carried }) _), ?_, ?_⟩
  · rw [pGet_pMap_same]
  · simp [abandonMark, hopen, hmark]

theorem abandonMark_of_none {s : State} (hopen : (pGet p s).open_ = none) : abandonMark p s = s := by
  unfold abandonMark
  rw [hopen]

theorem abandonMark_of_other {s : State} (hother : grammar p s ≠ 4) : abandonMark p s = s := by
  unfold abandonMark
  split <;> simp [hother]

include h hks

theorem lineKeeps_closeRecord (extra : Nat) (markEdge : Option Stamp) (s : State) :
    LineKeeps ks Port.hearing s (closeRecord p extra markEdge s) := by
  cases hopen : (pGet p s).open_ with
  | none => rw [closeRecord_of_none hopen]; exact .refl ..
  | some r =>
    have hclosing : ∀ f ∈ closingFields, f.key p ∉ ks := fun f hf => hks f (List.mem_append_left _ hf)
    obtain ⟨flags, measured, checked, -, hmeasured, hchecked, hclosed⟩ := closeRecord_closes h hclosing hopen extra markEdge
    exact ((hmeasured.trans (lineKeeps_bump (hks _ (by decide)) _)).trans hchecked).trans
      (LineKeeps.trans (.ite (fun _ => lineKeeps_raise h.direct (hks _ (by decide)) _) fun _ => .refl ..) hclosed)

theorem lineKeeps_abandonMark (s : State) : LineKeeps ks Port.hearing s (abandonMark p s) := by
  by_cases hmark : grammar p s = 4
  · cases hopen : (pGet p s).open_ with
    | none => rw [abandonMark_of_none hopen]; exact .refl ..
    | some r =>
      obtain ⟨x, hx, -, hcounted⟩ := abandonMark_of_open hopen hmark ks
      rw [hcounted]
      exact (hx.trans (lineKeeps_bump (hks _ (by decide)) _)).trans (lineKeeps_raise h.direct (hks _ (by decide)) _)
  · rw [abandonMark_of_other hmark]; exact .refl ..

/-! A boundary, a cut and a restart leave the receiver. -/

theorem lineKeeps_closeLate (extra : Nat) (ended : Bool) (s : State) : LineKeeps ks Port.receiver s (closeLate p extra ended s) :=
  .ite (fun _ => (lineKeeps_closeRecord h hks ..).receiver.trans (lineKeeps_pMap ..)) fun _ => lineKeeps_pMap ..

theorem lineKeeps_truncate (s : State) : LineKeeps ks Port.receiver s (truncate p s) := by
  refine .ite (fun _ => (lineKeeps_abandonMark h hks s).receiver) fun _ => ?_
  have hcut : LineKeeps ks Port.receiver s (raise RG.IRQ_GRAMMAR PT.GE_TRUNCATED p (bump PT.TRUNC_CNT p s)) :=
    (lineKeeps_bump (hks _ (by decide)) _).trans (lineKeeps_raise h.direct (hks _ (by decide)) _)
  exact (hcut.trans (lineKeeps_closeRecord h hks ..).receiver).trans (lineKeeps_pMap ..)

/-! #### A character of the sentence, and one outside -/

theorem lineKeeps_loseByte31 (s : State) : LineKeeps ks Port.receiver s (loseByte31 p s) :=
  (lineKeeps_pMap ..).trans (lineKeeps_raise h.direct (hks _ (by decide)) _)

theorem lineKeeps_freeByte (s : State) : LineKeeps ks Port.receiver s (freeByte p s) :=
  .ite (fun _ => .refl ..) fun _ => lineKeeps_loseByte31 h hks s

theorem lineKeeps_stageByte (b : Byte) (payload : Bool) (s : State) : LineKeeps ks Port.receiver s (stageByte p b payload s) :=
  (lineKeeps_freeByte h hks s).trans (lineKeeps_pMap ..)

theorem lineKeeps_discardClosed (s : State) : LineKeeps ks Port.receiver s (discardClosed p s) :=
  (lineKeeps_pMap ..).trans (lineKeeps_raise h.direct (hks _ (by decide)) _)

theorem lineKeeps_countNoise (s : State) : LineKeeps ks Port.receiver s (countNoise p s) :=
  (lineKeeps_bump (hks _ (by decide)) _).trans (lineKeeps_raise h.direct (hks _ (by decide)) _)

theorem lineKeeps_appendChar (b : Byte) (flags : Nat) (lean : LeanSum) (leaned : Bool) (s : State) :
    LineKeeps ks Port.receiver s (appendChar p b flags lean leaned s) :=
  ((lineKeeps_freeByte h hks s).trans (lineKeeps_pMap ..)).trans (lineKeeps_stageByte h hks ..)

theorem lineKeeps_nmeaRestart (b : Byte) (s : State) : LineKeeps ks Port.receiver s (nmeaRestart p b s) :=
  .ite (fun _ => (lineKeeps_freeByte h hks s).trans (lineKeeps_closeRecord h hks ..).receiver) fun _ => .refl ..

theorem lineKeeps_modbusGap (f : Fmt) (gap : Option Nat) (s : State) : LineKeeps ks Port.receiver s (modbusGap p f gap s) := by
  unfold modbusGap
  split
  · refine .ite (fun _ => .refl ..) fun _ => .ite (fun _ => .ite (fun _ => ?_) fun _ => .refl ..)
      fun _ => .ite (fun _ => ?_) fun _ => .refl ..
    · exact ((lineKeeps_closeRecord h hks ..).trans (lineKeeps_stagingMove h ..)).receiver
    · exact (lineKeeps_bump (hks _ (by decide)) _).trans (lineKeeps_raise h.direct (hks _ (by decide)) _)
  · exact .refl ..

omit h hks in
theorem lineKeeps_openRecord (ks : List Nat) (edge : Stamp) (s : State) : LineKeeps ks Port.receiver s (openRecord p edge s) := by
  have htaken : LineKeeps ks Port.receiver s (takeNextFlags p s).2 :=
    lineKeeps_pMap ks p (f := fun c => { c with nextFlags := 0 }) s
  unfold openRecord
  dsimp only
  exact htaken.trans (lineKeeps_pMap ..)

/-- A reply that a boundary cuts closes at the character in progress, where there is one. -/
theorem lineKeeps_closeWaiting (s : State) :
    LineKeeps ks Port.receiver s (if (pGet p s).lateClose then closeLate p 0 true s else s) :=
  .ite (fun _ => lineKeeps_closeLate h hks ..) fun _ => .refl ..

theorem lineKeeps_insideChar (b : Byte) (edge : Stamp) (flags : Nat) (lean : LeanSum) (leaned : Bool) (s : State) :
    LineKeeps ks Port.receiver s (insideChar p b edge flags lean leaned s) := by
  unfold insideChar
  extract_lets g appended waited
  have happended : LineKeeps ks Port.receiver s appended := lineKeeps_appendChar h hks ..
  have hwaited : LineKeeps ks Port.receiver s waited := happended.trans (lineKeeps_closeWaiting h hks _)
  exact .ite (fun _ => happended.trans (lineKeeps_closeLate h hks ..)) fun _ =>
    .ite (fun _ => hwaited.trans (lineKeeps_closeRecord h hks ..).receiver) fun _ =>
      .ite (fun _ => hwaited.trans (lineKeeps_truncate h hks _)) fun _ => hwaited

theorem lineKeeps_outsideChar (b : Byte) (s : State) : LineKeeps ks Port.receiver s (outsideChar p b s) := by
  unfold outsideChar
  extract_lets g noisy staged waited
  have hnoise : LineKeeps ks Port.receiver s (if noisy then countNoise p s else s) :=
    .ite (fun _ => lineKeeps_countNoise h hks s) fun _ => .refl ..
  have hwaited : LineKeeps ks Port.receiver s waited :=
    (hnoise.trans (lineKeeps_stageByte h hks ..)).trans (lineKeeps_closeWaiting h hks staged)
  exact .ite (fun _ => hwaited.trans (lineKeeps_pMap ..)) fun _ => hwaited

/-- The grammar unit takes a completed character, and the receiver stands. -/
theorem lineKeeps_grammarChar (b : Byte) (edge : Stamp) (flags : Nat) (lean : LeanSum) (leaned : Bool) (f : Fmt) (gap : Option Nat)
    (s : State) : LineKeeps ks Port.receiver s (grammarChar p b edge flags lean leaned f gap s) := by
  unfold grammarChar
  extract_lets parted discarded g restarted starts opened
  have hparted : LineKeeps ks Port.receiver s parted := lineKeeps_modbusGap h hks ..
  have hopened : LineKeeps ks Port.receiver s opened := (hparted.trans (lineKeeps_nmeaRestart h hks ..)).trans
    (.ite (fun _ => (lineKeeps_pMap ks p _).trans (lineKeeps_openRecord ..)) fun _ => .refl ..)
  refine .ite (fun _ => ?_) fun _ => .ite (fun _ => ?_) fun _ => ?_
  · exact (hparted.trans (lineKeeps_discardClosed h hks _)).trans (.ite (fun _ => lineKeeps_closeLate h hks ..) fun _ => .refl ..)
  · exact hopened.trans (lineKeeps_outsideChar h hks ..)
  · exact hopened.trans (lineKeeps_insideChar h hks ..)

end

end Sys2Proof.Machine

end

section

/-! ### The timers of an open sentence -/

open Sys2Proof.Safety

namespace Sys2Proof.Machine

/-- The open sentence of port `p` has ended as one record, at no cost of time (R278, R288). -/
structure SentenceEnds (p : Nat) (s t : State) : Prop where
  open_ : (pGet p t).open_ = none
  now : t.now = s.now
  counted : get PT.RECORD_CNT p t = (get PT.RECORD_CNT p s + 1) % 2 ^ 32

theorem closeRecord_ends {p : Nat} (hp : p < 48) {r : OpenRec} {s : State} (hopen : (pGet p s).open_ = some r) (extra : Nat)
    (markEdge : Option Stamp) : SentenceEnds p s (closeRecord p extra markEdge s) := by
  obtain ⟨flags, measured, checked, -, hmeasured, hchecked, hclosed⟩ := closeRecord_closes (inPortSpace_one hp)
    (not_mem_keys (gs := [PT.RECORD_CNT]) p) hopen extra markEdge
  refine ⟨closeRecord_open .., by simp, ?_⟩
  have hmarked : get PT.RECORD_CNT p (if has flags fUNTERM then raise RG.IRQ_GRAMMAR PT.GE_UNTERMINATED p checked else checked) =
      get PT.RECORD_CNT p checked := by
    split
    · exact get_raise_ne (port_key_ne_direct hp) (port_key_ne p) checked
    · rfl
  rw [hclosed.fields.get, hmarked, hchecked.fields.get, get_bump_same, hmeasured.fields.get]
  rfl

theorem closeRecord_discard {p : Nat} (extra : Nat) (markEdge : Option Stamp) (s : State) :
    (pGet p (closeRecord p extra markEdge s)).discard = (pGet p s).discard :=
  congrArg Prod.snd ((lineKeeps_closeRecord inPortSpace_nil (fun _ _ => List.not_mem_nil) extra markEdge s).ports p)

/-- UNTERMINATED shows in GE_UNTERMINATED (R285, Table 5-2). -/
theorem closeRecord_unterminated {p : Nat} (hp : p < 48) {r : OpenRec} {s : State} (hopen : (pGet p s).open_ = some r) {extra : Nat}
    (hextra : has extra fUNTERM = true) (markEdge : Option Stamp) :
    get PT.GE_UNTERMINATED p (closeRecord p extra markEdge s) = 1 := by
  obtain ⟨flags, measured, checked, hmark, -, -, hclosed⟩ := closeRecord_closes (inPortSpace_one hp)
    (not_mem_keys (gs := [PT.GE_UNTERMINATED]) p) hopen extra markEdge
  rw [hclosed.fields.get, if_pos (hmark hextra)]
  exact (get_raise_one rfl rfl (port_key_ne_direct hp) checked).1

/-! What the scheduler learns then leaves the sentence ended. -/

theorem judge_listening (p : Nat) (s : State) :
    (pGet p (judge p s)).open_ = (pGet p s).open_ ∧ (pGet p (judge p s)).discard = (pGet p s).discard := by
  have hports := (lineKeeps_judge inPortSpace_nil p s).ports p
  exact ⟨congrArg Prod.snd hports, congrArg (fun v => v.1.2) hports⟩

theorem get_judge {f : Fld} {p : Nat} (hp : p < 48)
    (hf : f.space = 1 ∧ f.stride = 32 ∧ f.word < 32 ∧ f.lo < 32 := by decide) (s : State) :
    get f p (judge p s) = get f p s := (lineKeeps_judge (inPortSpace_one hp hf) p s).fields.get

theorem SentenceEnds.judged {p : Nat} (hp : p < 48) {s t : State} (h : SentenceEnds p s t) : SentenceEnds p s (judge p t) :=
  ⟨(judge_listening p t).1.trans h.open_, by rw [(judge_still p t).1, h.now], by rw [get_judge hp, h.counted]⟩

/-! #### The limits -/

/-- The move of staged bytes is asked for where there are any (R178). -/
theorem moveAsked_spec (p : Nat) (s : State) : ∃ x,
    x = (if (pGet p s).stage.isEmpty then s else pMap p (fun c => { c with moveReq := true }) s) ∧ x.now = s.now ∧
      pGet p x = { pGet p s with moveReq := (pGet p s).moveReq || !(pGet p s).stage.isEmpty } ∧ x.cop = s.cop ∧
      ∀ g j, get g j x = get g j s := by
  refine ⟨_, rfl, ?_⟩
  split
  · next hempty => simp [hempty]
  · next hstaged => simp [hstaged]

/-- RX_TIMEOUT asks for the move of what is staged, and ends a RAW sentence with its discarding (R178, R179, R291). -/
theorem rxTimeout_passes {p l : Nat} {s : State} (hlast : (pGet p s).lastRx = some l)
    (hstarted : startedBefore p (rxDue p l s) s = false) : ∃ x, x.now = max s.now (rxDue p l s) ∧
      pGet p x = { pGet p s with moveReq := (pGet p s).moveReq || !(pGet p s).stage.isEmpty } ∧ x.cop = s.cop ∧
      (∀ g j, get g j x = get g j (runTo (rxDue p l s) s)) ∧
      rxTimeout p s = if grammar p x = 0 then
        pMap p (fun c => { c with discard := false, discardNoise := false }) (closeRecord p 0 none x) else x := by
  obtain ⟨x, hx, hnow, hport, hcop, hget⟩ := moveAsked_spec p (runTo (rxDue p l s) s)
  refine ⟨x, hnow.trans (runTo_now ..), by rw [hport, pGet_runTo], hcop.trans (by simp), hget, ?_⟩
  unfold rxTimeout
  rw [hlast, hx]
  exact if_neg (by simpa [rxDue] using hstarted)

/-- A start bit that was validated before cancels it (R178). -/
theorem rxTimeout_cancelled {p l : Nat} {s : State} (hlast : (pGet p s).lastRx = some l)
    (hstarted : startedBefore p (rxDue p l s) s = true) : rxTimeout p s = s := by
  unfold rxTimeout
  rw [hlast]
  exact if_pos hstarted

theorem t35Expiry_passes {p e : Nat} {s : State} (hidle : (pGet p s).idleFrom = some e)
    (hedge : edgeBefore p (t35Due p e s) s = false) (hgrammar : grammar p s = 2) : t35Expiry p s =
      closeRecord p 0 none (pMap p (fun c => { c with discard := false, discardNoise := false }) (runTo (t35Due p e s) s)) := by
  unfold t35Expiry
  rw [hidle]
  refine if_pos ?_
  rw [t35Due] at hedge
  simp [hgrammar, hedge]

theorem t35Expiry_cancelled {p e : Nat} {s : State} (hidle : (pGet p s).idleFrom = some e)
    (hedge : edgeBefore p (t35Due p e s) s = true) : t35Expiry p s = s := by
  unfold t35Expiry
  rw [hidle]
  exact if_neg (by rw [t35Due] at hedge; simp [hedge])

theorem sentenceTimeout_passes {p l : Nat} {r : OpenRec} {s : State} (hlast : (pGet p s).lastRx = some l)
    (hgrammar : grammar p s = 1 ∨ grammar p s = 3) (hopen : (pGet p s).open_ = some r) (hlimit : get PT.SENT_TIMEOUT_MS p s ≠ 0)
    (hchar : completesBefore p (sentDue p l s) s = false) (hbreak : breakBy p (sentDue p l s) s = false) :
    sentenceTimeout p s = closeRecord p fUNTERM none (runTo (sentDue p l s) s) := by
  rw [sentDue] at *
  simp [sentenceTimeout, hlast, hgrammar, hopen, hlimit, hchar, hbreak]

/-- A character that completes before it keeps the sentence open (R285). -/
theorem sentenceTimeout_cancelled {p l : Nat} {s : State} (hlast : (pGet p s).lastRx = some l)
    (hchar : completesBefore p (sentDue p l s) s = true) : sentenceTimeout p s = s := by
  rw [sentDue] at hchar
  simp [sentenceTimeout, hlast, hchar]

theorem markAbandon_passes {p l : Nat} {r : OpenRec} {s : State} (hlast : (pGet p s).lastRx = some l)
    (hgrammar : grammar p s = 4) (hopen : (pGet p s).open_ = some r) (hchar : completesBefore p (markDue p l s) s = false) :
    markAbandon p s = abandonMark p (runTo (markDue p l s) s) := by
  rw [markDue] at *
  simp [markAbandon, hlast, hgrammar, hopen, hchar]

end Sys2Proof.Machine

section

open Sys2Proof Sys2Proof.Machine

/-- Settles O17, timer by timer. -/
theorem sentencesEndByTheirTimers : Obligations.SentencesEndByTheirTimers := by
  refine ⟨?raw, ?staged, ?started, ?modbus, ?edge, ?unterminated, ?completes, ?mark⟩
  case raw =>
    intro p l r s hp hlast hstarted hgrammar hopen
    obtain ⟨x, hnow, hport, -, hget, hpasses⟩ := rxTimeout_passes hlast hstarted
    have hgrammar' : grammar p x = 0 := by rw [grammar, hget, get_port_runTo hp]; exact hgrammar
    have hends := closeRecord_ends hp (show (pGet p x).open_ = some r by rw [hport]; exact hopen) 0 none
    rw [if_pos hgrammar'] at hpasses
    have hended : SentenceEnds p x (rxTimeout p s) := by
      rw [hpasses]
      exact ⟨by rw [pGet_pMap_same]; exact hends.open_, hends.now, hends.counted⟩
    have hfinal := hended.judged hp
    refine ⟨_, rfl, hfinal.open_, ?_, hfinal.now.trans hnow, ?_⟩
    · refine (judge_listening p _).2.trans ?_
      rw [hpasses, pGet_pMap_same]
    · rw [← get_port_runTo hp (by decide) (rxDue p l s) s, ← hget]
      exact hfinal.counted
  case staged =>
    intro p l s hp hlast hstarted hopen hquiet
    obtain ⟨x, -, hport, hcop, -, hpasses⟩ := rxTimeout_passes hlast hstarted
    rw [closeRecord_of_none (by rw [hport]; exact hopen)] at hpasses
    have hkept : (pGet p (rxTimeout p s)).stage = (pGet p x).stage ∧ (pGet p (rxTimeout p s)).moveReq = (pGet p x).moveReq ∧
        (pGet p (rxTimeout p s)).reply = (pGet p x).reply ∧ (rxTimeout p s).cop = x.cop := by
      rw [hpasses]
      split
      · rw [pGet_pMap_same]; exact ⟨rfl, rfl, rfl, rfl⟩
      · exact ⟨rfl, rfl, rfl, rfl⟩
    obtain ⟨hstage, hmove, hreply, hcop'⟩ := hkept
    rw [hport] at hstage hmove hreply
    refine ⟨_, congrArg Host.Outcome.next (judge_quiet (quiet_congr hquiet hreply (hcop'.trans hcop))), hstage, hmove⟩
  case started =>
    intro p l s hlast hstarted hquiet
    refine congrArg Host.Outcome.next ?_
    rw [rxTimeout_cancelled hlast hstarted, judge_quiet hquiet]
  case modbus =>
    intro p e r s hp hidle hedge hgrammar hopen
    have hpasses := t35Expiry_passes hidle hedge hgrammar
    have hends := closeRecord_ends hp (s := pMap p (fun c => { c with discard := false, discardNoise := false })
      (runTo (t35Due p e s) s)) (by rw [pGet_pMap_same, pGet_runTo]; exact hopen) 0 none
    rw [← hpasses] at hends
    have hfinal := hends.judged hp
    refine ⟨_, rfl, hfinal.open_, ?_, hfinal.now.trans (runTo_now ..), ?_⟩
    · rw [(judge_listening p _).2, hpasses, closeRecord_discard, pGet_pMap_same]
    · rw [hfinal.counted, get_pMap, get_port_runTo hp]
  case edge =>
    intro p e s hidle hedge hquiet
    refine congrArg Host.Outcome.next ?_
    rw [t35Expiry_cancelled hidle hedge, judge_quiet hquiet]
  case unterminated =>
    intro p l r s hp hlast hgrammar hopen hlimit hchar hbreak
    have hpasses := sentenceTimeout_passes hlast hgrammar hopen hlimit hchar hbreak
    have hopen' : (pGet p (runTo (sentDue p l s) s)).open_ = some r := by rw [pGet_runTo]; exact hopen
    have hends := closeRecord_ends hp hopen' fUNTERM none
    rw [← hpasses] at hends
    have hfinal := hends.judged hp
    refine ⟨_, rfl, hfinal.open_, hfinal.now.trans (runTo_now ..), ?_, ?_⟩
    · rw [get_judge hp, hpasses, closeRecord_unterminated hp hopen' (by decide)]
    · rw [hfinal.counted, get_port_runTo hp]
  case completes =>
    intro p l s hlast hchar hquiet
    refine congrArg Host.Outcome.next ?_
    rw [sentenceTimeout_cancelled hlast hchar, judge_quiet hquiet]
  case mark =>
    intro p l r s hp hlast hgrammar hopen hchar
    have hkeys : InPortSpace [PT.MARK_ABANDON_CNT.key p, PT.RECORD_CNT.key p] := inPortSpace_cons hp (inPortSpace_one hp)
    have hgrammar' : grammar p (runTo (markDue p l s) s) = 4 := (get_port_runTo hp (by decide) ..).trans hgrammar
    obtain ⟨x, hx, hnone, hcounted⟩ := abandonMark_of_open (s := runTo (markDue p l s) s) (by rw [pGet_runTo]; exact hopen) hgrammar'
      [PT.MARK_ABANDON_CNT.key p, PT.RECORD_CNT.key p]
    have hkept {f : Fld} (hf : f.key p ∈ [PT.MARK_ABANDON_CNT.key p, PT.RECORD_CNT.key p]) :
        get f p x = get f p (runTo (markDue p l s) s) := hx.fields.kept f p hf
    refine ⟨_, congrArg Host.Outcome.next ((markAbandon_passes hlast hgrammar hopen hchar).trans hcounted), ?_, ?_, ?_, ?_, ?_⟩
    · rw [pGet_congr (s := x) (by simp)]; exact hnone
    · exact (get_raise_one rfl rfl (port_key_ne_direct hp) _).1
    · simpa using hx.fields.now
    · rw [get_raise_ne (port_key_ne_direct hp) (port_key_ne p), get_bump_same, hkept (by simp), get_port_runTo hp]
      rfl
    · rw [get_raise_ne (port_key_ne_direct hp) (port_key_ne p), get_bump_ne (port_key_ne p), hkept (by simp), get_port_runTo hp]

end

end

section

/-! ### Characters at their stop-bit sample -/

open Sys2Proof.Safety

namespace Sys2Proof.Machine

/-! #### What the receiver's own steps leave -/

/-- Taking up a rate or format changes the ports alone, and of its port the receiver's rate and format (R137). -/
theorem rxTakeUp_units (p : Nat) (s : State) : rxTakeUp p s = { s with ports := (rxTakeUp p s).ports } := by
  unfold rxTakeUp
  split <;> rfl

theorem pGet_rxTakeUp (p : Nat) (s : State) :
    pGet p (rxTakeUp p s) = { pGet p s with rxF := (pGet p (rxTakeUp p s)).rxF, rxPend := (pGet p (rxTakeUp p s)).rxPend } := by
  unfold rxTakeUp
  split <;> simp

/-- The scheduler sees no change of a port. -/
theorem pMap_cop (p : Nat) (f : Port → Port) (s : State) : (pMap p f s).cop = s.cop := rfl

theorem runTo_cop (due : Nat) (s : State) : (runTo due s).cop = s.cop := by simp

@[simp] theorem rxTakeUp_cop (p : Nat) (s : State) : (rxTakeUp p s).cop = s.cop := by rw [rxTakeUp_units]

@[simp] theorem get_rxTakeUp (g : Fld) (j p : Nat) (s : State) : get g j (rxTakeUp p s) = get g j s :=
  get_congr g j (by rw [rxTakeUp_units]) (by simp) (by rw [rxTakeUp_units])

theorem lineKeeps_rxTakeUp (ks : List Nat) (p : Nat) (s : State) : LineKeeps ks Port.listening s (rxTakeUp p s) :=
  .ite (fun _ => lineKeeps_pMap ..) fun _ => .refl ..

/-- A slice that is heard is given up; no port sees it (R249). -/
@[simp] theorem sliceHeard_line (p : Nat) (s : State) : (sliceHeard p s).now = s.now ∧ (sliceHeard p s).ports = s.ports := by
  have hask (t : State) : (sliceAsk p t).ports = t.ports := by
    unfold sliceAsk requestLeave setWaiting
    split
    · cases (LeaveKind.slice p).pool <;> rfl
    · rfl
  unfold sliceHeard dropSlice
  split
  · split
    · simp [hask, lnCount]
    · exact ⟨rfl, rfl⟩
  · exact ⟨rfl, rfl⟩

/-- A character counts, and shows a stop bit that was not idle (R144, R151). -/
def countChar (p : Nat) (framing : Bool) (s : State) : State :=
  let s := pMap p (fun c => { c with rxChars := (c.rxChars + 1) % 2 ^ 32 }) s
  if framing then raise RG.IRQ_LINE PT.EV_FRAMING p (bump PT.FRAMING_CNT p s) else s

theorem receiver_countChar (p : Nat) (framing : Bool) (s : State) : (countChar p framing s).now = s.now ∧
    (pGet p (countChar p framing s)).receiver =
      ((pGet p s).rx, (pGet p s).held, (pGet p s).afterBreak, ((pGet p s).rxChars + 1) % 2 ^ 32) := by
  have hports (t : State) : pGet p (raise RG.IRQ_LINE PT.EV_FRAMING p (bump PT.FRAMING_CNT p t)) = pGet p t :=
    pGet_congr (by simp) p
  cases framing <;> simp [countChar, hports, Port.receiver]

theorem get_countChar_framing {p : Nat} (hp : p < 48) (s : State) :
    get PT.FRAMING_CNT p (countChar p true s) = min (get PT.FRAMING_CNT p s + 1) 65535 := by
  rw [countChar, if_pos rfl, get_raise_ne (port_key_ne_direct hp) (port_key_ne p), get_bump_same, get_pMap]
  rfl

/-- Once counted, a character goes through its grammar, and the receiver stands (R144, R152). -/
theorem lineKeeps_takeChar {ks : List Nat} {p : Nat} (h : InPortSpace ks) (hks : ∀ f ∈ grammarFields, f.key p ∉ ks)
    (hparity : ∀ f ∈ [PT.PARITY_CNT, PT.EV_PARITY], f.key p ∉ ks) (x : RxChar) (b : Byte) (framing parity : Bool)
    (lean : LeanSum) (at_ : Nat) (s : State) :
    LineKeeps ks Port.receiver (countChar p framing s) (takeChar p x b framing parity lean at_ s) := by
  unfold takeChar
  extract_lets gap numbered framed checked flags taken e
  have hchecked : LineKeeps ks Port.receiver framed checked := .ite (fun _ =>
    (lineKeeps_bump (f := PT.PARITY_CNT) (hparity _ (by simp)) _).trans (lineKeeps_raise h.direct (hparity _ (by simp)) _))
      fun _ => .refl ..
  exact (hchecked.trans (lineKeeps_grammarChar h hks ..)).trans (lineKeeps_pMap ..)

/-! #### The character in reception, and the possible break -/

/-- The receiver of port `p` frees itself at the stop-bit sample of character `x` (R148, R151). -/
def freed (p : Nat) (x : RxChar) (s : State) : State :=
  pMap p (fun c => { c with rx := none, huntFrom := x.stopLine + 1 }) (runTo (cyclesLine x.stopLine) s)

@[simp] theorem freed_now (p : Nat) (x : RxChar) (s : State) : (freed p x s).now = max s.now (cyclesLine x.stopLine) := by
  simp [freed]

@[simp] theorem freed_cop (p : Nat) (x : RxChar) (s : State) : (freed p x s).cop = s.cop := by simp [freed]

@[simp] theorem pGet_freed (p : Nat) (x : RxChar) (s : State) :
    pGet p (freed p x s) = { pGet p s with rx := none, huntFrom := x.stopLine + 1 } := by
  rw [freed, pGet_pMap_same, pGet_runTo]

theorem forcedHigh_congr {s t : State} (h : t.lines = s.lines) (p c : Nat) : forcedHigh p c t = forcedHigh p c s := by
  unfold forcedHigh
  rw [lnGet_congr h]

/-- At the stop-bit sample an all-zero character is held back, and any other enters the engine (R148, R167). -/
theorem characterReceived_of_rx {p : Nat} {x : RxChar} {s : State} (hrx : (pGet p s).rx = some x) (sm : List Bool) (tr : List Nat) :
    ∃ b framing parity lean, characterReceived p sm tr s = rxTakeUp p
      (if allStart x (sampled p x sm s) then pMap p (fun c => { c with held := some (x, lean) }) (freed p x s)
        else takeChar p x b framing parity lean (cyclesLine x.stopLine) (freed p x s)) := by
  have hlevels : (sm.zipIdx.map fun b => x.fmt.ball (b.1 || forcedHigh p (cyclesLine (x.c0 + sampleLine (b.2 + 1) x.inc))
      (freed p x s))) = sampled p x sm s := by
    have hforced (c : Nat) : forcedHigh p c (freed p x s) = forcedHigh p c s := forcedHigh_congr (by simp [freed]) p c
    simp only [hforced, sampled]
  have hzero (l : List Bool) : (!(l.getD (x.fmt.stopSample - 1) false) && (l.take x.fmt.dataBits).all (! ·) &&
      (if x.fmt.parity = 0 then [] else [l.getD x.fmt.dataBits false]).all (! ·)) = allStart x l := by
    by_cases hparity : x.fmt.parity = 0 <;> simp [allStart, hparity, beq_eq_decide]
  unfold characterReceived
  rw [hrx]
  generalize hl : sampled p x sm s = l at hlevels
  refine ⟨dataByte x.fmt.msbFirst (l.take x.fmt.dataBits), !l.getD (x.fmt.stopSample - 1) false, x.fmt.parity ≠ 0 &&
    ((if x.fmt.parity = 0 then [] else [l.getD x.fmt.dataBits false]) != [parityBit x.fmt.parity (l.take x.fmt.dataBits)]),
    leanOf x.fmt.inc tr, congrArg (rxTakeUp p) ?_⟩
  rw [← hzero, ← hlevels]
  rfl

/-- The row judges what a received character leaves, and gives up a slice that hears it (R249, R419). -/
theorem exec_characterReceived_of_rx {p : Nat} {x : RxChar} {s : State} (hrx : (pGet p s).rx = some x) (sm : List Bool)
    (tr : List Nat) : exec (.characterReceived p sm tr) s = .next (sliceHeard p (judge p (characterReceived p sm tr s))) := by
  refine congrArg Host.Outcome.next ?_
  rw [hrx]
  rfl

theorem characterReceived_of_none {p : Nat} {s : State} (hrx : (pGet p s).rx = none) (sm : List Bool) (tr : List Nat) :
    characterReceived p sm tr s = s := by
  unfold characterReceived
  rw [hrx]

/-- The break window is no matter of the time that passes (R167). -/
theorem breakLine_congr {p : Nat} {s t : State} (hport : pGet p t = pGet p s) (hdet : get PT.BRK_DET p t = get PT.BRK_DET p s) :
    breakLine p t = breakLine p s := by
  unfold breakLine
  rw [hport, hdet]

/-- Of every port, even of none that exists, the break window stands where time writes nothing. -/
theorem get_brkDet_runTo (p due : Nat) (s : State) : get PT.BRK_DET p (runTo due s) = get PT.BRK_DET p s := by
  have hplaces : ∀ k ∈ timeKeys, k % 1024 ≠ 176 := by decide
  refine get_runTo (fun hm => hplaces _ hm ?_) due s
  unfold Fld.key
  simp only [PT.BRK_DET]
  omega

theorem breakLine_elapse (p dt : Nat) (s : State) : breakLine p (elapse dt s) = breakLine p s :=
  breakLine_congr (by simp) (get_brkDet_runTo p _ s)

/-- An idle level inside the window gives the held character back with FRAMING (R167). -/
theorem possibleBreakIdle_back {p : Nat} {x : RxChar} {l : LeanSum} {s : State} (hheld : (pGet p s).held = some (x, l))
    (hinside : s.now / 5 < x.c0 + breakLine p s) (hcan : canIdle p s = true) : ∃ parity, possibleBreakIdle p s =
      rxTakeUp p (takeChar p x 0#8 true parity l (cyclesLine x.stopLine)
        (pMap p (fun c => { c with held := none, huntFrom := s.now / 5 + 1 }) s)) := by
  unfold possibleBreakIdle
  rw [hheld]
  exact ⟨_, if_neg (by simp [hcan, hinside])⟩

/-- With nothing held, or after the window, there is nothing to give back. -/
theorem possibleBreakIdle_none {p : Nat} {s : State} (h : (pGet p s).held = none ∨
    ∃ x l, (pGet p s).held = some (x, l) ∧ x.c0 + breakLine p s ≤ s.now / 5) : possibleBreakIdle p s = s := by
  unfold possibleBreakIdle
  rcases h with hnone | ⟨x, l, hheld, hafter⟩
  · rw [hnone]
  · rw [hheld]
    exact if_pos (.inl hafter)

/-- A break that meets no sentence marks the next record (R286). -/
theorem breakClose_none {p : Nat} {s : State} (hopen : (pGet p s).open_ = none) (hgrammar : grammar p s ≠ 4) : ∃ late win,
    pGet p (breakClose p s) = { pGet p s with nextFlags := (pGet p s).nextFlags ||| fBREAK, lateClose := late, win := win } ∧
      (breakClose p s).now = s.now ∧ (breakClose p s).cop = s.cop ∧ ∀ g j, get g j (breakClose p s) = get g j s := by
  have hreply : replyOpen p s = false := by simp [replyOpen, hopen]
  have hmark {x : State} (hx : (if (pGet p s).lateClose then closeLate p 0 true s else s) = x) (hopen' : (pGet p x).open_ = none)
      (hgrammar' : grammar p x ≠ 4) : breakClose p s = pMap p (fun c => { c with nextFlags := c.nextFlags ||| fBREAK }) x := by
    simp [breakClose, lateDue, hreply, hx, hopen', hgrammar']
  by_cases hlate : (pGet p s).lateClose = true
  · have hclose : (if (pGet p s).lateClose then closeLate p 0 true s else s) =
        pMap p (fun c => { c with lateClose := false, win := none }) s := by simp [hlate, closeLate, hreply]
    rw [hmark hclose (by rw [pGet_pMap_same]; exact hopen) hgrammar]
    exact ⟨false, none, by rw [pGet_pMap_same, pGet_pMap_same], rfl, rfl, fun _ _ => rfl⟩
  · have hclose : (if (pGet p s).lateClose then closeLate p 0 true s else s) = s := if_neg hlate
    rw [hmark hclose hopen hgrammar]
    exact ⟨(pGet p s).lateClose, (pGet p s).win, by rw [pGet_pMap_same], rfl, rfl, fun _ _ => rfl⟩

/-- At c0 + T the possible break is a break (R168): it is counted and shown, and the receiver waits for one idle bit. -/
theorem breakDetected_counts {p : Nat} {x : RxChar} {l : LeanSum} {s : State} (hheld : (pGet p s).held = some (x, l))
    (hcan : canStart p (runTo (cyclesLine (x.c0 + breakLine p s)) s) = true) : breakDetected p s =
      breakClose p (rxTakeUp p (raise RG.IRQ_LINE PT.EV_BREAK_DET p (bump PT.BREAK_CNT p
        (pMap p (fun c => { c with held := none, afterBreak := true }) (runTo (cyclesLine (x.c0 + breakLine p s)) s))))) := by
  unfold breakDetected
  rw [hheld]
  exact if_neg (by simp [hcan])

/-- A break is counted and shown, and its port waits for one idle bit (R168). -/
theorem countBreak_spec {p : Nat} (hp : p < 48) {s t : State} (ht : t = rxTakeUp p (raise RG.IRQ_LINE PT.EV_BREAK_DET p
      (bump PT.BREAK_CNT p (pMap p (fun c => { c with held := none, afterBreak := true }) s)))) :
    t.now = s.now ∧ t.cop = s.cop ∧ get PT.GRAMMAR p t = get PT.GRAMMAR p s ∧
      get PT.BREAK_CNT p t = min (get PT.BREAK_CNT p s + 1) 65535 ∧ get PT.EV_BREAK_DET p t = 1 ∧ get RG.IRQ_LINE 0 t = 1 ∧
      pGet p t = { pGet p s with held := none, afterBreak := true, rxF := (pGet p t).rxF, rxPend := (pGet p t).rxPend } := by
  generalize hbroken : pMap p (fun c => { c with held := none, afterBreak := true }) s = x at ht
  have hx : pGet p x = { pGet p s with held := none, afterBreak := true } ∧ (∀ g j, get g j x = get g j s) ∧ x.now = s.now ∧
      x.cop = s.cop := by
    rw [← hbroken]
    exact ⟨pGet_pMap_same .., fun _ _ => rfl, rfl, rfl⟩
  obtain ⟨hport, hget, hnow, hcop⟩ := hx
  obtain ⟨hevent, hirq⟩ := get_raise_one (f := RG.IRQ_LINE) (g := PT.EV_BREAK_DET) rfl rfl (port_key_ne_direct hp)
    (bump PT.BREAK_CNT p x)
  have htaken := pGet_rxTakeUp p (raise RG.IRQ_LINE PT.EV_BREAK_DET p (bump PT.BREAK_CNT p x))
  have hraised : pGet p (raise RG.IRQ_LINE PT.EV_BREAK_DET p (bump PT.BREAK_CNT p x)) = pGet p x := pGet_congr (by simp) p
  rw [← ht, hraised, hport] at htaken
  refine ⟨by simp [ht, hnow], by simp [ht, hcop], ?_, ?_, ?_, ?_, htaken⟩
  all_goals rw [ht, get_rxTakeUp]
  · rw [get_raise_ne (port_key_ne_direct hp) (port_key_ne p), get_bump_ne (port_key_ne p), hget]
  · rw [get_raise_ne (port_key_ne_direct hp) (port_key_ne p), get_bump_same, hget]
    rfl
  · exact hevent
  · exact hirq

theorem huntResume_resumes {p : Nat} {s : State} (hbreak : (pGet p s).afterBreak = true) (hcan : canIdle p s = true) :
    huntResume p s = pMap p (fun c => { c with
      afterBreak := false, huntFrom := s.now / 5, idleFrom := some (s.now - cyclesLine (halfBitsLine 2 c.rxF.inc)) }) s := by
  simp [huntResume, hbreak, hcan]

theorem huntResume_idle {p : Nat} {s : State} (hbreak : (pGet p s).afterBreak = false) : huntResume p s = s := by
  simp [huntResume, hbreak]

end Sys2Proof.Machine

section

open Sys2Proof Sys2Proof.Machine

/-- Settles O16: the stop-bit sample, the possible break, and the idle bit after a break. -/
theorem charactersEndAtTheirStopSample : Obligations.CharactersEndAtTheirStopSample := by
  refine ⟨?held, ?counted, ?none, ?back, ?window, ?recognised, ?resumes, ?hunts⟩
  case held =>
    intro p sm tr x s hrx hquiet hzero
    obtain ⟨b, framing, parity, lean, hreceived⟩ := characterReceived_of_rx hrx sm tr
    rw [if_pos hzero] at hreceived
    have hport : pGet p (pMap p (fun c => { c with held := some (x, lean) }) (freed p x s)) =
        { pGet p s with rx := none, huntFrom := x.stopLine + 1, held := some (x, lean) } := by
      rw [pGet_pMap_same, pGet_freed]
    have hquiet' : quiet p (characterReceived p sm tr s) := by
      refine quiet_congr hquiet ?_ ?_
      · rw [hreceived, pGet_rxTakeUp, hport]
      · rw [hreceived, rxTakeUp_cop, pMap_cop, freed_cop]
    have hexec := exec_characterReceived_of_rx hrx sm tr
    rw [judge_quiet hquiet'] at hexec
    obtain ⟨hnow, hports⟩ := sliceHeard_line p (characterReceived p sm tr s)
    refine ⟨_, lean, hexec, ?_, ?_⟩
    · rw [hnow, hreceived]; simp
    · rw [pGet_congr hports, hreceived, pGet_rxTakeUp, hport]
      exact ⟨rfl, rfl, rfl⟩
  case counted =>
    intro p sm tr x s hrx hzero
    obtain ⟨b, framing, parity, lean, hreceived⟩ := characterReceived_of_rx hrx sm tr
    rw [if_neg (by simp [hzero])] at hreceived
    obtain ⟨hnow, hports⟩ := sliceHeard_line p (judge p (characterReceived p sm tr s))
    obtain ⟨hcounted, hchar⟩ := receiver_countChar p framing (freed p x s)
    have hkeeps : LineKeeps [] Port.receiver (countChar p framing (freed p x s)) (judge p (characterReceived p sm tr s)) := by
      rw [hreceived]
      exact (lineKeeps_takeChar inPortSpace_nil (fun _ _ => List.not_mem_nil) (fun _ _ => List.not_mem_nil) ..).trans
        ((lineKeeps_rxTakeUp ..).trans (lineKeeps_judge inPortSpace_nil ..)).hearing.receiver
    have hreceiver := (hkeeps.ports p).trans hchar
    refine ⟨_, exec_characterReceived_of_rx hrx sm tr, ?_, ?_, ?_⟩
    · rw [hnow, hkeeps.fields.now, hcounted, freed_now]
    · rw [pGet_congr hports]
      refine (congrArg Prod.fst hreceiver).trans ?_
      rw [pGet_freed]
    · rw [pGet_congr hports]
      refine (congrArg (fun v => v.2.2.2) hreceiver).trans ?_
      rw [pGet_freed]
  case none =>
    intro p sm tr s hrx hquiet
    refine congrArg Host.Outcome.next ?_
    rw [characterReceived_of_none hrx, judge_quiet hquiet, hrx]
    rfl
  case back =>
    intro dt p x l s hp hheld hinside hcan
    have hkeys : InPortSpace [PT.FRAMING_CNT.key p] := inPortSpace_one hp
    obtain ⟨parity, hback⟩ := possibleBreakIdle_back (s := elapse dt s) (by simpa using hheld)
      (by rw [elapse_now, breakLine_elapse]; exact hinside) hcan
    generalize hy : pMap p (fun c => { c with held := none, huntFrom := (elapse dt s).now / 5 + 1 }) (elapse dt s) = y at hback
    have hport : pGet p y = { pGet p s with held := none, huntFrom := (elapse dt s).now / 5 + 1 } := by
      rw [← hy, pGet_pMap_same, pGet_elapse]
    have hkeeps : LineKeeps [PT.FRAMING_CNT.key p] Port.receiver (countChar p true y) (judge p (possibleBreakIdle p (elapse dt s))) := by
      rw [hback]
      exact (lineKeeps_takeChar hkeys (not_mem_keys (gs := [PT.FRAMING_CNT]) p) (not_mem_keys (gs := [PT.FRAMING_CNT]) p) ..).trans
        ((lineKeeps_rxTakeUp ..).trans (lineKeeps_judge hkeys ..)).hearing.receiver
    have hreceiver := (hkeeps.ports p).trans (receiver_countChar p true y).2
    rw [hport] at hreceiver
    refine ⟨_, rfl, congrArg (fun v => v.2.1) hreceiver, congrArg (fun v => v.2.2.2) hreceiver, ?_⟩
    rw [hkeeps.fields.get, get_countChar_framing hp, ← hy, get_pMap, get_port_elapse hp]
  case window =>
    intro dt p s hquiet h
    refine congrArg Host.Outcome.next ?_
    rw [possibleBreakIdle_none (by simpa [breakLine_elapse] using h), judge_quiet (quiet_elapse hquiet dt)]
  case recognised =>
    intro p x l s hp hheld hopen hquiet hgrammar hcan
    have hdetected := breakDetected_counts hheld hcan
    have hgrammar' : grammar p (runTo (cyclesLine (x.c0 + breakLine p s)) s) ≠ 4 := by rwa [grammar, get_port_runTo hp]
    generalize hdue : cyclesLine (x.c0 + breakLine p s) = due at hdetected hgrammar' ⊢
    generalize hy : rxTakeUp p _ = y at hdetected
    obtain ⟨hnow, hcop, hkept, hcount, hevent, hirq, hport⟩ := countBreak_spec hp hy.symm
    rw [pGet_runTo] at hport
    obtain ⟨late, win, hmarked, hnow', hcop', hget⟩ := breakClose_none (s := y) (by rw [hport]; exact hopen) (by rwa [grammar, hkept])
    rw [← hdetected] at hmarked hnow' hcop' hget
    rw [hport] at hmarked
    have hquiet' : quiet p (breakDetected p s) := by
      refine quiet_congr hquiet (by rw [hmarked]) ?_
      rw [hcop', hcop, runTo_cop]
    refine ⟨_, congrArg Host.Outcome.next (judge_quiet hquiet'), ?_, ?_, ?_, ?_, ?_, ?_, ?_⟩
    · rw [hnow', hnow, runTo_now]
    · rw [hmarked]
    · rw [hmarked]
    · rw [hmarked]
    · rw [hget, hcount, get_port_runTo hp]
    · rw [hget, hevent]
    · rw [hget, hirq]
  case resumes =>
    intro dt p s hbreak hcan
    have hresumes := huntResume_resumes (s := elapse dt s) (by simpa using hbreak) hcan
    refine ⟨_, congrArg Host.Outcome.next hresumes, ?_, ?_, ?_, ?_, rfl⟩
    · rw [pGet_pMap_same]
    · rw [pGet_pMap_same, elapse_now]
    · rw [pGet_pMap_same, elapse_now, pGet_elapse]
    · intro q hq
      rw [pMap, pGet_pSet_ne hq, pGet_elapse]
  case hunts =>
    intro dt p s hbreak
    exact congrArg Host.Outcome.next (huntResume_idle (by simpa using hbreak))

end

end

section

/-! ### Writes of the words of a line port -/

open Sys2Proof.Safety

namespace Sys2Proof.Machine

/-! #### The words PORT 0 and BAUD_INC -/

theorem fieldsIn_port (p o : Nat) (ho : o < 32) : wordFields 1 (32 * p + o) = fieldsIn fldsPT o p := by
  show fieldsIn fldsPT ((32 * p + o) % 32) ((32 * p + o) / 32) = _
  congr 1 <;> omega

/-- A field of the port that stands in another word. -/
theorem ne_port_word {g : Fld} (p o : Nat) (ho : o < 32) (hg : ∀ f ∈ fldsPT.filter (·.word == o),
    g.space = f.space ∧ g.stride = f.stride ∧ g.word * 32 + g.lo ≠ f.word * 32 + f.lo := by decide) :
    ∀ x ∈ wordFields 1 (32 * p + o), g.key p ≠ x.1.key x.2 := by
  rw [fieldsIn_port p o ho]
  intro x hx
  obtain ⟨f, hf, rfl⟩ := List.mem_map.mp hx
  exact port_key_ne p (hg f hf)

theorem plainWord_baudInc (p : Nat) : PlainWord 1 (32 * p + 1) := plainWord_of (fieldsIn_port p 1 (by omega)) rfl (by decide)

theorem baudInc_mem (p : Nat) : (PT.BAUD_INC, p) ∈ wordFields 1 (32 * p + 1) :=
  fieldsIn_port p 1 (by omega) ▸ List.mem_map_of_mem (show PT.BAUD_INC ∈ fldsPT.filter fun f => f.word == 1 by decide)

/-- What BAUD_INC holds after a write. -/
theorem get_baudIncWord (p : Nat) (v : Word) (s : State) :
    get PT.BAUD_INC p (writeFields 1 (32 * p + 1) v.toNat s) = v.toNat := by
  have hlt := v.isLt
  refine (get_writeFields_rw (plainWord_baudInc p) (baudInc_mem p) rfl s).trans ?_
  simp only [bits, PT.BAUD_INC]
  omega

theorem wordChecks_baudInc (p v : Nat) (b t : State) : wordChecks 1 (32 * p + 1) v b t =
    [(!within PT.BAUD_INC p 9449 257698038 t, refused)] ++
      [((flag PT.EN p b || flag PT.EN p t) && !grammarRuns p t, refused)] := by
  have hport : (32 * p + 1) / 32 = p ∧ (32 * p + 1) % 32 = 1 := by omega
  simp [wordChecks, portChecks, hport]

/-- A BAUD_INC outside its range is refused (R137, Table 3-7). -/
theorem baudInc_refused {p : Nat} {v : Word} {s : State} (hserves : mpServes s = true) (hp : portOk s p = true)
    (h : v.toNat < 9449 ∨ 257698038 < v.toNat) : regWrite 1 (32 * p + 1) v s = mpMap (fun m => { m with answer := 1 }) s := by
  have hport : (32 * p + 1) / 32 = p ∧ (32 * p + 1) % 32 = 1 := by omega
  refine regWrite_refused hserves (by simp [place, hport, hp]) rfl (by decide) (.inr (by decide)) rfl ?_
  rw [wordChecks_baudInc]
  refine firstFail_refused (by simp) ⟨_, List.mem_cons_self .., ?_⟩
  simp only [within, get_baudIncWord, Bool.not_eq_true', Bool.and_eq_false_iff, decide_eq_false_iff_not]
  omega

/-- A BAUD_INC within its range is stored in a port with EN 0, and a new one is a format that was written (R137). -/
theorem baudInc_accepted {p : Nat} {v : Word} {s : State} (hserves : mpServes s = true) (hp : portOk s p = true)
    (hen : get PT.EN p s = 0) (hlow : 9449 ≤ v.toNat) (hhigh : v.toNat ≤ 257698038) : ∃ w, w.ports = s.ports ∧
      get PT.BAUD_INC p w = v.toNat ∧ get PT.EN p w = 0 ∧ regWrite 1 (32 * p + 1) v s = mpMap (fun m => { m with answer := 0 })
        (owe [(1, 32 * p + 1, v.toNat, false)] (if get PT.BAUD_INC p s ≠ v.toNat then formatWritten p w else w)) := by
  have hport : (32 * p + 1) / 32 = p ∧ (32 * p + 1) % 32 = 1 := by omega
  obtain ⟨hunits, -, hother⟩ := writeFields_spec 1 (32 * p + 1) v.toNat s (plainWord_baudInc p).keys
  have hbaud := get_baudIncWord p v s
  have hen' : get PT.EN p (writeFields 1 (32 * p + 1) v.toNat s) = 0 := by
    rw [hother PT.EN p (ne_port_word p 1 (by omega)), hen]
  have hchecks : firstFail (wordChecks 1 (32 * p + 1) v.toNat s (writeFields 1 (32 * p + 1) v.toNat s)) = none := by
    rw [wordChecks_baudInc]
    simp [firstFail, within, hbaud, hlow, hhigh, flag, hen, hen']
  refine ⟨_, by rw [hunits], hbaud, hen', (regWrite_ok 1 (32 * p + 1) v s hserves (by simp [place, hport, hp]) rfl (by decide)
    (.inr (by decide)) rfl hchecks).trans ?_⟩
  simp [wordActs, portActs, hport, changes, hbaud]

/-! #### A new format (R137, R138) -/

theorem regFmt_congr {s t : State} {p : Nat} (h : ∀ g j, get g j t = get g j s) : regFmt p t = regFmt p s := by
  simp only [regFmt, flag, h]

theorem pGet_rxTakeUp_pending {p : Nat} {s : State} (h : (pGet p s).rxPend = true) :
    pGet p (rxTakeUp p s) = { pGet p s with rxF := regFmt p s, rxPend := false } := by
  rw [rxTakeUp, if_pos h, pGet_pMap_same]

theorem pGet_txTakeUp_pending {p : Nat} {s : State} (h : (pGet p s).txPend = true) :
    pGet p (txTakeUp p s) = { pGet p s with txF := regFmt p s, txPend := false } := by
  rw [txTakeUp, if_pos h, pGet_pMap_same]

/-- A disabled port takes up a new format, but for a character that is being sent (R137, R138). -/
theorem formatWritten_disabled {p : Nat} {s : State} (hen : get PT.EN p s = 0) :
    (∀ g j, get g j (formatWritten p s) = get g j s) ∧ (pGet p (formatWritten p s)).rxF = regFmt p s ∧
      (if (txOf p s).phase = .chars then
        (pGet p (formatWritten p s)).txF = (pGet p s).txF ∧ (pGet p (formatWritten p s)).txPend = true
      else (pGet p (formatWritten p s)).txF = regFmt p s) := by
  generalize hy : pMap p (fun c => { c with rxPend := true, txPend := true }) s = y
  have hport : pGet p y = { pGet p s with rxPend := true, txPend := true } := by rw [← hy, pGet_pMap_same]
  have hget (g : Fld) (j : Nat) : get g j y = get g j s := by rw [← hy, get_pMap]
  have hflag (x : State) (hx : get PT.EN p x = get PT.EN p s) : flag PT.EN p x = false := by simp [flag, hx, hen]
  have htaken := pGet_rxTakeUp_pending (s := y) (by rw [hport])
  have hwritten : formatWritten p s = if (txOf p s).phase = .chars then rxTakeUp p y else txTakeUp p (rxTakeUp p y) := by
    have hrx : flag PT.EN p (rxTakeUp p y) = false := hflag _ (by rw [get_rxTakeUp, hget])
    have hrx' : flag PT.EN p y = false := hflag _ (hget ..)
    unfold formatWritten
    simp only [hy, hrx, hrx', Bool.not_false, Bool.or_true, Bool.true_or, if_true, Bool.true_and]
    unfold txOf
    cases (pGet p s).tx.phase <;> simp
  rw [hwritten]
  split
  · exact ⟨fun g j => by rw [get_rxTakeUp, hget], by rw [htaken, regFmt_congr hget], by rw [htaken, hport], by rw [htaken, hport]⟩
  · have htaken' := pGet_txTakeUp_pending (s := rxTakeUp p y) (by rw [htaken, hport])
    have hfmt : regFmt p (rxTakeUp p y) = regFmt p s := regFmt_congr fun g j => by rw [get_rxTakeUp, hget]
    exact ⟨fun g j => by rw [get_txTakeUp, get_rxTakeUp, hget], by rw [htaken', htaken, regFmt_congr hget], by rw [htaken', hfmt]⟩

/-- The answer to a frame, and what it owes the journal, are no matter of the ports or of a field. -/
theorem frame_line (p : Nat) (f : Mp → Mp) (ws : List FrameWord) (s : State) :
    (∀ g j, get g j (mpMap f (owe ws s)) = get g j s) ∧ pGet p (mpMap f (owe ws s)) = pGet p s := by
  unfold owe
  dsimp only
  split <;> exact ⟨fun _ _ => rfl, rfl⟩

/-! #### Writes of TX_BREAK and EN (R170, R192) -/

/-- PORT word 0 is a plain word. -/
theorem plainWord_portCtrl (p : Nat) : PlainWord 1 (32 * p + 0) := plainWord_of (fieldsIn_port p 0 (by omega)) rfl (by decide)

theorem portCtrl_mem {f : Fld} (p : Nat) (hf : f ∈ fldsPT.filter (·.word == 0)) : (f, p) ∈ wordFields 1 (32 * p + 0) :=
  fieldsIn_port p 0 (by omega) ▸ List.mem_map_of_mem hf

/-- What PORT word 0 starts where no field of the format changes (R170, R192). -/
theorem wordActs_portCtrl {p M : Nat} {b w : State}
    (hfmt : ∀ g ∈ [PT.POL, PT.MSB_FIRST, PT.DATA_BITS, PT.PARITY, PT.STOP], get g p w = get g p b) :
    wordActs 1 (32 * p + 0) M b w = (if falls PT.EN p b w then judge p (txDisable p (rxDisable p w))
      else if rises PT.EN p b w then pMap p (fun c => { c with huntFrom := w.now / 5 + 1 }) w else w,
      if asks PT.TX_BREAK M then [txBreakWritten p] else []) := by
  have hsame : changes [PT.POL, PT.MSB_FIRST, PT.DATA_BITS, PT.PARITY, PT.STOP] p b w = false := by
    simp only [changes, List.any_eq_false]
    intro g hg
    simp [hfmt g hg]
  simp [wordActs, portActs, hsame]

section

variable {p : Nat} {f : Fld} {v : Nat} {s : State}

/-- A write of one field of PORT word 0 keeps the format, where it is none of it. -/
theorem WriteFacts.format {M : Nat} {w : State} (h : WriteFacts p f [(f, v)] s M w)
    (hf : ∀ g ∈ [PT.POL, PT.MSB_FIRST, PT.DATA_BITS, PT.PARITY, PT.STOP], g ≠ f)
    (hword : f.space = 1 ∧ wordOf f p = 32 * p + 0) :
    ∀ g ∈ [PT.POL, PT.MSB_FIRST, PT.DATA_BITS, PT.PARITY, PT.STOP], get g p w = get g p s := by
  intro g hg
  have hmem : g ∈ fldsPT.filter (·.word == 0) := by
    have hall : ∀ g ∈ [PT.POL, PT.MSB_FIRST, PT.DATA_BITS, PT.PARITY, PT.STOP], g ∈ fldsPT.filter (·.word == 0) := by decide
    exact hall g hg
  refine h.rest (g, p) ?_ (.inl (by simpa using hf g hg))
  rw [hword.1, hword.2]
  exact portCtrl_mem p hmem

end

/-- A taken write of TX_BREAK 1 (R170). -/
theorem setFields_txBreak {p : Nat} {s : State} (h : taken p PT.TX_BREAK [(PT.TX_BREAK, 1)] s) :
    wrote p PT.TX_BREAK [(PT.TX_BREAK, 1)] (txBreakWritten p) s (setFields p [(PT.TX_BREAK, 1)] s) := by
  refine setFields_wrote p PT.TX_BREAK 1 [] s _ h (plainWord_portCtrl p) rfl (by decide) (.inr (by decide)) ?_
    (List.pairwise_singleton ..) ?_
  · intro y hy
    rw [List.mem_singleton.mp hy]
    exact ⟨portCtrl_mem p (by decide), by decide⟩
  · intro M w hw
    have hen : get PT.EN p w = get PT.EN p s :=
      hw.rest (PT.EN, p) (portCtrl_mem p (by decide)) (.inl (show PT.EN ∉ [PT.TX_BREAK] by decide))
    have hsent : bits M 11 1 = 1 := hw.sent (PT.TX_BREAK, 1) (by simp)
    have hasks : asks PT.TX_BREAK M = true := by simpa [asks, bitOf, bits, PT.TX_BREAK] using hsent
    have hacts := wordActs_portCtrl (M := M) (hw.format (by decide) ⟨rfl, rfl⟩)
    show (wordActs 1 (32 * p + 0) M s w).2.foldl (fun a f => f a) (wordActs 1 (32 * p + 0) M s w).1 = _
    have hstays : falls PT.EN p s w = false ∧ rises PT.EN p s w = false := by simp [falls, rises, flag, hen]
    simp only [hacts, hstays, hasks, if_true, Bool.false_eq_true, if_false, List.foldl_cons, List.foldl_nil]

/-- A taken write of EN 0 to a port with EN 1 (R192). -/
theorem setFields_portDisable {p : Nat} {s : State} (h : taken p PT.EN [(PT.EN, 0)] s) (hen : get PT.EN p s = 1) :
    wrote p PT.EN [(PT.EN, 0)] (fun w => judge p (txDisable p (rxDisable p w))) s (setFields p [(PT.EN, 0)] s) := by
  refine setFields_wrote p PT.EN 0 [] s _ h (plainWord_portCtrl p) rfl (by decide) (.inr (by decide)) ?_
    (List.pairwise_singleton ..) ?_
  · intro y hy
    rw [List.mem_singleton.mp hy]
    exact ⟨portCtrl_mem p (by decide), by decide⟩
  · intro M w hw
    have hen' : get PT.EN p w = 0 := hw.given (PT.EN, 0) (by simp) rfl
    have hsent : bits M 11 1 = 0 := hw.kept (PT.TX_BREAK, p) (portCtrl_mem p (by decide)) (show PT.TX_BREAK ∉ [PT.EN] by decide)
    have hasks : asks PT.TX_BREAK M = false := by simpa [asks, bitOf, bits, PT.TX_BREAK] using hsent
    have hacts := wordActs_portCtrl (M := M) (hw.format (by decide) ⟨rfl, rfl⟩)
    show (wordActs 1 (32 * p + 0) M s w).2.foldl (fun a f => f a) (wordActs 1 (32 * p + 0) M s w).1 = _
    have hfalls : falls PT.EN p s w = true := falls_iff.mpr ⟨hen, by omega⟩
    simp only [hacts, hfalls, hasks, if_true, Bool.false_eq_true, if_false, List.foldl_nil]

theorem askBreak_ports (p : Nat) (directive : Bool) (s : State) : (askBreak p directive s).ports = (txMap p (fun t => { t with
    phase := .leaveWait, directive := directive, owner := if directive then t.owner else none }) s).ports := rfl

/-- A break that is asked for waits for one FIELD unit (R171). -/
theorem askBreak_spec (p : Nat) (directive : Bool) (s : State) : (∀ g j, get g j (askBreak p directive s) = get g j s) ∧
    (txOf p (askBreak p directive s)).phase = .leaveWait ∧
    ((askBreak p directive s).leave.field.any fun r => r.kind == .brk p && r.units == 1) = true := by
  refine ⟨fun _ _ => rfl, ?_, ?_⟩
  · rw [txOf_congr (askBreak_ports ..), txOf_txMap]
  · exact List.any_eq_true.mpr ⟨_, mem_enqueue.mpr (.inl rfl), by simp⟩

/-- TX_BREAK on an idle enabled port that is not in trim asks for its leave at once (R170). -/
theorem txBreakWritten_asks {p : Nat} {s : State} (hen : get PT.EN p s = 1) (hbreak : get PT.TX_BREAK p s = 0)
    (hphase : (txOf p s).phase = .idle) (htrim : (pGet p s).inTrim = false) : ∃ x, txBreakWritten p s = askBreak p false x ∧
      get PT.TX_BREAK p x = 1 := by
  generalize hy : pMap p (fun c => { c with brkWanted := true }) (put PT.TX_BREAK p 1 s) = y
  have hport : pGet p y = { pGet p s with brkWanted := true } := by
    rw [← hy, pGet_pMap_same, pGet_congr (put_fields ..).2.2.2.2.2.2.2.2.2.1]
  have hphase' : (txOf p y).phase = .idle := by rw [txOf, hport]; exact hphase
  have hwritten : txBreakWritten p s = servePendingBreak p y := by simp [txBreakWritten, flag, hen, hbreak, hy]
  refine ⟨pMap p (fun c => { c with brkWanted := false }) y, ?_, ?_⟩
  · rw [hwritten]
    simp [servePendingBreak, hport, hphase', htrim]
  · rw [get_pMap, ← hy, get_pMap, get_put_same]
    rfl

/-! #### EN 0 (R192, R287) -/

theorem Port.listening_eq {c d : Port} (h : c.listening = d.listening) : c.receiver = d.receiver ∧ c.open_ = d.open_ :=
  ⟨congrArg (fun v => v.1.1) h, congrArg Prod.snd h⟩

theorem Port.receiver_eq {c : Port} {rx : Option RxChar} {held : Option (RxChar × LeanSum)} {after : Bool} {n : Nat}
    (h : c.receiver = (rx, held, after, n)) : c.rx = rx ∧ c.held = held ∧ c.afterBreak = after :=
  ⟨congrArg (fun v => v.1) h, congrArg (fun v => v.2.1) h, congrArg (fun v => v.2.2.1) h⟩

theorem abandonMark_open {p : Nat} {s : State} (hmark : grammar p s = 4) : (pGet p (abandonMark p s)).open_ = none := by
  cases hopen : (pGet p s).open_ with
  | none => rw [abandonMark_of_none hopen, hopen]
  | some r =>
    obtain ⟨x, -, hnone, hcounted⟩ := abandonMark_of_open hopen hmark []
    have hports : pGet p (abandonMark p s) = pGet p x := by
      rw [hcounted]
      exact pGet_congr (by simp) p
    rw [hports, hnone]

/-- The receive side of EN 0: nothing is in reception, and no sentence is open. -/
theorem rxDisable_spec {p : Nat} (hp : p < 48) (s : State) : get PT.EN p (rxDisable p s) = get PT.EN p s ∧
    (pGet p (rxDisable p s)).receiver = (none, none, false, (pGet p s).rxChars) ∧ (pGet p (rxDisable p s)).open_ = none := by
  have hkeys : InPortSpace [PT.EN.key p] := inPortSpace_one hp
  have hks : ∀ f ∈ grammarFields, f.key p ∉ [PT.EN.key p] := not_mem_keys (gs := [PT.EN]) p
  unfold rxDisable
  extract_lets freed asked waited ended
  have hfreed : get PT.EN p freed = get PT.EN p s ∧ (pGet p freed).receiver = (none, none, false, (pGet p s).rxChars) :=
    ⟨rfl, by rw [pGet_pMap_same]; rfl⟩
  have hasked : LineKeeps [PT.EN.key p] Port.receiver freed asked := .ite (fun _ => .refl ..) fun _ => lineKeeps_pMap ..
  have hended : LineKeeps [PT.EN.key p] Port.receiver waited ended := .ite (fun _ => (lineKeeps_abandonMark hkeys hks _).receiver)
    fun _ => (lineKeeps_closeRecord hkeys hks ..).receiver
  have hkeeps := ((hasked.trans (lineKeeps_closeWaiting hkeys hks asked)).trans hended).trans
    ((lineKeeps_pMap [PT.EN.key p] p (f := fun c => { c with discard := false, discardNoise := false, lateClose := false }) ended).trans
      (lineKeeps_rxTakeUp _ p _).hearing.receiver)
  have hopen : (pGet p ended).open_ = none := by
    simp only [ended]
    split
    · next hmark => exact abandonMark_open hmark
    · exact closeRecord_open ..
  refine ⟨hkeeps.fields.get.trans hfreed.1, (hkeeps.ports p).trans hfreed.2, ?_⟩
  rw [pGet_rxTakeUp, pGet_pMap_same]
  exact hopen

section

variable {ks : List Nat} {p : Nat} (hks : ∀ k ∈ txClearedKeys p, k ∉ ks)

/-- The transmitter is no part of what its port listens to. -/
theorem lineKeeps_txMap (ks : List Nat) (p : Nat) (f : Tx → Tx) (s : State) : LineKeeps ks Port.listening s (txMap p f s) :=
  lineKeeps_pMap ..

theorem lineKeeps_discardTxHead (ks : List Nat) (p : Nat) (s : State) : LineKeeps ks Port.listening s (discardTxHead p s) := by
  refine ⟨keeps_discardTxHead .., fun r => ?_⟩
  unfold discardTxHead
  extract_lets q gapless popped
  have hgapless : gapless.ports = s.ports := by
    simp only [gapless, dropTxGaps]
    split <;> simp
  have hpopped : (pGet r popped).listening = (pGet r s).listening := by
    rw [← pGet_congr hgapless r]
    exact (lineKeeps_pMap (π := Port.listening) [] p gapless).ports r
  split
  · rw [pGet_congr (dropWords_ports ..), hpopped]
  · rw [pGet_congr (dropOpen_ports ..), hpopped]

include hks

theorem lineKeeps_servePendingBreak (s : State) : LineKeeps ks Port.listening s (servePendingBreak p s) := by
  have hcount (t : State) : LineKeeps ks Port.listening t (countHeld p t) :=
    (lineKeeps_bump (f := PT.TX_HELD) (hks _ (by simp [txClearedKeys])) _).trans (lineKeeps_raise (hks _ (by simp [txClearedKeys]))
      (hks _ (by simp [txClearedKeys])) _)
  have hask (t : State) : LineKeeps ks Port.listening t (askBreak p false t) :=
    ⟨.of_units, fun q => by rw [pGet_congr (askBreak_ports ..)]; exact (lineKeeps_txMap [] ..).ports q⟩
  refine .ite (fun _ => .ite (fun _ => ?_) fun _ => (lineKeeps_pMap ..).trans (hask _)) fun _ => .refl ..
  unfold holdBreak
  rw [if_neg (by decide)]
  exact .ite (fun _ => .refl ..) fun _ => (hcount _).trans (lineKeeps_pMap ..)

theorem lineKeeps_releaseBreak (s : State) : LineKeeps ks Port.listening s (releaseLeave (.brk p) s) :=
  (keeps_releaseBreak hks s).line (releaseLeave_line ..).1

theorem lineKeeps_withdrawBreak (s : State) : LineKeeps ks Port.listening s (releaseLeave (.brk p) (withdrawLeave (.brk p) s)) :=
  LineKeeps.trans (t := withdrawLeave (.brk p) s) ((Keeps.of_units (ks := ks) (s := s)).line rfl) (lineKeeps_releaseBreak hks _)

theorem lineKeeps_removeRequest (s : State) : LineKeeps ks Port.listening s (removeRequest p s) := by
  unfold removeRequest
  extract_lets tx returned freed
  have hreturned : LineKeeps ks Port.listening s returned := .ite (fun _ => lineKeeps_withdrawBreak hks s) fun _ => .refl ..
  have hfreed : LineKeeps ks Port.listening returned freed := .ite (fun _ => lineKeeps_txMap ..) fun _ => .refl ..
  exact ((hreturned.trans hfreed).trans (lineKeeps_discardTxHead ..)).trans (lineKeeps_servePendingBreak hks _)

theorem lineKeeps_cutTx (s : State) : LineKeeps ks Port.listening s (cutTx p s) := by
  unfold cutTx
  extract_lets t tail
  have htail (u : State) : LineKeeps ks Port.listening u (tail u) := lineKeeps_txMap ..
  split
  · exact htail s
  · exact lineKeeps_txMap ..
  · exact .ite (fun _ => (htail s).trans (lineKeeps_releaseBreak hks _)) fun _ => lineKeeps_txMap ..
  · exact (htail s).trans (lineKeeps_releaseBreak hks _)
  · exact .ite (fun _ => lineKeeps_removeRequest hks s) fun _ => (lineKeeps_withdrawBreak hks s).trans (lineKeeps_pMap ..)
  · exact .ite (fun _ => lineKeeps_removeRequest hks s) fun _ => lineKeeps_txMap ..
  · exact .refl ..
  · exact .refl ..

omit hks in
theorem txClearedKeys_en (hp : p < 48) : ∀ k ∈ txClearedKeys p, k ∉ [PT.EN.key p] := by
  have hne : PT.EV_TX_HELD.key p ≠ PT.EN.key p ∧ PT.TX_HELD.key p ≠ PT.EN.key p := ⟨port_key_ne p, port_key_ne p⟩
  have hdirect : RG.FIELD_CHANGE.key 0 ≠ PT.EN.key p ∧ RG.IRQ_LINE.key 0 ≠ PT.EN.key p :=
    ⟨(port_key_ne_direct hp).symm, (port_key_ne_direct hp).symm⟩
  simp [txClearedKeys, hne, hdirect]

/-- The transmit side of EN 0 leaves what the port listens to, and TX_BREAK reads 0 (R173, R192). -/
theorem txDisable_spec (h : InPortSpace ks) (s : State) :
    ∃ x, LineKeeps ks Port.listening s x ∧ txDisable p s = put PT.TX_BREAK p 0 x := by
  unfold txDisable
  extract_lets t cleared cut
  have hcleared : LineKeeps ks Port.listening s cleared := lineKeeps_pMap ..
  have hlost (u : State) : LineKeeps ks Port.listening u (ownerLost p t.owner (cutTx p u)) :=
    (lineKeeps_cutTx hks u).trans (lineKeeps_ownerLost h ..)
  have hcut : LineKeeps ks Port.listening cleared cut := by
    simp only [cut]
    split
    · exact hlost _
    · exact hlost _
    · exact .ite (fun _ => hlost _) fun _ => lineKeeps_cutTx hks _
    · exact .ite (fun _ => hlost _) fun _ => lineKeeps_cutTx hks _
    · exact .ite (fun _ => hlost _) fun _ => lineKeeps_cutTx hks _
    · exact lineKeeps_txMap ..
    · exact .refl ..
    · exact .refl ..
  refine ⟨_, (hcleared.trans hcut).trans (.ite (fun _ => .refl ..) fun _ => ?_), rfl⟩
  exact .ite (fun _ => lineKeeps_pMap ..) fun _ => .refl ..

end

end Sys2Proof.Machine

section

open Sys2Proof Sys2Proof.Machine

/-- Settles O19: the rate, the break, and the end of a port's work. -/
theorem lineSettingsTakeEffect : Obligations.LineSettingsTakeEffect := by
  refine ⟨?rate, ?refused, ?txBreak, ?disable⟩
  case rate =>
    intro dt p v s hserves hport hen hlow hhigh
    have hok : portOk (elapse dt s) p = true := by simpa [portOk] using hport
    have hp : p < 48 := lt_of_portOk hok
    obtain ⟨w, hports, hbaud, hen', hwrite⟩ := baudInc_accepted (v := v) ((mpServes_elapse dt s).trans hserves) hok
      (by rw [get_port_elapse hp, hen]) hlow hhigh
    have hport' : pGet p w = pGet p s := (pGet_congr hports p).trans (pGet_elapse ..)
    rw [get_port_elapse hp] at hwrite
    refine ⟨_, congrArg Host.Outcome.next hwrite, rfl, ?_⟩
    obtain ⟨hget, howed⟩ := frame_line p (fun m => { m with answer := 0 }) [(1, 32 * p + 1, v.toNat, false)]
      (if get PT.BAUD_INC p s ≠ v.toNat then formatWritten p w else w)
    rw [hget, howed, regFmt_congr hget]
    by_cases hchanged : get PT.BAUD_INC p s ≠ v.toNat
    · rw [if_pos hchanged]
      obtain ⟨hkept, hrx, htx⟩ := formatWritten_disabled hen'
      rw [txOf, hport', ← txOf] at htx
      rw [regFmt_congr hkept]
      exact ⟨by rw [hkept, hbaud], fun _ => ⟨hrx, htx⟩⟩
    · rw [if_neg hchanged]
      exact ⟨hbaud, fun h => absurd h hchanged⟩
  case refused =>
    intro dt p v s hserves hport h
    have hrefused := baudInc_refused (v := v) ((mpServes_elapse dt s).trans hserves) (s := elapse dt s) (by simpa [portOk] using hport) h
    exact ⟨_, congrArg Host.Outcome.next hrefused, rfl, rfl⟩
  case txBreak =>
    intro dt p s hp htaken hen hbreak hphase htrim
    obtain ⟨w, l, hunits, -, hrest, -, ht⟩ := setFields_txBreak htaken
    have hport : pGet p w = pGet p s := by rw [hunits]; exact pGet_elapse ..
    have hen' : get PT.EN p w = 1 :=
      (hrest (PT.EN, p) (portCtrl_mem p (by decide)) (.inl (show PT.EN ∉ [PT.TX_BREAK] by decide))).trans
        ((get_port_elapse (f := PT.EN) hp (by decide) dt s).trans hen)
    have hbreak' : get PT.TX_BREAK p w = 0 :=
      (hrest (PT.TX_BREAK, p) (portCtrl_mem p (by decide)) (.inr (show PT.TX_BREAK.acc ≠ .rw by decide))).trans
        ((get_port_elapse (f := PT.TX_BREAK) hp (by decide) dt s).trans hbreak)
    obtain ⟨x, hasks, hset⟩ := txBreakWritten_asks hen' hbreak' (by rw [txOf, hport]; exact hphase) (by rw [hport]; exact htrim)
    rw [hasks] at ht
    obtain ⟨hget, hwait, hqueued⟩ := askBreak_spec p false x
    exact ⟨_, congrArg Host.Outcome.next ht, rfl, (hget ..).trans hset, hwait, hqueued⟩
  case disable =>
    intro dt p s hp htaken hen
    obtain ⟨w, l, -, hgiven, -, -, ht⟩ := setFields_portDisable htaken (by rw [get_port_elapse hp, hen])
    have hen' : get PT.EN p w = 0 := hgiven (PT.EN, 0) (by simp) rfl
    obtain ⟨hkept, hreceiver, hopen⟩ := rxDisable_spec hp w
    obtain ⟨x, hx, hoff⟩ := txDisable_spec (p := p) (ks := [PT.EN.key p]) (txClearedKeys_en hp) (inPortSpace_one hp) (rxDisable p w)
    have hlistening : (pGet p (judge p (txDisable p (rxDisable p w)))).listening = (pGet p (rxDisable p w)).listening := by
      rw [(lineKeeps_judge inPortSpace_nil ..).ports, hoff, pGet_congr (s := x) (by simp), hx.ports]
    have hoff' : get PT.EN p (judge p (txDisable p (rxDisable p w))) = 0 := by
      rw [get_judge hp, hoff, get_put_ne (port_key_ne p), hx.fields.get, hkept, hen']
    have hbreak : get PT.TX_BREAK p (judge p (txDisable p (rxDisable p w))) = 0 := by
      rw [get_judge hp, hoff, get_put_same, Nat.zero_mod]
    beta_reduce at ht
    generalize judge p (txDisable p (rxDisable p w)) = y at ht hlistening hoff' hbreak
    obtain ⟨hheard, hopened⟩ := Port.listening_eq hlistening
    obtain ⟨hrx, hheld, hafter⟩ := Port.receiver_eq (hheard.trans hreceiver)
    exact ⟨_, congrArg Host.Outcome.next ht, rfl, hoff', hrx, hheld, hafter, hopened.trans hopen, hbreak⟩

end

end

section

/-! ### The governor's cycle (13.3) -/

open Sys2Proof.Safety

namespace Sys2Proof.Machine

/-- Where the fields are that a governor cycle over pool `p` can change. -/
def governorKeys (p : Pool) : List Nat :=
  [(changeF p).key 0, (waitF p).key 0, (grantCntF p).key 0, (hwmF p).key 0, RG.IRQ_LEAVE.key 0]

/-- What a governor cycle over pool `p` leaves: the clock, the lines, the temperature states, the other pool, and every field but
its own. -/
structure GovernorKeeps (p : Pool) (s t : State) : Prop where
  now : t.now = s.now
  lineCtl : t.lineCtl = s.lineCtl
  heat : (t.leave.warm, t.leave.hot, t.leave.hotGuards) = (s.leave.warm, s.leave.hot, s.leave.hotGuards)
  other : ∀ q, q ≠ p → waiting q t = waiting q s ∧ grants q t = grants q s
  kept : ∀ g j, g.key j ∉ governorKeys p → get g j t = get g j s

theorem GovernorKeeps.trans {p : Pool} {s t u : State} (h : GovernorKeeps p s t) (h' : GovernorKeeps p t u) :
    GovernorKeeps p s u where
  now := h'.now.trans h.now
  lineCtl := h'.lineCtl.trans h.lineCtl
  heat := h'.heat.trans h.heat
  other q hq := ⟨(h'.other q hq).1.trans (h.other q hq).1, (h'.other q hq).2.trans (h.other q hq).2⟩
  kept g j hk := (h'.kept g j hk).trans (h.kept g j hk)

theorem waiting_congr {s t : State} (h : t.leave = s.leave) (p : Pool) : waiting p t = waiting p s := by
  unfold waiting; rw [h]

theorem grants_congr {s t : State} (h : t.leave = s.leave) (p : Pool) : grants p t = grants p s := by
  unfold grants; rw [h]

/-- The thermal rules go by the governor's temperature states alone (R789, R791). -/
theorem eligible_congr {s t : State}
    (h : (t.leave.warm, t.leave.hot, t.leave.hotGuards) = (s.leave.warm, s.leave.hot, s.leave.hotGuards)) (r : LeaveReq) :
    eligible r t = eligible r s := by
  simp only [Prod.mk.injEq] at h
  unfold eligible
  rw [h.1, h.2.1, h.2.2]

@[simp] theorem waiting_setWaiting (p : Pool) (l : List LeaveReq) (s : State) : waiting p (setWaiting p l s) = l := by
  cases p <;> rfl
@[simp] theorem grants_setWaiting (p q : Pool) (l : List LeaveReq) (s : State) : grants q (setWaiting p l s) = grants q s := by
  cases p <;> cases q <;> rfl
@[simp] theorem grants_setGrants (p : Pool) (l : List Grant) (s : State) : grants p (setGrants p l s) = l := by
  cases p <;> rfl
@[simp] theorem waiting_setGrants (p q : Pool) (l : List Grant) (s : State) : waiting q (setGrants p l s) = waiting q s := by
  cases p <;> cases q <;> rfl

theorem setWaiting_self (p : Pool) (s : State) : setWaiting p (waiting p s) s = s := by cases p <;> rfl
theorem setGrants_self (p : Pool) (s : State) : setGrants p (grants p s) s = s := by cases p <;> rfl

@[simp] theorem setWaiting_now (p : Pool) (l : List LeaveReq) (s : State) : (setWaiting p l s).now = s.now := by cases p <;> rfl
@[simp] theorem setGrants_now (p : Pool) (l : List Grant) (s : State) : (setGrants p l s).now = s.now := by cases p <;> rfl
@[simp] theorem get_setWaiting (g : Fld) (j : Nat) (p : Pool) (l : List LeaveReq) (s : State) :
    get g j (setWaiting p l s) = get g j s := by cases p <;> rfl
@[simp] theorem get_setGrants (g : Fld) (j : Nat) (p : Pool) (l : List Grant) (s : State) :
    get g j (setGrants p l s) = get g j s := by cases p <;> rfl

theorem governorKeeps_setWaiting (p : Pool) (l : List LeaveReq) (s : State) : GovernorKeeps p s (setWaiting p l s) where
  now := by cases p <;> rfl
  lineCtl := by cases p <;> rfl
  heat := by cases p <;> rfl
  other q hq := by cases p <;> cases q <;> simp [setWaiting, waiting, grants] at hq ⊢
  kept g j _ := get_setWaiting ..

theorem governorKeeps_setGrants (p : Pool) (l : List Grant) (s : State) : GovernorKeeps p s (setGrants p l s) where
  now := by cases p <;> rfl
  lineCtl := by cases p <;> rfl
  heat := by cases p <;> rfl
  other q hq := by cases p <;> cases q <;> simp [setGrants, waiting, grants] at hq ⊢
  kept g j _ := get_setGrants ..

/-- A change of the pool's own fields. -/
theorem GovernorKeeps.of_fields {p : Pool} {s t : State} (hnow : t.now = s.now) (hctl : t.lineCtl = s.lineCtl)
    (hleave : t.leave = s.leave) (hkept : ∀ g j, g.key j ∉ governorKeys p → get g j t = get g j s) : GovernorKeeps p s t where
  now := hnow
  lineCtl := hctl
  heat := by rw [hleave]
  other q _ := ⟨waiting_congr hleave q, grants_congr hleave q⟩
  kept := hkept

theorem GovernorKeeps.refl (p : Pool) (s : State) : GovernorKeeps p s s := .of_fields rfl rfl rfl fun _ _ _ => rfl

theorem governorKeeps_checkBudget (p : Pool) (s : State) : GovernorKeeps p s (checkBudget p s) := by
  obtain ⟨hnow, hleave, -, hctl, -⟩ := checkBudget_fields p s
  refine .of_fields hnow hctl hleave fun g j hk => ?_
  unfold checkBudget
  split
  · exact get_put_ne (ne_of_mem_of_not_mem (by simp [governorKeys]) hk).symm ..
  · rfl

/-- A request as a governor cycle in state `s` leaves it waiting (R770). -/
def LeaveReq.left (s : State) (r : LeaveReq) : LeaveReq := { r with waited := r.waited || r.seen s }

theorem markWaits_spec (p : Pool) (s : State) : GovernorKeeps p s (grantCycle.markWaits p s) ∧
    waiting p (grantCycle.markWaits p s) = (waiting p s).map (LeaveReq.left s) ∧
    grants p (grantCycle.markWaits p s) = grants p s := by
  unfold grantCycle.markWaits
  extract_lets fresh t
  have ht : GovernorKeeps p s t := governorKeeps_setWaiting ..
  have hwait : waiting p t = (waiting p s).map (LeaveReq.left s) := waiting_setWaiting ..
  have hgrants : grants p t = grants p s := grants_setWaiting ..
  clear_value t
  split
  · refine ⟨ht.trans (.of_fields (by simp) (by simp) (by simp) fun g j hk => ?_), ?_, ?_⟩
    · exact get_raise_ne (ne_of_mem_of_not_mem (by simp [governorKeys]) hk).symm
        (ne_of_mem_of_not_mem (by simp [governorKeys]) hk).symm t
    · rw [waiting_congr (s := t) (by simp), hwait]
    · rw [grants_congr (s := t) (by simp), hgrants]
  · exact ⟨ht, hwait, hgrants⟩

theorem governorKeeps_markUnits (p : Pool) (s : State) : GovernorKeeps p s (markUnits p s) ∧ (markUnits p s).leave = s.leave := by
  unfold markUnits
  split
  · refine ⟨.of_fields (by simp) (by simp) (by simp) fun g j hk => ?_, by simp⟩
    exact get_putHw_ne (ne_of_mem_of_not_mem (by simp [governorKeys]) hk).symm ..
  · exact ⟨.refl p s, rfl⟩

/-- What a request becomes that is granted in the cycle of `s` (R766). -/
def LeaveReq.grant (s : State) (r : LeaveReq) : Grant := ⟨r.kind, r.units, s.now⟩

/-- The grants of a cycle are counted, and the high-water mark follows them. -/
theorem governorKeeps_counted (p : Pool) (g : List LeaveReq) (s : State) :
    GovernorKeeps p s (if g.isEmpty then s else markUnits p (bumpBy (grantCntF p) 0 g.length s)) ∧
    (if g.isEmpty then s else markUnits p (bumpBy (grantCntF p) 0 g.length s)).leave = s.leave := by
  split
  · exact ⟨.refl p s, rfl⟩
  · obtain ⟨hunits, hsame⟩ := governorKeeps_markUnits p (bumpBy (grantCntF p) 0 g.length s)
    refine ⟨GovernorKeeps.trans (.of_fields (by simp) (by simp) (by simp) fun f j hk => ?_) hunits, by simp [hsame]⟩
    exact get_bumpBy_ne (ne_of_mem_of_not_mem (by simp [governorKeys]) hk).symm ..

/-- The requests of pool `p` that the cycle of `s` grants, and those it leaves waiting: while a budget change is pending, all (R734,
R765). -/
def served (p : Pool) (s : State) : List LeaveReq × List LeaveReq :=
  if get (changeF p) 0 (checkBudget p s) = 1 then ([], waiting p s)
  else walk (checkBudget p s) (freeUnits p (checkBudget p s)) false (waiting p s)

theorem grantCycle_spec (p : Pool) (s : State) : GovernorKeeps p s (grantCycle p s) ∧
    waiting p (grantCycle p s) = (served p s).2.map (LeaveReq.left s) ∧
    grants p (grantCycle p s) = grants p s ++ (served p s).1.map (LeaveReq.grant s) := by
  obtain ⟨hnow, hleave, -⟩ := checkBudget_fields p s
  have hcheck := governorKeeps_checkBudget p s
  have hleft (l : List LeaveReq) {t : State} (ht : t.now = s.now) : l.map (LeaveReq.left t) = l.map (LeaveReq.left s) := by
    simp [LeaveReq.left, LeaveReq.seen, ht]
  unfold grantCycle served
  rw [← waiting_congr hleave p, ← grants_congr hleave p]
  generalize checkBudget p s = c at hnow hcheck
  dsimp only
  split
  · obtain ⟨hmark, hwait, hgrants⟩ := markWaits_spec p c
    exact ⟨hcheck.trans hmark, by rw [hwait, hleft _ hnow], by simp [hgrants]⟩
  · generalize walk c (freeUnits p c) false (waiting p c) = r
    obtain ⟨g, w⟩ := r
    dsimp only
    generalize hmoves : setGrants p (grants p c ++ g.map fun r => ⟨r.kind, r.units, c.now⟩) (setWaiting p w c) = moved
    have hmoved : GovernorKeeps p c moved ∧ waiting p moved = w ∧ grants p moved = grants p c ++ g.map (LeaveReq.grant s) := by
      rw [← hmoves]
      exact ⟨(governorKeeps_setWaiting p w c).trans (governorKeeps_setGrants ..), by simp, by simp [LeaveReq.grant, hnow]⟩
    obtain ⟨hcounted, hsame⟩ := governorKeeps_counted p g moved
    generalize (if g.isEmpty then moved else markUnits p (bumpBy (grantCntF p) 0 g.length moved)) = counted at hcounted hsame ⊢
    obtain ⟨hmark, hwait, hgrants⟩ := markWaits_spec p counted
    have hnow' : counted.now = s.now := (hcounted.now.trans hmoved.1.now).trans hnow
    refine ⟨((hcheck.trans hmoved.1).trans hcounted).trans hmark, ?_, ?_⟩
    · rw [hwait, waiting_congr hsame, hleft _ hnow', hmoved.2.1]
    · rw [hgrants, grants_congr hsame, hmoved.2.2]

/-- A walk grants no more units than are free (R765). -/
theorem walk_units_le (s : State) (free : Nat) (stop : Bool) (l : List LeaveReq) :
    ((walk s free stop l).1.map LeaveReq.units).sum ≤ free := by
  induction l generalizing free stop with
  | nil => simp [walk]
  | cons r l ih =>
    unfold walk
    split
    · exact ih ..
    · split
      · next hfits =>
        have := ih (free - r.units) stop
        simp only [List.map_cons, List.sum_cons]
        omega
      · exact ih ..

/-- The front request is granted when it is eligible, made in an earlier cycle, and fits (R765, R766). -/
theorem mem_walk_front {s : State} {free : Nat} {r : LeaveReq} {l : List LeaveReq} (heligible : eligible r s = true)
    (hseen : r.seen s = true) (hfits : r.units ≤ free) : r ∈ (walk s free false (r :: l)).1 := by
  unfold walk
  rw [if_neg (by simp [heligible, hseen]), if_pos hfits]
  exact List.mem_cons_self ..

/-- Nothing is granted where no request that waits is eligible (R789, R791). -/
theorem walk_ineligible {s : State} {l : List LeaveReq} (h : ∀ r ∈ l, eligible r s = false) (free : Nat) (stop : Bool) :
    walk s free stop l = ([], l) := by
  induction l with
  | nil => rfl
  | cons r l ih =>
    unfold walk
    rw [if_pos (by simp [h r (by simp)]), ih fun x hx => h x (by simp [hx])]

theorem served_ineligible {p : Pool} {s : State} (h : ∀ r ∈ waiting p s, eligible r s = false) : served p s = ([], waiting p s) := by
  unfold served
  split
  · rfl
  · refine walk_ineligible (fun r hr => ?_) ..
    rw [eligible_congr (governorKeeps_checkBudget p s).heat, h r hr]

/-- A cycle over a pool with nothing waiting and no change pending changes nothing. -/
theorem grantCycle_idle {p : Pool} {s : State} (hwait : waiting p s = []) (hchange : get (changeF p) 0 s = 0) :
    grantCycle p s = s := by
  have hcheck : checkBudget p s = s := by simp [checkBudget, hchange]
  have hempty : setWaiting p [] s = s := by rw [← hwait, setWaiting_self]
  unfold grantCycle
  dsimp only
  rw [hcheck, if_neg (by omega), hwait]
  simp [walk, hempty, setGrants_self, grantCycle.markWaits, hwait]

/-- What a grant starts leaves the clock, the leave and every field but those of denied bursts (R625). -/
theorem grantOutcome_spec (k : LeaveKind) (s : State) : (grantOutcome k s).now = s.now ∧ (grantOutcome k s).leave = s.leave ∧
    ∀ g j, g.key j < 2048 → get g j (grantOutcome k s) = get g j s := by
  have hflash (a : State) : (flashStart a).now = a.now ∧ (flashStart a).leave = a.leave ∧
      ∀ g j, get g j (flashStart a) = get g j a := by
    unfold flashStart flashStart.begun
    split <;> exact ⟨rfl, rfl, fun _ _ => rfl⟩
  cases k with
  | burst u =>
    refine ⟨rfl, rfl, fun g j hk => get_put_ne ?_ ..⟩
    have : 2048 ≤ UL.LEAVE_DENIED.key u := by
      simp only [Fld.key, UL.LEAVE_DENIED]
      omega
    omega
  | flashProgram | flashErase => exact ⟨(hflash s).1, (hflash s).2.1, fun g j _ => (hflash s).2.2 g j⟩
  | brk p | switchOn p | slice p | gfActivate k => exact ⟨rfl, rfl, fun _ _ _ => rfl⟩

theorem foldl_grantOutcome_spec (l : List LeaveKind) (s : State) :
    (l.foldl (fun a k => grantOutcome k a) s).now = s.now ∧ (l.foldl (fun a k => grantOutcome k a) s).leave = s.leave ∧
    ∀ g j, g.key j < 2048 → get g j (l.foldl (fun a k => grantOutcome k a) s) = get g j s := by
  induction l generalizing s with
  | nil => exact ⟨rfl, rfl, fun _ _ _ => rfl⟩
  | cons k l ih =>
    obtain ⟨hnow, hleave, hget⟩ := grantOutcome_spec k s
    obtain ⟨hnow', hleave', hget'⟩ := ih (grantOutcome k s)
    exact ⟨hnow'.trans hnow, hleave'.trans hleave, fun g j hk => (hget' g j hk).trans (hget g j hk)⟩

/-- Both pools' cycles (R765). -/
def poolCycles (s : State) : State := grantCycle .field (grantCycle .die s)

/-- The kinds that hold a grant in `t` and held none in `s`. -/
def newlyHeld (s t : State) : List LeaveKind :=
  ((t.leave.dieGr ++ t.leave.fieldGr).map Grant.kind).filter fun k => !((s.leave.dieGr ++ s.leave.fieldGr).map Grant.kind).contains k

theorem governorCycle_eq {s : State} (hdie : oversize .die s = []) (hfield : oversize .field s = []) :
    governorCycle s = (newlyHeld s (poolCycles s)).foldl (fun a k => grantOutcome k a) (poolCycles s) := by
  unfold governorCycle
  rw [hdie, hfield]
  rfl

theorem newlyHeld_of_same {s t : State} (hdie : grants .die t = grants .die s) (hfield : grants .field t = grants .field s) :
    newlyHeld s t = [] := by
  simp only [grants] at hdie hfield
  unfold newlyHeld
  rw [hdie, hfield, List.filter_eq_nil_iff]
  intro k hk
  simp only [Bool.not_eq_true, Bool.not_eq_false', List.contains_iff_mem]
  exact hk

theorem oversize_nil {p : Pool} {s : State} (h : ∀ r ∈ waiting p s, r.units ≤ get (budgetF p) 0 s) : oversize p s = [] := by
  unfold oversize
  rw [List.filter_eq_nil_iff]
  intro r hr
  have := h r hr
  simp only [Bool.and_eq_true, decide_eq_true_eq]
  omega

/-- With nothing waiting and no change pending a governor cycle changes nothing. -/
theorem governorCycle_idle {s : State} (hdie : s.leave.die = []) (hfield : s.leave.field = []) (hdieChange : get RG.DIE_CHANGE 0 s = 0)
    (hfieldChange : get RG.FIELD_CHANGE 0 s = 0) : governorCycle s = s := by
  have hcycles : poolCycles s = s := by
    unfold poolCycles
    rw [grantCycle_idle (p := .die) hdie hdieChange, grantCycle_idle (p := .field) hfield hfieldChange]
  rw [governorCycle_eq (by simp [oversize, waiting, hdie]) (by simp [oversize, waiting, hfield]), hcycles,
    newlyHeld_of_same rfl rfl]
  rfl

/-- The DIE queue's first request is granted where it is eligible and fits, and the grants stay within the budget (R765, R768). -/
theorem governorCycle_grants {r : LeaveReq} {l : List LeaveReq} {s : State} (hqueue : s.leave.die = r :: l)
    (heligible : eligible r s = true) (hseen : r.seen s = true) (hunits : 0 < r.units) (hfits : r.units ≤ freeUnits .die s)
    (hdie : oversize .die s = []) (hfield : oversize .field s = []) :
    (governorCycle s).now = s.now ∧ r.grant s ∈ (governorCycle s).leave.dieGr ∧
    granted .die s + r.units ≤ granted .die (governorCycle s) ∧
    granted .die (governorCycle s) ≤ get RG.DIE_BUDGET 0 (governorCycle s) := by
  have hchange : get RG.DIE_CHANGE 0 s ≠ 1 := by
    intro h
    have : freeUnits .die s = 0 := if_pos h
    omega
  have hfree : freeUnits .die s = get RG.DIE_BUDGET 0 s - granted .die s := if_neg hchange
  have hcheck : checkBudget .die s = s := by simp [checkBudget, changeF, hchange]
  have hserved : served .die s = walk s (freeUnits .die s) false (r :: l) := by
    unfold served
    rw [hcheck, if_neg (show ¬ get (changeF .die) 0 s = 1 from hchange), waiting, hqueue]
  have hfront : r ∈ (served .die s).1 := hserved ▸ mem_walk_front heligible hseen hfits
  have hsum : ((served .die s).1.map LeaveReq.units).sum ≤ freeUnits .die s := hserved ▸ walk_units_le ..
  have hleast : r.units ≤ ((served .die s).1.map LeaveReq.units).sum := List.single_le_sum (by simp) _ (List.mem_map_of_mem hfront)
  obtain ⟨hdieKeeps, -, hgrants⟩ := grantCycle_spec .die s
  obtain ⟨hfieldKeeps, -, -⟩ := grantCycle_spec .field (grantCycle .die s)
  obtain ⟨hnow, hleave, hget⟩ := foldl_grantOutcome_spec (newlyHeld s (poolCycles s)) (poolCycles s)
  rw [← governorCycle_eq hdie hfield] at hnow hleave hget
  have hgrants' : grants .die (governorCycle s) = grants .die s ++ (served .die s).1.map (LeaveReq.grant s) := by
    rw [grants_congr hleave, poolCycles, (hfieldKeeps.other .die (by decide)).2, hgrants]
  have hgranted : granted .die (governorCycle s) = granted .die s + ((served .die s).1.map LeaveReq.units).sum := by
    simp only [granted, hgrants', List.map_append, List.sum_append, List.map_map]
    rfl
  have hbudget : get RG.DIE_BUDGET 0 (governorCycle s) = get RG.DIE_BUDGET 0 s := by
    rw [hget _ _ (by decide), poolCycles, hfieldKeeps.kept _ _ (by decide), hdieKeeps.kept _ _ (by decide)]
  refine ⟨?_, ?_, by omega, by omega⟩
  · rw [hnow, poolCycles, hfieldKeeps.now, hdieKeeps.now]
  · show r.grant s ∈ grants .die (governorCycle s)
    rw [hgrants']
    exact List.mem_append_right _ (List.mem_map_of_mem hfront)

/-- Where no request that waits is eligible, a governor cycle leaves them all waiting (R789, R791). -/
theorem governorCycle_ineligible {s : State} (hdie : oversize .die s = []) (hfield : oversize .field s = [])
    (h : ∀ p, ∀ r ∈ waiting p s, eligible r s = false) :
    (governorCycle s).now = s.now ∧ (governorCycle s).lineCtl = s.lineCtl ∧
    (∀ p, waiting p (governorCycle s) = (waiting p s).map (LeaveReq.left s)) ∧
    ∀ g j, g.key j ∉ governorKeys .die ++ governorKeys .field → get g j (governorCycle s) = get g j s := by
  obtain ⟨hdieKeeps, hdieWaits, hdieGrants⟩ := grantCycle_spec .die s
  obtain ⟨hfieldKeeps, hfieldWaits, hfieldGrants⟩ := grantCycle_spec .field (grantCycle .die s)
  have hothers := hdieKeeps.other .field (by decide)
  have hothers' := hfieldKeeps.other .die (by decide)
  have hserved : served .field (grantCycle .die s) = ([], waiting .field s) := by
    rw [served_ineligible, hothers.1]
    intro r hr
    rw [eligible_congr hdieKeeps.heat, h .field r (hothers.1 ▸ hr)]
  have hleft : LeaveReq.left (grantCycle .die s) = LeaveReq.left s := by
    funext r
    simp [LeaveReq.left, LeaveReq.seen, hdieKeeps.now]
  rw [served_ineligible (h .die)] at hdieWaits hdieGrants
  rw [hserved, hleft] at hfieldWaits
  rw [hserved] at hfieldGrants
  have hcycle : governorCycle s = poolCycles s := by
    rw [governorCycle_eq hdie hfield, newlyHeld_of_same]
    · rfl
    · exact hothers'.2.trans (by simpa using hdieGrants)
    · exact hfieldGrants.trans ((List.append_nil _).trans hothers.2)
  rw [hcycle]
  refine ⟨hfieldKeeps.now.trans hdieKeeps.now, hfieldKeeps.lineCtl.trans hdieKeeps.lineCtl, ?_, ?_⟩
  · rintro (_ | _)
    · exact hothers'.1.trans hdieWaits
    · exact hfieldWaits
  · intro g j hk
    simp only [List.mem_append, not_or] at hk
    exact (hfieldKeeps.kept g j hk.2).trans (hdieKeeps.kept g j hk.1)

/-! ### Wait limits (R769) -/

/-- What the removal of a request as timed out leaves, its pool's queue and marks apart. -/
theorem timeoutReq_spec {r : LeaveReq} (hlimited : r.limited = true) (s : State) :
    (timeoutReq r s).now = s.now ∧ (timeoutReq r s).lineCtl = s.lineCtl ∧ isWaiting r.kind (timeoutReq r s) = false ∧
    get (timeoutCntF r.kind.pool) 0 (timeoutReq r s) = (timeoutCntF r.kind.pool).count (get (timeoutCntF r.kind.pool) 0 s) 1 ∧
    get (timeoutF r.kind.pool) 0 (timeoutReq r s) = 1 ∧ get RG.IRQ_LEAVE 0 (timeoutReq r s) = 1 := by
  unfold timeoutReq
  extract_lets p left
  have hnow : left.now = s.now := setWaiting_now ..
  have hctl : left.lineCtl = s.lineCtl := (governorKeeps_setWaiting p _ s).lineCtl
  have hwait : isWaiting r.kind left = false := by
    show (waiting p left).any (fun x => x.kind == r.kind) = false
    rw [show waiting p left = _ from waiting_setWaiting ..]
    simp
  have hget (g : Fld) (j : Nat) : get g j left = get g j s := get_setWaiting ..
  clear_value left
  have hkeys : (timeoutCntF p).key 0 ∉ timeKeys ∧ (timeoutF p).key 0 ∉ timeKeys ∧ RG.IRQ_LEAVE.key 0 ∉ timeKeys ∧
      (timeoutF p).key 0 ≠ RG.IRQ_LEAVE.key 0 ∧ (timeoutCntF p).key 0 ≠ (timeoutF p).key 0 ∧
      (timeoutCntF p).key 0 ≠ RG.IRQ_LEAVE.key 0 ∧ (timeoutF p).width = 1 := by
    cases p <;> decide
  obtain ⟨hcntTime, hbitTime, hirqTime, hbitIrq, hcntBit, hcntIrq, hwidth⟩ := hkeys
  have hslice : ∀ q, r.kind ≠ .slice q := by
    intro q hq
    simp [LeaveReq.limited, hq] at hlimited
  split
  · exact absurd ‹_› (hslice _)
  · obtain ⟨hbit, hirq⟩ := get_raise_one (f := RG.IRQ_LEAVE) (g := timeoutF p) (i := 0) rfl hwidth hbitIrq (bump (timeoutCntF p) 0 left)
    refine ⟨by simp [hnow], by simp [hctl], ?_, ?_, ?_, ?_⟩
    · rw [← hwait]
      exact isWaiting_congr (by simp) r.kind
    · rw [get_logEvent hcntTime, get_raise_ne hcntIrq hcntBit, get_bump_same, hget]
    · rw [get_logEvent hbitTime, hbit]
    · rw [get_logEvent hirqTime, hirq]

/-- What the end of the wait of a single request `r` in pool `p` leaves before its outcome. -/
structure TimedOut (p : Pool) (r : LeaveReq) (s y : State) : Prop where
  now : y.now = max s.now r.limit
  lineCtl : y.lineCtl = s.lineCtl
  ended : isWaiting r.kind y = false
  counted : get (timeoutCntF p) 0 y = (timeoutCntF p).count (get (timeoutCntF p) 0 s) 1
  flagged : get (timeoutF p) 0 y = 1
  irq : get RG.IRQ_LEAVE 0 y = 1

/-- A single request that is not eligible times out at its wait limit (R769, R795). -/
theorem leaveTimeout_single {p : Pool} {r : LeaveReq} {s : State} (hwait : waiting p s = [r]) (hother : ∀ q, q ≠ p → waiting q s = [])
    (hpool : r.kind.pool = p) (hlimited : r.limited = true) (heligible : eligible r s = false) (hfits : r.units ≤ get (budgetF p) 0 s) :
    ∃ y, leaveTimeout s = timeoutOutcome r.kind y ∧ TimedOut p r s y := by
  have hqueues : s.leave.die ++ s.leave.field = [r] := by
    cases p
    · rw [show s.leave.die = [r] from hwait, show s.leave.field = [] from hother .field (by decide)]
      rfl
    · rw [show s.leave.field = [r] from hwait, show s.leave.die = [] from hother .die (by decide)]
      rfl
  have hlimit : nextLimit s = some r.limit := by
    unfold nextLimit
    rw [hqueues]
    simp [hlimited, least]
  have hleave : (runTo r.limit s).leave = s.leave := by simp
  have hmember : ∀ q, ∀ x ∈ waiting q (runTo r.limit s), q = p ∧ x = r := by
    intro q x hx
    rw [waiting_congr hleave] at hx
    by_cases hq : q = p
    · rw [hq, hwait] at hx
      exact ⟨hq, List.mem_singleton.mp hx⟩
    · rw [hother q hq] at hx
      exact absurd hx (List.not_mem_nil)
  have hbudget : get (budgetF p) 0 (runTo r.limit s) = get (budgetF p) 0 s := get_runTo (by cases p <;> decide) ..
  have hsmall (q : Pool) : oversize q (runTo r.limit s) = [] := by
    refine oversize_nil fun x hx => ?_
    obtain ⟨rfl, rfl⟩ := hmember q x hx
    rw [hbudget]
    exact hfits
  obtain ⟨hnow, hctl, hwaits, hget⟩ := governorCycle_ineligible (hsmall .die) (hsmall .field) fun q x hx => by
    obtain ⟨-, rfl⟩ := hmember q x hx
    rw [eligible_congr (s := s) (by rw [hleave]), heligible]
  rw [runTo_now] at hnow
  generalize hx : LeaveReq.left (runTo r.limit s) r = x at *
  have hkind : x.kind = r.kind ∧ x.limit = r.limit ∧ x.limited = true := by
    rw [← hx]
    exact ⟨rfl, rfl, hlimited⟩
  generalize hc : governorCycle (runTo r.limit s) = c at *
  have hqueue : waiting p c = [x] := by rw [hwaits p, waiting_congr hleave, hwait, ← hx]; rfl
  have hempty (q : Pool) (hq : q ≠ p) : waiting q c = [] := by rw [hwaits q, waiting_congr hleave, hother q hq]; rfl
  have hexpired : expired .die c ++ expired .field c = [x] := by
    have hmine : expired p c = [x] := by simp [expired, hqueue, hkind, hnow]
    have hothers (q : Pool) (hq : q ≠ p) : expired q c = [] := by simp [expired, hempty q hq]
    cases p
    · rw [hmine, hothers .field (by decide)]
      rfl
    · rw [hmine, hothers .die (by decide)]
      rfl
  obtain ⟨htime, hlines, hended, hcount, hflag, hirq⟩ := timeoutReq_spec hkind.2.2 c
  rw [hkind.1, hpool] at hcount hflag
  have hcounter : get (timeoutCntF p) 0 c = get (timeoutCntF p) 0 s := by
    rw [hget _ _ (by cases p <;> decide), get_runTo (by cases p <;> decide)]
  refine ⟨timeoutReq x c, ?_, htime.trans hnow, hlines.trans (hctl.trans (by simp)), hkind.1 ▸ hended, hcount.trans (by rw [hcounter]), hflag, hirq⟩
  unfold leaveTimeout
  rw [hlimit]
  dsimp only
  rw [hc, hexpired]
  exact congrArg (timeoutOutcome · (timeoutReq x c)) hkind.1

/-- With nothing waiting no wait limit passes. -/
theorem leaveTimeout_idle {s : State} (hdie : s.leave.die = []) (hfield : s.leave.field = []) : leaveTimeout s = s := by
  simp [leaveTimeout, nextLimit, hdie, hfield, least]

/-- A burst whose leave timed out is denied and asks again after 100 ms (R625). -/
theorem burstTimeout_spec (u : Nat) (s : State) :
    (burstTimeout u s).now = s.now ∧ (burstTimeout u s).leave = s.leave ∧ get UL.LEAVE_DENIED u (burstTimeout u s) = 1 ∧
    (uGet u (burstTimeout u s)).retryAt = some (s.now + cyclesMs 100) ∧
    ∀ g : Fld, g.key 0 ≠ RG.IRQ_UPLINK.key 0 → g.key 0 < 2048 → get g 0 (burstTimeout u s) = get g 0 s := by
  unfold burstTimeout
  extract_lets t
  refine ⟨by simp [t], by simp [t], ?_, by simp [t], fun g hirq hkey => ?_⟩
  · exact get_put_same UL.LEAVE_DENIED u 1 _
  · have hdenied : g.key 0 ≠ UL.LEAVE_DENIED.key u := by
      simp only [Fld.key, UL.LEAVE_DENIED] at hkey ⊢
      omega
    have hto : g.key 0 ≠ UL.LEAVE_TO.key u := by
      simp only [Fld.key, UL.LEAVE_TO] at hkey ⊢
      omega
    exact (get_put_ne (g := g) hdenied 1 (raise RG.IRQ_UPLINK UL.LEAVE_TO u s)).trans (get_raise_ne hirq hto s)

/-- Power as the concentrator sets it: in the shadow, and for a reconciled line at the guard. -/
theorem setPwr_spec (p st cause : Nat) (s : State) :
    get GL.PWR_STATE p (setPwr p st cause s) = st % 2 ^ GL.PWR_STATE.width ∧
    get GL.PWR_CAUSE p (setPwr p st cause s) = cause % 2 ^ GL.PWR_CAUSE.width ∧
    lnGet p (setPwr p st cause s) = (if (lcGet p s).reconciled then { lnGet p s with pwr := st, cause := cause } else lnGet p s) ∧
    ∀ g j, g.key j ≠ GL.PWR_STATE.key p → g.key j ≠ GL.PWR_CAUSE.key p → get g j (setPwr p st cause s) = get g j s := by
  have hkeys : GL.PWR_CAUSE.key p ≠ GL.PWR_STATE.key p := port_key_ne p
  unfold setPwr
  refine ⟨get_put_same .., (get_put_ne hkeys ..).trans (get_put_same ..), ?_, fun g j hstate hcause => ?_⟩
  · show lnGet p (if (lcGet p s).reconciled = true then lnMap p (fun x => { x with pwr := st, cause := cause }) s else s) = _
    rw [apply_ite (lnGet p), lnGet_lnMap_same]
  · refine (get_put_ne hstate ..).trans ((get_put_ne hcause ..).trans ?_)
    split <;> rfl

@[simp] theorem setPwr_leave (p st cause : Nat) (s : State) : (setPwr p st cause s).leave = s.leave := by
  unfold setPwr
  split <;> rfl

/-- A line whose leave timed out is switched off with LEAVE_TO, in both copies (R227). -/
theorem switchTimeout_spec (p : Nat) (s : State) :
    (switchTimeout p s).now = s.now ∧ (switchTimeout p s).leave = s.leave ∧
    get GL.PWR_STATE p (switchTimeout p s) = 5 ∧ get GL.PWR_CAUSE p (switchTimeout p s) = 7 ∧
    get GL.EV_LEAVE_TO p (switchTimeout p s) = 1 ∧
    ((lcGet p s).reconciled = true → (lnGet p (switchTimeout p s)).pwr = 5 ∧ (lnGet p (switchTimeout p s)).cause = 7) ∧
    ∀ g : Fld, g.key 0 ≠ RG.IRQ_GUARD.key 0 → g.key 0 < 33554432 → get g 0 (switchTimeout p s) = get g 0 s := by
  obtain ⟨hstate, hcause, hline, hother⟩ := setPwr_spec p 5 7 s
  unfold switchTimeout
  extract_lets t u
  have ht (g : Fld) (j : Nat) : get g j u = get g j (setPwr p 5 7 s) := rfl
  have hindexed (f : Fld) (hf : 1 ≤ f.space) : f.key p ≠ RG.IRQ_GUARD.key 0 := (direct_ne_indexed (by decide) hf).symm
  have hlines : lnGet p (raise RG.IRQ_GUARD GL.EV_LEAVE_TO p u) = lnGet p t := lnGet_congr (by simp [u]) p
  refine ⟨by simp [u, t], by simp [u, t, setPwr_leave], ?_, ?_, (get_raise_one rfl rfl (hindexed _ (by decide)) u).1, fun hrec => ?_, fun g hirq hdirect => ?_⟩
  · rw [get_raise_ne (hindexed _ (by decide)) (port_key_ne p), ht, hstate]
    rfl
  · rw [get_raise_ne (hindexed _ (by decide)) (port_key_ne p), ht, hcause]
    rfl
  · rw [hlines, lnGet_lnMap_same, hline, if_pos hrec]
    exact ⟨rfl, rfl⟩
  · have hne (f : Fld) (hf : 1 ≤ f.space) : g.key 0 ≠ f.key p := direct_ne_indexed hdirect hf
    rw [get_raise_ne hirq (hne _ (by decide)), ht, hother g 0 (hne _ (by decide)) (hne _ (by decide))]

/-! ### Budget changes (R734) -/

/-- A budget's word is plain: the budget alone. -/
theorem plainWord_budget (p : Pool) : PlainWord (budgetF p).space (wordOf (budgetF p) 0) := by
  cases p
  · exact plainWord_of (off := 0x20) (i := 0) (l := fldsRG) rfl rfl (by decide)
  · exact plainWord_of (off := 0x21) (i := 0) (l := fldsRG) rfl rfl (by decide)

theorem budget_mem (p : Pool) (n : Nat) : ∀ y ∈ [(budgetF p, n)],
    (y.1, 0) ∈ wordFields (budgetF p).space (wordOf (budgetF p) 0) ∧ y.1.acc ≠ .w1c := by
  intro y hy
  rw [List.mem_singleton.mp hy]
  cases p
  · exact ⟨show (RG.DIE_BUDGET, 0) ∈ wordFields 0 0x20 by decide, by simp [budgetF, RG.DIE_BUDGET]⟩
  · exact ⟨show (RG.FIELD_BUDGET, 0) ∈ wordFields 0 0x21 by decide, by simp [budgetF, RG.FIELD_BUDGET]⟩

/-- A taken write of a budget: it stands where it covers the grants and is pending otherwise (R734). -/
theorem setFields_budget {p : Pool} {n : Nat} {s : State} (h : taken 0 (budgetF p) [(budgetF p, n)] s) :
    ∃ t, setFields 0 [(budgetF p, n)] s = t ∧ t.mp.answer = 0 ∧ get (budgetF p) 0 t = n % 2 ^ (budgetF p).width ∧
      get (changeF p) 0 t = (if granted p s ≤ n % 2 ^ (budgetF p).width then 0 else 1) ∧ t.leave = s.leave := by
  have hwrote : wrote 0 (budgetF p) [(budgetF p, n)] (budgetWritten p) s (setFields 0 [(budgetF p, n)] s) := by
    refine setFields_wrote 0 (budgetF p) n [] s _ h (plainWord_budget p) ?_ ?_ ?_ (budget_mem p n) (List.pairwise_singleton ..) fun M w _ => ?_
    · cases p <;> rfl
    · cases p <;> simp [budgetF, RG.DIE_BUDGET, RG.FIELD_BUDGET]
    · cases p <;> exact .inl rfl
    · cases p <;> rfl
  obtain ⟨w, l, hunits, hgiven, -, -, ht⟩ := hwrote
  have hbudget : get (budgetF p) 0 w = n % 2 ^ (budgetF p).width := hgiven (budgetF p, n) (by simp) (by cases p <;> rfl)
  have hleave : w.leave = s.leave := by rw [hunits]
  have hkeys : (budgetF p).key 0 ≠ (changeF p).key 0 ∧ (changeF p).width = 1 := by cases p <;> decide
  refine ⟨_, ht, rfl, (get_put_ne hkeys.1 ..).trans hbudget, ?_, hleave⟩
  show get (changeF p) 0 (put (changeF p) 0 (if granted p w ≤ get (budgetF p) 0 w then 0 else 1) w) = _
  rw [get_put_same, hbudget, granted_congr hleave, hkeys.2]
  split <;> rfl

/-- A pending change takes effect once the grants have fallen to the budget. -/
theorem get_checkBudget (p : Pool) (s : State) :
    get (changeF p) 0 (checkBudget p s) = (if granted p s ≤ get (budgetF p) 0 s then 0 else get (changeF p) 0 s) := by
  have hbit : get (changeF p) 0 s < 2 := by
    have := get_lt (changeF p) 0 s
    rwa [show (changeF p).width = 1 by cases p <;> rfl] at this
  unfold checkBudget
  split
  · rename_i h
    simp only [Bool.and_eq_true, decide_eq_true_eq] at h
    rw [get_put_same, if_pos h.2]
    exact Nat.zero_mod _
  · rename_i h
    simp only [Bool.and_eq_true, decide_eq_true_eq, not_and] at h
    split
    · have := mt h
      omega
    · rfl

/-- BUDGET_CHANGE_EFFECT changes registers alone. -/
theorem budgetChange_regs (s : State) : budgetChange s = { s with regs := (budgetChange s).regs } := by
  have hregs (p : Pool) (a : State) : checkBudget p a = { a with regs := (checkBudget p a).regs } := by
    unfold checkBudget
    split <;> rfl
  unfold budgetChange
  generalize hd : checkBudget .die s = d
  rw [hregs .field d, ← hd, hregs .die s]

/-- Each pool's pending change takes effect by its own grants (R734). -/
theorem get_budgetChange (p : Pool) (s : State) :
    get (changeF p) 0 (budgetChange s) = (if granted p s ≤ get (budgetF p) 0 s then 0 else get (changeF p) 0 s) := by
  unfold budgetChange
  cases p with
  | die => rw [(governorKeeps_checkBudget .field _).kept _ _ (by decide), get_checkBudget]
  | field =>
    have hdie := governorKeeps_checkBudget .die s
    have hgranted : granted .field (checkBudget .die s) = granted .field s := by
      simp only [granted, (hdie.other .field (by decide)).2]
    rw [get_checkBudget, hgranted, hdie.kept _ _ (by decide), hdie.kept _ _ (by decide)]

end Sys2Proof.Machine

section

open Sys2Proof Sys2Proof.Machine

/-- Settles O49, clause by clause: an idle cycle, a grant, no wait limit, a denied burst, a switch-on without leave, the two budget
writes, a pending change. -/
theorem leaveIsGrantedOrTimesOut : Obligations.LeaveIsGrantedOrTimesOut := by
  refine ⟨?idle, ?grants, ?noLimit, ?burst, ?switchOn, ?fieldBudget, ?dieBudget, ?takesEffect⟩
  case idle =>
    intro dt s hdie hfield hdieChange hfieldChange
    refine congrArg Host.Outcome.next (governorCycle_idle (s := elapse dt s) ?_ ?_ ?_ ?_)
    · simpa using hdie
    · simpa using hfield
    · rwa [get_elapse (by decide)]
    · rwa [get_elapse (by decide)]
  case grants =>
    intro dt r l s hqueue heligible hunits hfits hseen hdie hfield
    have hleave : (elapse dt s).leave = s.leave := by simp
    have hfree : freeUnits .die (elapse dt s) = freeUnits .die s := by
      unfold freeUnits
      rw [granted_congr hleave, get_elapse (by decide), get_elapse (by decide)]
    obtain ⟨hnow, hmem, hmore, hwithin⟩ := governorCycle_grants (l := l) (by rw [hleave, hqueue])
      ((eligible_congr (by rw [hleave]) r).trans heligible) (by simpa [LeaveReq.seen] using hseen) hunits (by rwa [hfree]) hdie hfield
    rw [granted_congr hleave] at hmore
    refine ⟨_, rfl, by simpa using hnow, ?_, hmore, hwithin⟩
    simpa [LeaveReq.grant] using hmem
  case noLimit => exact fun s hdie hfield => congrArg Host.Outcome.next (leaveTimeout_idle hdie hfield)
  case burst =>
    intro u r s _ hdie hfield hkind heligible hfits _
    obtain ⟨y, heq, htimed⟩ := leaveTimeout_single (p := .die) (r := r) hdie (fun | .die, h => absurd rfl h | .field, _ => hfield)
      (by rw [hkind]; rfl) (by simp [LeaveReq.limited, hkind]) heligible hfits
    rw [hkind] at heq
    obtain ⟨hnow, hleave, hdenied, hretry, hother⟩ := burstTimeout_spec u y
    refine ⟨_, congrArg Host.Outcome.next heq, hnow.trans htimed.now, ?_, ?_, ?_, ?_, hdenied, hretry.trans (by rw [← hnow]; rfl)⟩
    · rw [← htimed.ended]
      exact isWaiting_congr hleave _
    · exact (hother RG.DIE_TO_CNT (by decide) (by decide)).trans htimed.counted
    · exact (hother RG.DIE_TIMEOUT (by decide) (by decide)).trans htimed.flagged
    · exact (hother RG.IRQ_LEAVE (by decide) (by decide)).trans htimed.irq
  case switchOn =>
    intro p r s _ hfield hdie hkind heligible hfits _
    obtain ⟨y, heq, htimed⟩ := leaveTimeout_single (p := .field) (r := r) hfield (fun | .field, h => absurd rfl h | .die, _ => hdie)
      (by rw [hkind]; rfl) (by simp [LeaveReq.limited, hkind]) heligible hfits
    rw [hkind] at heq
    obtain ⟨hnow, hleave, hstate, hcause, hevent, hguard, hother⟩ := switchTimeout_spec p y
    refine ⟨_, congrArg Host.Outcome.next heq, hnow.trans htimed.now, ?_, ?_, ?_, hstate, hcause, hevent, fun hrec => hguard ?_⟩
    · rw [← htimed.ended]
      exact isWaiting_congr hleave _
    · exact (hother RG.FIELD_TO_CNT (by decide) (by decide)).trans htimed.counted
    · exact (hother RG.FIELD_TIMEOUT (by decide) (by decide)).trans htimed.flagged
    · rwa [lcGet_congr htimed.lineCtl]
  case fieldBudget =>
    intro dt n s htaken
    obtain ⟨t, ht, hanswer, hbudget, hchange, hleave⟩ := setFields_budget (p := .field) htaken
    rw [granted_congr (show (elapse dt s).leave = s.leave by simp)] at hchange
    exact ⟨t, congrArg Host.Outcome.next ht, hanswer, hbudget, hchange, hleave.trans (by simp)⟩
  case dieBudget =>
    intro dt n s htaken
    obtain ⟨t, ht, hanswer, hbudget, hchange, hleave⟩ := setFields_budget (p := .die) htaken
    rw [granted_congr (show (elapse dt s).leave = s.leave by simp)] at hchange
    exact ⟨t, congrArg Host.Outcome.next ht, hanswer, hbudget, hchange, hleave.trans (by simp)⟩
  case takesEffect =>
    intro dt s
    have hsame (p : Pool) : (if granted p (elapse dt s) ≤ get (budgetF p) 0 (elapse dt s) then 0 else get (changeF p) 0 (elapse dt s)) =
        if granted p s ≤ get (budgetF p) 0 s then 0 else get (changeF p) 0 s := by
      rw [granted_congr (show (elapse dt s).leave = s.leave by simp), get_elapse (by cases p <;> decide), get_elapse (by cases p <;> decide)]
    exact ⟨_, rfl, budgetChange_regs _, (get_budgetChange .die _).trans (hsame .die), (get_budgetChange .field _).trans (hsame .field)⟩

end
end

section

/-! ### Transactions on the guard link (4.2) -/

open Sys2Proof.Safety

namespace Sys2Proof.Machine

/-! #### Bits of a guard mask -/

/-- A bit within a field's width reads as it was put. -/
theorem bitOf_mod {k w : Nat} (h : k < w) (v : Nat) : bitOf (v % 2 ^ w) k = bitOf v k := by
  have hbits : (v % 2 ^ w).testBit k = v.testBit k := by simp [Nat.testBit_mod_two_pow, h]
  rw [Nat.testBit_eq_decide_div_mod_eq, Nat.testBit_eq_decide_div_mod_eq] at hbits
  simpa [bitOf] using hbits

/-- A bit that is cleared reads as clear. -/
theorem bitOf_sub (v k : Nat) : bitOf (v - (v &&& 2 ^ k)) k = false := by
  rw [Nat.and_two_pow, bitOf]
  rcases hbit : v.testBit k with _ | _
  · rw [Nat.testBit_eq_decide_div_mod_eq, decide_eq_false_iff_not] at hbit
    simpa using hbit
  · rw [Nat.testBit_eq_decide_div_mod_eq, decide_eq_true_eq] at hbit
    have hdiv := Nat.sub_mul_div v (2 ^ k) 1
    rw [Nat.mul_one] at hdiv
    simp only [Bool.toNat_true, Nat.one_mul, hdiv, beq_eq_false_iff_ne]
    omega

/-- No variant has more than 6 guards (R7). -/
theorem lt_of_guardOk {s : State} {k : Nat} (h : guardOk s k = true) : k < 6 := by
  have hmost : Config.guards s.variant ≤ 6 := by cases s.variant <;> decide
  have hlt : k < Config.guards s.variant := by simpa [guardOk] using h
  omega

theorem lt_of_linkUsable {s : State} {k : Nat} (h : linkUsable k s = true) : k < 6 := by
  simp only [linkUsable, Bool.and_eq_true] at h
  exact lt_of_guardOk h.1

theorem usable_of_linkFree {s : State} {k : Nat} (h : linkFree k s = true) : linkUsable k s = true := by
  simp only [linkFree, Bool.and_eq_true] at h
  exact h.1

theorem talks_of_linkUsable {s : State} {k : Nat} (h : linkUsable k s = true) : (gGet k s).talks = true := by
  simp only [linkUsable, Bool.and_eq_true] at h
  exact h.2

/-- The bit of GUARD_LINK_OK, or of a byte of GUARD_ALERT, that belongs to a guard of the machine. -/
theorem bitOf_setBits {f : Fld} {k : Nat} (hf : f.width = 6) (hk : k < 6) (s : State) : bitOf (get f 0 (setBits f 0 (2 ^ k) s)) k = true := by
  rw [get_setBits_same, hf, bitOf_mod hk, bitOf_or]

theorem bitOf_maskBit {f : Fld} {k : Nat} (hf : f.width = 6) (hk : k < 6) (v : Bool) (s : State) :
    bitOf (get f 0 (maskBit f k v s)) k = v := by
  unfold maskBit
  dsimp only
  rw [get_put_same, hf, bitOf_mod hk]
  cases v
  · exact bitOf_sub ..
  · exact bitOf_or ..

/-! #### What a transaction leaves -/

/-- What a transaction with guard `k` leaves: the clock and the units; of the guard it changes the link's own data alone. -/
structure LinkKeeps (k : Nat) (s t : State) : Prop where
  now : t.now = s.now
  leave : t.leave = s.leave
  ports : t.ports = s.ports
  phase : t.sys.phase = s.sys.phase
  variant : t.variant = s.variant
  guard : ∃ link fails faulted, gGet k t = { gGet k s with link := link, fails := fails, faulted := faulted }

theorem LinkKeeps.refl (k : Nat) (s : State) : LinkKeeps k s s := ⟨rfl, rfl, rfl, rfl, rfl, _, _, _, rfl⟩

theorem LinkKeeps.trans {k : Nat} {s t u : State} (h : LinkKeeps k s t) (h' : LinkKeeps k t u) : LinkKeeps k s u := by
  refine ⟨h'.now.trans h.now, h'.leave.trans h.leave, h'.ports.trans h.ports, h'.phase.trans h.phase, h'.variant.trans h.variant, ?_⟩
  obtain ⟨link, fails, faulted, hguard⟩ := h.guard
  obtain ⟨link', fails', faulted', hguard'⟩ := h'.guard
  exact ⟨link', fails', faulted', by rw [hguard', hguard]⟩

/-- A change of registers and logs alone. -/
theorem LinkKeeps.of_units {k : Nat} {s t : State} (hnow : t.now = s.now) (hleave : t.leave = s.leave) (hports : t.ports = s.ports)
    (hsys : t.sys = s.sys) (hvariant : t.variant = s.variant) (hguards : t.guards = s.guards) : LinkKeeps k s t :=
  ⟨hnow, hleave, hports, by rw [hsys], hvariant, (gGet k s).link, (gGet k s).fails, (gGet k s).faulted, gGet_congr hguards k⟩

theorem linkKeeps_gMap {k : Nat} {s : State} {f : Guard → Guard} {link : GlXfer} {fails : Nat} {faulted : Bool}
    (h : f (gGet k s) = { gGet k s with link := link, fails := fails, faulted := faulted }) : LinkKeeps k s (gMap k f s) :=
  ⟨rfl, rfl, rfl, rfl, rfl, link, fails, faulted, (gGet_gMap_same k f s).trans h⟩

theorem linkKeeps_put (k : Nat) (f : Fld) (i v : Nat) (s : State) : LinkKeeps k s (put f i v s) := .of_units rfl rfl rfl rfl rfl rfl

theorem linkKeeps_bump (k : Nat) (f : Fld) (i : Nat) (s : State) : LinkKeeps k s (bump f i s) := .of_units rfl rfl rfl rfl rfl rfl

theorem linkKeeps_maskBit (k : Nat) (f : Fld) (i : Nat) (v : Bool) (s : State) : LinkKeeps k s (maskBit f i v s) := linkKeeps_put ..

theorem linkKeeps_setBits (k : Nat) (f : Fld) (i m : Nat) (s : State) : LinkKeeps k s (setBits f i m s) := .of_units rfl rfl rfl rfl rfl rfl

theorem linkKeeps_guardAlert (k : Nat) (f : Fld) (i : Nat) (s : State) : LinkKeeps k s (guardAlert f i s) :=
  (linkKeeps_setBits k f 0 (2 ^ i) s).trans (linkKeeps_setBits k RG.IRQ_GUARD 0 1 _)

theorem linkKeeps_logGuard (k sub i : Nat) (s : State) : LinkKeeps k s (logGuard sub i s) := by
  unfold logGuard
  exact .of_units (by simp) (by simp) (by simp) (by simp) (by simp) (by simp)

@[simp] theorem logGuard_guards (sub k : Nat) (s : State) : (logGuard sub k s).guards = s.guards := by simp [logGuard]

/-- A good transaction ends the failures and the link fault (R215). -/
theorem linkGood_spec (k : Nat) (s : State) : LinkKeeps k s (linkGood k s) ∧
    gGet k (linkGood k s) = { gGet k s with fails := 0, faulted := false } ∧
    (k < 6 → bitOf (get RG.GUARD_LINK_OK 0 (linkGood k s)) k = true) := by
  unfold linkGood
  extract_lets was t
  have ht : LinkKeeps k s t := LinkKeeps.trans (t := gMap k (fun g => { g with fails := 0, faulted := false }) s)
    (linkKeeps_gMap rfl) (linkKeeps_maskBit ..)
  have hguard : gGet k t = { gGet k s with fails := 0, faulted := false } :=
    gGet_gMap_same k (fun g => { g with fails := 0, faulted := false }) s
  have hbit (hk : k < 6) : bitOf (get RG.GUARD_LINK_OK 0 t) k = true := bitOf_maskBit rfl hk true _
  clear_value t
  split
  · refine ⟨(ht.trans (linkKeeps_put ..)).trans (linkKeeps_logGuard ..), ?_, fun hk => ?_⟩
    · rw [gGet_congr (logGuard_guards ..)]
      exact hguard
    · have hstate : RG.GUARD_LINK_OK.key 0 ≠ RG.MON_STATE.key k := by
        simp only [Fld.key, RG.GUARD_LINK_OK, RG.MON_STATE]
        omega
      rw [logGuard, get_logEvent (by decide), get_put_ne hstate, hbit hk]
  · exact ⟨ht, hguard, hbit⟩

/-- The third failure in a row marks the link (R215). -/
def linkFaulted (k : Nat) (s : State) : State :=
  logGuard 0 k (guardAlert RG.GA_LINK_FAULT k (put RG.MON_STATE k 4 (maskBit RG.GUARD_LINK_OK k false
    (gMap k (fun g => { g with faulted := true }) s))))

theorem linkBad_eq (k : Nat) (s : State) : linkBad k s =
    if 2 ≤ (gGet k s).fails ∧ (gGet k s).faulted = false then linkFaulted k (gMap k (fun g => { g with fails := g.fails + 1 }) s)
    else gMap k (fun g => { g with fails := g.fails + 1 }) s := by
  have hthird : (3 ≤ (gGet k (gMap k (fun g => { g with fails := g.fails + 1 }) s)).fails ∧
      (!(gGet k (gMap k (fun g => { g with fails := g.fails + 1 }) s)).faulted) = true) ↔
      (2 ≤ (gGet k s).fails ∧ (gGet k s).faulted = false) := by
    rw [gGet_gMap_same]
    simp
  unfold linkBad
  dsimp only
  exact ite_congr (propext hthird) (fun _ => rfl) fun _ => rfl

theorem linkFaulted_spec (k : Nat) (s : State) : LinkKeeps k s (linkFaulted k s) ∧
    gGet k (linkFaulted k s) = { gGet k s with faulted := true } := by
  have hguard : gGet k (linkFaulted k s) = { gGet k s with faulted := true } := by
    rw [linkFaulted, gGet_congr (logGuard_guards ..)]
    exact gGet_gMap_same k (fun g => { g with faulted := true }) s
  have hmarked : LinkKeeps k s (gMap k (fun g => { g with faulted := true }) s) := linkKeeps_gMap rfl
  exact ⟨(((hmarked.trans (linkKeeps_maskBit ..)).trans (linkKeeps_put ..)).trans (linkKeeps_guardAlert ..)).trans (linkKeeps_logGuard ..), hguard⟩

/-- One more failure. -/
theorem linkBad_spec (k : Nat) (s : State) : LinkKeeps k s (linkBad k s) ∧ (gGet k (linkBad k s)).fails = (gGet k s).fails + 1 := by
  have hcounted : LinkKeeps k s (gMap k (fun g => { g with fails := g.fails + 1 }) s) := linkKeeps_gMap rfl
  have hfails : (gGet k (gMap k (fun g => { g with fails := g.fails + 1 }) s)).fails = (gGet k s).fails + 1 := by rw [gGet_gMap_same]
  rw [linkBad_eq]
  split
  · obtain ⟨hkeeps, hguard⟩ := linkFaulted_spec k (gMap k (fun g => { g with fails := g.fails + 1 }) s)
    exact ⟨hcounted.trans hkeeps, by rw [hguard]; exact hfails⟩
  · exact ⟨hcounted, hfails⟩

theorem linkKeeps_linkTry (k : Nat) (e : GlEnd) (s : State) : LinkKeeps k s (linkTry k e s) := by
  cases e with
  | ok | refused => exact (linkGood_spec k s).1
  | requestCrc | busy => exact (linkBad_spec k s).1
  | replyCrc => exact (linkKeeps_bump k RG.GL_ERR_CNT 0 s).trans (linkBad_spec k _).1
  | holdOff a => exact (linkKeeps_bump k RG.GL_HOLD_TO_CNT 0 s).trans (linkBad_spec k _).1

/-- The state in which the last try of a transaction begins. -/
def lastTry (k : Nat) (req data : List Byte) (o : GlOutcome) (s : State) : State :=
  each (List.range (min o.badReplies 2)) (fun _ a => linkTry k .replyCrc a) (gMap k (fun g => { g with link := ⟨req, glReply o data⟩ }) s)

theorem transact_eq (k : Nat) (req data : List Byte) (o : GlOutcome) (s : State) :
    transact k req data o s = watchHealth (linkTry k o.last (lastTry k req data o s)) := rfl

theorem linkKeeps_lastTry (k : Nat) (req data : List Byte) (o : GlOutcome) (s : State) : LinkKeeps k s (lastTry k req data o s) :=
  each_invariant (P := LinkKeeps k s) (fun _ a ha => ha.trans (linkKeeps_linkTry k .replyCrc a)) _ (linkKeeps_gMap rfl)

theorem linkKeeps_watchHealth (k : Nat) (s : State) : LinkKeeps k s (watchHealth s) := ⟨rfl, rfl, rfl, rfl, rfl, _, _, _, rfl⟩

theorem gGet_watchHealth (k : Nat) (s : State) : gGet k (watchHealth s) = gGet k s := rfl
theorem gGet_bump (k : Nat) (f : Fld) (i : Nat) (s : State) : gGet k (bump f i s) = gGet k s := rfl

theorem get_watchHealth (g : Fld) (j : Nat) (s : State) : get g j (watchHealth s) = get g j s := get_congr _ _ rfl rfl rfl

theorem linkKeeps_transact (k : Nat) (req data : List Byte) (o : GlOutcome) (s : State) : LinkKeeps k s (transact k req data o s) := by
  rw [transact_eq]
  exact ((linkKeeps_lastTry ..).trans (linkKeeps_linkTry ..)).trans (linkKeeps_watchHealth ..)

/-- A transaction that the guard answers, OK or REFUSED, leaves a good link (R215). -/
theorem transact_good {k : Nat} {o : GlOutcome} (h : o.last = .ok ∨ o.last = .refused) (req data : List Byte) (s : State) :
    (gGet k (transact k req data o s)).fails = 0 ∧ (k < 6 → bitOf (get RG.GUARD_LINK_OK 0 (transact k req data o s)) k = true) := by
  obtain ⟨-, hguard, hbit⟩ := linkGood_spec k (lastTry k req data o s)
  have hgood : linkTry k o.last (lastTry k req data o s) = linkGood k (lastTry k req data o s) := by
    rcases h with h | h <;> rw [h] <;> rfl
  rw [transact_eq, hgood, get_watchHealth]
  exact ⟨congrArg Guard.fails hguard, hbit⟩

theorem good_of_isOk {o : GlOutcome} (h : o.isOk = true) : o.last = .ok ∨ o.last = .refused := .inl (by simpa [GlOutcome.isOk] using h)

/-- A failure that is not the third in a row is only counted (R215). -/
theorem transact_requestCrc {k h : Nat} {s : State} (hfails : (gGet k s).fails ≤ 1) (req data : List Byte) :
    (gGet k (transact k req data ⟨0, h, .requestCrc⟩ s)).fails = (gGet k s).fails + 1 ∧
    transact k req data ⟨0, h, .requestCrc⟩ s = { s with
      guards := (transact k req data ⟨0, h, .requestCrc⟩ s).guards
      sys := { s.sys with wellFrom := (transact k req data ⟨0, h, .requestCrc⟩ s).sys.wellFrom } } := by
  have hlast : lastTry k req data ⟨0, h, .requestCrc⟩ s = gMap k (fun g => { g with link := ⟨req, glReply ⟨0, h, .requestCrc⟩ data⟩ }) s := rfl
  have hguard : (gGet k (lastTry k req data ⟨0, h, .requestCrc⟩ s)).fails = (gGet k s).fails := by rw [hlast, gGet_gMap_same]
  have hbad : linkTry k .requestCrc (lastTry k req data ⟨0, h, .requestCrc⟩ s) =
      gMap k (fun g => { g with fails := g.fails + 1 }) (lastTry k req data ⟨0, h, .requestCrc⟩ s) := by
    exact (linkBad_eq k _).trans (if_neg (by rw [hguard]; omega))
  rw [transact_eq]
  dsimp only
  rw [hbad]
  refine ⟨?_, rfl⟩
  show (gGet k (gMap k (fun g => { g with fails := g.fails + 1 }) (lastTry k req data ⟨0, h, .requestCrc⟩ s))).fails = _
  rw [gGet_gMap_same, hguard]

/-- The link bookkeeping of a guard of the machine does not count errors by itself. -/
theorem get_errCnt_linkBad (k : Nat) (s : State) : get RG.GL_ERR_CNT 0 (linkBad k s) = get RG.GL_ERR_CNT 0 s := by
  have hstate : RG.GL_ERR_CNT.key 0 ≠ RG.MON_STATE.key k := by
    simp only [Fld.key, RG.GL_ERR_CNT, RG.MON_STATE]
    omega
  rw [linkBad_eq]
  split
  · rw [linkFaulted, logGuard, get_logEvent (by decide), guardAlert, get_irq_ne (by decide), get_setBits_ne (by decide),
      get_put_ne hstate, maskBit, get_put_ne (by decide)]
    rfl
  · rfl

/-- A reply whose CRC fails counts as an error and as a failure of the link (R214, R215). -/
theorem transact_replyCrc (k h : Nat) (req data : List Byte) (s : State) :
    (gGet k (transact k req data ⟨0, h, .replyCrc⟩ s)).fails = (gGet k s).fails + 1 ∧
    get RG.GL_ERR_CNT 0 (transact k req data ⟨0, h, .replyCrc⟩ s) = RG.GL_ERR_CNT.count (get RG.GL_ERR_CNT 0 s) 1 := by
  have hlast : lastTry k req data ⟨0, h, .replyCrc⟩ s = gMap k (fun g => { g with link := ⟨req, glReply ⟨0, h, .replyCrc⟩ data⟩ }) s := rfl
  rw [transact_eq, get_watchHealth]
  dsimp only [linkTry]
  rw [get_errCnt_linkBad, get_bump_same]
  refine ⟨?_, by rw [hlast]; rfl⟩
  rw [gGet_watchHealth, (linkBad_spec k _).2, gGet_bump, hlast, gGet_gMap_same]

/-- The third failure in a row marks the link faulted (R215). -/
theorem transact_third {k : Nat} {s : State} (hk : k < 6) (hfails : (gGet k s).fails = 2) (hsound : (gGet k s).faulted = false) (h : Nat)
    (req data : List Byte) :
    (gGet k (transact k req data ⟨0, h, .replyCrc⟩ s)).faulted = true ∧
    get RG.MON_STATE k (transact k req data ⟨0, h, .replyCrc⟩ s) = 4 ∧
    bitOf (get RG.GUARD_LINK_OK 0 (transact k req data ⟨0, h, .replyCrc⟩ s)) k = false ∧
    bitOf (get RG.GA_LINK_FAULT 0 (transact k req data ⟨0, h, .replyCrc⟩ s)) k = true ∧
    get RG.IRQ_GUARD 0 (transact k req data ⟨0, h, .replyCrc⟩ s) = 1 := by
  have hlast : lastTry k req data ⟨0, h, .replyCrc⟩ s = gMap k (fun g => { g with link := ⟨req, glReply ⟨0, h, .replyCrc⟩ data⟩ }) s := rfl
  have htry : linkTry k .replyCrc (lastTry k req data ⟨0, h, .replyCrc⟩ s) =
      linkFaulted k (gMap k (fun g => { g with fails := g.fails + 1 }) (bump RG.GL_ERR_CNT 0 (lastTry k req data ⟨0, h, .replyCrc⟩ s))) := by
    refine (linkBad_eq k _).trans (if_pos ?_)
    show 2 ≤ (gGet k (lastTry k req data ⟨0, h, .replyCrc⟩ s)).fails ∧ (gGet k (lastTry k req data ⟨0, h, .replyCrc⟩ s)).faulted = false
    rw [hlast, gGet_gMap_same]
    exact ⟨hfails.ge, hsound⟩
  rw [transact_eq]
  dsimp only
  rw [htry]
  simp only [get_watchHealth]
  generalize gMap k (fun g => { g with fails := g.fails + 1 }) (bump RG.GL_ERR_CNT 0 (lastTry k req data ⟨0, h, .replyCrc⟩ s)) = t
  have hstate : RG.MON_STATE.key k ≠ RG.IRQ_GUARD.key 0 ∧ RG.MON_STATE.key k ≠ RG.GA_LINK_FAULT.key 0 ∧
      RG.GUARD_LINK_OK.key 0 ≠ RG.MON_STATE.key k ∧ RG.MON_STATE.key k ∉ timeKeys := by
    have hall : ∀ k < 6, RG.MON_STATE.key k ≠ RG.IRQ_GUARD.key 0 ∧ RG.MON_STATE.key k ≠ RG.GA_LINK_FAULT.key 0 ∧
      RG.GUARD_LINK_OK.key 0 ≠ RG.MON_STATE.key k ∧ RG.MON_STATE.key k ∉ timeKeys := by decide
    exact hall k hk
  obtain ⟨hirq, halert, hmask, htime⟩ := hstate
  refine ⟨?_, ?_, ?_, ?_, ?_⟩
  · exact congrArg Guard.faulted (linkFaulted_spec k t).2
  · rw [linkFaulted, logGuard, get_logEvent htime, guardAlert, get_irq_ne hirq, get_setBits_ne halert, get_put_same]
    rfl
  · rw [linkFaulted, logGuard, get_logEvent (by decide), guardAlert, get_irq_ne (by decide), get_setBits_ne (by decide), get_put_ne hmask,
      bitOf_maskBit rfl hk]
  · rw [linkFaulted, logGuard, get_logEvent (by decide), guardAlert, get_irq_ne (by decide), bitOf_setBits rfl hk]
  · rw [linkFaulted, logGuard, get_logEvent (by decide), guardAlert]
    exact get_setBits_one rfl 0 _

end Sys2Proof.Machine
end

section

/-! ### Reports of a line (R208, R713) -/

open Sys2Proof.Safety

namespace Sys2Proof.Machine

theorem lnGet_lnMap_ne {p q : Nat} (h : q ≠ p) (f : GLine → GLine) (s : State) : lnGet q (lnMap p f s) = lnGet q s :=
  lookup_store_ne _ _ h _ _

/-- The data of a line that no report and no action on one changes. -/
def GLine.shown (x : GLine) : Nat × Nat × Nat × Bool := (x.iMa, x.v10mv, x.leakResult, x.cmFault)

/-- What a report of lines leaves: the guards, what the lines show, every field but those at `ks`, and an interrupt that stands. -/
structure Reported (ks : List Nat) (s t : State) : Prop where
  guards : t.guards = s.guards
  kept : ∀ g j, g.key j ∉ ks → get g j t = get g j s
  irq : get RG.IRQ_GUARD 0 s = 1 → get RG.IRQ_GUARD 0 t = 1
  shown : ∀ q, (lnGet q t).shown = (lnGet q s).shown
  since : ∀ q, (lnGet q s).since = 0 → (lnGet q t).since = 0

theorem Reported.trans {ks : List Nat} {s t u : State} (h : Reported ks s t) (h' : Reported ks t u) : Reported ks s u where
  guards := h'.guards.trans h.guards
  kept g j hk := (h'.kept g j hk).trans (h.kept g j hk)
  irq hs := h'.irq (h.irq hs)
  shown q := (h'.shown q).trans (h.shown q)
  since q hs := h'.since q (h.since q hs)

theorem Reported.mono {ks ls : List Nat} {s t : State} (h : Reported ks s t) (hsub : ks ⊆ ls) : Reported ls s t :=
  { h with kept := fun g j hk => h.kept g j fun hm => hk (hsub hm) }

section

variable {ks : List Nat}

theorem Reported.refl (ks : List Nat) (s : State) : Reported ks s s := ⟨rfl, fun _ _ _ => rfl, id, fun _ => rfl, fun _ => id⟩

/-- A change that leaves guards and lines, and of the fields those at `ks` and an interrupt that stands. -/
theorem Reported.of_lines {s t : State} (hguards : t.guards = s.guards) (hlines : t.lines = s.lines)
    (hkept : ∀ g j, g.key j ∉ ks → get g j t = get g j s) (hirq : get RG.IRQ_GUARD 0 s = 1 → get RG.IRQ_GUARD 0 t = 1) : Reported ks s t where
  guards := hguards
  kept := hkept
  irq := hirq
  shown q := by rw [lnGet_congr hlines]
  since q := by rw [lnGet_congr hlines]; exact id

theorem reported_put {f : Fld} {i : Nat} (hf : f.key i ∈ ks) (hirq : RG.IRQ_GUARD.key 0 ≠ f.key i) (v : Nat) (s : State) :
    Reported ks s (put f i v s) :=
  .of_lines rfl rfl (fun _ _ hk => get_put_ne (ne_of_mem_of_not_mem hf hk).symm v s) fun h => (get_put_ne hirq v s).trans h

theorem reported_putHw {f : Fld} {i : Nat} (hf : f.key i ∈ ks) (hirq : RG.IRQ_GUARD.key 0 ≠ f.key i) (v : Nat) (s : State) :
    Reported ks s (putHw f i v s) := by
  unfold putHw
  split
  · exact .refl ks s
  · exact reported_put hf hirq v s

theorem reported_irq (hf : RG.IRQ_GUARD.key 0 ∈ ks) (s : State) : Reported ks s (irq RG.IRQ_GUARD s) :=
  .of_lines rfl rfl (fun _ _ hk => get_irq_ne (ne_of_mem_of_not_mem hf hk).symm s) fun _ => get_setBits_one rfl 0 s

theorem reported_lcMap (p : Nat) (f : LineCtl → LineCtl) (s : State) : Reported ks s (lcMap p f s) :=
  .of_lines rfl rfl (fun _ _ _ => rfl) id

/-- A change of other data of a line at its guard. -/
theorem reported_lnMap {p : Nat} {f : GLine → GLine} (hshown : ∀ x, (f x).shown = x.shown) (hsince : ∀ x : GLine, x.since = 0 → (f x).since = 0)
    (s : State) : Reported ks s (lnMap p f s) where
  guards := rfl
  kept _ _ _ := rfl
  irq := id
  shown q := by
    by_cases hq : q = p
    · rw [hq, lnGet_lnMap_same, hshown]
    · rw [lnGet_lnMap_ne hq]
  since q := by
    by_cases hq : q = p
    · rw [hq, lnGet_lnMap_same]
      exact hsince _
    · rw [lnGet_lnMap_ne hq]
      exact id

theorem reported_logEvent (hks : timeKeys ⊆ ks) (code sub idx : Nat) (d : List Nat) (s : State) :
    Reported ks s (logEvent code sub idx d s) :=
  .of_lines (by simp) (by simp) (fun _ _ hk => get_logEvent (fun hm => hk (hks hm)) ..) fun h => (get_logEvent (by decide) ..).trans h

theorem reported_when {c : Prop} [Decidable c] {s a b : State} (ha : Reported ks s a) (hb : Reported ks s b) :
    Reported ks s (if c then a else b) := by
  split
  · exact ha
  · exact hb

/-- A fold of steps that each report. -/
theorem reported_foldl {α : Type} {f : State → α → State} (l : List α) (h : ∀ i ∈ l, ∀ a, Reported ks a (f a i)) (s : State) :
    Reported ks s (l.foldl f s) := by
  induction l generalizing s with
  | nil => exact .refl ks s
  | cons i l ih => exact (h i (by simp) s).trans (ih (fun j hj => h j (by simp [hj])) _)

theorem reported_each {f : Nat → State → State} (l : List Nat) (h : ∀ i ∈ l, ∀ a, Reported ks a (f i a)) (s : State) :
    Reported ks s (each l f s) := reported_foldl l h s

end

/-! #### One status word -/

/-- Where the fields are that a report of word `w` of line `p` can change. -/
def reportKeys (p w : Nat) : List Nat :=
  timeKeys ++ [RG.IRQ_GUARD.key 0] ++ (fldsGL.filter (·.word == w)).map (·.key p)

theorem timeKeys_subset_reportKeys (p w : Nat) : timeKeys ⊆ reportKeys p w := by simp [reportKeys]

theorem irq_mem_reportKeys (p w : Nat) : RG.IRQ_GUARD.key 0 ∈ reportKeys p w := by simp [reportKeys]

/-- The fields of GUARD_LINE lie in space 8, 16 words to a line. -/
theorem fldsGL_place : ∀ f ∈ fldsGL, f.space = 8 ∧ f.stride = 16 ∧ f.word < 16 ∧ f.lo < 32 := by decide

/-- No field of the direct map is one of a line. -/
theorem line_ne_direct {f g : Fld} {p : Nat} (hf : f ∈ fldsGL) (hg : g.key 0 < 33554432 := by decide) : g.key 0 ≠ f.key p := by
  obtain ⟨hspace, -⟩ := fldsGL_place f hf
  exact direct_ne_indexed hg (by omega)

/-- A field of a line is none that a report of another line or of another word can change. -/
theorem line_not_reportKeys {f : Fld} {p q w : Nat} (hf : f ∈ fldsGL) (hq : q < 48) (h : q ≠ p ∨ f.word ≠ w) : f.key q ∉ reportKeys p w := by
  obtain ⟨hspace, hstride, hword, hlo⟩ := fldsGL_place f hf
  simp only [reportKeys, List.mem_append, List.mem_singleton, List.mem_map, List.mem_filter, not_or, not_exists, not_and, beq_iff_eq]
  refine ⟨⟨line_not_timeKeys hspace hstride hword hlo hq, (line_ne_direct hf).symm⟩, ?_⟩
  rintro g ⟨hg, hw⟩ heq
  obtain ⟨hspace', hstride', hword', hlo'⟩ := fldsGL_place g hg
  simp only [Fld.key, hspace, hspace', hstride, hstride'] at heq
  omega

/-- A field of the direct map, not the interrupt, is none that a report can change. -/
theorem direct_not_reportKeys {f : Fld} {i p w : Nat} (hi : f.key i < 33554432) (htime : f.key i ∉ timeKeys) (hirq : f.key i ≠ RG.IRQ_GUARD.key 0) :
    f.key i ∉ reportKeys p w := by
  simp only [reportKeys, List.mem_append, List.mem_singleton, List.mem_map, List.mem_filter, not_or, not_exists, not_and]
  refine ⟨⟨htime, hirq⟩, ?_⟩
  rintro g ⟨hg, -⟩ heq
  have hspace := (fldsGL_place g hg).1
  unfold Fld.key at heq hi
  rw [hspace] at heq
  omega

/-- A field of the word takes what the report shows. -/
theorem reported_putLine {f : Fld} {w : Nat} (hf : f ∈ fldsGL) (hw : f.word = w) (p v : Nat) (s : State) :
    Reported (reportKeys p w) s (put f p v s) := by
  have hmem : f.key p ∈ (fldsGL.filter (·.word == w)).map (·.key p) := List.mem_map.mpr ⟨f, List.mem_filter.mpr ⟨hf, beq_iff_eq.mpr hw⟩, rfl⟩
  exact reported_put (List.mem_append_right _ hmem) (line_ne_direct hf) v s

theorem reported_logLineFault (p w q sub : Nat) (s : State) : Reported (reportKeys p w) s (logLineFault q sub s) :=
  reported_logEvent (timeKeys_subset_reportKeys p w) ..

theorem reported_logEvents (p w q new : Nat) (s : State) : Reported (reportKeys p w) s (logEvents q new s) := by
  unfold logEvents
  extract_lets a b c
  have ha : Reported (reportKeys p w) s a := reported_each _ (fun _ _ _ => reported_logLineFault ..) s
  have hb : Reported (reportKeys p w) s b := reported_when (ha.trans (reported_logLineFault ..)) ha
  have hc : Reported (reportKeys p w) s c :=
    reported_when ((reported_when (hb.trans (reported_logLineFault ..)) hb).trans (reported_logLineFault ..)) hb
  exact reported_when (hc.trans (reported_logLineFault ..)) hc

theorem Reported.putLine {f : Fld} {p w v : Nat} {s t : State} (h : Reported (reportKeys p w) s t) (hf : f ∈ fldsGL := by decide)
    (hw : f.word = w := by rfl) : Reported (reportKeys p w) s (put f p v t) := h.trans (reported_putLine hf hw p v t)

/-- The counters of a word are shown (R715). -/
theorem reported_counters (p w : Nat) (s : State) : Reported (reportKeys p w) s
    (each ((List.range 7).filter fun i => (glCounter i).word == w) (fun i a =>
      lnMap p (fun x => { x with inc := erase i x.inc }) (put (glCounter i) p (reportedCount p i a) a)) s) := by
  have hcounter : ∀ i < 7, glCounter i ∈ fldsGL := by decide
  refine reported_each _ (fun i hi a => ?_) s
  obtain ⟨hrange, hword⟩ := List.mem_filter.mp hi
  exact (reported_putLine (hcounter i (List.mem_range.mp hrange)) (beq_iff_eq.mp hword) ..).trans
    (reported_lnMap (f := fun x => { x with inc := erase i x.inc }) (fun _ => rfl) (fun _ h => h) _)

theorem glEvents_place : ∀ x ∈ glEvents.zipIdx, x.1 ∈ fldsGL ∧ x.1.word = 4 := by decide

/-- The state of a line is shown; one that waits for its reconciling keeps showing LEAVE_WAIT (R223). -/
theorem reported_state (p : Nat) (s : State) : Reported (reportKeys p 3) s (reportWord p 3 s) := by
  have hkeeps : Reported (reportKeys p 3) s (if !(lcGet p s).reconciled && switchPending p s then s
      else put GL.PWR_STATE p (lnGet p s).pwr (put GL.PWR_CAUSE p (lnGet p s).cause s)) :=
    reported_when (.refl ..) (Reported.refl _ s).putLine.putLine
  exact hkeeps.putLine.putLine.putLine.putLine.putLine

/-- New events are logged, and the bits since the last report begin anew (R714). -/
theorem reported_events (p : Nat) (s : State) : Reported (reportKeys p 4) s (reportWord p 4 s) := by
  have hshown : Reported (reportKeys p 4) s (glEvents.zipIdx.foldl (fun a x => put x.1 p (b2n (bitOf (reportedEvents p s) x.2)) a) s) :=
    reported_foldl _ (fun x hx a => reported_putLine (glEvents_place x hx).1 (glEvents_place x hx).2 ..) s
  have hlogged := hshown.trans (reported_when (c := (lnGet p s).since &&& reportedEvents p s = 0) (.refl ..)
    ((reported_irq (irq_mem_reportKeys p 4) _).trans (reported_logEvents p 4 p ((lnGet p s).since &&& reportedEvents p s) _)))
  exact hlogged.trans (reported_lnMap (f := fun x => { x with since := 0 }) (fun _ => rfl) (fun _ _ => rfl) _)

theorem reported_reportWord (p w : Nat) (s : State) : Reported (reportKeys p w) s (reportWord p w s) := by
  match w with
  | 3 => exact reported_state p s
  | 4 => exact reported_events p s
  | 5 => exact (Reported.refl _ s).putLine.putLine
  | 6 => exact (Reported.refl _ s).putLine.putLine
  | 7 => exact (Reported.refl _ s).putLine.putLine.putLine.putLine
  | 0 | 1 | 2 | _ + 8 => exact reported_counters ..

/-- What the words show once reported. -/
theorem reportWord_shows (p : Nat) (s : State) :
    get GL.CM_FAULT p (reportWord p 3 s) = b2n (lnGet p s).cmFault ∧ (lnGet p (reportWord p 4 s)).since = 0 ∧
    get GL.I_MA p (reportWord p 5 s) = (lnGet p s).iMa % 2 ^ GL.I_MA.width ∧
    get GL.V_10MV p (reportWord p 5 s) = (lnGet p s).v10mv % 2 ^ GL.V_10MV.width ∧
    get GL.LEAK_RESULT p (reportWord p 6 s) = (lnGet p s).leakResult % 2 ^ GL.LEAK_RESULT.width := by
  refine ⟨?_, ?_, get_put_same .., (get_put_ne (port_key_ne p) ..).trans (get_put_same ..), get_put_same ..⟩
  · refine (get_put_same ..).trans ?_
    cases (lnGet p s).cmFault <;> rfl
  · exact congrArg GLine.since (lnGet_lnMap_same p (fun x => { x with since := 0 }) _)

/-! #### What the concentrator does on a report (R225, R228, R242) -/

/-- Where the fields are that the concentrator can change when it acts on a report of line `p`. -/
def actionKeys (p : Nat) : List Nat :=
  timeKeys ++ [GL.PWR_STATE.key p, GL.PWR_CAUSE.key p, GL.TRIM_REQ.key p] ++ txClearedKeys p

theorem txClearedKeys_subset_actionKeys (p : Nat) : txClearedKeys p ⊆ actionKeys p := List.subset_append_right ..

/-- Actions on a line leave every other line's fields, and of its own those but its power state and its request for trim. -/
theorem line_not_actionKeys {f : Fld} {p q : Nat} (hf : f ∈ fldsGL) (hp : p < 48) (hq : q < 48)
    (h : q ≠ p ∨ (f.word, f.lo) ∉ [(3, 0), (3, 3), (0, 6)]) : f.key q ∉ actionKeys p := by
  obtain ⟨hspace, hstride, hword, hlo⟩ := fldsGL_place f hf
  have htime := line_not_timeKeys hspace hstride hword hlo hq
  simp only [List.mem_cons, List.not_mem_nil, or_false, Prod.mk.injEq, not_or, not_and] at h
  simp only [actionKeys, List.mem_append, not_or]
  refine ⟨⟨htime, ?_⟩, ?_⟩
  all_goals simp only [txClearedKeys, List.mem_cons, List.not_mem_nil, or_false, not_or, Fld.key, hspace, hstride,
    GL.PWR_STATE, GL.PWR_CAUSE, GL.TRIM_REQ, RG.FIELD_CHANGE, RG.IRQ_LINE, PT.EV_TX_HELD, PT.TX_HELD]
  all_goals omega

/-- A field of the direct map that no action on a report changes. -/
theorem direct_not_actionKeys {f : Fld} {i p : Nat} (hi : f.key i < 33554432) (htime : f.key i ∉ timeKeys)
    (hchange : f.key i ≠ RG.FIELD_CHANGE.key 0) (hirq : f.key i ≠ RG.IRQ_LINE.key 0) : f.key i ∉ actionKeys p := by
  simp only [actionKeys, txClearedKeys, List.mem_append, List.mem_cons, List.not_mem_nil, or_false, not_or]
  refine ⟨⟨htime, ?_, ?_, ?_⟩, hchange, hirq, ?_, ?_⟩
  all_goals
    simp only [Fld.key, GL.PWR_STATE, GL.PWR_CAUSE, GL.TRIM_REQ, PT.EV_TX_HELD, PT.TX_HELD] at hi ⊢
    omega

@[simp] theorem requestLeave_guards (k : LeaveKind) (units limit : Nat) (urgent : Bool) (s : State) :
    (requestLeave k units limit urgent s).guards = s.guards := by
  unfold requestLeave setWaiting
  cases k.pool <;> rfl

@[simp] theorem get_requestLeave (g : Fld) (j : Nat) (k : LeaveKind) (units limit : Nat) (urgent : Bool) (s : State) :
    get g j (requestLeave k units limit urgent s) = get g j s := get_setWaiting ..

theorem reported_setGrants (ks : List Nat) (p : Pool) (l : List Grant) (s : State) : Reported ks s (setGrants p l s) := by
  cases p <;> exact .of_lines rfl rfl (fun _ _ _ => rfl) id

section

variable (p : Nat) (s : State)

theorem irq_ne_switchKeys : RG.IRQ_GUARD.key 0 ≠ GL.PWR_STATE.key p ∧ RG.IRQ_GUARD.key 0 ≠ GL.PWR_CAUSE.key p ∧
    RG.IRQ_GUARD.key 0 ≠ GL.TRIM_REQ.key p := ⟨direct_ne_indexed, direct_ne_indexed, direct_ne_indexed⟩

theorem reported_requestLeave (ks : List Nat) (k : LeaveKind) (units limit : Nat) (urgent : Bool) :
    Reported ks s (requestLeave k units limit urgent s) :=
  .of_lines (by simp) (by simp) (by simp) (by simp)

theorem reported_checkBudget : Reported (actionKeys p) s (checkBudget .field s) := by
  have hmem : RG.FIELD_CHANGE.key 0 ∈ actionKeys p := by simp [actionKeys, txClearedKeys]
  unfold checkBudget
  exact reported_when (reported_put (f := RG.FIELD_CHANGE) hmem (by decide) 0 s) (.refl ..)

theorem reported_releaseSwitch : Reported (actionKeys p) s (releaseLeave (.switchOn p) s) :=
  (reported_setGrants (actionKeys p) .field _ s).trans (reported_checkBudget p _)

theorem reported_cutSwitch (units : Nat) : Reported (actionKeys p) s (cutGrant (.switchOn p) units s) :=
  (reported_setGrants (actionKeys p) .field _ s).trans (reported_checkBudget p _)

theorem reported_setPwr (st cause : Nat) : Reported (actionKeys p) s (setPwr p st cause s) := by
  obtain ⟨hstate, hcause, -⟩ := irq_ne_switchKeys p
  have hguard : Reported (actionKeys p) s (if (lcGet p s).reconciled then lnMap p (fun x => { x with pwr := st, cause := cause }) s else s) :=
    reported_when (reported_lnMap (f := fun x => { x with pwr := st, cause := cause }) (fun _ => rfl) (fun _ h => h) s) (.refl ..)
  exact (hguard.trans (reported_put (by simp [actionKeys]) hcause cause _)).trans (reported_put (by simp [actionKeys]) hstate st _)

theorem reported_askSwitchOn : Reported (actionKeys p) s (askSwitchOn p s) :=
  (reported_setPwr p s _ _).trans (reported_requestLeave ..)

theorem reported_powerReported : Reported (actionKeys p) s (powerReported p s) := by
  unfold powerReported
  split
  · exact (reported_releaseSwitch p s).trans (reported_when ((reported_lcMap p _ _).trans (reported_askSwitchOn ..)) (.refl ..))
  · exact reported_lcMap p _ s
  · exact .refl ..

theorem reported_powerFetched : Reported (actionKeys p) s (powerFetched p s) := by
  have hreleased := reported_releaseSwitch p s
  unfold powerFetched
  extract_lets x
  split
  · exact reported_when (reported_cutSwitch ..) (.refl ..)
  · exact hreleased.trans (reported_when (reported_setPwr ..) (reported_when (.refl ..) (reported_when (reported_setPwr ..) (reported_lcMap ..))))
  · exact hreleased.trans (reported_when (reported_setPwr ..) (.refl ..))
  · exact .refl ..

theorem reported_trimLearned (ks : List Nat) : Reported ks s (trimLearned p s) := reported_when (reported_lcMap p _ s) (.refl ..)

@[simp] theorem servePendingBreak_units : (servePendingBreak p s).guards = s.guards ∧ (servePendingBreak p s).lines = s.lines := by
  unfold servePendingBreak holdBreak countHeld askBreak
  (repeat' split) <;> simp

theorem reported_servePendingBreak : Reported (actionKeys p) s (servePendingBreak p s) := by
  have htouches := touchesOnly_servePendingBreak p s
  refine .of_lines (servePendingBreak_units p s).1 (servePendingBreak_units p s).2
    (fun g j hk => htouches.2 g j fun hm => hk (txClearedKeys_subset_actionKeys p hm)) fun h => (htouches.2 _ _ ?_).trans h
  simp only [txClearedKeys, List.mem_cons, List.not_mem_nil, or_false, not_or]
  exact ⟨by decide, by decide, direct_ne_indexed, direct_ne_indexed⟩

theorem reported_trimEnds (ks : List Nat) (startLevel : Bool) : Reported ks s (trimEnds p startLevel s) := by
  unfold trimEnds
  split
  · have hunits (t : State) : (rxTakeUp p t).guards = t.guards ∧ (rxTakeUp p t).lines = t.lines := by
      rw [rxTakeUp_units]
      exact ⟨rfl, rfl⟩
    exact .of_lines (hunits _).1 (hunits _).2 (fun g j _ => get_rxTakeUp ..) fun h => (get_rxTakeUp ..).trans h
  · exact .refl ..

theorem reported_untreat (startLevel : Bool) : Reported (actionKeys p) s (untreat p startLevel s) :=
  reported_when (.refl ..) ((reported_trimEnds ..).trans (reported_servePendingBreak ..))

theorem reported_trimCleared (startLevel : Bool) : Reported (actionKeys p) s (trimCleared p startLevel s) :=
  reported_when (((reported_lcMap p _ s).trans (reported_putHw (by simp [actionKeys]) (irq_ne_switchKeys p).2.2 0 _)).trans
    (reported_untreat ..)) (.refl ..)

theorem reported_trimOverdue (startLevel : Bool) : Reported (actionKeys p) s (trimOverdue p startLevel s) := by
  unfold trimOverdue
  split
  · exact reported_when (reported_trimCleared ..) (.refl ..)
  · exact .refl ..

end

/-! #### Several words, several lines -/

/-- What step `w` of a loop reaches, and the other steps keep, holds after a loop that has step `w`. -/
theorem each_reaches {Q R : State → Prop} {f : Nat → State → State} {w : Nat} (hQ : ∀ i a, Q a → Q (f i a)) (hset : ∀ a, Q a → R (f w a))
    {l : List Nat} (hkeep : ∀ i ∈ l, ∀ a, i ≠ w → R a → R (f i a)) {s : State} (hs : Q s) (h : w ∈ l ∨ R s) : R (each l f s) := by
  unfold each
  induction l generalizing s with
  | nil => exact h.resolve_left (List.not_mem_nil)
  | cons i l ih =>
    refine ih (fun j hj => hkeep j (List.mem_cons_of_mem _ hj)) (hQ i s hs) ?_
    by_cases hi : i = w
    · exact .inr (hi ▸ hset s hs)
    · rcases h with hmem | hr
      · exact .inl ((List.mem_cons.mp hmem).resolve_left (Ne.symm hi))
      · exact .inr (hkeep i (List.mem_cons_self ..) s hi hr)

/-- Where the fields are that a report of line `p`, and what the concentrator does on it, can change. -/
def lineKeys (p : Nat) : List Nat := (List.range 16).flatMap (reportKeys p) ++ actionKeys p

theorem reportKeys_subset_lineKeys {p w : Nat} (hw : w < 16) : reportKeys p w ⊆ lineKeys p := fun _ hk =>
  List.mem_append_left _ (List.mem_flatMap.mpr ⟨w, List.mem_range.mpr hw, hk⟩)

theorem actionKeys_subset_lineKeys (p : Nat) : actionKeys p ⊆ lineKeys p := List.subset_append_right ..

/-- Another line's field is none that a report of a line can change. -/
theorem line_not_lineKeys {f : Fld} {p q : Nat} (hf : f ∈ fldsGL) (hp : p < 48) (hq : q < 48) (h : q ≠ p) : f.key q ∉ lineKeys p := by
  simp only [lineKeys, List.mem_append, List.mem_flatMap, List.mem_range, not_or, not_exists, not_and]
  exact ⟨fun w _ => line_not_reportKeys hf hq (.inl h), line_not_actionKeys hf hp hq (.inl h)⟩

theorem direct_not_lineKeys {f : Fld} {i p : Nat} (hi : f.key i < 33554432) (htime : f.key i ∉ timeKeys)
    (hkeys : f.key i ∉ [RG.IRQ_GUARD.key 0, RG.FIELD_CHANGE.key 0, RG.IRQ_LINE.key 0]) : f.key i ∉ lineKeys p := by
  simp only [List.mem_cons, List.not_mem_nil, or_false, not_or] at hkeys
  obtain ⟨hguard, hchange, hline⟩ := hkeys
  simp only [lineKeys, List.mem_append, List.mem_flatMap, List.mem_range, not_or, not_exists, not_and]
  exact ⟨fun w _ => direct_not_reportKeys hi htime hguard, direct_not_actionKeys hi htime hchange hline⟩

section

variable {p reg n : Nat} {s : State}

theorem reported_wordStep (p w : Nat) (s : State) : Reported (reportKeys p w) s (if 3 ≤ w ∧ w ≤ 11 then reportWord p w s else s) :=
  reported_when (reported_reportWord p w s) (.refl ..)

theorem reported_act (p : Nat) (c : Prop) [Decidable c] (s : State) :
    Reported (actionKeys p) s (if c then trimLearned p (powerReported p s) else s) :=
  reported_when ((reported_powerReported p s).trans (reported_trimLearned ..)) (.refl ..)

theorem reported_reportWords (p reg n : Nat) (s : State) : Reported (lineKeys p) s (reportWords p reg n s) := by
  have hwords : Reported (lineKeys p) s (each ((List.range n).map (reg + ·)) (fun w a => if 3 ≤ w ∧ w ≤ 11 then reportWord p w a else a) s) := by
    refine reported_each _ (fun w _ a => ?_) s
    by_cases hw : w < 16
    · exact (reported_wordStep p w a).mono (reportKeys_subset_lineKeys hw)
    · rw [if_neg (by omega)]
      exact .refl ..
  exact hwords.trans ((reported_act p _ _).mono (actionKeys_subset_lineKeys p))

/-- What a report of word `w` shows, the report of several words shows, if neither the other words nor the actions change it. -/
theorem reportWords_reaches {R : State → Prop} {w : Nat} (hword : 3 ≤ w ∧ w ≤ 11) (hlo : reg ≤ w) (hhi : w < reg + n)
    (hset : ∀ a, (lnGet p a).shown = (lnGet p s).shown → R (reportWord p w a))
    (hkeep : ∀ i a b, i ≠ w → Reported (reportKeys p i) a b → R a → R b) (hact : ∀ a b, Reported (actionKeys p) a b → R a → R b) :
    R (reportWords p reg n s) := by
  refine hact _ _ (reported_act p _ _) (each_reaches (w := w) (Q := fun a => (lnGet p a).shown = (lnGet p s).shown) ?_ ?_ ?_ rfl (.inl ?_))
  · exact fun i a ha => ((reported_wordStep p i a).shown p).trans ha
  · exact fun a ha => by rw [if_pos hword]; exact hset a ha
  · exact fun i _ a hi ha => hkeep i _ _ hi (reported_wordStep p i a) ha
  · exact List.mem_map.mpr ⟨w - reg, List.mem_range.mpr (by omega), by omega⟩

/-- What a field of a reported word shows. -/
theorem get_reportWords {f : Fld} {w v : Nat} (hp : p < 48) (hf : f ∈ fldsGL) (hw : f.word = w) (hplace : (f.word, f.lo) ∉ [(3, 0), (3, 3), (0, 6)])
    (hword : 3 ≤ w ∧ w ≤ 11) (hlo : reg ≤ w) (hhi : w < reg + n)
    (hset : ∀ a, (lnGet p a).shown = (lnGet p s).shown → get f p (reportWord p w a) = v) : get f p (reportWords p reg n s) = v := by
  refine reportWords_reaches (R := fun a => get f p a = v) hword hlo hhi hset (fun i a b hi hab ha => ?_) fun a b hab ha => ?_
  · exact (hab.kept f p (line_not_reportKeys hf hp (.inr (by rw [hw]; exact Ne.symm hi)))).trans ha
  · exact (hab.kept f p (line_not_actionKeys hf hp hp (.inr hplace))).trans ha

/-- What the report of a range of words shows of a line that stands as `x`. -/
structure WordsShown (p reg n : Nat) (x : GLine) (t : State) : Prop where
  fault : reg ≤ 3 → 3 < reg + n → get GL.CM_FAULT p t = b2n x.cmFault
  since : reg ≤ 4 → 4 < reg + n → (lnGet p t).since = 0
  measured : reg ≤ 5 → 5 < reg + n → get GL.I_MA p t = x.iMa % 2 ^ GL.I_MA.width ∧
    get GL.V_10MV p t = x.v10mv % 2 ^ GL.V_10MV.width
  leak : reg ≤ 6 → 6 < reg + n → get GL.LEAK_RESULT p t = x.leakResult % 2 ^ GL.LEAK_RESULT.width

theorem reportWords_shows (hp : p < 48) (reg n : Nat) (s : State) : WordsShown p reg n (lnGet p s) (reportWords p reg n s) := by
  have hsame {a : State} (h : (lnGet p a).shown = (lnGet p s).shown) : (lnGet p a).iMa = (lnGet p s).iMa ∧
      (lnGet p a).v10mv = (lnGet p s).v10mv ∧ (lnGet p a).leakResult = (lnGet p s).leakResult ∧ (lnGet p a).cmFault = (lnGet p s).cmFault := by
    simpa [GLine.shown] using h
  refine ⟨fun hlo hhi => ?_, fun hlo hhi => ?_, fun hlo hhi => ⟨?_, ?_⟩, fun hlo hhi => ?_⟩
  · refine get_reportWords (w := 3) hp (by decide) rfl (by decide) (by decide) hlo hhi fun a ha => ?_
    rw [(reportWord_shows p a).1, (hsame ha).2.2.2]
  · exact reportWords_reaches (R := fun a => (lnGet p a).since = 0) (by decide) hlo hhi (fun a _ => (reportWord_shows p a).2.1)
      (fun i a b _ hab => hab.since p) fun a b hab => hab.since p
  · refine get_reportWords (w := 5) hp (by decide) rfl (by decide) (by decide) hlo hhi fun a ha => ?_
    rw [(reportWord_shows p a).2.2.1, (hsame ha).1]
  · refine get_reportWords (w := 5) hp (by decide) rfl (by decide) (by decide) hlo hhi fun a ha => ?_
    rw [(reportWord_shows p a).2.2.2.1, (hsame ha).2.1]
  · refine get_reportWords (w := 6) hp (by decide) rfl (by decide) (by decide) hlo hhi fun a ha => ?_
    rw [(reportWord_shows p a).2.2.2.2, (hsame ha).2.2.1]

/-- What the words show stands through the actions on a report. -/
theorem WordsShown.acted {x : GLine} {t u : State} (hp : p < 48) (h : WordsShown p reg n x t) (hacted : Reported (actionKeys p) t u) :
    WordsShown p reg n x u := by
  have hkept {f : Fld} (hf : f ∈ fldsGL) (hplace : (f.word, f.lo) ∉ [(3, 0), (3, 3), (0, 6)]) : get f p u = get f p t :=
    hacted.kept f p (line_not_actionKeys hf hp hp (.inr hplace))
  refine ⟨fun hlo hhi => ?_, fun hlo hhi => hacted.since p (h.since hlo hhi), fun hlo hhi => ?_, fun hlo hhi => ?_⟩
  · rw [hkept (by decide) (by decide), h.fault hlo hhi]
  · rw [hkept (by decide) (by decide), hkept (by decide) (by decide)]
    exact h.measured hlo hhi
  · rw [hkept (by decide) (by decide), h.leak hlo hhi]

end

/-! #### GUARD_MON (R208, R791) -/

/-- Where the fields are that a report of a guard can change. -/
def monKeys (k : Nat) : List Nat := timeKeys ++ [RG.MON_VFIELD_MV.key k, RG.MON_DIE_TEMP.key k]

/-- The governor follows a guard of temperature `temp`, hot or not (R791). -/
def hotFollowed (k : Nat) (temp : Int) (fresh : Bool) (s : State) : State :=
  if s.leave.hotGuards.contains k && decide (temp < 135) then
    logEvent 0x0C 5 k [fieldOf 32 temp] { s with leave := { s.leave with hotGuards := s.leave.hotGuards.filter (· != k) } }
  else if !s.leave.hotGuards.contains k && fresh && decide (135 ≤ temp) then
    { s with leave := { s.leave with hotGuards := s.leave.hotGuards ++ [k] } }
  else s

theorem hotFollowed_spec (k : Nat) (temp : Int) (fresh : Bool) (s : State) : (hotFollowed k temp fresh s).guards = s.guards ∧
    (hotFollowed k temp fresh s).lines = s.lines ∧ ∀ f j, f.key j ∉ timeKeys → get f j (hotFollowed k temp fresh s) = get f j s := by
  unfold hotFollowed
  split
  · exact ⟨by simp, by simp, fun f j hj => get_logEvent hj ..⟩
  · split <;> exact ⟨rfl, rfl, fun _ _ _ => rfl⟩

theorem monReport_eq (k : Nat) (s : State) : monReport k s = gMap k (fun g => { g with fresh := false })
    (hotFollowed k (gGet k s).temp (gGet k s).fresh
      (put RG.MON_VFIELD_MV k (gGet k s).vfield (put RG.MON_DIE_TEMP k (tempField (gGet k s).temp) s))) := rfl

/-- GUARD_MON of a guard takes its measurements; of the guard only the mark of its first report is cleared. -/
theorem monReport_spec {k : Nat} (hk : k < 6) (s : State) :
    get RG.MON_VFIELD_MV k (monReport k s) = (gGet k s).vfield % 2 ^ RG.MON_VFIELD_MV.width ∧
    get RG.MON_DIE_TEMP k (monReport k s) = tempField (gGet k s).temp % 2 ^ RG.MON_DIE_TEMP.width ∧
    gGet k (monReport k s) = { gGet k s with fresh := false } ∧ (monReport k s).lines = s.lines ∧
    ∀ g j, g.key j ∉ monKeys k → get g j (monReport k s) = get g j s := by
  have hkeys : RG.MON_DIE_TEMP.key k ≠ RG.MON_VFIELD_MV.key k ∧ RG.MON_VFIELD_MV.key k ∉ timeKeys ∧ RG.MON_DIE_TEMP.key k ∉ timeKeys := by
    have hall : ∀ k < 6, RG.MON_DIE_TEMP.key k ≠ RG.MON_VFIELD_MV.key k ∧ RG.MON_VFIELD_MV.key k ∉ timeKeys ∧
      RG.MON_DIE_TEMP.key k ∉ timeKeys := by decide
    exact hall k hk
  obtain ⟨hapart, hvolts, htemp⟩ := hkeys
  rw [monReport_eq]
  generalize hshown : put RG.MON_VFIELD_MV k (gGet k s).vfield (put RG.MON_DIE_TEMP k (tempField (gGet k s).temp) s) = shown
  obtain ⟨hguards, hlines, hget⟩ := hotFollowed_spec k (gGet k s).temp (gGet k s).fresh shown
  generalize hotFollowed k (gGet k s).temp (gGet k s).fresh shown = followed at hguards hlines hget ⊢
  subst hshown
  have hguard : gGet k followed = gGet k s := gGet_congr hguards k
  refine ⟨?_, ?_, ?_, hlines, fun f j hj => ?_⟩
  · exact (hget _ _ hvolts).trans (get_put_same ..)
  · exact (hget _ _ htemp).trans ((get_put_ne hapart ..).trans (get_put_same ..))
  · rw [gGet_gMap_same, hguard]
  · simp only [monKeys, List.mem_append, List.mem_cons, List.not_mem_nil, or_false, not_or] at hj
    exact (hget f j hj.1).trans ((get_put_ne hj.2.1 ..).trans (get_put_ne hj.2.2 ..))

end Sys2Proof.Machine
end

section

/-! ### The guard link's services (R207, R208, R213) -/

open Sys2Proof.Safety

namespace Sys2Proof.Machine

/-- Every line of a guard of the machine is one of 48. -/
theorem line_lt {k j : Nat} (hk : k < 6) (hj : j < 8) : 8 * k + j < 48 := by omega

theorem mem_linesOf {k q : Nat} : q ∈ linesOf k ↔ q / 8 = k := by
  simp only [linesOf, List.mem_map, List.mem_range]
  constructor
  · rintro ⟨j, hj, rfl⟩
    omega
  · rintro rfl
    exact ⟨q % 8, Nat.mod_lt _ (by decide), Nat.div_add_mod q 8⟩

/-- Passing time leaves the guards as they are. -/
@[simp] theorem linkUsable_elapse (k dt : Nat) (s : State) : linkUsable k (elapse dt s) = linkUsable k s := by simp [linkUsable, guardOk]
@[simp] theorem fetchOwed_elapse (dt : Nat) (s : State) : fetchOwed (elapse dt s) = fetchOwed s := by simp [fetchOwed]
@[simp] theorem linkFree_elapse (k dt : Nat) (s : State) : linkFree k (elapse dt s) = linkFree k s := by simp [linkFree]

/-- A field of a line is none that a transaction can change. -/
theorem line_not_linkKeys {f : Fld} {p k : Nat} (hf : f ∈ fldsGL) (hp : p < 48) (hk : k < 6) : f.key p ∉ linkKeys k := by
  obtain ⟨hspace, hstride, hword, hlo⟩ := fldsGL_place f hf
  have hstate : RG.MON_STATE.key k < 33554432 := by
    simp only [Fld.key, RG.MON_STATE]
    omega
  simp only [linkKeys, List.mem_append, List.mem_cons, List.not_mem_nil, or_false, not_or]
  refine ⟨line_not_timeKeys hspace hstride hword hlo hp, (line_ne_direct hf).symm, ?_, (line_ne_direct hf).symm, (line_ne_direct hf).symm,
    (line_ne_direct hf).symm, (line_ne_direct hf).symm⟩
  intro heq
  rw [← heq] at hstate
  simp only [Fld.key, hspace] at hstate
  omega

theorem get_linkOk_reported {p : Nat} {s t : State} (h : Reported (lineKeys p) s t) : get RG.GUARD_LINK_OK 0 t = get RG.GUARD_LINK_OK 0 s :=
  h.kept _ _ (direct_not_lineKeys (by decide) (by decide) (by decide))

section

variable {p k reg n : Nat} {o : GlOutcome} {s : State}

/-! #### GREAD (R213) -/

/-- A GREAD that the link does not carry does nothing. -/
theorem greadLine_idle (startLevel : Bool) (o : GlOutcome) (h : linkFree (p / 8) s = false ∨ n = 0 ∨ 16 < n) :
    greadLine p reg n startLevel o s = s := if_pos (by rcases h with h | h | h <;> simp [h])

theorem greadGuard_idle (o : GlOutcome) (h : linkFree k s = false ∨ n = 0 ∨ 16 < n) : greadGuard k reg n o s = s :=
  if_pos (by rcases h with h | h | h <;> simp [h])

/-- The request and the reply data of a GREAD of a line. -/
def readLine (p reg n : Nat) (o : GlOutcome) (s : State) : State :=
  transact (p / 8) (glRequest 0x11 (p % 8) reg n []) (readBytes (fun w => lineWord p w s) reg n) o s

theorem greadLine_carried (startLevel : Bool) (o : GlOutcome) (hfree : linkFree (p / 8) s = true) (hlo : 1 ≤ n) (hhi : n ≤ 16) :
    greadLine p reg n startLevel o s = if !o.isOk then readLine p reg n o s else
      if reg ≤ 3 ∧ 3 < reg + n then trimOverdue p startLevel (reportWords p reg n (readLine p reg n o s))
      else reportWords p reg n (readLine p reg n o s) :=
  if_neg (by simp [hfree]; omega)

theorem lt_of_linkFree (hfree : linkFree (p / 8) s = true) : p / 8 < 6 ∧ p < 48 := by
  have := lt_of_linkUsable (usable_of_linkFree hfree)
  omega

/-- A GREAD of a line that is answered ends the link's failures and shows the words it reads. -/
theorem greadLine_ok (startLevel : Bool) (hfree : linkFree (p / 8) s = true) (hlo : 1 ≤ n) (hhi : n ≤ 16) (hok : o.isOk = true) :
    (gGet (p / 8) (greadLine p reg n startLevel o s)).fails = 0 ∧
    bitOf (get RG.GUARD_LINK_OK 0 (greadLine p reg n startLevel o s)) (p / 8) = true ∧
    WordsShown p reg n (lnGet p s) (greadLine p reg n startLevel o s) := by
  obtain ⟨hk, hp⟩ := lt_of_linkFree hfree
  rw [greadLine_carried startLevel o hfree hlo hhi, if_neg (by simp [hok])]
  obtain ⟨hfails, hbit⟩ := transact_good (k := p / 8) (good_of_isOk hok) (glRequest 0x11 (p % 8) reg n [])
    (readBytes (fun w => lineWord p w s) reg n) s
  have hlines : (readLine p reg n o s).lines = s.lines := (transact_fields ..).1
  replace hfails : (gGet (p / 8) (readLine p reg n o s)).fails = 0 := hfails
  replace hbit : bitOf (get RG.GUARD_LINK_OK 0 (readLine p reg n o s)) (p / 8) = true := hbit hk
  generalize readLine p reg n o s = r at hlines hfails hbit ⊢
  have hwords := reportWords_shows hp reg n r
  rw [lnGet_congr hlines] at hwords
  have hreported := reported_reportWords p reg n r
  generalize reportWords p reg n r = a at hwords hreported ⊢
  have hacted : Reported (actionKeys p) a (if reg ≤ 3 ∧ 3 < reg + n then trimOverdue p startLevel a else a) :=
    reported_when (reported_trimOverdue ..) (.refl ..)
  have hall := hreported.trans (hacted.mono (actionKeys_subset_lineKeys p))
  refine ⟨?_, ?_, hwords.acted hp hacted⟩
  · rw [gGet_congr hall.guards, hfails]
  · rw [get_linkOk_reported hall, hbit]

/-- A GREAD of the guard itself that is answered shows its measurements (R984). -/
theorem greadGuard_ok (hfree : linkFree k s = true) (hlo : 1 ≤ n) (hhi : n ≤ 16) (hok : o.isOk = true) (hreg : reg ≤ 4 + k)
    (hreg' : 4 + k < reg + n) : (gGet k (greadGuard k reg n o s)).fails = 0 ∧
    get RG.MON_VFIELD_MV k (greadGuard k reg n o s) = (gGet k s).vfield % 2 ^ RG.MON_VFIELD_MV.width ∧
    get RG.MON_DIE_TEMP k (greadGuard k reg n o s) = tempField (gGet k s).temp % 2 ^ RG.MON_DIE_TEMP.width := by
  have hcarried : greadGuard k reg n o s = if o.isOk ∧ reg ≤ 4 + k ∧ 4 + k < reg + n then
      monReport k (transact k (glRequest 0x11 0xFF reg n []) (readBytes (fun w => guardWord k w s) reg n) o s)
      else transact k (glRequest 0x11 0xFF reg n []) (readBytes (fun w => guardWord k w s) reg n) o s :=
    if_neg (by simp [hfree]; omega)
  rw [hcarried, if_pos ⟨hok, hreg, hreg'⟩]
  obtain ⟨hfails, -⟩ := transact_good (k := k) (good_of_isOk hok) (glRequest 0x11 0xFF reg n []) (readBytes (fun w => guardWord k w s) reg n) s
  obtain ⟨link, fails, faulted, hguard⟩ := (linkKeeps_transact k (glRequest 0x11 0xFF reg n []) (readBytes (fun w => guardWord k w s) reg n) o s).guard
  obtain ⟨hvolts, htemp, hafter, -⟩ := monReport_spec (lt_of_linkUsable (usable_of_linkFree hfree))
    (transact k (glRequest 0x11 0xFF reg n []) (readBytes (fun w => guardWord k w s) reg n) o s)
  rw [hafter, hvolts, htemp, hguard]
  rw [hguard] at hfails
  exact ⟨hfails, rfl, rfl⟩

/-! #### GWRITE (R207, R984) -/

@[simp] theorem applyFwd_units (p : Nat) (w : Fwd) (s : State) : (applyFwd p w s).guards = s.guards ∧ (applyFwd p w s).lineCtl = s.lineCtl := by
  unfold applyFwd
  split <;> exact ⟨rfl, rfl⟩

@[simp] theorem get_applyFwd (g : Fld) (j p : Nat) (w : Fwd) (s : State) : get g j (applyFwd p w s) = get g j s := by
  unfold applyFwd
  split <;> rfl

/-- What a forward does to its line, passing time does not change. -/
theorem lnGet_applyFwd_elapse (p : Nat) (w : Fwd) (dt : Nat) (s : State) : lnGet p (applyFwd p w (elapse dt s)) = lnGet p (applyFwd p w s) := by
  unfold applyFwd
  split <;> rw [lnGet_lnMap_same, lnGet_lnMap_same, lnGet_elapse]

/-- The oldest word owed to a line takes effect at a guard that has acted on it, and is owed no longer after an answer. -/
def fwdTaken (p : Nat) (w : Fwd) (r : List Fwd) (o : GlOutcome) (s : State) : State :=
  let s := if glActed o then applyFwd p w s else s
  if o.isOk ∨ o.last = .refused then lcMap p (fun c => { c with forward := r }) s else s

/-- The GWRITE request of a forward. -/
def fwdRequest (p : Nat) (w : Fwd) : List Byte := glRequest 0x12 (p % 8) (fwdWord w).1 1 (beBytes 4 (fwdWord w).2)

theorem gwriteLine_carried {w : Fwd} {r : List Fwd} (o : GlOutcome) (hfree : linkFree (p / 8) s = true) (hrun : (gGet (p / 8) s).run = 2)
    (hrec : (lcGet p s).reconciled = true) (howed : (lcGet p s).forward = w :: r) :
    gwriteLine p o s = transact (p / 8) (fwdRequest p w) [] o (fwdTaken p w r o s) := by
  unfold gwriteLine
  dsimp only
  rw [if_neg (by simp [hfree, hrun, hrec]), howed]
  rfl

theorem gwriteLine_idle (o : GlOutcome)
    (h : linkFree (p / 8) s = false ∨ (gGet (p / 8) s).run ≠ 2 ∨ (lcGet p s).reconciled = false ∨ (lcGet p s).forward = []) :
    gwriteLine p o s = s := by
  rcases h with h | h | h | hempty
  · exact if_pos (by simp [h])
  · exact if_pos (by simp [h])
  · exact if_pos (by simp [h])
  · unfold gwriteLine
    dsimp only
    rw [hempty]
    exact ite_self _

theorem fwdTaken_spec (p : Nat) (w : Fwd) (r : List Fwd) (o : GlOutcome) (s : State) : (fwdTaken p w r o s).guards = s.guards ∧
    (fwdTaken p w r o s).lines = (if glActed o then applyFwd p w s else s).lines ∧
    (lcGet p (fwdTaken p w r o s)).forward = (if o.isOk ∨ o.last = .refused then r else (lcGet p s).forward) ∧
    ∀ g j, get g j (fwdTaken p w r o s) = get g j s := by
  unfold fwdTaken
  extract_lets t
  have ht : t.guards = s.guards ∧ lcGet p t = lcGet p s ∧ ∀ g j, get g j t = get g j s := by
    simp only [t]
    split
    · exact ⟨(applyFwd_units p w s).1, lcGet_congr (applyFwd_units p w s).2 p, fun g j => get_applyFwd ..⟩
    · exact ⟨rfl, rfl, fun _ _ => rfl⟩
  obtain ⟨hguards, hctl, hget⟩ := ht
  split
  · refine ⟨hguards, rfl, ?_, hget⟩
    rw [lcGet_lcMap_same]
  · exact ⟨hguards, rfl, by rw [hctl], hget⟩

/-- What a GWRITE leaves of the line and of the words owed to it. -/
theorem gwriteLine_spec {w : Fwd} {r : List Fwd} (o : GlOutcome) (hfree : linkFree (p / 8) s = true) (hrun : (gGet (p / 8) s).run = 2)
    (hrec : (lcGet p s).reconciled = true) (howed : (lcGet p s).forward = w :: r) :
    (gwriteLine p o s).lines = (if glActed o then applyFwd p w s else s).lines ∧
    (lcGet p (gwriteLine p o s)).forward = (if o.isOk ∨ o.last = .refused then r else w :: r) := by
  rw [gwriteLine_carried o hfree hrun hrec howed, (transact_fields ..).1, lcGet_congr (transact_fields ..).2]
  obtain ⟨-, hlines, hforward, -⟩ := fwdTaken_spec p w r o s
  rw [hforward, howed]
  exact ⟨hlines, rfl⟩

/-- A GWRITE that is answered, OK or REFUSED, leaves a good link. -/
theorem gwriteLine_good {w : Fwd} {r : List Fwd} (hfree : linkFree (p / 8) s = true) (hrun : (gGet (p / 8) s).run = 2)
    (hrec : (lcGet p s).reconciled = true) (howed : (lcGet p s).forward = w :: r) (h : o.last = .ok ∨ o.last = .refused) :
    (gGet (p / 8) (gwriteLine p o s)).fails = 0 := by
  rw [gwriteLine_carried o hfree hrun hrec howed]
  exact (transact_good h ..).1

theorem glActed_of_isOk (hok : o.isOk = true) : glActed o = true := by
  have hlast : o.last = .ok := by simpa [GlOutcome.isOk] using hok
  simp [glActed, hlast]

/-- GWRITE of LEAK_WINDOW_S leaves it in the guard and is owed no longer (R984). -/
theorem gwriteGuard_ok (hfree : linkFree k s = true) (hrun : (gGet k s).run = 2) (howed : (gGet k s).owedWindow = true)
    (hok : o.isOk = true) : (gGet k (gwriteGuard k o s)).leakWindow = get RG.LEAK_WINDOW_S 0 s ∧
    (gGet k (gwriteGuard k o s)).owedWindow = false ∧ (gwriteGuard k o s).lines = s.lines := by
  have hcarried : gwriteGuard k o s = transact k (glRequest 0x12 0xFF 3 1 (beBytes 4 (get RG.LEAK_WINDOW_S 0 s))) [] o
      (gMap k (fun g => { g with
        leakWindow := if glActed o then get RG.LEAK_WINDOW_S 0 s else g.leakWindow, owedWindow := !(o.isOk || o.last == .refused) }) s) :=
    if_neg (by simp [hfree, hrun, howed])
  rw [hcarried]
  obtain ⟨link, fails, faulted, hguard⟩ := (linkKeeps_transact k (glRequest 0x12 0xFF 3 1 (beBytes 4 (get RG.LEAK_WINDOW_S 0 s))) [] o
    (gMap k (fun g => { g with
      leakWindow := if glActed o then get RG.LEAK_WINDOW_S 0 s else g.leakWindow, owedWindow := !(o.isOk || o.last == .refused) }) s)).guard
  rw [hguard, gGet_gMap_same, (transact_fields ..).1]
  exact ⟨if_pos (glActed_of_isOk hok), by simp [hok], rfl⟩

/-! #### SHADOW_REFRESH (R208) -/

theorem shadowRefresh_idle (v : Nat) (x : Int) (m : List LineReading) (o : GlOutcome) (h : linkFree k s = false ∨ (gGet k s).run ≠ 2) :
    shadowRefresh k v x m o s = s := if_pos (by rcases h with h | h <;> simp [h])

/-- The guard's lines take their readings, from line `n` on. -/
def readingsTaken (k n : Nat) (l : List LineReading) (s : State) : State :=
  (l.zipIdx n).foldl (fun a (r, j) => lnMap (8 * k + j) (fun x => { x with iMa := r.iMa, v10mv := r.v10mv }) a) s

theorem readingsTaken_units (k n : Nat) (l : List LineReading) (s : State) : (readingsTaken k n l s).guards = s.guards ∧
    ∀ q, q < 8 * k + n → lnGet q (readingsTaken k n l s) = lnGet q s := by
  induction l generalizing n s with
  | nil => exact ⟨rfl, fun _ _ => rfl⟩
  | cons r l ih =>
    obtain ⟨hguards, hlines⟩ := ih (n + 1) (lnMap (8 * k + n) (fun x => { x with iMa := r.iMa, v10mv := r.v10mv }) s)
    exact ⟨hguards, fun q hq => (hlines q (by omega)).trans (lnGet_lnMap_ne (by omega) ..)⟩

theorem readingsTaken_line {k n j : Nat} {l : List LineReading} (hlo : n ≤ j) (hhi : j < n + l.length) (s : State) :
    (lnGet (8 * k + j) (readingsTaken k n l s)).iMa = (l.getD (j - n) ⟨0, 0, false⟩).iMa ∧
    (lnGet (8 * k + j) (readingsTaken k n l s)).v10mv = (l.getD (j - n) ⟨0, 0, false⟩).v10mv := by
  induction l generalizing n s with
  | nil => simp at hhi; omega
  | cons r l ih =>
    by_cases hj : j = n
    · subst hj
      have hline := (readingsTaken_units k (j + 1) l (lnMap (8 * k + j) (fun x => { x with iMa := r.iMa, v10mv := r.v10mv }) s)).2 (8 * k + j) (by omega)
      rw [lnGet_lnMap_same] at hline
      rw [Nat.sub_self]
      exact ⟨congrArg GLine.iMa hline, congrArg GLine.v10mv hline⟩
    · obtain ⟨i, rfl⟩ : ∃ i, j = n + 1 + i := ⟨j - (n + 1), by omega⟩
      have := ih (n := n + 1) (by omega) (by simp only [List.length_cons] at hhi; omega)
        (lnMap (8 * k + n) (fun x => { x with iMa := r.iMa, v10mv := r.v10mv }) s)
      rw [show n + 1 + i - (n + 1) = i by omega] at this
      rw [show n + 1 + i - n = i + 1 by omega, List.getD_cons_succ]
      exact this

/-- The guard measures: its supply, its temperature and its lines. -/
def guardMeasured (k v : Nat) (x : Int) (m : List LineReading) (s : State) : State :=
  readingsTaken k 0 (m.take 8) (gMap k (fun g => { g with vfield := v, temp := x }) s)

/-- The lines of a guard reach the shadow, with what the concentrator does on it. -/
def linesReported (k : Nat) (m : List LineReading) (s : State) : State :=
  each (linesOf k) (fun p a => trimOverdue p (match m[p % 8]? with | some r => r.start | none => false) (lineReport p a)) s

theorem shadowRefresh_carried (v : Nat) (x : Int) (m : List LineReading) (hfree : linkFree k s = true) (hrun : (gGet k s).run = 2)
    (hok : o.isOk = true) : shadowRefresh k v x m o s = monReport k (linesReported k m
      (transact k (glRequest 0x11 0xFF (4 + k) 1 []) (readBytes (fun w => guardWord k w (guardMeasured k v x m s)) (4 + k) 1) o
        (guardMeasured k v x m s))) := by
  unfold shadowRefresh
  rw [if_neg (by simp [hfree, hrun])]
  exact if_pos hok

theorem reported_lineStep (p : Nat) (startLevel : Bool) (s : State) :
    Reported (lineKeys p) s (trimOverdue p startLevel (lineReport p s)) :=
  (reported_reportWords p 3 9 s).trans ((reported_trimOverdue ..).mono (actionKeys_subset_lineKeys p))

/-- Each line of the guard shows its measurements. -/
theorem linesReported_spec (hk : k < 6) (m : List LineReading) (s : State) : (linesReported k m s).guards = s.guards ∧
    ∀ j < 8, get GL.I_MA (8 * k + j) (linesReported k m s) = (lnGet (8 * k + j) s).iMa % 2 ^ GL.I_MA.width ∧
      get GL.V_10MV (8 * k + j) (linesReported k m s) = (lnGet (8 * k + j) s).v10mv % 2 ^ GL.V_10MV.width := by
  refine ⟨each_invariant (P := fun a => a.guards = s.guards) (fun p a ha => (reported_lineStep ..).guards.trans ha) _ rfl, fun j hj => ?_⟩
  have hq : 8 * k + j < 48 := line_lt hk hj
  refine each_reaches (w := 8 * k + j) (Q := fun a => (lnGet (8 * k + j) a).shown = (lnGet (8 * k + j) s).shown)
    (R := fun a => get GL.I_MA (8 * k + j) a = (lnGet (8 * k + j) s).iMa % 2 ^ GL.I_MA.width ∧
      get GL.V_10MV (8 * k + j) a = (lnGet (8 * k + j) s).v10mv % 2 ^ GL.V_10MV.width)
    (fun p a ha => ((reported_lineStep ..).shown _).trans ha) (fun a ha => ?_) (fun p hp a hne ha => ?_) rfl (.inl (mem_linesOf.mpr (by omega)))
  · have hshown := ((reportWords_shows hq 3 9 a).acted hq (reported_trimOverdue (8 * k + j) (reportWords (8 * k + j) 3 9 a)
      (match m[(8 * k + j) % 8]? with | some r => r.start | none => false))).measured (by decide) (by decide)
    simp only [GLine.shown, Prod.mk.injEq] at ha
    rw [ha.1, ha.2.1] at hshown
    exact hshown
  · have hkeys {f : Fld} (hf : f ∈ fldsGL) : f.key (8 * k + j) ∉ lineKeys p :=
      line_not_lineKeys hf (by have := mem_linesOf.mp hp; omega) hq (Ne.symm hne)
    have hstep := reported_lineStep p (match m[p % 8]? with | some r => r.start | none => false) a
    exact ⟨(hstep.kept _ _ (hkeys (by decide))).trans ha.1, (hstep.kept _ _ (hkeys (by decide))).trans ha.2⟩

/-- A line's field is none that a report of a guard can change. -/
theorem line_not_monKeys {f : Fld} {p : Nat} (hk : k < 6) (hf : f ∈ fldsGL) (hp : p < 48) : f.key p ∉ monKeys k := by
  obtain ⟨hspace, hstride, hword, hlo⟩ := fldsGL_place f hf
  simp only [monKeys, List.mem_append, List.mem_cons, List.not_mem_nil, or_false, not_or]
  refine ⟨line_not_timeKeys hspace hstride hword hlo hp, ?_, ?_⟩
  all_goals
    simp only [Fld.key, hspace, RG.MON_VFIELD_MV, RG.MON_DIE_TEMP]
    omega

/-- A shadow refresh that is answered shows the guard's measurements and those of its lines. -/
theorem shadowRefresh_ok (v : Nat) (x : Int) {m : List LineReading} (hfree : linkFree k s = true) (hrun : (gGet k s).run = 2)
    (hlength : m.length = 8) (hok : o.isOk = true) :
    get RG.MON_VFIELD_MV k (shadowRefresh k v x m o s) = v % 2 ^ RG.MON_VFIELD_MV.width ∧
    get RG.MON_DIE_TEMP k (shadowRefresh k v x m o s) = tempField x % 2 ^ RG.MON_DIE_TEMP.width ∧
    (gGet k (shadowRefresh k v x m o s)).temp = x ∧
    ∀ j < 8, get GL.I_MA (8 * k + j) (shadowRefresh k v x m o s) = (m.getD j ⟨0, 0, false⟩).iMa % 2 ^ GL.I_MA.width ∧
      get GL.V_10MV (8 * k + j) (shadowRefresh k v x m o s) = (m.getD j ⟨0, 0, false⟩).v10mv % 2 ^ GL.V_10MV.width := by
  have hk := lt_of_linkUsable (usable_of_linkFree hfree)
  have hmeasured : gGet k (guardMeasured k v x m s) = { gGet k s with vfield := v, temp := x } := by
    rw [guardMeasured, gGet_congr (readingsTaken_units ..).1, gGet_gMap_same]
  have hreadings (j : Nat) (hj : j < 8) : (lnGet (8 * k + j) (guardMeasured k v x m s)).iMa = (m.getD j ⟨0, 0, false⟩).iMa ∧
      (lnGet (8 * k + j) (guardMeasured k v x m s)).v10mv = (m.getD j ⟨0, 0, false⟩).v10mv := by
    have := readingsTaken_line (k := k) (l := m.take 8) (Nat.zero_le j) (by simp [hlength, hj]) (gMap k (fun g => { g with vfield := v, temp := x }) s)
    rw [guardMeasured, List.take_of_length_le hlength.le]
    rwa [Nat.sub_zero, List.take_of_length_le hlength.le] at this
  rw [shadowRefresh_carried v x m hfree hrun hok]
  generalize guardMeasured k v x m s = measured at hmeasured hreadings ⊢
  obtain ⟨link, fails, faulted, hguard⟩ := (linkKeeps_transact k (glRequest 0x11 0xFF (4 + k) 1 [])
    (readBytes (fun w => guardWord k w measured) (4 + k) 1) o measured).guard
  have hlines : (transact k (glRequest 0x11 0xFF (4 + k) 1 []) (readBytes (fun w => guardWord k w measured) (4 + k) 1) o measured).lines =
      measured.lines := (transact_fields ..).1
  generalize transact k (glRequest 0x11 0xFF (4 + k) 1 []) (readBytes (fun w => guardWord k w measured) (4 + k) 1) o measured = carried at hguard hlines ⊢
  obtain ⟨hguards, hshown⟩ := linesReported_spec hk m carried
  obtain ⟨hvolts, htemp, hafter, -, hkept⟩ := monReport_spec hk (linesReported k m carried)
  rw [hafter, hvolts, htemp, gGet_congr hguards, hguard, hmeasured]
  refine ⟨rfl, rfl, rfl, fun j hj => ?_⟩
  rw [hkept _ _ (line_not_monKeys hk (by decide) (line_lt hk hj)), hkept _ _ (line_not_monKeys hk (by decide) (line_lt hk hj)),
    (hshown j hj).1, (hshown j hj).2, lnGet_congr hlines, (hreadings j hj).1, (hreadings j hj).2]
  exact ⟨rfl, rfl⟩

end

end Sys2Proof.Machine

section

open Sys2Proof Sys2Proof.Machine

/-- Settles O44, clause by clause: reads that the link does not carry, a line read, the guard read, a first failure, the third; a word
forwarded, one whose reply fails, one refused, none; LEAK_WINDOW_S; no refresh and a refresh. -/
theorem guardLinkForwardsAndReports : Obligations.GuardLinkForwardsAndReports := by
  refine ⟨?noLine, ?noGuard, ?line, ?guard, ?fails, ?third, ?forwards, ?replyFails, ?refused, ?noForward, ?window, ?noRefresh, ?refreshes⟩
  case noLine =>
    intro dt p reg n l o s h
    exact congrArg Host.Outcome.next (greadLine_idle l o (by rwa [linkFree_elapse]))
  case noGuard =>
    intro dt k reg n o s h
    exact congrArg Host.Outcome.next (greadGuard_idle o (by rwa [linkFree_elapse]))
  case line =>
    intro dt p reg n l o s hfree hlo hhi hok
    obtain ⟨hfails, hbit, hshown⟩ := greadLine_ok (reg := reg) (s := elapse dt s) l ((linkFree_elapse ..).trans hfree) hlo hhi hok
    rw [lnGet_elapse] at hshown
    exact ⟨_, rfl, hfails, hbit, hshown.fault, hshown.since, hshown.measured, hshown.leak⟩
  case guard =>
    intro dt k reg n o s hfree hlo hhi hok hreg hreg'
    obtain ⟨hfails, hvolts, htemp⟩ := greadGuard_ok (s := elapse dt s) ((linkFree_elapse ..).trans hfree) hlo hhi hok hreg hreg'
    rw [gGet_elapse] at hvolts htemp
    exact ⟨_, rfl, hfails, hvolts, htemp⟩
  case fails =>
    intro dt p reg n l h s hfree hlo hhi hfails
    have hcarried := greadLine_carried (reg := reg) (s := elapse dt s) l ⟨0, h, .requestCrc⟩ ((linkFree_elapse ..).trans hfree) hlo hhi
    obtain ⟨hcount, hunits⟩ := transact_requestCrc (h := h) (s := elapse dt s) (by rwa [gGet_elapse])
      (glRequest 0x11 (p % 8) reg n []) (readBytes (fun w => lineWord p w (elapse dt s)) reg n)
    rw [gGet_elapse] at hcount
    exact ⟨_, congrArg Host.Outcome.next hcarried, hcount, hunits⟩
  case third =>
    intro dt p reg n l h s hfree hlo hhi hfails
    have hcarried := greadLine_carried (reg := reg) (s := elapse dt s) l ⟨0, h, .replyCrc⟩ ((linkFree_elapse ..).trans hfree) hlo hhi
    have hsound : (gGet (p / 8) s).faulted = false := by
      have htalks := talks_of_linkUsable (usable_of_linkFree hfree)
      simp only [Guard.talks, Bool.and_eq_true, Bool.not_eq_true'] at htalks
      exact htalks.2
    obtain ⟨hfault, hstate, hlink, halert, hirq⟩ := transact_third (s := elapse dt s) (lt_of_linkFree hfree).1 (by rwa [gGet_elapse])
      (by rwa [gGet_elapse]) h (glRequest 0x11 (p % 8) reg n []) (readBytes (fun w => lineWord p w (elapse dt s)) reg n)
    have hcount := (transact_replyCrc (p / 8) h (glRequest 0x11 (p % 8) reg n []) (readBytes (fun w => lineWord p w (elapse dt s)) reg n)
      (elapse dt s)).2
    rw [get_elapse (by decide)] at hcount
    exact ⟨_, congrArg Host.Outcome.next hcarried, hfault, hstate, hlink, halert, hcount, hirq, (transact_fields ..).1.trans (by simp)⟩
  case forwards =>
    intro dt p w r o s hfree hrun hrec howed hok
    have hfree' : linkFree (p / 8) (elapse dt s) = true := (linkFree_elapse ..).trans hfree
    rw [← gGet_elapse (p / 8) dt s] at hrun
    rw [← lcGet_elapse p dt s] at hrec howed
    obtain ⟨hlines, hforward⟩ := gwriteLine_spec o hfree' hrun hrec howed
    rw [if_pos (glActed_of_isOk hok)] at hlines
    refine ⟨_, rfl, hforward.trans (if_pos (.inl hok)), (lnGet_congr hlines p).trans ?_, gwriteLine_good hfree' hrun hrec howed (good_of_isOk hok)⟩
    exact lnGet_applyFwd_elapse p w dt s
  case replyFails =>
    intro dt p w r h s hfree hrun hrec howed
    have hfree' : linkFree (p / 8) (elapse dt s) = true := (linkFree_elapse ..).trans hfree
    rw [← gGet_elapse (p / 8) dt s] at hrun
    rw [← lcGet_elapse p dt s] at hrec howed
    obtain ⟨hlines, hforward⟩ := gwriteLine_spec ⟨0, h, .replyCrc⟩ hfree' hrun hrec howed
    obtain ⟨hguards, -, -, hget⟩ := fwdTaken_spec p w r ⟨0, h, .replyCrc⟩ (elapse dt s)
    obtain ⟨hfails, hcount⟩ := transact_replyCrc (p / 8) h (fwdRequest p w) [] (fwdTaken p w r ⟨0, h, .replyCrc⟩ (elapse dt s))
    rw [← gwriteLine_carried ⟨0, h, .replyCrc⟩ hfree' hrun hrec howed] at hfails hcount
    rw [gGet_congr hguards, gGet_elapse] at hfails
    rw [hget, get_elapse (by decide)] at hcount
    exact ⟨_, rfl, hforward, (lnGet_congr hlines p).trans (lnGet_applyFwd_elapse p w dt s), hfails, hcount⟩
  case refused =>
    intro dt p w r h s hfree hrun hrec howed
    have hfree' : linkFree (p / 8) (elapse dt s) = true := (linkFree_elapse ..).trans hfree
    rw [← gGet_elapse (p / 8) dt s] at hrun
    rw [← lcGet_elapse p dt s] at hrec howed
    obtain ⟨hlines, hforward⟩ := gwriteLine_spec ⟨0, h, .refused⟩ hfree' hrun hrec howed
    exact ⟨_, rfl, hforward, hlines.trans (by simp [glActed]), gwriteLine_good hfree' hrun hrec howed (.inr rfl)⟩
  case noForward =>
    intro dt p o s h
    exact congrArg Host.Outcome.next (gwriteLine_idle o (by simpa using h))
  case window =>
    intro dt k o s hfree hrun howed hok
    obtain ⟨hwindow, hdone, hlines⟩ := gwriteGuard_ok (s := elapse dt s) ((linkFree_elapse ..).trans hfree) (by rwa [gGet_elapse])
      (by rwa [gGet_elapse]) hok
    exact ⟨_, rfl, hwindow.trans (get_elapse (by decide) ..), hdone, hlines.trans (by simp)⟩
  case noRefresh =>
    intro dt k v x m o s h
    exact congrArg Host.Outcome.next (shadowRefresh_idle v x m o (by simpa using h))
  case refreshes =>
    intro dt k v x m o s hfree hrun hlength hok
    exact ⟨_, rfl, shadowRefresh_ok v x ((linkFree_elapse ..).trans hfree) (by rwa [gGet_elapse]) hlength hok⟩

end
end

section

/-! ### Alerts and faults at a guard (4.4) -/

open Sys2Proof.Safety

namespace Sys2Proof.Machine

/-- Of a loop over lines whose other steps leave a reading, its own step decides. -/
theorem each_once {α : Type} {π : State → α} {f : Nat → State → State} {w : Nat} {l : List Nat} (hl : l.Nodup) (hw : w ∈ l)
    (hother : ∀ i a, i ≠ w → π (f i a) = π a) (s : State) : ∃ a, π a = π s ∧ π (each l f s) = π (f w a) := by
  unfold each
  have hskip (l : List Nat) (hl : w ∉ l) (a : State) : π (l.foldl (fun a i => f i a) a) = π a := by
    induction l generalizing a with
    | nil => rfl
    | cons i l ih =>
      obtain ⟨hi, hl⟩ := not_or.mp (fun h => hl (List.mem_cons.mpr h))
      exact (ih hl _).trans (hother i a (Ne.symm hi))
  induction l generalizing s with
  | nil => exact absurd hw (List.not_mem_nil)
  | cons i l ih =>
    obtain ⟨hi, hl⟩ := List.nodup_cons.mp hl
    by_cases hiw : i = w
    · subst hiw
      exact ⟨s, rfl, hskip l hi _⟩
    · obtain ⟨a, ha, hend⟩ := ih hl ((List.mem_cons.mp hw).resolve_left (Ne.symm hiw)) (f i s)
      exact ⟨a, ha.trans (hother i s hiw), hend⟩

theorem linesOf_nodup (k : Nat) : (linesOf k).Nodup := List.Nodup.map (fun _ _ h => by simpa using h) List.nodup_range

theorem bitOf_or_of {v m k : Nat} (h : m = 2 ^ k) : bitOf (v ||| m) k = true := h ▸ bitOf_or v k

/-! #### The operations at the guard -/

section

variable (p : Nat) (s : State)

/-- Another line keeps what its guard holds of it. -/
theorem lnGet_lnEvent_ne {q : Nat} (h : q ≠ p) (bit : Nat) : lnGet q (lnEvent p bit s) = lnGet q s := by
  unfold lnEvent
  dsimp only
  rw [lnGet_lcMap, lnGet_lnMap_ne h]

theorem lnGet_lnCount_ne {q : Nat} (h : q ≠ p) (i : Nat) : lnGet q (lnCount p i s) = lnGet q s := by
  unfold lnCount
  dsimp only
  rw [lnGet_lcMap, lnGet_lnMap_ne h]

@[simp] theorem lnGet_alertLine (q : Nat) : lnGet q (alertLine p s) = lnGet q s := rfl

@[simp] theorem lnEvent_guards (bit : Nat) : (lnEvent p bit s).guards = s.guards := rfl

/-- The alert of a line joins those of its guard. -/
theorem gGet_alertLine : gGet (p / 8) (alertLine p s) =
    { gGet (p / 8) s with alertL := ((gGet (p / 8) s).alertL.filter (· != p % 8)) ++ [p % 8] } := gGet_gMap_same ..

theorem alertLine_contains : (gGet (p / 8) (alertLine p s)).alertL.contains (p % 8) = true := by
  rw [gGet_alertLine]
  simp

/-- A bus-power fault: cause, event and alert (R226, R231). -/
theorem lnFault_spec (cause : Nat) : (∃ since cnt inc, lnGet p (lnFault p cause s) = { lnGet p s with
      pwr := if cause = 1 then 4 else 5, cause := cause, inrushEnd := none, faultAt := s.now
      events := (lnGet p s).events ||| 2 ^ (if cause = 8 then 8 else cause - 1), since := since, cnt := cnt, inc := inc }) ∧
    (lnFault p cause s).now = s.now ∧
    gGet (p / 8) (lnFault p cause s) =
      { gGet (p / 8) s with alertL := ((gGet (p / 8) s).alertL.filter (· != p % 8)) ++ [p % 8] } := by
  unfold lnFault
  generalize hmapped : lnMap p (fun x => { x with pwr := if cause = 1 then 4 else 5, cause := cause, inrushEnd := none, faultAt := s.now }) s = a
  have hline : lnGet p a = { lnGet p s with pwr := if cause = 1 then 4 else 5, cause := cause, inrushEnd := none, faultAt := s.now } := by
    rw [← hmapped, lnGet_lnMap_same]
  have hrest : a.now = s.now ∧ a.guards = s.guards := by rw [← hmapped]; exact ⟨rfl, rfl⟩
  obtain ⟨⟨since, hevent⟩, -, hnow, -⟩ := lnEvent_spec p (if cause = 8 then 8 else cause - 1) a
  obtain ⟨⟨inc, hcount⟩, -, hnow', -, hguards⟩ := lnCount_spec p 5 (lnEvent p (if cause = 8 then 8 else cause - 1) a)
  dsimp only
  rw [lnGet_alertLine, hcount, hevent, hline]
  refine ⟨⟨since, _, inc, rfl⟩, (hnow'.trans hnow).trans hrest.1, ?_⟩
  · rw [gGet_alertLine, gGet_congr hguards, gGet_congr (lnEvent_guards ..), gGet_congr hrest.2]

theorem lnGet_lnFault_ne {q : Nat} (h : q ≠ p) (cause : Nat) : lnGet q (lnFault p cause s) = lnGet q s := by
  unfold lnFault
  dsimp only
  rw [lnGet_alertLine, lnGet_lnCount_ne p _ h, lnGet_lnEvent_ne p _ h, lnGet_lnMap_ne h]

/-- A slice that is given up changes nothing of its line but the slice and its counts. -/
theorem lnGet_dropSlice (counter : Nat) : ∃ cnt inc, lnGet p (dropSlice p counter s) = { lnGet p s with slice := none, cnt := cnt, inc := inc } := by
  unfold dropSlice
  split
  · obtain ⟨⟨inc, hline⟩, -⟩ := lnCount_spec p counter (lnMap p (fun x => { x with slice := none }) s)
    rw [lnGet_congr (sliceAsk_fields ..).2.1, lnGet_congr (releaseLeave_fields ..).2.1, hline, lnGet_lnMap_same]
    exact ⟨_, inc, rfl⟩
  · next hnone =>
    have hslice : (lnGet p s).slice = none := by simpa using hnone
    exact ⟨(lnGet p s).cnt, (lnGet p s).inc, by rw [← hslice]⟩

theorem lnGet_dropSlice_ne {q : Nat} (h : q ≠ p) (counter : Nat) : lnGet q (dropSlice p counter s) = lnGet q s := by
  unfold dropSlice
  split
  · rw [lnGet_congr (sliceAsk_fields ..).2.1, lnGet_congr (releaseLeave_fields ..).2.1, lnGet_lnCount_ne p _ h, lnGet_lnMap_ne h]
  · rfl

@[simp] theorem dropSlice_units (counter : Nat) : (dropSlice p counter s).now = s.now ∧ (dropSlice p counter s).guards = s.guards := by
  unfold dropSlice sliceAsk
  split
  · obtain ⟨-, -, hnow, -, hguards⟩ := lnCount_spec p counter (lnMap p (fun x => { x with slice := none }) s)
    split <;> simp [hnow, hguards]
  · exact ⟨rfl, rfl⟩

theorem lnGet_setPwr_ne {q : Nat} (h : q ≠ p) (st cause : Nat) : lnGet q (setPwr p st cause s) = lnGet q s := by
  have hguard : lnGet q (if (lcGet p s).reconciled then lnMap p (fun x => { x with pwr := st, cause := cause }) s else s) = lnGet q s := by
    split
    · exact lnGet_lnMap_ne h ..
    · rfl
  exact hguard

theorem lnGet_latchWaiting_ne {q : Nat} (h : q ≠ p) (cause : Nat) : lnGet q (latchWaiting p cause s) = lnGet q s := by
  unfold latchWaiting
  rw [lnGet_lnEvent_ne p _ h, lnGet_setPwr_ne p _ h, lnGet_congr (releaseLeave_fields ..).2.1, lnGet_congr (withdrawLeave_fields ..).2.1]

end

/-! #### Every switch of a guard opens (R230, R254) -/

/-- What the opening of every switch of a guard with `cause` makes of line `p`. -/
def lineOpens (cause p : Nat) (a : State) : State :=
  if powered p a then (if cause = 5 then dropSlice p 4 (lnFault p cause a) else lnFault p cause a)
  else if ((lnGet p a).pwr = 1 ∨ (!(lcGet p a).reconciled ∧ switchPending p a)) ∧ (cause = 5 ∨ cause = 6) then
    (if cause = 5 then dropSlice p 4 (latchWaiting p cause a) else latchWaiting p cause a)
  else a

theorem allOpen_eq (k cause : Nat) (s : State) : allOpen k cause s = each (linesOf k) (lineOpens cause) s := rfl

theorem lnGet_lineOpens_ne {p q : Nat} (h : q ≠ p) (cause : Nat) (s : State) : lnGet q (lineOpens cause p s) = lnGet q s := by
  unfold lineOpens
  split
  · split
    · rw [lnGet_dropSlice_ne p _ h, lnGet_lnFault_ne p _ h]
    · exact lnGet_lnFault_ne p s h cause
  · split
    · split
      · rw [lnGet_dropSlice_ne p _ h, lnGet_latchWaiting_ne p _ h]
      · exact lnGet_latchWaiting_ne p s h cause
    · rfl

/-- A powered line of the guard is switched off with the cause. -/
theorem allOpen_powered {p cause : Nat} {s : State} (hcause : cause ≠ 1) (hp : powered p s = true) :
    (lnGet p (allOpen (p / 8) cause s)).pwr = 5 ∧ (lnGet p (allOpen (p / 8) cause s)).cause = cause := by
  obtain ⟨a, hsame, hend⟩ := each_once (π := lnGet p) (f := lineOpens cause) (linesOf_nodup (p / 8)) (mem_linesOf.mpr rfl)
    (fun i a hi => lnGet_lineOpens_ne (Ne.symm hi) cause a) s
  have hpowered : powered p a = true := by simpa only [powered, hsame] using hp
  obtain ⟨⟨since, cnt, inc, hline⟩, -⟩ := lnFault_spec p a cause
  have hfault : (lnGet p (lnFault p cause a)).pwr = 5 ∧ (lnGet p (lnFault p cause a)).cause = cause := by
    rw [hline]
    exact ⟨if_neg hcause, rfl⟩
  rw [allOpen_eq, hend, lineOpens, if_pos hpowered]
  generalize lnFault p cause a = b at hfault ⊢
  split
  · obtain ⟨cnt, inc, hdrop⟩ := lnGet_dropSlice p b 4
    rw [hdrop]
    exact hfault
  · exact hfault

end Sys2Proof.Machine
end

section

/-! ### Guards alert and identify themselves (R216, R220, R254, R825) -/

open Sys2Proof.Safety

namespace Sys2Proof.Machine

/-! #### GL_ALERT_N and ALERT_FETCH -/

/-- A change of every listed entry of a table that leaves an unlisted one as it is. -/
theorem lookup_map {α : Type} {d : α} {f : α → α} (hf : f d = d) (k : Nat) (t : Tbl α) :
    lookup d k (t.map fun x => (x.1, f x.2)) = f (lookup d k t) := by
  induction t with
  | nil => exact hf.symm
  | cons x t ih =>
    obtain ⟨j, v⟩ := x
    unfold lookup at ih ⊢
    simp only [List.map_cons, find]
    split
    · rfl
    · exact ih

/-- A guard with a pending alert when GL_ALERT_N falls: it is owed a fetch. -/
def Guard.alerted (g : Guard) : Guard := if (g.alertG ≠ 0 ∨ !g.alertL.isEmpty) ∧ !g.vddioLow then { g with fetch := true } else g

theorem gGet_glAlertN (k : Nat) (s : State) : gGet k (glAlertN s) = (gGet k s).alerted := lookup_map (f := Guard.alerted) rfl k s.guards

section

variable {k : Nat} {o : GlOutcome} {s : State}

theorem alertFetch_idle (l : List Nat) (o : GlOutcome) (h : linkUsable k s = false) : alertFetch k l o s = s := if_pos (by simp [h])

/-- The alerts of a guard that has acted on a fetch are cleared. -/
def alertsCleared (k : Nat) (o : GlOutcome) (s : State) : State :=
  if glActed o then gMap k (fun g => { g with alertG := 0, alertL := [], fetch := false }) s else s

/-- What a fetch that is answered returns: nothing where a reply before it was lost. -/
def fetchedGuard (k : Nat) (o : GlOutcome) (s : State) : Guard :=
  if o.badReplies != 0 then { gGet k s with alertG := 0, alertL := [] } else gGet k s

/-- The transaction of a fetch. -/
def fetchCarried (k : Nat) (o : GlOutcome) (s : State) : State :=
  transact k (glRequest 0x16 0xFF 0 0 []) (alertBytes (fetchedGuard k o s)) o (alertsCleared k o s)

/-- What a fetch brings for one line: its report, its power, and its trim's end. -/
def lineFetched (alerts l : List Nat) (p : Nat) (a : State) : State :=
  let a := lineReport p a
  let a := if (lcGet p a).reconciled then powerFetched p a else a
  if alerts.contains (p % 8) && !(lnGet p a).inTrim then trimCleared p (l.contains p) a else a

theorem alertFetch_carried (l : List Nat) (o : GlOutcome) (h : linkUsable k s = true) : alertFetch k l o s =
    if !o.isOk then fetchCarried k o s
    else monReport k (each (linesOf k) (lineFetched (fetchedGuard k o s).alertL l)
      (guardFetched k (fetchedGuard k o s).alertG (fetchedGuard k o s).temp (fetchCarried k o s))) := if_neg (by simp [h])

theorem reported_lineFetched (alerts l : List Nat) (p : Nat) (s : State) : Reported (lineKeys p) s (lineFetched alerts l p s) := by
  have hsub := actionKeys_subset_lineKeys p
  have hreport : Reported (lineKeys p) s (lineReport p s) := reported_reportWords p 3 9 s
  have hpower := hreport.trans (reported_when (c := (lcGet p (lineReport p s)).reconciled = true) ((reported_powerFetched p _).mono hsub) (.refl ..))
  exact hpower.trans (reported_when ((reported_trimCleared ..).mono hsub) (.refl ..))

theorem guardAlert_guards (f : Fld) (k : Nat) (s : State) : (guardAlert f k s).guards = s.guards := rfl

/-- The recovery of a guard shows: its bit, no GF version, and MON_STATE 3 (R828). -/
def recoveryShown (k : Nat) (s : State) : State :=
  logGuard 3 k (put RG.MON_STATE k 3 (put RG.GF_VER k 0 (guardAlert RG.GA_RECOVERY k s)))

/-- A hot guard shows, and the governor follows it (R254). -/
def heatShown (k : Nat) (temp : Int) (s : State) : State :=
  logEvent 0x0C 4 k [fieldOf 32 temp] { (guardAlert RG.GA_DIE_HOT k s) with
    leave := { s.leave with hotGuards := (s.leave.hotGuards.filter (· != k)) ++ [k] } }

theorem guardFetched_eq (k alertG : Nat) (temp : Int) (s : State) : guardFetched k alertG temp s =
    when_ (bitOf alertG 2) (heatShown k temp) (when_ (bitOf alertG 1) (recoveryShown k) (when_ (bitOf alertG 0) (guardAlert RG.GA_SUPPLY k) s)) := rfl

theorem get_heatShown {g : Fld} {j : Nat} (htime : g.key j ∉ timeKeys) (hirq : g.key j ≠ RG.IRQ_GUARD.key 0)
    (hheat : g.key j ≠ RG.GA_DIE_HOT.key 0) (k : Nat) (temp : Int) (s : State) : get g j (heatShown k temp s) = get g j s :=
  (get_logEvent htime ..).trans ((get_irq_ne hirq _).trans (get_setBits_ne hheat ..))

theorem get_recoveryShown {g : Fld} {j k : Nat} (htime : g.key j ∉ timeKeys) (hirq : g.key j ≠ RG.IRQ_GUARD.key 0)
    (hrec : g.key j ≠ RG.GA_RECOVERY.key 0) (hver : g.key j ≠ RG.GF_VER.key k) (hstate : g.key j ≠ RG.MON_STATE.key k) (s : State) :
    get g j (recoveryShown k s) = get g j s :=
  (get_logEvent htime ..).trans ((get_put_ne hstate ..).trans ((get_put_ne hver ..).trans ((get_irq_ne hirq _).trans (get_setBits_ne hrec ..))))

/-- Where a fetch shows its guard's own alerts: none of these places shares a key with another. -/
theorem alertKeys_apart {k : Nat} (hk : k < 6) : RG.GF_VER.key k ∉ timeKeys ∧ RG.GF_VER.key k ≠ RG.MON_STATE.key k ∧
    RG.GF_VER.key k ≠ RG.IRQ_GUARD.key 0 ∧ RG.GF_VER.key k ≠ RG.GA_DIE_HOT.key 0 ∧
    ∀ f ∈ [RG.GA_SUPPLY, RG.GA_RECOVERY, RG.GA_DIE_HOT, RG.IRQ_GUARD], f.key 0 ≠ RG.GF_VER.key k ∧ f.key 0 ≠ RG.MON_STATE.key k := by
  have hall : ∀ k < 6, RG.GF_VER.key k ∉ timeKeys ∧ RG.GF_VER.key k ≠ RG.MON_STATE.key k ∧
    RG.GF_VER.key k ≠ RG.IRQ_GUARD.key 0 ∧ RG.GF_VER.key k ≠ RG.GA_DIE_HOT.key 0 ∧
    ∀ f ∈ [RG.GA_SUPPLY, RG.GA_RECOVERY, RG.GA_DIE_HOT, RG.IRQ_GUARD], f.key 0 ≠ RG.GF_VER.key k ∧ f.key 0 ≠ RG.MON_STATE.key k := by decide
  exact hall k hk

theorem recoveryShown_spec (hk : k < 6) (s : State) : (recoveryShown k s).guards = s.guards ∧
    bitOf (get RG.GA_RECOVERY 0 (recoveryShown k s)) k = true ∧ get RG.GF_VER k (recoveryShown k s) = 0 ∧
    get RG.IRQ_GUARD 0 (recoveryShown k s) = 1 := by
  obtain ⟨htime, hapart, -, -, hkeys⟩ := alertKeys_apart hk
  obtain ⟨hver, hstate⟩ := hkeys RG.GA_RECOVERY (by decide)
  obtain ⟨hver', hstate'⟩ := hkeys RG.IRQ_GUARD (by decide)
  unfold recoveryShown logGuard
  rw [get_logEvent (by decide), get_logEvent htime, get_logEvent (by decide), get_put_ne hstate, get_put_ne hver, get_put_ne hapart,
    get_put_same, get_put_ne hstate', get_put_ne hver', guardAlert, get_irq_ne (by decide), bitOf_setBits rfl hk]
  exact ⟨by simp, rfl, rfl, get_setBits_one rfl 0 _⟩

theorem heatShown_spec (hk : k < 6) (temp : Int) (s : State) : (heatShown k temp s).guards = s.guards ∧
    bitOf (get RG.GA_DIE_HOT 0 (heatShown k temp s)) k = true ∧ get RG.IRQ_GUARD 0 (heatShown k temp s) = 1 := by
  have hget (g : Fld) (h : g.key 0 ∉ timeKeys) : get g 0 (heatShown k temp s) = get g 0 (guardAlert RG.GA_DIE_HOT k s) := get_logEvent h ..
  rw [hget _ (by decide), hget _ (by decide), guardAlert, get_irq_ne (by decide), bitOf_setBits rfl hk]
  exact ⟨by simp [heatShown, guardAlert_guards], rfl, get_setBits_one rfl 0 _⟩

theorem get_when {g : Fld} {j : Nat} {c : Bool} {f : State → State} {s : State} (h : get g j (f s) = get g j s) :
    get g j (when_ c f s) = get g j s := by
  unfold when_
  split
  · exact h
  · rfl

/-- What a fetch shows of its guard's own alerts (R216). -/
structure AlertsShown (k alertG : Nat) (t : State) : Prop where
  supply : bitOf alertG 0 = true → bitOf (get RG.GA_SUPPLY 0 t) k = true ∧ get RG.IRQ_GUARD 0 t = 1
  recovery : bitOf alertG 1 = true → bitOf (get RG.GA_RECOVERY 0 t) k = true ∧ get RG.GF_VER k t = 0
  heat : bitOf alertG 2 = true → bitOf (get RG.GA_DIE_HOT 0 t) k = true

theorem guardFetched_spec (hk : k < 6) (alertG : Nat) (temp : Int) (s : State) :
    (guardFetched k alertG temp s).guards = s.guards ∧ AlertsShown k alertG (guardFetched k alertG temp s) := by
  obtain ⟨-, -, hverIrq, hverHeat, hkeys⟩ := alertKeys_apart hk
  rw [guardFetched_eq]
  generalize ha : when_ (bitOf alertG 0) (guardAlert RG.GA_SUPPLY k) s = a
  generalize hb : when_ (bitOf alertG 1) (recoveryShown k) a = b
  have hheat {g : Fld} {j : Nat} (htime : g.key j ∉ timeKeys) (hirq : g.key j ≠ RG.IRQ_GUARD.key 0) (hne : g.key j ≠ RG.GA_DIE_HOT.key 0) :
      get g j (when_ (bitOf alertG 2) (heatShown k temp) b) = get g j b := get_when (get_heatShown htime hirq hne ..)
  have hstands (h : get RG.IRQ_GUARD 0 b = 1) : get RG.IRQ_GUARD 0 (when_ (bitOf alertG 2) (heatShown k temp) b) = 1 := by
    unfold when_
    split
    · exact (heatShown_spec hk temp b).2.2
    · exact h
  refine ⟨?_, ⟨fun h => ?_, fun h => ?_, fun h => ?_⟩⟩
  · have hguards {c : Bool} {f : State → State} {x : State} (hf : (f x).guards = x.guards) : (when_ c f x).guards = x.guards := by
      unfold when_
      split
      · exact hf
      · rfl
    rw [hguards (heatShown_spec hk temp b).1, ← hb, hguards (recoveryShown_spec hk a).1, ← ha, hguards (guardAlert_guards ..)]
  · have hsupply : bitOf (get RG.GA_SUPPLY 0 a) k = true ∧ get RG.IRQ_GUARD 0 a = 1 := by
      rw [← ha, when_, if_pos h]
      exact ⟨by rw [guardAlert, get_irq_ne (by decide), bitOf_setBits rfl hk], get_setBits_one rfl 0 _⟩
    obtain ⟨hver, hstate⟩ := hkeys RG.GA_SUPPLY (by decide)
    refine ⟨?_, hstands ?_⟩
    · rw [hheat (by decide) (by decide) (by decide), ← hb, get_when (get_recoveryShown (by decide) (by decide) (by decide) hver hstate a), hsupply.1]
    · rw [← hb]
      unfold when_
      split
      · exact (recoveryShown_spec hk a).2.2.2
      · exact hsupply.2
  · obtain ⟨-, hbit, hver, -⟩ := recoveryShown_spec hk a
    rw [hheat (by decide) (by decide) (by decide), hheat (alertKeys_apart hk).1 hverIrq hverHeat, ← hb, when_, if_pos h]
    exact ⟨hbit, hver⟩
  · rw [when_, if_pos h]
    exact (heatShown_spec hk temp b).2.1

/-- What a fetch shows of the guard's own alerts stands through the reports of its lines and of its measurements. -/
theorem AlertsShown.reported {alertG : Nat} {t u : State} (hk : k < 6) (h : AlertsShown k alertG t)
    (hkept : ∀ g j, g.key j < 33554432 → g.key j ∉ timeKeys → g.key j ∉ [RG.IRQ_GUARD.key 0, RG.FIELD_CHANGE.key 0, RG.IRQ_LINE.key 0] →
      g.key j ∉ monKeys k → get g j u = get g j t) (hirq : get RG.IRQ_GUARD 0 t = 1 → get RG.IRQ_GUARD 0 u = 1) : AlertsShown k alertG u := by
  have hmon : (∀ f ∈ [RG.GA_SUPPLY, RG.GA_RECOVERY, RG.GA_DIE_HOT], f.key 0 ∉ monKeys k) ∧ RG.GF_VER.key k ∉ monKeys k ∧
      RG.GF_VER.key k < 33554432 ∧ RG.GF_VER.key k ∉ timeKeys ∧
      RG.GF_VER.key k ∉ [RG.IRQ_GUARD.key 0, RG.FIELD_CHANGE.key 0, RG.IRQ_LINE.key 0] := by
    have hall : ∀ k < 6, (∀ f ∈ [RG.GA_SUPPLY, RG.GA_RECOVERY, RG.GA_DIE_HOT], f.key 0 ∉ monKeys k) ∧ RG.GF_VER.key k ∉ monKeys k ∧
      RG.GF_VER.key k < 33554432 ∧ RG.GF_VER.key k ∉ timeKeys ∧
      RG.GF_VER.key k ∉ [RG.IRQ_GUARD.key 0, RG.FIELD_CHANGE.key 0, RG.IRQ_LINE.key 0] := by decide
    exact hall k hk
  obtain ⟨hbits, hverMon, hverDirect, hverTime, hverKeys⟩ := hmon
  refine ⟨fun hbit => ?_, fun hbit => ?_, fun hbit => ?_⟩
  · rw [hkept _ _ (by decide) (by decide) (by decide) (hbits _ (by decide))]
    exact ⟨(h.supply hbit).1, hirq (h.supply hbit).2⟩
  · rw [hkept _ _ (by decide) (by decide) (by decide) (hbits _ (by decide)), hkept _ _ hverDirect hverTime hverKeys hverMon]
    exact h.recovery hbit
  · rw [hkept _ _ (by decide) (by decide) (by decide) (hbits _ (by decide))]
    exact h.heat hbit

/-- An answered fetch clears the guard's alerts and shows them (R216, R254). -/
theorem alertFetch_ok (l : List Nat) (h : linkUsable k s = true) (hok : o.isOk = true) :
    (gGet k (alertFetch k l o s)).alertG = 0 ∧ (gGet k (alertFetch k l o s)).alertL = [] ∧ (gGet k (alertFetch k l o s)).fetch = false ∧
    (o.badReplies = 0 → AlertsShown k (gGet k s).alertG (alertFetch k l o s)) := by
  have hk := lt_of_linkUsable h
  rw [alertFetch_carried l o h, if_neg (by simp [hok])]
  have hcleared : gGet k (alertsCleared k o s) = { gGet k s with alertG := 0, alertL := [], fetch := false } := by
    rw [alertsCleared, if_pos (glActed_of_isOk hok), gGet_gMap_same]
  obtain ⟨link, fails, faulted, hcarried⟩ := (linkKeeps_transact k (glRequest 0x16 0xFF 0 0 []) (alertBytes (fetchedGuard k o s)) o (alertsCleared k o s)).guard
  replace hcarried : gGet k (fetchCarried k o s) = { gGet k (alertsCleared k o s) with link := link, fails := fails, faulted := faulted } := hcarried
  rw [hcleared] at hcarried
  have hfetched (hgood : o.badReplies = 0) : fetchedGuard k o s = gGet k s := if_neg (by simp [hgood])
  generalize fetchCarried k o s = a at hcarried ⊢
  generalize fetchedGuard k o s = g at hfetched ⊢
  obtain ⟨hguards, hshown⟩ := guardFetched_spec hk g.alertG g.temp a
  generalize guardFetched k g.alertG g.temp a = b at hguards hshown ⊢
  have hlines : ∀ t, Reported ((linesOf k).flatMap lineKeys) t (each (linesOf k) (lineFetched g.alertL l) t) := fun t =>
    reported_each _ (fun p hp a => (reported_lineFetched g.alertL l p a).mono fun x hx => List.mem_flatMap.mpr ⟨p, hp, hx⟩) t
  have hreported := hlines b
  generalize each (linesOf k) (lineFetched g.alertL l) b = c at hreported ⊢
  obtain ⟨-, -, hafter, -, hkept⟩ := monReport_spec hk c
  rw [hafter, gGet_congr hreported.guards, gGet_congr hguards, hcarried]
  refine ⟨rfl, rfl, rfl, fun hgood => ?_⟩
  rw [← hfetched hgood]
  refine hshown.reported hk (fun f j hdirect htime hkeys hmon => ?_) fun hirq => ?_
  · refine (hkept f j hmon).trans (hreported.kept f j fun hm => ?_)
    obtain ⟨p, -, hp⟩ := List.mem_flatMap.mp hm
    exact direct_not_lineKeys hdirect htime hkeys hp
  · have hmon : RG.IRQ_GUARD.key 0 ∉ monKeys k := by
      have hall : ∀ k < 6, RG.IRQ_GUARD.key 0 ∉ monKeys k := by decide
      exact hall k hk
    exact (hkept _ _ hmon).trans (hreported.irq hirq)

/-- A fetch whose request fails its CRC clears nothing. -/
theorem alertFetch_requestCrc (l : List Nat) (n : Nat) (h : linkUsable k s = true) (hfails : (gGet k s).fails ≤ 1) :
    (gGet k (alertFetch k l ⟨0, n, .requestCrc⟩ s)).alertG = (gGet k s).alertG ∧
    (gGet k (alertFetch k l ⟨0, n, .requestCrc⟩ s)).alertL = (gGet k s).alertL ∧
    (gGet k (alertFetch k l ⟨0, n, .requestCrc⟩ s)).fails = (gGet k s).fails + 1 ∧
    alertFetch k l ⟨0, n, .requestCrc⟩ s = { s with
      guards := (alertFetch k l ⟨0, n, .requestCrc⟩ s).guards
      sys := { s.sys with wellFrom := (alertFetch k l ⟨0, n, .requestCrc⟩ s).sys.wellFrom } } := by
  have hcarried : alertFetch k l ⟨0, n, .requestCrc⟩ s = transact k (glRequest 0x16 0xFF 0 0 []) (alertBytes (gGet k s)) ⟨0, n, .requestCrc⟩ s := by
    rw [alertFetch_carried l _ h]
    exact if_pos (show (!(GlOutcome.isOk ⟨0, n, .requestCrc⟩)) = true from rfl)
  obtain ⟨hcount, hunits⟩ := transact_requestCrc (k := k) (h := n) hfails (glRequest 0x16 0xFF 0 0 []) (alertBytes (gGet k s))
  obtain ⟨link, fails, faulted, hguard⟩ := (linkKeeps_transact k (glRequest 0x16 0xFF 0 0 []) (alertBytes (gGet k s)) ⟨0, n, .requestCrc⟩ s).guard
  rw [hcarried]
  exact ⟨by rw [hguard], by rw [hguard], hcount, hunits⟩

/-! #### IDENT (R825) -/

theorem ident_idle (o : GlOutcome) (h : guardOk s k = false ∨ (gGet k s).run = 0 ∨ (gGet k s).run = 5 ∨ fetchOwed s = true) :
    ident k o s = s := if_pos (by rcases h with h | h | h | h <;> simp [h])

/-- The transaction of IDENT. -/
def identCarried (k : Nat) (o : GlOutcome) (s : State) : State := transact k (glRequest 0x17 0xFF 0 0 []) (identBytes (gGet k s)) o s

/-- An answered IDENT shows a guard that is still booting, and otherwise counts it as answered (R825). -/
theorem ident_carried (hpresent : guardOk s k = true) (hoff : (gGet k s).run ≠ 0) (hact : (gGet k s).run ≠ 5) (howed : fetchOwed s = false)
    (hphase : s.sys.phase = .guardWait) (hok : o.isOk = true) : ident k o s =
      if (gGet k s).run = 1 then identTaken k (identCarried k o s)
      else identTaken k (gMap k (fun g => { g with answered := true }) (identCarried k o s)) := by
  have hkeeps := linkKeeps_transact k (glRequest 0x17 0xFF 0 0 []) (identBytes (gGet k s)) o s
  obtain ⟨link, fails, faulted, hguard⟩ := hkeeps.guard
  unfold ident identCarried
  dsimp only
  rw [if_neg (by simp [hpresent, hoff, hact, howed]), if_neg (by simp [hok]), hguard]
  refine ite_congr rfl (fun _ => rfl) fun _ => ?_
  split
  · next hready => exact absurd (hready.symm.trans (hkeeps.phase.trans hphase)) (by decide)
  · next hpaused => exact absurd (hpaused.symm.trans (hkeeps.phase.trans hphase)) (by decide)
  · rfl

/-- What IDENT shows of a guard. -/
theorem identTaken_spec (hk : k < 6) (s : State) : (identTaken k s).guards = s.guards ∧ (identTaken k s).lines = s.lines ∧
    (identTaken k s).sys = s.sys ∧ get RG.GUARD_LINK_OK 0 (identTaken k s) = get RG.GUARD_LINK_OK 0 s ∧
    get RG.GF_VER k (identTaken k s) = (if (gGet k s).run = 3 then 0 else (gGet k s).gfVer) % 2 ^ RG.GF_VER.width ∧
    get RG.MON_STATE k (identTaken k s) = (gGet k s).run % 2 ^ RG.MON_STATE.width := by
  have hlink : RG.GUARD_LINK_OK.key 0 ≠ RG.GF_VER.key k ∧ RG.GUARD_LINK_OK.key 0 ≠ RG.MON_STATE.key k := by
    have hall : ∀ k < 6, RG.GUARD_LINK_OK.key 0 ≠ RG.GF_VER.key k ∧ RG.GUARD_LINK_OK.key 0 ≠ RG.MON_STATE.key k := by decide
    exact hall k hk
  exact ⟨rfl, rfl, rfl, (get_put_ne hlink.2 ..).trans (get_put_ne hlink.1 ..),
    (get_put_ne (alertKeys_apart hk).2.1 ..).trans (get_put_same ..), get_put_same ..⟩

/-- An answered IDENT in the guard wait (R825, R826). -/
theorem ident_answered (hpresent : guardOk s k = true) (hoff : (gGet k s).run ≠ 0) (hboot : (gGet k s).run ≠ 1) (hact : (gGet k s).run ≠ 5)
    (howed : fetchOwed s = false) (hphase : s.sys.phase = .guardWait) (hok : o.isOk = true) :
    (ident k o s).sys.phase = .guardWait ∧ (gGet k (ident k o s)).answered = true ∧ bitOf (get RG.GUARD_LINK_OK 0 (ident k o s)) k = true ∧
    get RG.GF_VER k (ident k o s) = (if (gGet k s).run = 3 then 0 else (gGet k s).gfVer) % 2 ^ RG.GF_VER.width ∧
    get RG.MON_STATE k (ident k o s) = (gGet k s).run % 2 ^ RG.MON_STATE.width ∧ (ident k o s).lines = s.lines := by
  have hk := lt_of_guardOk hpresent
  obtain ⟨-, hbit⟩ := transact_good (k := k) (good_of_isOk hok) (glRequest 0x17 0xFF 0 0 []) (identBytes (gGet k s)) s
  have hkeeps := linkKeeps_transact k (glRequest 0x17 0xFF 0 0 []) (identBytes (gGet k s)) o s
  have hlines := (transact_fields k (glRequest 0x17 0xFF 0 0 []) (identBytes (gGet k s)) o s).1
  obtain ⟨link, fails, faulted, hguard⟩ := hkeeps.guard
  rw [ident_carried hpresent hoff hact howed hphase hok, if_neg hboot, identCarried]
  generalize transact k (glRequest 0x17 0xFF 0 0 []) (identBytes (gGet k s)) o s = a at hbit hkeeps hlines hguard ⊢
  have hanswered : gGet k (gMap k (fun g => { g with answered := true }) a) =
      { gGet k s with link := link, fails := fails, faulted := faulted, answered := true } := by rw [gGet_gMap_same, hguard]
  obtain ⟨hguards, hlines', hsys, hlink, hver, hstate⟩ := identTaken_spec hk (gMap k (fun g => { g with answered := true }) a)
  rw [hver, hstate, hlink, hlines', hsys, gGet_congr hguards, hanswered]
  exact ⟨hkeeps.phase.trans hphase, rfl, hbit hk, rfl, rfl, hlines⟩

/-- A guard that is still booting shows state 1, and is asked again. -/
theorem ident_booting (hpresent : guardOk s k = true) (hboot : (gGet k s).run = 1)
    (howed : fetchOwed s = false) (hphase : s.sys.phase = .guardWait) (hok : o.isOk = true) :
    (ident k o s).sys.phase = .guardWait ∧ (gGet k (ident k o s)).answered = (gGet k s).answered ∧
    get RG.MON_STATE k (ident k o s) = 1 ∧ (ident k o s).lines = s.lines := by
  have hkeeps := linkKeeps_transact k (glRequest 0x17 0xFF 0 0 []) (identBytes (gGet k s)) o s
  have hlines := (transact_fields k (glRequest 0x17 0xFF 0 0 []) (identBytes (gGet k s)) o s).1
  obtain ⟨link, fails, faulted, hguard⟩ := hkeeps.guard
  rw [ident_carried hpresent (by omega) (by omega) howed hphase hok, if_pos hboot, identCarried]
  generalize transact k (glRequest 0x17 0xFF 0 0 []) (identBytes (gGet k s)) o s = a at hkeeps hlines hguard ⊢
  obtain ⟨hguards, hlines', hsys, -, -, hstate⟩ := identTaken_spec (lt_of_guardOk hpresent) a
  rw [hstate, hlines', hsys, gGet_congr hguards, hguard]
  exact ⟨hkeeps.phase.trans hphase, rfl, by rw [hboot]; rfl, hlines⟩

end

/-- Outside service, IDENT is all there is to the row. -/
theorem execIdent_outside {k : Nat} {o : GlOutcome} {dt : Nat} {s : State} (h : (ident k o (elapse dt s)).sys.phase ≠ .ready) :
    exec (.ident dt k o) s = .next (ident k o (elapse dt s)) := congrArg Host.Outcome.next (if_neg fun hready => h hready.1)

/-! #### Common-mode faults and a hot die (R220, R254) -/

section

variable {k p : Nat} {s : State}

/-- A common-mode fault begins: its event is set. -/
theorem cmFault_begins (hport : portOk s p = true) (hrun : (gGet (p / 8) s).run = 2) (hmode : cfgField p 0 1 1 s = 0)
    (hnone : (lnGet p s).cmFault = false) : (lnGet p (cmFault p s)).cmFault = true ∧ (lnGet p (cmFault p s)).cmFrom = s.now ∧
    bitOf (lnGet p (cmFault p s)).events 10 = true ∧ cmFault p s = { s with lines := (cmFault p s).lines, lineCtl := (cmFault p s).lineCtl } := by
  have hbegins : cmFault p s = lnEvent p 10 (lnMap p (fun x => { x with cmFault := true, cmFrom := s.now }) s) :=
    if_pos ⟨hport, hrun, hmode, by simp [hnone]⟩
  obtain ⟨⟨since, hline⟩, -⟩ := lnEvent_spec p 10 (lnMap p (fun x => { x with cmFault := true, cmFrom := s.now }) s)
  rw [hbegins, hline, lnGet_lnMap_same]
  exact ⟨rfl, rfl, bitOf_or _ 10, rfl⟩

theorem cmFault_idle (h : (gGet (p / 8) s).run ≠ 2 ∨ cfgField p 0 1 1 s ≠ 0 ∨ (lnGet p s).cmFault = true) : cmFault p s = s :=
  if_neg (by rcases h with h | h | h <;> simp [h])

/-- A common-mode fault ends. -/
theorem cmFaultEnd_spec (p : Nat) (s : State) : (lnGet p (cmFaultEnd p s)).cmFault = false ∧
    (lnGet p (cmFaultEnd p s)).events = (lnGet p s).events ∧ ((lnGet p s).cmFault = true → (lnGet p (cmFaultEnd p s)).cmTo = s.now) ∧
    cmFaultEnd p s = { s with lines := (cmFaultEnd p s).lines } := by
  unfold cmFaultEnd
  split
  · rw [lnGet_lnMap_same]
    exact ⟨rfl, rfl, fun _ => rfl, rfl⟩
  · next h => exact ⟨by simpa using h, rfl, fun hfault => absurd hfault h, rfl⟩

/-- A guard's die has the temperature `temp`, and DIE_HOT is pending from 140 °C on. -/
def dieMeasured (k : Nat) (temp : Int) (s : State) : State :=
  let s := gMap k (fun g => { g with temp := temp }) s
  if 140 ≤ temp then gMap k (fun g => { g with alertG := g.alertG ||| 4 }) s else s

theorem guardDieHot_eq (temp : Int) (hpresent : guardOk s k = true) (hon : (gGet k s).run ≠ 0) : guardDieHot k temp s =
    if 150 ≤ temp then allOpen k 4 (dieMeasured k temp s) else dieMeasured k temp s := if_neg (by simp [hpresent, hon])

theorem guardDieHot_idle (temp : Int) (h : guardOk s k = false ∨ (gGet k s).run = 0) : guardDieHot k temp s = s :=
  if_pos (by rcases h with h | h <;> simp [h])

theorem dieMeasured_spec (k : Nat) {temp : Int} (hhot : 140 ≤ temp) (s : State) : (gGet k (dieMeasured k temp s)).temp = temp ∧
    bitOf (gGet k (dieMeasured k temp s)).alertG 2 = true ∧ dieMeasured k temp s = { s with guards := (dieMeasured k temp s).guards } := by
  unfold dieMeasured
  dsimp only
  rw [if_pos hhot, gGet_gMap_same, gGet_gMap_same]
  exact ⟨rfl, bitOf_or_of rfl, rfl⟩

theorem dieMeasured_lines (k : Nat) (temp : Int) (s : State) : (dieMeasured k temp s).lines = s.lines := by
  unfold dieMeasured
  split <;> rfl

end

end Sys2Proof.Machine

section

open Sys2Proof Sys2Proof.Machine

/-- Settles O45, clause by clause: GL_ALERT_N; no fetch, a fetch, one whose request fails; IDENT of a guard, of one that boots, and none;
a common-mode fault, none, and its end; DIE_HOT, THERMAL, and neither. -/
theorem guardsAlertAndIdentify : Obligations.GuardsAlertAndIdentify := by
  refine ⟨?alert, ?noFetch, ?fetch, ?fetchFails, ?ident, ?boots, ?noIdent, ?fault, ?noFault, ?faultEnds, ?hot, ?thermal, ?notHot⟩
  case alert =>
    intro dt k s
    refine ⟨_, rfl, rfl, ?_⟩
    rw [gGet_glAlertN, gGet_elapse, Guard.alerted]
    simp
  case noFetch =>
    intro dt k l o s h
    exact congrArg Host.Outcome.next (alertFetch_idle l o ((linkUsable_elapse ..).trans h))
  case fetch =>
    intro dt k l o s h hok
    obtain ⟨halertG, halertL, hfetch, hshown⟩ := alertFetch_ok (s := elapse dt s) l ((linkUsable_elapse ..).trans h) hok
    rw [gGet_elapse] at hshown
    exact ⟨_, rfl, halertG, halertL, hfetch, fun hgood => (hshown hgood).supply, fun hgood => (hshown hgood).recovery,
      fun hgood => (hshown hgood).heat⟩
  case fetchFails =>
    intro dt k l h s husable hfails
    have hspec := alertFetch_requestCrc (s := elapse dt s) l h ((linkUsable_elapse ..).trans husable) (by rwa [gGet_elapse])
    rw [gGet_elapse] at hspec
    exact ⟨_, rfl, hspec⟩
  case ident =>
    intro dt k o s hpresent hoff hboot hact howed hphase hok
    rw [← gGet_elapse k dt s] at hoff hboot hact
    obtain ⟨hphase', hspec⟩ := ident_answered (s := elapse dt s) (by simpa [guardOk] using hpresent) hoff hboot hact
      ((fetchOwed_elapse ..).trans howed) (by simpa using hphase) hok
    have hlines : (elapse dt s).lines = s.lines := by simp
    rw [gGet_elapse, hlines] at hspec
    exact ⟨_, execIdent_outside (by rw [hphase']; decide), hspec⟩
  case boots =>
    intro dt k o s hpresent hboot howed hphase hok
    rw [← gGet_elapse k dt s] at hboot
    obtain ⟨hphase', hanswered, hstate, hlines⟩ := ident_booting (s := elapse dt s) (by simpa [guardOk] using hpresent) hboot
      ((fetchOwed_elapse ..).trans howed) (by simpa using hphase) hok
    exact ⟨_, execIdent_outside (by rw [hphase']; decide), hanswered.trans (by simp), hstate, hlines.trans (by simp)⟩
  case noIdent =>
    intro dt k o s h hphase
    have hidle : ident k o (elapse dt s) = elapse dt s := ident_idle o (by simpa [guardOk] using h)
    rw [execIdent_outside (by rw [hidle]; simpa using hphase), hidle]
  case fault =>
    intro dt p s hport hrun hmode hnone
    obtain ⟨hfault, hfrom, hevent, hunits⟩ := cmFault_begins (p := p) (s := elapse dt s) (by simpa [portOk] using hport) (by rwa [gGet_elapse])
      (by simpa [cfgField, cfgWord] using hmode) (by rwa [lnGet_elapse])
    exact ⟨_, rfl, hfault, hfrom.trans (elapse_now ..), hevent, hunits⟩
  case noFault =>
    intro dt p s h
    exact congrArg Host.Outcome.next (cmFault_idle (by simpa [cfgField, cfgWord] using h))
  case faultEnds =>
    intro dt p s
    obtain ⟨hfault, hevents, hto, hunits⟩ := cmFaultEnd_spec p (elapse dt s)
    rw [elapse_now] at hto
    rw [lnGet_elapse] at hevents hto
    exact ⟨_, rfl, hfault, hevents, hto, hunits⟩
  case hot =>
    intro dt k x s hpresent hon hhot hbelow
    have hmeasured : guardDieHot k x (elapse dt s) = dieMeasured k x (elapse dt s) :=
      (guardDieHot_eq x (by simpa [guardOk] using hpresent) (by rwa [gGet_elapse])).trans (if_neg (by omega))
    exact ⟨_, congrArg Host.Outcome.next hmeasured, dieMeasured_spec k hhot (elapse dt s)⟩
  case thermal =>
    intro dt p x s hpresent hon hhot hpowered
    have hopens : guardDieHot (p / 8) x (elapse dt s) = allOpen (p / 8) 4 (dieMeasured (p / 8) x (elapse dt s)) :=
      (guardDieHot_eq x (by simpa [guardOk] using hpresent) (by rwa [gGet_elapse])).trans (if_pos hhot)
    refine ⟨_, congrArg Host.Outcome.next hopens, allOpen_powered (by decide) ?_⟩
    unfold powered
    rw [lnGet_congr (dieMeasured_lines ..), lnGet_elapse]
    exact hpowered
  case notHot =>
    intro dt k x s h
    exact congrArg Host.Outcome.next (guardDieHot_idle x (by simpa [guardOk] using h))

end
end

section

/-! ### Writes of LINE_CTRL of a guard line (R223, R228, R236) -/

open Sys2Proof.Safety

namespace Sys2Proof.Machine

/-- The fields of LINE_CTRL that the commands of this chapter write. -/
def lineCtrlFields : List Fld := [GL.EN, GL.PWR_EN, GL.TRIM_REQ]

theorem lineCtrlFields_place {f : Fld} (hf : f ∈ lineCtrlFields) : f ∈ fldsGL.filter (fun x => x.word == 0) ∧ f.space = 8 ∧
    f.acc ≠ .w1c ∧ (∀ i, wordOf f i = 16 * i + 0) ∧ f.width = 1 := by
  simp only [lineCtrlFields, List.mem_cons, List.not_mem_nil, or_false] at hf
  rcases hf with rfl | rfl | rfl <;> exact ⟨by decide, rfl, by decide, fun _ => rfl, rfl⟩

/-- What a write of LINE_CTRL that leaves `t` of `b` starts and stops; `trim` tells whether it asks for a trim. -/
def lineCtrlActs (p : Nat) (trim : Bool) (b t : State) : State :=
  let s := if (lcGet p t).reconciled then forwardConfig p 0 t else t
  let s := if (lcGet p t).reconciled && rises GL.EN p b t then guardLineEnable p s else s
  let s := if rises GL.PWR_EN p b t then pwrEnSet p s else if !(flag GL.PWR_EN p t) then pwrEnClear p s else s
  let s := if falls GL.LEAK_EN p b t then leakStop p s else s
  if trim then trimReq p s else s

/-- What a taken write of one field of LINE_CTRL leaves before what it starts: the field alone has changed. -/
structure CtrlWritten (p : Nat) (f : Fld) (v : Nat) (s w : State) : Prop where
  units : sameUnits s w
  given : f.acc = .rw → get f p w = v % 2
  rest : ∀ g ∈ fldsGL.filter (fun x => x.word == 0), g ≠ f → get g p w = get g p s

theorem setFields_lineCtrl {p v : Nat} {f : Fld} {trim : Bool} {s : State} (hf : f ∈ lineCtrlFields) (h : taken p f [(f, v)] s)
    (htrim : ∀ M w, WriteFacts p f [(f, v)] s M w → asks GL.TRIM_REQ M = trim) :
    ∃ w mp cfg, CtrlWritten p f v s w ∧ mp.answer = 0 ∧
      setFields p [(f, v)] s = { lineCtrlActs p trim s w with mp := mp, cfg := cfg } := by
  obtain ⟨hmem, hspace, hacc, hword, hwidth⟩ := lineCtrlFields_place hf
  have hfields : wordFields f.space (wordOf f p) = fieldsIn fldsGL 0 p := by rw [hspace, hword, fieldsIn_line p 0 (by decide)]
  have hplain : PlainWord f.space (wordOf f p) := by
    refine plainWord_of hfields ?_ (by decide)
    rw [hspace, hword]
    rfl
  have hwrote : wrote p f [(f, v)] (lineCtrlActs p trim s) s (setFields p [(f, v)] s) := by
    refine setFields_wrote p f v [] s _ h hplain ?_ (by omega) (.inr (by omega)) ?_ (List.pairwise_singleton ..) fun M w hfacts => ?_
    · rw [hspace, hword]
      rfl
    · intro y hy
      rw [List.mem_singleton.mp hy, hfields]
      exact ⟨List.mem_map_of_mem hmem, hacc⟩
    · have hline : (16 * p + 0) / 16 = p ∧ (16 * p + 0) % 16 = 0 := by omega
      rw [hspace, hword, ← htrim M w hfacts]
      show lineActs ((16 * p + 0) / 16) ((16 * p + 0) % 16) M s w = _
      rw [hline.1, hline.2]
      rfl
  obtain ⟨w, l, hunits, hgiven, hrest, -, ht⟩ := hwrote
  refine ⟨w, _, _, ⟨hunits, fun hrw => ?_, fun g hg hne => ?_⟩, ?_, ht⟩
  · exact (hgiven (f, v) (by simp) hrw).trans (by rw [hwidth, pow_one])
  · exact hrest (g, p) (hfields ▸ List.mem_map_of_mem hg) (.inl (by simpa using hne))
  · rfl

/-- A write of another field of LINE_CTRL asks for no trim. -/
theorem asksTrim_of_other {p v M : Nat} {f : Fld} {s w : State} (hf : f ∈ [GL.EN, GL.PWR_EN]) (h : WriteFacts p f [(f, v)] s M w) :
    asks GL.TRIM_REQ M = false := by
  have hctrl : f ∈ lineCtrlFields ∧ GL.TRIM_REQ ≠ f := by
    simp only [List.mem_cons, List.not_mem_nil, or_false] at hf
    rcases hf with rfl | rfl <;> exact ⟨by decide, by decide⟩
  obtain ⟨-, hspace, -, hword, -⟩ := lineCtrlFields_place hctrl.1
  have hmem : (GL.TRIM_REQ, p) ∈ wordFields f.space (wordOf f p) := by
    rw [hspace, hword, fieldsIn_line p 0 (by decide)]
    exact List.mem_map_of_mem (by decide)
  have hbits : bits M 6 1 = 0 := h.kept (GL.TRIM_REQ, p) hmem (by simpa using hctrl.2)
  simpa [asks, bitOf, bits, GL.TRIM_REQ] using hbits

theorem asksTrim_of_given {p M : Nat} {s w : State} (h : WriteFacts p GL.TRIM_REQ [(GL.TRIM_REQ, 1)] s M w) : asks GL.TRIM_REQ M = true := by
  have hbits : bits M 6 1 = 1 := h.sent (GL.TRIM_REQ, 1) (by simp)
  simpa [asks, bitOf, bits, GL.TRIM_REQ] using hbits

/-- A taken write of a line's word is one of a present line. -/
theorem lt_of_taken {p v : Nat} {f : Fld} {s : State} (hf : f ∈ lineCtrlFields) (h : taken p f [(f, v)] s) : p < 48 := by
  obtain ⟨-, hspace, -, hword, -⟩ := lineCtrlFields_place hf
  obtain ⟨-, hplace, -⟩ := h
  rw [hspace, hword] at hplace
  by_contra hbeyond
  have hport : portOk s p = false := by
    by_contra hok
    exact hbeyond (lt_of_portOk (by simpa using hok))
  simp [place, hport] at hplace

/-! #### Bus power (R223, R228) -/

/-- What the power commands of line `p` leave: the clock, its need for trim, and every field but its power state and CHANGE. -/
structure PowerActed (p : Nat) (s t : State) : Prop where
  now : t.now = s.now
  guards : t.guards = s.guards
  need : (lcGet p t).needTrim = (lcGet p s).needTrim
  kept : ∀ g j, g.key j ∉ [GL.PWR_STATE.key p, GL.PWR_CAUSE.key p, RG.FIELD_CHANGE.key 0] → get g j t = get g j s

theorem PowerActed.refl (p : Nat) (s : State) : PowerActed p s s := ⟨rfl, rfl, rfl, fun _ _ _ => rfl⟩

theorem PowerActed.trans {p : Nat} {s t u : State} (h : PowerActed p s t) (h' : PowerActed p t u) : PowerActed p s u :=
  ⟨h'.now.trans h.now, h'.guards.trans h.guards, h'.need.trans h.need, fun g j hk => (h'.kept g j hk).trans (h.kept g j hk)⟩

section

variable (p : Nat) (s : State)

@[simp] theorem setPwr_units (st cause : Nat) : (setPwr p st cause s).now = s.now ∧ (setPwr p st cause s).guards = s.guards ∧
    (setPwr p st cause s).lineCtl = s.lineCtl := by
  unfold setPwr
  split <;> exact ⟨rfl, rfl, rfl⟩

theorem powerActed_setPwr (st cause : Nat) : PowerActed p s (setPwr p st cause s) := by
  obtain ⟨-, -, -, hkept⟩ := setPwr_spec p st cause s
  refine ⟨(setPwr_units ..).1, (setPwr_units ..).2.1, by rw [lcGet_congr (setPwr_units ..).2.2], fun g j hk => ?_⟩
  simp only [List.mem_cons, List.not_mem_nil, or_false, not_or] at hk
  exact hkept g j hk.1 hk.2.1

/-- The line's switch-on gives its request and its grant back. -/
def switchWithdrawn : State := releaseLeave (.switchOn p) (withdrawLeave (.switchOn p) s)

theorem switchWithdrawn_leave : isWaiting (.switchOn p) (switchWithdrawn p s) = false ∧ isGranted (.switchOn p) (switchWithdrawn p s) = false := by
  refine ⟨?_, isGranted_releaseLeave ..⟩
  rw [switchWithdrawn, releaseLeave, isWaiting_congr (checkBudget_fields ..).2.1]
  unfold isWaiting waiting setGrants withdrawLeave setWaiting LeaveKind.pool
  simp

theorem get_releaseSwitch {g : Fld} {j : Nat} (h : g.key j ≠ RG.FIELD_CHANGE.key 0) : get g j (releaseLeave (.switchOn p) s) = get g j s := by
  unfold releaseLeave checkBudget
  split
  · exact get_put_ne (f := RG.FIELD_CHANGE) h ..
  · rfl

theorem powerActed_switchWithdrawn : PowerActed p s (switchWithdrawn p s) := by
  obtain ⟨hnow, -, hctl, hguards, -⟩ := releaseLeave_fields (.switchOn p) (withdrawLeave (.switchOn p) s)
  refine ⟨hnow, hguards, by rw [switchWithdrawn, lcGet_congr hctl]; rfl, fun g j hk => ?_⟩
  simp only [List.mem_cons, List.not_mem_nil, or_false, not_or] at hk
  exact get_releaseSwitch p _ hk.2.2

theorem switchWithdrawn_line : lnGet p (switchWithdrawn p s) = lnGet p s ∧ lcGet p (switchWithdrawn p s) = lcGet p s := by
  obtain ⟨-, hlines, hctl, -⟩ := releaseLeave_fields (.switchOn p) (withdrawLeave (.switchOn p) s)
  exact ⟨lnGet_congr hlines p, lcGet_congr hctl p⟩

/-- A switch-on is asked for: the line waits, in the shadow and, reconciled, at its guard (R223). -/
theorem askSwitchOn_spec : PowerActed p s (askSwitchOn p s) ∧ get GL.PWR_STATE p (askSwitchOn p s) = 1 ∧
    isWaiting (.switchOn p) (askSwitchOn p s) = true ∧ lcGet p (askSwitchOn p s) = lcGet p s ∧
    ((lcGet p s).reconciled = true → (lnGet p (askSwitchOn p s)).pwr = 1) ∧
    ((lcGet p s).reconciled = false → (askSwitchOn p s).lines = s.lines) := by
  obtain ⟨hstate, -, hline, -⟩ := setPwr_spec p 1 (get GL.PWR_CAUSE p s) s
  have hset := powerActed_setPwr p s 1 (get GL.PWR_CAUSE p s)
  have hctl := (setPwr_units p s 1 (get GL.PWR_CAUSE p s)).2.2
  have hlines : (lcGet p s).reconciled = false → (setPwr p 1 (get GL.PWR_CAUSE p s) s).lines = s.lines := by
    intro hrec
    unfold setPwr
    rw [if_neg (by simp [hrec])]
    rfl
  unfold askSwitchOn
  generalize setPwr p 1 (get GL.PWR_CAUSE p s) s = a at hstate hline hset hctl hlines ⊢
  refine ⟨hset.trans ⟨by simp, by simp, by rw [lcGet_congr (requestLeave_fields ..).2.2.1], fun g j _ => get_requestLeave ..⟩,
    (get_requestLeave ..).trans hstate, isWaiting_requestLeave .., ?_, fun hrec => ?_, fun hrec => ?_⟩
  · rw [lcGet_congr (requestLeave_fields ..).2.2.1, lcGet_congr hctl]
  · rw [lnGet_congr (requestLeave_fields ..).2.1, hline, if_pos hrec]
  · exact (requestLeave_fields ..).2.1.trans (hlines hrec)

/-- Who may ask for leave by a write of PWR_EN 1: a reconciled line, or any in service (R223, R834). -/
theorem pwrEnSet_asks (hheld : (gGet (p / 8) s).heldOut = false)
    (hhost : (lcGet p s).reconciled = true ∨ s.sys.phase = .ready) : pwrEnSet p s =
    askSwitchOn p (lcMap p (fun c => { c with retries := 0, retryAt := none }) s) := by
  unfold pwrEnSet
  dsimp only
  rw [lcGet_lcMap_same]
  refine if_neg ?_
  have hguard : gGet (p / 8) (lcMap p (fun c => { c with retries := 0, retryAt := none }) s) = gGet (p / 8) s := rfl
  rw [hguard]
  rcases hhost with hhost | hhost <;> simp [hheld, hhost]

theorem pwrEnSet_waits (h : (lcGet p s).reconciled = false)
    (hhost : s.sys.phase ≠ .ready ∧ s.sys.phase ≠ .paused ∨ (gGet (p / 8) s).heldOut = true) : pwrEnSet p s =
    lcMap p (fun c => { c with retries := 0, retryAt := none }) s := by
  unfold pwrEnSet
  dsimp only
  rw [lcGet_lcMap_same]
  refine if_pos ?_
  have hguard : gGet (p / 8) (lcMap p (fun c => { c with retries := 0, retryAt := none }) s) = gGet (p / 8) s := rfl
  rw [hguard]
  rcases hhost with ⟨hready, hpaused⟩ | hheld
  · simp [h, hready, hpaused]
  · simp [hheld]

/-- The line without retries, before what PWR_EN 0 does to it. -/
def retriesEnded : State := lcMap p (fun c => { c with retries := 0, retryAt := none, cycleOn := false }) s

theorem powerActed_lcMap {f : LineCtl → LineCtl} (h : ∀ c, (f c).needTrim = c.needTrim) : PowerActed p s (lcMap p f s) :=
  ⟨rfl, rfl, by rw [lcGet_lcMap_same, h], fun _ _ _ => rfl⟩

theorem retriesEnded_spec : PowerActed p s (retriesEnded p s) ∧ lnGet p (retriesEnded p s) = lnGet p s ∧
    lcGet p (retriesEnded p s) = { lcGet p s with retries := 0, retryAt := none, cycleOn := false } :=
  ⟨powerActed_lcMap p s fun _ => rfl, rfl, lcGet_lcMap_same ..⟩

theorem powerActed_pwrEnClear : PowerActed p s (pwrEnClear p s) := by
  have hended := (retriesEnded_spec p s).1
  have hoff (c : Nat) : PowerActed p s (setPwr p 0 c (switchWithdrawn p (retriesEnded p s))) :=
    (hended.trans (powerActed_switchWithdrawn ..)).trans (powerActed_setPwr ..)
  unfold pwrEnClear
  dsimp only
  split
  · split
    · exact hoff _
    · exact hended
  · split
    · exact hoff _
    · exact hended.trans (powerActed_setPwr ..)
    · exact hended.trans (powerActed_setPwr ..)
    · exact hended.trans (powerActed_lcMap _ _ fun _ => rfl)
    · exact hended.trans (powerActed_lcMap _ _ fun _ => rfl)
    · exact hended

/-- What PWR_EN 0 does to a reconciled line, by its power state (R228, R260). -/
theorem pwrEnClear_reconciled (hrec : (lcGet p s).reconciled = true) :
    ((lnGet p s).pwr = 1 → pwrEnClear p s = setPwr p 0 (lnGet p s).cause (switchWithdrawn p (retriesEnded p s))) ∧
    ((lnGet p s).pwr = 4 ∨ (lnGet p s).pwr = 5 → pwrEnClear p s = setPwr p 0 (lnGet p s).cause (retriesEnded p s)) ∧
    ((lnGet p s).pwr = 3 → pwrEnClear p s = lcMap p (fun c => { c with offWanted := true }) (retriesEnded p s)) := by
  unfold pwrEnClear
  dsimp only
  rw [lcGet_lcMap_same, lnGet_lcMap, if_neg (by simp [hrec])]
  split
  · exact ⟨fun _ => rfl, fun h => by omega, fun h => by omega⟩
  · exact ⟨fun h => by omega, fun _ => rfl, fun h => by omega⟩
  · exact ⟨fun h => by omega, fun _ => rfl, fun h => by omega⟩
  · exact ⟨fun h => by omega, fun h => by omega, fun h => by omega⟩
  · exact ⟨fun h => by omega, fun h => by omega, fun _ => rfl⟩
  · next h1 h4 h5 _ h3 => exact ⟨fun h => absurd h h1, fun h => absurd h (not_or.mpr ⟨h4, h5⟩), fun h => absurd h h3⟩

/-- PWR_EN 0 ends the wait of a reconciled line: it is OFF, and its request and its grant are given back. -/
theorem pwrEnClear_waiting (hrec : (lcGet p s).reconciled = true) (hpwr : (lnGet p s).pwr = 1) :
    (lnGet p (pwrEnClear p s)).pwr = 0 ∧ isWaiting (.switchOn p) (pwrEnClear p s) = false ∧
    isGranted (.switchOn p) (pwrEnClear p s) = false := by
  obtain ⟨-, hline, hctl⟩ := retriesEnded_spec p s
  have hrec' : (lcGet p (retriesEnded p s)).reconciled = true := by rw [hctl]; exact hrec
  obtain ⟨-, -, hoff, -⟩ := setPwr_spec p 0 (lnGet p s).cause (switchWithdrawn p (retriesEnded p s))
  rw [(pwrEnClear_reconciled p s hrec).1 hpwr, hoff, if_pos (by rw [(switchWithdrawn_line ..).2]; exact hrec'),
    isWaiting_congr (setPwr_leave ..), isGranted_congr (setPwr_leave ..)]
  exact ⟨rfl, switchWithdrawn_leave p _⟩

/-- PWR_EN 0 turns RETRY_WAIT and LATCHED of a reconciled line into OFF. -/
theorem pwrEnClear_faulted (hrec : (lcGet p s).reconciled = true) (hpwr : (lnGet p s).pwr = 4 ∨ (lnGet p s).pwr = 5) :
    (lnGet p (pwrEnClear p s)).pwr = 0 ∧ get GL.PWR_STATE p (pwrEnClear p s) = 0 ∧ (lcGet p (pwrEnClear p s)).retryAt = none := by
  obtain ⟨-, hline, hctl⟩ := retriesEnded_spec p s
  have hrec' : (lcGet p (retriesEnded p s)).reconciled = true := by rw [hctl]; exact hrec
  obtain ⟨hstate, -, hpower, -⟩ := setPwr_spec p 0 (lnGet p s).cause (retriesEnded p s)
  rw [(pwrEnClear_reconciled p s hrec).2.1 hpwr, hpower, if_pos hrec', hstate, lcGet_congr (setPwr_units ..).2.2, hctl]
  exact ⟨rfl, rfl, rfl⟩

/-- PWR_EN 0 asks for the switch-off of a line that is on. -/
theorem pwrEnClear_on (hrec : (lcGet p s).reconciled = true) (hpwr : (lnGet p s).pwr = 3) :
    (lnGet p (pwrEnClear p s)).pwr = 3 ∧ (lcGet p (pwrEnClear p s)).offWanted = true := by
  obtain ⟨-, hline, -⟩ := retriesEnded_spec p s
  rw [(pwrEnClear_reconciled p s hrec).2.2 hpwr, lnGet_lcMap, hline, lcGet_lcMap_same]
  exact ⟨hpwr, rfl⟩

end

/-! #### What a write of one field starts -/

/-- The word that a write of LINE_CTRL leaves is owed to the guard of a reconciled line (R207). -/
def ctrlForwarded (p : Nat) (s : State) : State := if (lcGet p s).reconciled then forwardConfig p 0 s else s

/-- What is owed to the guard changes nothing else. -/
theorem ctrlForwarded_spec (p : Nat) (s : State) :
    (∃ l, lcGet p (ctrlForwarded p s) = { lcGet p s with forward := l }) ∧
    ctrlForwarded p s = { s with lineCtl := (ctrlForwarded p s).lineCtl } := by
  unfold ctrlForwarded forwardConfig
  split
  · exact ⟨⟨_, lcGet_lcMap_same ..⟩, rfl⟩
  · exact ⟨⟨(lcGet p s).forward, rfl⟩, rfl⟩

/-- A field that stands neither rises nor falls. -/
theorem stands_of_same {f : Fld} {i : Nat} {s w : State} (h : get f i w = get f i s) : rises f i s w = false ∧ falls f i s w = false := by
  unfold rises falls flag
  rw [h]
  cases get f i s == 1 <;> exact ⟨rfl, rfl⟩

/-- A taken write of PWR_EN: what it leaves of the line (R223, R228). -/
theorem setFields_pwrEn {p v : Nat} {s : State} (h : taken p GL.PWR_EN [(GL.PWR_EN, v)] s) : ∃ x mp cfg l,
    mp.answer = 0 ∧ x.lines = s.lines ∧ x.leave = s.leave ∧ x.guards = s.guards ∧ x.sys = s.sys ∧
    lcGet p x = { lcGet p s with forward := l } ∧ get GL.PWR_EN p x = v % 2 ∧
    setFields p [(GL.PWR_EN, v)] s = { (if get GL.PWR_EN p s ≠ 1 ∧ v % 2 = 1 then pwrEnSet p x
      else if v % 2 ≠ 1 then pwrEnClear p x else x) with mp := mp, cfg := cfg } := by
  obtain ⟨w, mp, cfg, hw, hanswer, ht⟩ := setFields_lineCtrl (trim := false) (by decide) h fun M w => asksTrim_of_other (by decide)
  obtain ⟨⟨l, hctl⟩, hunits⟩ := ctrlForwarded_spec p w
  have hpower : get GL.PWR_EN p w = v % 2 := hw.given rfl
  have hacts : lineCtrlActs p false s w = if get GL.PWR_EN p s ≠ 1 ∧ v % 2 = 1 then pwrEnSet p (ctrlForwarded p w)
      else if v % 2 ≠ 1 then pwrEnClear p (ctrlForwarded p w) else ctrlForwarded p w := by
    have hen := (stands_of_same (hw.rest GL.EN (by decide) (by decide))).1
    have hleak := (stands_of_same (hw.rest GL.LEAK_EN (by decide) (by decide))).2
    unfold lineCtrlActs
    simp only [hen, hleak, Bool.and_false, Bool.false_eq_true, if_false]
    refine ite_congr ?_ (fun _ => rfl) fun _ => ite_congr ?_ (fun _ => rfl) fun _ => rfl
    · simp [rises, flag, hpower]
    · simp [flag, hpower]
  have hsame := hw.units
  refine ⟨ctrlForwarded p w, mp, cfg, l, hanswer, ?_, ?_, ?_, ?_, ?_, ?_, ht.trans (by rw [hacts])⟩
  · rw [hunits, hsame]
  · rw [hunits, hsame]
  · rw [hunits, hsame]
  · rw [hunits, hsame]
  · rw [hctl, lcGet_congr (s := s) (by rw [hsame])]
  · rw [get_congr (s := w) GL.PWR_EN p (by rw [hunits]) (by rw [hunits]) (by rw [hunits]), hpower]

/-! #### PWR_SWITCH (R224, R229) -/

/-- An entry of a table that has been stored to is the new one or stood there before. -/
theorem mem_store {α : Type} [DecidableEq α] {d v : α} {k : Nat} {t : Tbl α} {e : Nat × α} (h : e ∈ store d k v t) : e = (k, v) ∨ e ∈ t := by
  unfold store at h
  split at h
  · rw [erase_eq_filter] at h
    exact .inr (List.mem_of_mem_filter h)
  · exact mem_insert_sub k v t e h

/-- What a table holds at a key is the default or listed. -/
theorem lookup_mem {α : Type} (d : α) (k : Nat) (t : Tbl α) : lookup d k t = d ∨ (k, lookup d k t) ∈ t := by
  induction t with
  | nil => exact .inl rfl
  | cons x t ih =>
    obtain ⟨j, v⟩ := x
    unfold lookup at ih ⊢
    simp only [find]
    split
    · next hj => exact .inr (by simp [hj])
    · exact ih.imp_right (List.mem_cons_of_mem _)

/-- A change of a guard that keeps its fetch and its link owes no fetch. -/
theorem fetchOwed_gMap {k : Nat} {f : Guard → Guard} {s : State} (hf : ∀ g, (f g).fetch = g.fetch ∧ (f g).talks = g.talks)
    (h : fetchOwed s = false) : fetchOwed (gMap k f s) = false := by
  unfold fetchOwed at h ⊢
  rw [List.any_eq_false] at h ⊢
  intro e he
  rcases mem_store he with rfl | he
  · obtain ⟨hfetch, htalks⟩ := hf (gGet k s)
    simp only [hfetch, htalks]
    rcases lookup_mem Guard.empty k s.guards with hempty | hlisted
    · rw [gGet, hempty]
      decide
    · exact h _ hlisted
  · exact h e he

theorem linkFree_gMap {k : Nat} {f : Guard → Guard} {s : State} (hf : ∀ g, (f g).fetch = g.fetch ∧ (f g).talks = g.talks)
    (h : linkFree k s = true) : linkFree k (gMap k f s) = true := by
  simp only [linkFree, linkUsable, Bool.and_eq_true, Bool.not_eq_true'] at h ⊢
  obtain ⟨⟨hpresent, htalks⟩, howed⟩ := h
  exact ⟨⟨hpresent, by rw [gGet_gMap_same, (hf _).2, htalks]⟩, fetchOwed_gMap hf howed⟩

/-- The guard's supply stands at `v` mV when its switch is told. -/
def supplyMeasured (p v : Nat) (s : State) : State := when_ (guardOk s (p / 8)) (gMap (p / 8) fun g => { g with vfield := v }) s

theorem supplyMeasured_guards (p v : Nat) (s : State) : supplyMeasured p v s = { s with guards := (supplyMeasured p v s).guards } ∧
    ∃ vfield, gGet (p / 8) (supplyMeasured p v s) = { gGet (p / 8) s with vfield := vfield } := by
  unfold supplyMeasured when_
  split
  · exact ⟨rfl, v, gGet_gMap_same ..⟩
  · exact ⟨rfl, (gGet (p / 8) s).vfield, rfl⟩

/-- The request of a PWR_SWITCH. -/
def switchRequest (p : Nat) (on : Bool) : List Byte := glRequest 0x15 (p % 8) 0 1 [byte (b2n on), 0x00#8, 0x00#8, 0x00#8]

section

variable {p v : Nat} {o : GlOutcome} {s : State}

/-- A guard that activates a GF leaves its switches alone (R266). -/
theorem pwrSwitch_activating (on : Bool) (o : GlOutcome) (h : (gGet (p / 8) s).act ≠ none ∨ (gGet (p / 8) s).run = 5) :
    pwrSwitch p on o s = s := if_pos (by rcases h with h | h <;> simp [h, Option.isSome_iff_ne_none])

/-- No switch closes for a line that does not wait for it with its leave. -/
theorem pwrSwitch_notWaiting (o : GlOutcome)
    (h : (lnGet p s).pwr ≠ 1 ∨ (lcGet p s).reconciled = false ∨ mayStart (.switchOn p) s = false) : pwrSwitch p true o s = s := by
  unfold pwrSwitch
  dsimp only
  split
  · rfl
  · rw [if_pos rfl, if_pos (by rcases h with h | h | h <;> simp [h])]

/-- The switch that is told to close, answered. -/
theorem pwrSwitch_closes (hfree : linkFree (p / 8) s = true) (hact : (gGet (p / 8) s).act = none) (hrun : (gGet (p / 8) s).run ≠ 5)
    (hrec : (lcGet p s).reconciled = true) (hpwr : (lnGet p s).pwr = 1) (hmay : mayStart (.switchOn p) s = true) (hok : o.isOk = true) :
    pwrSwitch p true o s = if (lnGet p (switchCloses p s)).pwr = 2
      then put GL.PWR_STATE p 2 (transact (p / 8) (switchRequest p true) [] o (switchCloses p s))
      else transact (p / 8) (switchRequest p true) [] o (switchCloses p s) := by
  unfold pwrSwitch
  dsimp only
  rw [if_neg (by simp [hfree, hact, hrun]), if_pos rfl, if_neg (by simp [hpwr, hrec, hmay]), if_pos (glActed_of_isOk hok)]
  refine ite_congr ?_ (fun _ => rfl) fun _ => rfl
  rw [lnGet_congr (transact_fields ..).1]
  simp [hok]

/-- With its supply up, the line is in inrush for 5 ms (R224). -/
theorem switchCloses_inrush (hsupply : cfgField p 0 5 1 s = 0 ∨ 14000 ≤ (gGet (p / 8) s).vfield) :
    switchCloses p s = lnMap p (fun x => { x with pwr := 2, inrushEnd := some (s.now + cyclesMs 5) }) s := if_neg (by omega)

/-- Below 14 V a 12 V line stays open with SUPPLY_LOW (R229). -/
theorem switchCloses_low (hvolts : cfgField p 0 5 1 s = 1) (hlow : (gGet (p / 8) s).vfield < 14000) :
    switchCloses p s = dropSlice p 4 (lnFault p 5 (gMap (p / 8) (fun g => { g with alertG := g.alertG ||| 1 }) s)) := if_pos ⟨hvolts, hlow⟩

theorem switchCloses_low_spec (hvolts : cfgField p 0 5 1 s = 1) (hlow : (gGet (p / 8) s).vfield < 14000) :
    (lnGet p (switchCloses p s)).pwr = 5 ∧ (lnGet p (switchCloses p s)).cause = 5 ∧ (lnGet p (switchCloses p s)).inrushEnd = none ∧
    bitOf (gGet (p / 8) (switchCloses p s)).alertG 0 = true ∧ (gGet (p / 8) (switchCloses p s)).alertL.contains (p % 8) = true := by
  obtain ⟨⟨since, cnt, inc, hline⟩, -, hguard⟩ := lnFault_spec p (gMap (p / 8) (fun g => { g with alertG := g.alertG ||| 1 }) s) 5
  have hlifted : gGet (p / 8) (gMap (p / 8) (fun g => { g with alertG := g.alertG ||| 1 }) s) =
      { gGet (p / 8) s with alertG := (gGet (p / 8) s).alertG ||| 1 } := gGet_gMap_same ..
  rw [switchCloses_low hvolts hlow]
  generalize lnFault p 5 (gMap (p / 8) (fun g => { g with alertG := g.alertG ||| 1 }) s) = a at hline hguard ⊢
  obtain ⟨cnt', inc', hdrop⟩ := lnGet_dropSlice p a 4
  rw [hdrop, hline, gGet_congr (dropSlice_units p a 4).2, hguard, hlifted]
  exact ⟨rfl, rfl, rfl, bitOf_or _ 0, by simp⟩

theorem isGranted_of_mayStart {k : LeaveKind} (h : mayStart k s = true) : isGranted k s = true := by
  obtain ⟨g, hg, hmay⟩ := List.any_eq_true.mp h
  rw [Bool.and_eq_true] at hmay
  exact List.any_eq_true.mpr ⟨g, hg, hmay.1⟩

/-- A switch that is told to open, answered, is open and not to be switched off any more (R228). -/
theorem pwrSwitch_opens (hfree : linkFree (p / 8) s = true) (hact : (gGet (p / 8) s).act = none) (hrun : (gGet (p / 8) s).run ≠ 5)
    (hoff : (lcGet p s).offWanted = true) (hpwr : (lnGet p s).pwr = 3) (hok : o.isOk = true) :
    (lnGet p (pwrSwitch p false o s)).pwr = 0 ∧ (lcGet p (pwrSwitch p false o s)).offWanted = false := by
  have hopens : pwrSwitch p false o s = transact (p / 8) (switchRequest p false) [] o
      (lcMap p (fun c => { c with offWanted := false }) (switchOpens p s)) := by
    unfold pwrSwitch
    dsimp only
    rw [if_neg (by simp [hfree, hact, hrun]), if_neg (by decide), if_neg (by simp [hoff]), if_pos (glActed_of_isOk hok), if_pos hok]
    rfl
  rw [hopens, lnGet_congr (transact_fields ..).1, lcGet_congr (transact_fields ..).2, lnGet_lcMap, lcGet_lcMap_same, switchOpens,
    lnGet_lnMap_same]
  exact ⟨if_pos (.inr hpwr), rfl⟩

/-! #### Inrush, faults and retries (R225, R231, R232) -/

theorem inrushTimerExpiry_none (reached : Bool) (h : (lnGet p s).inrushEnd = none) : inrushTimerExpiry p reached s = s := by
  unfold inrushTimerExpiry
  rw [h]

theorem inrushTimerExpiry_some {x : Nat} (reached : Bool) (h : (lnGet p s).inrushEnd = some x) : inrushTimerExpiry p reached s =
    if reached then alertLine p (lnMap p (fun x => { x with pwr := 3, inrushEnd := none }) (runTo x s)) else lnFault p 3 (runTo x s) := by
  unfold inrushTimerExpiry
  rw [h]

/-- A fault of a line that is on: OC and SHORT give its slice up (R231, R248). -/
theorem pwrFault_line {c : Nat} (hc : c = 1 ∨ c = 2) (hport : portOk s p = true) (hrun : (gGet (p / 8) s).run ≠ 0) (hpwr : (lnGet p s).pwr = 3) :
    pwrFault p c s = dropSlice p 4 (lnFault p c s) := by
  unfold pwrFault
  rw [if_neg (by simp [hport, hrun])]
  rcases hc with rfl | rfl <;> exact if_pos hpwr

theorem pwrFault_line_spec {c : Nat} (hc : c = 1 ∨ c = 2) (hport : portOk s p = true) (hrun : (gGet (p / 8) s).run ≠ 0)
    (hpwr : (lnGet p s).pwr = 3) : (lnGet p (pwrFault p c s)).pwr = (if c = 1 then 4 else 5) ∧ (lnGet p (pwrFault p c s)).cause = c ∧
    (lnGet p (pwrFault p c s)).faultAt = s.now ∧ bitOf (lnGet p (pwrFault p c s)).events (c - 1) = true := by
  obtain ⟨⟨since, cnt, inc, hline⟩, -, -⟩ := lnFault_spec p s c
  rw [if_neg (show c ≠ 8 by omega)] at hline
  rw [pwrFault_line hc hport hrun hpwr]
  generalize lnFault p c s = a at hline ⊢
  obtain ⟨cnt', inc', hdrop⟩ := lnGet_dropSlice p a 4
  rw [hdrop, hline]
  exact ⟨rfl, rfl, rfl, bitOf_or ..⟩

/-- Neither OC nor SHORT acts in inrush (R231). -/
theorem pwrFault_inrush {c : Nat} (hc : c = 1 ∨ c = 2) (hpwr : (lnGet p s).pwr = 2) : pwrFault p c s = s := by
  unfold pwrFault
  split
  · rfl
  · rcases hc with rfl | rfl <;> exact if_neg (by omega)

/-- A supply fault opens every switch of the guard, and raises SUPPLY (R230). -/
theorem pwrFault_supply {c : Nat} (hc : c = 5 ∨ c = 6) (hport : portOk s p = true) (hrun : (gGet (p / 8) s).run ≠ 0) :
    pwrFault p c s = gMap (p / 8) (fun g => { g with alertG := g.alertG ||| 1 }) (allOpen (p / 8) c s) := by
  unfold pwrFault
  rw [if_neg (by simp [hport, hrun])]
  rcases hc with rfl | rfl <;> rfl

theorem retryWaitExpiry_none (h : (lcGet p s).retryAt = none) : retryWaitExpiry p s = s := by
  unfold retryWaitExpiry
  rw [h]

/-- A line that retries waits for leave again (R232). -/
theorem retryWaitExpiry_some {x : Nat} (h : (lcGet p s).retryAt = some x) (hpwr : (lnGet p s).pwr = 4) (hrec : (lcGet p s).reconciled = true) :
    (retryWaitExpiry p s).now = max s.now x ∧ (lnGet p (retryWaitExpiry p s)).pwr = 1 ∧ get GL.PWR_STATE p (retryWaitExpiry p s) = 1 ∧
    (lcGet p (retryWaitExpiry p s)).retryAt = none ∧ (lcGet p (retryWaitExpiry p s)).retries = (lcGet p s).retries + 1 ∧
    isWaiting (.switchOn p) (retryWaitExpiry p s) = true := by
  have hasks : retryWaitExpiry p s = askSwitchOn p (lnCount p 6 (lcMap p (fun c => { c with retryAt := none, retries := c.retries + 1 }) (runTo x s))) := by
    unfold retryWaitExpiry
    rw [h]
    exact if_neg (by simp [hpwr])
  obtain ⟨-, ⟨l, hctl⟩, hnow, -⟩ := lnCount_spec p 6 (lcMap p (fun c => { c with retryAt := none, retries := c.retries + 1 }) (runTo x s))
  rw [lcGet_lcMap_same, lcGet_runTo] at hctl
  rw [hasks]
  generalize lnCount p 6 (lcMap p (fun c => { c with retryAt := none, retries := c.retries + 1 }) (runTo x s)) = a at hctl hnow ⊢
  obtain ⟨hacted, hstate, hwaits, hctl', hpower, -⟩ := askSwitchOn_spec p a
  rw [hctl', hctl]
  exact ⟨hacted.now.trans (hnow.trans (runTo_now ..)), hpower (by rw [hctl]; exact hrec), hstate, rfl, rfl, hwaits⟩

end

/-! #### Writes of PWR_EN, whole -/

section

variable {p : Nat} {s : State}

/-- PWR_EN is none of the fields that the power commands write. -/
theorem PowerActed.enable {x t : State} (h : PowerActed p x t) : get GL.PWR_EN p t = get GL.PWR_EN p x := by
  refine h.kept _ _ ?_
  simp only [List.mem_cons, List.not_mem_nil, or_false, not_or]
  exact ⟨port_key_ne p, port_key_ne p, (direct_ne_indexed (f := RG.FIELD_CHANGE) (f' := GL.PWR_EN)).symm⟩

/-- PWR_EN 1 of a line that may ask for leave: it waits (R223). -/
theorem setFields_pwrEn_asks (h : taken p GL.PWR_EN [(GL.PWR_EN, 1)] s) (hoff : get GL.PWR_EN p s = 0) (hheld : (gGet (p / 8) s).heldOut = false)
    (hhost : (lcGet p s).reconciled = true ∨ s.sys.phase = .ready) : ∃ t, setFields p [(GL.PWR_EN, 1)] s = t ∧ t.mp.answer = 0 ∧
    get GL.PWR_EN p t = 1 ∧ get GL.PWR_STATE p t = 1 ∧ isWaiting (.switchOn p) t = true ∧ (lcGet p t).retries = 0 ∧
    ((lcGet p s).reconciled = true → (lnGet p t).pwr = 1) ∧ ((lcGet p s).reconciled = false → t.lines = s.lines) := by
  obtain ⟨x, mp, cfg, l, hanswer, hlines, -, hguards, hsys, hctl, hen, ht⟩ := setFields_pwrEn h
  have hrec : (lcGet p x).reconciled = (lcGet p s).reconciled := by rw [hctl]
  rw [if_pos ⟨by omega, rfl⟩, pwrEnSet_asks p x (by rw [gGet_congr hguards, hheld]) (by rw [hrec, hsys]; exact hhost)] at ht
  have hreset := powerActed_lcMap p x (f := fun c => { c with retries := 0, retryAt := none }) fun _ => rfl
  have hctl' := lcGet_lcMap_same p (fun c => { c with retries := 0, retryAt := none }) x
  have hlines' : (lcMap p (fun c => { c with retries := 0, retryAt := none }) x).lines = s.lines := hlines
  generalize lcMap p (fun c => { c with retries := 0, retryAt := none }) x = y at ht hreset hctl' hlines'
  obtain ⟨hacted, hstate, hwaits, hkept, hpower, hstays⟩ := askSwitchOn_spec p y
  have hrec' : (lcGet p y).reconciled = (lcGet p s).reconciled := (congrArg LineCtl.reconciled hctl').trans hrec
  refine ⟨_, ht, hanswer, (hreset.trans hacted).enable.trans hen, hstate, hwaits, ?_, fun hr => hpower (hrec'.trans hr),
    fun hr => (hstays (hrec'.trans hr)).trans hlines'⟩
  exact congrArg LineCtl.retries (hkept.trans hctl')

/-- PWR_EN 1 of a line that is not reconciled, out of service, held out or enabled before: nothing is asked for. -/
theorem setFields_pwrEn_waits (h : taken p GL.PWR_EN [(GL.PWR_EN, 1)] s) (hrec : (lcGet p s).reconciled = false)
    (hhost : s.sys.phase ≠ .ready ∧ s.sys.phase ≠ .paused ∨ (gGet (p / 8) s).heldOut = true ∨ get GL.PWR_EN p s = 1) :
    ∃ t, setFields p [(GL.PWR_EN, 1)] s = t ∧ t.mp.answer = 0 ∧ get GL.PWR_EN p t = 1 ∧ t.lines = s.lines ∧ t.leave = s.leave := by
  obtain ⟨x, mp, cfg, l, hanswer, hlines, hleave, hguards, hsys, hctl, hen, ht⟩ := setFields_pwrEn h
  by_cases hon : get GL.PWR_EN p s = 1
  · rw [if_neg (by simp [hon]), if_neg (by decide)] at ht
    exact ⟨_, ht, hanswer, hen, hlines, hleave⟩
  · have hhost' : x.sys.phase ≠ .ready ∧ x.sys.phase ≠ .paused ∨ (gGet (p / 8) x).heldOut = true := by
      rw [hsys, gGet_congr hguards]
      rcases hhost with hphase | hheld | hon'
      · exact .inl hphase
      · exact .inr hheld
      · exact absurd hon' hon
    rw [if_pos ⟨hon, rfl⟩, pwrEnSet_waits p x (by rw [hctl]; exact hrec) hhost'] at ht
    exact ⟨_, ht, hanswer, hen, hlines, hleave⟩

/-- PWR_EN 0 of a reconciled line does what its power state asks for (R228). -/
theorem setFields_pwrEn_clear (h : taken p GL.PWR_EN [(GL.PWR_EN, 0)] s) (hrec : (lcGet p s).reconciled = true) :
    ∃ x mp cfg, setFields p [(GL.PWR_EN, 0)] s = { pwrEnClear p x with mp := mp, cfg := cfg } ∧ mp.answer = 0 ∧
    get GL.PWR_EN p (pwrEnClear p x) = 0 ∧ (lcGet p x).reconciled = true ∧ lnGet p x = lnGet p s := by
  obtain ⟨x, mp, cfg, l, hanswer, hlines, -, -, -, hctl, hen, ht⟩ := setFields_pwrEn h
  rw [if_neg (by simp), if_pos (by decide)] at ht
  exact ⟨x, mp, cfg, ht, hanswer, (powerActed_pwrEnClear p x).enable.trans hen, by rw [hctl]; exact hrec, lnGet_congr hlines p⟩

/-- A field of LINE_CTRL stands while time passes. -/
theorem get_elapse_taken {f g : Fld} {v : Nat} {dt : Nat} (hf : f ∈ lineCtrlFields) (hg : g ∈ fldsGL) (h : taken p f [(f, v)] (elapse dt s)) :
    get g p (elapse dt s) = get g p s := by
  obtain ⟨hspace, hstride, hword, hlo⟩ := fldsGL_place g hg
  exact get_elapse (line_not_timeKeys hspace hstride hword hlo (lt_of_taken hf h)) dt s

end

/-! #### PWR_SWITCH, from the measured supply -/

section

variable {p v : Nat} {s : State}

/-- The supply that is measured is the guard's alone: line, leave and control stand. -/
theorem supplyMeasured_units (p v : Nat) (s : State) : (supplyMeasured p v s).lines = s.lines ∧ (supplyMeasured p v s).lineCtl = s.lineCtl ∧
    (supplyMeasured p v s).leave = s.leave ∧ (supplyMeasured p v s).now = s.now ∧ (gGet (p / 8) (supplyMeasured p v s)).act = (gGet (p / 8) s).act ∧
    (gGet (p / 8) (supplyMeasured p v s)).run = (gGet (p / 8) s).run := by
  obtain ⟨hsame, x, hguard⟩ := supplyMeasured_guards p v s
  rw [hguard]
  refine ⟨?_, ?_, ?_, ?_, rfl, rfl⟩ <;> rw [hsame]

theorem exec_pwrSwitch (dt p v : Nat) (on : Bool) (o : GlOutcome) (s : State) :
    exec (.pwrSwitch dt p on v o) s = .next (pwrSwitch p on o (supplyMeasured p v (elapse dt s))) := rfl

/-- A guard that can be reached is present: the supply that it measures is kept. -/
theorem supplyMeasured_free (hfree : linkFree (p / 8) s = true) :
    linkFree (p / 8) (supplyMeasured p v s) = true ∧ (gGet (p / 8) (supplyMeasured p v s)).vfield = v := by
  have hpresent : guardOk s (p / 8) = true := by
    have husable := usable_of_linkFree hfree
    rw [linkUsable, Bool.and_eq_true] at husable
    exact husable.1
  rw [supplyMeasured, when_, if_pos hpresent]
  exact ⟨linkFree_gMap (fun _ => ⟨rfl, rfl⟩) hfree, by rw [gGet_gMap_same]⟩

theorem cfgField_congr {s t : State} (h : t.lines = s.lines) (p o lo w : Nat) : cfgField p o lo w t = cfgField p o lo w s := by
  unfold cfgField cfgWord
  rw [lnGet_congr h]

theorem mayStart_congr {s t : State} (hleave : t.leave = s.leave) (hnow : t.now = s.now) (k : LeaveKind) : mayStart k t = mayStart k s := by
  unfold mayStart grants
  rw [hleave, hnow]

/-- A switch that is told to close with its supply up: 5 ms of inrush, and the grant stands (R224). -/
theorem pwrSwitch_inrush {o : GlOutcome} (hfree : linkFree (p / 8) s = true) (hact : (gGet (p / 8) s).act = none) (hrun : (gGet (p / 8) s).run ≠ 5)
    (hrec : (lcGet p s).reconciled = true) (hpwr : (lnGet p s).pwr = 1) (hmay : mayStart (.switchOn p) s = true)
    (hsupply : cfgField p 0 5 1 s = 0 ∨ 14000 ≤ (gGet (p / 8) s).vfield) (hok : o.isOk = true) :
    (lnGet p (pwrSwitch p true o s)).pwr = 2 ∧ (lnGet p (pwrSwitch p true o s)).inrushEnd = some (s.now + cyclesMs 5) ∧
    get GL.PWR_STATE p (pwrSwitch p true o s) = 2 ∧ isGranted (.switchOn p) (pwrSwitch p true o s) = true := by
  have hcloses := switchCloses_inrush hsupply
  have hline : lnGet p (switchCloses p s) = { lnGet p s with pwr := 2, inrushEnd := some (s.now + cyclesMs 5) } := by
    rw [hcloses, lnGet_lnMap_same]
  have hleave : (switchCloses p s).leave = s.leave := by rw [hcloses]; rfl
  rw [pwrSwitch_closes hfree hact hrun hrec hpwr hmay hok, if_pos (by rw [hline])]
  generalize switchCloses p s = a at hline hleave ⊢
  have hkeeps := linkKeeps_transact (p / 8) (switchRequest p true) [] o a
  have hlines := (transact_fields (p / 8) (switchRequest p true) [] o a).1
  generalize transact (p / 8) (switchRequest p true) [] o a = b at hkeeps hlines ⊢
  have hput : (put GL.PWR_STATE p 2 b).lines = b.lines := by simp
  have hputLeave : (put GL.PWR_STATE p 2 b).leave = b.leave := by simp
  refine ⟨?_, ?_, get_put_same .., ?_⟩
  · rw [lnGet_congr (hput.trans hlines), hline]
  · rw [lnGet_congr (hput.trans hlines), hline]
  · rw [isGranted_congr (hputLeave.trans (hkeeps.leave.trans hleave))]
    exact isGranted_of_mayStart hmay

/-- A 12 V switch that is told to close below 14 V stays open with SUPPLY_LOW and an alert (R229). -/
theorem pwrSwitch_low {o : GlOutcome} (hfree : linkFree (p / 8) s = true) (hact : (gGet (p / 8) s).act = none) (hrun : (gGet (p / 8) s).run ≠ 5)
    (hrec : (lcGet p s).reconciled = true) (hpwr : (lnGet p s).pwr = 1) (hmay : mayStart (.switchOn p) s = true)
    (hvolts : cfgField p 0 5 1 s = 1) (hlow : (gGet (p / 8) s).vfield < 14000) (hok : o.isOk = true) :
    (lnGet p (pwrSwitch p true o s)).pwr = 5 ∧ (lnGet p (pwrSwitch p true o s)).cause = 5 ∧ (lnGet p (pwrSwitch p true o s)).inrushEnd = none ∧
    bitOf (gGet (p / 8) (pwrSwitch p true o s)).alertG 0 = true ∧ (gGet (p / 8) (pwrSwitch p true o s)).alertL.contains (p % 8) = true := by
  obtain ⟨hpower, hcause, hend, hsupply, halert⟩ := switchCloses_low_spec hvolts hlow
  rw [pwrSwitch_closes hfree hact hrun hrec hpwr hmay hok, if_neg (by omega)]
  generalize switchCloses p s = a at hpower hcause hend hsupply halert ⊢
  obtain ⟨link, fails, faulted, hguard⟩ := (linkKeeps_transact (p / 8) (switchRequest p true) [] o a).guard
  rw [lnGet_congr (transact_fields ..).1, hguard]
  exact ⟨hpower, hcause, hend, hsupply, halert⟩

/-- A supply fault of a guard: every powered line of it opens, and SUPPLY is pending (R230). -/
theorem pwrFault_supply_spec {q c : Nat} (hc : c = 5 ∨ c = 6) (hport : portOk s p = true) (hrun : (gGet (p / 8) s).run ≠ 0) (hq : q / 8 = p / 8)
    (hpowered : powered q s = true) : (lnGet q (pwrFault p c s)).pwr = 5 ∧ (lnGet q (pwrFault p c s)).cause = c ∧
    bitOf (gGet (p / 8) (pwrFault p c s)).alertG 0 = true := by
  obtain ⟨hpower, hcause⟩ := allOpen_powered (cause := c) (by omega) hpowered
  rw [hq] at hpower hcause
  rw [pwrFault_supply hc hport hrun, gGet_gMap_same]
  generalize allOpen (p / 8) c s = a at hpower hcause ⊢
  exact ⟨hpower, hcause, bitOf_or _ 0⟩

/-- The end of inrush (R225, R231). -/
theorem inrushTimerExpiry_reached {x : Nat} (h : (lnGet p s).inrushEnd = some x) : (inrushTimerExpiry p true s).now = max s.now x ∧
    (lnGet p (inrushTimerExpiry p true s)).pwr = 3 ∧ (lnGet p (inrushTimerExpiry p true s)).inrushEnd = none ∧
    (gGet (p / 8) (inrushTimerExpiry p true s)).alertL.contains (p % 8) = true := by
  have hline : lnGet p (inrushTimerExpiry p true s) = { lnGet p (runTo x s) with pwr := 3, inrushEnd := none } := by
    rw [inrushTimerExpiry_some true h, if_pos rfl, lnGet_alertLine, lnGet_lnMap_same]
  rw [hline, inrushTimerExpiry_some true h, if_pos rfl]
  exact ⟨runTo_now .., rfl, rfl, alertLine_contains p _⟩

theorem inrushTimerExpiry_failed {x : Nat} (h : (lnGet p s).inrushEnd = some x) : (inrushTimerExpiry p false s).now = max s.now x ∧
    (lnGet p (inrushTimerExpiry p false s)).pwr = 5 ∧ (lnGet p (inrushTimerExpiry p false s)).cause = 3 ∧
    bitOf (lnGet p (inrushTimerExpiry p false s)).events 2 = true := by
  obtain ⟨⟨since, cnt, inc, hline⟩, hnow, -⟩ := lnFault_spec p (runTo x s) 3
  rw [inrushTimerExpiry_some false h, if_neg (by decide), hline, hnow]
  exact ⟨runTo_now .., rfl, rfl, bitOf_or _ 2⟩

end

end Sys2Proof.Machine

section

open Sys2Proof Sys2Proof.Machine

/-- Settles O46, clause by clause: PWR_EN 1 of a reconciled line, of another in service, and of one that only waits; PWR_EN 0 in each power
state; a switch that closes, that stays open for its supply, that opens, and the two in which nothing is told; the end of inrush; the
faults; and the retry. -/
theorem busPowerRunsBehindItsLeave : Obligations.BusPowerRunsBehindItsLeave := by
  refine ⟨?setReconciled, ?setInService, ?setWaits, ?clearWaiting, ?clearFaulted, ?clearOn, ?closes, ?staysOpen, ?opens, ?notWaiting,
    ?activating, ?noInrush, ?inrushReached, ?inrushFailed, ?overcurrent, ?short, ?inInrush, ?supply, ?noRetry, ?retry⟩
  case setReconciled =>
    intro dt p s htaken hoff hrec hheld
    obtain ⟨t, ht, hanswer, hen, hstate, hwaits, hretries, hpower, -⟩ := setFields_pwrEn_asks htaken
      ((get_elapse_taken (by decide) (by decide) htaken).trans hoff) (by rwa [gGet_elapse]) (.inl (by rwa [lcGet_elapse]))
    exact ⟨t, congrArg Host.Outcome.next ht, hanswer, hen, hpower (by rwa [lcGet_elapse]), hstate, hwaits, hretries⟩
  case setInService =>
    intro dt p s htaken hoff hrec hheld hready
    obtain ⟨t, ht, hanswer, hen, hstate, hwaits, -, -, hlines⟩ := setFields_pwrEn_asks htaken
      ((get_elapse_taken (by decide) (by decide) htaken).trans hoff) (by rwa [gGet_elapse]) (.inr (by simpa using hready))
    exact ⟨t, congrArg Host.Outcome.next ht, hanswer, hen, hstate, hwaits, (hlines (by rwa [lcGet_elapse])).trans (by simp)⟩
  case setWaits =>
    intro dt p s htaken hrec hhost
    rw [← gGet_elapse (p / 8) dt s, ← get_elapse_taken (g := GL.PWR_EN) (by decide) (by decide) htaken] at hhost
    obtain ⟨t, ht, hanswer, hen, hlines, hleave⟩ := setFields_pwrEn_waits htaken (by rwa [lcGet_elapse]) (by simpa using hhost)
    exact ⟨t, congrArg Host.Outcome.next ht, hanswer, hen, hlines.trans (by simp), hleave.trans (by simp)⟩
  case clearWaiting =>
    intro dt p s htaken hrec hpwr
    obtain ⟨x, mp, cfg, ht, hanswer, hen, hrec', hline⟩ := setFields_pwrEn_clear htaken (by rwa [lcGet_elapse])
    exact ⟨_, congrArg Host.Outcome.next ht, hanswer, hen, pwrEnClear_waiting p x hrec' (by rwa [hline, lnGet_elapse])⟩
  case clearFaulted =>
    intro dt p s htaken hrec hpwr
    obtain ⟨x, mp, cfg, ht, hanswer, hen, hrec', hline⟩ := setFields_pwrEn_clear htaken (by rwa [lcGet_elapse])
    exact ⟨_, congrArg Host.Outcome.next ht, hanswer, hen, pwrEnClear_faulted p x hrec' (by rwa [hline, lnGet_elapse])⟩
  case clearOn =>
    intro dt p s htaken hrec hpwr
    obtain ⟨x, mp, cfg, ht, hanswer, hen, hrec', hline⟩ := setFields_pwrEn_clear htaken (by rwa [lcGet_elapse])
    exact ⟨_, congrArg Host.Outcome.next ht, hanswer, hen, pwrEnClear_on p x hrec' (by rwa [hline, lnGet_elapse])⟩
  case closes =>
    intro dt p v o s hfree hact hrun hrec hpwr hmay hsupply hok
    obtain ⟨hlines, hctl, hleave, hnow, hact', hrun'⟩ := supplyMeasured_units p v (elapse dt s)
    obtain ⟨hfree', hfield⟩ := supplyMeasured_free (v := v) ((linkFree_elapse (p / 8) dt s).trans hfree)
    have hspec := pwrSwitch_inrush (p := p) hfree' (by rw [hact', gGet_elapse, hact]) (by rwa [hrun', gGet_elapse])
      (by rwa [lcGet_congr hctl, lcGet_elapse]) (by rwa [lnGet_congr hlines, lnGet_elapse]) (by rwa [mayStart_congr hleave hnow])
      (by rwa [hfield, cfgField_congr (s := s) (hlines.trans (by simp))]) hok
    rw [hnow, elapse_now] at hspec
    exact ⟨_, exec_pwrSwitch .., hspec⟩
  case staysOpen =>
    intro dt p v o s hfree hact hrun hrec hpwr hmay hvolts hlow hok
    obtain ⟨hlines, hctl, hleave, hnow, hact', hrun'⟩ := supplyMeasured_units p v (elapse dt s)
    obtain ⟨hfree', hfield⟩ := supplyMeasured_free (v := v) ((linkFree_elapse (p / 8) dt s).trans hfree)
    exact ⟨_, exec_pwrSwitch .., pwrSwitch_low (p := p) hfree' (by rw [hact', gGet_elapse, hact]) (by rwa [hrun', gGet_elapse])
      (by rwa [lcGet_congr hctl, lcGet_elapse]) (by rwa [lnGet_congr hlines, lnGet_elapse]) (by rwa [mayStart_congr hleave hnow])
      (by rwa [cfgField_congr (s := s) (hlines.trans (by simp))]) (by rwa [hfield]) hok⟩
  case opens =>
    intro dt p v o s hfree hact hrun hoff hpwr hok
    obtain ⟨hlines, hctl, -, -, hact', hrun'⟩ := supplyMeasured_units p v (elapse dt s)
    obtain ⟨hfree', -⟩ := supplyMeasured_free (v := v) ((linkFree_elapse (p / 8) dt s).trans hfree)
    exact ⟨_, exec_pwrSwitch .., pwrSwitch_opens hfree' (by rw [hact', gGet_elapse, hact]) (by rwa [hrun', gGet_elapse])
      (by rwa [lcGet_congr hctl, lcGet_elapse]) (by rwa [lnGet_congr hlines, lnGet_elapse]) hok⟩
  case notWaiting =>
    intro dt p v o s h
    obtain ⟨hlines, hctl, hleave, hnow, -⟩ := supplyMeasured_units p v (elapse dt s)
    have hidle : pwrSwitch p true o (supplyMeasured p v (elapse dt s)) = supplyMeasured p v (elapse dt s) := by
      refine pwrSwitch_notWaiting o ?_
      rwa [lnGet_congr hlines, lnGet_elapse, lcGet_congr hctl, lcGet_elapse, mayStart_congr hleave hnow]
    exact ⟨_, congrArg Host.Outcome.next hidle, (supplyMeasured_guards ..).1⟩
  case activating =>
    intro dt p on v o s h
    obtain ⟨-, -, -, -, hact, hrun⟩ := supplyMeasured_units p v (elapse dt s)
    have hidle : pwrSwitch p on o (supplyMeasured p v (elapse dt s)) = supplyMeasured p v (elapse dt s) :=
      pwrSwitch_activating on o (by rwa [hact, hrun, gGet_elapse])
    exact ⟨_, congrArg Host.Outcome.next hidle, (supplyMeasured_guards ..).1⟩
  case noInrush => exact fun p b s h => congrArg Host.Outcome.next (inrushTimerExpiry_none b h)
  case inrushReached => exact fun p x s h => ⟨_, rfl, inrushTimerExpiry_reached h⟩
  case inrushFailed => exact fun p x s h => ⟨_, rfl, inrushTimerExpiry_failed h⟩
  case overcurrent =>
    intro dt p s hport hrun hpwr
    have hspec := pwrFault_line_spec (c := 1) (s := elapse dt s) (.inl rfl) (by simpa [portOk] using hport) (by rwa [gGet_elapse])
      (by rwa [lnGet_elapse])
    rw [elapse_now] at hspec
    exact ⟨_, rfl, hspec⟩
  case short =>
    intro dt p s hport hrun hpwr
    obtain ⟨hpower, hcause, -⟩ := pwrFault_line_spec (c := 2) (s := elapse dt s) (.inr rfl) (by simpa [portOk] using hport)
      (by rwa [gGet_elapse]) (by rwa [lnGet_elapse])
    exact ⟨_, rfl, hpower, hcause⟩
  case inInrush => exact fun dt p c s hc hpwr => congrArg Host.Outcome.next (pwrFault_inrush hc (by rwa [lnGet_elapse]))
  case supply =>
    intro dt p q c s hport hrun hc hq hpowered
    exact ⟨_, rfl, pwrFault_supply_spec hc (by simpa [portOk] using hport) (by rwa [gGet_elapse]) hq (by rwa [powered, lnGet_elapse])⟩
  case noRetry => exact fun p s h => congrArg Host.Outcome.next (retryWaitExpiry_none h)
  case retry => exact fun p x s h hpwr hrec => ⟨_, rfl, retryWaitExpiry_some h hpwr hrec⟩

end
end

section

/-! ### What a port that is taken into trim leaves of its guard line (R188 to R190) -/

open Sys2Proof.Safety

namespace Sys2Proof.Machine

/-- A field that stands at another place of its group of words than TRIM_WANTED does. -/
def Fld.besideTrim (f : Fld) : Bool := f.stride % 8 == 0 && (f.word * 32 + f.lo) % 256 != 104

theorem trimWanted_ne {f : Fld} (h : f.besideTrim = true) (p i : Nat) : GL.TRIM_WANTED.key p ≠ f.key i := by
  simp only [Fld.besideTrim, Bool.and_eq_true, beq_iff_eq, bne_iff_ne] at h
  obtain ⟨hstride, hplace⟩ := h
  obtain ⟨m, hm⟩ := Nat.dvd_of_mod_eq_zero hstride
  have hindex : f.stride * i = 8 * (m * i) := by rw [hm, Nat.mul_assoc]
  intro hkey
  simp only [Fld.key, GL.TRIM_WANTED, hindex] at hkey
  omega

/-- Two states agree in the guard lines, their control, the trim of port `p` and TRIM_WANTED of line `p`. -/
structure TrimHeld (p : Nat) (s t : State) : Prop where
  lines : t.lines = s.lines
  lineCtl : t.lineCtl = s.lineCtl
  trim : (pGet p t).inTrim = (pGet p s).inTrim
  wanted : get GL.TRIM_WANTED p t = get GL.TRIM_WANTED p s

theorem TrimHeld.refl (p : Nat) (s : State) : TrimHeld p s s := ⟨rfl, rfl, rfl, rfl⟩

section

variable {p : Nat} {s t u : State}

theorem TrimHeld.trans (h : TrimHeld p s t) (h' : TrimHeld p t u) : TrimHeld p s u :=
  ⟨h'.lines.trans h.lines, h'.lineCtl.trans h.lineCtl, h'.trim.trans h.trim, h'.wanted.trans h.wanted⟩

theorem TrimHeld.ite {c : Prop} [Decidable c] (ht : c → TrimHeld p s t) (hu : ¬ c → TrimHeld p s u) : TrimHeld p s (if c then t else u) := by
  split
  · next h => exact ht h
  · next h => exact hu h

/-- A change of units beside the guard lines, the ports and the registers. -/
theorem TrimHeld.of_units (hlines : t.lines = s.lines := by exact rfl) (hctl : t.lineCtl = s.lineCtl := by exact rfl)
    (hports : t.ports = s.ports := by exact rfl) (hregs : t.regs = s.regs := by exact rfl) (hvariant : t.variant = s.variant := by exact rfl)
    (hflash : t.flash = s.flash := by exact rfl) : TrimHeld p s t :=
  ⟨hlines, hctl, by rw [pGet_congr hports], get_congr _ _ hregs hvariant hflash⟩

theorem trimHeld_put {f : Fld} (h : f.besideTrim = true) (i v : Nat) (s : State) : TrimHeld p s (put f i v s) :=
  ⟨by simp, by simp, congrArg Port.inTrim (pGet_congr (by simp) p), get_put_ne (trimWanted_ne h _ _) ..⟩

theorem trimHeld_putHw {f : Fld} (h : f.besideTrim = true) (i v : Nat) (s : State) : TrimHeld p s (putHw f i v s) :=
  .ite (fun _ => .refl ..) fun _ => trimHeld_put h ..

theorem trimHeld_bump {f : Fld} (h : f.besideTrim = true) (i : Nat) (s : State) : TrimHeld p s (bump f i s) :=
  ⟨by simp, by simp, congrArg Port.inTrim (pGet_congr (by simp) p), get_bump_ne (trimWanted_ne h _ _) ..⟩

theorem trimHeld_setBits {f : Fld} (h : f.besideTrim = true) (i m : Nat) (s : State) : TrimHeld p s (setBits f i m s) :=
  ⟨by simp, by simp, congrArg Port.inTrim (pGet_congr (by simp) p), get_setBits_ne (trimWanted_ne h _ _) ..⟩

theorem trimHeld_raise {q f : Fld} (hq : q.besideTrim = true) (hf : f.besideTrim = true) (i : Nat) (s : State) :
    TrimHeld p s (raise q f i s) := (trimHeld_setBits hf ..).trans (trimHeld_setBits hq ..)

/-- A change of any port that leaves its trim. -/
theorem trimHeld_pMap (q : Nat) {f : Port → Port} (s : State) (hf : ∀ c, (f c).inTrim = c.inTrim := by exact fun _ => rfl) :
    TrimHeld p s (pMap q f s) := by
  refine ⟨rfl, rfl, ?_, rfl⟩
  by_cases hq : p = q
  · rw [hq, pGet_pMap_same, hf]
  · rw [pMap, pGet_pSet_ne hq]

end

/-! #### Words and records -/

section

variable (p : Nat)

theorem trimHeld_placeWords (k : Nat) (ws : List QWord) (final : Bool) (s : State) : TrimHeld p s (placeWords p k ws final s) := by
  have hbeside : GL.TRIM_WANTED.key p ∉ queueKeys p := by
    simp only [queueKeys, List.mem_cons, List.not_mem_nil, or_false, not_or]
    refine ⟨?_, ?_, ?_, ?_, ?_, ?_, ?_, ?_, ?_⟩ <;> exact trimWanted_ne (by decide) _ _
  have hoffer (l : List QWord) (t : State) : TrimHeld p t (offer p (.line p) l t) :=
    ⟨by simp, by simp, congrArg Port.inTrim (pGet_congr (by simp) p), get_offer hbeside ..⟩
  exact TrimHeld.trans (t := patchRecord p (.line p) (if ws.length ≤ k then ws else ws.take k) (final && decide (ws.length ≤ k)) s)
    .of_units (hoffer ..)

theorem trimHeld_moveOpen (s : State) : TrimHeld p s (moveOpen p s) := by
  unfold moveOpen
  extract_lets moved
  have hmoved : TrimHeld p s moved := by
    simp only [moved]
    split
    · exact .refl ..
    · exact .ite (fun _ => .refl ..) fun _ => (trimHeld_placeWords ..).trans (trimHeld_pMap ..)
  exact .ite (fun _ => hmoved.trans (trimHeld_pMap ..)) fun _ => hmoved

theorem trimHeld_moveOn (l : List Closed) (s : State) : TrimHeld p s (moveOn p l s) := by
  induction l generalizing s with
  | nil => exact trimHeld_moveOpen p s
  | cons c l ih =>
    have hplaced := trimHeld_placeWords p (offeredWords c.placed c.moved) (lineWords c.hdr c.bytes true) true s
    exact .ite (fun _ => (hplaced.trans (trimHeld_pMap p _)).trans (ih (finishClosed p c _))) fun _ => hplaced.trans (trimHeld_pMap ..)

theorem trimHeld_creditLean (t : Nat) (m : Int) (s : State) : TrimHeld p s (creditLean p t m s) := by
  refine .ite (fun _ => .refl ..) fun _ => ?_
  extract_lets l new c clamped
  have hclamped : TrimHeld p s clamped := .ite (fun _ =>
    (trimHeld_bump (f := PT.LEAN_CLAMP_CNT) (by decide) ..).trans (trimHeld_raise (by decide) (by decide) ..)) fun _ => .refl ..
  exact (hclamped.trans (trimHeld_putHw (by decide) ..)).trans (trimHeld_putHw (by decide) ..)

theorem trimHeld_measureLean (r : OpenRec) (flags talker : Nat) (s : State) : TrimHeld p s (measureLean p r flags talker s) := by
  unfold measureLean
  refine .ite (fun _ => .ite (fun _ => trimHeld_creditLean ..) fun _ => ?_) fun _ => .refl ..
  split
  · exact .ite (fun _ => trimHeld_creditLean ..) fun _ => .refl ..
  · exact trimHeld_creditLean ..

theorem trimHeld_closeRecord (extra : Nat) (markEdge : Option Stamp) (s : State) : TrimHeld p s (closeRecord p extra markEdge s) := by
  unfold closeRecord
  split
  · exact .refl ..
  · next r _ =>
    extract_lets g pre late ck flags key talker stamp stamp' hdr measured recorded checked unterm counted long seen before c closed
    have hrecorded : TrimHeld p s recorded := (trimHeld_measureLean ..).trans (trimHeld_bump (by decide) ..)
    have hchecked : TrimHeld p recorded checked := .ite (fun _ =>
      (trimHeld_bump (f := PT.CK_BAD_CNT) (by decide) ..).trans (trimHeld_raise (by decide) (by decide) ..)) fun _ => .refl ..
    have hunterm : TrimHeld p checked unterm := .ite (fun _ => trimHeld_raise (by decide) (by decide) ..) fun _ => .refl ..
    have hcounted : TrimHeld p unterm counted := .ite (fun _ => trimHeld_bump (by decide) ..) fun _ => .refl ..
    have hlong : TrimHeld p counted long := .ite (fun _ => trimHeld_raise (by decide) (by decide) ..) fun _ => .refl ..
    have hseen : TrimHeld p long seen := .ite (fun _ =>
      (trimHeld_put (f := TK.LAST_SEEN_SEC) (by decide) ..).trans (trimHeld_bump (by decide) ..)) fun _ => .refl ..
    have hclosed : TrimHeld p s closed :=
      (hrecorded.trans <| hchecked.trans <| hunterm.trans <| hcounted.trans <| hlong.trans hseen).trans (trimHeld_pMap ..)
    exact .ite (fun _ => hclosed.trans (trimHeld_moveOn ..)) fun _ => hclosed.trans (trimHeld_pMap ..)

theorem trimHeld_closeLate (extra : Nat) (ended : Bool) (s : State) : TrimHeld p s (closeLate p extra ended s) :=
  .ite (fun _ => (trimHeld_closeRecord ..).trans (trimHeld_pMap ..)) fun _ => trimHeld_pMap ..

end

/-! #### What the scheduler learns -/

section

variable {p : Nat}

theorem trimHeld_endTxn (q : Nat) (s : State) : TrimHeld p s (endTxn q s) := .of_units

theorem trimHeld_plMap (i : Nat) (f : PollRun → PollRun) (s : State) : TrimHeld p s (plMap i f s) := .of_units

theorem trimHeld_endJob? (j : Option Nat) (s : State) : TrimHeld p s (endJob? j s) := by
  unfold endJob?
  split
  · exact .of_units
  · exact .refl ..

theorem trimHeld_countOutcome (i : Nat) (o : Outcome7) (s : State) : TrimHeld p s (countOutcome i o s) := by
  have hpoll (f : Fld) (hf : f.besideTrim = true) (j : Nat) : TrimHeld p s (bump GP.POLLS_FAIL j (bump f i s)) :=
    (trimHeld_bump hf ..).trans (trimHeld_bump (by decide) ..)
  unfold countOutcome
  cases o with
  | ok => exact (trimHeld_bump (by decide) ..).trans (trimHeld_bump (by decide) ..)
  | noReply => exact (hpoll PL.NOREPLY_CNT (by decide) _).trans (trimHeld_bump (by decide) ..)
  | bad => exact hpoll PL.BAD_CNT (by decide) _
  | wrongTalker => exact hpoll PL.BAD_CNT (by decide) _
  | late =>
    extract_lets g t counted shown
    have hcounted : TrimHeld p s counted :=
      (((trimHeld_bump (f := PL.LATE_CNT) (by decide) ..).trans (trimHeld_bump (f := GP.LATE_CNT) (by decide) ..)).trans
        (trimHeld_bump (f := TK.LATE_CNT) (by decide) ..)).trans (trimHeld_bump (f := RG.POLL_LATE_CNT) (by decide) ..)
    have hshown : TrimHeld p counted shown := trimHeld_setBits (by decide) ..
    refine (hcounted.trans hshown).trans (TrimHeld.trans (t := if g < 32 then _ else _) ?_ (trimHeld_setBits (by decide) ..))
    exact .ite (fun _ => trimHeld_setBits (by decide) ..) fun _ => trimHeld_setBits (by decide) ..

theorem trimHeld_endPoll (i : Nat) (o : Outcome7) (seen : Option Nat) (s : State) : TrimHeld p s (endPoll i o seen s) := by
  unfold endPoll
  extract_lets r told counted noted ended
  have hcounted : TrimHeld p s counted :=
    ((trimHeld_put (f := PL.TRIES_USED) (by decide) ..).trans (trimHeld_put (by decide) ..)).trans (trimHeld_countOutcome ..)
  have hnoted : TrimHeld p counted noted := by
    simp only [noted]
    split
    · exact trimHeld_put (by decide) ..
    · exact .refl ..
  have hended : TrimHeld p s ended := (hcounted.trans hnoted).trans .of_units
  exact (hended.trans (.ite (fun _ => .refl ..) fun _ => trimHeld_endJob? ..)).trans (trimHeld_plMap ..)

theorem trimHeld_tryFailed (i : Nat) (o : Outcome7) (s : State) : TrimHeld p s (tryFailed i o s) :=
  (trimHeld_endTxn ..).trans (.ite (fun _ => trimHeld_plMap ..) fun _ => trimHeld_endPoll ..)

theorem trimHeld_tryOk (i : Nat) (seen : Option Nat) (payload : List Byte) (s : State) : TrimHeld p s (tryOk i seen payload s) := by
  unfold tryOk
  extract_lets q dc ended cmd done
  have hended : TrimHeld p s ended := trimHeld_endTxn ..
  have hdone : TrimHeld p s done := trimHeld_endPoll ..
  refine .ite (fun _ => ?_) fun _ => hended.trans (trimHeld_endPoll ..)
  split
  · exact .ite (fun _ => hended.trans (trimHeld_plMap ..)) fun _ => hended.trans (trimHeld_endPoll ..)
  · split
    · exact trimHeld_tryFailed ..
    · refine .ite (fun _ => ?_) fun _ => ?_
      · exact .ite (fun _ => (hdone.trans (trimHeld_plMap ..)).trans (trimHeld_pMap ..)) fun _ => hdone.trans (trimHeld_endTxn ..)
      · extract_lets u t
        have ht : TrimHeld p s t := trimHeld_plMap ..
        exact .ite (fun _ => ht.trans (trimHeld_pMap ..)) fun _ => ht.trans (trimHeld_endTxn ..)

theorem trimHeld_judgeTry (i : Nat) (r : Reply) (s : State) : TrimHeld p s (judgeTry i r s) :=
  .ite (fun _ => trimHeld_tryFailed ..) fun _ => .ite (fun _ => trimHeld_tryFailed ..) fun _ => trimHeld_tryOk ..

theorem trimHeld_serviceRequest (i : Nat) (payload : List Byte) (s : State) : TrimHeld p s (serviceRequest i payload s) :=
  .ite (fun _ => (trimHeld_endTxn ..).trans (trimHeld_plMap ..)) fun _ => trimHeld_pMap ..

theorem trimHeld_judgeReply (q : Nat) (s : State) : TrimHeld p s (judgeReply q s) := by
  unfold judgeReply
  split
  · exact .refl ..
  · extract_lets t
    have ht : TrimHeld p s t := trimHeld_pMap ..
    split
    · exact ht
    · split
      · exact ht.trans (trimHeld_serviceRequest ..)
      · exact ht.trans (trimHeld_serviceRequest ..)
      · exact ht.trans (trimHeld_judgeTry ..)
    · next c _ =>
      have hmet : TrimHeld p t (if (activeJob c.job t).isSome then endJob c.job (meetJob c.job t) else t) :=
        .ite (fun _ => .of_units) fun _ => .refl ..
      exact (ht.trans hmet).trans (trimHeld_endTxn ..)

theorem trimHeld_judge (q : Nat) (s : State) : TrimHeld p s (judge q s) := by
  refine TrimHeld.trans (t := retireEnding q s) ?_ (trimHeld_judgeReply ..)
  exact .ite (fun _ => (trimHeld_endJob? ..).trans .of_units) fun _ => .refl ..

end

/-- A port that is taken into trim: it is held, and its guard line stands (R189). -/
theorem trimTakes_spec (p : Nat) (s : State) : (trimTakes p s).lines = s.lines ∧ (trimTakes p s).lineCtl = s.lineCtl ∧
    (pGet p (trimTakes p s)).inTrim = true ∧ get GL.TRIM_WANTED p (trimTakes p s) = get GL.TRIM_WANTED p s := by
  have hjudged := trimHeld_judge (p := p) p (trimBegins p s)
  generalize hheld : pMap p (fun c => { c with
    inTrim := true, rx := none, held := none, open_ := c.open_.map fun r => { r with flags := r.flags ||| fTRIM } }) s = a
  have hport : (pGet p a).inTrim = true := by rw [← hheld, pGet_pMap_same]
  have hclosed : TrimHeld p a (if (pGet p a).lateClose then closeLate p 0 false a else a) :=
    .ite (fun _ => trimHeld_closeLate ..) fun _ => .refl ..
  have htaken : TrimHeld p a (trimBegins p s) := by
    have hbegins : trimBegins p s = rxTakeUp p (if (pGet p a).lateClose then closeLate p 0 false a else a) := by rw [← hheld]; rfl
    rw [hbegins]
    exact hclosed.trans ⟨by rw [rxTakeUp_units], by rw [rxTakeUp_units], by rw [pGet_rxTakeUp], get_rxTakeUp ..⟩
  have hall := htaken.trans hjudged
  have hrest : a.lines = s.lines ∧ a.lineCtl = s.lineCtl ∧ get GL.TRIM_WANTED p a = get GL.TRIM_WANTED p s := by
    rw [← hheld]
    exact ⟨rfl, rfl, rfl⟩
  exact ⟨hall.lines.trans hrest.1, hall.lineCtl.trans hrest.2.1, hall.trim.trans hport, hall.wanted.trans hrest.2.2⟩

end Sys2Proof.Machine
end

section

/-! ### The trim of a guard line (4.5) -/

open Sys2Proof.Safety

namespace Sys2Proof.Machine

/-! #### The need for trim (R236, R238) -/

section

variable (p : Nat) (s : State)

/-- A need that is recorded: its time and its cause stand, and TRIM_WANTED shows it. -/
theorem needTrim_records {cause : Nat} (h : (lcGet p s).needTrim = none ∨ cause = 0) :
    (lcGet p (needTrim p cause s)).needTrim = some (s.now, cause) ∧ get GL.TRIM_WANTED p (needTrim p cause s) = 1 ∧
    ∀ g j, g.key j ≠ GL.TRIM_WANTED.key p → get g j (needTrim p cause s) = get g j s := by
  unfold needTrim
  rw [if_neg (by rcases h with h | h <;> simp [h])]
  refine ⟨?_, get_put_same .., fun g j hk => get_put_ne hk ..⟩
  rw [lcGet_congr (s := lcMap p (fun c => { c with needTrim := some (s.now, cause) }) s) (by simp), lcGet_lcMap_same]

/-- A need that is recorded stands. -/
theorem needTrim_stands {cause : Nat} {x : Nat × Nat} (h : (lcGet p s).needTrim = some x) (hcause : cause ≠ 0) : needTrim p cause s = s :=
  if_pos (by simp [h, hcause])

/-- The power commands leave the fields of the trim. -/
theorem PowerActed.trim {p : Nat} {x t : State} (h : PowerActed p x t) {g : Fld} (hg : g ∈ [GL.EN, GL.TRIM_REQ, GL.TRIM_WANTED]) :
    get g p t = get g p x := by
  refine h.kept _ _ ?_
  simp only [List.mem_cons, List.not_mem_nil, or_false, not_or] at hg ⊢
  rcases hg with rfl | rfl | rfl
  · exact ⟨port_key_ne p, port_key_ne p, (direct_ne_indexed (f := RG.FIELD_CHANGE) (f' := GL.EN)).symm⟩
  · exact ⟨port_key_ne p, port_key_ne p, (direct_ne_indexed (f := RG.FIELD_CHANGE) (f' := GL.TRIM_REQ)).symm⟩
  · exact ⟨port_key_ne p, port_key_ne p, (direct_ne_indexed (f := RG.FIELD_CHANGE) (f' := GL.TRIM_WANTED)).symm⟩

/-- A write of LINE_CTRL that leaves PWR_EN where it was: at 0 the line's power is told to end once more. -/
def powerRetold (p : Nat) (s : State) : State := if !(flag GL.PWR_EN p s) then pwrEnClear p s else s

theorem powerActed_powerRetold : PowerActed p s (powerRetold p s) := by
  unfold powerRetold
  split
  · exact powerActed_pwrEnClear p s
  · exact .refl p s

end

/-! #### Writes that record it -/

section

variable {p : Nat} {s : State}

/-- A taken TRIM_REQ, up to the need that it records. -/
theorem setFields_trimReq (h : taken p GL.TRIM_REQ [(GL.TRIM_REQ, 1)] s) : ∃ y mp cfg, mp.answer = 0 ∧ y.now = s.now ∧
    (lcGet p y).needTrim = (lcGet p s).needTrim ∧ setFields p [(GL.TRIM_REQ, 1)] s = { trimReq p y with mp := mp, cfg := cfg } := by
  obtain ⟨w, mp, cfg, hw, hanswer, ht⟩ := setFields_lineCtrl (trim := true) (by decide) h fun M w => asksTrim_of_given
  have hen := (stands_of_same (hw.rest GL.EN (by decide) (by decide))).1
  have hpower := (stands_of_same (hw.rest GL.PWR_EN (by decide) (by decide))).1
  have hleak := (stands_of_same (hw.rest GL.LEAK_EN (by decide) (by decide))).2
  have hflag : flag GL.PWR_EN p w = flag GL.PWR_EN p (ctrlForwarded p w) := by
    rw [(ctrlForwarded_spec p w).2]
    rfl
  have hacts : lineCtrlActs p true s w = trimReq p (powerRetold p (ctrlForwarded p w)) := by
    unfold lineCtrlActs powerRetold
    simp only [hen, hpower, hleak, Bool.and_false, Bool.false_eq_true, if_false, if_true, hflag]
    rfl
  obtain ⟨⟨l, hctl⟩, hunits⟩ := ctrlForwarded_spec p w
  have hretold := powerActed_powerRetold p (ctrlForwarded p w)
  have hsame := hw.units
  refine ⟨_, mp, cfg, hanswer, hretold.now.trans ?_, hretold.need.trans ?_, ht.trans (by rw [hacts])⟩
  · rw [hunits, hsame]
  · rw [hctl, lcGet_congr (s := s) (by rw [hsame])]

/-- The request itself is no need: TRIM_REQ stands beside TRIM_WANTED. -/
theorem trimReq_records (h : (lcGet p s).needTrim = none) : (lcGet p (trimReq p s)).needTrim = some (s.now, 2) ∧
    get GL.TRIM_WANTED p (trimReq p s) = 1 ∧ get GL.TRIM_REQ p (trimReq p s) = 1 := by
  have hasked : lcGet p (putSw GL.TRIM_REQ p 1 s) = lcGet p s := lcGet_congr (by simp) p
  obtain ⟨hneed, hwanted, hkept⟩ := needTrim_records p (putSw GL.TRIM_REQ p 1 s) (cause := 2) (.inl (by rw [hasked, h]))
  exact ⟨hneed, hwanted, (hkept GL.TRIM_REQ p (port_key_ne p)).trans (get_putSw_same ..)⟩

theorem trimReq_stands {x : Nat × Nat} (h : (lcGet p s).needTrim = some x) : (lcGet p (trimReq p s)).needTrim = some x := by
  have hasked : lcGet p (putSw GL.TRIM_REQ p 1 s) = lcGet p s := lcGet_congr (by simp) p
  rw [trimReq, needTrim_stands p _ (by rw [hasked, h]) (by decide), hasked, h]

/-- Enabling a reconciled line records its need at once, in place of any other (R236, R238). -/
theorem setFields_enable (h : taken p GL.EN [(GL.EN, 1)] s) (hoff : get GL.EN p s = 0) (hrec : (lcGet p s).reconciled = true) :
    ∃ t, setFields p [(GL.EN, 1)] s = t ∧ t.mp.answer = 0 ∧ get GL.EN p t = 1 ∧ (lcGet p t).needTrim = some (s.now, 0) ∧
    get GL.TRIM_WANTED p t = 1 := by
  obtain ⟨w, mp, cfg, hw, hanswer, ht⟩ := setFields_lineCtrl (trim := false) (by decide) h fun M w => asksTrim_of_other (by decide)
  obtain ⟨⟨l, hctl⟩, hunits⟩ := ctrlForwarded_spec p w
  have hsame := hw.units
  have hrec' : (lcGet p w).reconciled = true := by rw [lcGet_congr (s := s) (by rw [hsame]), hrec]
  have hen : get GL.EN p w = 1 := hw.given rfl
  have hrises : rises GL.EN p s w = true := by simp [rises, flag, hoff, hen]
  have hpower := (stands_of_same (hw.rest GL.PWR_EN (by decide) (by decide))).1
  have hleak := (stands_of_same (hw.rest GL.LEAK_EN (by decide) (by decide))).2
  obtain ⟨hneed, hwanted, hkept⟩ := needTrim_records p (ctrlForwarded p w) (cause := 0) (.inr rfl)
  have hflag : flag GL.PWR_EN p w = flag GL.PWR_EN p (needTrim p 0 (ctrlForwarded p w)) := by
    unfold flag
    rw [hkept GL.PWR_EN p (port_key_ne p), hunits]
    rfl
  have hacts : lineCtrlActs p false s w = powerRetold p (needTrim p 0 (ctrlForwarded p w)) := by
    unfold lineCtrlActs powerRetold
    simp only [hrec', hrises, hpower, hleak, Bool.and_self, Bool.false_eq_true, if_false, if_true, hflag]
    rw [ctrlForwarded, if_pos hrec', guardLineEnable]
  have hretold := powerActed_powerRetold p (needTrim p 0 (ctrlForwarded p w))
  have henabled : get GL.EN p (ctrlForwarded p w) = 1 := by
    rw [hunits]
    exact hen
  have hnow : (ctrlForwarded p w).now = s.now := by rw [hunits, hsame]
  refine ⟨_, ht.trans (by rw [hacts]), hanswer, ?_, ?_, ?_⟩
  · exact (hretold.trim (by decide)).trans ((hkept GL.EN p (port_key_ne p)).trans henabled)
  · exact hretold.need.trans (hneed.trans (by rw [hnow]))
  · exact (hretold.trim (by decide)).trans hwanted

@[simp] theorem gGet_lnMap (k p : Nat) (f : GLine → GLine) (s : State) : gGet k (lnMap p f s) = gGet k s := rfl

/-! #### The guard's own want, and the deferral (R236, R239, R263) -/

theorem trimWantedEvent_measures {x : Int} (hport : portOk s p = true) (hrun : (gGet (p / 8) s).run = 2) : trimWantedEvent p x s =
    if 10 ≤ (x - (lnGet p s).trimTemp).natAbs ∧ !(lnGet p s).inTrim
    then alertLine p (lnMap p (fun x => { x with trimWanted := true }) (gMap (p / 8) (fun g => { g with temp := x }) s))
    else gMap (p / 8) (fun g => { g with temp := x }) s := if_neg (by simp [hport, hrun])

theorem trimWantedEvent_wants {x : Int} (hport : portOk s p = true) (hrun : (gGet (p / 8) s).run = 2)
    (hfar : 10 ≤ (x - (lnGet p s).trimTemp).natAbs) (htrim : (lnGet p s).inTrim = false) : ∃ t, trimWantedEvent p x s = t ∧
    (lnGet p t).trimWanted = true ∧ (gGet (p / 8) t).temp = x ∧ (gGet (p / 8) t).alertL.contains (p % 8) = true ∧
    t = { s with guards := t.guards, lines := t.lines } := by
  refine ⟨_, (trimWantedEvent_measures hport hrun).trans (if_pos ⟨hfar, by simp [htrim]⟩), ?_, ?_, alertLine_contains p _, rfl⟩
  · rw [lnGet_alertLine, lnGet_lnMap_same]
  · rw [gGet_alertLine, gGet_lnMap, gGet_gMap_same]

theorem trimDeferTimeout_forces {x c : Nat} (h : (lcGet p s).needTrim = some (x, c)) (hc : c ≠ 0) :
    (lcGet p (trimDeferTimeout p s)).forced = true ∧ (trimDeferTimeout p s).now = max s.now (x + cyclesMs (get RG.TRIM_DEFER_MS 0 s)) := by
  have hforced : trimDeferTimeout p s = lcMap p (fun x => { x with forced := true }) (runTo (x + cyclesMs (get RG.TRIM_DEFER_MS 0 s)) s) := by
    unfold trimDeferTimeout
    rw [h]
    exact if_neg hc
  rw [hforced, lcGet_lcMap_same]
  exact ⟨rfl, runTo_now ..⟩

theorem trimDeferTimeout_idle (h : ∀ x c, (lcGet p s).needTrim = some (x, c) → c = 0) : trimDeferTimeout p s = s := by
  unfold trimDeferTimeout
  split
  · next x c hneed => exact if_pos (h x c hneed)
  · rfl

end

/-! #### TRIM_START (R237 to R243) -/

/-- The cause of a line's need for trim. -/
def trimCauseOf (p : Nat) (s : State) : Nat := match (lcGet p s).needTrim with | some (_, c) => c | none => 0

/-- The gap in which a trim that is not at once takes place is granted. -/
def trimGapped (p : Nat) (s : State) : State := if trimCauseOf p s ≠ 0 ∧ gapFits p (cyclesUs 3300) s then grantGap p s else s

/-- The guard enters trim, and the slice in progress is preempted. -/
def trimEntered (p cause : Nat) (s : State) : State :=
  dropSlice p 3 (lnMap p (fun x => { x with inTrim := true, trimWanted := false, trimCause := cause }) s)

/-- The line is in trim for the concentrator. -/
def trimNoted (p : Nat) (s : State) : State :=
  put GL.TRIM_WANTED p 0 (lcMap p (fun c => { c with needTrim := none, forced := false, trimAt := some s.now }) s)

section

variable {p : Nat} {o : GlOutcome} {s : State}

theorem trimGapped_units (p : Nat) (s : State) :
    (trimGapped p s).now = s.now ∧ (trimGapped p s).lines = s.lines ∧ (trimGapped p s).lineCtl = s.lineCtl ∧ (trimGapped p s).guards = s.guards := by
  unfold trimGapped
  split <;> exact ⟨rfl, rfl, rfl, rfl⟩

theorem trimStart_idle (h : linkFree (p / 8) s = false ∨ nextTrim (p / 8) s ≠ some p) : trimStart p o s = s :=
  if_pos (by rcases h with h | h <;> simp [h])

/-- A trim start whose reply comes, or is lost (R240). -/
theorem trimStart_starts (hfree : linkFree (p / 8) s = true) (hnext : nextTrim (p / 8) s = some p) (hacted : glActed o = true)
    (hreplied : glReplied o = true) : trimStart p o s =
    transact (p / 8) (glRequest 0x13 (p % 8) 0 0 []) [] o (trimTakes p (trimNoted p (trimEntered p (trimCauseOf p s) (trimGapped p s)))) := by
  unfold trimStart
  rw [if_neg (by simp [hfree, hnext])]
  dsimp only
  rw [if_pos hacted, if_pos hreplied]
  rfl

/-- A trim start that never reaches the guard (R213). -/
theorem trimStart_lost (hfree : linkFree (p / 8) s = true) (hnext : nextTrim (p / 8) s = some p) (hacted : glActed o = false)
    (hreplied : glReplied o = false) : trimStart p o s =
    transact (p / 8) (glRequest 0x13 (p % 8) 0 0 []) [] o (copMap p (fun c => { c with gap := none }) (trimGapped p s)) := by
  unfold trimStart
  rw [if_neg (by simp [hfree, hnext])]
  dsimp only
  rw [if_neg (show ¬glActed o = true by simp [hacted]), if_neg (show ¬glReplied o = true by simp [hreplied])]
  rfl

theorem trimNoted_spec (p : Nat) (s : State) : (trimNoted p s).lines = s.lines ∧ (lcGet p (trimNoted p s)).trimAt = some s.now ∧
    (lcGet p (trimNoted p s)).needTrim = none ∧ get GL.TRIM_WANTED p (trimNoted p s) = 0 := by
  have hctl : lcGet p (trimNoted p s) = { lcGet p s with needTrim := none, forced := false, trimAt := some s.now } := by
    unfold trimNoted
    rw [lcGet_congr (s := lcMap p (fun c => { c with needTrim := none, forced := false, trimAt := some s.now }) s) (by simp), lcGet_lcMap_same]
  refine ⟨by simp [trimNoted], ?_, ?_, get_put_same ..⟩
  · rw [hctl]
  · rw [hctl]

theorem trimEntered_spec (p cause : Nat) (s : State) : (trimEntered p cause s).now = s.now ∧ (lnGet p (trimEntered p cause s)).inTrim = true ∧
    (lnGet p (trimEntered p cause s)).slice = none := by
  obtain ⟨cnt, inc, hdrop⟩ := lnGet_dropSlice p (lnMap p (fun x => { x with inTrim := true, trimWanted := false, trimCause := cause }) s) 3
  rw [trimEntered, (dropSlice_units ..).1, hdrop, lnGet_lnMap_same]
  exact ⟨rfl, rfl, rfl⟩

/-- The line that the guard trims next enters trim, at the guard, for the concentrator and at its port (R241). -/
theorem trimStart_spec (hfree : linkFree (p / 8) s = true) (hnext : nextTrim (p / 8) s = some p) (hend : o.isOk = true ∨ o.last = .replyCrc) :
    (lnGet p (trimStart p o s)).inTrim = true ∧ (lnGet p (trimStart p o s)).slice = none ∧ (lcGet p (trimStart p o s)).trimAt = some s.now ∧
    (lcGet p (trimStart p o s)).needTrim = none ∧ (pGet p (trimStart p o s)).inTrim = true ∧ get GL.TRIM_WANTED p (trimStart p o s) = 0 := by
  obtain ⟨hk, hp⟩ := lt_of_linkFree hfree
  have hlast : o.last = .ok ∨ o.last = .replyCrc := hend.imp_left fun hok => by simpa [GlOutcome.isOk] using hok
  rw [trimStart_starts hfree hnext (by rcases hlast with h | h <;> simp [glActed, h]) (by rcases hlast with h | h <;> simp [glReplied, h])]
  obtain ⟨hnow, hin, hslice⟩ := trimEntered_spec p (trimCauseOf p s) (trimGapped p s)
  generalize trimEntered p (trimCauseOf p s) (trimGapped p s) = a at hnow hin hslice ⊢
  obtain ⟨hlines, htrimAt, hneed, hwanted⟩ := trimNoted_spec p a
  generalize trimNoted p a = b at hlines htrimAt hneed hwanted ⊢
  obtain ⟨hlines', hctl', hport, hwanted'⟩ := trimTakes_spec p b
  generalize trimTakes p b = c at hlines' hctl' hport hwanted' ⊢
  have hnow' : a.now = s.now := hnow.trans (trimGapped_units p s).1
  obtain ⟨hlines'', hctl''⟩ := transact_fields (p / 8) (glRequest 0x13 (p % 8) 0 0 []) [] o c
  rw [lnGet_congr (hlines''.trans (hlines'.trans hlines)), lcGet_congr (hctl''.trans hctl'), pGet_congr (linkKeeps_transact ..).ports,
    get_transact (line_not_linkKeys (by decide) hp hk), hwanted', htrimAt, hnow']
  exact ⟨hin, hslice, rfl, hneed, hport, hwanted⟩

/-- The line that the guard trims next is in no trim (R237). -/
theorem trimAt_of_nextTrim {k : Nat} (h : nextTrim k s = some p) : (lcGet p s).trimAt = none := by
  unfold nextTrim at h
  split at h
  · exact absurd h (by simp)
  · have hstarts := List.find?_some h
    simp only [trimStarts, Bool.and_eq_true] at hstarts
    obtain ⟨⟨⟨⟨-, hat⟩, -⟩, -⟩, -⟩ := hstarts
    simpa using hat

/-- A request whose CRC fails is one failure more, and no more of the guard (R213, R215). -/
theorem transact_requestCrc_fails (k h : Nat) (req data : List Byte) (s : State) :
    (gGet k (transact k req data ⟨0, h, .requestCrc⟩ s)).fails = (gGet k s).fails + 1 := by
  have hlast : lastTry k req data ⟨0, h, .requestCrc⟩ s = gMap k (fun g => { g with link := ⟨req, glReply ⟨0, h, .requestCrc⟩ data⟩ }) s := rfl
  rw [transact_eq, gGet_watchHealth]
  dsimp only [linkTry]
  rw [(linkBad_spec k _).2, hlast, gGet_gMap_same]

/-- A trim request whose CRC fails leaves the line as it is (R240). -/
theorem trimStart_requestCrc (h : Nat) (hfree : linkFree (p / 8) s = true) (hnext : nextTrim (p / 8) s = some p) :
    (gGet (p / 8) (trimStart p ⟨0, h, .requestCrc⟩ s)).fails = (gGet (p / 8) s).fails + 1 ∧
    (lnGet p (trimStart p ⟨0, h, .requestCrc⟩ s)).inTrim = (lnGet p s).inTrim ∧
    (lcGet p (trimStart p ⟨0, h, .requestCrc⟩ s)).needTrim = (lcGet p s).needTrim ∧
    (lcGet p (trimStart p ⟨0, h, .requestCrc⟩ s)).trimAt = none := by
  obtain ⟨-, hlines, hctl, hguards⟩ := trimGapped_units p s
  rw [trimStart_lost hfree hnext rfl rfl]
  generalize hfreed : copMap p (fun c => { c with gap := none }) (trimGapped p s) = a
  have hrest : a.lines = s.lines ∧ a.lineCtl = s.lineCtl ∧ a.guards = s.guards := by
    rw [← hfreed]
    exact ⟨hlines, hctl, hguards⟩
  obtain ⟨hlines', hctl'⟩ := transact_fields (p / 8) (glRequest 0x13 (p % 8) 0 0 []) [] ⟨0, h, .requestCrc⟩ a
  rw [transact_requestCrc_fails, gGet_congr hrest.2.2, lnGet_congr (hlines'.trans hrest.1), lcGet_congr (hctl'.trans hrest.2.1)]
  exact ⟨rfl, rfl, rfl, trimAt_of_nextTrim hnext⟩

/-! #### TRIM_END (R242, R244) -/

/-- The trim of a line has ended at its guard, and counts. -/
def trimCounted (p : Nat) (s : State) : State := lnCount p 0 (lnMap p (fun x => { x with inTrim := false }) s)

theorem trimCounted_spec (p : Nat) (s : State) : ∃ inc, lnGet p (trimCounted p s) = { lnGet p s with
    inTrim := false, cnt := store 0 0 (GL.TRIM_CNT.count (lookup 0 0 (lnGet p s).cnt) 1) (lnGet p s).cnt, inc := inc } := by
  obtain ⟨⟨inc, hline⟩, -⟩ := lnCount_spec p 0 (lnMap p (fun x => { x with inTrim := false }) s)
  refine ⟨inc, hline.trans ?_⟩
  rw [lnGet_lnMap_same]
  rfl

theorem trimCounted_guards (p : Nat) (s : State) : (trimCounted p s).guards = s.guards := (lnCount_spec ..).2.2.2.2

/-- A trim that fails is counted once more and shows TRIM_FAIL. -/
def trimFailed (p : Nat) (s : State) : State := lnEvent p 7 (lnCount p 1 (trimCounted p s))

theorem trimFailed_spec (p : Nat) (s : State) : ∃ since inc, lnGet p (trimFailed p s) = { lnGet p s with
    inTrim := false, events := (lnGet p s).events ||| 2 ^ 7, since := since, inc := inc
    cnt := store 0 1 (GL.TRIM_FAIL_CNT.count (lookup 0 1 (lnGet p s).cnt) 1)
      (store 0 0 (GL.TRIM_CNT.count (lookup 0 0 (lnGet p s).cnt) 1) (lnGet p s).cnt) } := by
  obtain ⟨inc, hcounted⟩ := trimCounted_spec p s
  obtain ⟨⟨inc', hfailed⟩, -⟩ := lnCount_spec p 1 (trimCounted p s)
  obtain ⟨⟨since, hevent⟩, -⟩ := lnEvent_spec p 7 (lnCount p 1 (trimCounted p s))
  refine ⟨since, inc', hevent.trans ?_⟩
  rw [hfailed, hcounted, lookup_store_ne 0 _ (by decide)]
  rfl

theorem trimEnd_idle (codes : Option (Nat × Nat)) (h : (lnGet p s).inTrim = false) : trimEnd p codes s = s := if_pos (by simp [h])

/-- A trim that ends with its codes (R242). -/
theorem trimEnd_applies (a b : Nat) (h : (lnGet p s).inTrim = true) : ∃ inc, lnGet p (trimEnd p (some (a, b)) s) = { lnGet p s with
    inTrim := false, cnt := store 0 0 (GL.TRIM_CNT.count (lookup 0 0 (lnGet p s).cnt) 1) (lnGet p s).cnt, inc := inc
    termCode := if cfgField p 0 1 1 s = 0 then a % 16 else (lnGet p s).termCode, thresh := b % 256
    trimTemp := (gGet (p / 8) s).temp } := by
  obtain ⟨inc, hcounted⟩ := trimCounted_spec p s
  have hends : trimEnd p (some (a, b)) s = alertLine p (copMap p (fun c => { c with gap := none }) (lnMap p (fun x => { x with
      termCode := if cfgField p 0 1 1 (trimCounted p s) = 0 then a % 16 else x.termCode, thresh := b % 256,
      trimTemp := (gGet (p / 8) (trimCounted p s)).temp }) (trimCounted p s))) := if_neg (by simp [h])
  have hcfg : cfgField p 0 1 1 (trimCounted p s) = cfgField p 0 1 1 s := by
    unfold cfgField cfgWord
    rw [hcounted]
  refine ⟨inc, ?_⟩
  rw [hends, lnGet_alertLine, lnGet_copMap, lnGet_lnMap_same, hcfg, gGet_congr (trimCounted_guards p s), hcounted]

/-- A trim that ends with FAIL (R244). -/
theorem trimEnd_fails (h : (lnGet p s).inTrim = true) : lnGet p (trimEnd p none s) = lnGet p (trimFailed p s) ∧
    (gGet (p / 8) (trimEnd p none s)).alertL.contains (p % 8) = true := by
  have hends : trimEnd p none s = alertLine p (copMap p (fun c => { c with gap := none }) (trimFailed p s)) := if_neg (by simp [h])
  rw [hends]
  exact ⟨rfl, alertLine_contains p _⟩

end

end Sys2Proof.Machine

section

open Sys2Proof Sys2Proof.Machine

/-- Settles O47, clause by clause: a TRIM_REQ that records the need, and one that finds it recorded; the enable; a temperature far from
the last trim, and one near it; the deferral; no trim start, one that starts, one that is lost; and the ends of a trim. -/
theorem linesAreTrimmed : Obligations.LinesAreTrimmed := by
  refine ⟨?request, ?requestAgain, ?enable, ?wants, ?near, ?deferred, ?notDeferred, ?noStart, ?starts, ?lost, ?noEnd, ?applies, ?fails⟩
  case request =>
    intro dt p s htaken hneed
    obtain ⟨y, mp, cfg, hanswer, hnow, hneed', ht⟩ := setFields_trimReq htaken
    rw [lcGet_elapse, hneed] at hneed'
    have hspec := trimReq_records hneed'
    rw [hnow, elapse_now] at hspec
    exact ⟨_, congrArg Host.Outcome.next ht, hanswer, hspec⟩
  case requestAgain =>
    intro dt p x s htaken hneed
    obtain ⟨y, mp, cfg, hanswer, -, hneed', ht⟩ := setFields_trimReq htaken
    rw [lcGet_elapse, hneed] at hneed'
    exact ⟨_, congrArg Host.Outcome.next ht, hanswer, trimReq_stands hneed'⟩
  case enable =>
    intro dt p s htaken hoff hrec
    obtain ⟨t, ht, hspec⟩ := setFields_enable htaken ((get_elapse_taken (by decide) (by decide) htaken).trans hoff) (by rwa [lcGet_elapse])
    rw [elapse_now] at hspec
    exact ⟨t, congrArg Host.Outcome.next ht, hspec⟩
  case wants =>
    intro dt p x s hport hrun hfar htrim
    obtain ⟨t, ht, hspec⟩ := trimWantedEvent_wants (x := x) (s := elapse dt s) (by simpa [portOk] using hport) (by rwa [gGet_elapse])
      (by rwa [lnGet_elapse]) (by rwa [lnGet_elapse])
    exact ⟨t, congrArg Host.Outcome.next ht, hspec⟩
  case near =>
    intro dt p x s hport hrun hnear
    have hmeasured := (trimWantedEvent_measures (x := x) (s := elapse dt s) (by simpa [portOk] using hport) (by rwa [gGet_elapse])).trans
      (if_neg (by rw [lnGet_elapse]; omega))
    exact ⟨_, congrArg Host.Outcome.next hmeasured, congrArg Guard.temp (gGet_gMap_same ..), rfl⟩
  case deferred => exact fun p x c s hneed hc => ⟨_, rfl, trimDeferTimeout_forces hneed hc⟩
  case notDeferred => exact fun p s h => congrArg Host.Outcome.next (trimDeferTimeout_idle h)
  case noStart => exact fun dt p o s h => congrArg Host.Outcome.next (trimStart_idle (by rwa [linkFree_elapse]))
  case starts =>
    intro dt p o s hfree hnext hend
    have hspec := trimStart_spec (s := elapse dt s) ((linkFree_elapse ..).trans hfree) hnext hend
    rw [elapse_now] at hspec
    exact ⟨_, rfl, hspec⟩
  case lost =>
    intro dt p h s hfree hnext
    have hspec := trimStart_requestCrc (s := elapse dt s) h ((linkFree_elapse ..).trans hfree) hnext
    rw [gGet_elapse, lnGet_elapse, lcGet_elapse] at hspec
    exact ⟨_, rfl, hspec⟩
  case noEnd => exact fun dt p c s h => congrArg Host.Outcome.next (trimEnd_idle c (by rwa [lnGet_elapse]))
  case applies =>
    intro dt p a b s h
    obtain ⟨inc, hline⟩ := trimEnd_applies (p := p) (s := elapse dt s) a b (by rwa [lnGet_elapse])
    rw [lnGet_elapse, gGet_elapse, cfgField_congr (s := s) (by simp)] at hline
    refine ⟨_, rfl, ?_⟩
    rw [hline]
    exact ⟨rfl, rfl, rfl, rfl, lookup_store_same .., lookup_store_ne _ _ (by decide) ..⟩
  case fails =>
    intro dt p s h
    obtain ⟨hline, halert⟩ := trimEnd_fails (p := p) (s := elapse dt s) (by rwa [lnGet_elapse])
    obtain ⟨since, inc, hfailed⟩ := trimFailed_spec p (elapse dt s)
    rw [lnGet_elapse] at hfailed
    refine ⟨_, rfl, ?_⟩
    rw [hline, hfailed]
    exact ⟨rfl, bitOf_or _ 7, rfl, (lookup_store_ne _ _ (by decide) ..).trans (lookup_store_same ..), lookup_store_same .., halert⟩

end
end

section

/-! ### Frames of the management port that write queue 224 (5.7, 11.6) -/

namespace Sys2Proof.Machine

/-! #### A frame that passes the frame checks (R653, R657, R658) -/

/-- A good frame with `n` data bytes has been taken up: it counts in FRAME_SEQ. -/
def frameTaken (n : Nat) (s : State) : State :=
  mpMap (fun m => { m with request := 5 + n, frameSeq := (m.frameSeq + 1) % 65536 }) s

/-- A served frame whose CRC, CNT and ARG are good performs its own act. -/
theorem mpFrame_served {op arg cnt : Nat} {data : List Byte} {s : State} (hserves : mpServes s = true) (hpos : 1 ≤ cnt)
    (hle : cnt ≤ 64) (hclean : argClean op arg = true) (act : State → State) :
    mpFrame op arg cnt data (crc8 ([byte op] ++ beBytes 2 arg ++ [byte cnt] ++ data)) act s = act (frameTaken data.length s) := by
  have hcnt : ¬(cnt = 0 ∨ 64 < cnt ∨ !(argClean op arg)) := by simp [hclean]; omega
  have hreset (n : Nat) : outOfReset (mpMap (fun m => { m with request := n }) s) = true := outOfReset_of_serves hserves
  have hready (n : Nat) : mpServes (mpMap (fun m => { m with frameSeq := (m.frameSeq + 1) % 65536 })
      (mpMap (fun m => { m with request := n }) s)) = true := hserves
  unfold mpFrame
  dsimp only
  rw [hreset, hready, if_neg (by simp), if_neg (by simp), if_neg (by simp), if_neg hcnt]
  rfl

/-! #### What words entering a queue and time passing leave of the port's own data -/

/-- The port's own data stand, but for the stamp of an injected record (R315). -/
def StampOnly (s t : State) : Prop := t.mp = { s.mp with stamp := t.mp.stamp }

theorem StampOnly.of_mp {s t : State} (h : t.mp = s.mp) : StampOnly s t := by
  unfold StampOnly; rw [h]

theorem StampOnly.trans {s t u : State} (h : StampOnly s t) (h' : StampOnly t u) : StampOnly s u := by
  unfold StampOnly at *; rw [h', h]

/-- The QWRITE that waits stands too. -/
theorem StampOnly.qwrite {s t : State} (h : StampOnly s t) : t.mp.qwrite = s.mp.qwrite := by rw [h]

section

variable (q : Nat)

/-- The START word of an injected record brings its stamp; no other word changes the port. -/
theorem stampOnly_enter (p : Producer) (w : QWord) (s : State) : StampOnly s (enter q p w s) := by
  unfold enter
  extract_lets _ _ _ stamped
  refine StampOnly.trans (t := stamped) ?_ (.of_mp (by simp))
  simp only [stamped]
  split
  · rfl
  · exact .of_mp rfl

theorem stampOnly_gapWrite (s : State) : StampOnly s (gapWrite q s) := by
  unfold gapWrite
  generalize (qGet q s).gap.words = l
  induction l generalizing s with
  | nil => exact .of_mp rfl
  | cons x l ih =>
    rw [List.foldl_cons]
    refine StampOnly.trans ?_ (ih _)
    dsimp only
    split
    · exact (stampOnly_enter q .gapReg ⟨.gap, x.2⟩ s).trans (.of_mp (by simp))
    · exact .of_mp rfl

theorem stampOnly_writeWord (p : Producer) (w : QWord) (s : State) : StampOnly s (writeWord q p w s) := by
  unfold writeWord
  split
  · split <;> exact .of_mp (by simp)
  · exact stampOnly_enter ..

theorem stampOnly_stall (s : State) : StampOnly s (stall q s) := by
  unfold stall
  split <;> exact .of_mp (by simp)

theorem stampOnly_writeNext (s : State) : StampOnly s (writeNext q s) := by
  unfold writeNext
  split
  · exact .of_mp rfl
  · refine (stampOnly_gapWrite q s).trans ?_
    unfold writeFor
    dsimp only
    split
    · exact .of_mp rfl
    · split
      · exact StampOnly.trans (.of_mp (by simp)) (stampOnly_writeWord ..)
      · exact stampOnly_stall ..

theorem stampOnly_writeMany (n : Nat) (s : State) : StampOnly s (writeMany q n s) := by
  induction n generalizing s with
  | zero => exact .of_mp rfl
  | succ n ih =>
    rw [writeMany]
    split
    · exact (stampOnly_writeNext q s).trans (ih _)
    · exact stampOnly_writeNext q s

theorem stampOnly_offer (p : Producer) (ws : List QWord) (s : State) : StampOnly s (offer q p ws s) :=
  StampOnly.trans (.of_mp (by simp)) (stampOnly_writeMany ..)

end

/-- An event log entry puts its notice into the event queue. -/
theorem stampOnly_logEvent (code sub idx : Nat) (d : List Nat) (s : State) : StampOnly s (logEvent code sub idx d s) := by
  have hpos : StampOnly s (logPos code sub idx d s) := .of_mp (by simp)
  unfold logEvent notice
  split
  · split
    · exact hpos.trans (stampOnly_offer ..)
    · exact hpos.trans (stampOnly_offer ..)
    · exact hpos
  · exact .of_mp rfl

theorem stampOnly_carry (s : State) : StampOnly s (carry s) := by
  unfold carry
  extract_lets sec a b
  refine StampOnly.trans (t := b) ?_ (.of_mp (by simp))
  simp only [b]
  split
  · exact StampOnly.trans (t := a) (.of_mp rfl) (stampOnly_logEvent 4 1 _ _ a)
  · exact .of_mp rfl

theorem stampOnly_runTo (due : Nat) (s : State) : StampOnly s (runTo due s) :=
  runTo_invariant (fun x a h => h.trans (.of_mp (by simp))) (fun a h => h.trans (.of_mp (by simp)))
    (fun a h => h.trans (stampOnly_carry a)) due (.of_mp rfl)

/-- The passing of time leaves the QWRITE that waits. -/
@[simp] theorem elapse_qwrite (dt : Nat) (s : State) : (elapse dt s).mp.qwrite = s.mp.qwrite :=
  (stampOnly_runTo (s.now + dt) s).qwrite

/-! #### The check of a frame's order (R313, R316, R679) -/

/-- Whether a START word may be injected depends on the variant alone. -/
theorem injectStart_congr {s t : State} (h : t.variant = s.variant) (w : Word) : injectStart t w = injectStart s w := by
  simp [injectStart, talkerOk, h]

theorem qwCheck_congr {s t : State} (h : t.variant = s.variant) (ws : List (Nat × Word)) (opened own : Bool) (pos len : Nat) :
    qwCheck t opened own pos len ws = qwCheck s opened own pos len ws := by
  induction ws generalizing opened own pos len with
  | nil => rfl
  | cons e r ih => simp only [qwCheck, ih, injectStart_congr h]

/-! #### Words outside queue 224 -/

theorem qwOutside_congr {s t : State} (h : qGet 224 t = qGet 224 s) : qwOutside t = qwOutside s := by
  simp [qwOutside, outside, h]

@[simp] theorem qwOutside_elapse (dt : Nat) (s : State) : qwOutside (elapse dt s) = qwOutside s :=
  qwOutside_congr (qGet_elapse (by decide) dt s)

@[simp] theorem qwOutside_runTo (due : Nat) (s : State) : qwOutside (runTo due s) = qwOutside s :=
  qwOutside_congr (qGet_runTo (by decide) due s)

/-- The words of the management port that are still outside queue 224 are dropped (R680, R681). -/
def dropOutside (s : State) : State := qMap 224 (fun c => { c with wait := c.wait.filter fun e => e.1 != .mp }) s

@[simp] theorem qwOutside_dropOutside (s : State) : qwOutside (dropOutside s) = 0 := by
  simp [qwOutside, outside, dropOutside, List.filter_filter]

/-! #### The ends of a QWRITE (R680, R681) -/

/-- A QWRITE that ends with a status reports the words that entered, and leaves none outside. -/
theorem qwriteEnd_spec (n status : Nat) (s : State) : (qwriteEnd n status s).mp.qwrite = none ∧
    (qwriteEnd n status s).mp.lastOp = 0xA4 ∧ (qwriteEnd n status s).mp.lastStatus = status ∧
    (qwriteEnd n status s).mp.lastDone = n - qwOutside s ∧ (qwriteEnd n status s).now = s.now ∧
    qwOutside (qwriteEnd n status s) = 0 :=
  ⟨rfl, rfl, rfl, rfl, rfl, qwOutside_dropOutside s⟩

section

variable {n b : Nat} {s : State}

theorem qwriteDone_idle (h : s.mp.qwrite = none) : qwriteDone s = s := by
  simp [qwriteDone, h]

/-- With every word inside, the wait ends with OK. -/
theorem qwriteDone_entered (h : s.mp.qwrite = some (n, b)) (hin : qwOutside s = 0) : qwriteDone s = qwriteEnd n 0 s := by
  simp [qwriteDone, h, hin]

/-- With a word still outside, the wait ends at its bound with FULL_TIMEOUT. -/
theorem qwriteDone_timeout (h : s.mp.qwrite = some (n, b)) (hout : 0 < qwOutside s) :
    qwriteDone s = qwriteEnd n 5 (runTo b s) := by
  simp [qwriteDone, h, hout.ne']

theorem qwriteCsRise_idle (h : s.mp.qwrite = none) : qwriteCsRise s = s := by
  simp [qwriteCsRise, h]

/-- A rise of MP_CS_N ends the wait: the words that entered are reported, and none is left outside. -/
theorem qwriteCsRise_spec (h : s.mp.qwrite = some (n, b)) : (qwriteCsRise s).mp.qwrite = none ∧
    (qwriteCsRise s).mp.lastDone = n - qwOutside s ∧ qwOutside (qwriteCsRise s) = 0 ∧ (qwriteCsRise s).now = s.now := by
  have hrise : qwriteCsRise s = openStatus 0xA4 224 (n - qwOutside s) (mpMap (fun m => { m with qwrite := none }) (dropOutside s)) := by
    simp only [qwriteCsRise, h]
    rfl
  rw [hrise]
  exact ⟨rfl, rfl, qwOutside_dropOutside s, rfl⟩

end

/-! #### The frame itself (R678 to R680) -/

/-- The words of a frame have been offered to queue 224: the QWRITE of `n` words ends with OK, or waits for those outside. -/
def qwriteOffered (n : Nat) (s : State) : State :=
  if qwOutside s = 0 then qwriteEnd n 0 s
  else mpMap (fun m => { m with qwrite := some (n, s.now + cyclesUs (get QU.WAIT_US 224 s)), reply := [] }) s

/-- A QWRITE that no longer waits answered OK with every word entered; one that waits has a word outside. -/
theorem qwriteOffered_spec (n : Nat) (s : State) :
    if (qwriteOffered n s).mp.qwrite = none then
      (qwriteOffered n s).mp.lastStatus = 0 ∧ (qwriteOffered n s).mp.lastOp = 0xA4 ∧ (qwriteOffered n s).mp.lastDone = n
    else (qwriteOffered n s).mp.qwrite = some (n, s.now + cyclesUs (get QU.WAIT_US 224 s)) ∧ 0 < qwOutside (qwriteOffered n s) := by
  by_cases hin : qwOutside s = 0
  · obtain ⟨hnone, hop, hstatus, hdone, -, -⟩ := qwriteEnd_spec n 0 s
    rw [hin, Nat.sub_zero] at hdone
    rw [qwriteOffered, if_pos hin, if_pos hnone]
    exact ⟨hstatus, hop, hdone⟩
  · rw [qwriteOffered, if_neg hin, if_neg (by simp [mpMap])]
    exact ⟨rfl, Nat.pos_of_ne_zero hin⟩

/-- The words of a frame as queue 224 takes them. -/
def injectedWords (ws : List (Nat × Word)) : List QWord := ws.map fun w => ⟨Tag.ofCode w.1, w.2⟩

/-- The data bytes of a frame: the tag byte of each word, and the word (R678). -/
def taggedBytes (ws : List (Nat × Word)) : List Byte := ws.flatMap fun w => byte w.1 :: wordBytes w.2

/-- Every variant has queue 224. -/
@[simp] theorem queueOk_inject (s : State) : queueOk s 224 = true := by
  cases h : s.variant <;> simp [queueOk, h, Config.queuePresent]

section

variable {ws : List (Nat × Word)} {s : State} (hopen : (qGet 224 s).openBy = none)

include hopen

theorem mpQwrite_bad (hbad : qwCheck s false false (qGet 224 s).openWords (qGet 224 s).openLen ws = .bad) :
    mpQwrite 224 ws s = mpRefuse 0xA4 224 ws.length 1 s := by
  simp [mpQwrite, hopen, hbad]

theorem mpQwrite_ok (hok : qwCheck s false false (qGet 224 s).openWords (qGet 224 s).openLen ws = .ok) :
    mpQwrite 224 ws s = qwriteOffered ws.length (offer 224 .mp (injectedWords ws) s) := by
  simp [mpQwrite, qwriteOffered, injectedWords, hopen, hok]

end

/-- Words are offered in the CORE cycle in which their frame was taken up. -/
theorem offerTaken_now (n dt : Nat) (l : List QWord) (s : State) :
    (offer 224 .mp l (frameTaken n (elapse dt s))).now = s.now + dt := by
  simp [frameTaken]

/-- The bound of a wait is that of the state before the frame. -/
theorem get_waitUs_offerTaken (n dt : Nat) (l : List QWord) (s : State) :
    get QU.WAIT_US 224 (offer 224 .mp l (frameTaken n (elapse dt s))) = get QU.WAIT_US 224 s :=
  (get_offer (by decide) ..).trans (get_elapse (by decide) dt s)

/-- Taking up a frame leaves queue 224. -/
theorem qGet_frameTaken (n dt : Nat) (s : State) : qGet 224 (frameTaken n (elapse dt s)) = qGet 224 s :=
  qGet_elapse (by decide) dt s

theorem qwCheck_frameTaken (n : Nat) (s : State) : qwCheck (frameTaken n s) = qwCheck s := by
  funext opened own pos len ws
  exact qwCheck_congr (by simp [frameTaken]) ws opened own pos len

section

variable {dt : Nat} {ws : List (Nat × Word)} {s : State} (hserves : mpServes s = true) (hpos : 1 ≤ ws.length) (hle : ws.length ≤ 64)

include hserves hpos hle

/-- A QWRITE frame of queue 224 that passes the frame checks performs its act. -/
theorem execQwrite_served : exec (.qwrite dt 224 ws (crc8 ([byte 0xA4] ++ beBytes 2 224 ++ [byte ws.length] ++ taggedBytes ws))) s =
    .next (mpQwrite 224 ws (frameTaken (taggedBytes ws).length (elapse dt s))) :=
  congrArg Host.Outcome.next (mpFrame_served ((mpServes_elapse dt s).trans hserves) hpos hle (by decide) _)

variable (hopen : (qGet 224 s).openBy = none)

include hopen

/-- A frame in good order is offered to queue 224, and ends or waits (R679, R680). -/
theorem execQwrite_ok
    (hok : qwCheck (elapse dt s) false false (qGet 224 s).openWords (qGet 224 s).openLen ws = .ok) :
    exec (.qwrite dt 224 ws (crc8 ([byte 0xA4] ++ beBytes 2 224 ++ [byte ws.length] ++ taggedBytes ws))) s =
      .next (qwriteOffered ws.length (offer 224 .mp (injectedWords ws) (frameTaken (taggedBytes ws).length (elapse dt s)))) := by
  rw [execQwrite_served hserves hpos hle, mpQwrite_ok (by rw [qGet_frameTaken, hopen])]
  rwa [qGet_frameTaken, qwCheck_frameTaken]

/-- A frame out of order is refused, and changes the port alone (R313, R679). -/
theorem execQwrite_bad
    (hbad : qwCheck (elapse dt s) false false (qGet 224 s).openWords (qGet 224 s).openLen ws = .bad) :
    exec (.qwrite dt 224 ws (crc8 ([byte 0xA4] ++ beBytes 2 224 ++ [byte ws.length] ++ taggedBytes ws))) s =
      .next (mpRefuse 0xA4 224 ws.length 1 (frameTaken (taggedBytes ws).length (elapse dt s))) := by
  rw [execQwrite_served hserves hpos hle, mpQwrite_bad (by rw [qGet_frameTaken, hopen])]
  rwa [qGet_frameTaken, qwCheck_frameTaken]

end

end Sys2Proof.Machine

section

open Sys2Proof Sys2Proof.Machine

/-- Settles O37, clause by clause: a frame in good order, and one out of order; the end of the wait with every word inside, and with
words outside; a rise of MP_CS_N; and nothing waiting. -/
theorem queueWritesInject : Obligations.QueueWritesInject := by
  unfold Obligations.QueueWritesInject
  refine ⟨?accepted, ?refused, ?entered, ?timeout, ?csRise, ?idle⟩
  case accepted =>
    intro dt ws s hserves hpos hle hopen hok
    have hspec := qwriteOffered_spec ws.length (offer 224 .mp (injectedWords ws) (frameTaken (taggedBytes ws).length (elapse dt s)))
    rw [offerTaken_now, get_waitUs_offerTaken] at hspec
    exact ⟨_, execQwrite_ok hserves hpos hle hopen hok, hspec⟩
  case refused =>
    intro dt ws s hserves hpos hle hopen hbad
    exact ⟨_, execQwrite_bad hserves hpos hle hopen hbad, rfl, rfl, rfl⟩
  case entered =>
    intro dt n b s hwaits hin
    obtain ⟨hnone, -, hstatus, hdone, hnow, -⟩ := qwriteEnd_spec n 0 (elapse dt s)
    rw [qwOutside_elapse, hin, Nat.sub_zero] at hdone
    rw [elapse_now] at hnow
    have hends : qwriteDone (elapse dt s) = qwriteEnd n 0 (elapse dt s) := qwriteDone_entered (by simpa) (by simpa)
    exact ⟨_, congrArg Host.Outcome.next hends, hstatus, hdone, hnone, hnow⟩
  case timeout =>
    intro dt n b s hwaits hout
    obtain ⟨hnone, -, hstatus, hdone, hnow, hleft⟩ := qwriteEnd_spec n 5 (runTo b (elapse dt s))
    rw [qwOutside_runTo, qwOutside_elapse] at hdone
    rw [runTo_now, elapse_now] at hnow
    have hends : qwriteDone (elapse dt s) = qwriteEnd n 5 (runTo b (elapse dt s)) := qwriteDone_timeout (by simpa) (by simpa)
    exact ⟨_, congrArg Host.Outcome.next hends, hstatus, hdone, hnone, hnow, hleft⟩
  case csRise =>
    intro dt n b s hwaits
    have hspec := qwriteCsRise_spec (s := elapse dt s) (n := n) (b := b) (by simpa)
    rw [qwOutside_elapse, elapse_now] at hspec
    exact ⟨_, rfl, hspec⟩
  case idle =>
    intro dt s hidle
    have hidle' : (elapse dt s).mp.qwrite = none := by simpa
    exact ⟨congrArg Host.Outcome.next (qwriteDone_idle hidle'), congrArg Host.Outcome.next (qwriteCsRise_idle hidle')⟩

end
end

section

/-! ### The card ports: their registers and their engines (chapter 6) -/

open Sys2Proof.Safety

namespace Sys2Proof.Machine

/-! #### Where a card's fields stand

The conditions of these lemmas are about closed descriptors, so `simp (disch := decide)` settles them. -/

/-- Another field of the same entry. -/
abbrev Fld.beside (g f : Fld) : Prop := g.space = f.space ∧ g.stride = f.stride ∧ g.word * 32 + g.lo ≠ f.word * 32 + f.lo

/-- A field of the direct map. -/
abbrev Fld.direct (f : Fld) : Prop := f.key 0 < 33554432

/-- A field of the CARD space. -/
abbrev Fld.ofCard (f : Fld) : Prop := f.space = 13

section

variable {f g q : Fld}

theorem Fld.ofCard.ne_direct (hg : g.ofCard) (hf : f.direct) (i : Nat) : g.key i ≠ f.key 0 :=
  (direct_ne_indexed hf (by rw [hg]; decide)).symm

theorem Fld.ofCard.not_timeKeys (hg : g.ofCard) (i : Nat) : g.key i ∉ timeKeys :=
  Machine.not_timeKeys (.inr (.inr (by unfold Fld.key; rw [hg]; omega)))

theorem key_not_mem {l : List Fld} (h : ∀ f ∈ l, g.beside f) (n : Nat) : g.key n ∉ l.map fun f => f.key n := by
  intro hm
  obtain ⟨f, hf, hkey⟩ := List.mem_map.mp hm
  exact port_key_ne n (h f hf) hkey.symm

theorem direct_key_not_mem {l : List Fld} (hg : g.direct) (h : ∀ f ∈ l, f.ofCard) (n : Nat) : g.key 0 ∉ l.map fun f => f.key n := by
  intro hm
  obtain ⟨f, hf, hkey⟩ := List.mem_map.mp hm
  exact (h f hf).ne_direct hg n hkey

@[simp] theorem get_put_beside (h : g.beside f) (n v : Nat) (s : State) : get g n (put f n v s) = get g n s :=
  get_put_ne (port_key_ne n h) v s

@[simp] theorem get_put_fits {v : Nat} (h : v < 2 ^ f.width) (i : Nat) (s : State) : get f i (put f i v s) = v :=
  (get_put_same f i v s).trans (Nat.mod_eq_of_lt h)

@[simp] theorem get_putSw_beside (h : g.beside f) (n v : Nat) (s : State) : get g n (putSw f n v s) = get g n s :=
  get_putSw_ne (port_key_ne n h) v s

@[simp] theorem get_putHw_beside (h : g.beside f) (n v : Nat) (s : State) : get g n (putHw f n v s) = get g n s :=
  get_putHw_ne (port_key_ne n h) v s

@[simp] theorem get_bump_beside (h : g.beside f) (n : Nat) (s : State) : get g n (bump f n s) = get g n s :=
  get_bump_ne (port_key_ne n h) s

@[simp] theorem get_put_direct (hg : g.ofCard) (hf : f.direct) (i v : Nat) (s : State) : get g i (put f 0 v s) = get g i s :=
  get_put_ne (hg.ne_direct hf i) v s

@[simp] theorem get_putHw_direct (hg : g.ofCard) (hf : f.direct) (i v : Nat) (s : State) : get g i (putHw f 0 v s) = get g i s :=
  get_putHw_ne (hg.ne_direct hf i) v s

@[simp] theorem get_direct_put (hg : g.direct) (hf : f.ofCard) (i v : Nat) (s : State) : get g 0 (put f i v s) = get g 0 s :=
  get_put_ne (hf.ne_direct hg i).symm v s

@[simp] theorem get_direct_bump (hg : g.direct) (hf : f.ofCard) (i : Nat) (s : State) : get g 0 (bump f i s) = get g 0 s :=
  get_bump_ne (hf.ne_direct hg i).symm s

@[simp] theorem get_raise_beside (hg : g.ofCard) (hq : q.direct) (h : g.beside f) (n : Nat) (s : State) :
    get g n (raise q f n s) = get g n s :=
  get_raise_ne (hg.ne_direct hq n) (port_key_ne n h) s

@[simp] theorem get_direct_raise (hg : g.direct) (hf : f.ofCard) (hq : g.key 0 ≠ q.key 0) (n : Nat) (s : State) :
    get g 0 (raise q f n s) = get g 0 s :=
  get_raise_ne hq (hf.ne_direct hg n).symm s

/-- An event of a card shows in its source bit and in its bit of IRQ_STATUS. -/
theorem get_raise_card (hf : f.ofCard ∧ f.width = 1) (hq : q.direct ∧ q.width = 1) (n : Nat) (s : State) :
    get f n (raise q f n s) = 1 ∧ get q 0 (raise q f n s) = 1 :=
  get_raise_one hq.2 hf.2 (hf.1.ne_direct hq.1 n) s

@[simp] theorem get_elapse_card (hg : g.ofCard) (i dt : Nat) (s : State) : get g i (elapse dt s) = get g i s :=
  get_elapse (hg.not_timeKeys i) dt s

@[simp] theorem get_runTo_card (hg : g.ofCard) (i due : Nat) (s : State) : get g i (runTo due s) = get g i s :=
  get_runTo (hg.not_timeKeys i) due s

@[simp] theorem get_logEvent_card (hg : g.ofCard) (i code sub idx : Nat) (d : List Nat) (s : State) :
    get g i (logEvent code sub idx d s) = get g i s := get_logEvent (hg.not_timeKeys i) ..

@[simp] theorem get_endJob (g : Fld) (i id : Nat) (s : State) : get g i (endJob id s) = get g i s := rfl
@[simp] theorem get_meetJob (g : Fld) (i id : Nat) (s : State) : get g i (meetJob id s) = get g i s := rfl
@[simp] theorem get_cMap (g : Fld) (i n : Nat) (u : Card → Card) (s : State) : get g i (cMap n u s) = get g i s := rfl

end

/-! #### The engine of a card port, and what its rules read -/

section

variable (n : Nat) (s : State)

theorem cGet_congr {s t : State} (h : t.cards = s.cards) (n : Nat) : cGet n t = cGet n s := by rw [cGet, h, cGet]

@[simp] theorem cGet_elapse (dt : Nat) : cGet n (elapse dt s) = cGet n s := cGet_congr (by simp) n
@[simp] theorem cGet_runTo (due : Nat) : cGet n (runTo due s) = cGet n s := cGet_congr (by simp) n
@[simp] theorem cGet_logEvent (code sub idx : Nat) (d : List Nat) : cGet n (logEvent code sub idx d s) = cGet n s := cGet_congr (by simp) n
@[simp] theorem cGet_put (f : Fld) (i v : Nat) : cGet n (put f i v s) = cGet n s := rfl
@[simp] theorem cGet_putSw (f : Fld) (i v : Nat) : cGet n (putSw f i v s) = cGet n s := rfl
@[simp] theorem cGet_putHw (f : Fld) (i v : Nat) : cGet n (putHw f i v s) = cGet n s := cGet_congr (by simp) n
@[simp] theorem cGet_bump (f : Fld) (i : Nat) : cGet n (bump f i s) = cGet n s := rfl
@[simp] theorem cGet_endJob (id : Nat) : cGet n (endJob id s) = cGet n s := rfl
@[simp] theorem cGet_meetJob (id : Nat) : cGet n (meetJob id s) = cGet n s := rfl
@[simp] theorem cGet_raise (q f : Fld) (i : Nat) : cGet n (raise q f i s) = cGet n s := rfl

@[simp] theorem cardState_cMap (u : Card → Card) : cardState n (cMap n u s) = cardState n s := rfl
@[simp] theorem cardState_elapse (dt : Nat) : cardState n (elapse dt s) = cardState n s := get_elapse_card rfl ..
@[simp] theorem cardState_runTo (due : Nat) : cardState n (runTo due s) = cardState n s := get_runTo_card rfl ..
@[simp] theorem cardState_put {v : Nat} (h : v < 16) : cardState n (put CD.STATE n v s) = v := get_put_fits h ..

@[simp] theorem cardState_logEvent (code sub idx : Nat) (d : List Nat) : cardState n (logEvent code sub idx d s) = cardState n s :=
  get_logEvent_card rfl ..
@[simp] theorem cardState_put_beside {f : Fld} (h : CD.STATE.beside f) (v : Nat) : cardState n (put f n v s) = cardState n s :=
  get_put_beside h ..
@[simp] theorem cardState_putSw {f : Fld} (h : CD.STATE.beside f) (v : Nat) : cardState n (putSw f n v s) = cardState n s :=
  get_putSw_beside h ..
@[simp] theorem cardState_bump {f : Fld} (h : CD.STATE.beside f) : cardState n (bump f n s) = cardState n s := get_bump_beside h ..
@[simp] theorem cardState_raise {q f : Fld} (hq : q.direct) (h : CD.STATE.beside f) : cardState n (raise q f n s) = cardState n s :=
  get_raise_beside rfl hq h ..

@[simp] theorem cardOk_elapse (dt : Nat) : cardOk (elapse dt s) n = cardOk s n := by simp [cardOk]

theorem cardPresent_congr {s t : State} (hcard : (cGet n t).det = (cGet n s).det) (hpol : get CD.DET_POL n t = get CD.DET_POL n s) :
    cardPresent n t = cardPresent n s := by rw [cardPresent, hcard, flag, hpol]; rfl

@[simp] theorem cardPresent_elapse (dt : Nat) : cardPresent n (elapse dt s) = cardPresent n s :=
  cardPresent_congr n (by simp) (by simp (disch := decide))
@[simp] theorem cardPresent_runTo (due : Nat) : cardPresent n (runTo due s) = cardPresent n s :=
  cardPresent_congr n (by simp) (by simp (disch := decide))

theorem cardEn_congr {s t : State} (h : ∀ f ∈ [RG.CP0_EN, RG.CP1_EN], get f 0 t = get f 0 s) : cardEn n t = cardEn n s := by
  simp only [cardEn, flag, h RG.CP0_EN (by simp), h RG.CP1_EN (by simp)]

theorem cpEn_not_timeKeys {f : Fld} (h : f ∈ [RG.CP0_EN, RG.CP1_EN]) : f.key 0 ∉ timeKeys := by
  revert f; decide

@[simp] theorem cardEn_elapse (dt : Nat) : cardEn n (elapse dt s) = cardEn n s :=
  cardEn_congr n fun _ hf => get_elapse (cpEn_not_timeKeys hf) dt s
@[simp] theorem cardEn_runTo (due : Nat) : cardEn n (runTo due s) = cardEn n s :=
  cardEn_congr n fun _ hf => get_runTo (cpEn_not_timeKeys hf) due s
@[simp] theorem cardEn_cMap (u : Card → Card) : cardEn n (cMap n u s) = cardEn n s := rfl

theorem cardClock_congr {s t : State} (h : get CD.CLK_SEL n t = get CD.CLK_SEL n s) : cardClock n t = cardClock n s := by
  rw [cardClock, flag, h]; rfl
@[simp] theorem cardClock_runTo (due : Nat) : cardClock n (runTo due s) = cardClock n s :=
  cardClock_congr n (by simp (disch := decide))

theorem halfE_congr {s t : State} (k : Nat) (hclk : get CD.CLK_SEL n t = get CD.CLK_SEL n s) (hfd : get CD.FD n t = get CD.FD n s) :
    halfE k n t = halfE k n s := by
  unfold halfE cardE flag
  rw [hclk, hfd]
@[simp] theorem halfE_elapse (k dt : Nat) : halfE k n (elapse dt s) = halfE k n s :=
  halfE_congr n k (get_elapse_card rfl ..) (get_elapse_card rfl ..)
@[simp] theorem halfE_runTo (k due : Nat) : halfE k n (runTo due s) = halfE k n s :=
  halfE_congr n k (get_runTo_card rfl ..) (get_runTo_card rfl ..)
@[simp] theorem halfE_cMap (k : Nat) (u : Card → Card) : halfE k n (cMap n u s) = halfE k n s := rfl

end

/-! #### Activation and deactivation (R351 to R353) -/

section

variable {n : Nat} {s : State}

/-- Activation begins: step 1 of Table 6-2. -/
theorem activate_spec (n : Nat) (s : State) : cardState n (activate n s) = 2 ∧ (cGet n (activate n s)).actStep = 0 ∧
    (cGet n (activate n s)).due = s.now + cyclesUs (get CD.PWR_SETTLE_US n s) ∧
    (cGet n (activate n s)).inserted = (cGet n s).inserted ∧ (cGet n (activate n s)).debounceEnd = (cGet n s).debounceEnd := by
  simp (disch := decide) [activate]

/-- Where the fields are that an activation sets. -/
def activationKeys (n : Nat) : List Nat := [CD.STATE, CD.CONV, CD.FD, CD.WI, CD.GUARD_N].map fun f => f.key n

theorem get_activate {g : Fld} {i : Nat} (h : g.key i ∉ activationKeys n) : get g i (activate n s) = get g i s := by
  simp only [activationKeys, List.map_cons, List.map_nil, List.mem_cons, List.not_mem_nil, or_false, not_or] at h
  obtain ⟨hstate, hconv, hfd, hwi, hguard⟩ := h
  simp only [activate, get_cMap]
  rw [get_put_ne hstate, get_put_ne hconv, get_put_ne hfd, get_put_ne hwi, get_put_ne hguard]

/-- The engine of a card as a deactivation begins that ends at `due`. -/
def Card.deactivating (endState : Nat) (again : Bool) (due : Nat) (c : Card) : Card :=
  { c with script := .none, got := [], due := due, endState := endState, again := again, txBytes := [], errEdge := none, burst := 0 }

/-- Without a script an abort does nothing that shows. -/
theorem abortScript_none (h : (cGet n s).script = .none) :
    abortScript n s = cMap n (fun c => { c with script := .none, got := [] }) s := by simp only [abortScript, h]

@[simp] theorem cardActive_cMap (u : Card → Card) : cardActive n (cMap n u s) = cardActive n s := rfl

theorem cardActive_iff : cardActive n s = true ↔ 2 ≤ cardState n s ∧ cardState n s ≤ 6 := by simp [cardActive]

/-- A deactivation has begun between two states (Table 6-3). -/
structure Deactivated (n endState : Nat) (again : Bool) (s t : State) : Prop where
  state : cardState n t = 7
  card : cGet n t = (cGet n s).deactivating endState again (s.now + cyclesUs 103)
  kept : ∀ g i, g.key i ≠ CD.STATE.key n → get g i t = get g i s
  clk : t.clk = s.clk

theorem deactivate_active (endState : Nat) (again : Bool) (hscript : (cGet n s).script = .none) (hactive : cardActive n s = true) :
    Deactivated n endState again s (deactivate n endState again s) := by
  rw [deactivate, abortScript_none hscript, if_pos (by rwa [cardActive_cMap])]
  refine ⟨cardState_put _ _ (by decide), by simp [Card.deactivating], fun g i h => ?_, by simp⟩
  rw [get_put_ne h, get_cMap, get_cMap]

/-- A card that is not active keeps its state; one that is going down anyway learns where to. -/
theorem deactivate_inactive (endState : Nat) (again : Bool) (hscript : (cGet n s).script = .none) (hactive : cardActive n s = false) :
    (∃ e a, cGet n (deactivate n endState again s) = { (cGet n s) with script := .none, got := [], endState := e, again := a }) ∧
    ∀ g i, get g i (deactivate n endState again s) = get g i s := by
  rw [deactivate, abortScript_none hscript, if_neg (by simp [hactive])]
  split
  · exact ⟨⟨endState, again, by simp⟩, fun g i => by rw [get_cMap, get_cMap]⟩
  · exact ⟨⟨(cGet n s).endState, (cGet n s).again, by simp⟩, fun g i => by rw [get_cMap]⟩

/-- ATR_FAIL of a card that is being activated (R351, R365). -/
structure AtrFailed (n : Nat) (s t : State) : Prop where
  now : t.now = s.now
  state : cardState n t = 7
  endState : (cGet n t).endState = 9
  due : (cGet n t).due = s.now + cyclesUs 103
  event : get CD.EV_ATR_FAIL n t = 1
  count : get CD.ATR_FAIL_CNT n t = min (get CD.ATR_FAIL_CNT n s + 1) (2 ^ CD.ATR_FAIL_CNT.width - 1)

theorem atrFailed_spec (hscript : (cGet n s).script = .none) (hstate : cardState n s = 2) : AtrFailed n s (atrFailed n s) := by
  have hstate' : cardState n (bump CD.ATR_FAIL_CNT n (raise RG.IRQ_CARD CD.EV_ATR_FAIL n s)) = 2 := by
    simp (disch := decide) [hstate]
  obtain ⟨hseven, hcard, hkept, -⟩ := deactivate_active (n := n) (s := bump CD.ATR_FAIL_CNT n (raise RG.IRQ_CARD CD.EV_ATR_FAIL n s))
    9 false hscript (cardActive_iff.mpr (by omega))
  refine ⟨by simp [atrFailed], hseven, by rw [atrFailed, hcard]; rfl, by rw [atrFailed, hcard]; rfl, ?_, ?_⟩
  · refine (hkept _ _ (port_key_ne n)).trans ((get_bump_beside (by decide) n _).trans (get_raise_card (by decide) (by decide) n s).1)
  · refine (hkept _ _ (port_key_ne n)).trans ((get_bump_same ..).trans ?_)
    rw [get_raise_beside (by decide) (by decide) (by decide)]
    rfl

end

/-! #### The end of an exchange (R379, R384) -/

section

variable {n : Nat} {s : State}

theorem cxResult_code_lt (r : CxResult) : r.code < 2 ^ CD.CX_RESULT.width := by cases r <;> decide

/-- Where the fields are that an exchange's result sets. -/
def exchangeKeys (n : Nat) : List Nat :=
  RG.IRQ_CARD.key 0 :: [CD.CX_RESULT, CD.SW1, CD.SW2, CD.CX_CNT, CD.EV_CX_DONE].map fun f => f.key n

theorem get_exchangeResult {g : Fld} {i : Nat} (h : g.key i ∉ exchangeKeys n) (r : CxResult) (s : State) :
    get g i (exchangeResult n r s) = get g i s := by
  simp only [exchangeKeys, List.map_cons, List.map_nil, List.mem_cons, List.not_mem_nil, or_false, not_or] at h
  obtain ⟨hirq, hresult, hsw1, hsw2, hcount, hdone⟩ := h
  rw [exchangeResult, get_raise_ne hirq hdone, get_bump_ne hcount, get_put_ne hresult, get_put_ne hsw1, get_put_ne hsw2]

/-- CX_RESULT and its event. -/
theorem exchangeResult_shows (n : Nat) (r : CxResult) (s : State) :
    get CD.CX_RESULT n (exchangeResult n r s) = r.code ∧ get CD.EV_CX_DONE n (exchangeResult n r s) = 1 := by
  refine ⟨?_, (get_raise_card (by decide) (by decide) n _).1⟩
  rw [exchangeResult, get_raise_beside (by decide) (by decide) (by decide), get_bump_beside (by decide), get_put_fits (cxResult_code_lt r)]

@[simp] theorem cGet_exchangeResult (r : CxResult) : cGet n (exchangeResult n r s) = cGet n s := by simp [exchangeResult]

@[simp] theorem get_exchangeRecord (g : Fld) (i : Nat) (r : CxResult) : get g i (exchangeRecord n r s) = get g i s := get_cMap ..

/-- A card's field is none of those of an exchange's result. -/
theorem not_exchangeKeys {g : Fld} (hg : g.ofCard) (h : ∀ f ∈ [CD.CX_RESULT, CD.SW1, CD.SW2, CD.CX_CNT, CD.EV_CX_DONE], g.beside f) :
    g.key n ∉ exchangeKeys n := by
  rw [exchangeKeys, List.mem_cons, not_or]
  exact ⟨hg.ne_direct (by decide) n, key_not_mem h n⟩

/-- An exchange has ended between two states: its job has, its result stands, and nothing is left to send or to receive. -/
structure ExchangeEnded (n : Nat) (r : CxResult) (s t : State) : Prop where
  result : get CD.CX_RESULT n t = r.code
  event : get CD.EV_CX_DONE n t = 1
  kept : ∀ g i, g.key i ∉ exchangeKeys n → get g i t = get g i s
  card : ∃ recs goRec, cGet n t = { cGet n s with recs := recs, job := none, goRec := goRec, txBytes := [], burst := 0 }

theorem exchangeDone_spec (n : Nat) (r : CxResult) (s : State) : ExchangeEnded n r s (exchangeDone n r s) := by
  obtain ⟨hresult, hevent⟩ := exchangeResult_shows n r (exchangeRecord n r s)
  have hshown : ∀ g i, get g i (exchangeDone n r s) = get g i (exchangeResult n r (exchangeRecord n r s)) := by
    intro g i
    unfold exchangeDone
    dsimp only
    split <;> simp
  refine ⟨(hshown ..).trans hresult, (hshown ..).trans hevent, fun g i h => (hshown ..).trans (get_exchangeResult h ..), ?_⟩
  refine ⟨(cGet n (exchangeRecord n r s)).recs, some (cGet n s).recs.length, ?_⟩
  unfold exchangeDone
  dsimp only
  split <;> simp [exchangeRecord, cardRecord]

/-- An exchange has failed between two states, and the card is going down (R353, R377). -/
structure ExchangeFailed (n : Nat) (r : CxResult) (endState : Nat) (s t : State) : Prop where
  result : get CD.CX_RESULT n t = r.code
  event : get CD.EV_CX_DONE n t = 1
  state : cardState n t = 7
  endState : (cGet n t).endState = endState
  inserted : (cGet n t).inserted = (cGet n s).inserted
  present : cardPresent n t = cardPresent n s

theorem endExchange_failed {r : CxResult} (endState : Nat) (again : Bool) (hscript : (cGet n s).script = .none)
    (hactive : cardActive n s = true) (hbad : r.good = false) : ExchangeFailed n r endState s (endExchange n r endState again s) := by
  obtain ⟨hresult, hevent, hkept, recs, goRec, hcard⟩ := exchangeDone_spec n r s
  have hstate : cardState n (exchangeDone n r s) = cardState n s := hkept _ _ (not_exchangeKeys rfl (by decide))
  have hpol := hkept CD.DET_POL n (not_exchangeKeys rfl (by decide))
  rw [cardActive_iff] at hactive
  obtain ⟨hseven, hdown, hkept', -⟩ := deactivate_active (n := n) (s := exchangeDone n r s) endState again (by rw [hcard]; exact hscript)
    (cardActive_iff.mpr (by rwa [hstate]))
  have hcard' : cGet n (deactivate n endState again (exchangeDone n r s)) = _ := hdown.trans (by rw [hcard])
  have hend : endExchange n r endState again s = deactivate n endState again (exchangeDone n r s) := by simp [endExchange, hbad]
  rw [hend]
  refine ⟨(hkept' _ _ (port_key_ne n)).trans hresult, (hkept' _ _ (port_key_ne n)).trans hevent, hseven, ?_, ?_, ?_⟩
  · rw [hcard', Card.deactivating]
  · rw [hcard', Card.deactivating]
  · exact cardPresent_congr n (by rw [hcard', Card.deactivating]) ((hkept' _ _ (port_key_ne n)).trans hpol)

end
end Sys2Proof.Machine
end

section

/-! ### Cards are detected, activated and removed (6.2) -/

namespace Sys2Proof.Machine

section

variable {n : Nat} {s : State}

/-! #### Detection (R350) -/

theorem cardPresent_det (n : Nat) (s : State) (b : Bool) :
    cardPresent n (cMap n (fun c => { c with det := some b }) s) = (b == flag CD.DET_POL n s) := by
  simp [cardPresent, flag]

theorem detPresent_spec (n : Nat) (s : State) : (cGet n (detPresent n s)).det = (cGet n s).det ∧
    get CD.DET_POL n (detPresent n s) = get CD.DET_POL n s ∧
    (cGet n (detPresent n s)).debounceEnd = some (s.now + cyclesMs (get CD.DET_DEB_MS n s)) ∧
    cardState n (detPresent n s) = (if cardState n s = 0 then 1 else cardState n s) ∧
    detPresent n s = { s with cards := (detPresent n s).cards, regs := (detPresent n s).regs } := by
  unfold detPresent
  dsimp only
  rw [cardState_cMap]
  split
  · exact ⟨by simp, by simp (disch := decide), by simp, cardState_put _ _ (by decide), rfl⟩
  · exact ⟨by simp, rfl, by simp, rfl, rfl⟩

theorem cardDebounceStart_starts (hok : cardOk s n = true) (habsent : cardPresent n s = false) :
    cardDebounceStart n s = detPresent n (cMap n (fun c => { c with det := some (flag CD.DET_POL n s) }) s) := by
  simp [cardDebounceStart, hok, habsent]

theorem cardDebounceStart_idle (h : cardPresent n s = true) : cardDebounceStart n s = s := by simp [cardDebounceStart, h]

/-- What the end of the debounce leaves of the engine before the port acts on it. -/
def debounced (n d : Nat) (s : State) : State :=
  cMap n (fun c => { c with debounceEnd := none, inserted := true, noPps := false, ppsFailed := false }) (runTo d s)

theorem cardInsert_due {d : Nat} (hdue : (cGet n s).debounceEnd = some d) : cardInsert n s =
    if cardEn n (debounced n d s) then
      let t := raise RG.IRQ_CARD CD.EV_INSERT n (debounced n d s)
      if cardState n t = 7 then cMap n (fun c => { c with again := true }) t else activate n t
    else if cardState n (debounced n d s) = 1 then put CD.STATE n 0 (debounced n d s) else debounced n d s := by
  simp only [cardInsert, hdue]
  rfl

@[simp] theorem cardEn_debounced (d : Nat) : cardEn n (debounced n d s) = cardEn n s := by simp [debounced]
@[simp] theorem cardState_debounced (d : Nat) : cardState n (debounced n d s) = cardState n s := by simp [debounced]
@[simp] theorem get_debounced {g : Fld} (hg : g.ofCard) (i d : Nat) : get g i (debounced n d s) = get g i s := by
  rw [debounced, get_cMap, get_runTo_card hg]

theorem cardInsert_enabled {d : Nat} (hdue : (cGet n s).debounceEnd = some d) (hen : cardEn n s = true) (hstate : cardState n s ≠ 7) :
    cardInsert n s = activate n (raise RG.IRQ_CARD CD.EV_INSERT n (debounced n d s)) := by
  rw [cardInsert_due hdue, if_pos (by simpa using hen)]
  exact if_neg (by simpa (disch := decide) using hstate)

theorem cardInsert_disabled {d : Nat} (hdue : (cGet n s).debounceEnd = some d) (hen : cardEn n s = false) :
    cardInsert n s = if cardState n s = 1 then put CD.STATE n 0 (debounced n d s) else debounced n d s := by
  rw [cardInsert_due hdue, if_neg (by simp [hen]), cardState_debounced]

/-! #### Removal (R350, R353, R389) -/

/-- What a removal tells before the card goes down: REMOVE, and the badge that leaves. -/
def removalTold (n : Nat) (s : State) : State :=
  let s := if cardEn n s then raise RG.IRQ_CARD CD.EV_REMOVE n s else s
  let s := match (cGet n s).badge with
    | some (b, unknown) => logEvent 7 (1 + (if unknown then 2 else 0)) n [beValue (b.take 4), beValue (b.drop 4)] s
    | none => s
  cMap n (fun c => { c with inserted := false, debounceEnd := none, badge := none }) s

theorem detAbsent_eq (n : Nat) (s : State) : detAbsent n s =
    if cardState n (stopCard n .removed 0 false (removalTold n s)) = 7 then stopCard n .removed 0 false (removalTold n s)
    else put CD.STATE n 0 (stopCard n .removed 0 false (removalTold n s)) := rfl

/-- The engine of a card that has left. -/
def Card.removed (c : Card) : Card := { c with inserted := false, debounceEnd := none, badge := none }

theorem removalTold_spec (n : Nat) (s : State) : cGet n (removalTold n s) = (cGet n s).removed ∧
    cardState n (removalTold n s) = cardState n s ∧ get CD.DET_POL n (removalTold n s) = get CD.DET_POL n s ∧
    (cardEn n s = true → get CD.EV_REMOVE n (removalTold n s) = 1) := by
  unfold removalTold
  extract_lets a b
  have ha : cGet n a = cGet n s ∧ cardState n a = cardState n s ∧ get CD.DET_POL n a = get CD.DET_POL n s ∧
      (cardEn n s = true → get CD.EV_REMOVE n a = 1) := by
    simp only [a]
    split
    · simp (disch := decide) [(get_raise_card (f := CD.EV_REMOVE) (q := RG.IRQ_CARD) (by decide) (by decide) n s).1]
    · next hen => exact ⟨rfl, rfl, rfl, fun h => absurd h hen⟩
  clear_value a
  have hb : cGet n b = cGet n a ∧ cardState n b = cardState n a ∧ get CD.DET_POL n b = get CD.DET_POL n a ∧
      get CD.EV_REMOVE n b = get CD.EV_REMOVE n a := by
    simp only [b]
    split
    · simp (disch := decide)
    · exact ⟨rfl, rfl, rfl, rfl⟩
  clear_value b
  obtain ⟨hcard, hstate, hpol, hevent⟩ := hb
  rw [cGet_cMap_same, cardState_cMap, get_cMap, get_cMap, hcard, hstate, hpol, hevent, ha.1]
  exact ⟨rfl, ha.2⟩

/-- A removal without an exchange or a script in progress. -/
theorem detAbsent_spec (hscript : (cGet n s).script = .none) (hstate : cardState n s ≠ 5) :
    (cGet n (detAbsent n s)).det = (cGet n s).det ∧ get CD.DET_POL n (detAbsent n s) = get CD.DET_POL n s ∧
    (cGet n (detAbsent n s)).inserted = false ∧ (cGet n (detAbsent n s)).debounceEnd = none ∧ (cGet n (detAbsent n s)).badge = none ∧
    cardState n (detAbsent n s) = (if 2 ≤ cardState n s ∧ cardState n s ≤ 7 then 7 else 0) ∧
    (cardEn n s = true → get CD.EV_REMOVE n (detAbsent n s) = 1) := by
  obtain ⟨hcard, htold, hpol, hevent⟩ := removalTold_spec n s
  have hscript' : (cGet n (removalTold n s)).script = .none := by rw [hcard]; exact hscript
  have hstop : stopCard n .removed 0 false (removalTold n s) = deactivate n 0 false (removalTold n s) := if_neg (by rwa [htold])
  rw [detAbsent_eq, hstop]
  by_cases hactive : cardActive n (removalTold n s) = true
  · obtain ⟨hseven, hdown, hkept, -⟩ := deactivate_active 0 false hscript' hactive
    rw [cardActive_iff, htold] at hactive
    rw [if_pos hseven, hdown, hcard, hseven, if_pos (by omega), hkept _ _ (port_key_ne n), hkept _ _ (port_key_ne n)]
    exact ⟨rfl, hpol, rfl, rfl, rfl, rfl, hevent⟩
  · obtain ⟨⟨e, a, hcard'⟩, hkept⟩ := deactivate_inactive 0 false hscript' (Bool.eq_false_iff.mpr hactive)
    have hstays : cardState n (deactivate n 0 false (removalTold n s)) = cardState n s := (hkept ..).trans htold
    rw [cardActive_iff, htold] at hactive
    split
    · next hseven =>
      rw [hcard', hcard, hkept, hkept, hseven, if_pos (by omega)]
      exact ⟨rfl, hpol, rfl, rfl, rfl, rfl, hevent⟩
    · next hother =>
      rw [cGet_put, hcard', hcard, get_put_beside (by decide), get_put_beside (by decide), hkept, hkept,
        cardState_put _ _ (by decide), if_neg (by omega)]
      exact ⟨rfl, hpol, rfl, rfl, rfl, rfl, hevent⟩

/-- A removal during an exchange ends it with REMOVED. -/
theorem detAbsent_exchange (hscript : (cGet n s).script = .none) (hstate : cardState n s = 5) :
    ∃ x, cardPresent n x = cardPresent n s ∧ (cGet n x).inserted = false ∧ ExchangeFailed n .removed 0 x (detAbsent n s) := by
  obtain ⟨hcard, htold, hpol, -⟩ := removalTold_spec n s
  have hfailed := endExchange_failed (n := n) (s := removalTold n s) (r := .removed) 0 false (by rw [hcard]; exact hscript)
    (cardActive_iff.mpr (by omega)) rfl
  have hstop : stopCard n .removed 0 false (removalTold n s) = endExchange n .removed 0 false (removalTold n s) :=
    if_pos (htold.trans hstate)
  refine ⟨removalTold n s, cardPresent_congr n (by rw [hcard, Card.removed]) hpol, by rw [hcard, Card.removed], ?_⟩
  rwa [detAbsent_eq, hstop, if_pos hfailed.state]

theorem cardRemove_leaves (hok : cardOk s n = true) (hpresent : cardPresent n s = true) :
    cardRemove n s = detAbsent n (cMap n (fun c => { c with det := some (!flag CD.DET_POL n s) }) s) := by
  simp [cardRemove, hok, hpresent]

theorem cardRemove_idle (h : cardPresent n s = false) : cardRemove n s = s := by simp [cardRemove, h]

/-! #### ATR_FAIL (R365) -/

theorem atrFail_fails (hstate : cardState n s = 2) (hstep : (cGet n s).actStep = 3 ∨ (cGet n s).actStep = 4) : atrFail n s =
    atrFailed n (runTo (if (cGet n s).actStep = 3 then (cGet n s).due else (cGet n s).rxEdge + halfE 19200 n s) s) := by
  unfold atrFail
  rcases hstep with hstep | hstep <;> simp [hstate, hstep]

end
end Sys2Proof.Machine

section

open Sys2Proof Sys2Proof.Machine

/-- Settles O22, clause by clause: the debounce and its idle case; its end on an enabled and on a disabled port; steps 2 to 4 of
Table 6-2; ATR_FAIL; a removal without and during an exchange, and its idle case. -/
theorem cardsActivateStepByStep : Obligations.CardsActivateStepByStep := by
  refine ⟨?debounce, ?debounceIdle, ?insert, ?insertDisabled, ?clock, ?release, ?hunt, ?atrFail, ?remove, ?removeExchange, ?removeIdle⟩
  case debounce =>
    intro dt n s hok habsent
    have hstarts := cardDebounceStart_starts (n := n) (s := elapse dt s) (by simpa using hok) (by simpa using habsent)
    obtain ⟨hdet, hpol, hend, hstate, hunits⟩ := detPresent_spec n (cMap n (fun c => { c with det := some (flag CD.DET_POL n (elapse dt s)) }) (elapse dt s))
    refine ⟨_, congrArg Host.Outcome.next hstarts, ?_, ?_, ?_, ?_⟩
    · exact (cardPresent_congr n hdet hpol).trans (by simp [cardPresent_det])
    · rw [hend]
      simp (disch := decide)
    · simpa using hstate
    · rw [hunits]
      rfl
  case debounceIdle =>
    intro dt n s hpresent
    exact congrArg Host.Outcome.next (cardDebounceStart_idle (by simpa using hpresent))
  case insert =>
    intro n d s hn hdue hen hstate
    obtain ⟨hactive, hstep, hsettle, hinserted, hend⟩ := activate_spec n (raise RG.IRQ_CARD CD.EV_INSERT n (debounced n d s))
    obtain ⟨hevent, hirq⟩ := get_raise_card (f := CD.EV_INSERT) (q := RG.IRQ_CARD) (by decide) (by decide) n (debounced n d s)
    refine ⟨_, congrArg Host.Outcome.next (cardInsert_enabled hdue hen hstate), by simp [debounced], ?_, ?_, ?_, ?_, hactive, hstep, ?_⟩
    · rw [hinserted]
      simp [debounced]
    · rw [hend]
      simp [debounced]
    · exact (get_activate (key_not_mem (by decide) n)).trans hevent
    · exact (get_activate (direct_key_not_mem (by decide) (by decide) n)).trans hirq
    · rw [hsettle]
      simp (disch := decide)
  case insertDisabled =>
    intro n d s hn hdue hen
    refine ⟨_, congrArg Host.Outcome.next (cardInsert_disabled hdue hen), ?_⟩
    split
    · exact ⟨by simp [debounced], cardState_put _ _ (by decide), by simp (disch := decide)⟩
    · exact ⟨by simp [debounced], cardState_debounced d, get_debounced rfl ..⟩
  case clock =>
    intro n s hn hstate hstep
    exact ⟨_, congrArg Host.Outcome.next (if_pos ⟨hstate, hstep⟩), by simp, by simp, rfl⟩
  case release =>
    intro n s hn hstate hstep
    exact ⟨_, congrArg Host.Outcome.next (if_pos ⟨hstate, hstep⟩), by simp, by simp, rfl⟩
  case hunt =>
    intro n s hn hstate hstep
    exact ⟨_, congrArg Host.Outcome.next (if_pos ⟨hstate, hstep⟩), by simp, by simp, rfl⟩
  case atrFail =>
    intro n s hn hstate hstep hscript
    obtain ⟨hnow, hseven, hend, hdue, hevent, hcount⟩ := atrFailed_spec (n := n)
      (s := runTo (if (cGet n s).actStep = 3 then (cGet n s).due else (cGet n s).rxEdge + halfE 19200 n s) s)
      (by simpa using hscript) (by simpa using hstate)
    have hfails := atrFail_fails hstate hstep
    refine ⟨_, congrArg Host.Outcome.next hfails, by rw [hnow, runTo_now], hseven, hend, by rw [hdue, hnow], hevent, ?_⟩
    rwa [get_runTo_card (by decide)] at hcount
  case remove =>
    intro dt n s hok hpresent hscript hstate
    obtain ⟨hdet, hpol, hinserted, hend, hbadge, hseven, hevent⟩ := detAbsent_spec (n := n)
      (s := cMap n (fun c => { c with det := some (!flag CD.DET_POL n (elapse dt s)) }) (elapse dt s)) (by simpa using hscript) (by simpa using hstate)
    refine ⟨_, congrArg Host.Outcome.next (cardRemove_leaves (by simpa using hok) (by simpa using hpresent)), ?_, hinserted, hend, hbadge, ?_, ?_⟩
    · exact (cardPresent_congr n hdet hpol).trans (by simp [cardPresent_det])
    · simpa using hseven
    · simpa using hevent
  case removeExchange =>
    intro dt n s hok hpresent hscript hstate
    obtain ⟨x, hgone, hinserted, hfailed⟩ := detAbsent_exchange (n := n)
      (s := cMap n (fun c => { c with det := some (!flag CD.DET_POL n (elapse dt s)) }) (elapse dt s)) (by simpa using hscript) (by simpa using hstate)
    refine ⟨_, congrArg Host.Outcome.next (cardRemove_leaves (by simpa using hok) (by simpa using hpresent)), ?_, hfailed.inserted.trans hinserted,
      hfailed.result, hfailed.event, hfailed.state, hfailed.endState⟩
    rw [hfailed.present, hgone, cardPresent_det]
    simp
  case removeIdle =>
    intro dt n s habsent
    exact congrArg Host.Outcome.next (cardRemove_idle (by simpa using habsent))

end
end

section

/-! ### Characters of a card (6.3, 6.6) -/

namespace Sys2Proof.Machine

section

variable {n : Nat} {s : State}

@[simp] theorem cardListens_elapse (n dt : Nat) (s : State) : cardListens n (elapse dt s) = cardListens n s := by simp [cardListens]

@[simp] theorem flag_elapse_card {g : Fld} (hg : g.ofCard) (i dt : Nat) (s : State) : flag g i (elapse dt s) = flag g i s := by
  rw [flag, get_elapse_card hg]; rfl

@[simp] theorem flag_cMap (g : Fld) (i n : Nat) (u : Card → Card) (s : State) : flag g i (cMap n u s) = flag g i s := rfl

/-! #### Received characters (R359, R360, R364) -/

theorem cardCharacterReceived_idle (sm : List Bool) (h : cardListens n s = false) : cardCharacterReceived n sm s = s := by
  simp [cardCharacterReceived, h]

/-- A TS of neither convention. -/
theorem cardCharacterReceived_noConvention {sm : List Bool} (hok : cardOk s n = true) (hstate : cardState n s = 2)
    (hstep : (cGet n s).actStep = 3) (hdirect : (cardDecode false sm).1.toNat ≠ 0x3B) (hinverse : (cardDecode true sm).1.toNat ≠ 0x3F) :
    cardCharacterReceived n sm s = atrFailed n s := by
  have hlistens : cardListens n s = true := by simp [cardListens, hok, hstate, hstep]
  simp [cardCharacterReceived, hlistens, hstate, hstep, hdirect, hinverse]

/-- The engine as a character that is not TS leaves it before it is judged. -/
def charHeard (n : Nat) (s : State) : State :=
  cMap n (fun c => { c with
    rxEdge := s.now - halfE 19 n s, wtFrom := s.now - halfE 19 n s, heard := true,
    stamp := some (c.stamp.getD ((stampAt (s.now - halfE 19 n s) s).sub 40)) }) s

/-- What the judgement of a character that is not TS starts (R360). -/
def charJudged (n : Nat) (s : State) (j : Stored) : State :=
  match j with
  | .signal => cMap n (fun c => { c with repeats := c.repeats + 1, errEdge := some (s.now - halfE 19 n s) }) (charHeard n s)
  | .take b marked =>
    let t := cMap n (fun c => { c with repeats := 0, parity := c.parity || marked }) (charHeard n s)
    let t := if marked then bump CD.RX_PAR_CNT n t else t
    match cardState n t with
    | 2 => atrChar n b t
    | 3 => ppsChar n b t
    | _ => exchangeChar n b t

theorem cardCharacterReceived_judged {sm : List Bool} (hlistens : cardListens n s = true) (hlater : ¬ (cardState n s = 2 ∧ (cGet n s).actStep = 3)) :
    cardCharacterReceived n sm s = charJudged n s (storeRule (get CD.CX_RETRY n s) (cGet n s).repeats
      (cardDecode (flag CD.CONV n s) sm).1 (cardDecode (flag CD.CONV n s) sm).2) := by
  unfold cardCharacterReceived
  rw [if_neg (by simp [hlistens])]
  simp only [hlater, false_and, if_false]
  rfl

theorem storeRule_signal {retry repeats : Nat} (b : Byte) (h : repeats < retry) : storeRule retry repeats b false = .signal := by
  simp [storeRule, h]

theorem storeRule_good {retry repeats : Nat} (b : Byte) (h : repeats < retry ∨ retry = 0) : storeRule retry repeats b true = .take b false := by
  rcases h with h | h <;> simp [storeRule, h]

/-- A data byte of an exchange (R376). -/
theorem exchangeChar_data {b : Byte} (hsw1 : (cGet n s).sw1 = none) (hburst : 0 < (cGet n s).burst) : exchangeChar n b s =
    cMap n (fun c => { c with moved := c.moved ++ [b], burst := c.burst - 1, toRecv := c.toRecv - 1 }) s := by
  simp [exchangeChar, hsw1, hburst]

theorem charJudged_data {b : Byte} (hstate : cardState n s = 5) (hsw1 : (cGet n s).sw1 = none) (hburst : 0 < (cGet n s).burst) :
    (cGet n (charJudged n s (.take b false))).moved = (cGet n s).moved ++ [b] ∧
    (cGet n (charJudged n s (.take b false))).burst = (cGet n s).burst - 1 ∧
    (cGet n (charJudged n s (.take b false))).toRecv = (cGet n s).toRecv - 1 ∧
    (cGet n (charJudged n s (.take b false))).repeats = 0 ∧ cardState n (charJudged n s (.take b false)) = 5 := by
  have hstores : charJudged n s (.take b false) =
      exchangeChar n b (cMap n (fun c => { c with repeats := 0, parity := c.parity || false }) (charHeard n s)) := by
    have hstate' : cardState n (cMap n (fun c => { c with repeats := 0, parity := c.parity || false }) (charHeard n s)) = 5 := hstate
    simp only [charJudged, Bool.false_eq_true, if_false, hstate']
  rw [hstores, exchangeChar_data (by simpa [charHeard] using hsw1) (by simpa [charHeard] using hburst)]
  simp [charHeard, hstate]

/-! #### Sent characters (R361, R362) -/

/-- The engine at the sample of the error signal. -/
def sentSampled (n : Nat) (s : State) : State :=
  cMap n (fun c => { c with wtFrom := if c.heard then c.wtFrom else c.txAt }) (runTo ((cGet n s).txAt + halfE 22 n s) s)

/-- The character is repeated 2 E after the sample. -/
def charRepeated (n : Nat) (s : State) : State :=
  bump CD.TX_REP_CNT n (cMap n (fun c => { c with
    repeats := c.repeats + 1, txEdge := c.txAt, txAt := (cGet n s).txAt + halfE 26 n s }) (sentSampled n s))

theorem cardCharacterSent_sampled {b : Byte} {r : List Byte} (a z : Nat) (hok : cardOk s n = true)
    (hstate : cardState n s = 3 ∨ cardState n s = 5) (hsends : (cGet n s).txBytes = b :: r) : cardCharacterSent n a z s =
    if !errorSignalled n a z s then charSent n b (sentSampled n s)
    else if (cGet n s).repeats < get CD.CX_RETRY n s then charRepeated n s
    else if cardState n s = 3 then ppsFailed n (sentSampled n s) else endExchange n .txParity 9 false (sentSampled n s) := by
  have hretry : get CD.CX_RETRY n (sentSampled n s) = get CD.CX_RETRY n s := by simp (disch := decide) [sentSampled]
  have hkeeps : cardState n (sentSampled n s) = cardState n s := by simp [sentSampled]
  unfold cardCharacterSent
  rw [if_neg (by simp [hok, hstate])]
  simp only [hsends]
  rw [← hretry, ← hkeeps]
  rfl

/-! #### The work waiting time (R377) -/

theorem wtExpired_exchange (hok : cardOk s n = true) (hstate : cardState n s = 5) (hruns : (cGet n s).heard = true ∨ (cGet n s).txBytes = []) :
    wtExpired n s = endExchange n .wtExpired 9 false (runTo ((cGet n s).wtFrom + cardWT n s) s) := by
  unfold wtExpired
  rw [if_neg (by rcases hruns with h | h <;> simp [hok, h])]
  simp only [hstate]

end
end Sys2Proof.Machine

section

open Sys2Proof Sys2Proof.Machine

/-- Settles O23, clause by clause: an engine that does not listen; a TS of neither convention; a character that is answered with the
error signal; a data byte; a sent character that went through, one that is repeated, and one repeated too often; WT. -/
theorem cardCharactersFollowTheirRules : Obligations.CardCharactersFollowTheirRules := by
  refine ⟨?deaf, ?noConvention, ?signal, ?data, ?sent, ?repeated, ?txParity, ?wt⟩
  case deaf =>
    intro dt n sm s hdeaf
    exact congrArg Host.Outcome.next (cardCharacterReceived_idle sm (by simpa using hdeaf))
  case noConvention =>
    intro dt n sm s hok hstate hstep hscript hdirect hinverse
    obtain ⟨-, hseven, hend, -, hevent, -⟩ := atrFailed_spec (n := n) (s := elapse dt s) (by simpa using hscript) (by simpa using hstate)
    have hfails := cardCharacterReceived_noConvention (n := n) (s := elapse dt s) (by simpa using hok) (by simpa using hstate)
      (by simpa using hstep) hdirect hinverse
    exact ⟨_, congrArg Host.Outcome.next hfails, hseven, hend, hevent⟩
  case signal =>
    intro dt n sm s hlistens hlater hparity hretry
    have hjudged := cardCharacterReceived_judged (n := n) (s := elapse dt s) (sm := sm) (by simpa using hlistens)
      (by simp; omega)
    rw [flag_elapse_card rfl, get_elapse_card rfl, cGet_elapse, hparity, storeRule_signal _ hretry] at hjudged
    refine ⟨_, congrArg Host.Outcome.next hjudged, ?_, ?_, ?_, ?_, ?_, rfl⟩ <;> simp [charJudged, charHeard]
  case data =>
    intro dt n sm s hok hstate hparity hsends hsw1 hburst hretry
    have hlistens : cardListens n s = true := by simp [cardListens, hok, hstate, hsends]
    have hjudged := cardCharacterReceived_judged (n := n) (s := elapse dt s) (sm := sm) (by simpa using hlistens)
      (by simp [hstate])
    rw [flag_elapse_card rfl, get_elapse_card rfl, cGet_elapse, hparity, storeRule_good _ hretry] at hjudged
    refine ⟨_, congrArg Host.Outcome.next hjudged, ?_⟩
    simpa using charJudged_data (n := n) (s := elapse dt s) (b := (cardDecode (flag CD.CONV n s) sm).1) (by simpa using hstate) (by simpa using hsw1)
      (by simpa using hburst)
  case sent =>
    intro n a z b r s hok hstate hsends hquiet
    have hsampled := cardCharacterSent_sampled a z hok hstate hsends
    rw [hquiet] at hsampled
    refine ⟨_, congrArg Host.Outcome.next hsampled, by simp [charSent, sentSampled], ?_, ?_, ?_, ?_, ?_, ?_, rfl⟩
    · simp [charSent, sentSampled, hsends]
    · simp [charSent, sentSampled]
    · simp [charSent, sentSampled]
    · simp (disch := decide) [charSent, sentSampled]
    · simp [charSent, sentSampled]
    · simp [charSent, sentSampled]
  case repeated =>
    intro n a z b r s hok hstate hsends hlow hretry
    have hsampled := cardCharacterSent_sampled a z hok hstate hsends
    rw [hlow, if_neg (by simp), if_pos hretry] at hsampled
    refine ⟨_, congrArg Host.Outcome.next hsampled, by simp [charRepeated, sentSampled], ?_, ?_, ?_, ?_⟩
    · simpa [charRepeated, sentSampled] using hsends
    · simp [charRepeated, sentSampled]
    · simp [charRepeated, sentSampled]
    · rw [charRepeated, get_bump_same]
      simp (disch := decide) [sentSampled]
      rfl
  case txParity =>
    intro n a z b r s hok hstate hsends hscript hlow hretry
    have hsampled := cardCharacterSent_sampled a z hok (.inr hstate) hsends
    rw [hlow, if_neg (by simp), if_neg (by omega), if_neg (by omega)] at hsampled
    have hfailed := endExchange_failed (n := n) (s := sentSampled n s) (r := .txParity) 9 false (by simpa [sentSampled] using hscript)
      (cardActive_iff.mpr (by simp [sentSampled, hstate])) rfl
    exact ⟨_, congrArg Host.Outcome.next hsampled, hfailed.result, hfailed.event, hfailed.state, hfailed.endState⟩
  case wt =>
    intro n s hok hstate hruns hscript
    have hfailed := endExchange_failed (n := n) (s := runTo ((cGet n s).wtFrom + cardWT n s) s) (r := .wtExpired) 9 false
      (by simpa using hscript) (cardActive_iff.mpr (by simp [hstate])) rfl
    exact ⟨_, congrArg Host.Outcome.next (wtExpired_exchange hok hstate hruns), by simp, hfailed.result, hfailed.event, hfailed.state,
      hfailed.endState⟩

end
end

section

/-! ### Writes of the card registers (6.4 to 6.6) -/

open Sys2Proof.Safety

namespace Sys2Proof.Machine

section

variable {n : Nat} {s : State}

/-! #### The word of a card's commands -/

theorem wordFields_card {o : Nat} (ho : o < 8) (n : Nat) : wordFields 13 (128 * n + o) = fieldsIn fldsCD o n := by
  have hoff : (128 * n + o) % 128 = o := by omega
  have hcard : (128 * n + o) / 128 = n := by omega
  show cardFields (128 * n + o) = _
  rw [cardFields, hoff, hcard, if_neg (by omega), if_neg (by omega)]

/-- CTRL and CX_CTRL hold no counter. -/
theorem plainWord_card {o : Nat} (ho : o = 0 ∨ o = 4) (n : Nat) : PlainWord 13 (128 * n + o) := by
  refine plainWord_of (off := o) (i := n) (l := fldsCD) (wordFields_card (by omega) n) rfl ?_
  rcases ho with rfl | rfl <;> decide

theorem card_mem {o : Nat} {f : Fld} (ho : o < 8) (hf : f ∈ fldsCD.filter fun f => f.word == o) (n : Nat) :
    (f, n) ∈ wordFields 13 (128 * n + o) := by
  rw [wordFields_card ho]
  exact List.mem_map_of_mem hf

theorem wordActs_card {o : Nat} (ho : o < 128) (n M : Nat) (b w : State) : wordActs 13 (128 * n + o) M b w = (w, cardActs n o M b w) := by
  have hoff : (128 * n + o) % 128 = o := by omega
  have hcard : (128 * n + o) / 128 = n := by omega
  simp only [wordActs, hoff, hcard]

theorem asks_of_sent {f : Fld} {M : Nat} (hf : f.width = 1) (h : bits M f.lo f.width = 1) : asks f M = true := by
  rw [hf] at h
  simpa [asks, bitOf, bits] using h

theorem asks_of_unsent {f : Fld} {M : Nat} (hf : f.width = 1) (h : bits M f.lo f.width = 0) : asks f M = false := by
  rw [hf] at h
  simpa [asks, bitOf, bits] using h

/-- An accepted GO starts the exchange (R375). -/
theorem setFields_go {dir : Nat} (h : taken n CD.GO [(CD.GO, 1), (CD.DIR, dir)] s) :
    wrote n CD.GO [(CD.GO, 1), (CD.DIR, dir)] (fun w => exchangeStart n (putSw CD.GO n 1 w)) s (setFields n [(CD.GO, 1), (CD.DIR, dir)] s) := by
  have hfs : ∀ y ∈ [(CD.GO, 1), (CD.DIR, dir)], (y.1, n) ∈ wordFields CD.GO.space (wordOf CD.GO n) ∧ y.1.acc ≠ .w1c := by
    simp only [List.mem_cons, List.not_mem_nil, or_false]
    rintro y (rfl | rfl)
    · exact ⟨card_mem (f := CD.GO) (o := 4) (by decide) (by decide) n, show CD.GO.acc ≠ .w1c by decide⟩
    · exact ⟨card_mem (f := CD.DIR) (o := 4) (by decide) (by decide) n, show CD.DIR.acc ≠ .w1c by decide⟩
  refine setFields_wrote n CD.GO 1 [(CD.DIR, dir)] s _ h (plainWord_card (.inr rfl) n) rfl (by decide) (.inr (by decide)) hfs
    (List.pairwise_pair.mpr (show CD.GO.lo + CD.GO.width ≤ CD.DIR.lo ∨ CD.DIR.lo + CD.DIR.width ≤ CD.GO.lo by decide)) ?_
  intro M w hw
  have hasks : asks CD.GO M = true := asks_of_sent rfl (hw.sent (CD.GO, 1) (by simp))
  show (wordActs 13 (128 * n + 4) M s w).2.foldl (fun a f => f a) (wordActs 13 (128 * n + 4) M s w).1 = _
  rw [wordActs_card (by decide)]
  simp only [cardActs, hasks, if_true, List.foldl_cons, List.foldl_nil]

/-- What a taken RESET or DEACT starts: DET_POL stands, and the other of the two is not asked for. -/
theorem cardActs_command {f : Fld} {act : Nat → State → State} (hf : (f = CD.RESET ∧ act = cardReset) ∨ (f = CD.DEACT ∧ act = cardDeact))
    {M : Nat} {w : State} (hw : WriteFacts n f [(f, 1)] s M w) : cardActs n 0 M s w = [cardCommand f n act] := by
  have hmem {g : Fld} (hg : g ∈ fldsCD.filter fun f => f.word == 0) : (g, n) ∈ wordFields f.space (wordOf f n) := by
    rcases hf with ⟨rfl, -⟩ | ⟨rfl, -⟩ <;> exact card_mem (o := 0) (by decide) hg n
  have hpol : get CD.DET_POL n w = get CD.DET_POL n s :=
    hw.rest (CD.DET_POL, n) (hmem (by decide)) (.inl (by rcases hf with ⟨rfl, -⟩ | ⟨rfl, -⟩ <;> simp [CD.DET_POL, CD.RESET, CD.DEACT]))
  have hunsent {g : Fld} (hg : g ∈ fldsCD.filter fun f => f.word == 0) (hne : g ≠ f) (hacc : g.acc ≠ .rw) (hwidth : g.width = 1) :
      asks g M = false := asks_of_unsent hwidth ((hw.kept (g, n) (hmem hg) (by simpa using hne)).trans (if_neg hacc))
  have hsent := hw.sent (f, 1) (by simp)
  have hsame : changes [CD.DET_POL] n s w = false := by simp [changes, hpol]
  rcases hf with ⟨rfl, rfl⟩ | ⟨rfl, rfl⟩
  · simp [cardActs, hsame, asks_of_sent rfl hsent, hunsent (g := CD.DEACT) (by decide) (by decide) (by decide) rfl]
  · simp [cardActs, hsame, asks_of_sent rfl hsent, hunsent (g := CD.RESET) (by decide) (by decide) (by decide) rfl]

theorem setFields_cardCommand {f : Fld} {act : Nat → State → State} (hf : (f = CD.RESET ∧ act = cardReset) ∨ (f = CD.DEACT ∧ act = cardDeact))
    (h : taken n f [(f, 1)] s) : wrote n f [(f, 1)] (cardCommand f n act) s (setFields n [(f, 1)] s) := by
  have hrow : f.space = 13 ∧ wordOf f n = 128 * n + 0 ∧ f ∈ fldsCD.filter (fun f => f.word == 0) ∧ f.acc ≠ .w1c := by
    rcases hf with ⟨rfl, -⟩ | ⟨rfl, -⟩ <;> exact ⟨rfl, rfl, by decide, by decide⟩
  obtain ⟨hspace, hword, hmem, hacc⟩ := hrow
  refine setFields_wrote n f 1 [] s _ h (by rw [hspace, hword]; exact plainWord_card (.inl rfl) n) (by rw [hspace]; rfl) (by rw [hspace]; decide)
    (.inr (by rw [hspace]; decide)) ?_ (List.pairwise_singleton ..) ?_
  · intro y hy
    rw [List.mem_singleton.mp hy, hspace, hword]
    exact ⟨card_mem (by decide) hmem n, hacc⟩
  · intro M w hw
    rw [hspace, hword, wordActs_card (by decide), cardActs_command hf hw]
    rfl

/-- A write of CTRL leaves the card, its state and the enable of its port. -/
theorem card_written {f : Fld} {w : State} (hf : f = CD.RESET ∨ f = CD.DEACT) (hunits : sameUnits s w)
    (hother : ∀ g j, (∀ x ∈ wordFields f.space (wordOf f n), g.key j ≠ x.1.key x.2) → get g j w = get g j s) :
    cGet n w = cGet n s ∧ cardState n w = cardState n s ∧ cardEn n w = cardEn n s ∧ w.now = s.now := by
  have hword : wordFields f.space (wordOf f n) = fieldsIn fldsCD 0 n := by
    rcases hf with rfl | rfl <;> exact wordFields_card (o := 0) (by decide) n
  have hkeys {g : Fld} {i : Nat} (h : ∀ x ∈ fldsCD.filter fun f => f.word == 0, g.key i ≠ x.key n) : get g i w = get g i s := by
    refine hother g i fun y hy => ?_
    rw [hword] at hy
    obtain ⟨x, hx, rfl⟩ := List.mem_map.mp hy
    exact h x hx
  refine ⟨cGet_congr (by rw [hunits]) n, hkeys fun x hx => ?_, cardEn_congr n fun g hg => hkeys fun x hx => ?_, by rw [hunits]⟩
  · exact port_key_ne n (by revert x; decide)
  · exact (Fld.ofCard.ne_direct (by revert x; decide) (by revert g; decide) n).symm

theorem cardEn_putSw {f : Fld} (hf : f.ofCard) (v : Nat) (s : State) : cardEn n (putSw f n v s) = cardEn n s :=
  cardEn_congr n fun g hg => get_putSw_ne (hf.ne_direct (by revert g; decide) n).symm v s

/-! #### GO (R375) -/

theorem cmdBuf_congr {s t : State} (h : ∀ i < 65, get CX.CMD_BUF (n * 128 + i) t = get CX.CMD_BUF (n * 128 + i) s) : cmdBuf n t = cmdBuf n s := by
  refine List.flatMap_congr fun i hi => ?_
  rw [h i (List.mem_range.mp hi)]

/-- The command buffer stands beside every word below it. -/
theorem cmdBuf_ne {f : Fld} {i : Nat} (hf : f.space = 13 ∧ f.stride = 128 ∧ f.word < 32 ∧ f.lo < 32) (hi : i < 65) :
    CX.CMD_BUF.key (n * 128 + i) ≠ f.key n := by
  obtain ⟨hspace, hstride, hword, hlo⟩ := hf
  simp only [Fld.key, hspace, hstride, CX.CMD_BUF]
  omega

@[simp] theorem get_spawnJob_card {g : Fld} (hg : g.ofCard) (i : Nat) (kind : JobKind) (rem cls tenant src : Nat) (poll : Option Nat) (s : State) :
    get g i (spawnJob kind rem cls tenant src poll s) = get g i s := by
  unfold spawnJob
  dsimp only
  split
  · exact get_putHw_direct hg (by decide) ..
  · rfl

@[simp] theorem cGet_spawnJob (kind : JobKind) (rem cls tenant src : Nat) (poll : Option Nat) (s : State) :
    cGet n (spawnJob kind rem cls tenant src poll s) = cGet n s := by
  unfold spawnJob
  dsimp only
  split
  · exact cGet_putHw ..
  · rfl

/-- The exchange has started between two states. -/
structure ExchangeStarted (n : Nat) (s t : State) : Prop where
  state : cardState n t = 5
  sends : (cGet n t).txBytes = (cmdBuf n s).take 5
  header : (cGet n t).hdr = (cmdBuf n s).take 5
  left : (cGet n t).hdrLeft = 5
  job : (cGet n t).job = some s.nextJob
  dir : (cGet n t).dir = get CD.DIR n s
  next : t.nextJob = s.nextJob + 1
  jobs : t.jobs.length = s.jobs.length + 1
  go : get CD.GO n t = get CD.GO n s

theorem exchangeStart_spec (n : Nat) (s : State) : ExchangeStarted n s (exchangeStart n s) := by
  obtain ⟨hjobs, hnext, -⟩ := spawnJob_spec .card (get CD.CX_DEADLINE_MS n s * 1000000) 1 0 n none s
  constructor
  case state => exact cardState_put _ _ (by decide)
  case next => simpa [exchangeStart, startSend] using hnext
  case jobs => simp [exchangeStart, startSend, hjobs]
  case go => simp (disch := decide) [exchangeStart, startSend]
  all_goals simp [exchangeStart, startSend]

/-! #### RESET and DEACT (R353, R354) -/

/-- RESET or DEACT reads 1 while the deactivation that it causes runs. -/
theorem cardCommand_reads {f : Fld} {act : Nat → State → State} (hwidth : f.width = 1) (hstate : cardState n (act n (putSw f n 1 s)) = 7)
    (hkept : get f n (act n (putSw f n 1 s)) = get f n (putSw f n 1 s)) :
    cardCommand f n act s = act n (putSw f n 1 s) ∧ get f n (act n (putSw f n 1 s)) = 1 := by
  refine ⟨if_pos hstate, ?_⟩
  rw [hkept, get_putSw_same, hwidth]
  rfl

theorem stopCard_ready {r : CxResult} (endState : Nat) (again : Bool) (hscript : (cGet n s).script = .none) (hstate : cardState n s = 4) :
    Deactivated n endState again s (stopCard n r endState again s) := by
  rw [stopCard, if_neg (by omega)]
  exact deactivate_active endState again hscript (cardActive_iff.mpr (by omega))

/-- RESET of a ready card. -/
theorem cardReset_ready (hinserted : (cGet n s).inserted = true) (hen : cardEn n s = true) (hscript : (cGet n s).script = .none)
    (hstate : cardState n s = 4) :
    cardState n (cardReset n s) = 7 ∧ (cGet n (cardReset n s)).again = true ∧ (cGet n (cardReset n s)).due = s.now + cyclesUs 103 ∧
    ∀ g i, g.key i ≠ CD.STATE.key n → get g i (cardReset n s) = get g i s := by
  have hstop := stopCard_ready (n := n) (s := cMap n (fun c => { c with noPps := false }) s) (r := .disabled) 9 true (by simpa using hscript) hstate
  have hacts : cardReset n s = stopCard n .disabled 9 true (cMap n (fun c => { c with noPps := false }) s) := by
    have hactive : cardActive n s = true := cardActive_iff.mpr (by omega)
    simp [cardReset, hinserted, hen, hactive]
  rw [hacts, hstop.card]
  exact ⟨hstop.state, rfl, rfl, hstop.kept⟩

/-- DEACT of a ready card. -/
theorem cardDeact_ready (hscript : (cGet n s).script = .none) (hstate : cardState n s = 4) : Deactivated n 9 false s (cardDeact n s) := by
  rw [cardDeact, if_pos (.inl (cardActive_iff.mpr (by omega)))]
  exact stopCard_ready 9 false hscript hstate

/-! #### The end of a deactivation (R352) -/

/-- The state that a card takes at the end of its deactivation. -/
def stateAfter (n : Nat) (s : State) : Nat :=
  if cardPresent n s then (if (cGet n s).debounceEnd.isSome then 1 else (cGet n s).endState) else 0

/-- The card has taken that state, and a disabled CP1 has given W9 back (R348). -/
def cardSettled (n : Nat) (s : State) : State :=
  let t := put CD.STATE n (stateAfter n s) (runTo (cGet n s).due s)
  if n = 1 ∧ !cardEn 1 t ∧ t.clk.w9 = .cp1 then { t with clk := { t.clk with w9 := .none } } else t

theorem cardSettled_spec (n : Nat) (s : State) : (cardSettled n s).now = max s.now (cGet n s).due ∧
    (cardSettled n s).cyc = (runTo (cGet n s).due s).cyc ∧ cGet n (cardSettled n s) = cGet n s ∧
    (∀ g i, get g i (cardSettled n s) = get g i (put CD.STATE n (stateAfter n s) (runTo (cGet n s).due s))) := by
  unfold cardSettled
  dsimp only
  split
  · exact ⟨by simp, by simp, cGet_runTo .., fun g i => rfl⟩
  · exact ⟨by simp, by simp, cGet_runTo .., fun g i => rfl⟩

theorem cardDeactivationEnd_settles (hstate : cardState n s = 7) : cardDeactivationEnd n s =
    if (cGet n s).again = true ∧ cardPresent n s = true ∧ cardEn n s = true then activate n (cardSettled n s) else cardSettled n s := by
  obtain ⟨-, -, hcard, hkept⟩ := cardSettled_spec n s
  have hpresent : cardPresent n (cardSettled n s) = cardPresent n s := cardPresent_congr n (by rw [hcard]) (by
    rw [hkept, get_put_beside (by decide), get_runTo_card rfl])
  have hen : cardEn n (cardSettled n s) = cardEn n s := cardEn_congr n fun f hf => by
    rw [hkept, get_direct_put (by revert f; decide) rfl, get_runTo (cpEn_not_timeKeys hf)]
  rw [← hpresent, ← hen]
  unfold cardDeactivationEnd cardSettled stateAfter
  rw [if_neg (by simp [hstate]), ← cardPresent_runTo n s (cGet n s).due]

theorem cardDeactivationEnd_spec (hstate : cardState n s = 7) (hend : (cGet n s).endState < 16) :
    (cardDeactivationEnd n s).now = max s.now (cGet n s).due ∧ (cardDeactivationEnd n s).cyc = (runTo (cGet n s).due s).cyc ∧
    cardState n (cardDeactivationEnd n s) = (if (cGet n s).again = true ∧ cardPresent n s = true ∧ cardEn n s = true then 2
      else if cardPresent n s = false then 0 else if (cGet n s).debounceEnd.isSome then 1 else (cGet n s).endState) := by
  obtain ⟨hnow, hcyc, -, hkept⟩ := cardSettled_spec n s
  rw [cardDeactivationEnd_settles hstate]
  split
  · exact ⟨by simp [hnow], by simp [activate, hcyc], (activate_spec n _).1⟩
  · have hafter : stateAfter n s =
        if cardPresent n s = false then 0 else if (cGet n s).debounceEnd.isSome then 1 else (cGet n s).endState := by
      unfold stateAfter
      cases cardPresent n s <;> simp
    have hfits : stateAfter n s < 2 ^ CD.STATE.width := by
      rw [hafter]
      (repeat' split) <;> simp only [CD.STATE] <;> omega
    exact ⟨hnow, hcyc, (hkept ..).trans ((get_put_fits hfits ..).trans hafter)⟩

/-- RESET and DEACT read 0 from the end of a deactivation that lies ahead. -/
theorem execCardDeactivationEnd_spec (hstate : cardState n s = 7) (hend : (cGet n s).endState < 16) (hdue : s.now < (cGet n s).due) :
    ∃ t, exec (.cardDeactivationEnd n) s = .next t ∧ t.now = (cGet n s).due ∧ get CD.RESET n t = 0 ∧ get CD.DEACT n t = 0 ∧
    cardState n t = cardState n (cardDeactivationEnd n s) := by
  obtain ⟨hnow, hcyc, -⟩ := cardDeactivationEnd_spec hstate hend
  have hfree (k : Nat) : (cardDeactivationEnd n s).cyc.sw.contains k = false := by rw [hcyc, runTo_sw hdue]; rfl
  refine ⟨_, congrArg Host.Outcome.next (if_pos hstate), ?_, ?_, ?_, ?_⟩
  · simp [hnow]; omega
  · exact get_putHw_same (by simpa using hfree _) 0
  · exact (get_putHw_beside (by decide) ..).trans (get_putHw_same (hfree _) 0)
  · exact (get_putHw_beside (by decide) ..).trans (get_putHw_beside (by decide) ..)

/-! #### CP_CTRL (R347 to R349, R356) -/

/-- The enable of a card port. -/
def cpEn (n : Nat) : Fld := if n = 0 then RG.CP0_EN else RG.CP1_EN

theorem cpEn_row (n : Nat) : (cpEn n).space = 0 ∧ wordOf (cpEn n) 0 = 0x90 ∧ (cpEn n).acc = .rw ∧ (cpEn n).width = 1 ∧
    cpEn n ∈ [RG.CP0_EN, RG.CP1_EN] ∧ (cpEn n, 0) ∈ wordFields 0 0x90 := by
  unfold cpEn
  split <;> decide

theorem cardEn_iff (n : Nat) (s : State) : cardEn n s = true ↔ get (cpEn n) 0 s = 1 := by
  unfold cardEn cpEn
  split <;> simp [flag]

theorem plainWord_cpCtrl : PlainWord 0 0x90 := plainWord_of (off := 0x90) (i := 0) (l := fldsRG) rfl rfl (by decide)

/-- CP_CTRL is absent on SX4812. -/
theorem place_cpCtrl (h : s.variant = .sx4848) : place 0 0x90 s = .present := by simp [place, directAbsent, directReserved, h]

/-- A write of one enable leaves the other one and KEYLOAD_EN. -/
theorem cpCtrl_rest {v M : Nat} {w : State} (hw : WriteFacts 0 (cpEn n) [(cpEn n, v)] s M w) {g : Fld}
    (hg : g ∈ [RG.CP0_EN, RG.CP1_EN, RG.KEYLOAD_EN]) (hne : g ≠ cpEn n) : get g 0 w = get g 0 s := by
  obtain ⟨hspace, hword, -⟩ := cpEn_row n
  refine hw.rest (g, 0) ?_ (.inl (by simpa using hne))
  rw [hspace, hword]
  clear hne
  revert g
  decide

theorem rises_same {g : Fld} {w : State} (h : get g 0 w = get g 0 s) : rises g 0 s w = false ∧ falls g 0 s w = false := by
  simp [rises, falls, flag, h]

/-- A write of one enable starts what its rise or its fall starts, and nothing else. -/
theorem directActs_cpCtrl {v M : Nat} {w : State} (hn : n < 2) (hw : WriteFacts 0 (cpEn n) [(cpEn n, v)] s M w) :
    directActs 0x90 M s w = (cardSwitch n (cpEn n) s w w, []) := by
  have hkey := rises_same (cpCtrl_rest hw (g := RG.KEYLOAD_EN) (by simp) (by unfold cpEn; split <;> decide))
  have hacts : directActs 0x90 M s w = (cardSwitch 1 RG.CP1_EN s w (cardSwitch 0 RG.CP0_EN s w w), []) := by
    simp [directActs, hkey.2]
  obtain rfl | rfl : n = 0 ∨ n = 1 := by omega
  · have hother := rises_same (cpCtrl_rest hw (g := RG.CP1_EN) (by simp) (by decide))
    rw [hacts, cardSwitch, hother.1, hother.2]
    rfl
  · have hother := rises_same (cpCtrl_rest hw (g := RG.CP0_EN) (by simp) (by decide))
    rw [hacts, cardSwitch.eq_def 0, hother.1, hother.2]
    rfl

theorem cpEn_writes (n v : Nat) : ∀ y ∈ [(cpEn n, v)], (y.1, 0) ∈ wordFields (cpEn n).space (wordOf (cpEn n) 0) ∧ y.1.acc ≠ .w1c := by
  obtain ⟨hspace, hword, hacc, -, -, hmem⟩ := cpEn_row n
  intro y hy
  rw [List.mem_singleton.mp hy, hspace, hword, hacc]
  exact ⟨hmem, by decide⟩

theorem wordChecks_cpCtrl (M : Nat) (w : State) :
    firstFail (wordChecks 0 0x90 M s w) = if rises RG.CP1_EN 0 s w = true ∧ s.clk.w9 = .tmOut then some (.conflict 1) else none := by
  have hchecks : wordChecks 0 0x90 M s w = [(rises RG.CP1_EN 0 s w && s.clk.w9 == .tmOut, .conflict 1)] := rfl
  simp [hchecks, firstFail]

/-- A write of an enable that does not take W9 from TM_OUT is taken. -/
theorem setFields_cpEn {v : Nat} (hn : n < 2) (hserves : mpServes s = true) (hvariant : s.variant = .sx4848)
    (hfree : ∀ w, get (cpEn n) 0 w = v % 2 → ¬ (rises (cpEn n) 0 s w = true ∧ n = 1 ∧ s.clk.w9 = .tmOut)) :
    wrote 0 (cpEn n) [(cpEn n, v)] (fun w => cardSwitch n (cpEn n) s w w) s (setFields 0 [(cpEn n, v)] s) := by
  obtain ⟨hspace, hword, hacc, hwidth, -⟩ := cpEn_row n
  have hplain : PlainWord (cpEn n).space (wordOf (cpEn n) 0) := by
    rw [hspace, hword]
    exact plainWord_cpCtrl
  have htaken : taken 0 (cpEn n) [(cpEn n, v)] s := by
    refine taken_of hserves (by rw [hspace, hword, place_cpCtrl hvariant]) hplain (cpEn_writes n v) (List.pairwise_singleton ..) fun M w hw => ?_
    rw [hspace, hword, wordChecks_cpCtrl]
    refine if_neg fun ⟨hrises, hheld⟩ => ?_
    have hgiven : get (cpEn n) 0 w = v % 2 := (hw.given _ (List.mem_singleton_self _) hacc).trans (by rw [hwidth]; rfl)
    obtain rfl | rfl : n = 0 ∨ n = 1 := by omega
    · simp [(rises_same (cpCtrl_rest hw (g := RG.CP1_EN) (by simp) (by decide))).1] at hrises
    · exact hfree w hgiven ⟨hrises, rfl, hheld⟩
  refine setFields_wrote 0 (cpEn n) v [] s _ htaken hplain (by rw [hspace, hword]; rfl) (by rw [hspace]; decide) (.inl (by rw [hword]; rfl))
    (cpEn_writes n v) (List.pairwise_singleton ..) fun M w hw => ?_
  rw [hspace, hword]
  show (directActs 0x90 M s w).2.foldl (fun a f => f a) (directActs 0x90 M s w).1 = _
  rw [directActs_cpCtrl hn hw]
  rfl

theorem get_mpMap (g : Fld) (i : Nat) (u : Mp → Mp) (s : State) : get g i (mpMap u s) = get g i s := rfl

/-- A write that would take W9 from TM_OUT is refused as a CONFLICT over W9 (R58). -/
theorem setFields_cp1_conflict (hserves : mpServes s = true) (hvariant : s.variant = .sx4848) (hoff : get RG.CP1_EN 0 s = 0)
    (hheld : s.clk.w9 = .tmOut) : setFields 0 [(RG.CP1_EN, 1)] s =
      mpMap (fun m => { m with answer := 6 }) (irq RG.IRQ_CONFLICT (logEvent 2 1 0x90 [0, 0x90] s)) := by
  have hw := writeFacts 0 (cpEn 1) [(cpEn 1, 1)] s plainWord_cpCtrl (cpEn_writes 1 1) (List.pairwise_singleton ..)
  have hrises := rises_iff.mpr ⟨show get RG.CP1_EN 0 s ≠ 1 by omega, hw.given (RG.CP1_EN, 1) (by decide) rfl⟩
  have hplace : place 0 0x90 s ≠ .absent := fun habsent => Place.noConfusion ((place_cpCtrl hvariant).symm.trans habsent)
  exact regWrite_no 0 0x90 _ s (.conflict 1) hserves hplace rfl (by decide) (.inl rfl) rfl
    ((wordChecks_cpCtrl ..).trans (if_pos ⟨hrises, hheld⟩))

/-- The claim on W9 stands while time passes, but for a TM_OUT that is off or about to let go (R58, R120). -/
theorem elapse_w9 (h : s.clk.w9 = .tmOut → s.clk.w9Free = none ∧ get RG.TM_OUT_EN 0 s = 1) (dt : Nat) :
    (elapse dt s).clk.w9 = s.clk.w9 := by
  refine (runTo_invariant (P := fun a => a.clk.w9 = s.clk.w9 ∧ (a.clk.w9 = .tmOut → a.clk.w9Free = none ∧ get RG.TM_OUT_EN 0 a = 1))
    ?_ ?_ ?_ (s.now + dt) ⟨rfl, h⟩).1
  · intro x a ha
    simpa [get_advance] using ha
  · intro a ⟨hw9, hheld⟩
    have hdone : (pulseDone a).clk.w9 = a.clk.w9 ∧ (a.clk.w9 = .tmOut → (pulseDone a).clk.w9Free = none) := by
      unfold pulseDone
      split
      · split
        · exact ⟨rfl, fun htm => by simp [(hheld htm).2]⟩
        · exact ⟨rfl, fun htm => (hheld htm).1⟩
      · exact ⟨rfl, fun htm => (hheld htm).1⟩
    have hcheck : (pulseCheck a).clk.w9 = a.clk.w9 ∧ (a.clk.w9 = .tmOut → (pulseCheck a).clk.w9Free = none) := by
      obtain ⟨hsame, hkept⟩ := hdone
      unfold pulseCheck w9Release
      split
      · next r hfree =>
        have hother : a.clk.w9 ≠ .tmOut := fun htm => by simp [hkept htm] at hfree
        split <;> simp [hsame, hother]
      · exact ⟨hsame, hkept⟩
    rw [get_pulseCheck, hcheck.1]
    exact ⟨hw9, fun htm => ⟨hcheck.2 htm, (hheld htm).2⟩⟩
  · intro a ⟨hw9, hheld⟩
    rw [get_carry tmOut_not_timeKeys.1]
    rcases carry_clk_eq a with hsame | ⟨-, -, hw9', hfree⟩
    · rw [hsame]
      exact ⟨hw9, hheld⟩
    · rw [hw9', hfree]
      exact ⟨hw9, hheld⟩

/-- Enabling CP1 claims W9, whatever it starts of the card (R347). -/
theorem cardEnabled_cp1 (s : State) : (cardEnabled 1 s).clk.w9 = .cp1 ∧ ∀ g : Fld, g.direct → get g 0 (cardEnabled 1 s) = get g 0 s := by
  simp only [cardEnabled, if_true]
  split
  · exact ⟨by simp [activate], fun g hg => get_activate (direct_key_not_mem hg (by decide) 1)⟩
  · split
    · exact ⟨by simp, fun g _ => by rw [get_cMap]; rfl⟩
    · exact ⟨rfl, fun g _ => rfl⟩

/-- Disabling the port of a ready card (R349). -/
theorem cardDisabled_ready (hscript : (cGet n s).script = .none) (hstate : cardState n s = 4) : Deactivated n 0 false s (cardDisabled n s) := by
  have hstop := stopCard_ready (r := .disabled) 0 false hscript hstate
  have hdisabled : cardDisabled n s = stopCard n .disabled 0 false s := by
    simp only [cardDisabled, if_neg (show cardState n s ≠ 7 by omega), hstop.state]
    simp
  rwa [hdisabled]

/-! #### The card's commands from end to end -/

/-- GO (R375). -/
theorem execCxGo_spec (dt : Nat) {n dir : Nat} (hdir : dir < 4) (htaken : taken n CD.GO [(CD.GO, 1), (CD.DIR, dir)] (elapse dt s)) :
    ∃ t, exec (.cxGo dt n dir) s = .next t ∧ t.mp.answer = 0 ∧ get CD.GO n t = 1 ∧ cardState n t = 5 ∧
    (cGet n t).txBytes = (cmdBuf n s).take 5 ∧ (cGet n t).hdr = (cmdBuf n s).take 5 ∧ (cGet n t).hdrLeft = 5 ∧
    (cGet n t).job = some s.nextJob ∧ (cGet n t).dir = dir ∧ t.nextJob = s.nextJob + 1 ∧ t.jobs.length = s.jobs.length + 1 := by
  obtain ⟨w, l, hunits, hgiven, -, hother, ht⟩ := setFields_go htaken
  have hstarted := exchangeStart_spec n (putSw CD.GO n 1 w)
  beta_reduce at ht
  generalize exchangeStart n (putSw CD.GO n 1 w) = x at ht hstarted
  obtain ⟨hstate, hsends, hheader, hleft, hjob, hdir', hnext, hjobs, hgo⟩ := hstarted
  have hcmd : cmdBuf n (putSw CD.GO n 1 w) = cmdBuf n s := cmdBuf_congr fun i hi => by
    rw [get_putSw_ne (cmdBuf_ne (by decide) hi), hother, get_elapse_card rfl]
    intro x hx
    rw [show wordFields CD.GO.space (wordOf CD.GO n) = [(CD.GO, n), (CD.DIR, n)] from wordFields_card (o := 4) (by decide) n] at hx
    simp only [List.mem_cons, List.not_mem_nil, or_false] at hx
    rcases hx with rfl | rfl
    · exact cmdBuf_ne (f := CD.GO) (by decide) hi
    · exact cmdBuf_ne (f := CD.DIR) (by decide) hi
  have hdirs : get CD.DIR n (putSw CD.GO n 1 w) = dir := by
    rw [get_putSw_beside (by decide), hgiven (CD.DIR, dir) (by simp) rfl]
    exact Nat.mod_eq_of_lt hdir
  rw [hcmd] at hsends hheader
  refine ⟨_, congrArg Host.Outcome.next ht, rfl, ?_, hstate, hsends, hheader, hleft, ?_, hdir'.trans hdirs, ?_, ?_⟩
  · exact hgo.trans (get_putSw_same ..)
  · exact hjob.trans (by rw [hunits]; simp)
  · exact hnext.trans (by rw [hunits]; simp)
  · exact hjobs.trans (by rw [hunits]; simp)

/-- RESET of a ready card (R354). -/
theorem execCardReset_spec (dt : Nat) (htaken : taken n CD.RESET [(CD.RESET, 1)] (elapse dt s)) (hinserted : (cGet n s).inserted = true)
    (hen : cardEn n s = true) (hstate : cardState n s = 4) (hscript : (cGet n s).script = .none) :
    ∃ t, exec (.cardReset dt n) s = .next t ∧ t.mp.answer = 0 ∧ cardState n t = 7 ∧ (cGet n t).again = true ∧
    get CD.RESET n t = 1 ∧ (cGet n t).due = s.now + dt + cyclesUs 103 := by
  obtain ⟨w, l, hunits, -, -, hother, ht⟩ := setFields_cardCommand (.inl ⟨rfl, rfl⟩) htaken
  obtain ⟨hcard, hstate', hen', hnow⟩ := card_written (.inl rfl) hunits hother
  rw [cGet_elapse] at hcard
  obtain ⟨hseven, hagain, hdue, hkept⟩ := cardReset_ready (n := n) (s := putSw CD.RESET n 1 w) (by simpa [hcard])
    (((cardEn_putSw rfl ..).trans hen').trans ((cardEn_elapse ..).trans hen)) (by simpa [hcard]) (by simpa (disch := decide) [hstate'])
  obtain ⟨hcommand, hreads⟩ := cardCommand_reads rfl hseven (hkept _ _ (port_key_ne n))
  rw [hcommand] at ht
  generalize cardReset n (putSw CD.RESET n 1 w) = x at ht hseven hagain hdue hreads
  exact ⟨_, congrArg Host.Outcome.next ht, rfl, hseven, hagain, hreads, hdue.trans (by simp [hnow])⟩

/-- DEACT of a ready card (R353). -/
theorem execDeact_spec (dt : Nat) (htaken : taken n CD.DEACT [(CD.DEACT, 1)] (elapse dt s)) (hstate : cardState n s = 4)
    (hscript : (cGet n s).script = .none) :
    ∃ t, exec (.deact dt n) s = .next t ∧ t.mp.answer = 0 ∧ cardState n t = 7 ∧ (cGet n t).again = false ∧
    (cGet n t).endState = 9 ∧ get CD.DEACT n t = 1 := by
  obtain ⟨w, l, hunits, -, -, hother, ht⟩ := setFields_cardCommand (.inr ⟨rfl, rfl⟩) htaken
  obtain ⟨hcard, hstate', -⟩ := card_written (.inr rfl) hunits hother
  rw [cGet_elapse] at hcard
  obtain ⟨hseven, hdown, hkept, -⟩ := cardDeact_ready (n := n) (s := putSw CD.DEACT n 1 w) (by simpa [hcard]) (by
    simpa (disch := decide) [hstate'])
  obtain ⟨hcommand, hreads⟩ := cardCommand_reads rfl hseven (hkept _ _ (port_key_ne n))
  rw [hcommand] at ht
  generalize cardDeact n (putSw CD.DEACT n 1 w) = x at ht hseven hdown hreads
  exact ⟨_, congrArg Host.Outcome.next ht, rfl, hseven, congrArg Card.again hdown, congrArg Card.endState hdown, hreads⟩

/-- CP1 enabled with W9 free (R347). -/
theorem execCp1Enable_claims (dt : Nat) (hserves : mpServes s = true) (hvariant : s.variant = .sx4848) (hoff : get RG.CP1_EN 0 s = 0)
    (hfree : s.clk.w9 = .none) :
    ∃ t, exec (.cp1Enable dt) s = .next t ∧ t.mp.answer = 0 ∧ get RG.CP1_EN 0 t = 1 ∧ t.clk.w9 = .cp1 := by
  have hw9 := elapse_w9 (s := s) (by simp [hfree]) dt
  have hoff' : get RG.CP1_EN 0 (elapse dt s) = 0 := (get_elapse (by decide) dt s).trans hoff
  obtain ⟨w, l, hunits, hgiven, -, -, ht⟩ := setFields_cpEn (n := 1) (v := 1) (s := elapse dt s) (by decide)
    (by rwa [mpServes_elapse]) (by simpa using hvariant) (fun _ _ h => by simp [hw9, hfree] at h)
  have hon : get RG.CP1_EN 0 w = 1 := hgiven (RG.CP1_EN, 1) (List.mem_singleton_self (cpEn 1, 1)) rfl
  have hswitch : cardSwitch 1 (cpEn 1) (elapse dt s) w w = cardEnabled 1 w :=
    if_pos (rises_iff.mpr ⟨show get RG.CP1_EN 0 _ ≠ 1 by omega, hon⟩)
  simp only [hswitch] at ht
  obtain ⟨hclaimed, hkept⟩ := cardEnabled_cp1 w
  have hon' : get RG.CP1_EN 0 (cardEnabled 1 w) = 1 := (hkept _ (by decide)).trans hon
  generalize cardEnabled 1 w = x at ht hclaimed hon'
  exact ⟨_, congrArg Host.Outcome.next ht, rfl, hon', hclaimed⟩

/-- CP1 enabled while TM_OUT holds W9 (R58). -/
theorem execCp1Enable_conflict (dt : Nat) (hserves : mpServes s = true) (hvariant : s.variant = .sx4848) (hoff : get RG.CP1_EN 0 s = 0)
    (hheld : s.clk.w9 = .tmOut) (hfree : s.clk.w9Free = none) (hon : get RG.TM_OUT_EN 0 s = 1) :
    ∃ t, exec (.cp1Enable dt) s = .next t ∧ t.mp.answer = 6 ∧ get RG.CP1_EN 0 t = 0 ∧ t.clk.w9 = .tmOut ∧ get RG.IRQ_CONFLICT 0 t = 1 := by
  have hw9 := elapse_w9 (fun _ => ⟨hfree, hon⟩) dt
  have hoff' : get RG.CP1_EN 0 (elapse dt s) = 0 := (get_elapse (by decide) dt s).trans hoff
  refine ⟨_, congrArg Host.Outcome.next (setFields_cp1_conflict (by rwa [mpServes_elapse]) (by simpa using hvariant) hoff'
    (hw9.trans hheld)), rfl, ?_, ?_, ?_⟩
  · rw [get_mpMap, get_irq_ne (by decide), get_logEvent (by decide), hoff']
  · simpa [hw9] using hheld
  · rw [get_mpMap]
    exact get_setBits_one rfl ..

/-- A port disabled under a ready card (R349). -/
theorem execCardPortDisable_spec (dt : Nat) (hn : n < 2) (hserves : mpServes s = true) (hvariant : s.variant = .sx4848) (hen : cardEn n s = true)
    (hstate : cardState n s = 4) (hscript : (cGet n s).script = .none) :
    ∃ t, exec (.cardPortDisable dt n) s = .next t ∧ t.mp.answer = 0 ∧ cardEn n t = false ∧ cardState n t = 7 ∧
    (cGet n t).endState = 0 ∧ (cGet n t).again = false ∧ t.clk.w9 = (elapse dt s).clk.w9 := by
  have hon : get (cpEn n) 0 (elapse dt s) = 1 := (cardEn_iff ..).mp (by simpa using hen)
  obtain ⟨w, l, hunits, hgiven, -, hother, ht⟩ := setFields_cpEn (n := n) (v := 0) (s := elapse dt s) hn
    (by rwa [mpServes_elapse]) (by simpa using hvariant) (fun w hw h => by simp [rises_iff, hw] at h)
  have hoff : get (cpEn n) 0 w = 0 := (hgiven _ (List.mem_singleton_self _) (cpEn_row n).2.2.1).trans (Nat.zero_mod _)
  have hcard : cGet n w = cGet n s := (cGet_congr (by rw [hunits]) n).trans (cGet_elapse ..)
  have hstate' : cardState n w = 4 := by
    have hdirect : ∀ x ∈ wordFields 0 0x90, CD.STATE.key n ≠ x.1.key x.2 := fun x hx => by
      have hplace : ∀ x ∈ wordFields 0 0x90, x.1.direct ∧ x.2 = 0 := by decide
      obtain ⟨hlow, hzero⟩ := hplace x hx
      rw [hzero]
      exact Fld.ofCard.ne_direct rfl hlow n
    exact (hother _ _ (by rwa [(cpEn_row n).1, (cpEn_row n).2.1])).trans ((cardState_elapse ..).trans hstate)
  have hswitch : cardSwitch n (cpEn n) (elapse dt s) w w = cardDisabled n w := by
    rw [cardSwitch, if_neg (by simp [rises_iff, hoff]), if_pos (falls_iff.mpr ⟨hon, by omega⟩)]
  obtain ⟨hseven, hdown, hkept, hclk⟩ := cardDisabled_ready (n := n) (s := w) (by rw [hcard, hscript]) hstate'
  simp only [hswitch] at ht
  have hoff' : get (cpEn n) 0 (cardDisabled n w) = 0 :=
    (hkept _ _ (Fld.ofCard.ne_direct rfl (by unfold cpEn; split <;> decide) n).symm).trans hoff
  generalize cardDisabled n w = x at ht hseven hdown hclk hoff'
  refine ⟨_, congrArg Host.Outcome.next ht, rfl, Bool.eq_false_iff.mpr fun hone => ?_, hseven, congrArg Card.endState hdown,
    congrArg Card.again hdown, ?_⟩
  · exact absurd (hoff'.symm.trans ((cardEn_iff ..).mp hone)) (by decide)
  · exact (congrArg Clk.w9 hclk).trans (by rw [hunits])

end
end Sys2Proof.Machine
end

section

open Sys2Proof Sys2Proof.Machine

/-- Settles O24, clause by clause: GO, RESET, DEACT, the end of a deactivation, CP1 enabled, its CONFLICT, and a port disabled. -/
theorem cardCommandsActOnTheCard : Obligations.CardCommandsActOnTheCard := by
  refine ⟨fun dt _ _ _ _ hdir htaken => execCxGo_spec dt hdir htaken,
    fun dt _ _ _ htaken hinserted hen hstate hscript => execCardReset_spec dt htaken hinserted hen hstate hscript,
    fun dt _ _ _ htaken hstate hscript => execDeact_spec dt htaken hstate hscript, ?deactEnd,
    fun dt _ hserves hvariant hoff hfree => execCp1Enable_claims dt hserves hvariant hoff hfree,
    fun dt _ hserves hvariant hoff hheld hfree hon => execCp1Enable_conflict dt hserves hvariant hoff hheld hfree hon,
    fun dt _ _ hn hserves hvariant hen hstate hscript => execCardPortDisable_spec dt hn hserves hvariant hen hstate hscript⟩
  case deactEnd =>
    intro n s hn hstate hend hdue
    obtain ⟨t, ht, hnow, hreset, hdeact, hafter⟩ := execCardDeactivationEnd_spec hstate hend hdue
    exact ⟨t, ht, hnow, hreset, hdeact, hafter.trans (cardDeactivationEnd_spec hstate hend).2.2⟩

end

section

/-! ### The card scripts (6.7) -/

namespace Sys2Proof.Machine

section

variable {n : Nat} {s : State}

/-! #### One exchange of a script (R384, R385, R388) -/

/-- A script's exchange has run between two states. -/
structure ScriptExchanged (n wait : Nat) (r : ScriptReply) (s t : State) : Prop where
  now : t.now = s.now + wait + r.rest
  variant : t.variant = s.variant
  result : get CD.CX_RESULT n t = r.result.code
  event : get CD.EV_CX_DONE n t = 1
  script : (cGet n t).script = (cGet n s).script
  got : (cGet n t).got = (cGet n s).got
  kept : ∀ g i, g.key i ∉ exchangeKeys n → g.key i ∉ timeKeys → get g i t = get g i s

theorem scriptExchange_spec (n : Nat) (cmd : List Byte) (recorded : Bool) (wait : Nat) (r : ScriptReply) (s : State) :
    ScriptExchanged n wait r s (scriptExchange n cmd recorded wait r s) := by
  unfold scriptExchange
  dsimp only
  constructor
  case result => exact (exchangeResult_shows ..).1
  case event => exact (exchangeResult_shows ..).2
  case kept =>
    intro g i hresult htime
    rw [get_exchangeResult hresult]
    cases recorded <;> simp [get_elapse htime]
  all_goals cases recorded <;> simp [exchangeRecord, cardRecord]

/-- The verdict hangs on the tenants of the variant and on SITE_EXPECT alone. -/
theorem siteVerdict_congr {s t : State} (hvariant : t.variant = s.variant) (hexpect : get RG.SITE_EXPECT 0 t = get RG.SITE_EXPECT 0 s)
    (got : List ScriptReply) : siteVerdict got t = siteVerdict got s := by
  unfold siteVerdict tenantOk
  rw [hvariant, hexpect]

theorem ScriptExchanged.siteVerdict {wait : Nat} {r : ScriptReply} {s t : State} (h : ScriptExchanged n wait r s t) (got : List ScriptReply) :
    siteVerdict got t = siteVerdict got s := by
  refine siteVerdict_congr h.variant (h.kept RG.SITE_EXPECT 0 ?_ (by decide)) got
  rw [exchangeKeys, List.mem_cons, not_or]
  exact ⟨by decide, direct_key_not_mem (by decide) (by decide) n⟩

/-! #### What the end of a script leaves (R353) -/

/-- A script has ended between two states: READY, or on the way to FAULT. -/
structure ScriptEnded (n : Nat) (r : ScriptReply) (s t : State) : Prop where
  script : (cGet n t).script = .none
  badge : (cGet n t).badge = (cGet n s).badge
  outcome : if r.result.good then cardState n t = 4 else cardState n t = 7 ∧ (cGet n t).endState = 9
  kept : ∀ g i, g.key i ≠ CD.STATE.key n → get g i t = get g i s

theorem scriptEnd_spec (r : ScriptReply) (hstate : cardState n s = 6) : ScriptEnded n r s (scriptEnd n r s) := by
  unfold scriptEnd
  by_cases hgood : r.result.good = true
  · rw [if_pos hgood]
    exact ⟨by simp, by simp, by simp [hgood], fun g i h => get_put_ne h ..⟩
  · rw [if_neg hgood]
    obtain ⟨hseven, hcard, hkept, -⟩ := deactivate_active (n := n) (s := cMap n (fun c => { c with script := .none, got := [] }) s) 9 false
      (by simp) (cardActive_iff.mpr (by simp [hstate]))
    refine ⟨by rw [hcard]; rfl, by rw [hcard]; simp [Card.deactivating], ?_, hkept⟩
    rw [if_neg hgood]
    exact ⟨hseven, congrArg Card.endState hcard⟩

/-! #### Keys and tenants (R386, R836) -/

/-- A key beside those of the clock, of the queues and of the tenants: EN of any index, the others of an index that a byte gives. -/
abbrev BesideTenants (k : Nat) : Prop := k ∉ timeKeys ∧ (k < 134217728 ∨ 436207616 ≤ k) ∧ k % 1024 ≠ 0

/-- Between two states only tenants and the event log have changed. -/
structure TenantsChanged (s t : State) : Prop where
  cards : t.cards = s.cards
  kept : ∀ g i, BesideTenants (g.key i) → get g i t = get g i s

theorem TenantsChanged.trans {s t u : State} (h : TenantsChanged s t) (h' : TenantsChanged t u) : TenantsChanged s u :=
  ⟨h'.cards.trans h.cards, fun g i hg => (h'.kept g i hg).trans (h.kept g i hg)⟩

theorem tenantsChanged_foldl {α : Type} {f : State → α → State} (l : List α) (h : ∀ x ∈ l, ∀ a, TenantsChanged a (f a x)) (s : State) :
    TenantsChanged s (l.foldl f s) :=
  l.foldlRecOn f ⟨rfl, fun _ _ _ => rfl⟩ fun a ha x hx => ha.trans (h x hx a)

theorem BesideTenants.ne_tenant {k t : Nat} {f : Fld} (hk : BesideTenants k) (hf : f.space = 4 ∧ f.stride = 32 ∧ f.word < 32 ∧ f.lo < 32)
    (ht : t < 256) : k ≠ f.key t := by
  obtain ⟨hspace, hstride, hword, hlo⟩ := hf
  obtain ⟨-, hplace, -⟩ := hk
  simp only [Fld.key, hspace, hstride]
  omega

theorem BesideTenants.ne_en {k : Nat} (hk : BesideTenants k) (t : Nat) : k ≠ TN.EN.key t := by
  obtain ⟨-, -, hoffset⟩ := hk
  simp only [Fld.key, TN.EN]
  omega

theorem keyWrite_tenantsChanged (site : Bool) {t : Nat} (ht : t < 256) (key : List Byte) (s : State) : TenantsChanged s (keyWrite site t key s) := by
  refine ⟨by simp [keyWrite], fun g i hg => ?_⟩
  unfold keyWrite
  dsimp only
  rw [get_logEvent hg.1, get_setBits_ne (hg.ne_tenant (by decide) ht), get_put_ne (hg.ne_tenant (by decide) ht),
    get_put_ne (hg.ne_tenant (by decide) ht), get_bump_ne (hg.ne_tenant (by decide) ht), get_put_ne (hg.ne_tenant (by decide) ht)]
  rfl

theorem enableDeferred_tenantsChanged (s : State) : TenantsChanged s (enableDeferred s) := by
  have hstart : TenantsChanged s { s with sys := { s.sys with deferredTenants := [] } } := ⟨rfl, fun _ _ _ => rfl⟩
  refine hstart.trans (tenantsChanged_foldl _ (fun t _ a => ?_) _)
  split
  · exact ⟨by simp, fun g i hg => get_logEvent hg.1 ..⟩
  · exact ⟨rfl, fun g i hg => get_put_ne (hg.ne_en t) ..⟩

/-! #### The key load (R385 to R387) -/

theorem siteKey_tenant {d : List Byte} {x : Nat × List Byte} (h : siteKey d = some x) : x.1 < 256 := by
  unfold siteKey at h
  split at h
  · rw [← Option.some.inj h]
    exact BitVec.isLt _
  · cases h

/-- The keys of a verdict are for tenants that a byte gives. -/
theorem siteVerdict_keys {got : List ScriptReply} {code site serial k : Nat} {ks : List (Nat × List Byte)}
    (h : siteVerdict got s = some (code, site, serial, k, ks)) : ∀ x ∈ ks, x.1 < 256 := by
  have hkeys {rest : List ScriptReply} : ∀ x ∈ rest.filterMap fun r => (scriptData 24 r).bind siteKey, x.1 < 256 := by
    intro x hx
    obtain ⟨r, -, hr⟩ := List.mem_filterMap.mp hx
    obtain ⟨d, -, hd⟩ := Option.bind_eq_some_iff.mp hr
    exact siteKey_tenant hd
  unfold siteVerdict at h
  dsimp only at h
  (repeat' split at h) <;> cases h
  case h_2.isFalse.isFalse.isFalse.isFalse.refl => exact hkeys
  all_goals simp

theorem keyloadScript_idle (wait : Nat) (r : ScriptReply) (h : (cGet 0 s).script ≠ .keyload) : keyloadScript wait r s = s := by
  rw [keyloadScript, if_pos h]

/-- The state after the next exchange of a key load. -/
def keyloadExchanged (wait : Nat) (r : ScriptReply) (s : State) : State := scriptExchange 0 (siteCmd (cGet 0 s).got.length) false wait r s

theorem keyloadExchanged_spec (wait : Nat) (r : ScriptReply) (s : State) : ScriptExchanged 0 wait r s (keyloadExchanged wait r s) := by
  unfold keyloadExchanged
  exact scriptExchange_spec ..

theorem keyloadScript_runs {wait : Nat} {r : ScriptReply} (hscript : (cGet 0 s).script = .keyload)
    (h : siteVerdict ((cGet 0 s).got ++ [r]) s = none) :
    keyloadScript wait r s = cMap 0 (fun c => { c with got := (cGet 0 s).got ++ [r] }) (keyloadExchanged wait r s) := by
  rw [← (keyloadExchanged_spec wait r s).siteVerdict] at h
  unfold keyloadExchanged at h ⊢
  rw [keyloadScript, if_neg (by simp [hscript])]
  dsimp only
  rw [h]

/-- The keys of a key load are written, and with code 1 its site and their number (R387). -/
def keysLoaded (code site k : Nat) (ks : List (Nat × List Byte)) (s : State) : State :=
  let t := ks.foldl (fun a x => keyWrite true x.1 x.2 a) s
  if code = 1 then put RG.SITE_ID 0 site (put RG.KEYS_LOADED 0 k t) else t

theorem keyloadScript_ends {wait code site serial k : Nat} {r : ScriptReply} {ks : List (Nat × List Byte)} (hscript : (cGet 0 s).script = .keyload)
    (h : siteVerdict ((cGet 0 s).got ++ [r]) s = some (code, site, serial, k, ks)) : keyloadScript wait r s =
    enableDeferred (scriptEnd 0 r (keyLoadEnd code site serial k (keysLoaded code site k ks (keyloadExchanged wait r s)))) := by
  rw [← (keyloadExchanged_spec wait r s).siteVerdict] at h
  unfold keyloadExchanged at h ⊢
  rw [keyloadScript, if_neg (by simp [hscript])]
  dsimp only
  rw [h]
  rfl

/-- The fields that the end of a key load sets lie apart from all that the keys change. -/
theorem keysLoaded_spec {code site k : Nat} {ks : List (Nat × List Byte)} (hks : ∀ x ∈ ks, x.1 < 256) (s : State) :
    (keysLoaded code site k ks s).cards = s.cards ∧
    (∀ g i, BesideTenants (g.key i) → g.key i ≠ RG.SITE_ID.key 0 → g.key i ≠ RG.KEYS_LOADED.key 0 →
      get g i (keysLoaded code site k ks s) = get g i s) ∧
    (if code = 1 then get RG.SITE_ID 0 (keysLoaded code site k ks s) = site % 2 ^ 32 ∧
        get RG.KEYS_LOADED 0 (keysLoaded code site k ks s) = k % 2 ^ RG.KEYS_LOADED.width
      else get RG.SITE_ID 0 (keysLoaded code site k ks s) = get RG.SITE_ID 0 s ∧
        get RG.KEYS_LOADED 0 (keysLoaded code site k ks s) = get RG.KEYS_LOADED 0 s) := by
  have hwritten : TenantsChanged s (ks.foldl (fun a x => keyWrite true x.1 x.2 a) s) := by
    refine tenantsChanged_foldl ks (fun x hx a => ?_) s
    exact keyWrite_tenantsChanged true (hks x hx) x.2 a
  unfold keysLoaded
  dsimp only
  split
  · refine ⟨hwritten.cards, fun g i hg hsite hkeys => ?_, get_put_same .., ?_⟩
    · rw [get_put_ne hsite, get_put_ne hkeys, hwritten.kept g i hg]
    · rw [get_put_ne (by decide), get_put_same]
  · exact ⟨hwritten.cards, fun g i hg _ _ => hwritten.kept g i hg, hwritten.kept _ _ (by decide), hwritten.kept _ _ (by decide)⟩

theorem keyLoadEnd_spec (code site serial k : Nat) (s : State) :
    (∀ g i, g.key i ∉ timeKeys → g.key i ≠ RG.KEYLOAD_RESULT.key 0 → get g i (keyLoadEnd code site serial k s) = get g i s) ∧
    get RG.KEYLOAD_RESULT 0 (keyLoadEnd code site serial k s) = code % 2 ^ RG.KEYLOAD_RESULT.width := by
  unfold keyLoadEnd
  exact ⟨fun g i hg hresult => by rw [get_logEvent hg, get_put_ne hresult], by rw [get_logEvent (by decide), get_put_same]⟩

/-! #### The badge (R388, R389) -/

theorem badgeScript_idle (wait : Nat) (r : ScriptReply) (h : (cGet 1 s).script ≠ .badge) : badgeScript wait r s = s := by
  rw [badgeScript, if_pos h]

/-- The state after the next exchange of the badge script. -/
def badgeExchanged (wait : Nat) (r : ScriptReply) (s : State) : State :=
  scriptExchange 1 (badgeCmd (cGet 1 s).got.length) (flag RG.BADGE_RECORDS 0 s) wait r s

theorem badgeExchanged_spec (wait : Nat) (r : ScriptReply) (s : State) : ScriptExchanged 1 wait r s (badgeExchanged wait r s) := by
  unfold badgeExchanged
  exact scriptExchange_spec ..

theorem atrBadge_congr {s t : State} (hbytes : ∀ i < 9, get CX.ATR_BYTES (128 + i) t = get CX.ATR_BYTES (128 + i) s)
    (hlen : get CD.ATR_LEN 1 t = get CD.ATR_LEN 1 s) : atrBadge t = atrBadge s := by
  have hall : ((List.range 9).flatMap fun i => beBytes 4 (get CX.ATR_BYTES (128 + i) t)) =
      (List.range 9).flatMap fun i => beBytes 4 (get CX.ATR_BYTES (128 + i) s) :=
    List.flatMap_congr fun i hi => by rw [hbytes i (List.mem_range.mp hi)]
  rw [atrBadge, hall, hlen]
  rfl

/-- An exchange leaves the ATR as it was read. -/
theorem ScriptExchanged.atrBadge {wait : Nat} {r : ScriptReply} {s t : State} (h : ScriptExchanged 1 wait r s t) : atrBadge t = atrBadge s := by
  have hbytes : ∀ i < 9, CX.ATR_BYTES.key (128 + i) ∉ exchangeKeys 1 := by decide
  exact atrBadge_congr (fun i hi => h.kept _ _ (hbytes i hi) (Fld.ofCard.not_timeKeys rfl _)) (h.kept _ _ (by decide) (Fld.ofCard.not_timeKeys rfl _))

/-- The badge is stored, shown and logged (R388, R389). -/
def badgeStored (read : Option (List Byte)) (s : State) : State :=
  let num := read.getD (atrBadge s)
  let t := put RG.BADGE_LAST_HI 0 (beValue (num.take 4)) (put RG.BADGE_LAST_LO 0 (beValue (num.drop 4)) s)
  cMap 1 (fun c => { c with badge := some (num, read.isNone) })
    (logEvent 7 (if read.isNone then 2 else 0) 1 [beValue (num.take 4), beValue (num.drop 4)] t)

theorem badgeStored_spec (read : Option (List Byte)) (s : State) :
    (cGet 1 (badgeStored read s)).badge = some (read.getD (atrBadge s), read.isNone) ∧
    ∀ g i, Fld.ofCard g → get g i (badgeStored read s) = get g i s := by
  refine ⟨by simp [badgeStored], fun g i hg => ?_⟩
  unfold badgeStored
  dsimp only
  rw [get_cMap, get_logEvent_card hg, get_put_direct hg (by decide), get_put_direct hg (by decide)]

theorem badgeScript_runs {wait : Nat} {r : ScriptReply} (hscript : (cGet 1 s).script = .badge) (hgot : (cGet 1 s).got = [])
    (hdata : (scriptData 0 r).isSome = true) :
    badgeScript wait r s = cMap 1 (fun c => { c with got := [r] }) (badgeExchanged wait r s) := by
  simp [badgeScript, badgeExchanged, hscript, hgot, hdata]

theorem badgeScript_ends {wait : Nat} {r : ScriptReply} (hscript : (cGet 1 s).script = .badge) (h : (cGet 1 s).got ≠ [] ∨ scriptData 0 r = none) :
    badgeScript wait r s = scriptEnd 1 r (badgeStored (if (cGet 1 s).got = [] then none else readBadge r) (badgeExchanged wait r s)) := by
  have hends : ¬ ((cGet 1 s).got.length = 0 ∧ (scriptData 0 r).isSome = true) := by
    rcases h with h | h <;> simp [h]
  rw [badgeScript, if_neg (by simp [hscript])]
  dsimp only
  rw [if_neg hends]
  simp only [List.length_eq_zero_iff]
  rfl

/-! #### The scripts from end to end -/

theorem execKeyloadScript_runs (wait : Nat) {r : ScriptReply} (hscript : (cGet 0 s).script = .keyload)
    (hverdict : siteVerdict ((cGet 0 s).got ++ [r]) s = none) :
    ∃ t, exec (.keyloadScript wait r) s = .next t ∧ t.now = s.now + wait + r.rest ∧ (cGet 0 t).script = .keyload ∧
    (cGet 0 t).got = (cGet 0 s).got ++ [r] ∧ get CD.CX_RESULT 0 t = r.result.code ∧ get CD.EV_CX_DONE 0 t = 1 ∧
    cardState 0 t = cardState 0 s := by
  have hruns := keyloadScript_runs (wait := wait) hscript hverdict
  have hran := keyloadExchanged_spec wait r s
  generalize keyloadExchanged wait r s = x at hruns hran
  exact ⟨_, congrArg Host.Outcome.next hruns, by simp [hran.now], by simp [hran.script, hscript], by simp, by simp [hran.result],
    by simp [hran.event], hran.kept CD.STATE 0 (by decide) (by decide)⟩

theorem execKeyloadScript_ends (wait : Nat) {code site serial k : Nat} {r : ScriptReply} {ks : List (Nat × List Byte)}
    (hscript : (cGet 0 s).script = .keyload) (hstate : cardState 0 s = 6)
    (hverdict : siteVerdict ((cGet 0 s).got ++ [r]) s = some (code, site, serial, k, ks)) :
    ∃ t, exec (.keyloadScript wait r) s = .next t ∧ (cGet 0 t).script = .none ∧ get CD.CX_RESULT 0 t = r.result.code ∧
    get RG.KEYLOAD_RESULT 0 t = code % 2 ^ RG.KEYLOAD_RESULT.width ∧
    (if code = 1 then get RG.SITE_ID 0 t = site % 2 ^ 32 ∧ get RG.KEYS_LOADED 0 t = k % 2 ^ RG.KEYS_LOADED.width
      else get RG.SITE_ID 0 t = get RG.SITE_ID 0 s ∧ get RG.KEYS_LOADED 0 t = get RG.KEYS_LOADED 0 s) ∧
    (if r.result.good then cardState 0 t = 4 else cardState 0 t = 7 ∧ (cGet 0 t).endState = 9) := by
  have hends := keyloadScript_ends (wait := wait) hscript hverdict
  have hran := keyloadExchanged_spec wait r s
  generalize keyloadExchanged wait r s = x at hends hran
  obtain ⟨-, hloaded, hsite⟩ := keysLoaded_spec (code := code) (site := site) (k := k) (siteVerdict_keys hverdict) x
  generalize keysLoaded code site k ks x = y at hends hloaded hsite
  obtain ⟨hlogged, hcode⟩ := keyLoadEnd_spec code site serial k y
  generalize keyLoadEnd code site serial k y = z at hends hlogged hcode
  obtain ⟨hnone, -, houtcome, hkept⟩ := scriptEnd_spec (n := 0) (s := z) r <| calc
    get CD.STATE 0 z = get CD.STATE 0 y := hlogged _ _ (by decide) (by decide)
    _ = get CD.STATE 0 x := hloaded _ _ (by decide) (by decide) (by decide)
    _ = get CD.STATE 0 s := hran.kept _ _ (by decide) (by decide)
    _ = 6 := hstate
  obtain ⟨hcards, hshown⟩ := enableDeferred_tenantsChanged (scriptEnd 0 r z)
  have hfield {g : Fld} (hg : BesideTenants (g.key 0)) (hother : g.key 0 ≠ CD.STATE.key 0) :
      get g 0 (enableDeferred (scriptEnd 0 r z)) = get g 0 z := (hshown g 0 hg).trans (hkept g 0 hother)
  have hsiteId := (hfield (g := RG.SITE_ID) (by decide) (by decide)).trans (hlogged _ _ (by decide) (by decide))
  have hkeys := (hfield (g := RG.KEYS_LOADED) (by decide) (by decide)).trans (hlogged _ _ (by decide) (by decide))
  refine ⟨_, congrArg Host.Outcome.next hends, ?_, ?_, ?_, ?_, ?_⟩
  · rw [cGet_congr hcards, hnone]
  · rw [hfield (by decide) (by decide), hlogged _ _ (by decide) (by decide), hloaded _ _ (by decide) (by decide) (by decide), hran.result]
  · rw [hfield (by decide) (by decide), hcode]
  · rw [hsiteId, hkeys, ← hran.kept RG.SITE_ID 0 (by decide) (by decide), ← hran.kept RG.KEYS_LOADED 0 (by decide) (by decide)]
    exact hsite
  · rwa [cardState, hshown CD.STATE 0 (by decide), cGet_congr hcards]

theorem execBadgeScript_runs (wait : Nat) {r : ScriptReply} (hscript : (cGet 1 s).script = .badge) (hgot : (cGet 1 s).got = [])
    (hdata : (scriptData 0 r).isSome = true) :
    ∃ t, exec (.badgeScript wait r) s = .next t ∧ t.now = s.now + wait + r.rest ∧ (cGet 1 t).script = .badge ∧
    (cGet 1 t).got = [r] ∧ get CD.CX_RESULT 1 t = r.result.code ∧ get CD.EV_CX_DONE 1 t = 1 := by
  have hruns := badgeScript_runs (wait := wait) hscript hgot hdata
  have hran := badgeExchanged_spec wait r s
  generalize badgeExchanged wait r s = x at hruns hran
  exact ⟨_, congrArg Host.Outcome.next hruns, by simp [hran.now], by simp [hran.script, hscript], by simp, by simp [hran.result],
    by simp [hran.event]⟩

theorem execBadgeScript_ends (wait : Nat) {r : ScriptReply} (hscript : (cGet 1 s).script = .badge) (hstate : cardState 1 s = 6)
    (hends : (cGet 1 s).got ≠ [] ∨ scriptData 0 r = none) :
    ∃ t, exec (.badgeScript wait r) s = .next t ∧ (cGet 1 t).script = .none ∧ get CD.CX_RESULT 1 t = r.result.code ∧
    (cGet 1 t).badge = (let read := if (cGet 1 s).got = [] then none else readBadge r
      some (read.getD (atrBadge s), read.isNone)) ∧
    (if r.result.good then cardState 1 t = 4 else cardState 1 t = 7 ∧ (cGet 1 t).endState = 9) := by
  have hran := badgeExchanged_spec wait r s
  obtain ⟨hbadge, hstored⟩ := badgeStored_spec (if (cGet 1 s).got = [] then none else readBadge r) (badgeExchanged wait r s)
  have hstate' := (hstored CD.STATE 1 rfl).trans ((hran.kept CD.STATE 1 (by decide) (by decide)).trans hstate)
  obtain ⟨hnone, hbadge', houtcome, hkept⟩ := scriptEnd_spec r hstate'
  refine ⟨_, congrArg Host.Outcome.next (badgeScript_ends hscript hends), hnone, ?_, ?_, houtcome⟩
  · rw [hkept _ _ (by decide), hstored _ _ rfl, hran.result]
  · rw [hbadge', hbadge, hran.atrBadge]

end
end Sys2Proof.Machine

section

open Sys2Proof Sys2Proof.Machine

/-- Settles O25, clause by clause: no script, the key load as it runs and as it ends, and the badge script as it runs and as it ends. -/
theorem cardScriptsLoadKeysAndBadges : Obligations.CardScriptsLoadKeysAndBadges :=
  ⟨fun w r _ h => congrArg Host.Outcome.next (keyloadScript_idle w r h), fun w r _ h => congrArg Host.Outcome.next (badgeScript_idle w r h),
    fun w _ _ hscript hverdict => execKeyloadScript_runs w hscript hverdict,
    fun w _ _ _ _ _ _ _ hscript hstate hverdict => execKeyloadScript_ends w hscript hstate hverdict,
    fun w _ _ hscript hgot hdata => execBadgeScript_runs w hscript hgot hdata,
    fun w _ _ hscript hstate hends => execBadgeScript_ends w hscript hstate hends⟩

end
end
